-- ==== Sys2Proof/Word.lean ====
section
/-! DEFINITION. The plain word types of the model (00_scope.md R7, R8) and the sparse table type used for indexed
objects. -/
namespace Sys2Proof

/-- A byte of memory, a payload byte. -/
abbrev Byte := BitVec 8

/-- A register, a docket word, a receipt word: registers are 64 bits wide (R8). -/
abbrev Word := BitVec 64

/-- A sparse table: pairs of an index and its entry, indices strictly rising. -/
abbrev Table (α : Type) := List (Nat × α)

end Sys2Proof
end

