-- ==== Sys2Proof/Syntax.lean ====
section
/-! DEFINITION. The commands the block takes: one constructor of `Instr` per row of spec/opcode_table.json, with the
operands that the row's rule gives it. Every number is checked by WellFormed.lean; the meanings are in Machine/. -/
namespace Sys2Proof

/-- A docket of a queue: its instance, its queue index, and its ring slot (for a planned docket, the position of its
entry in the program in force, R136). -/
structure DRef where
  inst : Nat
  queue : Nat
  slot : Nat
deriving DecidableEq, Repr

/-- A PCIe function: its hatch, its physical function, and its virtual function (0 names the physical function
itself), 17_instances.md R413. -/
structure Fn where
  hatch : Nat
  pf : Nat
  vf : Nat
deriving DecidableEq, Repr

/-- What identifies a connection (R326): `vc` is the request VC, 0 to 3, or 8. -/
structure ConnKey where
  srcDev : Nat
  srcEp : Nat
  dstDev : Nat
  dstEp : Nat
  vc : Nat
deriving DecidableEq, Repr

/-- A packet of the fabric: the header H0 to H3 of R298 with the VC (and half of VC 8) and the route epoch of its cell
tags (R296), and the body bytes after the header: payload, immediate and seal trailer as R299 lays them out. -/
structure Packet where
  vc : Nat
  half : Bool
  epoch : Bool
  hops : Nat
  dstDev : Nat
  dstEp : Nat
  srcDev : Nat
  srcEp : Nat
  ptype : Nat
  last : Bool
  notify : Bool
  sealed : Bool
  retx : Bool
  void : Bool
  job : Nat
  psn : Nat
  load : Nat
  msgLen : Nat
  pidx : Nat
  seg : Nat
  h3 : Word
  body : List Byte
deriving DecidableEq, Repr

/-- A cell as it arrives at a port (R296): its 8-byte tag, its 56-byte body, whether its FEC codeword decoded, and the lane of
that codeword (R304). -/
structure Cell where
  fecOk : Bool
  tag : Word
  body : List Byte
  lane : Nat
deriving DecidableEq, Repr

/-- An Ethernet frame as it arrives (14_ethernet_management.md): its bytes from the destination MAC to the end of the
payload, the FCS received after them, and whether a PCS error fell inside it. -/
structure Frame where
  bytes : List Byte
  fcs : BitVec 32
  pcsError : Bool
deriving DecidableEq, Repr

/-- The PTP messages that the boundary clock handles (R54, R368). Times are in ns of the sender's counter; `rx` is the
device's own timestamp error in ns, within the bounds of R368. -/
inductive PtpMsg where
  /-- Sync with the master's send time and the correctionField. -/
  | sync (origin : Nat) (correction : Int)
  /-- Delay_Resp with the master's receive time of this device's Delay_Req. -/
  | delayResp (receive : Nat)
  /-- Delay_Req of a slave downstream. -/
  | delayReq (requester : Nat)
  /-- Pdelay_Req of a peer. -/
  | pdelayReq (requester : Nat)
  /-- Pdelay_Resp: the answer to a Pdelay_Req, with its receive time. -/
  | pdelayResp (receive : Nat)
  /-- Any other (general) message. -/
  | general
deriving DecidableEq, Repr

/-- The way a steward frame came (R417, R420): read at STW_REQ, or over the management port in a secured session. -/
inductive StwChannel where
  | mailbox
  | mgmtPort (session : Nat) (frame : List Byte)
deriving DecidableEq, Repr

/-- Configuration-space fields of a function that a host writes (R390, R392, R395, R403, R408, R410, R413, R416). -/
inductive CfgField where
  | memorySpaceEnable
  | busMasterEnable
  | atsEnable
  | relaxedOrdering
  | pmeEnable
  | pmeStatus
  | vfEnable
  | msixEnable
  | msixFunctionMask
  | msixEntryMask (entry : Nat)
  | maxReadRequest
  | maxPayload
deriving DecidableEq, Repr

/-- What a REGISTER_WRITE writes: a register of BAR0 by its offset (R501), of an instance page by its offset (R502), a
field of a function's configuration space, or the host's own memory (an outside agent's store, which no other row of
the table carries; log entry 5). -/
inductive WriteTarget where
  | bar0 (offset : Nat)
  | page (inst : Nat) (offset : Nat)
  | config (f : Fn) (field : CfgField)
  | hostMemory (hatch : Nat) (addr : Nat)
  | hostMap (f : Fn) (page : Nat)
deriving DecidableEq, Repr

/-- What a read of a line or a lane finds in the cells (R147, R172): nothing wrong, an error the code corrects, an
uncorrectable error that a rewrite repairs, or one that no rewrite repairs. -/
inductive Upset where
  | clean
  | correctable
  | soft
  | hard
deriving DecidableEq, Repr

/-- What a read of the galley window meets: whether it collides with a write (R181, R182), and its lane (R184). -/
structure WindowRead where
  collides : Bool
  found : Upset
deriving DecidableEq, Repr

/-- How a hatch read can fail (R394). -/
inductive ReadFailure where
  | timeout
  | abort
  | poisoned
deriving DecidableEq, Repr

/-- What a lane has suffered (R305): loss of block lock or alignment for so many ns, so many more uncorrectable codewords, or a
link fault. -/
inductive LaneCause where
  | lostLock (ns : Nat)
  | codewords (count : Nat)
  | blamed
deriving DecidableEq, Repr

/-- The three tiers (R141). -/
inductive Tier where
  | shelf
  | store
  | cellar
deriving DecidableEq, Repr

/-- One command of spec/opcode_table.json. -/
inductive Instr where
  -- the tick (03_tick.md)
  | tickEdge
  | programEntryStart
  | gateWindowOpen (port window : Nat)
  | gateWindowClose (port window : Nat)
  | deadlineExpiry (d : DRef)
  | ppsOutPulse
  | ppsInEdge
  | ptpMessageRx (port : Nat) (m : PtpMsg)
  | servoHoldover
  | holdoverLimitExpiry
  | tickArm
  | tickDisarm
  | quoinCommitTick (atValid : Bool) (atTick : BitVec 32)
  | quoinCommitNow
  | quoinCancel
  | commitNowApply
  -- queues (04_queues_rings.md)
  | qcCreate (inst queue : Nat)
  | qcDrain (inst queue : Nat)
  | qcResume (inst queue : Nat)
  | qcDestroy (inst queue : Nat)
  | qcArm (inst queue : Nat)
  | qcQuery (inst queue : Nat)
  | doorbell (inst queue : Nat)
  | scanContinue (inst queue : Nat)
  | sweepRescan (inst queue : Nat)
  | deferredScan (inst queue : Nat)
  | queueFetchError (inst queue : Nat)
  | releaseWord (inst queue : Nat) (value : Word)
  | pendingReceiptWrite (inst queue : Nat)
  -- the scheduler (15_scheduling_shaping.md)
  | schedulerGrant
  | wheelSlotBegin
  | overflowSlotMove
  | pieceFinish (d : DRef)
  | packetEligible (c : ConnKey)
  | qsCommit (inst : Nat)
  -- dockets start (05, 09, 10, 11)
  | copy (d : DRef)
  | write (d : DRef)
  | read (d : DRef)
  | send (d : DRef)
  | rawSend (d : DRef)
  | atomic (d : DRef)
  | tileCopy (d : DRef)
  | fence (d : DRef)
  | invalidate (d : DRef)
  | reduce (d : DRef)
  | transcode (d : DRef)
  | gatherReduce (d : DRef)
  | attend (d : DRef)
  | topk (d : DRef)
  | embedGather (d : DRef)
  | collOpen (d : DRef)
  | collRun (d : DRef)
  | collClose (d : DRef)
  | tallyAdd (d : DRef)
  | tallyWait (d : DRef)
  | tallyWaitPatience (d : DRef)
  -- the press and its permits (10, 20)
  | galleyAllocGrant
  | permitGrant
  | permitTimeout (d : DRef)
  | permitWindowEnd (milliwatts : Nat)
  | permitRelease (d : DRef)
  | pressBlockDispatch (unit : Nat)
  | pressBlockDone (unit : Nat)
  -- the ends of dockets (04, 05, 16)
  | docketComplete (d : DRef)
  | drainAbort (d : DRef)
  | moderationTimeout (inst queue : Nat)
  | msixUnmask (f : Fn) (entry : Option Nat)
  -- instance page commands (08, 09, 11, 18) and the manager's tables
  | tblSync (inst : Nat) (value : Word)
  | epSync (value : Word)
  | epBind (value : Word)
  | ligLoad (inst index : Nat)
  | ligClear (inst index : Nat)
  | tallyAlloc (inst index : Nat) (remoteOk : Bool)
  | tallyFree (inst index : Nat)
  | tallySet (inst index : Nat)
  | tallyRead (inst index : Nat)
  | keyLoad (inst index : Nat)
  | keyErase (inst index : Nat)
  | keyRead (inst index : Nat)
  | keySlotZeroise (inst index : Nat)
  | roceConnLoad (index : Nat)
  | roceConnClear (index : Nat)
  | routeLoad (value : Word)
  | routeReady (value : Word)
  | routeData1Write (value : Word)
  | routeDrainExpiry
  -- the galley window (07)
  | galleyWinRead (met : WindowRead)
  | galleyWinWrite (value : Word) (collides : Bool)
  | galleyCflClear
  -- faults (19)
  | ledgerAck (classes : BitVec 16)
  | fevRiWrite (value : Word)
  | faultForce (key : BitVec 16)
  | faultInject (value : Word)
  -- power states (20)
  | keepRequest
  | keepEntry
  | keepWaitExpiry
  | wakeRequest
  | idleGate
  | pressUngate
  | comparatorFire (k : Nat)
  -- the steward (17) and parked sets (06)
  | instCreate (ch : StwChannel)
  | instDestroy (ch : StwChannel)
  | instReset (ch : StwChannel)
  | instQuery (ch : StwChannel)
  | instSet (ch : StwChannel)
  | keepList (ch : StwChannel)
  | keepClaim (ch : StwChannel)
  | keepDiscard (ch : StwChannel)
  | resetClearing (inst : Nat)
  -- functions, hatches (16, 17, 23)
  | functionLevelReset (f : Fn)
  | vfEnableClear (hatch pf : Nat)
  | d3hotEntry (f : Fn)
  | d0Return (f : Fn)
  | perstAssert (hatch : Nat) (nanoseconds : Nat)
  | perstDeassert (hatch : Nat)
  | hotReset (hatch : Nat)
  | hatchLinkUp (hatch gen width : Nat)
  | hatchLinkDown (hatch : Nat)
  | heldDocketEnd (d : DRef) (interrupted : Bool)
  | holdLimitExpiry (hatch : Nat)
  | l0pRequest (hatch width : Nat)
  | l1Wake (hatch : Nat)
  | atsInvalidate (f : Fn) (page count : Nat)
  -- tiers (06) and the galley tester (07)
  | cellarLinkDown (hatch : Nat)
  | cellarLinkUp (hatch : Nat)
  | partLoss (tier : Tier) (part : Nat)
  | scrubPass (tier : Tier) (line : Nat) (primary copy : Upset)
  | backgroundClear (tier : Tier) (granule : Nat)
  -- `word` counts 64-byte galley words from GA 0, `lane` names the lane that `found` concerns, and `holder` the docket whose
  -- work the word held
  | galleyTest (word lane : Nat) (found : Upset) (column : Option Nat) (holder : Option DRef)
  -- lanes, links, cells (12)
  | laneFault (lane : Nat) (cause : LaneCause)
  | spareReq (port lane : Nat)
  | spareAck (port lane : Nat)
  | spareReqRepeat (port : Nat)
  | spareAckTimeout (port : Nat)
  | portRetrain (port : Nat)
  | peerId (port peerDev peerPort : Nat)
  | cellReceive (port : Nat) (c : Cell)
  | retry (port e : Nat)
  | retryRepeat (port : Nat)
  | packetRoute (input vc : Nat) (half : Bool) (hopClass : Nat)
  | staleDiscard (input vc : Nat) (hopClass : Nat)
  -- packets at their target (12, 13)
  | writePacket (p : Packet)
  | sendPacket (p : Packet)
  | readReq (p : Packet)
  | atomicPacket (p : Packet)
  | readResp (p : Packet)
  | atomicResp (p : Packet)
  | ack (p : Packet)
  | nak (p : Packet)
  | ackDelayExpiry (c : ConnKey)
  | rtoExpiry (c : ConnKey) (psn : Nat)
  | rnrResend (c : ConnKey) (psn : Nat)
  | connectionFail (c : ConnKey)
  | rxContextExpiry (c : ConnKey)
  | txContextExpiry (c : ConnKey)
  -- collective and sync-plane packets and timers (11)
  | collStep (p : Packet)
  | collFold (p : Packet)
  | collResult (p : Packet)
  | collPiece (p : Packet)
  | smallRun (p : Packet)
  | tallyAddPacket (p : Packet)
  | tallyDone (p : Packet)
  | join (p : Packet)
  | decide (p : Packet)
  | ready (p : Packet)
  | end_ (p : Packet)
  | close (p : Packet)
  | queryPacket (p : Packet)
  | queryAnswer (p : Packet)
  | syncAck (p : Packet)
  | joinHoldExpiry (ep key srcDev srcEp : Nat)
  | coordinatorGatherTimeout (inst handle : Nat)
  | collOpenTimeout (inst handle : Nat)
  | collRunPatience (inst handle : Nat)
  | laggardQueryTimeout (inst handle : Nat)
  -- frame mode and the management port (14)
  | frameReceive (port : Nat) (f : Frame)
  | roceSendRx (port : Nat) (f : Frame)
  | roceWriteRx (port : Nat) (f : Frame)
  | roceReadRx (port : Nat) (f : Frame)
  | roceAtomicRx (port : Nat) (f : Frame)
  | roceAckRx (port : Nat) (f : Frame)
  | roceNakRx (port : Nat) (f : Frame)
  | roceAckTimeout (index : Nat)
  | cnpRx (port : Nat) (f : Frame)
  | rawFrameRx (port : Nat) (f : Frame)
  | pfcFrameRx (port : Nat) (quanta : List (Nat × Nat))
  | pfcRepeat (port priority : Nat)
  | pfcWatchdog (port priority : Nat)
  | mgmtFrameRx (f : Frame)
  | arpRequest (targetIp senderMac senderIp : Nat)
  -- attestation (21)
  | getVersion (session : Option Nat)
  | getCapabilities (session : Option Nat) (request : List Byte)
  | negotiateAlgorithms (session : Option Nat) (request : List Byte)
  | getDigests (session : Option Nat)
  | getCertificate (session : Option Nat) (slot offset length : Nat)
  | challenge (session : Option Nat) (slot : Nat) (nonce : List Byte)
  | getMeasurements (session : Option Nat) (index : Nat) (signed : Bool) (nonce : List Byte)
  | keyExchange (request : List Byte)
  | finish (session : Nat) (requesterKey : List Byte) (request : List Byte)
  | heartbeat (session : Nat)
  | keyUpdate (session operation : Nat)
  | endSession (session : Nat)
  -- start-up (21, 23)
  | bootFirmware
  | bootForme
  | bootCertChain
  | bootPlates
  | bootDiscard
  | railsValid
  | powerOff
  | railFault (rail millivolts : Nat)
  | tempSample (celsius : List Nat)
  -- health (19)
  | aliveToggle
  | watchdogServe (spineOk clockOk : Bool)
  | watchdogExpiry
  | watchSelfcheckFail
  | ruzelMismatch (pair : Nat)
  | ruzelHeartbeatMiss (pair : Nat)
  | pressUnitFault (unit : Nat)
  | spineFlitError (stop link kind : Nat)
  | cipherSelfcheckFail (engine : Nat)
  -- registers without a row of their own, and the rest of the table
  | registerWrite (target : WriteTarget) (value : Word)
  | unimplementedOpcode (d : DRef)
  | portTrainingDone (port lanes : Nat)
  | l1Entry (hatch substate : Nat)
  | hatchRecovery (hatch : Nat)
  | cellarTrainingDone (hatch gtps : Nat) (cxlMem : Bool) (mebibytes : Nat)
  | tierTrainingDone (moduleGib rateMts : Nat) (channelsMatch : Bool)
  | deviceKeyDerived
  | twinResync (line : Nat)
  | pfcPauseExpiry (port priority : Nat)
  | roceReadResponseRx (port : Nat) (f : Frame)
  | roceRnrRetry (index : Nat)
  | responseRecordExpiry (c : ConnKey) (entry : Nat)
  | ptpMessageSend (port : Nat)
  | plcaBeaconLoss
  | mgmtCollision
deriving DecidableEq, Repr

end Sys2Proof
end

