-- ==== Sys2Proof/Decode.lean ====
section
/-! DEFINITION. Decoding of table words. Every row of spec/opcode_table.json is a command or an event of the block and
carries no bits ("fields" is empty in each of the 236 rows), so no word spells one. -/
namespace Sys2Proof

def decodeTableWord (nbits w : Nat) : Option Instr :=
  match nbits, w with
  | _, _ => none

end Sys2Proof
end

