-- ==== Sys2Proof/Machine/Bits.lean ====
section
/-! DEFINITION. Helpers over plain data: bit fields and byte order (00_scope.md R7), sparse tables kept sorted by
index, fixed lists, and byte memories in their canonical form (addresses strictly rising, no listed zero). -/
namespace Sys2Proof.Machine

/-! ### Bit fields -/

/-- FIELD[lo + len - 1 : lo] of a word, as a number. -/
def fld (w : Word) (lo len : Nat) : Nat := (w.toNat >>> lo) % 2 ^ len

/-- Bit `i` of a word. -/
def bit (w : Word) (i : Nat) : Bool := w.getLsbD i

/-- A word whose field at `lo` holds `v`, cut to `len` bits, and zero elsewhere. -/
def place (v lo len : Nat) : Word := BitVec.ofNat 64 ((v % 2 ^ len) <<< lo)

/-- A word whose bit `i` is `b`. -/
def placeBit (b : Bool) (i : Nat) : Word := if b then BitVec.ofNat 64 (2 ^ i) else 0

/-- The field of `w` at `lo` replaced by `v`. -/
def setFld (w : Word) (lo len v : Nat) : Word :=
  (w &&& ~~~(BitVec.ofNat 64 ((2 ^ len - 1) <<< lo))) ||| place v lo len

/-- Counter value after adding `n`, saturating at `len` bits. -/
def satAdd (len v n : Nat) : Nat := min (v + n) (2 ^ len - 1)

/-- W1C of a counter field of `len` bits (R150, R308): writing 1 to a bit clears it. -/
def w1c (len v written : Nat) : Nat := v &&& ((2 ^ len - 1) - written % 2 ^ len)

/-- Two's complement of a 32-bit field. -/
def int32 (n : Nat) : Int := if n % 2 ^ 32 < 2 ^ 31 then n % 2 ^ 32 else (n % 2 ^ 32 : Int) - 2 ^ 32

/-- The `len`-bit two's complement code of an integer. -/
def intCode (len : Nat) (i : Int) : Nat := (i % (2 ^ len : Int)).toNat

/-- A 64-bit word as a signed number. -/
def int64 (w : Word) : Int := w.toInt

/-! ### Bytes, little-endian (R7) -/

/-- The `n` bytes of a number, least significant first. -/
def leBytes : Nat → Nat → List Byte
  | 0, _ => []
  | n + 1, v => BitVec.ofNat 8 v :: leBytes n (v / 256)

/-- The number that bytes hold, least significant first. -/
def leNat : List Byte → Nat
  | [] => 0
  | b :: bs => b.toNat + 256 * leNat bs

/-- The number that bytes hold, most significant first (network order). -/
def beNat (bs : List Byte) : Nat := leNat bs.reverse

/-- The `n` bytes of a number, most significant first. -/
def beBytes (n v : Nat) : List Byte := (leBytes n v).reverse

/-- The 8 bytes of a word. -/
def wordBytes (w : Word) : List Byte := leBytes 8 w.toNat

/-- The word at word index `i` of a byte list. -/
def wordAt (bs : List Byte) (i : Nat) : Word := BitVec.ofNat 64 (leNat ((bs.drop (8 * i)).take 8))

/-- The first `n` words of a byte list. -/
def wordsOf (bs : List Byte) (n : Nat) : List Word := (List.range n).map (wordAt bs)

/-- The bytes of words in order. -/
def bytesOf (ws : List Word) : List Byte := ws.flatMap wordBytes

/-- Word `i` of a list of words, 0 beyond its end. -/
def wd (ws : List Word) (i : Nat) : Word := ws.getD i 0

/-! ### Fixed lists -/

/-- Replace element `i` by its image. -/
def modAt {α : Type} (l : List α) (i : Nat) (f : α → α) : List α :=
  match l, i with
  | [], _ => []
  | a :: as, 0 => f a :: as
  | a :: as, i + 1 => a :: modAt as i f

/-- Replace the first element that meets `p`. -/
def modFirst {α : Type} (l : List α) (p : α → Bool) (f : α → α) : List α :=
  match l with
  | [] => []
  | a :: as => if p a then f a :: as else a :: modFirst as p f

/-- Remove the first element that meets `p`. -/
def delFirst {α : Type} (l : List α) (p : α → Bool) : List α :=
  match l with
  | [] => []
  | a :: as => if p a then as else a :: delFirst as p

/-- Add to a list without repeats. -/
def addNew {α : Type} [DecidableEq α] (l : List α) (a : α) : List α := if a ∈ l then l else l ++ [a]

/-- The element of least key, the first of equal keys. -/
def minBy {α : Type} (key : α → Nat) : List α → Option α
  | [] => none
  | a :: as =>
    match minBy key as with
    | none => some a
    | some b => if key a ≤ key b then some a else some b

/-- Sum of a list of numbers. -/
def sumOf {α : Type} (f : α → Nat) (l : List α) : Nat := (l.map f).foldl (· + ·) 0

/-- A quotient rounded up; 0 for a divisor of 0. -/
def ceilDiv (a b : Nat) : Nat := if b = 0 then 0 else (a + b - 1) / b

/-! ### Sparse tables -/

/-- The entry at an index. -/
def tget {α : Type} : Table α → Nat → Option α
  | [], _ => none
  | (k, v) :: t, i => if k = i then some v else tget t i

/-- Write the entry at an index, keeping the indices rising. -/
def tset {α : Type} : Table α → Nat → α → Table α
  | [], i, a => [(i, a)]
  | (k, v) :: t, i, a =>
    if i < k then (i, a) :: (k, v) :: t
    else if i = k then (i, a) :: t
    else (k, v) :: tset t i a

/-- Remove the entry at an index. -/
def tdel {α : Type} (t : Table α) (i : Nat) : Table α := t.filter fun p => p.1 != i

/-- Change the entry at an index, where there is one. -/
def tmod {α : Type} (t : Table α) (i : Nat) (f : α → α) : Table α :=
  t.map fun p => if p.1 = i then (p.1, f p.2) else p

/-- Change every entry. -/
def tmap {α : Type} (t : Table α) (f : Nat → α → α) : Table α := t.map fun p => (p.1, f p.1 p.2)

/-! ### Byte memories -/

/-- A byte memory: listed bytes only; an unlisted byte reads 0 (R164, R165; log entry 3 for host memory). -/
abbrev Mem := List Host.Cell

/-- The byte at an address. -/
def rdByte : Mem → Nat → Byte
  | [], _ => 0
  | (k, v) :: m, a => if k = a then v else rdByte m a

/-- Write one byte, keeping the canonical form. -/
def wrByte : Mem → Nat → Byte → Mem
  | [], a, b => if b = 0 then [] else [(a, b)]
  | (k, v) :: m, a, b =>
    if a < k then (if b = 0 then (k, v) :: m else (a, b) :: (k, v) :: m)
    else if a = k then (if b = 0 then m else (a, b) :: m)
    else (k, v) :: wrByte m a b

/-- The `n` bytes from an address. -/
def rdBytes (m : Mem) (a : Nat) : Nat → List Byte
  | 0 => []
  | n + 1 => rdByte m a :: rdBytes m (a + 1) n

/-- Write bytes from an address on. -/
def wrBytes (m : Mem) (a : Nat) : List Byte → Mem
  | [] => m
  | b :: bs => wrBytes (wrByte m a b) (a + 1) bs

/-- Zero the range from `a` for `n` bytes. -/
def clearBytes (m : Mem) (a n : Nat) : Mem := m.filter fun c => decide (c.1 < a) || decide (a + n ≤ c.1)

/-- Canonical form from a lower bound on: addresses strictly rising, no listed zero. -/
def wfFrom : Nat → Mem → Bool
  | _, [] => true
  | lo, (k, v) :: m => decide (lo ≤ k) && decide (v ≠ 0) && wfFrom (k + 1) m

/-- The canonical form of a byte memory. -/
def Memory.wf (m : Mem) : Bool := wfFrom 0 m

end Sys2Proof.Machine
end

