-- ==== Sys2Proof/Config.lean ====
section
/-! DEFINITION. What one device fixes and the manual leaves open, and the free values: opaque constants without a body,
of which nothing can be proved but their type. -/
namespace Sys2Proof.Config

/-! ### Free values (00_scope.md R5): drawn by `State.freeCount`, log entry 4. -/

/-- A byte the manual calls undefined (R5, R18, R111, R139, R459 and their like). -/
opaque freeByte : Nat → BitVec 8

/-- A 64-bit value the manual calls undefined (R182: a window read that collides). -/
opaque freeWord : Nat → BitVec 64

/-- The 16-bit value r of stochastic rounding (R220, R221): the generator's algorithm is not given. -/
opaque stochastic : Nat → BitVec 16

/-- Error of a hardware timestamp in ns (R368, R510): the device keeps it within a bound, the value is not given. -/
opaque stampError : Nat → Int

/-- Correction of the servo at a sync interval in ns (R56, R57): the servo's law is not given, only the bound of R57. -/
opaque servoStep : Nat → Int

/-- What an IPv4 header and an RNR NAK of this device hold where the manual gives no value (R355, R357): TTL,
identification, flags with fragment offset, and the RNR timer code. -/
opaque ipTtl : Nat
opaque ipIdent : Nat → Nat
opaque ipFlags : Nat
opaque rnrTimer : Nat

/-- By how many ns posted work in the way delays a planned start: at most 1 µs (R71; log entry 107). -/
opaque yieldNs : Nat → Nat

/-- Bank cycles in which requests of a galley master were refused, and the grants of R177 among them: the timing of all
masters decides (R175 to R180; log entry 77). -/
opaque refusedCycles : Nat → Nat → Nat
opaque guardGrants : Nat → Nat → Nat

/-- Header fields of link-local packets, which only their receiver consumes (R298, R309), and the bytes of a PTP message that
R54 leaves to IEEE 1588: free by draw and position (log entry 110). -/
opaque linkField : Nat → Nat → Nat

/-- Which lane takes the blame where several have as many uncorrectable codewords (R304; log entry 39). -/
opaque blamedLane : Nat → Nat

/-- The random draw of truncated binary exponential back-off (R370). -/
opaque backoffDraw : Nat → Nat

/-! ### The special-function unit (09_press_arithmetic.md R219): free codes, which Machine/Arith.lean keeps within
2 units in the last place of the exact value, and the results stated at the ends of the domains. -/

/-- exp2 of a finite FP32 value. -/
opaque exp2 : BitVec 32 → BitVec 32

/-- Reciprocal of a finite, non-zero FP32 value. -/
opaque recip : BitVec 32 → BitVec 32

/-- log2 of a finite FP32 value above 0. -/
opaque log2 : BitVec 32 → BitVec 32

/-- Reciprocal square root of a finite FP32 value above 0. -/
opaque rsqrt : BitVec 32 → BitVec 32

/-! ### Fuses (21_startup_forme.md R480, R488, R495). -/

/-- Whether the CRC-32 of the fuses checks (R480). -/
opaque fuseCrcOk : Bool

/-- SHA-256 of the vendor key (R488). -/
opaque vendorKeyHash : List (BitVec 8)

/-- SHA-256 of the customer key; all zeros means none is provisioned (R488). -/
opaque customerKeyHash : List (BitVec 8)

/-- The policy bit CUSTOMER_ONLY (R488). -/
opaque customerOnly : Bool

/-- The fused unit map (R480): the physical press units withheld from the pool of 100. -/
opaque badUnits : List Nat

/-- The fused base MAC address (R351). -/
opaque macBase : BitVec 48

/-- The measurement digest of the boot ROM (R496). -/
opaque bootRomDigest : List (BitVec 8)

/-- The measurement digest of the fuses (R496). -/
opaque fuseDigest : List (BitVec 8)

/-- The public modulus of the device key that the procedure of FIPS 186-5 derives from the fused secret (R495). -/
opaque deviceModulus : List (BitVec 8)

/-- The SPDM signature of the device key over a transcript (R494, R495). -/
opaque deviceSign : List (BitVec 8) → List (BitVec 8)

/-- The responder's key-exchange value for a requester's (R494: FFDHE3072), drawn afresh. -/
opaque dheResponse : Nat → List (BitVec 8) → List (BitVec 8)

/-- Whether a FINISH message verifies under a session's keys (R494, DMTF SPDM 1.2). -/
opaque spdmFinishOk : Nat → List (BitVec 8) → Bool

/-- Whether the algorithms a NEGOTIATE_ALGORITHMS request offers hold those of R494 (DMTF SPDM 1.2). -/
opaque spdmAlgorithmsOk : List (BitVec 8) → Bool

/-- The public key a certificate chain's leaf certificate holds (R495; X.509, outside the manual). -/
opaque leafModulus : List (BitVec 8) → List (BitVec 8)

/-! ### What a stepping or a part fixes. -/

/-- Offsets of the capability pages after the identity page (R503: the stepping chooses them). -/
opaque capOffset : Nat → Nat

/-- CAP_VER of a capability page (R25): the manual gives no number. -/
opaque capVersion : Nat → Nat

/-- Spare rows fused per bank, by tier code 0 to 2: SPARES_LEFT at reset (R148, R150). -/
opaque fusedSpareRows : Nat → Nat

/-- The DRAM row of a line and the bank of a row, by tier code (R148): the manual gives neither mapping. -/
opaque rowOf : Nat → Nat → Nat
opaque bankOf : Nat → Nat → Nat

/-- The TAG of a message from another device is in no field of R298: free by the number of the draw (log entry 12). -/
opaque freeTag : Nat → Nat

/-- The start stamps that a collective packet carries (R283), in units of 64 ns, and the rank that owns the latest: R298 to
R301 give them no place in the packet, so they are read from its bytes by functions of which nothing is known (log
entry 29). -/
opaque stampIn : List (BitVec 8) → Nat
opaque stampRankIn : List (BitVec 8) → Nat
opaque stampFirstIn : List (BitVec 8) → Nat

/-- Whether an edge of the reference clock arrives on HREFI of a hatch within 1 ms of a deassertion of PERST_N (R509): the board's, by
the number of the draw. -/
opaque hrefEdge : Nat → Nat → Bool

/-- DETAIL of an event that holds a link's generation and width (R446): the manual gives no packing. -/
opaque linkDetail : Nat → Nat → Nat

/-- A field of a plate of a forme image (21_startup_forme.md R486): by plate ID, the plate's bytes and the field's path. The
manual names the fields and not where they stand in the bytes (log entry 50). -/
opaque plateField : Nat → List (BitVec 8) → List Nat → Nat

/-- Galley columns that the fuses repair, by bank: 8 banks for each of the 100 units, then the 64 shared banks (R186). -/
opaque fusedColumns : Nat → Nat

/-- The IPv4 address of the management port (R369): no register or plate of the manual holds it. -/
opaque mgmtIp : Nat

/-- Bodies of the SPDM CAPABILITIES and ALGORITHMS responses (R494, DMTF SPDM 1.2), beyond their headers. -/
opaque spdmCapabilities : List (BitVec 8)
opaque spdmAlgorithms : List (BitVec 8) → List (BitVec 8)

/-- The verification data of a KEY_EXCHANGE response, by the session's number and the transcript (R494, DMTF SPDM 1.2). -/
opaque spdmVerify : Nat → List (BitVec 8) → List (BitVec 8)

/-- The SPDM message that a UDP payload of port 0x4C43 carries in MCTP (R369; DMTF, outside the manual). -/
opaque mctpMessage : List (BitVec 8) → List (BitVec 8)

/-- The session of a secured message, with its plaintext; none where it does not authenticate (R369, R494). -/
opaque securedOpen : List (BitVec 8) → Option (Nat × List (BitVec 8))

/-- The public key with which the requester of a session authenticated itself (R494). -/
opaque requesterKey : Nat → List (BitVec 8)

end Sys2Proof.Config
end

