-- ==== Sys2Proof/Machine/State.lean ====
section
/-! DEFINITION. The state of one LBT-24, as plain data: every register, queue, table, memory, counter, mode and pin that
the manual gives the device (INVENTORY.md lists each with its rule and its reset value), and the queue of waiting commands.
Times are nanoseconds; a Nat that the manual gives a width is kept below that width by the operation that writes it. -/
namespace Sys2Proof.Machine

/-! ### Time, tick and quoin (03_tick.md) -/

/-- Start-up states (R479), with `off` for a device without valid rails (R472, R515). -/
inductive Startup where
  | off | powerOn | bare | loading | configuring | running | safe
deriving DecidableEq, Repr

/-- States of the time servo (R56). -/
inductive Servo where
  | free | acquiring | locked | holdover
deriving DecidableEq, Repr

/-- States of the tick generator (R58). -/
inductive Gen where
  | stopped | armed | running
deriving DecidableEq, Repr

/-- The clocks: `mono` counts ns since power-on, `ptp` is the PTP time counter in ns (R52). -/
structure Clock where
  mono : Nat
  ptp : Nat
  /-- Rate of the servo on the counter, in 10^-9, and what it has added short of 1 ns, in 10^-9 ns (R57). -/
  rate : Int
  frac : Int
deriving DecidableEq, Repr

/-- Time servo, tick generator and tick counters (R52 to R63, R72). -/
structure TimeSt where
  servo : Servo
  gen : Gen
  /-- TICK_CTRL: ARM, TICK_OUT_EN, PPS_OUT_EN, HOLDOVER_LIMIT. -/
  tickCtrl : Word
  /-- TICK_NOW. -/
  tick : Nat
  /-- PTP time of the edge of the current tick. -/
  edge : Nat
  /-- First edge of an armed generator that R58 lets run: its number n0 and its time (R59). -/
  first : Option (Nat × Nat)
  /-- OFFSET_NS. -/
  offset : Int
  /-- Consecutive sync intervals within 20 ns (R56). -/
  inRange : Nat
  /-- When the last sync message or PPS edge came. -/
  lastSync : Option Nat
  /-- When HOLDOVER was entered, and whether its limit was latched. -/
  holdSince : Option Nat
  holdLatched : Bool
  /-- What the last sync interval left of the offset it measured: nothing after a step (R56, R57). -/
  residual : Int
  /-- Receive time of the last Sync, its master's time, and the send time of the last Delay_Req (R54, R368). -/
  syncRx : Option (Nat × Nat)
  delayTx : Option Nat
  /-- Mean path delay measured by Delay_Req and Delay_Resp. -/
  pathDelay : Nat
  /-- Whole second at which PPS_OUT last pulsed. -/
  ppsSecond : Nat
  /-- MAX_SLIP, OVERRUNS, and whether the first overrun note was latched since TICK_SLIP was cleared (R72). -/
  maxSlip : Nat
  overruns : Nat
  overrunNoted : Bool
  skipped : Nat
deriving DecidableEq, Repr

/-- Registers of the tick group (R79, R80). -/
structure TickRegs where
  period : Word
  epochS : Word
  epochNs : Word
  schedSel : Word
  schedClass : Word
  routeCtrl : Word
deriving DecidableEq, Repr

/-- Registers of the commit-now group (R80). -/
structure NowRegs where
  timeCtrl : Word
  sweepCtrl : Word
  permitCtrl : Word
  wdogCtrl : Word
  faultResp : Word
deriving DecidableEq, Repr

/-- A sealed tick-group commit (R81, R82): both groups, AT_TICK, the edge it was sealed too late for, and the BAR0
offsets written since the seal. -/
structure SealedCommit where
  tick : TickRegs
  now : NowRegs
  atTick : Option Nat
  notAt : Option Nat
  since : List Nat
deriving DecidableEq, Repr

/-- Live values, shadows and commits of the SH registers (R80 to R84). -/
structure Quoin where
  tick : TickRegs
  tickShadow : TickRegs
  now : NowRegs
  nowShadow : NowRegs
  commit : Option SealedCommit
  commitNow : List NowRegs
  result : Nat
  field : Nat
  seq : Nat
  appliedTick : Nat
deriving DecidableEq, Repr

/-- A tick program entry (R64): offset in units of 64 ns, instance, queue and the 8 docket words. -/
structure Entry where
  offset : Nat
  inst : Nat
  queue : Nat
  words : List Word
deriving DecidableEq, Repr

/-- A program run that has not started its last entry (R67, R68). -/
structure ProgRun where
  entries : List Entry
  /-- Position of the next entry. -/
  next : Nat
  /-- PTP time of its edge, its tick and its delay D. -/
  edge : Nat
  tick : Nat
  delay : Nat
  /-- Start time of the entry started last. -/
  lastStart : Option Nat
  /-- Gating waits that hold the next entry (R69): instance, queue and position of each entry still waiting. -/
  gates : List DRef
  /-- The next entry is a press operation whose docket waits for its first permit (R467). -/
  asked : Bool
  /-- The edge that ended its tick (R72). -/
  endEdge : Option Nat
  /-- PTP time up to which waits at closed gates are in D (R78). -/
  waited : Nat
deriving DecidableEq, Repr

/-- A gate window of a port (R75), in units of 64 ns. -/
structure GateWindow where
  start : Nat
  length : Nat
  mask : Nat
deriving DecidableEq, Repr

/-! ### Segments, windows, tables (08_segments_windows.md) -/

/-- A segment entry, decoded (R189); for KIND 0 to 2 `target` is the tier offset of its storage (R190). -/
structure Seg where
  en : Bool
  rd : Bool
  wr : Bool
  twin : Bool
  keep : Bool
  kind : Nat
  hatch : Nat
  base : Nat
  size : Nat
  target : Nat
  rank : Nat
  window : Nat
deriving DecidableEq, Repr

/-- A window entry, decoded (R194). -/
structure Win where
  valid : Bool
  rd : Bool
  wr : Bool
  send : Bool
  atom : Bool
  sealMode : Nat
  endpoint : Nat
  keySlot : Nat
  notifyQueue : Nat
  base : Nat
  length : Nat
deriving DecidableEq, Repr

/-- An endpoint's binding and rank table (R202, R203). -/
structure Endpoint where
  valid : Bool
  inst : Nat
  job : Nat
  myRank : Nat
  rankCount : Nat
  rtAddr : Nat
  gen : Nat
  /-- Rank table entries of 4 bytes: DEVICE, ENDPOINT, VALID. -/
  ranks : Table (Nat × Nat × Bool)
deriving DecidableEq, Repr

/-- A segment of a parked set (R158), with LOST (R161). -/
structure ParkedSeg where
  index : Nat
  seg : Seg
  lost : Bool
deriving DecidableEq, Repr

/-- A parked set. -/
structure ParkedSet where
  token : Word
  segs : List ParkedSeg
deriving DecidableEq, Repr

/-! ### Dockets and queues (04_queues_rings.md, 05_dockets_receipts.md) -/

/-- The outcome of a docket (R139): what its receipt reports. -/
structure Settled where
  status : Nat
  bytes : Nat
  detail : Nat
  extra : Word
  foldDenied : Bool
  twin : Bool
deriving DecidableEq, Repr

/-- A receipt, or notification receipt (R124, R136), without its PHASE. -/
structure Receipt where
  kind : Nat
  index : Nat
  tag : Nat
  out : Settled
  late : Bool
  tickLo : Nat
  subtick : Nat
  signal : Bool
deriving DecidableEq, Repr

/-- A fetched docket (R102): its slot, the copy fetched, the tick F of the fetch. -/
structure Fetched where
  slot : Nat
  words : List Word
  tick : Int
  /-- PERMIT_CTRL of the press plate that governs it, where a new press plate replaced that one after the fetch (R15). -/
  plate : Option Word
deriving DecidableEq, Repr

/-- A key slot's key as a docket bound it (R29, R434): key, salt, mode. -/
structure BoundKey where
  slot : Nat
  key : List Byte
  salt : Nat
  mode : Nat
deriving DecidableEq, Repr

/-- Where a press docket stands in its start (R241). -/
inductive PressStage where
  /-- Waiting for shared galley room (step 2). -/
  | galley
  /-- Waiting for the permit of the next slice (step 4, R243). -/
  | permit
  /-- Its first permit is granted, and a gating wait of its program still holds its start (R67, R467). -/
  | gated
  /-- Blocks of the slice may be dispatched. -/
  | running
  /-- Every block is done. -/
  | done
deriving DecidableEq, Repr

/-- A press block in flight on a unit (R240, R244). -/
structure BlockRun where
  block : Nat
  unit : Nat
  replay : Bool
deriving DecidableEq, Repr

/-- A started press operation (R239 to R244). -/
structure PressRun where
  stage : PressStage
  /-- Order in which it reached step 2 of R241, and from its start the order of its start. -/
  order : Nat
  /-- Lists read at the start (R234), each as its elements' numbers. -/
  lists : List (List Nat)
  /-- Units among which its work is divided: n of R247, or k of a narrowed slice. -/
  n : Nat
  /-- Blocks of the whole docket; the unit that each chain of blocks is kept on (R240). -/
  blocks : Nat
  chains : Table Nat
  /-- Blocks withheld, blocks to be replayed, blocks in flight, and blocks done in the order of their completion. -/
  withheld : List BlockRun
  replays : List BlockRun
  flying : List BlockRun
  doneBlocks : List Nat
  /-- Slices of the docket, the slice in hand and the first block past it. -/
  slices : Nat
  slice : Nat
  sliceEnd : Nat
  /-- Units a narrowed permit allows (R467); 0 when not narrowed. -/
  narrowed : Nat
  /-- Shared galley held, in bytes. -/
  galley : Nat
  /-- Input bytes as they stood at the start, and how many of the writes that the device keeps in `watch` came before it
  (R235). -/
  inputs : List Byte
  mark : Nat
  /-- A list was read from a twin copy. -/
  twin : Bool
  /-- The whole output is undefined: ranges overlap (R235), or the window wrote to a unit galley in use (R188). -/
  spoiled : Bool
  /-- Re-executed once after a withdrawn galley word (R184). -/
  rerun : Bool
deriving DecidableEq, Repr

/-- A docket that has been granted, or started by a program, and has no receipt yet (R95, R374). -/
structure Run where
  slot : Nat
  words : List Word
  /-- Tick of its fetch; for a planned docket the tick of its program. -/
  fetchTick : Int
  planned : Bool
  /-- Order of start in the device. -/
  ord : Nat
  /-- Whether it has started (R374, R241), and whether the row of its opcode has run. -/
  started : Bool
  executed : Bool
  startTick : Int
  /-- Pieces of R374 in all and granted so far. -/
  pieces : Nat
  granted : Nat
  /-- Bound entries (R29): the instance's segments, the ligature entry, the key, and the binding with the rank table of its
  queue's endpoint (R33), as they were at the start. -/
  segs : List Seg
  lig : Option (List Word)
  key : Option BoundKey
  bound : Option Endpoint
  /-- Its traffic class, the queue's at its start (R371, R384). -/
  cls : Nat
  /-- Its first MALFORMED finding at the start (R51, R108), and whether that is the exhaustion of the slot it seals with. -/
  found : Option Nat
  worn : Bool
  /-- A line of it was read from a twin copy, whatever its status will be (R18, R138). -/
  twin : Bool
  /-- PERMIT_CTRL of the press plate that governs it, as for a fetched docket (R15). -/
  plate : Option Word
  /-- Settled outcome. -/
  outcome : Option Settled
  /-- Interrupted by a link-down (R399), and re-executed after ARM (R403). -/
  interrupted : Bool
  resumed : Bool
  /-- A TALLY_WAIT that found 65,536 started waits, and waits to start (R291). -/
  heldBack : Bool
  /-- The value its tally had when it was freed under a started TALLY_WAIT (R29, R290). -/
  freedTally : Option Word
  press : Option PressRun
deriving DecidableEq, Repr

/-- A recorded outcome of a HELD queue (R399). -/
structure HeldRec where
  run : Run
  out : Settled
  late : Bool
  tickLo : Nat
  subtick : Nat
deriving DecidableEq, Repr

/-- States of a queue (R90); a queue that is ABSENT has no entry in its instance's table. -/
inductive QState where
  | active | error | draining | stopped | held
deriving DecidableEq, Repr

/-- Place of a queue's next piece (R377): the slot of the wheel counted from time 0, and for the overflow wheel the time ET
in 2^-8 ns that it keeps (R384). -/
inductive Place where
  | none
  | eligible
  | timing (slot : Nat)
  | overflow (slot time : Nat)
deriving DecidableEq, Repr

/-- A late-write sweep (R103, R104): COUNT and SPACING (in ns) taken at its beginning, re-scans left, time of the next. -/
structure Sweep where
  count : Nat
  spacing : Nat
  left : Nat
  due : Nat
deriving DecidableEq, Repr

/-- An INVALIDATE hold on slots of a queue (R107): the slots, and whether the receipt was written. -/
structure SlotHold where
  slots : List Nat
  byInst : Nat
  byQueue : Nat
  bySlot : Nat
  receiptWritten : Bool
deriving DecidableEq, Repr

/-- The queue descriptor (R87). -/
structure QDesc where
  docketBase : Nat
  receiptBase : Nat
  ringCode : Nat
  v1 : Bool
  planned : Bool
  epValid : Bool
  endpoint : Nat
  depth : Nat
  sweepSel : Bool
  sweepCount : Nat
  msix : Nat
deriving DecidableEq, Repr

/-- A queue context (04_queues_rings.md), with its share and its place in the scheduler (R373 to R378) and its interrupt
moderation (R409). -/
structure Queue where
  desc : QDesc
  home : Nat
  st : QState
  heldFrom : QState
  si : Nat
  ci : Nat
  wi : Nat
  ri : Nat
  receiptFull : Bool
  badRelease : Bool
  fetchErr : Bool
  errIndex : Nat
  /-- The retired count that ERR_INDEX stands for, with its wrap bit (R109). -/
  errCount : Nat
  fetchStop : Option Nat
  /-- A scan stopped by depth or by ring room continues by itself (R102). -/
  scanWaits : Bool
  sweep : Option Sweep
  fetched : List Fetched
  runs : List Run
  /-- Retired slots ahead of CI (R95). -/
  retired : List Nat
  /-- Those of them whose docket never started (R73, R100, R107). -/
  neverStarted : List Nat
  /-- Receipts that wait for a free slot (R100), in completion order; their slots are not retired before. -/
  waiting : List Receipt
  hold : Option SlotHold
  /-- Doorbell recorded (R91, R115, R476). -/
  bell : Bool
  /-- Receipt slots reserved for notifications (R123). -/
  reserved : Nat
  record : List HeldRec
  /-- Context in the cache, and when it was last used (R115). -/
  cached : Bool
  lastUse : Nat
  share : Word
  shadow : Word
  /-- Theoretical time in 2^-8 ns and finish tag (R376, R379). -/
  tt : Nat
  tag : Nat
  place : Place
  /-- Slots of granted pieces not finished (R375), one element a piece. -/
  unfinished : List Nat
  charged : Nat
  modCfg : Word
  /-- n and t0 of R409, and when the first moderation time of the counted receipts runs out, each by the MOD_CFG it was
  written under. -/
  counted : Nat
  countedAt : Option Nat
  modDue : Option Nat
  /-- An interrupt that is due and waits for D0 or for ARM (R410, R412). -/
  dueWaits : Bool
deriving DecidableEq, Repr

/-! ### Instances (17_instances.md) -/

/-- States of an instance (R424). -/
inductive InstState where
  | absent | active | resetting
deriving DecidableEq, Repr

/-- Registers of an instance page that hold a value of their own (R502). -/
structure PageRegs where
  qcDesc : Word
  qcStatus : Word
  qcRes0 : Word
  qcRes1 : Word
  tblAddr : Word
  tblWinAddr : Word
  tblResult : Nat
  tblEntry : Nat
  tblRdSel : Word
  ligAddr : Word
  ligStatus : Word
  ligRead : Word
  qsSel : Word
  qsStatus : Word
  modSel : Word
  tallyValue : Word
  tallyStatus : Word
  collSel : Word
  keyData : List Word
  keyParam : Word
  keyCtr : Word
  keyStatus : Word
deriving DecidableEq, Repr

/-- A loaded key slot (18_cipher.md R431). -/
structure KeySlot where
  key : List Byte
  salt : Nat
  mode : Nat
  counter : Nat
  /-- Erased while dockets bound to it run (R434). -/
  erased : Bool
deriving DecidableEq, Repr

/-- A sealed share commit of an instance (R383). -/
structure SealedShares where
  shares : Table Word
  notAt : Option Nat
deriving DecidableEq, Repr

/-- States of a collective handle (R265). -/
inductive CollState where
  | opening | open | broken
deriving DecidableEq, Repr

/-- Accumulators of a chunk (R278, R279): FP32 codes, or exact integers on the integer path. -/
inductive Acc where
  | fp (codes : List (BitVec 32))
  | int (values : List Int)
deriving DecidableEq, Repr

/-- A chunk on its way (R276, R301): destination member, PTYPE, step, piece, chunk and data bytes. -/
structure ChunkMsg where
  dst : Nat
  ptype : Nat
  step : Nat
  piece : Nat
  chunk : Nat
  data : List Byte
deriving DecidableEq, Repr

/-- A chunk held in a bin of this home (R279): run, MODE and element count of its contributions, chunk, accumulators, the
members counted, the stamps seen, the encoded result once all have come, and the members it was delivered to. -/
structure BinChunk where
  run : Nat
  mode : Nat
  elements : Nat
  chunk : Nat
  acc : Acc
  from_ : List Nat
  latest : Nat
  latestBy : Nat
  earliest : Nat
  result : Option (List Byte)
  sent : List Nat
deriving DecidableEq, Repr

/-- The stamps that came with a chunk (R283). -/
structure Stamps where
  latest : Nat
  by_ : Nat
  earliest : Nat
deriving DecidableEq, Repr

/-- A chunk as it arrived. -/
structure ChunkIn where
  ptype : Nat
  step : Nat
  mode : Nat
  piece : Nat
  chunk : Nat
  elements : Nat
  run : Nat
  sender : Nat
  data : List Byte
  stamps : Stamps
deriving DecidableEq, Repr

/-- A run of a collective at this member, from its start to its end (R272 to R287). -/
structure CollRunSt where
  number : Nat
  /-- Its docket, by order of start. -/
  ord : Nat
  mode : Nat
  elements : Nat
  /-- It takes the fold path (R279). -/
  folds : Bool
  startTick : Int
  patience : Nat
  /-- The source as read at the start. -/
  srcBytes : List Byte
  /-- Chunks received: ring step, or for an all-to-all the sending member, and chunk. -/
  got : List (Nat × Nat)
  /-- Final chunks written to DST: piece and chunk. -/
  final : List (Nat × Nat)
  /-- Chunks sent to members, and rooms granted to members (R276, R313, R314). -/
  sentTo : Table Nat
  granted : Table Nat
  /-- Chunks received that wait to be forwarded, and chunks of this member's own source that wait, in order. -/
  waiting : List ChunkMsg
  own : List ChunkMsg
  latest : Nat
  latestBy : Nat
  earliest : Nat
  twin : Bool
deriving DecidableEq, Repr

/-- A collective handle (11_collectives.md). -/
structure Coll where
  st : CollState
  key : Nat
  crc : Nat
  endpoint : Nat
  job : Nat
  queue : Nat
  /-- The COLL_OPEN docket, by order of start. -/
  ord : Nat
  /-- Ranks of the members, and where each is: device and endpoint. -/
  members : List Nat
  places : List (Nat × Nat)
  index : Nat
  fmt : Nat
  op : Nat
  bins : Nat
  granted : Nat
  openTick : Int
  /-- Members whose JOIN the coordinator counted, and their grants (R268). -/
  joined : List (Nat × Bool)
  nextRun : Nat
  /-- Numbers taken by dockets whose deadline passed before their turn (R287). -/
  skipped : List Nat
  slowest : Nat
  lateBy : Nat
  runCount : Nat
  laggards : Nat
  /-- Rank whose CLOSE broke the handle, kept while OPENING (R265). -/
  brokenBy : Option Nat
  /-- ENDs kept for runs not started (R285), and what READY granted here: run, member, rooms so far (R276, R313). -/
  ends : List (Nat × Nat)
  readies : List (Nat × Nat × Nat)
  run : Option CollRunSt
  binChunks : List BinChunk
  /-- Chunks its bins have done with, by run; chunks that arrived and wait in their rooms, for a free bin or until the hatch
  of the destination takes writes again (R279, R313, R410). -/
  freed : Table Nat
  rooms : List ChunkIn
  /-- What COLL_INFO0 to 2 show: the values of the last receipt (R289). -/
  info : List Word
  /-- COLL_CLOSE dockets that wait for the outcome of the open (R288): queue and order of start. -/
  closing : List (Nat × Nat)
  /-- Laggard query: the member asked, when, and the members asked before (R284). -/
  query : Option (Nat × Nat × List Nat)
deriving DecidableEq, Repr

/-- An instance: its page, tables and objects. -/
structure Inst where
  st : InstState
  record : List Word
  /-- The record as the queue page shows it: its fields change at tick edges only while the generator runs (R503). -/
  shown : List Word
  /-- Ceilings in force by class, ceilings waiting for the edge, and the theoretical times of R381 in 2^-8 ns. -/
  ceil : List Word
  ceilNext : Option (List Word)
  ceilTT : List Nat
  /-- Share returned at the next edge (R17, R427); the clearing is done; destroyed after it. -/
  shareHeld : Bool
  clearing : Bool
  destroy : Bool
  /-- Inbound requests are refused until windows are valid again (R427). -/
  refusing : Bool
  /-- Steward answers that wait for the clearing (R420): channel, CMD and SEQ. -/
  answers : List (StwChannel × Nat × Nat)
  regs : PageRegs
  devGen : Nat
  segs : List Seg
  wins : Table Win
  ligs : Table (List Word)
  /-- Allocated tallies: index and REMOTE_OK (R290). -/
  tallies : Table Bool
  keys : Table KeySlot
  colls : Table Coll
  queues : Table Queue
  sealedShares : Option SealedShares
  resets : Nat
  missed : Nat
  late : Nat
deriving DecidableEq, Repr

/-! ### Memory (06_memory_tiers.md, 07_galley.md) -/

/-- Lines whose check fails (R149, R154): which copies fail and whether a rewrite repairs them. -/
structure BadLine where
  line : Nat
  primary : Upset
  copy : Upset
  /-- Already latched in the ledger (R447). -/
  latched : Bool
deriving DecidableEq, Repr

/-- Storage freed while dockets or messages bound to it run (R146, R193). -/
structure FreeWait where
  start : Nat
  length : Nat
  twin : Bool
deriving DecidableEq, Repr

/-- One tier: contents, touch map, errors, parts. -/
structure TierSt where
  mem : List Host.Cell
  /-- Granules of 64 KiB whose touch bit is set. -/
  touched : List Nat
  bad : List BadLine
  /-- Lines served from the copy on every later read (R154). -/
  servedCopy : List Nat
  lost : List Nat
  /-- Twin lines of a returned expander not yet resynchronised (R156). -/
  resync : List Nat
  /-- Corrections per row in the scrub period, spare rows used per bank (R148). -/
  rowCe : Table Nat
  sparesUsed : Table Nat
  freeing : List FreeWait
  ceCount : Nat
  ueCount : Nat
  twinCount : Nat
  copiesLost : Nat
  /-- Capacity found at start-up in bytes; 0 when absent or disabled. -/
  capacity : Nat
  /-- Trained and out of self-refresh. -/
  ready : Bool
deriving DecidableEq, Repr

/-- The galley and its registers (07_galley.md). -/
structure Galley where
  mem : List Host.Cell
  /-- Tally values by device tally number; copies that failed (R174, R184). -/
  tallies : Table Word
  tallyFailed : Table Nat
  /-- Soft-repair list (R185, R186): bank and column. -/
  softRepair : List (Nat × Nat)
  /-- Lanes of withdrawn working words that hold an uncorrectable error (R184), by GA / 8. -/
  badLanes : Table Upset
  withdrawn : List Nat
  disabledBanks : List Nat
  /-- Counters of refused cycles by master: LOST and GUARD (R179). -/
  conflicts : Table (Nat × Nat)
  cflFreeze : Bool
  ctrl : Word
  winAddr : Word
  winSts : Word
  /-- Free bytes of the shared working area (R241). -/
  free : Nat
deriving DecidableEq, Repr

/-- What is outside the device on the hatches: the four hosts' memories, and how their IOMMUs answer by function and page
(bit 0 and 1: reads and writes translated; bits 3:2: 1 timeout, 2 abort, 3 poisoned on a read). Log entry 5. -/
structure HostSide where
  mems : List (List Host.Cell)
  map : List (Fn × Nat × Nat)
deriving DecidableEq, Repr

/-! ### Hatches (16_hatches.md) -/

/-- States of a hatch link (HATCH_STS.LINK). -/
inductive Link where
  | down | training | up | recovery | l1 | l12
deriving DecidableEq, Repr

/-- A hatch. -/
structure Hatch where
  link : Link
  gen : Nat
  width : Nat
  /-- Width that training gave; L0p narrows `width` alone (R389). -/
  trained : Nat
  ctrl : Word
  downs : Nat
  cplTimeout : Nat
  cplAbort : Nat
  poisoned : Nat
  atsFault : Nat
  /-- Cached translations: function and page (R395). -/
  atc : List (Fn × Nat)
  downSince : Option Nat
  armed : Bool
  /-- PERST_N asserted, and since when. -/
  perst : Bool
  perstAt : Nat
  /-- When PERST_N was last deasserted, and whether no HREFI edge came within 1 ms, so that the link trains in SRIS mode from
  the device's own reference in place of common-clock mode (R509). -/
  released : Nat
  sris : Bool
  crst : Bool
  /-- HREFO drives the expander's 100 MHz reference (R509). -/
  hrefo : Bool
  /-- Bytes of the expander behind a cellar hatch; 0 when none is enabled. -/
  expander : Nat
  /-- Messages that wait for the link to return to L0 (R411): function and entry. -/
  wakeMsgs : List (Fn × Nat)
deriving DecidableEq, Repr

/-- Configuration of a function that the manual names (R390, R392, R395, R403, R408, R410, R416). -/
structure FnCfg where
  memSpace : Bool
  busMaster : Bool
  ats : Bool
  relaxed : Bool
  pmeEn : Bool
  pmeStatus : Bool
  d3 : Bool
  vfEnable : Bool
  msixEn : Bool
  msixMask : Bool
  /-- Entries of the MSI-X table whose mask bit is clear, and entries whose pending bit is set. -/
  unmasked : List Nat
  pendingBits : List Nat
  maxRead : Nat
  maxPayload : Nat
deriving DecidableEq, Repr

/-! ### Steward mailbox (17_instances.md) -/

/-- The steward mailbox and the parked sets. -/
structure Steward where
  req : Word
  resp : Word
  busy : Bool
  seq : Nat
  result : Nat
  viewSel : Word
  parked : List ParkedSet
deriving DecidableEq, Repr

/-! ### Faults (19_faults_takeover.md) -/

/-- One class of the ledger (R448). -/
structure LedgerClass where
  first : Word
  detail : Word
  top : Nat
  events : Nat
  escalations : Nat
deriving DecidableEq, Repr

/-- A fault event before escalation (R446). -/
structure Event where
  cls : Nat
  kind : Nat
  level : Nat
  source : Nat
  detail : Nat
  injected : Bool
deriving DecidableEq, Repr

/-- States of a press unit (R455). -/
inductive UnitState where
  | active | spare | reserved | retired
deriving DecidableEq, Repr

/-- A recovery in progress (R454): class, failed part, the spare reserved for it. -/
structure Recovery where
  cls : Nat
  /-- The class in which its event was latched (RECOVERING of R448). -/
  latchedIn : Nat
  part : Nat
  spare : Option Nat
  /-- The spare has entered service at an edge and replays withheld blocks (R456). -/
  entered : Bool
deriving DecidableEq, Repr

/-- Ledger, ring, recoveries, spares, watchdog, safe state. -/
structure Faults where
  ledger : List LedgerClass
  ring : Table (List Word)
  wi : Nat
  ri : Nat
  overflow : Bool
  suppressed : Nat
  lost : Nat
  seq : Nat
  /-- Times on the time counter at which level-1 events of each class were written, as far as they can still count (R447). -/
  l1Times : List (List Nat)
  recoveries : List Recovery
  units : List UnitState
  /-- ACTIVE and SPARES of the device page as of the last edge (R455, R503). -/
  shownUnits : Nat × Nat
  pairs : List UnitState
  engines : List Nat
  safeStatus : Word
  alive : Bool
  aliveAt : Nat
  aliveOn : Bool
  safeN : Bool
  wdogServed : Nat
  wdogOn : Bool
  injResult : Nat
deriving DecidableEq, Repr

/-! ### Power (20_power_watch.md) -/

/-- Power states (R472); `off` is `Startup.off`. -/
inductive PowerState where
  | active | idle | entering | keeping | leaving
deriving DecidableEq, Repr

/-- A permit held (R466): the docket, its power in mW. -/
structure Permit where
  d : DRef
  milliwatts : Nat
deriving DecidableEq, Repr

/-- A request for a permit that waits (R467), with its group. -/
structure PermitWait where
  d : DRef
  group : Nat
  since : Nat
  noted : Bool
deriving DecidableEq, Repr

/-- A comparator (R478). -/
structure Comparator where
  ctrl : Word
  value : Word
  period : Word
deriving DecidableEq, Repr

/-- The permit governor, temperature, power states and comparators. -/
structure Power where
  st : PowerState
  ctrl : Word
  result : Nat
  keepSince : Option Nat
  lastBlock : Nat
  gated : Bool
  permits : List Permit
  waits : List PermitWait
  /-- Energy in pJ of the permits held in the current window, its start, and when it was last counted (R466). -/
  windowHeld : Nat
  windowAt : Nat
  windowMark : Nat
  base : Nat
  hot : Bool
  warned : Bool
  tempMax : Nat
  /-- GRANTED in units of 0.1 pJ, WAITED, NARROWED, TIMEOUTS of this tick, and PERMIT_LAST. -/
  granted : Nat
  waited : Nat
  narrowed : Nat
  timeouts : Nat
  last : Word
  comparators : List Comparator
  /-- Function resets recorded in keeping (R512). -/
  recordedResets : List Nat
deriving DecidableEq, Repr

/-! ### Plates (21_startup_forme.md) -/

/-- A slot of the instance plate (R413). -/
structure InstSlot where
  inst : Nat
  pfPage : Bool
  hatch : Nat
  pf : Nat
  vf : Nat
  page : Nat
  msixBase : Nat
  msixCount : Nat
  hatchMask : Nat
  tallyBase : Nat
  tallySpan : Nat
deriving DecidableEq, Repr

/-- Hatch plate fields of one hatch (R387), with PF_COUNT and TotalVFs per PF (R413). -/
structure HatchPlate where
  role : Nat
  maxGen : Nat
  maxWidth : Nat
  l0pMin : Nat
  pfCount : Nat
  totalVfs : List Nat
deriving DecidableEq, Repr

/-- Port plate fields of one port (R486, R295, R312, R315, R363, R366). -/
structure PortPlate where
  /-- Lanes of the port; none when it does not exist (the port is named by its first lane). -/
  lanes : List Nat
  rate : Nat
  frame : Bool
  protect : Bool
  /-- BUF (R312): cells of a buffer, by buffer code; every hop class has one. -/
  buf : List Nat
  xon : List Nat
  xoff : List Nat
  weights : List Nat
  rawInst : Option Nat
  rawWindow : Nat
  rawSlots : Nat
  /-- Recorded peer (R308); a device number above 65,535 records none. -/
  peerDev : Nat
  peerPort : Nat
  ptpRole : Nat
  gates : List (List GateWindow)
deriving DecidableEq, Repr

/-- An entry of the route table (R316): the two words. -/
structure RouteEntry where
  w0 : Word
  w1 : Word
deriving DecidableEq, Repr

/-- The plates of a forme image, decoded (R486). -/
structure Plates where
  device : Nat
  mgrKeyHash : List Byte
  injectOk : Bool
  seg : Nat
  ucwLimit : Nat
  ports : List PortPlate
  hatches : List HatchPlate
  mgrHatch : Nat
  mgrPf : Nat
  shelfSys : Nat
  shelfTwin : Nat
  storeSys : Nat
  storeTwin : Nat
  cellarPair : Nat
  storeMinMts : Nat
  queueCap : Nat
  slots : List InstSlot
  route : Table RouteEntry
  routeCtrl : Word
  programs : List (List Entry)
  schedSel : Word
  schedClass : Word
  period : Word
  epochS : Word
  epochNs : Word
  /-- PTP role of the management port, port 48 (R54). -/
  mgmtRole : Nat
  permitCtrl : Word
  sweepCtrl : Word
  scrubCtrl : Word
  galleyCtrl : Word
  faultResp : Word
  /-- SHA-256 of each plate's bytes, plates 1 to 9 (R496, R481). -/
  digests : List (List Byte)
deriving DecidableEq, Repr

/-! ### Fabric (12_fabric_cells_routing.md) -/

/-- States of a port (PORT_STS.STATE). -/
inductive PortState where
  | down | training | up | upSpared | wrongPeer | unused
deriving DecidableEq, Repr

/-- A cell held for replay (R303). -/
structure SentCell where
  lsn : Nat
  tag : Word
  body : List Byte
deriving DecidableEq, Repr

/-- A packet whole in an input buffer (R310): its cells, when HOLD_MAX has passed since its head came (R344), the output
chosen for it (R319). -/
structure Waiting where
  p : Packet
  staleAt : Nat
  output : Option Nat
  /-- PTP time from which only a gate window kept it (R78). -/
  shutAt : Option Nat
deriving DecidableEq, Repr

/-- A packet being received cell by cell, per VC and half. -/
structure Partial where
  vc : Nat
  half : Bool
  hops : Nat
  epoch : Bool
  body : List Byte
  cells : Nat
deriving DecidableEq, Repr

/-- A fabric port: link, replay, buffers, credits, frame mode (R295 to R312, R350 to R367). -/
structure Port where
  st : PortState
  lanesUp : List Nat
  /-- Training done, so the port returns at the next edge (R307). -/
  returns : Bool
  retrainAt : Nat
  peerDev : Nat
  peerPort : Nat
  replayed : Nat
  ucw : Nat
  laneFaults : Nat
  epochDrop : Nat
  noRoute : Nat
  hopLimit : Nat
  txLsn : Nat
  replay : List SentCell
  rxLsn : Nat
  recovery : Bool
  recoverAt : Nat
  retryE : Nat
  retryCount : Nat
  /-- Free cells of the peer's buffers, and cells to return to it, by buffer code × 8 + hop class (R310). -/
  credits : Table Nat
  owed : Table Nat
  buffers : Table (List Waiting)
  partials : List Partial
  /-- Lane takeover in progress: the lane, when requested, when last sent (R306). -/
  spareReq : Option (Nat × Nat × Nat)
  spareUsed : Option Nat
  /-- The spare lane itself is out of training lock (R305). -/
  spareBad : Bool
  /-- Cells of VC 8 sent in the current 10 µs window (R294), the VC served last with the packets left of its weight, and the
  input served last (R315). -/
  syncWindow : Nat
  syncCells : Nat
  turn : Nat × Nat
  lastInput : Nat
  openWindows : List Nat
  ethCtrl : Word
  ipv4 : Nat
  fcsErr : Nat
  csumErr : Nat
  flawedDrop : Nat
  rawFull : Nat
  notMine : Nat
  roceDrop : Nat
  pfcWd : Nat
  rawCount : Nat
  /-- Pause received per priority: until when, and paused since when. -/
  pauseUntil : Table Nat
  pausedSince : Table Nat
  /-- Priorities for which PAUSE was sent, and when it repeats. -/
  pausing : Table Nat
  /-- Frames in the receive buffer, with their priorities (R365) and the timestamps of their first bytes (R363). -/
  received : List (Nat × Frame × Nat)
  /-- Frames queued to be sent: priority, bytes without FCS, and the raw docket to complete: instance, queue, order. -/
  frames : List (Nat × List Byte × Option (Nat × Nat × Nat))
  /-- The port went DOWN before its training: it returns at a tick edge (R307, R491). -/
  wasDown : Bool
  /-- Its link is trained and runs, since when, and the cells sent since (R295, R308); a PEER_ID has come. -/
  linked : Bool
  linkedAt : Nat
  cellsOut : Nat
  peerSeen : Bool
  /-- Cells of other lanes that came before their turn in LSN order (R295). -/
  ahead : List Cell
  /-- Uncorrectable codewords of the last 1 ms: lane, time, how many (R304, R305). -/
  words : List (Nat × Nat × Nat)
  /-- Packets of VC 9 that wait to leave (R309, R315). -/
  linkLocal : List Packet
deriving DecidableEq, Repr

/-- States of a route bank (R321). -/
inductive BankState where
  | idle | loading | ready | inForce | draining
deriving DecidableEq, Repr

/-- The switch core: ports, route banks, injection, ejection (R309 to R322). -/
structure Fabric where
  ports : List Port
  route0 : Table RouteEntry
  route1 : Table RouteEntry
  bank0 : BankState
  bank1 : BankState
  drainAt : Nat
  load : Word
  data0 : Word
  data1 : Word
  result : Nat
  badEntry : Nat
  nonMin : Nat
  inject : Table (List Waiting)
  /-- Packets ejected to this device and not yet consumed (R313). -/
  ejected : List Packet
  rotate : Table Nat
deriving DecidableEq, Repr

/-! ### Delivery (13_delivery_congestion.md) -/

/-- Who waits for a message that this device sent. -/
inductive Owner where
  /-- A docket, by its order of start. -/
  | docket (inst queue ord : Nat)
  | coll (inst handle : Nat)
  | reply
deriving DecidableEq, Repr

/-- A part of an aligned 8-byte word of a message's range whose other part another packet brings (R45): the word, the place of
the part and its bytes. -/
structure WordPart where
  word : Nat
  place : Nat
  bytes : List Byte
deriving DecidableEq, Repr

/-- A packet of a message being sent (R330, R339 to R343). -/
structure TxPacket where
  psn : Nat
  pidx : Nat
  sent : Bool
  lastSent : Nat
  /-- When the rto that its last sending started runs out (R341). -/
  due : Nat
  resends : Nat
  /-- Marked lost: it goes out again ahead of new packets (R341). -/
  lost : Bool
  settled : Bool
  sacked : Bool
deriving DecidableEq, Repr

/-- A message being sent (R299, R323, R521). With `src` its data is read again at each sending from that local address of
its docket's instance (R339); without, `body` holds it. A READ places its data at `dst` on arrival; without, its pieces are
kept in `data` until all are there, for a ligature or for a second message (log entry 18). -/
structure TxMsg where
  owner : Owner
  ptype : Nat
  job : Nat
  h3 : Word
  msgLen : Nat
  notify : Bool
  imm : Word
  sealKey : Option BoundKey
  segBytes : Nat
  src : Option Nat
  body : List Byte
  packets : List TxPacket
  rank : Nat
  dst : Option Nat
  /-- PIDX of the READ_RESP packets counted (R323), and the pieces kept. -/
  got : List Nat
  data : List (Nat × List Byte)
  /-- PIDX below which a READ completes with DATA_ERROR (R336), and the BYTES of its receipt where the placing of that packet
  failed here (R149). -/
  cut : Option Nat
  cutAt : Option Nat
  parts : List WordPart
  response : Option Word
  twin : Bool
  voidFrom : Option Nat
  failMem : Nat
  rnrAt : Option Nat
  /-- When its docket ends because the slot that it seals with is exhausted (R437). -/
  wornAt : Option Nat
deriving DecidableEq, Repr

/-- A send context (R326 to R330, R340, R343, R348, R349). -/
structure SendCtx where
  key : ConnKey
  nextPsn : Nat
  answered : Bool
  msgs : List TxMsg
  srtt : Option Nat
  rttvar : Nat
  samples : List (Nat × Nat)
  backoff : Nat
  /-- Rate in Mb/s. -/
  rate : Nat
  tDec : Nat
  tInc : Nat
  quietFrom : Nat
  /-- When its last packet became eligible; 0 before the first (R349). On a RoCE connection, when the next may leave. -/
  paceAt : Nat
  failAt : Option Nat
  /-- When 2 × LIFE has passed since its last packet was outstanding (R329). -/
  expires : Nat
deriving DecidableEq, Repr

/-- A message being received (R323, R324, R195). -/
structure RxMsg where
  psn : Nat
  job : Nat
  ptype : Nat
  inst : Nat
  win : Win
  seg : Option Seg
  key : Option BoundKey
  msgLen : Nat
  offset : Nat
  windowNo : Nat
  counted : Nat
  pidxs : List Nat
  void : Bool
  imm : Word
  notify : Bool
  refused : Bool
  data : List (Nat × List Byte)
  parts : List WordPart
deriving DecidableEq, Repr

/-- An entry of the response record (R337): PSN, when LIFE has passed since it was written, and the reply packet's type and
body. -/
structure RespEntry where
  psn : Nat
  count : Nat
  expires : Nat
  ptype : Nat
  body : List Byte
deriving DecidableEq, Repr

/-- A receive context (R328 to R337). -/
structure RecvCtx where
  key : ConnKey
  cum : Nat
  placed : List Nat
  settled : List Nat
  map : Bool
  sinceAck : Nat
  maxLoad : Nat
  lastSack : Nat
  ackDue : Option Nat
  record : List RespEntry
  /-- When LIFE has passed since its last packet (R329). -/
  expires : Nat
  msgs : List RxMsg
deriving DecidableEq, Repr

/-- A message of the device itself that waits for a send context to come free (R327): its connection, packets and message. -/
structure TxWait where
  key : ConnKey
  count : Nat
  msg : TxMsg
deriving DecidableEq, Repr

/-- Contexts and registers of reliable delivery. -/
structure Delivery where
  dlvCtrl : Word
  ccCtrl : Word
  retxPkts : Nat
  timeouts : Nat
  failed : Nat
  dup : Nat
  outOfWindow : Nat
  stale : Nat
  mapsFree : Nat
  rnrSent : Nat
  tx : List SendCtx
  rx : List RecvCtx
  txWaits : List TxWait
deriving DecidableEq, Repr

/-! ### Frame mode and management port (14_ethernet_management.md) -/

/-- An inbound RoCE message between its First and its Last packet (R356, R357): its opcode class (0 SEND, 6 WRITE), what it
is bound to, its length (of a WRITE), the bytes placed, and the bytes of a SEND, which are placed with its last packet. -/
structure RoceRx where
  kind : Nat
  inst : Nat
  windowNo : Nat
  win : Win
  seg : Option Seg
  offset : Nat
  total : Nat
  placed : Nat
  data : List Byte
deriving DecidableEq, Repr

/-- A RoCE connection (R354): the words of its entry and its transport state. The messages it sends stand in the send
context of its triple whose VC is 16. -/
structure RoceConn where
  words : List Word
  /-- Cleared, and kept only for what is bound to it (R29). -/
  valid : Bool
  /-- In the IBTA error state (R358). -/
  error : Bool
  /-- PSN expected next; none until the first request after LOAD (log entry 43). -/
  expPsn : Option Nat
  /-- Requests completed for the peer, and a sequence NAK sent for the gap in hand. -/
  msn : Nat
  nakSent : Bool
  /-- SENDs placed since LOAD (R357). -/
  sends : Nat
  retries : Nat
  rnrRetries : Nat
  rnrAt : Option Nat
  lastCnp : Option Nat
  rx : Option RoceRx
  /-- Atomics answered, for duplicates: PSN and old value. -/
  atomics : List (Nat × Word)
deriving DecidableEq, Repr

/-- RoCE connections and their registers, and the management port. -/
structure Ether where
  roce : Table RoceConn
  roceAddr : Word
  roceResult : Nat
  mgmtCtrl : Word
  mgmtLink : Bool
  plcaActive : Bool
  mgmtExcess : Nat
  mgmtDrop : Nat
  /-- Collisions of the frame in transmission, slots drawn at the last, and that frame (log entry 52). -/
  collisions : Nat
  mgmtQueue : List (List Byte)
deriving DecidableEq, Repr

/-! ### Scheduler, collectives, cipher, endpoints: device-wide parts -/

/-- Class rounds (R379, R380): virtual time, deficit and rotating order of each class, and the class in service. -/
structure Sched where
  virtual : List Nat
  deficit : List Nat
  rounds : List (List (Nat × Nat))
  cls : Nat
deriving DecidableEq, Repr

/-- A JOIN held at the coordinator before its open (R268). -/
structure HeldJoin where
  ep : Nat
  srcDev : Nat
  srcEp : Nat
  key : Nat
  count : Nat
  crc : Nat
  fmt : Nat
  op : Nat
  bins : Nat
  grant : Bool
  tick : Int
deriving DecidableEq, Repr

/-- Device-wide collective registers, bins and held JOINs (R268, R269, R289). -/
structure CollDev where
  lagLast : Word
  lagCount : Nat
  binsFree : Nat
  binsDenied : Nat
  joins : List HeldJoin
  /-- Collectives ended with LAGGARD whose receipt is not yet written (R289): instance, order of start, handle, rank. -/
  ended : List (Nat × Nat × Nat × Nat)
deriving DecidableEq, Repr

/-- Endpoint registers and counters without a better place (R203, R444). -/
structure Misc where
  epDesc : Word
  epResult : Nat
  epLast : Nat
  authFails : Nat
  exhausted : Nat
  alarmErases : Nat
  scrubCtrl : Word
deriving DecidableEq, Repr

/-! ### Start-up and attestation (21_startup_forme.md) -/

/-- An SPDM session (R494). -/
structure Session where
  established : Bool
  requester : List Byte
  manager : Bool
  updates : Nat
deriving DecidableEq, Repr

/-- The SPDM responder. -/
structure Spdm where
  versioned : Bool
  capable : Bool
  negotiated : Bool
  transcript : List Byte
  sessions : Table Session
  nextSession : Nat
deriving DecidableEq, Repr

/-- Replacement plates staged (R492). -/
structure Staged where
  plates : Plates
  ids : List Nat
  /-- The bank that a staged route plate was loaded into. -/
  bank : Bool
deriving DecidableEq, Repr

/-- Boot mailbox and images. -/
structure Boot where
  addr : Word
  len : Word
  firmware : Option (List Byte)
  firmwareSvn : Nat
  chain : Option (List Byte)
  forme : Option (List Byte)
  formeKey : List Byte
  staged : Option Staged
  stageBad : Bool
  busy : Bool
  result : Nat
  plate : Nat
  reason : Nat
  keptLost : Bool
  starts : Nat
  /-- When the sequence of R480 began, in ns since power-on. -/
  startedAt : Nat
  tiersTrained : Bool
  /-- Rate in MT/s that the store room trained at (R168). -/
  storeRate : Nat
  keyDerived : Bool
  /-- Tier plate in force at entry to safe state (R481), and touch maps saved. -/
  keptTier : List Byte
  /-- PERST_N interrupted a configuration (R479). -/
  waitPerst : Bool
  oldSafe : Word
  /-- Cellar hatches that still train in CONFIGURING (R489). -/
  formePending : Option Plates
deriving DecidableEq, Repr

/-! ### Pins that the board ties (23_signals_package.md R505, R506) -/

/-- A tied input: unconnected, to VSS, or to VIO. -/
inductive Tie where
  | open_ | vss | vio
deriving DecidableEq, Repr

/-- T1S_TERM and TRST_N as the board ties them. -/
structure BoardPins where
  t1sTerm : Tie
  trstN : Tie
deriving DecidableEq, Repr

/-- Both unconnected (log entry 122). -/
def BoardPins.reset : BoardPins where
  t1sTerm := .open_
  trstN := .open_

/-! ### The record of what left the device -/

/-- What left the device, in order: the model's own record, beside host memory, which holds the device's writes. -/
inductive Out where
  | msix (f : Fn) (entry : Nat)
  | pme (f : Fn)
  | zeroRead (hatch : Nat)
  | tickOut (tick : Nat)
  | ppsOut (second : Nat)
  | alive (level : Bool)
  | safeN (level : Bool)
  | clkreq (hatch : Nat)
  | crst (hatch : Nat) (level : Bool)
  | hrefo (hatch : Nat) (on : Bool)
  | l0p (hatch width : Nat)
  | atsDone (f : Fn)
  | cells (port : Nat) (p : Packet)
  | credit (port code cls cells : Nat)
  | control (port code arg : Nat)
  | replayed (port : Nat) (c : SentCell)
  | onLanes (port : Nat) (lanes : List Nat)
  | blocks (port count : Nat)
  | frame (port : Nat) (bytes : List Byte)
  | pfc (port : Nat) (quanta : List (Nat × Nat))
  | ptp (port : Nat) (m : PtpMsg)
  | train (port : Nat)
  | mgmt (bytes : List Byte)
  | steward (session : Nat) (bytes : List Byte)
  | spdm (bytes : List Byte)
  | data (w : Word)
deriving DecidableEq, Repr

/-! ### The machine -/

/-- No command of this block stops the model: every one is answered by a next state, as the manual gives every one an
effect, if only that the device discards it. The type has no constructor: no command raises a fault. -/
inductive Fault where
deriving DecidableEq, Repr

/-- Why a command has no meaning in this model. -/
inductive Refusal where
  /-- The command is not modelled yet: raised by its arm of `exec` alone; safe, the run ends there. -/
  | notModelled (mnemonic : String)
deriving DecidableEq, Repr

/-- The state of the device, the queue of waiting commands, and the model's own counters. -/
structure State where
  /-- Commands that wait, first in first out. -/
  pending : List Instr
  startup : Startup
  clk : Clock
  time : TimeSt
  quoin : Quoin
  runs : List ProgRun
  plates : Plates
  shelf : TierSt
  store : TierSt
  cellar : TierSt
  galley : Galley
  host : HostSide
  insts : Table Inst
  endpoints : Table Endpoint
  sched : Sched
  fabric : Fabric
  dlv : Delivery
  ether : Ether
  collDev : CollDev
  misc : Misc
  hatches : List Hatch
  fns : List (Fn × FnCfg)
  steward : Steward
  faults : Faults
  power : Power
  boot : Boot
  spdm : Spdm
  /-- What the board ties; no command changes it. -/
  pins : BoardPins
  /-- What left the device, oldest first. -/
  out : List Out
  /-- Number of free values drawn (log entry 4). -/
  freeCount : Nat
  /-- Number of dockets and messages started. -/
  ord : Nat
  /-- While press operations run, the ranges written since the first of them started (R235): memory (0 to 2 a tier, 3 + h the
  host of hatch h), offset and length. -/
  watch : Option (List (Nat × Nat × Nat))
deriving DecidableEq, Repr

/-! ### Reset: off, before the rails are valid (log entry 1) -/

/-- Tick-group registers at power-on (R53, R59, R321, R380, R501). -/
def TickRegs.reset : TickRegs where
  period := 40000
  epochS := 0
  epochNs := 0
  schedSel := 0
  schedClass := 0
  routeCtrl := 0x0001AAAA060001400

/-- Commit-now registers at power-on (R56, R103, R452, R463, R470). -/
def NowRegs.reset : NowRegs where
  timeCtrl := 0
  sweepCtrl := 0x00080003
  permitCtrl := 0x19000C8029E0
  wdogCtrl := 100
  faultResp := 0x0102FFFF

/-- Registers of an instance page at reset: every field 0 (R86, R197, R231, R290, R383, R432). -/
def PageRegs.reset : PageRegs where
  qcDesc := 0
  qcStatus := 0
  qcRes0 := 0
  qcRes1 := 0
  tblAddr := 0
  tblWinAddr := 0
  tblResult := 0
  tblEntry := 0
  tblRdSel := 0
  ligAddr := 0
  ligStatus := 0
  ligRead := 0
  qsSel := 0
  qsStatus := 0
  modSel := 0
  tallyValue := 0
  tallyStatus := 0
  collSel := 0
  keyData := [0, 0, 0, 0]
  keyParam := 0
  keyCtr := 0
  keyStatus := 0

/-- A segment entry of zeros: disabled (R49, R189). -/
def Seg.empty : Seg where
  en := false
  rd := false
  wr := false
  twin := false
  keep := false
  kind := 0
  hatch := 0
  base := 0
  size := 0
  target := 0
  rank := 0
  window := 0

/-- A window entry of zeros (R194, R199). -/
def Win.empty : Win where
  valid := false
  rd := false
  wr := false
  send := false
  atom := false
  sealMode := 0
  endpoint := 0
  keySlot := 0
  notifyQueue := 0
  base := 0
  length := 0

/-- An instance that is ABSENT (R424): every table empty, DEV_GEN 0. -/
def Inst.empty : Inst where
  st := .absent
  record := List.replicate 16 0
  shown := List.replicate 16 0
  ceil := [0, 0, 0, 0]
  ceilNext := none
  ceilTT := [0, 0, 0, 0]
  shareHeld := false
  clearing := false
  destroy := false
  refusing := false
  answers := []
  regs := PageRegs.reset
  devGen := 0
  segs := List.replicate 16 Seg.empty
  wins := []
  ligs := []
  tallies := []
  keys := []
  colls := []
  queues := []
  sealedShares := none
  resets := 0
  missed := 0
  late := 0

/-- A tier before its training (R141, R168): nothing found, nothing touched. -/
def TierSt.reset : TierSt where
  mem := []
  touched := []
  bad := []
  servedCopy := []
  lost := []
  resync := []
  rowCe := []
  sparesUsed := []
  freeing := []
  ceCount := 0
  ueCount := 0
  twinCount := 0
  copiesLost := 0
  capacity := 0
  ready := false

/-- A hatch at power-on (16_hatches.md, Registers; 23_signals_package.md): link down, PERST_N and CRST_N asserted. -/
def Hatch.reset : Hatch where
  link := .down
  gen := 0
  width := 0
  trained := 0
  ctrl := 0x10A
  downs := 0
  cplTimeout := 0
  cplAbort := 0
  poisoned := 0
  atsFault := 0
  atc := []
  downSince := none
  armed := false
  perst := true
  perstAt := 0
  released := 0
  sris := false
  crst := true
  hrefo := false
  expander := 0
  wakeMsgs := []

/-- Configuration of a function after its reset (R408, R410, R416): everything the host enables is off, every MSI-X entry
masked (PRESUMED, PCIe Base Specification; log entry 6). -/
def FnCfg.reset : FnCfg where
  memSpace := false
  busMaster := false
  ats := false
  relaxed := true
  pmeEn := false
  pmeStatus := false
  d3 := false
  vfEnable := false
  msixEn := false
  msixMask := false
  unmasked := []
  pendingBits := []
  maxRead := 512
  maxPayload := 128

/-- A port at power-on (12_fabric_cells_routing.md, 14_ethernet_management.md): DOWN, every field at its reset value. -/
def Port.reset : Port where
  st := .down
  lanesUp := []
  returns := false
  retrainAt := 0
  peerDev := 0
  peerPort := 0
  replayed := 0
  ucw := 0
  laneFaults := 0
  epochDrop := 0
  noRoute := 0
  hopLimit := 0
  txLsn := 0
  replay := []
  rxLsn := 0
  recovery := false
  recoverAt := 0
  retryE := 0
  retryCount := 0
  credits := []
  owed := []
  buffers := []
  partials := []
  spareReq := none
  spareUsed := none
  spareBad := false
  syncWindow := 0
  syncCells := 0
  turn := (0, 0)
  lastInput := 0
  openWindows := []
  ethCtrl := 0x05F20000
  ipv4 := 0
  fcsErr := 0
  csumErr := 0
  flawedDrop := 0
  rawFull := 0
  notMine := 0
  roceDrop := 0
  pfcWd := 0
  rawCount := 0
  pauseUntil := []
  pausedSince := []
  pausing := []
  received := []
  frames := []
  wasDown := false
  linked := false
  linkedAt := 0
  cellsOut := 0
  peerSeen := false
  ahead := []
  words := []
  linkLocal := []

/-- No plates in force (R486). -/
def Plates.empty : Plates where
  device := 0
  mgrKeyHash := []
  injectOk := false
  seg := 2
  ucwLimit := 0
  ports := []
  hatches := []
  mgrHatch := 0
  mgrPf := 0
  shelfSys := 0
  shelfTwin := 0
  storeSys := 0
  storeTwin := 0
  cellarPair := 0
  storeMinMts := 0
  queueCap := 0
  slots := []
  route := []
  routeCtrl := TickRegs.reset.routeCtrl
  programs := []
  schedSel := 0
  schedClass := 0
  period := TickRegs.reset.period
  epochS := 0
  epochNs := 0
  mgmtRole := 0
  permitCtrl := NowRegs.reset.permitCtrl
  sweepCtrl := NowRegs.reset.sweepCtrl
  scrubCtrl := 0x02101818
  galleyCtrl := 60
  faultResp := NowRegs.reset.faultResp
  digests := []

/-- A ledger class without events (R448). -/
def LedgerClass.reset : LedgerClass where
  first := 0
  detail := 0
  top := 0
  events := 0
  escalations := 0

def TimeSt.reset : TimeSt where
  servo := .free
  gen := .stopped
  tickCtrl := 0xA00
  tick := 0
  edge := 0
  first := none
  offset := 0
  inRange := 0
  lastSync := none
  holdSince := none
  holdLatched := false
  residual := 0
  syncRx := none
  delayTx := none
  pathDelay := 0
  ppsSecond := 0
  maxSlip := 0
  overruns := 0
  overrunNoted := false
  skipped := 0

def Quoin.reset : Quoin where
  tick := TickRegs.reset
  tickShadow := TickRegs.reset
  now := NowRegs.reset
  nowShadow := NowRegs.reset
  commit := none
  commitNow := []
  result := 0
  field := 0
  seq := 0
  appliedTick := 0

def Galley.reset : Galley where
  mem := []
  tallies := []
  tallyFailed := []
  softRepair := []
  badLanes := []
  withdrawn := []
  disabledBanks := []
  conflicts := []
  cflFreeze := false
  ctrl := 60
  winAddr := 0
  winSts := 0
  free := 62914560

def Fabric.reset : Fabric where
  ports := List.replicate 48 Port.reset
  route0 := []
  route1 := []
  bank0 := .inForce
  bank1 := .idle
  drainAt := 0
  load := 0
  data0 := 0
  data1 := 0
  result := 0
  badEntry := 0
  nonMin := 0
  inject := []
  ejected := []
  rotate := []

def Delivery.reset : Delivery where
  dlvCtrl := 0x00140A0882072010
  ccCtrl := 0x0000000104302810
  retxPkts := 0
  timeouts := 0
  failed := 0
  dup := 0
  outOfWindow := 0
  stale := 0
  mapsFree := 4096
  rnrSent := 0
  tx := []
  rx := []
  txWaits := []

def Ether.reset : Ether where
  roce := []
  roceAddr := 0
  roceResult := 0
  mgmtCtrl := 0x2008FF00
  mgmtLink := false
  plcaActive := false
  mgmtExcess := 0
  mgmtDrop := 0
  collisions := 0
  mgmtQueue := []

def Sched.reset : Sched where
  virtual := [0, 0, 0, 0]
  deficit := [0, 0, 0, 0]
  rounds := [[], [], [], []]
  cls := 0

def CollDev.reset : CollDev where
  lagLast := 0
  lagCount := 0
  binsFree := 1536
  binsDenied := 0
  joins := []
  ended := []

def Misc.reset : Misc where
  epDesc := 0
  epResult := 0
  epLast := 0
  authFails := 0
  exhausted := 0
  alarmErases := 0
  scrubCtrl := 0x02101818

def Steward.reset : Steward where
  req := 0
  resp := 0
  busy := false
  seq := 0
  result := 0
  viewSel := 0
  parked := []

/-- Ledger, ring and spares at power-on: 96 active press units and 4 spares, 8 active Ruzel pairs and 2 spares (R455). -/
def Faults.reset : Faults where
  ledger := List.replicate 16 LedgerClass.reset
  ring := []
  wi := 0
  ri := 0
  overflow := false
  suppressed := 0
  lost := 0
  seq := 0
  l1Times := List.replicate 16 []
  recoveries := []
  units := List.replicate 96 .active ++ List.replicate 4 .spare
  shownUnits := (96, 4)
  pairs := List.replicate 8 .active ++ List.replicate 2 .spare
  engines := []
  safeStatus := 0
  alive := false
  aliveAt := 0
  aliveOn := false
  safeN := false
  wdogServed := 0
  wdogOn := false
  injResult := 0

def Power.reset : Power where
  st := .active
  ctrl := 0x03E86400
  result := 0
  keepSince := none
  lastBlock := 0
  gated := false
  permits := []
  waits := []
  windowHeld := 0
  windowAt := 0
  windowMark := 0
  base := 0
  hot := false
  warned := false
  tempMax := 0
  granted := 0
  waited := 0
  narrowed := 0
  timeouts := 0
  last := 0
  comparators := List.replicate 8 { ctrl := 0, value := 0, period := 0 }
  recordedResets := []

def Boot.reset : Boot where
  addr := 0
  len := 0
  firmware := none
  firmwareSvn := 0
  chain := none
  forme := none
  formeKey := []
  staged := none
  stageBad := false
  busy := false
  result := 0
  plate := 0
  reason := 0
  keptLost := false
  starts := 0
  startedAt := 0
  tiersTrained := false
  storeRate := 0
  keyDerived := false
  keptTier := []
  waitPerst := false
  oldSafe := 0
  formePending := none

def Spdm.reset : Spdm where
  versioned := false
  capable := false
  negotiated := false
  transcript := []
  sessions := []
  nextSession := 0

def HostSide.reset : HostSide where
  mems := List.replicate 4 []
  map := []

/-- The device right after reset: off, no rail valid, every register at the value the manual gives for power-on (R472,
R479; log entry 1). RAILS_VALID starts the sequence of R480. -/
def State.reset : State where
  pending := []
  startup := .off
  clk := { mono := 0, ptp := 0, rate := 0, frac := 0 }
  time := TimeSt.reset
  quoin := Quoin.reset
  runs := []
  plates := Plates.empty
  shelf := TierSt.reset
  store := TierSt.reset
  cellar := TierSt.reset
  galley := Galley.reset
  host := HostSide.reset
  insts := []
  endpoints := []
  sched := Sched.reset
  fabric := Fabric.reset
  dlv := Delivery.reset
  ether := Ether.reset
  collDev := CollDev.reset
  misc := Misc.reset
  hatches := List.replicate 4 Hatch.reset
  fns := []
  steward := Steward.reset
  faults := Faults.reset
  power := Power.reset
  boot := Boot.reset
  spdm := Spdm.reset
  pins := BoardPins.reset
  out := []
  freeCount := 0
  ord := 0
  watch := none

end Sys2Proof.Machine
end

