-- ==== Sys2Proof/Machine/Clock.lean ====
section
/-! DEFINITION. Clocks, the record of what left the device, free values, and access to instances, queues and functions. -/
namespace Sys2Proof.Machine

/-! ### Clocks (log entry 2) -/

/-- Both clocks run on by `n` ns. -/
def pass (n : Nat) (s : State) : State :=
  let extra : Int := s.clk.frac + n * s.clk.rate
  { s with clk := { s.clk with
      mono := s.clk.mono + n, ptp := (s.clk.ptp + n + extra / 1000000000).toNat, frac := extra % 1000000000 } }

/-- Wait until the clock since power-on reads at least `t`. -/
def waitMono (t : Nat) (s : State) : State := pass (t - s.clk.mono) s

/-- Wait until the PTP time counter reads at least `t`. -/
def waitPtp (t : Nat) (s : State) : State :=
  let d := t - s.clk.ptp
  { s with clk := { s.clk with
      mono := s.clk.mono + (d * 1000000000 / (1000000000 + s.clk.rate)).toNat, ptp := s.clk.ptp + d } }

/-- The step on an empty queue: 1 ns passes while the device has power. -/
def idle (s : State) : State := if s.startup = .off then s else pass 1 s

/-- PERIOD_US in force, in ns (R53). -/
def period (s : State) : Nat := fld s.quoin.tick.period 0 20 * 1000

/-- The time of the next edge of a RUNNING generator (R52). -/
def nextEdge (s : State) : Nat := s.time.edge + period s

/-- TICK_SUBTICK (R59): 0 while the generator is not RUNNING. -/
def subtick (s : State) : Nat :=
  if s.time.gen = .running then (s.clk.ptp - s.time.edge) / 64 % 2 ^ 32 else 0

/-- Whether the tick generator is RUNNING. -/
def ticking (s : State) : Bool := decide (s.time.gen = .running)

/-- The number of the current tick as a signed number, for F, A and S of R59. -/
def tickNow (s : State) : Int := s.time.tick

/-! ### Output and free values -/

/-- Append to the record of what left the device. -/
def emit (o : Out) (s : State) : State := { s with out := s.out ++ [o] }

/-- `n` undefined bytes (R5, log entry 4). -/
def freeBytes (n : Nat) (s : State) : List Byte × State :=
  ((List.range n).map fun i => Config.freeByte (s.freeCount + i), { s with freeCount := s.freeCount + n })

/-- One undefined word. -/
def freeWord (s : State) : Word × State :=
  (Config.freeWord s.freeCount, { s with freeCount := s.freeCount + 1 })

/-- The next number in the order of starts. -/
def takeOrd (s : State) : Nat × State := (s.ord, { s with ord := s.ord + 1 })

/-! ### Access -/

/-- The instance of a number; one that was never created reads ABSENT. -/
def getInst (s : State) (i : Nat) : Inst := (tget s.insts i).getD Inst.empty

/-- Change an instance. -/
def modInst (i : Nat) (f : Inst → Inst) (s : State) : State :=
  { s with insts := tset s.insts i (f (getInst s i)) }

/-- Change the page registers of an instance. -/
def modRegs (i : Nat) (f : PageRegs → PageRegs) (s : State) : State :=
  modInst i (fun x => { x with regs := f x.regs }) s

/-- A queue that is not ABSENT. -/
def getQueue (s : State) (i q : Nat) : Option Queue := tget (getInst s i).queues q

/-- Change a queue, where there is one. -/
def modQueue (i q : Nat) (f : Queue → Queue) (s : State) : State :=
  { s with insts := tmod s.insts i fun x => { x with queues := tmod x.queues q f } }

/-- The instance slot of the instance plate (R413). -/
def slotOf (s : State) (i : Nat) : Option InstSlot := s.plates.slots.find? fun x => x.inst == i

/-- The function that presents an instance (R414). -/
def fnOf (s : State) (i : Nat) : Fn :=
  match slotOf s i with
  | some x => { hatch := x.hatch, pf := x.pf, vf := if x.pfPage then 0 else x.vf }
  | none => { hatch := 0, pf := 0, vf := 0 }

/-- The manager's function (R520): before the instance plate is applied, physical function 0 of hatch 0. -/
def mgrFn (s : State) : Fn := { hatch := s.plates.mgrHatch, pf := s.plates.mgrPf, vf := 0 }

/-- The configuration of a function; one never written is as after its reset. -/
def getFn (s : State) (f : Fn) : FnCfg := ((s.fns.find? fun p => p.1 == f).map (·.2)).getD FnCfg.reset

/-- Change the configuration of a function. -/
def modFn (f : Fn) (g : FnCfg → FnCfg) (s : State) : State :=
  { s with fns := if s.fns.any (fun p => p.1 == f) then s.fns.map (fun p => if p.1 == f then (f, g p.2) else p)
                  else s.fns ++ [(f, g FnCfg.reset)] }

/-- A hatch. -/
def getHatch (s : State) (h : Nat) : Hatch := s.hatches.getD h Hatch.reset

/-- Change a hatch. -/
def modHatch (h : Nat) (f : Hatch → Hatch) (s : State) : State := { s with hatches := modAt s.hatches h f }

/-- Whether a hatch can carry requests: its link is not down or in training (transparent states of R389, R390). -/
def hatchUp (s : State) (h : Nat) : Bool :=
  match (getHatch s h).link with
  | .down | .training => false
  | _ => true

/-- ROLE of a hatch (R387); before the hatch plate, hatch 0 is upstream and the rest unused (R480). -/
def role (s : State) (h : Nat) : Nat :=
  match s.plates.hatches[h]? with
  | some p => p.role
  | none => if h = 0 then 0 else 2

/-- Whether the device runs dockets: RUNNING, and not in keeping (R475, R476). -/
def running (s : State) : Bool :=
  decide (s.startup = .running) && (decide (s.power.st = .active) || decide (s.power.st = .idle) || decide (s.power.st = .entering))

/-- The keeping state (R472). -/
def inKeeping (s : State) : Bool := decide (s.startup = .running) && decide (s.power.st = .keeping)

/-- BAR0 answers with every register: from BARE on, but not in safe state (R459) nor in keeping (R476). -/
def barAnswers (s : State) : Bool :=
  decide (s.startup = .bare) || decide (s.startup = .loading) || decide (s.startup = .configuring) || running s

/-- The registers that answer in keeping too: power, ledger, event ring, time and comparators (R476). -/
def wakeAnswers (s : State) : Bool := barAnswers s || inKeeping s

/-- LEDGER_ACK and FEV_RI act in safe state too (R459). -/
def ledgerAnswers (s : State) : Bool := wakeAnswers s || decide (s.startup = .safe)

/-- Whether the watch domain has power. -/
def powered (s : State) : Bool := decide (s.startup ≠ .off)

/-- Change the time registers. -/
def modTime (f : TimeSt → TimeSt) (s : State) : State := { s with time := f s.time }

/-- Change the quoin registers. -/
def modQuoin (f : Quoin → Quoin) (s : State) : State := { s with quoin := f s.quoin }

/-- Change the fault registers. -/
def modFaults (f : Faults → Faults) (s : State) : State := { s with faults := f s.faults }

/-- Change the power registers. -/
def modPower (f : Power → Power) (s : State) : State := { s with power := f s.power }

/-- Change the galley. -/
def modGalley (f : Galley → Galley) (s : State) : State := { s with galley := f s.galley }

/-- Change the boot mailbox. -/
def modBoot (f : Boot → Boot) (s : State) : State := { s with boot := f s.boot }

/-- Change the fabric. -/
def modFabric (f : Fabric → Fabric) (s : State) : State := { s with fabric := f s.fabric }

/-- Change a port. -/
def modPort (p : Nat) (f : Port → Port) (s : State) : State :=
  { s with fabric := { s.fabric with ports := modAt s.fabric.ports p f } }

/-- A port. -/
def getPort (s : State) (p : Nat) : Port := s.fabric.ports.getD p Port.reset

/-- Change the delivery contexts and registers. -/
def modDlv (f : Delivery → Delivery) (s : State) : State := { s with dlv := f s.dlv }

/-- Change the frame-mode and management registers. -/
def modEther (f : Ether → Ether) (s : State) : State := { s with ether := f s.ether }

/-- Whether a queue plate writes ABORTED receipts (R110, R112): every plate but broadsheet. -/
def tracks (s : State) : Bool := s.plates.queueCap != 3

/-- Apply a change for each element of a list, in order. -/
def each {α : Type} (l : List α) (f : α → State → State) (s : State) : State := l.foldl (fun t a => f a t) s

/-- Apply a change when a condition holds. -/
def when_ (b : Bool) (f : State → State) (s : State) : State := if b then f s else s

/-- Every queue that is not ABSENT, with its instance and index. -/
def allQueues (s : State) : List (Nat × Nat × Queue) :=
  s.insts.flatMap fun p => p.2.queues.map fun q => (p.1, q.1, q.2)

end Sys2Proof.Machine
end

