-- ==== Sys2Proof/Machine/Crypto.lean ====
section
/-! DEFINITION. The checks and ciphers that the manual names by their standards: CRC-16 of a cell (12_fabric_cells_routing.md
R297), CRC-32 of IEEE 802.3, SHA-256, RSASSA-PSS verification (21_startup_forme.md R487, R488), AES-256-GCM and GMAC
(18_cipher.md R435 to R442). Their algorithms are taken from the standards (PRESUMED, log entry 17). -/
namespace Sys2Proof.Machine

/-! ### CRC -/

/-- One bit of a CRC-16 with generator 0x1021, most significant bit first. -/
def crc16Step (c : Nat) : Nat := if 32768 ≤ c then (2 * c % 65536) ^^^ 0x1021 else 2 * c

def crc16Byte (c : Nat) (b : Byte) : Nat :=
  (List.range 8).foldl (fun x _ => crc16Step x) (c ^^^ (b.toNat * 256))

/-- CRC-16 of R297: initial value 0xFFFF, no reflection, no final inversion. -/
def crc16 (bs : List Byte) : Nat := bs.foldl crc16Byte 0xFFFF

def crc32Step (c : Nat) : Nat := if c % 2 = 1 then (c / 2) ^^^ 0xEDB88320 else c / 2

def crc32Byte (c : Nat) (b : Byte) : Nat :=
  (List.range 8).foldl (fun x _ => crc32Step x) (c ^^^ b.toNat)

/-- CRC-32 of IEEE 802.3. -/
def crc32 (bs : List Byte) : Nat := (bs.foldl crc32Byte 0xFFFFFFFF) ^^^ 0xFFFFFFFF

/-! ### SHA-256 (FIPS 180-4)

The chaining value is one number of 256 bits and a block one of 512: a round moves the chaining value one word down, and
the block one word up with the next word of the schedule below it. -/

/-- The 64 round constants of the standard, the first in the highest 32 bits. -/
def digestConstants : Nat := 0x428a2f9871374491b5c0fbcfe9b5dba53956c25b59f111f1923f82a4ab1c5ed5d807aa9812835b01243185be550c7dc372be5d7480deb1fe9bdc06a7c19bf174e49b69c1efbe47860fc19dc6240ca1cc2de92c6f4a7484aa5cb0a9dc76f988da983e5152a831c66db00327c8bf597fc7c6e00bf3d5a7914706ca63511429296727b70a852e1b21384d2c6dfc53380d13650a7354766a0abb81c2c92e92722c85a2bfe8a1a81a664bc24b8b70c76c51a3d192e819d6990624f40e3585106aa07019a4c1161e376c082748774c34b0bcb5391c0cb34ed8aa4a5b9cca4f682e6ff3748f82ee78a5636f84c878148cc7020890befffaa4506cebbef9a3f7c67178f2

/-- Word k of a number of 32-bit words, counted from the lowest. -/
def lane32 (x k : Nat) : Nat := x / 2 ^ (32 * k) % 2 ^ 32

/-- XOR of a word's rotations by n and m with z, its third rotation or its shift. -/
def stirs (n m z x : Nat) : Nat :=
  let xx := x * 2 ^ 32 + x
  xx / 2 ^ n % 2 ^ 32 ^^^ xx / 2 ^ m % 2 ^ 32 ^^^ z

/-- The number that a round adds to word d of the chaining value, and the number it puts above word a. -/
def roundSums (c word k : Nat) : Nat × Nat :=
  let e := lane32 c 3
  let a := lane32 c 7
  let pick := (e &&& (lane32 c 2 ^^^ lane32 c 1)) ^^^ lane32 c 1
  let most := (a &&& (lane32 c 6 ||| lane32 c 5)) ||| (lane32 c 6 &&& lane32 c 5)
  let t := lane32 c 0 + stirs 6 11 ((e * 2 ^ 32 + e) / 2 ^ 25 % 2 ^ 32) e + pick + lane32 digestConstants (63 - k) + word
  (t, t + stirs 2 13 ((a * 2 ^ 32 + a) / 2 ^ 22 % 2 ^ 32) a + most)

/-- Round k on the chaining value and the block. -/
def digestRound (cb : Nat × Nat) (k : Nat) : Nat × Nat :=
  let t := roundSums cb.1 (lane32 cb.2 15) k
  let d := (lane32 cb.1 4 + t.1) % 2 ^ 32
  let fresh := stirs 17 19 (lane32 cb.2 1 / 2 ^ 10) (lane32 cb.2 1) + lane32 cb.2 6 +
    stirs 7 18 (lane32 cb.2 14 / 2 ^ 3) (lane32 cb.2 14) + lane32 cb.2 15
  (t.2 % 2 ^ 32 * 2 ^ 224 + cb.1 / 2 ^ 160 * 2 ^ 128 + (d * 2 ^ 96 + cb.1 / 2 ^ 32 % 2 ^ 96),
    cb.2 % 2 ^ 480 * 2 ^ 32 + fresh % 2 ^ 32)

/-- The chaining value after one more block: the 64 rounds, and the old value added word by word. -/
def digestBlock (c blk : Nat) : Nat :=
  let r := ((List.range 64).foldl digestRound (c, blk)).1
  (List.range 8).foldl (fun x k => x + (lane32 c k + lane32 r k) % 2 ^ 32 * 2 ^ (32 * k)) 0

/-- The chaining value after the n blocks of a padded message, itself one number. -/
def digestBlocks (message : Nat) : Nat → Nat → Nat
  | 0, c => c
  | n + 1, c => digestBlocks message n (digestBlock c (message / 2 ^ (512 * n) % 2 ^ 512))

/-- SHA-256 of a byte string: the message as a number, a one bit, zeros, and its length in bits below. -/
def sha256 (bs : List Byte) : List Byte :=
  let n := (bs.length + 72) / 64
  let m := (2 * beNat bs + 1) * 2 ^ (512 * n - 1 - 8 * bs.length) + 8 * bs.length
  beBytes 32 (digestBlocks m n
    0x6a09e667bb67ae853c6ef372a54ff53a510e527f9b05688c1f83d9ab5be0cd19)

/-! ### RSASSA-PSS with SHA-256, MGF1 and a 32-byte salt (RFC 8017) -/

/-- Modular power by squaring over the bits of the exponent, `fuel` bits. -/
def powMod (m : Nat) : Nat → Nat → Nat → Nat
  | 0, _, _ => 1 % m
  | k + 1, b, e =>
    let r := powMod m k (b * b % m) (e / 2)
    if e % 2 = 1 then b * r % m else r

/-- MGF1 with SHA-256: the first n bytes. -/
def mgf1 (seed : List Byte) (n : Nat) : List Byte :=
  ((List.range ((n + 31) / 32)).flatMap fun i => sha256 (seed ++ beBytes 4 i)).take n

def xorBytes (a b : List Byte) : List Byte := List.zipWith (fun x y => x ^^^ y) a b

/-- Clear the top bit of the first byte. -/
def clearTop : List Byte → List Byte
  | [] => []
  | b :: bs => (b &&& 0x7F) :: bs

/-- EMSA-PSS verification of an encoded message over a message hash. -/
def pssCheck (em hash : List Byte) : Bool :=
  let dbLen := em.length - 33
  let maskedDb := em.take dbLen
  let h := (em.drop dbLen).take 32
  let db := clearTop (xorBytes maskedDb (mgf1 h dbLen))
  let zeros := dbLen - 33
  em.getLast? == some 0xBC && decide (maskedDb.headD 0 < 0x80) &&
    (db.take zeros).all (· == 0) && db.getD zeros 0 == 1 &&
    h == sha256 (List.replicate 8 0 ++ hash ++ db.drop (zeros + 1))

/-- Verify a signature of a key whose modulus is given most significant byte first, exponent 65,537. -/
def rsaPssVerify (modulus signature message : List Byte) : Bool :=
  let n := beNat modulus
  let s := beNat signature
  decide (1 < n) && decide (s < n) && decide (signature.length = modulus.length) &&
    pssCheck (beBytes modulus.length (powMod n 17 s 65537)) (sha256 message)

/-! ### AES-256 (FIPS 197) -/

def sbox : List Nat :=
  [99, 124, 119, 123, 242, 107, 111, 197, 48, 1, 103, 43, 254, 215, 171, 118, 202, 130, 201, 125, 250, 89, 71, 240, 173, 212, 162, 175, 156, 164, 114, 192] ++
  [183, 253, 147, 38, 54, 63, 247, 204, 52, 165, 229, 241, 113, 216, 49, 21, 4, 199, 35, 195, 24, 150, 5, 154, 7, 18, 128, 226, 235, 39, 178, 117] ++
  [9, 131, 44, 26, 27, 110, 90, 160, 82, 59, 214, 179, 41, 227, 47, 132, 83, 209, 0, 237, 32, 252, 177, 91, 106, 203, 190, 57, 74, 76, 88, 207] ++
  [208, 239, 170, 251, 67, 77, 51, 133, 69, 249, 2, 127, 80, 60, 159, 168, 81, 163, 64, 143, 146, 157, 56, 245, 188, 182, 218, 33, 16, 255, 243, 210] ++
  [205, 12, 19, 236, 95, 151, 68, 23, 196, 167, 126, 61, 100, 93, 25, 115, 96, 129, 79, 220, 34, 42, 144, 136, 70, 238, 184, 20, 222, 94, 11, 219] ++
  [224, 50, 58, 10, 73, 6, 36, 92, 194, 211, 172, 98, 145, 149, 228, 121, 231, 200, 55, 109, 141, 213, 78, 169, 108, 86, 244, 234, 101, 122, 174, 8] ++
  [186, 120, 37, 46, 28, 166, 180, 198, 232, 221, 116, 31, 75, 189, 139, 138, 112, 62, 181, 102, 72, 3, 246, 14, 97, 53, 87, 185, 134, 193, 29, 158] ++
  [225, 248, 152, 17, 105, 217, 142, 148, 155, 30, 135, 233, 206, 85, 40, 223, 140, 161, 137, 13, 191, 230, 66, 104, 65, 153, 45, 15, 176, 84, 187, 22]

def subByte (n : Nat) : Nat := sbox.getD n 0

def xtime (n : Nat) : Nat := if 128 ≤ n then (2 * n % 256) ^^^ 0x1B else 2 * n

def xor4 (a b : List Nat) : List Nat := List.zipWith (fun x y => x ^^^ y) a b

/-- Key schedule: words of 4 bytes, newest last. -/
def aesExpand : Nat → Nat → Nat → List (List Nat) → List (List Nat)
  | 0, _, _, w => w
  | k + 1, i, rcon, w =>
    let prev := w.getD (i - 1) []
    let t := if i % 8 = 0 then xor4 (((prev.drop 1) ++ prev.take 1).map subByte) [rcon, 0, 0, 0]
      else if i % 8 = 4 then prev.map subByte else prev
    aesExpand k (i + 1) (if i % 8 = 0 then xtime rcon else rcon) (w ++ [xor4 (w.getD (i - 8) []) t])

/-- The 60 words of an AES-256 key. -/
def aesKey (key : List Byte) : List (List Nat) :=
  aesExpand 52 8 1 ((List.range 8).map fun i => ((key.drop (4 * i)).take 4).map (·.toNat))

def roundKey (w : List (List Nat)) (r : Nat) : List Nat := ((w.drop (4 * r)).take 4).flatten

/-- ShiftRows on a state in column order. -/
def shiftRows (s : List Nat) : List Nat :=
  (List.range 16).map fun i => s.getD ((i + 4 * (i % 4)) % 16) 0

def mixColumn (c : List Nat) : List Nat :=
  (List.range 4).map fun i =>
    let a := c.getD i 0
    let b := c.getD ((i + 1) % 4) 0
    xtime a ^^^ (xtime b ^^^ b) ^^^ c.getD ((i + 2) % 4) 0 ^^^ c.getD ((i + 3) % 4) 0

def mixColumns (s : List Nat) : List Nat := (List.range 4).flatMap fun i => mixColumn ((s.drop (4 * i)).take 4)

def aesRound (w : List (List Nat)) (s : List Nat) (r : Nat) : List Nat :=
  xor4 (mixColumns (shiftRows (s.map subByte))) (roundKey w r)

/-- Encrypt one block of 16 bytes. -/
def aesBlock (w : List (List Nat)) (blk : List Nat) : List Nat :=
  let s := ((List.range 13).map (· + 1)).foldl (aesRound w) (xor4 blk (roundKey w 0))
  xor4 (shiftRows (s.map subByte)) (roundKey w 14)

/-! ### GCM (SP 800-38D) -/

/-- Product in GF(2^128): bit 0 of the standard is the most significant bit of the number. -/
def gfMul : Nat → Nat → Nat → Nat → Nat
  | 0, _, _, z => z
  | k + 1, x, v, z =>
    let z1 := if x / 2 ^ k % 2 = 1 then z ^^^ v else z
    gfMul k x (if v % 2 = 1 then (v / 2) ^^^ (0xE1 * 2 ^ 120) else v / 2) z1

/-- Pad to a whole number of 16-byte blocks with zeros. -/
def pad16 (bs : List Byte) : List Byte := bs ++ List.replicate ((16 - bs.length % 16) % 16) 0

def ghashBlocks (h : Nat) : Nat → Nat → List Byte → Nat
  | 0, y, _ => y
  | n + 1, y, bs => ghashBlocks h n (gfMul 128 (y ^^^ beNat (bs.take 16)) h 0) (bs.drop 16)

def ghash (h : Nat) (bs : List Byte) : Nat := ghashBlocks h (bs.length / 16) 0 bs

def nats (bs : List Byte) : List Nat := bs.map (·.toNat)

/-- Counter-mode key stream of n blocks from a counter. -/
def keyStream (w : List (List Nat)) (iv : List Byte) : Nat → Nat → List Byte
  | 0, _ => []
  | n + 1, c => (aesBlock w (nats (iv ++ beBytes 4 c))).map (BitVec.ofNat 8) ++ keyStream w iv n (c + 1)

/-- Encrypt or decrypt in counter mode from counter 2 on. -/
def gctr (w : List (List Nat)) (iv bs : List Byte) : List Byte :=
  xorBytes bs (keyStream w iv ((bs.length + 15) / 16) 2)

/-- The 16-byte tag over additional data and ciphertext. -/
def gcmTag (w : List (List Nat)) (iv aad ct : List Byte) : List Byte :=
  let h := beNat ((aesBlock w (List.replicate 16 0)).map (BitVec.ofNat 8))
  let s := ghash h (pad16 aad ++ pad16 ct ++ beBytes 8 (aad.length * 8) ++ beBytes 8 (ct.length * 8))
  xorBytes (beBytes 16 s) (keyStream w iv 1 1)

/-- Seal: what is sent and the first 96 bits of the tag. MODE 1 encrypts, MODE 2 only authenticates (R439). -/
def sealData (mode : Nat) (key iv aad plain : List Byte) : List Byte × List Byte :=
  let w := aesKey key
  if mode = 1 then
    let ct := gctr w iv plain
    (ct, (gcmTag w iv aad ct).take 12)
  else (plain, (gcmTag w iv (aad ++ plain) []).take 12)

/-- Open: the plaintext, or none when the tag fails. -/
def openData (mode : Nat) (key iv aad body tag : List Byte) : Option (List Byte) :=
  let w := aesKey key
  if mode = 1 then
    (if (gcmTag w iv aad body).take 12 = tag then some (gctr w iv body) else none)
  else if (gcmTag w iv (aad ++ body) []).take 12 = tag then some body else none

end Sys2Proof.Machine
end

