-- ==== Sys2Proof/Machine/Arith.lean ====
section
/-! DEFINITION. Number formats, FP32 arithmetic, encoding and block scales (09_press_arithmetic.md R209 to R224), and dot
products. Values are exact dyadic numbers; each operation rounds where the manual rounds. -/
namespace Sys2Proof.Machine

/-! ### Values -/

/-- A number as the formats of R210 hold it: NaN, a signed infinity, or ± m × 2^e. -/
inductive Val where
  | nan
  | inf (neg : Bool)
  | fin (neg : Bool) (m : Nat) (e : Int)
deriving DecidableEq, Repr

def Val.zero : Val := .fin false 0 0
def Val.one : Val := .fin false 1 0

/-- The value of an integer. -/
def Val.ofInt (i : Int) : Val := .fin (decide (i < 0)) i.natAbs 0

/-- m × 2^e as an integer multiple of 2^b, for b ≤ e. -/
def alignTo (m : Nat) (e b : Int) : Nat := m * 2 ^ (e - b).toNat

/-- The signed integer multiple of 2^b. -/
def signed (neg : Bool) (n : Nat) : Int := if neg then -(n : Int) else n

/-- Exact sum (IEEE 754 special cases and signs of zero under round to nearest, R219). -/
def Val.add : Val → Val → Val
  | .nan, _ => .nan
  | _, .nan => .nan
  | .inf a, .inf b => if a = b then .inf a else .nan
  | .inf a, _ => .inf a
  | _, .inf b => .inf b
  | .fin a m e, .fin b n f =>
    let lo := min e f
    let t := signed a (alignTo m e lo) + signed b (alignTo n f lo)
    if t = 0 then .fin (a && b) 0 0 else .fin (decide (t < 0)) t.natAbs lo

/-- Exact product. -/
def Val.mul : Val → Val → Val
  | .nan, _ => .nan
  | _, .nan => .nan
  | .inf a, .inf b => .inf (xor a b)
  | .inf a, .fin b n _ => if n = 0 then .nan else .inf (xor a b)
  | .fin a m _, .inf b => if m = 0 then .nan else .inf (xor a b)
  | .fin a m e, .fin b n f => .fin (xor a b) (m * n) (e + f)

def Val.neg : Val → Val
  | .nan => .nan
  | .inf a => .inf (!a)
  | .fin a m e => .fin (!a) m e

def Val.abs : Val → Val
  | .nan => .nan
  | .inf _ => .inf false
  | .fin _ m e => .fin false m e

def Val.isNan : Val → Bool
  | .nan => true
  | _ => false

def Val.isFin : Val → Bool
  | .fin _ _ _ => true
  | _ => false

/-- Numeric order of two values that are not NaN; both zeros are equal (R223). -/
def Val.lt : Val → Val → Bool
  | .nan, _ => false
  | _, .nan => false
  | .inf a, .inf b => a && !b
  | .inf a, .fin _ _ _ => a
  | .fin _ _ _, .inf b => !b
  | .fin a m e, .fin b n f =>
    let lo := min e f
    decide (signed a (alignTo m e lo) < signed b (alignTo n f lo))

/-- Press order: NaN below everything, all NaNs equal (R223). -/
def Val.pressLt (a b : Val) : Bool := if b.isNan then false else if a.isNan then true else a.lt b

/-- MIN and MAX in press order; the first argument where they are equal. -/
def Val.pressMax (a b : Val) : Val := if a.pressLt b then b else a
def Val.pressMin (a b : Val) : Val := if b.pressLt a then b else a

/-! ### Formats (R209 to R211) -/

/-- Exponent bits, mantissa bits and bias of a floating-point element format. -/
structure FpFmt where
  ebits : Nat
  mbits : Nat
  bias : Nat
  /-- The largest exponent code holds infinity and NaN; for E4M3 only its last code is a NaN. -/
  special : Bool
  e4m3 : Bool
deriving DecidableEq, Repr

def fp32 : FpFmt := { ebits := 8, mbits := 23, bias := 127, special := true, e4m3 := false }
def bf16 : FpFmt := { ebits := 8, mbits := 7, bias := 127, special := true, e4m3 := false }
def fp16 : FpFmt := { ebits := 5, mbits := 10, bias := 15, special := true, e4m3 := false }
def e4m3 : FpFmt := { ebits := 4, mbits := 3, bias := 7, special := false, e4m3 := true }
def e5m2 : FpFmt := { ebits := 5, mbits := 2, bias := 15, special := true, e4m3 := false }
def e2m3 : FpFmt := { ebits := 2, mbits := 3, bias := 1, special := false, e4m3 := false }
def e3m2 : FpFmt := { ebits := 3, mbits := 2, bias := 3, special := false, e4m3 := false }
def e2m1 : FpFmt := { ebits := 2, mbits := 1, bias := 1, special := false, e4m3 := false }

/-- The element format of a format code; none for the integer formats. -/
def fpOf (code : Nat) : Option FpFmt :=
  match code with
  | 0 => some fp32
  | 1 => some bf16
  | 2 => some fp16
  | 3 => some e4m3
  | 4 => some e5m2
  | 5 => some e4m3
  | 6 => some e5m2
  | 7 => some e2m3
  | 8 => some e3m2
  | 9 => some e2m1
  | _ => none

/-- Element bits of a format code (R209). -/
def fmtBits (code : Nat) : Nat :=
  match code with
  | 0 => 32
  | 1 => 16
  | 2 => 16
  | 7 => 6
  | 8 => 6
  | 9 => 4
  | 12 => 32
  | _ => 8

/-- Block-scaled formats. -/
def isMx (code : Nat) : Bool := decide (5 ≤ code) && decide (code ≤ 10)

/-- Integer formats. -/
def isInt (code : Nat) : Bool := code == 11 || code == 12

/-- A legal format code. -/
def fmtOk (code : Nat) : Bool := decide (code ≤ 12)

/-- The value of a floating-point code (R210). -/
def FpFmt.decode (f : FpFmt) (c : Nat) : Val :=
  let neg := c / 2 ^ (f.ebits + f.mbits) % 2 == 1
  let ex := c / 2 ^ f.mbits % 2 ^ f.ebits
  let m := c % 2 ^ f.mbits
  let top := 2 ^ f.ebits - 1
  if f.special && ex == top then (if m = 0 then .inf neg else .nan)
  else if f.e4m3 && ex == top && m == 7 then .nan
  else if ex = 0 then .fin neg m (1 - (f.bias : Int) - f.mbits)
  else .fin neg (2 ^ f.mbits + m) ((ex : Int) - f.bias - f.mbits)

/-- An FP32 code as a value. -/
def f32 (c : BitVec 32) : Val := fp32.decode c.toNat

/-! ### Rounding (R220) -/

/-- ROUND of R220 with its random 16 bits. -/
structure Rounding where
  mode : Nat
  sat : Bool
  flush : Bool
deriving DecidableEq, Repr

def rne : Rounding := { mode := 0, sat := false, flush := false }

/-- n / 2^k rounded by a mode. -/
def roundShift (mode r n k : Nat) : Nat :=
  let q := n / 2 ^ k
  let rest := n % 2 ^ k
  if rest = 0 then q
  else match mode with
    | 0 => if 2 ^ k < 2 * rest ∨ (2 ^ k = 2 * rest ∧ q % 2 = 1) then q + 1 else q
    | 1 => if r < rest * 2 ^ 16 / 2 ^ k then q + 1 else q
    | _ => q

/-- m × 2^e as a multiple of 2^q, rounded. -/
def roundAt (mode r m : Nat) (e q : Int) : Nat :=
  if q ≤ e then m * 2 ^ (e - q).toNat else roundShift mode r m (q - e).toNat

/-- floor(log2) of m × 2^e for m > 0. -/
def log2Of (m : Nat) (e : Int) : Int := (Nat.log2 m : Int) + e

/-- Largest normal exponent of a format. -/
def FpFmt.emax (f : FpFmt) : Int :=
  (2 ^ f.ebits - 1 : Int) - f.bias - (if f.special then 1 else 0)

/-- Largest finite magnitude as a multiple of 2^(emax − mbits). -/
def FpFmt.maxMant (f : FpFmt) : Nat := if f.e4m3 then 14 else 2 ^ (f.mbits + 1) - 1

/-- Code of the largest finite magnitude. -/
def FpFmt.maxCode (f : FpFmt) : Nat :=
  if f.e4m3 then 0x7E
  else if f.special then (2 ^ f.ebits - 1) * 2 ^ f.mbits - 1
  else 2 ^ (f.ebits + f.mbits) - 1

/-- Sign bit of a format. -/
def FpFmt.sign (f : FpFmt) (neg : Bool) : Nat := if neg then 2 ^ (f.ebits + f.mbits) else 0

/-- Canonical NaN (R222). -/
def FpFmt.nanCode (f : FpFmt) : Nat :=
  if f.e4m3 then 0x7F else (2 ^ f.ebits - 1) * 2 ^ f.mbits + 2 ^ (f.mbits - 1)

/-- Infinity or what stands for it: SAT gives the largest value; E4M3 has none (R222). -/
def FpFmt.infCode (f : FpFmt) (sat neg : Bool) : Nat :=
  if sat then f.sign neg + f.maxCode
  else if f.e4m3 then f.nanCode
  else f.sign neg + (2 ^ f.ebits - 1) * 2 ^ f.mbits

/-- A finite value m × 2^e rounded in a format: mantissa k and exponent q of k × 2^q; rounding up to 2^(mbits + 1) moves to
the next exponent. -/
def FpFmt.rounded (f : FpFmt) (rd : Rounding) (r m : Nat) (e : Int) : Nat × Int :=
  let q : Int := max (log2Of m e) (1 - f.bias) - f.mbits
  let k := roundAt rd.mode r m e q
  if k = 2 ^ (f.mbits + 1) then (2 ^ f.mbits, q + 1) else (k, q)

/-- A rounded value beyond the largest finite magnitude. -/
def FpFmt.beyond (f : FpFmt) (kq : Nat × Int) : Bool :=
  decide (f.emax - f.mbits < kq.2) || (decide (kq.2 = f.emax - f.mbits) && decide (f.maxMant < kq.1))

/-- Encode a value in a floating-point format (R220, R222). `elem` marks an element of a block-scaled format, which
saturates; `r` is the random value of stochastic rounding. -/
def FpFmt.encode (f : FpFmt) (elem : Bool) (rd : Rounding) (r : Nat) : Val → Nat
  | .nan => if elem then 0 else f.nanCode
  | .inf neg => if elem then 0 else f.infCode rd.sat neg
  | .fin neg m e =>
    if m = 0 then f.sign neg
    else
      let kq := f.rounded rd r m e
      if f.beyond kq then
        (if elem || f.e4m3 || rd.sat then f.sign neg + f.maxCode else f.infCode false neg)
      else if kq.1 < 2 ^ f.mbits then
        (if rd.flush && f.ebits + f.mbits == 7 then f.sign neg else f.sign neg + kq.1)
      else f.sign neg + (kq.2 + f.mbits + f.bias).toNat * 2 ^ f.mbits + (kq.1 - 2 ^ f.mbits)

/-- A finite value that rounds beyond the largest finite magnitude of a format. -/
def FpFmt.overflows (f : FpFmt) (rd : Rounding) (r : Nat) : Val → Bool
  | .fin _ m e => decide (m ≠ 0) && f.beyond (f.rounded rd r m e)
  | _ => false

/-- Round a value to FP32, nearest even (R219). -/
def to32 (v : Val) : Val := fp32.decode (fp32.encode false rne 0 v)

/-- The FP32 code of a value. -/
def code32 (v : Val) : BitVec 32 := BitVec.ofNat 32 (fp32.encode false rne 0 v)

/-- FP32 sum, product and fused multiply-add. -/
def fadd (a b : Val) : Val := to32 (a.add b)
def fmul (a b : Val) : Val := to32 (a.mul b)
def fma (a b c : Val) : Val := to32 ((a.mul b).add c)

/-- Integer nearest to a value under a rounding mode; none for NaN, a bound for an infinity (R220, R222). -/
def toInt (lo hi : Int) (rd : Rounding) (r : Nat) : Val → Int
  | .nan => 0
  | .inf neg => if neg then lo else hi
  | .fin neg m e => max lo (min hi (signed neg (roundAt rd.mode r m e 0)))

/-! ### Elements and streams (R212 to R215) -/

/-- Range of an integer format. -/
def intLo (fmt : Nat) : Int := if fmt = 12 then -2147483648 else -128
def intHi (fmt : Nat) : Int := if fmt = 12 then 2147483647 else 127

/-- Two's complement of `bits` bits. -/
def sint (bits n : Nat) : Int := if n < 2 ^ (bits - 1) then (n : Int) else (n : Int) - 2 ^ bits

/-- The value of an element code, before any block scale. -/
def elemVal (fmt c : Nat) : Val :=
  match fpOf fmt with
  | some f => f.decode c
  | none =>
    if fmt = 10 then .fin (decide (128 ≤ c)) (sint 8 c).natAbs (-6)
    else Val.ofInt (sint (fmtBits fmt) c)

/-- The value of an E8M0 scale byte. -/
def scaleVal (b : Byte) : Val := if b = 0xFF then .nan else .fin false 1 ((b.toNat : Int) - 127)

/-- Bytes of one block of 32 elements, without its scale. -/
def blockBytes (fmt : Nat) : Nat := 4 * fmtBits fmt

/-- Bytes of a stream of n elements (R212). -/
def streamBytes (fmt n : Nat) : Nat := if isMx fmt then n / 32 * (1 + blockBytes fmt) else n * (fmtBits fmt / 8)

/-- Elements of a stream of a length, where the length holds a whole number of elements or blocks (R214, R228). -/
def streamElems (fmt bytes : Nat) : Option Nat :=
  let unit := if isMx fmt then 1 + blockBytes fmt else fmtBits fmt / 8
  if unit = 0 ∨ bytes % unit ≠ 0 then none else some (bytes / unit * (if isMx fmt then 32 else 1))

/-- An element with its block scale (1 where there is none). -/
structure Scaled where
  raw : Val
  scale : Val
deriving DecidableEq, Repr

/-- Codes of `n` elements packed in bytes, little-endian in bits (R213). -/
def unpack (bits n : Nat) (bs : List Byte) : List Nat :=
  let v := leNat bs
  (List.range n).map fun i => v / 2 ^ (bits * i) % 2 ^ bits

/-- Elements of the blocks of one group, whose scales are given. -/
def unpackBlocks (fmt : Nat) : List Byte → List Byte → List Scaled
  | [], _ => []
  | s :: ss, bs =>
    ((unpack (fmtBits fmt) 32 (bs.take (blockBytes fmt))).map fun c =>
        { raw := elemVal fmt c, scale := scaleVal s }) ++
      unpackBlocks fmt ss (bs.drop (blockBytes fmt))

/-- Elements of an MX stream of `blocks` blocks, group by group (R212). -/
def unpackGroups (fmt : Nat) : Nat → Nat → List Byte → List Scaled
  | 0, _, _ => []
  | fuel + 1, blocks, bs =>
    if blocks = 0 then []
    else
      let k := min blocks 32
      unpackBlocks fmt (bs.take k) (bs.drop k) ++
        unpackGroups fmt fuel (blocks - k) (bs.drop (k + k * blockBytes fmt))

/-- Cut bytes in elements of whole bytes. -/
def unpackBytes (fmt : Nat) : Nat → List Byte → List Scaled
  | 0, _ => []
  | n + 1, bs =>
    { raw := elemVal fmt (leNat (bs.take (fmtBits fmt / 8))), scale := Val.one } ::
      unpackBytes fmt n (bs.drop (fmtBits fmt / 8))

/-- The elements of a stream, with their scales. -/
def scaledStream (fmt n : Nat) (bs : List Byte) : List Scaled :=
  if isMx fmt then unpackGroups fmt (n / 32 + 1) (n / 32) bs else unpackBytes fmt n bs

/-- Decode to FP32 (R215): INT32 is rounded, a block-scaled element beyond the range becomes infinity. -/
def Scaled.val (x : Scaled) : Val := to32 (x.raw.mul x.scale)

/-- The FP32 values of a stream. -/
def decodeStream (fmt n : Nat) (bs : List Byte) : List Val := (scaledStream fmt n bs).map Scaled.val

/-- The integers of an INT8 or INT32 stream. -/
def intStream (fmt : Nat) : Nat → List Byte → List Int
  | 0, _ => []
  | n + 1, bs => sint (fmtBits fmt) (leNat (bs.take (fmtBits fmt / 8))) :: intStream fmt n (bs.drop (fmtBits fmt / 8))

/-! ### Encoding (R220 to R224) -/

/-- The random value of the i-th element of an encoding; `base` counts the values drawn before (log entry 4). -/
def draw (base i : Nat) : Nat := (Config.stochastic (base + i)).toNat

/-- Encode one element of a format that is not block-scaled. -/
def encodeElem (fmt : Nat) (rd : Rounding) (r : Nat) (v : Val) : List Byte :=
  match fpOf fmt with
  | some f => leBytes (fmtBits fmt / 8) (f.encode false rd r v)
  | none => leBytes (fmtBits fmt / 8) (intCode (fmtBits fmt) (toInt (intLo fmt) (intHi fmt) rd r v))

/-- emax of an element format (R224). -/
def mxEmax (fmt : Nat) : Int :=
  match fpOf fmt with
  | some f => f.emax
  | none => 0

/-- The code of an element of a block whose values have been scaled. -/
def mxElem (fmt : Nat) (rd : Rounding) (r : Nat) (v : Val) : Nat :=
  match fpOf fmt with
  | some f => f.encode true rd r v
  | none => intCode 8 (toInt (-128) 127 rd r (v.mul (.fin false 1 6)))

/-- Largest magnitude of a block. -/
def maxMag (vs : List Val) : Val := vs.foldl (fun m v => if m.lt v.abs then v.abs else m) Val.zero

/-- floor(log2) of a finite magnitude. -/
def Val.log2 : Val → Int
  | .fin _ m e => log2Of m e
  | _ => 0

/-- Pack element codes of `bits` bits (R213). -/
def packCodes (bits : Nat) (cs : List Nat) : Nat := cs.foldr (fun c acc => c + 2 ^ bits * acc) 0

/-- Encode a block of 32 values: scale byte and element bytes (R224). -/
def encodeBlock (fmt : Nat) (rd : Rounding) (base : Nat) (vs : List Val) : Byte × List Byte :=
  if vs.any (fun v => !v.isFin) then (0xFF, List.replicate (blockBytes fmt) 0)
  else
    let m := maxMag vs
    let zero := match m with | .fin _ 0 _ => true | _ => false
    let x : Int := if zero then 0 else min (max (m.log2 - mxEmax fmt) (-127)) 127
    let codes := (List.range 32).map fun i =>
      mxElem fmt rd (draw base i) ((vs.getD i Val.zero).mul (.fin false 1 (-x)))
    (BitVec.ofNat 8 (x + 127).toNat, leBytes (blockBytes fmt) (packCodes (fmtBits fmt) codes))

/-- Encode a list of blocks of 32 values. -/
def encodeBlocks (fmt : Nat) (rd : Rounding) (base : Nat) : Nat → List Val → List (Byte × List Byte)
  | 0, _ => []
  | k + 1, vs => encodeBlock fmt rd base (vs.take 32) :: encodeBlocks fmt rd (base + 32) k (vs.drop 32)

/-- Lay encoded blocks out in groups of 32 (R212). -/
def layGroups : Nat → List (Byte × List Byte) → List Byte
  | 0, _ => []
  | fuel + 1, bs =>
    match bs with
    | [] => []
    | _ => (bs.take 32).map (·.1) ++ (bs.take 32).flatMap (·.2) ++ layGroups fuel (bs.drop 32)

/-- Encode elements of a format that is not block-scaled. -/
def encodeFlat (fmt : Nat) (rd : Rounding) : Nat → List Val → List Byte
  | _, [] => []
  | base, v :: vs => encodeElem fmt rd (draw base 0) v ++ encodeFlat fmt rd (base + 1) vs

/-- Encode a stream of working values. -/
def encodeStream (fmt : Nat) (rd : Rounding) (base : Nat) (vs : List Val) : List Byte :=
  if isMx fmt then
    let k := vs.length / 32
    layGroups (k + 1) (encodeBlocks fmt rd base k vs)
  else encodeFlat fmt rd base vs

/-- Encode integers of the integer path: saturated to the output format (R222, R227). -/
def encodeInts (fmt : Nat) (is : List Int) : List Byte :=
  is.flatMap fun i => leBytes (fmtBits fmt / 8) (intCode (fmtBits fmt) (max (intLo fmt) (min (intHi fmt) i)))

/-- Encode a 64-bit integer working value in any output format (R218, R222). -/
def encodeIntAs (fmt : Nat) (rd : Rounding) (base : Nat) (is : List Int) : List Byte :=
  if isInt fmt then encodeInts fmt is else encodeStream fmt rd base (is.map fun i => to32 (Val.ofInt i))

/-! ### Counts of a receipt's EXTRA (R238) -/

/-- A finite value that rounds beyond the range of an integer format. -/
def intOverflows (lo hi : Int) (rd : Rounding) (r : Nat) : Val → Bool
  | .fin neg m e => let i := signed neg (roundAt rd.mode r m e 0); decide (i < lo) || decide (hi < i)
  | _ => false

/-- OVERFLOWED and NANS of one element of a format that is not block-scaled. -/
def countElem (fmt : Nat) (rd : Rounding) (r : Nat) (v : Val) : Nat × Nat :=
  match fpOf fmt with
  | some f => (if f.overflows rd r v then 1 else 0, if (f.decode (f.encode false rd r v)).isNan then 1 else 0)
  | none => (if intOverflows (intLo fmt) (intHi fmt) rd r v then 1 else 0, 0)

/-- OVERFLOWED and NANS of one block of 32 values: a block whose scale is NaN counts every element. -/
def countBlock (fmt : Nat) (rd : Rounding) (base : Nat) (vs : List Val) : Nat × Nat :=
  if vs.any (fun v => !v.isFin) then (0, 32)
  else
    let m := maxMag vs
    let zero := match m with | .fin _ 0 _ => true | _ => false
    let x : Int := if zero then 0 else min (max (m.log2 - mxEmax fmt) (-127)) 127
    let tooBig (i : Nat) (v : Val) : Bool :=
      let y := v.mul (.fin false 1 (-x))
      match fpOf fmt with
      | some f => f.overflows rd (draw base i) y
      | none => intOverflows (-128) 127 rd (draw base i) (y.mul (.fin false 1 6))
    (((List.range 32).filter fun i => tooBig i (vs.getD i Val.zero)).length, 0)

/-- Add two pairs of counts. -/
def addCounts (a b : Nat × Nat) : Nat × Nat := (a.1 + b.1, a.2 + b.2)

/-- Counts of blocks of 32 values. -/
def countBlocks (fmt : Nat) (rd : Rounding) (base : Nat) : Nat → List Val → Nat × Nat
  | 0, _ => (0, 0)
  | k + 1, vs => addCounts (countBlock fmt rd base (vs.take 32)) (countBlocks fmt rd (base + 32) k (vs.drop 32))

/-- Counts of elements of a format that is not block-scaled. -/
def countFlat (fmt : Nat) (rd : Rounding) : Nat → List Val → Nat × Nat
  | _, [] => (0, 0)
  | base, v :: vs => addCounts (countElem fmt rd (draw base 0) v) (countFlat fmt rd (base + 1) vs)

/-- OVERFLOWED and NANS of a stream of working values. -/
def countStream (fmt : Nat) (rd : Rounding) (base : Nat) (vs : List Val) : Nat × Nat :=
  if isMx fmt then countBlocks fmt rd base (vs.length / 32) vs else countFlat fmt rd base vs

/-- OVERFLOWED of integers of the integer path. -/
def countInts (fmt : Nat) (is : List Int) : Nat × Nat :=
  ((is.filter fun i => decide (i < intLo fmt) || decide (intHi fmt < i)).length, 0)

/-! ### Dot products (R216, R217) -/

/-- Exact sum of products of raw element values. -/
def rawDot : List Scaled → List Scaled → Val
  | a :: as, b :: bs => (a.raw.mul b.raw).add (rawDot as bs)
  | _, _ => Val.zero

/-- The group sums of R216 added to an accumulator; groups of 32 terms from the first. -/
def dotGroups : Nat → List Scaled → List Scaled → Val → Val
  | 0, _, _, acc => acc
  | fuel + 1, as, bs, acc =>
    match as, bs with
    | a :: _, b :: _ =>
      let g := to32 ((rawDot (as.take 32) (bs.take 32)).mul (a.scale.mul b.scale))
      dotGroups fuel (as.drop 32) (bs.drop 32) (fadd acc g)
    | _, _ => acc

/-- FP32 operands: a fused multiply-add for each term. -/
def dotFma : List Scaled → List Scaled → Val → Val
  | a :: as, b :: bs, acc => dotFma as bs (fma a.raw b.raw acc)
  | _, _, acc => acc

/-- A dot product added to an accumulator. -/
def dot (fp : Bool) (as bs : List Scaled) (acc : Val) : Val :=
  if fp then dotFma as bs acc else dotGroups (as.length + 1) as bs acc

/-! ### Special functions (R219): free within 2 units in the last place of the exact value (log entry 4) -/

/-- floor(log2(num / den)) of a positive quotient. -/
def ratioLog (num den : Nat) : Int :=
  let d : Int := (Nat.log2 num : Int) - (Nat.log2 den : Int)
  if num * 2 ^ Nat.log2 den < den * 2 ^ Nat.log2 num then d - 1 else d

/-- The exponent of FP32's unit in the last place at num / den × 2^e (R220). -/
def ulpExp (num den : Nat) (e : Int) : Int := max (ratioLog num den + e - 23) (-149)

/-- Whether a code is a finite value within 2 units in the last place of ± num / den × 2^e. -/
def withinUlps (neg : Bool) (num den : Nat) (e : Int) : Val → Bool
  | .fin n m f =>
    let u := ulpExp num den e
    let b := min f (min e u)
    let d := (signed n (alignTo (m * den) f b) - signed neg (alignTo num e b)).natAbs
    decide (d ≤ 2 * alignTo den u b)
  | _ => false

/-- The chosen code where it keeps the bound; else the value next below in magnitude, which keeps it. Where the exact value
is beyond FP32's range no result is stated, and the code is free altogether. -/
def specialResult (neg : Bool) (num den : Nat) (e : Int) (code : BitVec 32) : Val :=
  let u := ulpExp num den e
  if 104 < u then f32 code
  else if withinUlps neg num den e (f32 code) then f32 code
  else
    let b := min e u
    to32 (.fin neg (alignTo num e b / alignTo den u b) u)

/-- ln 2 in units of 2^-160. -/
def ln2Fixed : Nat := 1013035739299659071135698605846798551586536899366

/-- 2^(f × 2^-160) for a fraction below one, in units of 2^-160: the terms of the exponential series of f × ln 2. -/
def exp2Frac (f : Nat) : Nat :=
  let y := f * ln2Fixed / 2 ^ 160
  ((List.range 48).foldl (fun (st : Nat × Nat) k =>
    let t := st.1 * y / (2 ^ 160 * (k + 1))
    (t, st.2 + t)) (2 ^ 160, 2 ^ 160)).2

/-- exp2. -/
def exp2 (v : Val) : Val :=
  match v with
  | .nan => .nan
  | .inf neg => if neg then Val.zero else .inf false
  | .fin neg m e =>
    let x := signed neg (alignTo m (e + 160) 0)
    let i := x.fdiv (2 ^ 160)
    let code := Config.exp2 (code32 v)
    if 128 ≤ i then f32 code
    else if i < -160 then (if withinUlps false 1 1 (-160) (f32 code) then f32 code else Val.zero)
    else specialResult false (exp2Frac (x.fmod (2 ^ 160)).toNat) 1 (i - 160) code

/-- Reciprocal; ±infinity for ±0. -/
def recip (v : Val) : Val :=
  match v with
  | .nan => .nan
  | .inf neg => .fin neg 0 0
  | .fin neg m e => if m = 0 then .inf neg else specialResult neg 1 m (-e) (Config.recip (code32 v))

/-- The integer square root: each step sets one more bit of it from bit `k` down. -/
def sqrtBits (n : Nat) : Nat → Nat → Nat
  | 0, r => r
  | k + 1, r => let t := r + 2 ^ k; sqrtBits n k (if t * t ≤ n then t else r)

/-- Reciprocal square root: +infinity for +0; the exact value is 2^-256 × √(2^512 / m) × 2^(-e/2) with e made even. For −0 and
below no result is stated, and the code is free. -/
def rsqrt (v : Val) : Val :=
  let code := Config.rsqrt (code32 v)
  match v with
  | .nan => .nan
  | .inf neg => if neg then f32 code else Val.zero
  | .fin true _ _ => f32 code
  | .fin false m e =>
    if m = 0 then .inf false
    else
      let m1 := if e % 2 = 0 then m else 2 * m
      let h := if e % 2 = 0 then e / 2 else (e - 1) / 2
      specialResult false (sqrtBits (2 ^ 512 / m1) 260 0) 1 (-h - 256) code

/-- `k` binary digits of log2 of x × 2^-200, 1 ≤ x × 2^-200 < 2: squaring doubles the logarithm. -/
def logDigits : Nat → Nat → Nat → Nat
  | 0, _, acc => acc
  | k + 1, x, acc =>
    let y := x * x / 2 ^ 200
    if 2 ^ 201 ≤ y then logDigits k (y / 2) (2 * acc + 1) else logDigits k y (2 * acc)

/-- log2: −infinity for ±0, NaN below 0; the exact value is taken to 80 binary places. -/
def log2 (v : Val) : Val :=
  match v with
  | .nan => .nan
  | .inf neg => if neg then .nan else .inf false
  | .fin neg m e =>
    if m = 0 then .inf true
    else if neg then .nan
    else
      let k := Nat.log2 m
      let x : Int := (k + e) * 2 ^ 80 + logDigits 80 (m * 2 ^ 200 / 2 ^ k) 0
      specialResult (decide (x < 0)) x.natAbs 1 (if x = 0 then -400 else -80) (Config.log2 (code32 v))

end Sys2Proof.Machine
end

