-- ==== Sys2Proof/Machine/Ligature.lean ====
section
/-! DEFINITION. Ligature entries: their fields, the check of a load and their application to an element stream
(09_press_arithmetic.md R225 to R230). -/
namespace Sys2Proof.Machine

/-! ### Fields (R225) -/

def ligIn (l : List Word) : Nat := fld (wd l 0) 0 4
def ligStages (l : List Word) : Nat := fld (wd l 0) 8 3
def ligRound (l : List Word) : Rounding :=
  { mode := fld (wd l 0) 12 2, sat := bit (wd l 0) 14, flush := bit (wd l 0) 15 }
def ligOp (l : List Word) (i : Nat) : Nat := fld (wd l 1) (16 * i) 3
def ligFmt (l : List Word) (i : Nat) : Nat := fld (wd l 1) (16 * i + 4) 4
def ligScale (l : List Word) : Val := f32 (BitVec.ofNat 32 (fld (wd l 2) 0 32))
def ligLo (l : List Word) : Val := f32 (BitVec.ofNat 32 (fld (wd l 3) 0 32))
def ligHi (l : List Word) : Val := f32 (BitVec.ofNat 32 (fld (wd l 3) 32 32))

/-- Operations of the stages. -/
def ligOps (l : List Word) : List Nat := (List.range (ligStages l)).map (ligOp l)

/-- OUT of a ligature (R226). -/
def ligOut (l : List Word) : Nat :=
  let last := ligStages l - 1
  if ligOp l last = 4 ∨ ligOp l last = 5 then ligFmt l last else ligIn l

def ligAccumulates (l : List Word) : Bool := (ligOps l).contains 3

/-- The integer path (R227). -/
def ligInts (l : List Word) : Bool := isInt (ligIn l) && isInt (ligOut l) && !(ligOps l).contains 1

/-! ### The check of LOAD (R226) -/

def ligReserved (l : List Word) : Bool :=
  fld (wd l 0) 4 4 != 0 || bit (wd l 0) 11 || fld (wd l 0) 16 16 != 0 || fld (wd l 2) 32 32 != 0 ||
    ((List.range 4).any fun i => bit (wd l 1) (16 * i + 3) || fld (wd l 1) (16 * i + 8) 8 != 0) ||
    (List.range 4).any fun k => wd l (4 + k) != 0

/-- One stage is out of range. -/
def stageBad (l : List Word) (i : Nat) : Bool :=
  let op := ligOp l i
  let fmt := ligFmt l i
  if ligStages l ≤ i then op != 0 || fmt != 0
  else op == 0 || decide (5 < op) || ((op == 4 || op == 5) && decide (i + 1 ≠ ligStages l)) ||
    (op == 4 && (isMx fmt || !fmtOk fmt)) || (op == 5 && !isMx fmt) || (decide (op < 4) && fmt != 0)

/-- A ligature entry passes the check of R226. -/
def ligOk (l : List Word) : Bool :=
  let ops := ligOps l
  fmtOk (ligIn l) && decide (1 ≤ ligStages l) && decide (ligStages l ≤ 4) && decide (fld (wd l 0) 12 2 ≠ 3) &&
    !(List.range 4).any (stageBad l) && decide (ops.count 1 ≤ 1) && decide (ops.count 2 ≤ 1) && decide (ops.count 3 ≤ 1) &&
    !ligReserved l &&
    (if ops.contains 1 then (match ligScale l with | .fin _ m _ => decide (m ≠ 0) | _ => false)
     else decide (fld (wd l 2) 0 32 = 0)) &&
    (if ops.contains 2 then !(ligLo l).isNan && !(ligHi l).isNan && !(ligHi l).lt (ligLo l)
     else wd l 3 == 0)

/-! ### Lengths (R133, R228) -/

/-- Draws that a ligature makes on a source stream: one for every element (R221). -/
def ligDraws (l : Option (List Word)) (bytes : Nat) : Nat :=
  match l with
  | some w => (streamElems (ligIn w) bytes).getD 0
  | none => 0

/-- Destination bytes of a source length under a ligature, or of a plain move. -/
def destBytes (l : Option (List Word)) (n : Nat) : Nat :=
  match l with
  | none => n
  | some w => streamBytes (ligOut w) ((streamElems (ligIn w) n).getD 0)

/-- A length that R228 allows: a whole number of source elements, and of output blocks (R214). -/
def ligLengthOk (l : Option (List Word)) (n : Nat) : Bool :=
  match l with
  | none => true
  | some w =>
    match streamElems (ligIn w) n with
    | some k => !isMx (ligOut w) || k % 32 == 0
    | none => false

/-! ### Application (R227) -/

/-- max and min of CLAMP: numeric, and a NaN passes. -/
def clampVal (lo hi v : Val) : Val :=
  if v.isNan then v
  else
    let a := if v.lt lo then lo else v
    if hi.lt a then hi else a

/-- ceil of a bound, none for an infinity. -/
def ceilVal : Val → Option Int
  | .fin neg m e =>
    if 0 ≤ e then some (signed neg (m * 2 ^ e.toNat))
    else
      let d := 2 ^ (-e).toNat
      some (if neg then -((m / d : Nat) : Int) else (((m + d - 1) / d : Nat) : Int))
  | _ => none

/-- floor of a bound. -/
def floorVal (v : Val) : Option Int := (ceilVal v.neg).map fun i => -i

/-- CLAMP on the integer path: bounds ceil(CLAMP_LO) and floor(CLAMP_HI). -/
def clampInt (lo hi : Val) (i : Int) : Int :=
  let a := match ceilVal lo with | some b => max i b | none => (match lo with | .inf false => intHi 12 | _ => i)
  match floorVal hi with | some b => min a b | none => (match hi with | .inf true => intLo 12 | _ => a)

/-- Stages on FP32 values; `dst` are the destination's values for ACCUMULATE. -/
def stagesF (l : List Word) (dst : List Val) (ops : List Nat) (vs : List Val) : List Val :=
  ops.foldl (fun w op =>
    if op = 1 then w.map fun v => fmul v (ligScale l)
    else if op = 2 then w.map fun v => clampVal (ligLo l) (ligHi l) v
    else if op = 3 then List.zipWith fadd w dst
    else w) vs

/-- Stages on integers. -/
def stagesI (l : List Word) (dst : List Int) (ops : List Nat) (vs : List Int) : List Int :=
  ops.foldl (fun w op =>
    if op = 2 then w.map fun v => clampInt (ligLo l) (ligHi l) v
    else if op = 3 then List.zipWith (· + ·) w dst
    else w) vs

/-- A ligature applied to a source stream of bytes; `dst` are the bytes that stand at the destination. `base` counts the
random values drawn before. -/
def applyLig (l : List Word) (src dst : List Byte) (base : Nat) : List Byte :=
  let n := (streamElems (ligIn l) src.length).getD 0
  if ligInts l then
    encodeInts (ligOut l) (stagesI l (intStream (ligOut l) n dst) (ligOps l) (intStream (ligIn l) n src))
  else
    encodeStream (ligOut l) (ligRound l) base
      (stagesF l (decodeStream (ligOut l) n dst) (ligOps l) (decodeStream (ligIn l) n src))

/-- What an output row comes to: its bytes, and OVERFLOWED and NANS of its elements (R238). -/
structure Encoded where
  bytes : List Byte
  counts : Nat × Nat
deriving DecidableEq, Repr

/-- FP32 working values of a press operation encoded in a format, or passed through a ligature (R230, R236). -/
def encodeVals (fmt : Nat) (l : Option (List Word)) (vs : List Val) (dst : List Byte) (base : Nat) : Encoded :=
  match l with
  | none => { bytes := encodeStream fmt rne base vs, counts := countStream fmt rne base vs }
  | some w =>
    let v1 := stagesF w (decodeStream (ligOut w) vs.length dst) (ligOps w) vs
    { bytes := encodeStream (ligOut w) (ligRound w) base v1, counts := countStream (ligOut w) (ligRound w) base v1 }

/-- 64-bit working values of the integer path; a ligature with a SCALE stage takes them as FP32 (R227, R236). -/
def encodeWork (fmt : Nat) (l : Option (List Word)) (is : List Int) (dst : List Byte) (base : Nat) : Encoded :=
  match l with
  | none => { bytes := encodeInts fmt is, counts := countInts fmt is }
  | some w =>
    if ligInts w then
      let i1 := stagesI w (intStream (ligOut w) is.length dst) (ligOps w) is
      { bytes := encodeInts (ligOut w) i1, counts := countInts (ligOut w) i1 }
    else encodeVals fmt l (is.map fun i => to32 (Val.ofInt i)) dst base

end Sys2Proof.Machine
end

