-- ==== Sys2Proof/Machine/Fields.lean ====
section
/-! DEFINITION. The fields of a docket in both formats (05_dockets_receipts.md R116, R134; 02_wisan_contract.md R38), opcode by
opcode, the operands of press operations, and the destination ranges of a docket. -/
namespace Sys2Proof.Machine

/-! ### Fields -/

/-- A docket as a v2 docket: a v1 docket is taken as R38 says, its VER with it. -/
def view (v1 : Bool) (ws : List Word) : List Word :=
  if v1 then
    [wd ws 0, place (fld (wd ws 1) 0 32) 0 32, wd ws 2, wd ws 3,
     place (fld (wd ws 1) 48 16) 0 18 ||| place (fld (wd ws 1) 32 16) 18 16, 0, 0, 0]
  else ws

def dFence (w : List Word) : Bool := bit (wd w 0) 1
def dNotify (w : List Word) : Bool := bit (wd w 0) 3
def dVer (w : List Word) : Nat := fld (wd w 0) 4 4
def dOp (w : List Word) : Nat := fld (wd w 0) 8 8
def dFlags (w : List Word) : Nat := fld (wd w 0) 16 16
def dTag (w : List Word) : Nat := fld (wd w 0) 32 32
def dLen (w : List Word) : Nat := fld (wd w 1) 0 31
def dDeadline (w : List Word) : Nat := fld (wd w 1) 32 8
/-- PATIENCE, 3 when 0 (R49). -/
def dPatience (w : List Word) : Nat := let p := fld (wd w 1) 40 8; if p = 0 then 3 else p
def dLig (w : List Word) : Nat := fld (wd w 1) 48 16
def dSrc (w : List Word) : Nat := (wd w 2).toNat
def dDst (w : List Word) : Nat := (wd w 3).toNat
def dRank (w : List Word) : Nat := fld (wd w 4) 0 18
def dWindow (w : List Word) : Nat := fld (wd w 4) 18 16
def dKey (w : List Word) : Nat := fld (wd w 4) 34 16
def dTally (w : List Word) : Nat := fld (wd w 5) 0 18
def dHandle (w : List Word) : Nat := fld (wd w 5) 0 16

/-- Opcodes of R119. -/
def opCopy : Nat := 0x01
def opWrite : Nat := 0x02
def opRead : Nat := 0x03
def opSend : Nat := 0x04
def opAtomic : Nat := 0x05
def opTileCopy : Nat := 0x06
def opFence : Nat := 0x07
def opInvalidate : Nat := 0x08
def opReduce : Nat := 0x10
def opTranscode : Nat := 0x11
def opGatherReduce : Nat := 0x12
def opAttend : Nat := 0x13
def opTopk : Nat := 0x14
def opEmbedGather : Nat := 0x15
def opCollOpen : Nat := 0x18
def opCollRun : Nat := 0x19
def opCollClose : Nat := 0x1A
def opTallyAdd : Nat := 0x20
def opTallyWait : Nat := 0x21

/-- Press operations. -/
def isPress (op : Nat) : Bool := decide (0x10 ≤ op) && decide (op ≤ 0x15)

/-- The opcodes the device implements, and those of a v1 queue (R37, R119). -/
def opKnown (v1 : Bool) (op : Nat) : Bool :=
  if v1 then [opCopy, opWrite, opRead, opSend, opFence].contains op
  else (decide (1 ≤ op) && decide (op ≤ 8)) || isPress op || (decide (0x18 ≤ op) && decide (op ≤ 0x1A)) ||
    op == opTallyAdd || op == opTallyWait

/-- A remote operand in word 4. -/
def namesRank (w : List Word) : Bool :=
  [opWrite, opRead, opSend, opAtomic].contains (dOp w) || (dOp w == opTallyAdd && bit (wd w 0) 16)

/-- A SEND of a raw frame (R362). -/
def isRaw (w : List Word) : Bool := dOp w == opSend && bit (wd w 0) 16

/-- FLAGS bits an opcode defines (R119 and the opcode's section). -/
def flagMask (op : Nat) : Nat :=
  if op = opAtomic ∨ op = opSend then 0xF
  else if op = opCopy then 0x1
  else if op = opTallyAdd ∨ op = opTallyWait ∨ op = opAttend ∨ op = opGatherReduce ∨ op = opTopk then 0x1
  else if op = opEmbedGather ∨ op = opReduce then 0x3
  else 0

/-- Opcodes whose row of R119 allows NOTIFY, KEY_SLOT, LIGATURE and PATIENCE. -/
def mayNotify (op : Nat) : Bool := [opWrite, opSend, opAtomic].contains op
def maySeal (op : Nat) : Bool := [opCopy, opWrite, opRead, opSend].contains op
def mayLigature (op : Nat) : Bool :=
  [opCopy, opWrite, opRead, opSend, opTileCopy, opReduce, opTranscode, opGatherReduce, opEmbedGather, opCollRun].contains op
def mayWait (op : Nat) : Bool := [opCollRun, opTallyWait].contains op

/-- A finding: the word named in DETAIL where a condition holds. -/
abbrev Finding := Nat × Bool

/-- Non-zero where R119 has "—". -/
def mustBeZero (w : List Word) (words : List Nat) : List Finding := words.map fun k => (k, wd w k != 0)

/-! ### Shapes of press operations (10_press_operations.md) -/

/-- Bytes of a row of n elements. -/
def rowBytes (fmt n : Nat) : Nat := streamBytes fmt n

/-- ATTEND (R245). -/
def atTokens (w : List Word) : Nat := fld (wd w 6) 0 21
def atHeads (w : List Word) : Nat := fld (wd w 6) 21 7
def atGroup (w : List Word) : Nat := fld (wd w 6) 28 3
def atDimCode (w : List Word) : Nat := fld (wd w 6) 32 2
def atDim (w : List Word) : Nat := 64 * 2 ^ atDimCode w
def atQFmt (w : List Word) : Nat := fld (wd w 6) 36 4
def atKvFmt (w : List Word) : Nat := fld (wd w 6) 40 4
def atOutFmt (w : List Word) : Nat := fld (wd w 6) 44 4
def atScale (w : List Word) : Val := f32 (BitVec.ofNat 32 (fld (wd w 7) 0 32))
def atLse (w : List Word) : Bool := bit (wd w 0) 16

/-- GATHER_REDUCE and EMBED_GATHER (R250, R253). -/
def grRows (w : List Word) : Nat := fld (wd w 7) 0 24
def grFan (w : List Word) : Nat := fld (wd w 7) 24 5
def grElems (w : List Word) : Nat := fld (wd w 7) 32 16
def grIn (w : List Word) : Nat := fld (wd w 7) 48 4
def grOut (w : List Word) : Nat := fld (wd w 7) 52 4
def grWeighted (w : List Word) : Bool := bit (wd w 0) 16
def egPool (w : List Word) : Nat := fld (wd w 0) 16 2

/-- TOPK (R256). -/
def tkCols (w : List Word) : Nat := fld (wd w 6) 0 20
def tkK (w : List Word) : Nat := fld (wd w 6) 20 16
def tkIn (w : List Word) : Nat := fld (wd w 6) 36 4
def tkRows (w : List Word) : Nat := fld (wd w 6) 40 24

/-- TRANSCODE (R259). -/
def tcIn (w : List Word) : Nat := fld (wd w 5) 0 4
def tcOut (w : List Word) : Nat := fld (wd w 5) 4 4
def tcAmax (w : List Word) : Bool := bit (wd w 5) 8

/-- REDUCE (R262). -/
def rdSources (w : List Word) : Nat := fld (wd w 6) 0 7
def rdIn (w : List Word) : Nat := fld (wd w 6) 8 4
def rdOut (w : List Word) : Nat := fld (wd w 6) 12 4
def rdOp (w : List Word) : Nat := fld (wd w 0) 16 2
def rdStride (w : List Word) : Nat := (wd w 5).toNat

/-- TILE_COPY (R127). -/
def tlRowBytes (w : List Word) : Nat := fld (wd w 5) 0 20
def tlRows (w : List Word) : Nat := fld (wd w 5) 20 16
def tlTiles (w : List Word) : Nat := fld (wd w 5) 36 20
def tlSrcRow (w : List Word) : Nat := fld (wd w 6) 0 32
def tlDstRow (w : List Word) : Nat := fld (wd w 6) 32 32
def tlSrcTile (w : List Word) : Nat := fld (wd w 7) 0 32
def tlDstTile (w : List Word) : Nat := fld (wd w 7) 32 32

/-- COLL_OPEN (R266). -/
def coCount (w : List Word) : Nat := fld (wd w 6) 0 17
def coBins (w : List Word) : Nat := fld (wd w 6) 17 7
def coFmt (w : List Word) : Nat := fld (wd w 6) 24 4
def coOp (w : List Word) : Nat := fld (wd w 6) 28 2

/-- OPEN of a COPY with a key slot, and the plaintext bytes that LENGTH sealed bytes hold (R442, R443). -/
def cpOpen (w : List Word) : Bool := bit (wd w 0) 16
def openedBytes (n : Nat) : Nat := n - 24 * ceilDiv n 4120
def sealedBytes (n : Nat) : Nat := n + 24 * ceilDiv n 4096

/-- Source bytes that a docket's ligature counts: LENGTH, or the opened bytes of stored records (R228, R443). -/
def ligLength (w : List Word) : Nat :=
  if dOp w = opCopy ∧ dKey w ≠ 0 ∧ cpOpen w then openedBytes (dLen w) else dLen w

/-- INVALIDATE (R106). -/
def ivTarget (w : List Word) : Nat := fld (wd w 5) 0 20
def ivFirst (w : List Word) : Nat := fld (wd w 5) 20 16
def ivCount (w : List Word) : Nat := fld (wd w 5) 36 5

/-- An MX row of an element count that is no whole number of blocks (R237). -/
def mxBad (fmt n : Nat) : Bool := isMx fmt && n % 32 != 0

/-- Exactly one of two formats is an integer. -/
def mixedInt (a b : Nat) : Bool := isInt a != isInt b

/-! ### Operands (R233, R246, R250, R253, R256, R259, R262) -/

/-- A fixed operand: the word that names it, its address and length, and the largest segment KIND it may lie in. -/
structure Operand where
  word : Nat
  addr : Nat
  len : Nat
  write : Bool
  maxKind : Nat
deriving DecidableEq, Repr

/-- Pages of one KV head. -/
def atPages (w : List Word) : Nat := ceilDiv (atTokens w) 64

/-- Query heads. -/
def atQueries (w : List Word) : Nat := atHeads w * atGroup w

/-- Bytes of one page. -/
def atPageBytes (w : List Word) : Nat := 128 * rowBytes (atKvFmt w) (atDim w)

/-- Output bytes of ATTEND without its state pairs. -/
def atOutBytes (w : List Word) : Nat := atQueries w * rowBytes (atOutFmt w) (atDim w)

/-- Elements of TRANSCODE and of one source of REDUCE. -/
def tcElems (w : List Word) : Nat := (streamElems (tcIn w) (dLen w)).getD 0
def rdElems (w : List Word) : Nat := (streamElems (rdIn w) (dLen w)).getD 0

/-- Bytes of one TOPK element. -/
def tkBytes (w : List Word) : Nat := fmtBits (tkIn w) / 8

/-- Fixed operands in word order; the index list of a pooled EMBED_GATHER is not among them, as its length stands in the
offset list. -/
def pressOperands (w : List Word) : List Operand :=
  let op := dOp w
  let src (n : Nat) : Operand := { word := 2, addr := dSrc w, len := n, write := false, maxKind := 3 }
  let dst (n : Nat) : Operand := { word := 3, addr := dDst w, len := n, write := true, maxKind := 3 }
  let rd5 (n : Nat) : Operand := { word := 5, addr := (wd w 5).toNat, len := n, write := false, maxKind := 3 }
  let rd6 (n : Nat) : Operand := { word := 6, addr := (wd w 6).toNat, len := n, write := false, maxKind := 3 }
  if op = opAttend then
    [src (atQueries w * rowBytes (atQFmt w) (atDim w)), dst (atOutBytes w + (if atLse w then 8 * atQueries w else 0)),
     rd5 (8 * atHeads w * atPages w)]
  else if op = opGatherReduce then
    [src (dLen w), dst (grRows w * rowBytes (grOut w) (grElems w)), rd5 (4 * grRows w * grFan w)] ++
      (if grWeighted w then [rd6 (4 * grRows w * grFan w)] else [])
  else if op = opEmbedGather then
    [{ src (dLen w) with maxKind := 2 }, dst (grRows w * rowBytes (grOut w) (grElems w))] ++
      (if egPool w = 0 then [rd5 (4 * grRows w)] else [rd6 (4 * (grRows w + 1))])
  else if op = opTopk then
    [src (dLen w), dst (tkRows w * tkK w * tkBytes w), { rd5 (4 * tkRows w * tkK w) with write := true }]
  else if op = opTranscode then
    [src (dLen w), dst (streamBytes (tcOut w) (tcElems w))] ++ (if tcAmax w then [{ rd6 8 with write := true }] else [])
  else
    [src ((rdSources w - 1) * rdStride w + dLen w), dst (streamBytes (rdOut w) (rdElems w))]

/-! ### Destinations -/

/-- Destination bytes of a docket that moves LENGTH source bytes; stored records count with their seals (R133, R442). -/
def moveLen (l : Option (List Word)) (w : List Word) : Nat :=
  if dOp w = opCopy ∧ dKey w ≠ 0 then
    (if cpOpen w then destBytes l (openedBytes (dLen w)) else sealedBytes (destBytes l (dLen w)))
  else destBytes l (dLen w)

/-- The local destination ranges of a docket, under the ligature it names. -/
def destRanges (l : Option (List Word)) (w : List Word) : List (Nat × Nat) :=
  let op := dOp w
  if op = opCopy ∨ op = opRead ∨ op = opCollRun then [(dDst w, moveLen l w)]
  else if op = opTileCopy then
    let n := destBytes l (tlRowBytes w)
    (List.range (tlTiles w)).flatMap fun t => (List.range (tlRows w)).map fun r =>
      (dDst w + t * tlDstTile w + r * tlDstRow w, n)
  else if isPress op then (pressOperands w).filterMap fun o => if o.write then some (o.addr, o.len) else none
  else []

/-- The local ranges a docket reads and writes, in word order, with the access; lists whose length stands in another list
are not among them. -/
def localRanges (l : Option (List Word)) (w : List Word) : List (Nat × Nat × Bool) :=
  let op := dOp w
  let dsts := (destRanges l w).map fun d => (d.1, d.2, true)
  if isPress op then (pressOperands w).map fun o => (o.addr, o.len, o.write)
  else if op = opTileCopy then
    ((List.range (tlTiles w)).flatMap fun t => (List.range (tlRows w)).map fun r =>
      (dSrc w + t * tlSrcTile w + r * tlSrcRow w, tlRowBytes w, false)) ++ dsts
  else if op = opCopy ∨ op = opWrite ∨ op = opSend ∨ op = opCollRun then (dSrc w, dLen w, false) :: dsts
  else dsts

end Sys2Proof.Machine
end

