-- ==== Sys2Proof/Machine/Memory.lean ====
section
/-! DEFINITION. The byte memories: tiers with their touch maps, twin copies and failing lines (06_memory_tiers.md), host
memory behind the hatches (16_hatches.md R394 to R396), and reads and writes through a segment (R190). Events that these
accesses find are returned as a list, latched by Machine/Faults.lean. -/
namespace Sys2Proof.Machine

/-! ### Tiers -/

/-- Tier code of a tier, as in KIND of a segment (R189). -/
def tierCode : Tier → Nat
  | .shelf => 0
  | .store => 1
  | .cellar => 2

/-- Tier of a segment KIND below 3. -/
def tierOfKind (k : Nat) : Tier := if k = 0 then .shelf else if k = 1 then .store else .cellar

def getTier (s : State) : Tier → TierSt
  | .shelf => s.shelf
  | .store => s.store
  | .cellar => s.cellar

def modTier (t : Tier) (f : TierSt → TierSt) (s : State) : State :=
  match t with
  | .shelf => { s with shelf := f s.shelf }
  | .store => { s with store := f s.store }
  | .cellar => { s with cellar := f s.cellar }

/-- The cellar hatch whose expander holds an offset, with the offset of that expander (R142). -/
def cellarAt (s : State) (off : Nat) : List Nat → Nat → Option (Nat × Nat)
  | [], _ => none
  | h :: hs, base =>
    let n := (getHatch s h).expander
    if off < base + n then some (h, base) else cellarAt s off hs (base + n)

/-- The two hatches of CELLAR_PAIR (R144). -/
def cellarPair (s : State) : Option (Nat × Nat) :=
  match s.plates.cellarPair with
  | 1 => some (1, 2)
  | 2 => some (1, 3)
  | 3 => some (2, 3)
  | _ => none

/-- The part that holds an offset (R142): shelf stack, store-room channel, cellar hatch. -/
def partOf (s : State) (t : Tier) (off : Nat) : Nat :=
  match t with
  | .shelf => off / 256 % 192 / 32
  | .store => off / 256 % 12
  | .cellar => ((cellarAt s off [1, 2, 3] 0).map (·.1)).getD 0

/-- The part that holds the twin copy of a part's line. -/
def twinPart (s : State) (t : Tier) (p : Nat) : Nat :=
  match t with
  | .shelf => (p + 3) % 6
  | .store => (p + 6) % 12
  | .cellar =>
    match cellarPair s with
    | some (a, b) => if p = a then b else a
    | none => p

/-- SOURCE of a memory event (R446). -/
def memSource (s : State) (t : Tier) (off : Nat) : Nat :=
  match t with
  | .shelf => off / 256 % 192
  | .store => off / 256 % 12
  | .cellar => partOf s .cellar off

/-- A memory event of R151 at the line of an offset. -/
def memEvent (s : State) (t : Tier) (off kind level : Nat) : Event :=
  { cls := 2 + tierCode t, kind := kind, level := level, source := memSource s t off, detail := off / 64 * 64,
    injected := false }

/-- What a tier knows of a line that fails. -/
def badLine (x : TierSt) (line : Nat) : BadLine :=
  (x.bad.find? fun b => b.line == line).getD { line := line, primary := .clean, copy := .clean, latched := false }

/-- Replace what is known of a line. -/
def setBad (b : BadLine) (x : TierSt) : TierSt :=
  let rest := x.bad.filter fun c => c.line != b.line
  if b.primary = .clean ∧ b.copy = .clean then { x with bad := rest }
  else { x with bad := rest ++ [b] }

/-- Whether an upset leaves a copy unreadable. -/
def upsetFails : Upset → Bool
  | .soft | .hard => true
  | _ => false

/-- Whether a part cannot answer: lost (R155), or behind a cellar hatch that is down (R171). -/
def partLost (s : State) (t : Tier) (p : Nat) : Bool :=
  (getTier s t).lost.contains p || (match t with | .cellar => !hatchUp s p | _ => false)

/-- Whether a granule's touch bit is set (R165). -/
def isTouched (x : TierSt) (off : Nat) : Bool := x.touched.contains (off / 65536)

def mib : Nat := 1048576
def gib : Nat := 1073741824

/-- Start and length of the primary half of the twin pool of a tier that has rows (R144). -/
def twinHalf (s : State) : Tier → Nat × Nat
  | .shelf => (s.plates.shelfSys * mib, s.plates.shelfTwin * gib / 2)
  | .store => (s.plates.storeSys * mib, s.plates.storeTwin * gib / 2)
  | .cellar => (0, 0)

/-- A line of the primary half. -/
def twinLine (s : State) (t : Tier) (line : Nat) : Bool :=
  decide ((twinHalf s t).1 ≤ line * 64) && decide (line * 64 < (twinHalf s t).1 + (twinHalf s t).2)

/-- The line that holds the copy of a twin line: at the same offset in the copy half. -/
def copyLine (s : State) (t : Tier) (line : Nat) : Nat := line + (twinHalf s t).2 / 64

/-- Spare rows left in the bank of a line (R148). -/
def sparesLeft (x : TierSt) (t : Tier) (line : Nat) : Nat :=
  if t = .cellar then 0
  else Config.fusedSpareRows (tierCode t) -
    (tget x.sparesUsed (Config.bankOf (tierCode t) (Config.rowOf (tierCode t) line))).getD 0

/-- A row keeps its place while it holds an uncorrectable line of a plain segment (R148). -/
def rowHeld (s : State) (t : Tier) (row : Nat) (x : TierSt) : Bool :=
  x.bad.any fun b => Config.rowOf (tierCode t) b.line == row && !twinLine s t b.line && upsetFails b.primary

/-- What is known of one copy of a line after its row was copied to a spare row: corrected, or refilled from the other copy
where it failed; lost where neither can be read. -/
def respare (mine other : Upset) : Upset := if upsetFails mine && upsetFails other then .soft else .clean

/-- Replace the row of a line by a spare row (R148): its lines are corrected, those of twin segments refilled, and the
corrections of the row count afresh. -/
def replaceRow (s : State) (t : Tier) (line : Nat) (x : TierSt) : TierSt :=
  let row := Config.rowOf (tierCode t) line
  let bank := Config.bankOf (tierCode t) row
  let here (l : Nat) : Bool := Config.rowOf (tierCode t) l == row
  let fix (b : BadLine) : BadLine :=
    if twinLine s t b.line then
      { b with primary := if here b.line then respare b.primary b.copy else b.primary
               copy := if here (copyLine s t b.line) then respare b.copy b.primary else b.copy }
    else if here b.line && !upsetFails b.primary then { b with primary := .clean } else b
  { x with
    bad := (x.bad.map fix).filter fun b => b.primary != .clean || b.copy != .clean
    servedCopy := x.servedCopy.filter fun l => !here l
    sparesUsed := tset x.sparesUsed bank ((tget x.sparesUsed bank).getD 0 + 1), rowCe := tdel x.rowCe row }

/-- The row of a line is due for a spare row: its corrections have reached ROW_CE_LIMIT, the bank has one, and no line holds
the row back (R148). -/
def rowDue (s : State) (t : Tier) (line : Nat) (x : TierSt) : Bool :=
  let row := Config.rowOf (tierCode t) line
  let limit := fld s.misc.scrubCtrl 16 8
  t != .cellar && limit != 0 && decide (limit ≤ (tget x.rowCe row).getD 0) && decide (0 < sparesLeft x t line) &&
    !rowHeld s t row x

/-- A read of one line. -/
structure LineRead where
  fails : Bool
  twin : Bool
  events : List Event
deriving DecidableEq, Repr

/-- A correction is counted with the row of `at_`, the line or its copy, which is replaced when it is due (R148, R151). -/
def countCorrection (t : Tier) (line at_ : Nat) (x : TierSt) (s : State) : List Event × State :=
  let row := Config.rowOf (tierCode t) at_
  let x1 := { x with ceCount := satAdd 24 x.ceCount 1, rowCe := tset x.rowCe row ((tget x.rowCe row).getD 0 + 1) }
  let ev := memEvent s t (line * 64) 1 1
  if rowDue s t at_ x1 then ([ev, memEvent s t (line * 64) 3 2], modTier t (fun _ => replaceRow s t at_ x1) s)
  else ([ev], modTier t (fun _ => x1) s)

/-- The state of the world after a corrected line, which is written back. -/
def correctLine (t : Tier) (line : Nat) (s : State) : List Event × State :=
  let x := getTier s t
  countCorrection t line line (setBad { badLine x line with primary := .clean } x) s

/-- The repair of a primary line from its copy (R154): a soft error ends, a hard one takes a spare row, and without one the
line is served from the copy from then on. -/
def repairTwin (t : Tier) (line : Nat) (s : State) : List Event × State :=
  let x := getTier s t
  let b := badLine x line
  match b.primary with
  | .hard =>
    if 0 < sparesLeft x t line then ([memEvent s t (line * 64) 3 2], modTier t (replaceRow s t line) s)
    else
      ([memEvent s t (line * 64) 5 3], modTier t (fun _ => { x with servedCopy := addNew x.servedCopy line }) s)
  | _ => ([], modTier t (fun _ => setBad { b with primary := .clean } x) s)

/-- Read one line (R147 to R155, R165, R171). A plain line of an untouched granule on a lost stack or channel reads as zeros (DESIGN
CHOICE between R155, which ends every line placed there with DATA_ERROR, and R165: log entry 75). -/
def readLine (t : Tier) (twin : Bool) (line : Nat) (s : State) : LineRead × State :=
  let x := getTier s t
  let off := line * 64
  let p := partOf s t off
  let gone := partLost s t p
  if t = .cellar ∧ gone ∧ ¬ twin then ({ fails := true, twin := false, events := [] }, s)
  else if !isTouched x off then ({ fails := false, twin := false, events := [] }, s)
  else
    let b := badLine x line
    let copyOk := twin && !partLost s t (twinPart s t p) && !upsetFails b.copy
    if gone || x.resync.contains line || x.servedCopy.contains line then
      if copyOk then
        ({ fails := false, twin := true, events := [memEvent s t off 2 1] },
          modTier t (fun y => { y with twinCount := satAdd 8 y.twinCount 1 }) s)
      else ({ fails := true, twin := false, events := [] }, s)
    else
      match b.primary with
      | .clean => ({ fails := false, twin := false, events := [] }, s)
      | .correctable =>
        let (ev, s1) := correctLine t line s
        ({ fails := false, twin := false, events := ev }, s1)
      | _ =>
        if copyOk then
          let s1 := modTier t (fun y => { y with
            twinCount := satAdd 8 y.twinCount 1, ueCount := satAdd 16 y.ueCount 1 }) s
          let (ev, s2) := repairTwin t line s1
          ({ fails := false, twin := true, events := memEvent s t off 2 1 :: ev }, s2)
        else if b.latched then ({ fails := true, twin := false, events := [] }, s)
        else
          ({ fails := true, twin := false, events := [memEvent s t off 4 2] },
            modTier t (fun y => { setBad { b with latched := true } y with ueCount := satAdd 16 y.ueCount 1 }) s)

/-- What a read of memory gave: its bytes, the index of the first byte that could not be read with the DETAIL of its
memory (R139), whether a twin served any line, and the events found. -/
structure MemRead where
  bytes : List Byte
  fail : Option (Nat × Nat)
  twin : Bool
  events : List Event
deriving DecidableEq, Repr

/-- Lines of a range. -/
def linesOf (off n : Nat) : List Nat :=
  if n = 0 then [] else (List.range ((off + n - 1) / 64 - off / 64 + 1)).map (· + off / 64)

/-- Read a range of a tier. -/
def readTier (t : Tier) (twin : Bool) (off n : Nat) (s : State) : MemRead × State :=
  (linesOf off n).foldl
    (fun (r : MemRead × State) line =>
      match r.1.fail with
      | some _ => r
      | none =>
        let (l, s1) := readLine t twin line r.2
        ({ r.1 with
            fail := if l.fails then some (line * 64 - off, tierCode t + 1) else none
            twin := r.1.twin || l.twin
            events := r.1.events ++ l.events }, s1))
    ({ bytes := rdBytes (getTier s t).mem off n, fail := none, twin := false, events := [] }, s)

/-- What a write gave: the index of the first byte that could not be written, with its DETAIL, and events. -/
structure MemWrite where
  fail : Option (Nat × Nat)
  events : List Event
deriving DecidableEq, Repr

/-- The first write to an untouched granule zeroes it (R165). What only fresh cells mend still fails. -/
def touch (off : Nat) (x : TierSt) : TierSt :=
  if isTouched x off then x
  else { x with mem := clearBytes x.mem (off / 65536 * 65536) 65536,
                touched := x.touched ++ [off / 65536],
                bad := x.bad.filter fun b => b.line / 1024 != off / 65536 || b.primary == .hard || b.copy == .hard }

/-- The check of a line that the clearing pass finds failing (R147, R150). -/
def clearedLine (t : Tier) (b : BadLine) (s : State) : List Event × State :=
  match b.primary with
  | .correctable => correctLine t b.line s
  | .soft | .hard =>
    if b.latched then ([], s)
    else
      ([memEvent s t (b.line * 64) 4 2],
        modTier t (fun x => { setBad { b with latched := true } x with ueCount := satAdd 16 x.ueCount 1 }) s)
  | .clean => ([], s)

/-- The clearing pass of one granule whose bit is not set (R147, R166): its lines are checked and zeroed. -/
def clearGranule (t : Tier) (off : Nat) (s : State) : List Event × State :=
  if isTouched (getTier s t) off then ([], s)
  else
    let (ev, s1) := ((getTier s t).bad.filter fun b => b.line / 1024 == off / 65536).foldl
      (fun (r : List Event × State) b => let (e, u) := clearedLine t b r.2; (r.1 ++ e, u)) ([], s)
    (ev, modTier t (touch off) s1)

/-- A whole line was written over one that failed (R149): a row that it held back is replaced now (R148). -/
def freedRow (t : Tier) (line : Nat) (s : State) : List Event × State :=
  if rowDue s t line (getTier s t) then
    ([memEvent s t (line * 64) 3 2], modTier t (replaceRow s t line) s)
  else ([], s)

/-- Write the bytes that fall into one line (R149, R152, R155); a part of a line is merged into what a read of it gives. -/
def writeLine (t : Tier) (twin : Bool) (off : Nat) (bs : List Byte) (s : State) : MemWrite × State :=
  let line := off / 64
  let p := partOf s t off
  let gone := partLost s t p
  let copyGone := partLost s t (twinPart s t p)
  if gone ∧ (¬ twin ∨ copyGone) then
    ({ fail := some (0, tierCode t + 1), events := [] }, s)
  else
    let x := touch off (getTier s t)
    let b := badLine x line
    let whole := decide (64 ≤ bs.length)
    let bad := upsetFails b.primary || gone || x.resync.contains line
    let unreadable := bad && (!twin || upsetFails b.copy || copyGone)
    if unreadable && !whole then
      ({ fail := some (0, tierCode t + 1),
         events := if b.latched then [] else [memEvent s t off 4 2] },
        modTier t (fun _ => if b.latched then x else
          { setBad { b with latched := true } x with ueCount := satAdd 16 x.ueCount 1 }) s)
    else
      let (ev, s1) := if b.primary == .correctable && !whole then correctLine t line (modTier t (touch off) s)
        else ([], modTier t (touch off) s)
      let s2 := modTier t (fun z =>
        let y := setBad { badLine z line with primary := .clean, copy := .clean } z
        { y with mem := wrBytes y.mem off bs, resync := y.resync.filter (· != line) }) s1
      let (ev2, s3) := if whole && upsetFails b.primary && !twin then freedRow t line s2 else ([], s2)
      ({ fail := none, events := ev ++ ev2 }, s3)

/-- Bytes cut at line boundaries, with the offset and index of each part. -/
def cutLines : Nat → Nat → Nat → List Byte → List (Nat × Nat × List Byte)
  | 0, _, _, _ => []
  | fuel + 1, off, idx, bs =>
    match bs with
    | [] => []
    | _ =>
      let n := 64 - off % 64
      (off, idx, bs.take n) :: cutLines fuel (off + (bs.take n).length) (idx + (bs.take n).length) (bs.drop n)

/-- Note a written range for the press operations that run (R235). -/
def noteWrite (space start len : Nat) (s : State) : State :=
  match s.watch with
  | none => s
  | some l => { s with watch := some (l ++ [(space, start, len)]) }

/-- Write a range of a tier: a line that cannot be written ends nothing else; the first such index is reported. -/
def writeTier (t : Tier) (twin : Bool) (off : Nat) (bs : List Byte) (s : State) : MemWrite × State :=
  (cutLines bs.length off 0 bs).foldl
    (fun (r : MemWrite × State) c =>
      let (w, s1) := writeLine t twin c.1 c.2.2 r.2
      ({ fail := match r.1.fail with
                 | some f => some f
                 | none => w.fail.map fun f => (c.2.1, f.2),
         events := r.1.events ++ w.events }, s1))
    ({ fail := none, events := [] }, noteWrite (tierCode t) off bs.length s)

/-! ### Host memory -/

/-- How the host answers for a page of a function (log entry 5): permissions and read failure. -/
def pageMap (s : State) (f : Fn) (page : Nat) : Nat :=
  ((s.host.map.find? fun e => e.1 == f && e.2.1 == page).map (·.2.2)).getD 3

/-- Pages of 4 KiB of a range. -/
def pagesOf (a n : Nat) : List Nat :=
  if n = 0 then [a / 4096] else (List.range ((a + n - 1) / 4096 - a / 4096 + 1)).map (· + a / 4096)

/-- A translation an access needs is refused (R395, R396): ATS is enabled, the ATC holds none, and the host gives no such
permission. The ATC keeps a translation for reads and one for writes (log entry 26). -/
def atsLacks (s : State) (f : Fn) (write : Bool) (page : Nat) : Bool :=
  (getFn s f).ats && !((getHatch s f.hatch).atc.contains (f, page * 2 + (if write then 1 else 0))) &&
    pageMap s f page / (if write then 2 else 1) % 2 == 0

/-- Whether ATS gives every page of a range the permission it needs. -/
def atsOk (s : State) (f : Fn) (a n : Nat) (write : Bool) : Bool := (pagesOf a n).all fun p => !atsLacks s f write p

/-- Keep translations in the ATC of the hatch, up to 8,192 (R395). -/
def cacheAts (f : Fn) (a n : Nat) (write : Bool) (s : State) : State :=
  if (getFn s f).ats then
    modHatch f.hatch (fun h => { h with
      atc := (((pagesOf a n).map fun p => (f, p * 2 + (if write then 1 else 0))).foldl addNew h.atc).take 8192 }) s
  else s

/-- Count a refused translation (R396). -/
def countAts (h : Nat) (s : State) : State := modHatch h (fun x => { x with atsFault := satAdd 16 x.atsFault 1 }) s

/-- The DETAIL that stands for a refused translation until the docket's outcome is written (R396). -/
def atsDetail : Nat := 9

def hostMem (s : State) (h : Nat) : Mem := s.host.mems.getD h []

/-- Count a failed read in HATCH_ERR (R394). -/
def countHatchErr (h kind : Nat) (s : State) : State :=
  modHatch h (fun x =>
    if kind = 1 then { x with cplTimeout := satAdd 16 x.cplTimeout 1 }
    else if kind = 2 then { x with cplAbort := satAdd 16 x.cplAbort 1 }
    else { x with poisoned := satAdd 16 x.poisoned 1 }) s

/-- How a read of a page fails at the host (R394): the failure set for it, or an abort where the host's IOMMU gives no read
permission to an untranslated request. -/
def readFailure (s : State) (f : Fn) (page : Nat) : Nat :=
  let m := pageMap s f page
  if m / 4 % 4 ≠ 0 then m / 4 % 4 else if m % 2 = 0 ∧ ¬ (getFn s f).ats then 2 else 0

/-- Read host memory through a function (R394 to R396, R400). -/
def readHost (f : Fn) (a n : Nat) (s : State) : MemRead × State :=
  let r : MemRead := { bytes := rdBytes (hostMem s f.hatch) a n, fail := none, twin := false, events := [] }
  if !hatchUp s f.hatch then ({ r with fail := some (0, 4) }, s)
  else
    match (pagesOf a n).find? (atsLacks s f false) with
    | some p => ({ r with fail := some (p * 4096 - a, atsDetail) }, countAts f.hatch s)
    | none =>
      match (pagesOf a n).find? fun p => readFailure s f p != 0 with
      | some p => ({ r with fail := some (p * 4096 - a, 4) }, countHatchErr f.hatch (readFailure s f p) s)
      | none => (r, cacheAts f a n false s)

/-- Place bytes in host memory. -/
def putHost (h a : Nat) (bs : List Byte) (s : State) : State :=
  noteWrite (3 + h) a bs.length { s with host := { s.host with mems := modAt s.host.mems h fun m => wrBytes m a bs } }

/-- Place the bytes that the host's IOMMU does not block (R394). -/
def putAllowed (f : Fn) (a : Nat) (bs : List Byte) (s : State) : State :=
  if (getFn s f).ats || (pagesOf a bs.length).all fun p => pageMap s f p / 2 % 2 == 1 then putHost f.hatch a bs s
  else
    ((List.range bs.length).zip bs).foldl (fun t x =>
      if pageMap s f ((a + x.1) / 4096) / 2 % 2 = 1 then putHost f.hatch (a + x.1) [x.2] t else t) s

/-- Write host memory through a function (R394 to R396, R400): a write a host blocks gives no indication. -/
def writeHost (f : Fn) (a : Nat) (bs : List Byte) (s : State) : MemWrite × State :=
  if !hatchUp s f.hatch then ({ fail := some (0, 4), events := [] }, s)
  else
    match (pagesOf a bs.length).find? (atsLacks s f true) with
    | some p => ({ fail := some (p * 4096 - a, atsDetail), events := [] }, countAts f.hatch s)
    | none => ({ fail := none, events := [] }, putAllowed f a bs (cacheAts f a bs.length true s))

/-! ### Through a segment (R31, R190, R191) -/

/-- Limit of a segment. -/
def Seg.limit (g : Seg) : Nat := g.base + g.size * 2097152

/-- Whether a range lies inside a segment. -/
def Seg.holds (g : Seg) (a n : Nat) : Bool := decide (g.base ≤ a) && decide (a + n ≤ g.limit)

/-- The enabled segment that holds a whole range and allows the access (R191); a LENGTH of 0 is checked as 1 (R50). -/
def findSeg (l : List Seg) (a n : Nat) (rd wr : Bool) : Option Seg :=
  l.find? fun g => g.en && decide (0 < g.size) && g.holds a (max n 1) && (!rd || g.rd) && (!wr || g.wr)

/-- The function through which an instance reaches a hatch (R414; for a hatch other than its own, log entry 7). -/
def segFn (s : State) (i : Nat) (g : Seg) : Fn :=
  let f := fnOf s i
  if f.hatch = g.hatch then f else { hatch := g.hatch, pf := 0, vf := 0 }

/-- Read `n` bytes at an instance virtual address of a segment of KIND 0 to 3. -/
def readSeg (i : Nat) (g : Seg) (a n : Nat) (s : State) : MemRead × State :=
  if g.kind < 3 then readTier (tierOfKind g.kind) g.twin (g.target + (a - g.base)) n s
  else readHost (segFn s i g) (g.target + (a - g.base)) n s

/-- Write bytes at an instance virtual address of a segment of KIND 0 to 3. -/
def writeSeg (i : Nat) (g : Seg) (a : Nat) (bs : List Byte) (s : State) : MemWrite × State :=
  if g.kind < 3 then writeTier (tierOfKind g.kind) g.twin (g.target + (a - g.base)) bs s
  else writeHost (segFn s i g) (g.target + (a - g.base)) bs s

/-- Leave a range undefined (R5, R18, R111): free bytes, placed without any check. -/
def undefSeg (g : Seg) (a n : Nat) (s : State) : State :=
  let (bs, s1) := freeBytes n s
  let off := g.target + (a - g.base)
  if g.kind < 3 then
    modTier (tierOfKind g.kind) (fun x =>
      let y := (linesOf off n).foldl (fun z l => touch (l * 64) z) x
      { y with mem := wrBytes y.mem off bs }) (noteWrite g.kind off n s1)
  else if g.kind = 3 then putHost g.hatch (g.target + (a - g.base)) bs s1
  else s1

end Sys2Proof.Machine
end

