-- ==== Sys2Proof/Machine/Faults.lean ====
section
/-! DEFINITION. Message-signalled interrupts (16_hatches.md R408, R411), the ledger and the event ring, escalation, spares
and safe state (19_faults_takeover.md R445 to R459), as shared operations. -/
namespace Sys2Proof.Machine

/-! ### Interrupts -/

/-- Send the MSI-X message of an entry (R408, R411): a masked one sets its pending bit, one on a link in L1 waits for the
wake that CLKREQ_N asks for, one on a link that is down or of a function in D3hot stays pending. -/
def sendMsix (f : Fn) (entry : Nat) (s : State) : State :=
  let c := getFn s f
  let h := getHatch s f.hatch
  if !c.msixEn || c.msixMask || !c.unmasked.contains entry || c.d3 || !hatchUp s f.hatch then
    modFn f (fun x => { x with pendingBits := addNew x.pendingBits entry }) s
  else if h.link = .l1 ∨ h.link = .l12 then
    modHatch f.hatch (fun x => { x with wakeMsgs := x.wakeMsgs ++ [(f, entry)] })
      (if h.wakeMsgs.isEmpty then emit (.clkreq f.hatch) s else s)
  else emit (.msix f entry) s

/-! ### The ledger and the ring (R446 to R454) -/

/-- The pool and part that an event of a unit with spares concerns (R455). -/
def eventPart (e : Event) : Option (Nat × Nat) :=
  if e.cls = 0 then some (0, e.source)
  else if e.cls = 1 ∧ e.kind = 2 then some (0, e.source)
  else if e.cls = 8 then some (8, e.source)
  else if e.cls = 5 ∧ e.kind = 1 then some (5, e.source)
  else none

/-- Whether a pool holds no spare that is not reserved (R454). -/
def poolEmpty (s : State) (pool : Nat) : Bool :=
  if pool = 0 then !s.faults.units.contains .spare
  else if pool = 8 then !s.faults.pairs.contains .spare
  else false

/-- ESC_CAUSE of an event (R453, R454): 0 none, 1 repeat, 2 resource under recovery, 3 spare pool empty. -/
def escCause (e : Event) (s : State) : Nat :=
  let c := s.faults.ledger.getD e.cls LedgerClass.reset
  let resp := s.quoin.now.faultResp
  if e.level = 2 ∧ bit resp e.cls ∧ bit c.first 0 ∧ fld c.first 12 16 = e.source % 65536 then 1
  else
    match eventPart e with
    | some (pool, part) =>
      if 2 ≤ e.level ∧ e.level ≤ 3 ∧
          s.faults.recoveries.any (fun r => r.cls == pool && (r.part == part || r.spare == some part)) then 2
      else if e.level = 2 ∧ poolEmpty s pool then 3
      else 0
    | none => 0

/-- Fewer than 4 active Ruzel pairs would be left once this pair's failure finds no spare (R455). -/
def pairsExhausted (e : Event) (s : State) : Bool :=
  decide (e.cls = 8) && poolEmpty s 8 && s.faults.pairs[e.source]? == some .active && decide ((s.faults.pairs.filter (· == .active)).length ≤ 4)

/-- The level with which an event is latched (R453 to R455). -/
def escLevel (e : Event) (s : State) : Nat :=
  if pairsExhausted e s then 4 else if escCause e s = 0 then e.level else e.level + 1

/-- Word 0 of a ring entry (R451). -/
def ringWord0 (e : Event) (level cause : Nat) : Word :=
  place e.cls 0 4 ||| place level 4 3 ||| placeBit e.injected 7 ||| place cause 8 2 ||| place e.kind 16 8
    ||| place e.source 32 16

/-- The ledger's record of an event (R448). -/
def ledgerLatch (e : Event) (level cause seq : Nat) (c : LedgerClass) : LedgerClass :=
  { c with
    first := if bit c.first 0 then c.first
      else placeBit true 0 ||| place level 1 3 ||| place e.kind 4 8 ||| place e.source 12 16 ||| place seq 32 32
    detail := if bit c.first 0 then c.detail else BitVec.ofNat 64 e.detail
    top := max c.top level
    events := satAdd 24 c.events 1
    escalations := if cause = 0 then c.escalations else satAdd 16 c.escalations 1 }

/-- The manager's fault interrupt (R452, R520). -/
def faultInterrupt (s : State) : State := sendMsix (mgrFn s) (fld s.quoin.now.faultResp 32 11) s

/-- Record an event in ledger and ring (R447 to R452), and answer the level it was latched with. The interrupt of a level 4
event is that of R458, and safe state sends no other (R452, R459). -/
def record (e : Event) (s : State) : Nat × State :=
  let f := s.faults
  let level := escLevel e s
  let cause := escCause e s
  let resp := s.quoin.now.faultResp
  let recent := (f.l1Times.getD e.cls []).filter fun t => decide (s.clk.ptp < t + 10000000)
  let held := decide (level = 1) && decide (fld resp 20 8 ≤ recent.length)
  let full := decide ((f.wi + 512 - f.ri) % 512 = 256)
  let tells := decide (level ≠ 4) && decide (s.startup ≠ .safe)
  let entry := [ringWord0 e level cause, BitVec.ofNat 64 e.detail, BitVec.ofNat 64 s.time.tick,
    place (subtick s) 0 32 ||| place f.seq 32 32]
  let f1 := { f with
    seq := (f.seq + 1) % 2 ^ 32
    ledger := modAt f.ledger e.cls (ledgerLatch e level cause f.seq)
    l1Times := if level = 1 ∧ held = false ∧ full = false then modAt f.l1Times e.cls fun _ => recent ++ [s.clk.ptp] else f.l1Times }
  if held then (level, { s with faults := { f1 with suppressed := satAdd 15 f1.suppressed 1 } })
  else if full then
    let s1 := { s with faults := { f1 with lost := satAdd 32 f1.lost 1, overflow := true } }
    (level, if tells && !f.overflow then faultInterrupt s1 else s1)
  else
    let s1 := { s with faults := { f1 with ring := tset f1.ring (f1.wi % 256) entry, wi := (f1.wi + 1) % 512 } }
    (level, if tells && decide (fld resp 16 3 ≤ level) then faultInterrupt s1 else s1)

/-! ### Safe state (R458, R459) -/

/-- Leave the destination of a docket undefined over its full length (R111, R112, R459). -/
def undefDocket (segs : List Seg) (lig : Option (List Word)) (w : List Word) (s : State) : State :=
  each (destRanges lig w) (fun d t =>
    match findSeg segs d.1 d.2 false true with
    | some g => undefSeg g d.1 d.2 t
    | none => t) s

/-- The ligature entry a docket names, as the table holds it. -/
def tableLig (x : Inst) (w : List Word) : Option (List Word) := if dLig w = 0 then none else tget x.ligs (dLig w)

/-! ### Ranks and the ends of a move (R31, R33, R120, R190) -/

/-- The endpoint a queue is attached to, with its binding. -/
def queueEndpoint (s : State) (q : Queue) : Option Endpoint :=
  if q.desc.epValid then (tget s.endpoints q.desc.endpoint).bind fun e => if e.valid then some e else none else none

/-- DEVICE and ENDPOINT of a rank in an endpoint's rank table. -/
def rankOf (e : Endpoint) (rank : Nat) : Option (Nat × Nat) :=
  if rank < e.rankCount then
    (tget e.ranks rank).bind fun (r : Nat × Nat × Bool) => if r.2.2 then some (r.1, r.2.1) else none
  else none

/-- Resolve a rank for a docket, through the rank table its queue's endpoint had when the docket started (R29, R33). -/
def runRank (r : Run) (rank : Nat) : Option (Nat × Nat) := r.bound.bind fun e => rankOf e rank

/-- Where an operand lies. -/
inductive End where
  | near (g : Seg) (a : Nat)
  | far (rank window off : Nat)
  | fault
deriving DecidableEq, Repr

/-- Resolve a local operand. -/
def localEnd (l : List Seg) (a n : Nat) (write : Bool) : End :=
  match findSeg l a n (!write) write with
  | none => .fault
  | some g => if g.kind < 4 then .near g a else .far g.rank g.window (g.target % 2 ^ 48 + (a - g.base))

/-- Source and destination of COPY, WRITE, SEND and READ, under the segments and the ligature of a docket. -/
def docketEnds (l : List Seg) (lig : Option (List Word)) (w : List Word) : End × End :=
  let op := dOp w
  (if op = opRead then .far (dRank w) (dWindow w) (dSrc w % 2 ^ 48) else localEnd l (dSrc w) (dLen w) false,
   if op = opWrite ∨ op = opSend then .far (dRank w) (dWindow w) (dDst w % 2 ^ 48)
   else localEnd l (dDst w) (moveLen lig w) true)

/-- The segment, address and length that a docket writes through a window of this device itself: the remote range of a
WRITE, SEND, ATOMIC, or of a move into a remote window (R126, R139). -/
def ownTarget (s : State) (e : Option Endpoint) (l : List Seg) (lig : Option (List Word)) (w : List Word) :
    Option (Seg × Nat × Nat) :=
  let far := if dOp w = opAtomic then some (dRank w, dWindow w, dDst w % 2 ^ 48, 8)
    else match (docketEnds l lig w).2 with
      | .far rank window off => some (rank, window, off, moveLen lig w)
      | _ => none
  far.bind fun t =>
    (e.bind fun x => rankOf x t.1).bind fun d =>
      if d.1 ≠ s.plates.device then none
      else
        (tget s.endpoints d.2).bind fun y =>
          (tget (getInst s y.inst).wins t.2.1).bind fun v =>
            if y.valid && v.valid && v.endpoint == d.2 && decide (t.2.2.1 + t.2.2.2 ≤ v.length) then
              (findSeg (getInst s y.inst).segs (v.base + t.2.2.1) t.2.2.2 false true).map fun g => (g, v.base + t.2.2.1, t.2.2.2)
            else none

/-- The remote range of a docket is undefined (R111, R139, R459); another device's memory is no part of this state. -/
def undefTarget (e : Option Endpoint) (l : List Seg) (lig : Option (List Word)) (w : List Word) (s : State) : State :=
  if [opCopy, opWrite, opSend, opRead, opAtomic].contains (dOp w) && !isRaw w then
    match ownTarget s e l lig w with
    | some (g, a, n) => undefSeg g a n s
    | none => s
  else s

/-- The remote range of a docket that moved data and ends ABORTED or UNREACHABLE is undefined (R111, R139). -/
def undefFar (r : Run) (w : List Word) (s : State) : State := undefTarget r.bound r.segs r.lig w s

/-- Every docket of a queue that was fetched or started and not receipted leaves its destination undefined. -/
def undefQueue (x : Inst) (q : Queue) (s : State) : State :=
  let e := queueEndpoint s q
  each q.runs (fun r t => let w := view q.desc.v1 r.words
      undefFar r w (undefDocket r.segs r.lig w t))
    (each q.fetched (fun f t => let w := view q.desc.v1 f.words
      undefTarget e x.segs (tableLig x w) w (undefDocket x.segs (tableLig x w) w t)) s)

/-- Erase every key of the device (R444): the slots erased. -/
def eraseAllKeys (s : State) : Nat × State :=
  (sumOf (fun p => p.2.keys.length) s.insts,
    { s with insts := tmap s.insts fun _ x =>
        { x with keys := [], regs := { x.regs with keyData := [0, 0, 0, 0] } } })

/-- Silence a port: DOWN, replay buffer, buffers and partial packets discarded (R307, R458). -/
def silencePort (p : Port) : Port :=
  if p.st = .unused then p
  else { p with st := .down, returns := false, replay := [], buffers := [], partials := [], recovery := false,
                frames := [], credits := [], owed := [], linked := false, peerSeen := false, ahead := [], linkLocal := [] }

/-- Entry to safe state (R458). The tiers go to self-refresh unless the cause is SHELF, STORE, SPINE, POWER or WATCH. -/
def enterSafe (e : Event) (seq : Nat) (s : State) : State :=
  if s.startup = .safe then s
  else
    let keep := ¬ (e.cls = 2 ∨ e.cls = 3 ∨ e.cls = 7 ∨ e.cls = 10 ∨ e.cls = 14)
    let s0 := s.insts.foldl (fun t p => each p.2.queues (fun q => undefQueue p.2 q.2) t) s
    let (n, s1) := eraseAllKeys s0
    let s2 := { s1 with startup := .safe, misc := { s1.misc with alarmErases := satAdd 8 s1.misc.alarmErases 1 } }
    let s3 := (record { cls := 11, kind := 2, level := 0, source := 0, detail := n, injected := false } s2).2
    let s4 : State := { s3 with
      runs := []
      time := { s3.time with gen := .stopped, first := none }
      fabric := { s3.fabric with ports := s3.fabric.ports.map silencePort, inject := [], ejected := [] }
      faults := { s3.faults with
        safeN := false, aliveOn := false, wdogOn := false
        safeStatus := placeBit true 0 ||| placeBit (decide keep) 1 ||| place e.cls 4 4 ||| place e.kind 8 8
          ||| place e.source 16 16 ||| place seq 32 32 }
      shelf := { s3.shelf with ready := false }
      store := { s3.store with ready := false }
      boot := { s3.boot with keptTier := s3.plates.digests.getD 3 [] } }
    let s5 := emit (.safeN false) s4
    let pf0 : Fn := { hatch := 0, pf := 0, vf := 0 }
    let vec := fld s.quoin.now.faultResp 32 11
    let s6 := if (getHatch s5 0).link = .up then sendMsix pf0 vec s5 else s5
    if mgrFn s5 ≠ pf0 ∧ (getHatch s5 (mgrFn s5).hatch).link = .up then sendMsix (mgrFn s5) vec s6 else s6

/-- Latch an event (R448): record it, and enter safe state when it is latched at level 4. -/
def latch (e : Event) (s : State) : State :=
  let (level, s1) := record e s
  if level = 4 then enterSafe e s.faults.seq s1 else s1

/-- Latch the events that a memory access found. -/
def latchAll (es : List Event) (s : State) : State := each es latch s

/-- An event that the device makes itself. -/
def event (cls kind level source detail : Nat) : Event :=
  { cls := cls, kind := kind, level := level, source := source, detail := detail, injected := false }

/-! ### Spares (R455, R456) -/

/-- Press units in a state. -/
def unitsIn (s : State) (u : UnitState) : Nat := (s.faults.units.filter fun x => decide (x = u)).length

/-- Number of active press units, n. -/
def activeUnits (s : State) : Nat := unitsIn s .active

/-- The capability pages show what is in force (R455, R503), at each edge. -/
def showPages (s : State) : State :=
  modFaults (fun f => { f with shownUnits := (unitsIn s .active, unitsIn s .spare) })
    { s with insts := tmap s.insts fun _ x => { x with shown := x.record } }

/-- The lowest unit of a list in a state. -/
def findState (l : List UnitState) (u : UnitState) : Option Nat := (List.range l.length).find? fun i => l[i]? == some u

/-- Blocks in flight on a unit become withheld (R244). -/
def withhold (u : Nat) (p : PressRun) : PressRun :=
  { p with withheld := p.withheld ++ p.flying.filter (fun b => b.unit == u)
                       ++ (p.replays.filter fun b => b.unit == u),
           flying := p.flying.filter (fun b => b.unit != u),
           replays := p.replays.filter (fun b => b.unit != u) }

/-- Change every started press operation. -/
def modPress (f : PressRun → PressRun) (s : State) : State :=
  { s with insts := tmap s.insts fun _ x => { x with queues := tmap x.queues fun _ q =>
      { q with runs := q.runs.map fun r => { r with press := r.press.map f } } } }

/-- Give the withheld blocks of a part to its spare, or to any unit (R456). -/
def replayOn (part : Nat) (spare : Option Nat) (p : PressRun) : PressRun :=
  { p with replays := p.replays ++ (p.withheld.filter fun b => b.unit == part).map
              (fun b => { block := b.block, unit := spare.getD 255, replay := true }),
           withheld := p.withheld.filter fun b => b.unit != part }

/-- One takeover completes (R455): the spare enters service and the withheld blocks of the failed part are replayed. -/
def completeTakeover (r : Recovery) (s : State) : State :=
  if r.cls = 0 then
    modPress (replayOn r.part r.spare)
      (modFaults (fun f => { f with units := match r.spare with
                                             | some u => modAt f.units u fun _ => .active
                                             | none => f.units }) s)
  else if r.cls = 8 then
    modFaults (fun f => { f with pairs := match r.spare with
                                          | some u => modAt f.pairs u fun _ => .active
                                          | none => f.pairs }) s
  else s

/-- Every takeover scheduled for an edge completes, in the order of SEQ (R13 step 3, R455). -/
def completeTakeovers (s : State) : State :=
  let todo := s.faults.recoveries.filter fun r => !r.entered
  let s1 := each todo completeTakeover s
  modFaults (fun f => { f with
    recoveries := f.recoveries.map (fun r => { r with entered := true })
    ledger := f.ledger }) s1

/-- Start the recovery, latched in a class, of a failed part of a pool (R454, R455): a spare is reserved for it when one is
left. -/
def startRecovery (latchedIn pool part : Nat) (s : State) : State :=
  let f := s.faults
  let l := if pool = 0 then f.units else f.pairs
  let spare := findState l .spare
  let l1 := modAt l part fun _ => .retired
  let l2 := match spare with
    | some u => modAt l1 u fun _ => .reserved
    | none => l1
  let s1 := modFaults (fun g => { g with
    units := if pool = 0 then l2 else g.units
    pairs := if pool = 0 then g.pairs else l2
    recoveries := g.recoveries ++ [{ cls := pool, latchedIn := latchedIn, part := part, spare := spare, entered := false }] }) s
  let s2 := if pool = 0 then modPress (withhold part) s1 else s1
  if ticking s2 then s2 else completeTakeovers s2

/-- A spare that is reserved fails before the edge that would bring it into service (R454): the recovery that reserved it
takes another spare, or has none, and the failed spare's own recovery ends at that edge too. -/
def replaceSpare (latchedIn pool u : Nat) (s : State) : State :=
  let t := startRecovery latchedIn pool u s
  let next := findState (if pool = 0 then s.faults.units else s.faults.pairs) .spare
  let waits (r : Recovery) : Bool := r.cls == pool && !r.entered
  let moved (r : Recovery) : Recovery :=
    if waits r && r.spare == some u then { r with spare := next }
    else if waits r && r.part == u then { r with spare := none }
    else r
  if ticking s && s.faults.recoveries.any (fun r => waits r && r.spare == some u) then
    modFaults (fun f => { f with recoveries := f.recoveries.map moved }) t
  else t

/-- Whether a replay of a recovery is still going on (R456). -/
def replayLeft (s : State) (r : Recovery) : Bool :=
  r.cls == 0 && (match r.spare with
    | some u => (allQueues s).any fun q => q.2.2.runs.any fun x => match x.press with
        | some p => (p.replays ++ p.flying).any fun b => b.replay && b.unit == u
        | none => false
    | none => false)

/-- Recoveries that have ended leave the list. -/
def endRecoveries (s : State) : State :=
  modFaults (fun f => { f with recoveries := f.recoveries.filter fun r => !r.entered || replayLeft s r }) s

/-- RECOVERING of a ledger class (R448): a recovery latched in it is in progress. -/
def recovering (s : State) (cls : Nat) : Bool := s.faults.recoveries.any fun r => r.latchedIn == cls

/-- Retire a press unit (R244, R455): its blocks in flight are withheld and a spare is reserved. -/
def retireUnit (latchedIn u : Nat) (s : State) : State :=
  match s.faults.units[u]? with
  | some .active => startRecovery latchedIn 0 u s
  | some .reserved => replaceSpare latchedIn 0 u s
  | some .spare => modFaults (fun f => { f with units := modAt f.units u fun _ => .retired }) s
  | _ => s

end Sys2Proof.Machine
end

