-- ==== Sys2Proof/Machine/Flags.lean ====
section
/-! DEFINITION. The words the device reports in: receipts (05_dockets_receipts.md R97, R124, R136), queue results (R86), and
the flags of a receipt: PHASE, LATE, KIND. -/
namespace Sys2Proof.Machine

/-- Status codes of R139. -/
def stOk : Nat := 0
def stAborted : Nat := 1
def stMalformed : Nat := 2
def stSegmentFault : Nat := 3
def stWindowFault : Nat := 4
def stAuthFail : Nat := 5
def stDataError : Nat := 6
def stLaggard : Nat := 7
def stUnreachable : Nat := 8
def stDeadlineMissed : Nat := 9
def stPermitTimeout : Nat := 10
def stRemoteRefused : Nat := 11
def stHeldResumed : Nat := 12

/-- An outcome without EXTRA and flags. -/
def settledAs (status bytes detail : Nat) : Settled :=
  { status := status, bytes := bytes, detail := detail, extra := 0, foldDenied := false, twin := false }

/-- OK with a byte count. -/
def settledOk (bytes : Nat) : Settled := settledAs stOk bytes 0

/-- PHASE of receipt number `wi` (R97): 1 while the wrap bit of WI is 0. -/
def phase (ringCode wi : Nat) : Bool := wi / 2 ^ ringCode % 2 == 0

/-- The four words of a receipt (R136). -/
def receiptWords (ph : Bool) (r : Receipt) : List Word :=
  [placeBit ph 0 ||| place r.kind 1 1 ||| place r.out.status 8 8 ||| place r.index 16 16 ||| place r.tag 32 32,
   place r.out.bytes 0 40 ||| placeBit r.out.foldDenied 40 ||| placeBit r.late 41 ||| placeBit r.out.twin 42
     ||| place r.out.detail 48 16,
   r.out.extra,
   place r.tickLo 0 32 ||| place r.subtick 32 32]

/-- STATE of QC_RESULT0 (R86). -/
def qstateCode : QState → Nat
  | .active => 1
  | .error => 2
  | .draining => 3
  | .stopped => 4
  | .held => 5

/-- QC_RESULT0 of a queue (R86). -/
def qcResult0 (q : Queue) : Word :=
  place (qstateCode q.st) 0 3 ||| placeBit q.sweep.isSome 3 ||| placeBit q.receiptFull 4 ||| placeBit q.badRelease 5
    ||| placeBit q.fetchErr 6 ||| place q.fetched.length 8 4 ||| place q.si 16 17 ||| place q.ci 33 17

/-- QC_RESULT1 of a queue (R86). -/
def qcResult1 (q : Queue) : Word := place q.wi 0 17 ||| place q.ri 17 17 ||| place q.errIndex 34 16

/-- A status register of the common form: RESULT in bits 7:4, an index above (R86, R231, R290, R432). -/
def resultWord (result index width : Nat) : Word := place result 4 4 ||| place index 8 width

end Sys2Proof.Machine
end

