-- ==== Sys2Proof/Machine/Ops.lean ====
section
/-! DEFINITION. The shared operations of queues (04_queues_rings.md): rings, scans, receipts, retirement, interrupts and
their moderation (16_hatches.md R408 to R412), MALFORMED and the end of dockets. -/
namespace Sys2Proof.Machine

/-! ### Ring arithmetic (R91) -/

/-- N, the number of slots. -/
def ringSize (q : Queue) : Nat := 2 ^ q.desc.ringCode

/-- (a − b) mod 2N. -/
def ringDiff (q : Queue) (a b : Nat) : Nat := (a + 2 * ringSize q - b % (2 * ringSize q)) % (2 * ringSize q)

/-- R of R99 and R123: dockets started and not receipted, recorded outcomes, and slots reserved for notifications. -/
def reservedSlots (q : Queue) : Nat := (q.runs.filter (·.started)).length + q.record.length + q.reserved

/-- Whether a receipt slot is released and not reserved (R99, R100, R123). -/
def receiptRoom (q : Queue) : Bool := decide (ringDiff q q.wi q.ri + reservedSlots q < ringSize q)

/-- Bytes of a docket slot (R36, R88). -/
def docketSize (q : Queue) : Nat := if q.desc.v1 then 32 else 64

/-- Advance CI over every leading retired slot (R95). -/
def advanceCi : Nat → Queue → Queue
  | 0, q => q
  | n + 1, q =>
    let slot := q.ci % ringSize q
    if q.retired.contains slot && decide (q.ci ≠ q.si) then
      advanceCi n { q with ci := (q.ci + 1) % (2 * ringSize q), retired := q.retired.filter (· != slot),
                           neverStarted := q.neverStarted.filter (· != slot) }
    else q

/-- Retire a slot of the ring. -/
def retire (slot : Nat) (q : Queue) : Queue :=
  if q.desc.planned then q else advanceCi (ringSize q + 1) { q with retired := addNew q.retired slot }

/-! ### Interrupts of a queue (R408 to R412) -/

/-- The MSI-X entry of a queue (R415). -/
def queueEntry (s : State) (i : Nat) (q : Queue) : Nat :=
  match slotOf s i with
  | some x => (if x.pfPage then x.msixBase else 0) + q.desc.msix
  | none => q.desc.msix

/-- Send a PM_PME message (R410, R411): a link in L1 is first brought to L0. -/
def sendPme (f : Fn) (s : State) : State :=
  let l := (getHatch s f.hatch).link
  if l = .l1 ∨ l = .l12 then emit (.pme f) (modHatch f.hatch (fun h => { h with link := .up }) (emit (.clkreq f.hatch) s))
  else emit (.pme f) s

/-- The hatch on which a write of an instance leaves, if its range lies in host memory. -/
def writeHatch (l : List Seg) (a n : Nat) : Option Nat :=
  (findSeg l a n false true).bind fun g => if g.kind = 3 then some g.hatch else none

/-- The hatch on which the receipts of a queue leave. -/
def receiptHatch (s : State) (i : Nat) (q : Queue) : Option Nat := writeHatch (getInst s i).segs q.desc.receiptBase 32

/-- A write leaves on a hatch after writes on others: a zero-length read completes on each of those first (R393). -/
def flushOther (earlier : List Nat) (home : Option Nat) (s : State) : State :=
  match home with
  | none => s
  | some h => each ((earlier.foldl addNew []).filter (· != h)) (fun k t => emit (.zeroRead k) t) s

/-- The interrupt of a queue is due: it is sent, or waits for D0 (with a PME, R410) or for ARM (R412). -/
def raiseQueue (i qi : Nat) (s : State) : State :=
  match getQueue s i qi with
  | none => s
  | some q =>
    let f := { fnOf s i with hatch := q.home }
    let s1 := modQueue i qi (fun y => { y with counted := 0, countedAt := none, modDue := none }) s
    if !hatchUp s q.home ∨ q.st = .held then modQueue i qi (fun y => { y with dueWaits := true }) s1
    else if (getFn s f).d3 then
      let s2 := modQueue i qi (fun y => { y with dueWaits := true }) s1
      if (getFn s f).pmeEn && !(getFn s f).pmeStatus then sendPme f (modFn f (fun c => { c with pmeStatus := true }) s2)
      else s2
    else sendMsix f (queueEntry s i q) (flushOther (receiptHatch s i q).toList (some q.home) s1)

/-- COUNT and TIME of MOD_CFG. -/
def modCount (q : Queue) : Nat := fld q.modCfg 0 16
def modTime_ (q : Queue) : Nat := fld q.modCfg 16 16

/-- Count a SIGNAL or notification receipt (R118, R409) under the MOD_CFG in force, and raise the interrupt when it is due. -/
def countReceipt (i qi : Nat) (s : State) : State :=
  match getQueue s i qi with
  | none => s
  | some q =>
    let n := q.counted + 1
    let t0 := q.countedAt.getD s.clk.mono
    let due := t0 + modTime_ q * 1000
    let s1 := modQueue i qi (fun y => { y with
      counted := n, countedAt := some t0, modDue := some (min due (y.modDue.getD due)) }) s
    if due ≤ s.clk.mono ∨ (0 < modCount q ∧ modCount q ≤ n) then raiseQueue i qi s1 else s1

/-! ### Receipts (R95 to R100) -/

/-- Write one receipt into slot WI mod N (R97). A ring that no longer resolves loses the receipt. -/
def writeReceipt (i qi : Nat) (r : Receipt) (s : State) : State :=
  match getQueue s i qi with
  | none => s
  | some q =>
    let a := q.desc.receiptBase + 32 * (q.wi % ringSize q)
    let bs := bytesOf (receiptWords (phase q.desc.ringCode q.wi) r)
    let s1 := match findSeg (getInst s i).segs a 32 false true with
      | some g => (writeSeg i g a bs s).2
      | none => s
    let s2 := modQueue i qi (fun y => { y with wi := (y.wi + 1) % (2 * ringSize y) }) s1
    let s3 := modInst i (fun x => { x with
      missed := if r.out.status = stDeadlineMissed ∧ r.kind = 0 then satAdd 32 x.missed 1 else x.missed
      late := if r.late then satAdd 32 x.late 1 else x.late }) s2
    if r.signal then countReceipt i qi s3 else s3

/-- Rewrite byte 0 of a slot with OWN = 0 (R95). -/
def clearOwn (i qi slot : Nat) (s : State) : State :=
  match getQueue s i qi with
  | none => s
  | some q =>
    if q.desc.planned then s
    else
      let a := q.desc.docketBase + docketSize q * slot
      match findSeg (getInst s i).segs a 1 false true with
      | some g =>
        let (b, s1) := readSeg i g a 1 s
        (writeSeg i g a [(b.bytes.getD 0 0) &&& 0xFE] s1).2
      | none => s

/-- Whether receipts of a queue reach its ring: not HELD, home hatch up, function in D0 (R399, R410). -/
def receiptsFlow (s : State) (i : Nat) (q : Queue) : Bool :=
  decide (q.st ≠ .held) && hatchUp s q.home && !(getFn s { fnOf s i with hatch := q.home }).d3

/-- A docket that never started ends (R95): OWN cleared, its receipt written, its slot retired. -/
def writeEnd (i qi : Nat) (r : Receipt) (s : State) : State :=
  modQueue i qi (fun q => retire r.index (if q.desc.planned then q else
    { q with neverStarted := addNew q.neverStarted r.index })) (writeReceipt i qi r (clearOwn i qi r.index s))

/-- A docket ends with a receipt that needs no reserved slot (R100): it is written at once when a free slot exists and no
earlier one waits, and otherwise waits in completion order. -/
def endUnstarted (i qi : Nat) (r : Receipt) (s : State) : State :=
  match getQueue s i qi with
  | some q =>
    if q.waiting.isEmpty && receiptRoom q && receiptsFlow s i q then writeEnd i qi r s
    else modQueue i qi (fun y => { y with waiting := y.waiting ++ [r] }) s
  | none => s

/-- The ABORTED outcome (R111). -/
def aborted : Settled := settledAs stAborted 0 0

/-- The receipt of a docket as it ends now. -/
def receiptOf (s : State) (slot : Nat) (words : List Word) (out : Settled) (late : Bool) : Receipt :=
  { kind := 0, index := slot % 65536, tag := fld (wd words 0) 32 32, out := out, late := late,
    tickLo := s.time.tick % 2 ^ 32, subtick := subtick s, signal := bit (wd words 0) 2 }

/-- LATE of a docket that completes now (R72, R73); a stopped generator has ended no tick since its last edge. -/
def isLate (s : State) (r : Run) (v1 : Bool) : Bool :=
  if r.planned then decide (r.fetchTick < tickNow s)
  else
    let d := if v1 then 0 else fld (wd r.words 1) 32 8
    d != 0 && decide (r.fetchTick + d ≤ tickNow s)

/-- Whether every outstanding docket of a DRAINING queue has its receipt (R110). -/
def drained (q : Queue) : Bool := q.fetched.isEmpty && q.runs.isEmpty && q.waiting.isEmpty && q.record.isEmpty

/-- DRAINING becomes STOPPED once the last outstanding receipt is written (R90). -/
def settleDrain (i qi : Nat) (s : State) : State :=
  modQueue i qi (fun q => if q.st = .draining ∧ drained q then { q with st := .stopped } else q) s

/-- The same for a queue whose runs are wholly gone: the run leaves the queue. -/
def dropRun (ord : Nat) (q : Queue) : Queue :=
  { q with runs := q.runs.filter fun r => r.ord != ord }

/-- A segment has storage of a tier in a range that was freed. -/
def segUses (t : Tier) (f : FreeWait) (g : Seg) : Bool :=
  g.en && decide (g.kind < 3) && decide (tierOfKind g.kind = t) && decide (g.target < f.start + f.length) &&
    decide (f.start < g.target + g.size * 2097152)

/-- A started docket is bound to storage (R29): through the segments of its ranges, or for an opcode whose ranges follow
from lists or tiles, through any segment it was bound to. -/
def runUses (t : Tier) (f : FreeWait) (q : Queue) (r : Run) : Bool :=
  let w := view q.desc.v1 r.words
  r.started && (if isPress (dOp w) || dOp w == opTileCopy || dOp w == opCollOpen then r.segs.any (segUses t f)
    else (localRanges r.lig w).any fun x =>
      match findSeg r.segs x.1 x.2.1 false false with
      | some g => segUses t f g
      | none => false)

/-- A docket or an inbound message is still bound to freed storage (R146, R193, R195). -/
def stillBound (s : State) (t : Tier) (f : FreeWait) : Bool :=
  (allQueues s).any (fun q => q.2.2.runs.any (runUses t f q.2.2) || q.2.2.record.any fun h => runUses t f q.2.2 h.run) ||
    s.dlv.rx.any (fun c => c.msgs.any fun m => m.seg.any (segUses t f)) ||
    s.ether.roce.any fun c => c.2.rx.any fun m => m.seg.any (segUses t f)

/-- Freed storage to which nothing is bound any more is marked untouched and returned to its pool (R146). -/
def reclaimTier (bound : FreeWait → Bool) (x : TierSt) : TierSt :=
  let done := x.freeing.filter fun f => !bound f
  { (done.foldl (fun (y : TierSt) f =>
      { y with mem := clearBytes y.mem f.start f.length,
               touched := y.touched.filter fun g => decide (g * 65536 + 65536 ≤ f.start) || decide (f.start + f.length ≤ g * 65536),
               bad := y.bad }) x) with
    freeing := x.freeing.filter bound }

def reclaim (s : State) : State :=
  { s with
    shelf := reclaimTier (stillBound s .shelf) s.shelf
    store := reclaimTier (stillBound s .store) s.store
    cellar := reclaimTier (stillBound s .cellar) s.cellar }

/-! ### Galley masters (R175 to R180) -/

/-- Master numbers of R179: a DMA master is a copy engine of a hatch, the fill path, the switch core, the queue engine or the
manager's window; the press units and the Ruzel pairs are processors. -/
def mRead (h : Nat) : Nat := 110 + 2 * h
def mWrite (h : Nat) : Nat := 111 + 2 * h
def mFill : Nat := 118
def mSwitch : Nat := 119
def mQueue : Nat := 120
def mWindow : Nat := 121
def isDma (m : Nat) : Bool := decide (110 ≤ m) && decide (m ≤ 121)

/-- A master's requests to the galley, at most so many where that is known: in how many bank cycles they are refused is free,
as all masters' timing decides (log entry 77). A DMA request is granted after 256 refusals in a row, and each such grant
counts in GUARD (R177); a processor has no such limit and no GUARD. FREEZE holds the counters (R179). -/
def galleyAccess (m : Nat) (requests : Option Nat) (s : State) : State :=
  let free := Config.refusedCycles s.freeCount m
  let lost := match requests with
    | some n => if isDma m then free % (256 * n + 1) else free
    | none => free
  let guards := if isDma m then Config.guardGrants s.freeCount m % (lost / 256 + 1) else 0
  let old := (tget s.galley.conflicts m).getD (0, 0)
  let s1 := { s with freeCount := s.freeCount + 1 }
  if s.galley.cflFreeze then s1
  else modGalley (fun g => { g with conflicts := tset g.conflicts m (satAdd 40 old.1 lost, satAdd 16 old.2 guards) }) s1

/-- INVALIDATE's hold learns that its receipt was written (R107). -/
def markHolds (i qi slot : Nat) (s : State) : State :=
  { s with insts := tmap s.insts fun _ x => { x with queues := tmap x.queues fun _ q =>
      { q with hold := q.hold.map fun h =>
          if h.byInst = i ∧ h.byQueue = qi ∧ h.bySlot = slot then { h with receiptWritten := true } else h } } }

/-- The hatches on which the data of a docket leave. -/
def dataHatches (q : Queue) (r : Run) : List Nat :=
  (destRanges r.lig (view q.desc.v1 r.words)).filterMap fun d => writeHatch r.segs d.1 d.2

/-- The OWN-clear write of a docket that ran, after its data, and the reads that its receipt needs before it (R95, R41, R393). -/
def clearAfter (i qi : Nat) (q : Queue) (r : Run) (s : State) : State :=
  let own := if q.desc.planned then none else writeHatch (getInst s i).segs (q.desc.docketBase + docketSize q * r.slot) 1
  let s1 := clearOwn i qi r.slot (flushOther (dataHatches q r) own s)
  flushOther (match own with | some h => [h] | none => dataHatches q r) (receiptHatch s i q) s1

/-- STATE of COLL_INFO0 (R289). -/
def collCode : CollState → Nat
  | .opening => 1
  | .open => 2
  | .broken => 3

/-- COLL_INFO0 to 2 of a handle as it stands (R289). -/
def collShow (c : Coll) : List Word :=
  [place (collCode c.st) 0 3 ||| place c.granted 8 7 ||| place c.nextRun 16 32,
   place c.slowest 0 18 ||| place c.lateBy 32 32, place c.runCount 0 32 ||| place c.laggards 32 32]

/-- The handle that a receipt of a collective speaks of: an open that succeeded gives it in EXTRA (R271, R272, R288). -/
def receiptHandle (w : List Word) (out : Settled) : Option Nat :=
  if dOp w = opCollRun ∨ dOp w = opCollClose then some (dHandle w)
  else if dOp w = opCollOpen ∧ (out.status = stOk ∨ out.status = stHeldResumed) then some (fld out.extra 0 16)
  else none

/-- The registers of a handle and LAG_LAST and LAG_COUNT follow the receipt of a collective (R289). -/
def collReceipt (i ord : Nat) (w : List Word) (out : Settled) (s : State) : State :=
  let onRun (f : Coll → Coll) (t : State) : State :=
    if dOp w = opCollRun then modInst i (fun x => { x with colls := tmod x.colls (dHandle w) f }) t else t
  let show_ (t : State) : State := match receiptHandle w out with
    | some h => modInst i (fun x => { x with colls := tmod x.colls h fun c => { c with info := collShow c } }) t
    | none => t
  let s1 := if out.status = stOk ∨ out.status = stHeldResumed then
      onRun (fun c => { c with slowest := fld out.extra 0 18, lateBy := fld out.extra 32 32, runCount := satAdd 32 c.runCount 1 }) s
    else s
  show_ (match s.collDev.ended.find? fun e => e.1 == i && e.2.1 == ord with
  | none => s1
  | some (_, _, h, rank) =>
    onRun (fun c => { c with slowest := rank, laggards := satAdd 32 c.laggards 1 }) { s1 with collDev := { s1.collDev with
      lagLast := place rank 0 18 ||| place i 18 12 ||| place h 30 16
      lagCount := satAdd 64 s1.collDev.lagCount 1
      ended := s1.collDev.ended.filter fun e => !(e.1 == i && e.2.1 == ord) } })

/-- A source range of a docket overlaps a destination range (R404). -/
def selfOverlaps (l : Option (List Word)) (w : List Word) : Bool :=
  let rs := localRanges l w
  rs.any fun a => !a.2.2 && rs.any fun b => b.2.2 && decide (a.1 < b.1 + b.2.1) && decide (b.1 < a.1 + a.2.1)

/-- The destination of a re-executed docket whose ranges overlap is undefined over its full LENGTH (R404). -/
def spoilResumed (q : Queue) (r : Run) (s : State) : State :=
  let w := view q.desc.v1 r.words
  if r.resumed && selfOverlaps r.lig w then undefDocket r.segs r.lig w s else s

/-- A line of a docket was read from a twin copy (R18, R138): by its own reads, its press operation or its messages. -/
def servedTwin (s : State) (i qi : Nat) (r : Run) : Bool :=
  r.twin || (match r.press with | some p => p.twin | none => false) ||
    s.dlv.tx.any fun c => c.msgs.any fun m => m.owner == .docket i qi r.ord && m.twin

/-- A collective runs without the bins it asked for (R19, R269). -/
def foldDenied (c : Coll) (mode : Nat) : Bool := decide (mode ≤ 1) && decide (c.bins ≠ 0) && decide (c.granted = 0)

/-- The receipts of a COLL_RUN whose handle was denied its bins carry FOLD_DENIED, whatever their status (R19, R269). -/
def runDenied (s : State) (i qi : Nat) (w : List Word) : Bool :=
  dOp w == opCollRun && (match tget (getInst s i).colls (dHandle w) with
    | some c => c.queue == qi && decide (c.st ≠ .opening) && foldDenied c (fld (wd w 5) 16 2)
    | none => false)

/-- An outcome with the flags that no status takes away (R18, R19, R138). -/
def flagged (s : State) (i qi : Nat) (q : Queue) (r : Run) (out : Settled) : Settled :=
  { out with
    twin := out.twin || servedTwin s i qi r
    foldDenied := out.foldDenied || runDenied s i qi (view q.desc.v1 r.words) }

/-- An outcome after re-execution (R139): OK becomes HELD_RESUMED, DETAIL 0. -/
def heldResumed (out : Settled) : Settled := if out.status = stOk then { out with status := stHeldResumed, detail := 0 } else out

/-- A started docket with a settled outcome ends (R95, R41, R18): OWN cleared, receipt written, slot retired, moderation
counted; on a HELD queue its outcome goes to the record (R399). A re-executed docket that is OK reports HELD_RESUMED. -/
def finishRun (i qi : Nat) (r : Run) (out : Settled) (s : State) : State :=
  match getQueue s i qi with
  | none => s
  | some q =>
    let late := isLate s r q.desc.v1
    let out0 := flagged s i qi q r out
    let out1 := if r.resumed then heldResumed out0 else out0
    let s := spoilResumed q r s
    if q.st = .held then
      modQueue i qi (fun y => { dropRun r.ord y with
        unfinished := y.unfinished.filter (· != r.slot)
        record := y.record ++ [{ run := r, out := out1, late := late,
                                 tickLo := s.time.tick % 2 ^ 32, subtick := subtick s }] }) s
    else
      let s1 := clearAfter i qi q r s
      let s2 := modQueue i qi (fun y => { dropRun r.ord y with unfinished := y.unfinished.filter (· != r.slot) }) s1
      let s3 := collReceipt i r.ord (view q.desc.v1 r.words) out1 (writeReceipt i qi (receiptOf s r.slot r.words out1 late) s2)
      let s4 := modQueue i qi (fun y => if r.planned then y else retire r.slot y) s3
      endRecoveries (reclaim (settleDrain i qi (markHolds i qi r.slot s4)))

/-! ### Press dockets that do not start -/

/-- The shared galley a press docket holds. -/
def galleyOf (r : Run) : Nat := match r.press with | some p => p.galley | none => 0

/-- H in mW. -/
def heldMw (s : State) : Nat := sumOf (·.milliwatts) s.power.permits

/-- Count the energy of the permits held up to now. -/
def meter (s : State) : State :=
  modPower (fun p => { p with
    windowHeld := p.windowHeld + heldMw s * (s.clk.mono - p.windowMark), windowMark := s.clk.mono }) s

/-- Its first permit is granted and its start is still held by a gating wait (R67, R467). -/
def isGated (r : Run) : Bool := match r.press with | some p => decide (p.stage = .gated) | none => false

/-- A press docket that has not started gives back its shared galley, its permit request, and a permit that it holds for a
start that does not come (R107, R241, R467). -/
def withdrawPress (i qi : Nat) (r : Run) (s : State) : State :=
  let d : DRef := { inst := i, queue := qi, slot := r.slot }
  modPower (fun p => { p with
      waits := p.waits.filter fun x => x.d != d
      permits := if isGated r then delFirst p.permits fun x => x.d == d else p.permits })
    (modGalley (fun g => { g with free := g.free + galleyOf r }) (if isGated r then meter s else s))

/-- Place of a slot in ring order, counted from CI. -/
def ringKey (q : Queue) (slot : Nat) : Nat := (slot + ringSize q - q.ci % ringSize q) % ringSize q

/-- ERR_INDEX and the retired count it stands for (R108, R109). -/
def latchError (slot : Nat) (fetch : Bool) (q : Queue) : Queue :=
  { q with errIndex := slot % 65536, errCount := (q.ci + ringKey q slot) % (2 * ringSize q), fetchErr := fetch, fetchStop := none }

/-- A finding takes a queue to ERROR that is ACTIVE, or was when its hatch went down (R108, R399). -/
def findingStops (q : Queue) : Bool := decide (q.st = .active) || (decide (q.st = .held) && decide (q.heldFrom = .active))

/-- Such a queue starts nothing more: its prefetch and the dockets granted and not started are discarded without
receipts. -/
def discardUnstarted (slot : Nat) (q : Queue) : Queue :=
  if findingStops q then
    { latchError slot false q with
      st := if q.st = .active then .error else q.st
      heldFrom := if q.st = .held then .error else q.heldFrom
      unfinished := q.unfinished.filter fun k => q.runs.any fun r => r.started && r.slot == k
      runs := q.runs.filter (·.started)
      fetched := [], sweep := none, scanWaits := false, place := .none }
  else q

/-- The press dockets that a finding on docket `ord` ends before their start give back what they hold. -/
def withdrawUnstarted (i qi ord : Nat) (s : State) : State :=
  match getQueue s i qi with
  | some q => each (q.runs.filter fun r => !r.started && (findingStops q || r.ord == ord)) (withdrawPress i qi) s
  | none => s

/-- The first MALFORMED finding of a docket (R108): its receipt, ERROR with ERR_INDEX, the prefetch discarded and the queue's
interrupt at once. -/
def malformed (i qi : Nat) (r : Run) (detail : Nat) (s : State) : State :=
  let out := settledAs stMalformed 0 detail
  let s0 := modQueue i qi (discardUnstarted r.slot) (withdrawUnstarted i qi r.ord s)
  let s1 := if r.started then finishRun i qi r out s0
    else endUnstarted i qi (receiptOf s r.slot r.words out false) (modQueue i qi (fun q =>
      { dropRun r.ord q with unfinished := q.unfinished.filter (· != r.slot) }) s0)
  raiseQueue i qi s1

/-! ### Scans (R102 to R104, R93) -/

/-- COUNT and SPACING of SWEEP_CTRL in force (R103), in re-scans and ns. -/
def sweepCount (s : State) (q : Queue) : Nat :=
  if q.desc.sweepSel then q.desc.sweepCount else fld s.quoin.now.sweepCtrl 0 4
def sweepSpacing (s : State) : Nat := fld s.quoin.now.sweepCtrl 16 8 * 250

/-- What a read of the slot at SI found. -/
inductive SlotRead where
  | failed
  | notOwned
  | owned (words : List Word)
deriving DecidableEq, Repr

/-- Read the slot at SI mod N; a ring outside the segments reads as not owned. -/
def readSlot (i : Nat) (q : Queue) (s : State) : SlotRead × State :=
  let n := docketSize q
  let a := q.desc.docketBase + n * (q.si % ringSize q)
  match findSeg (getInst s i).segs a n true false with
  | none => (.notOwned, s)
  | some g =>
    let (r, s1) := readSeg i g a n s
    let s2 := latchAll r.events s1
    match r.fail with
    | some _ => (.failed, s2)
    | none =>
      let ws := wordsOf r.bytes (n / 8)
      (if bit (wd ws 0) 0 then .owned ws else .notOwned, s2)

/-- Why a scan stopped. -/
inductive ScanEnd where
  | room
  | held
  | failed
  | clear
deriving DecidableEq, Repr

/-- Every earlier docket of the queue has completed: in ring order for a posted docket, in order of start for a planned one
(R43, R44). -/
def earlierDone (q : Queue) (r : Run) : Bool :=
  if r.planned then q.runs.all fun x => decide (r.ord ≤ x.ord)
  else
    q.runs.all (fun x => x.planned || x.ord == r.ord || decide (ringKey q r.slot < ringKey q x.slot)) &&
      q.fetched.all fun f => decide (ringKey q r.slot < ringKey q f.slot)

/-- A slot already taken: its docket is fetched or started, has a receipt to come, or is retired ahead of CI. Only a scan
from an index that RESUME (R109) or the end of a hold (R107) moved back meets one; it passes over it. -/
def slotTaken (q : Queue) (slot : Nat) : Bool :=
  q.fetched.any (fun f => f.slot == slot) || q.runs.any (fun r => !r.planned && r.slot == slot) || q.retired.contains slot ||
    q.waiting.any (fun r => r.index == slot) || q.record.any (fun h => !h.run.planned && h.run.slot == slot)

/-- Put a fetched docket into the prefetch, in ring order. -/
def insertRing (q : Queue) (f : Fetched) : List Fetched → List Fetched
  | [] => [f]
  | g :: l => if ringKey q f.slot < ringKey q g.slot then f :: g :: l else g :: insertRing q f l

/-- A scan from SI onward (R102): the reason it stopped, the dockets it took, and the state. -/
def scanLoop (i qi : Nat) : Nat → Nat → State → ScanEnd × Nat × State
  | 0, n, s => (.room, n, s)
  | fuel + 1, n, s =>
    match getQueue s i qi with
    | none => (.room, n, s)
    | some q =>
      if q.desc.depth ≤ q.fetched.length ∨ ringDiff q q.si q.ci = ringSize q then (.room, n, s)
      else if (match q.hold with | some h => h.slots.contains (q.si % ringSize q) | none => false) then (.held, n, s)
      else if slotTaken q (q.si % ringSize q) then
        scanLoop i qi fuel n (modQueue i qi (fun y => { y with si := (y.si + 1) % (2 * ringSize y) }) s)
      else
        match readSlot i q s with
        | (.failed, s1) =>
          (.failed, n, modQueue i qi (fun y => { y with fetchStop := some (y.si % ringSize y) }) s1)
        | (.notOwned, s1) => (.clear, n, s1)
        | (.owned ws, s1) =>
          scanLoop i qi fuel (n + 1) (modQueue i qi (fun y => { y with
            fetched := insertRing y { slot := y.si % ringSize y, words := ws, tick := tickNow s, plate := none } y.fetched
            si := (y.si + 1) % (2 * ringSize y) }) s1)

/-- Whether the device may fetch for a queue: RUNNING, not waiting for quiescence (R475), the queue ACTIVE and posted. -/
def mayFetch (s : State) (q : Queue) : Bool :=
  running s && s.power.keepSince.isNone && decide (q.st = .active) && !q.desc.planned && q.fetchStop.isNone

/-- Scan, and begin the late-write sweep when the scan ends at a slot whose OWN reads 0 (R103). `again` is the sweep that a
re-scan belongs to: it goes on when the re-scan takes nothing. -/
def scan (i qi : Nat) (again : Option Sweep) (s : State) : State :=
  match getQueue s i qi with
  | none => s
  | some q =>
    if !mayFetch s q then s
    else
      match scanLoop i qi (ringSize q + q.desc.depth + 1) 0 (modQueue i qi (fun y => { y with sweep := none, scanWaits := false }) s) with
      | (.clear, n, s1) =>
        let c := match again with
          | some w => if n = 0 then w.count else sweepCount s q
          | none => sweepCount s q
        let gap := match again with
          | some w => if n = 0 then w.spacing else sweepSpacing s
          | none => sweepSpacing s
        let left := match again with
          | some w => if n = 0 then w.left - 1 else c
          | none => c
        if left = 0 then s1
        else modQueue i qi (fun y => { y with
          sweep := some { count := c, spacing := gap, left := left, due := s.clk.mono + gap } }) s1
      | (.failed, _, s1) => s1
      | (.room, _, s1) | (.held, _, s1) => modQueue i qi (fun y => { y with scanWaits := true }) s1

/-! ### The context cache (R114, R115) -/

/-- Contexts that the cache holds under the queue plate. -/
def cacheSize (s : State) : Nat :=
  match s.plates.queueCap with
  | 0 => 126976
  | 1 => 114688
  | 2 => 98304
  | _ => 131072

/-- Queue pairs of the queue plate. -/
def queueCapacity (s : State) : Nat :=
  match s.plates.queueCap with
  | 0 => 65536
  | 1 => 262144
  | 2 => 524288
  | _ => 1048576

/-- Whether a context must stay cached (R115). -/
def pinned (s : State) (i qi : Nat) (q : Queue) : Bool :=
  !q.fetched.isEmpty || !q.runs.isEmpty || !q.waiting.isEmpty || !q.record.isEmpty || q.sweep.isSome ||
    (s.plates.programs.getD (fld s.quoin.tick.schedSel 0 2) []).any fun e => e.inst == i && e.queue == qi

/-- Load a queue's context (R115): true when it is cached, after evicting the least recently used one that may go. -/
def loadContext (i qi : Nat) (s : State) : Bool × State :=
  match getQueue s i qi with
  | none => (false, s)
  | some q =>
    let use := modQueue i qi (fun y => { y with cached := true, lastUse := s.clk.mono })
    let all := (allQueues s).filter fun p => p.2.2.cached
    if q.cached || decide (all.length < cacheSize s) then (true, use s)
    else
      match minBy (fun (p : Nat × Nat × Queue) => p.2.2.lastUse) (all.filter fun p => !pinned s p.1 p.2.1 p.2.2) with
      | some v => (true, use (modQueue v.1 v.2.1 (fun y => { y with cached := false }) s))
      | none => (false, modQueue i qi (fun y => { y with bell := true }) s)

end Sys2Proof.Machine
end

