-- ==== Sys2Proof/Machine/Route.lean ====
section
/-! DEFINITION. The route table (12_fabric_cells_routing.md R316 to R322): entries, their candidates, the bank an epoch names,
and the rate of the ports towards a device (13_delivery_congestion.md R348). -/
namespace Sys2Proof.Machine

/-- An entry of zeros marks an unreachable device. -/
def RouteEntry.empty : RouteEntry := { w0 := 0, w1 := 0 }

/-- Valid candidate ports of a word of an entry. -/
def candidates (w : Word) : List Nat :=
  (List.range 4).filterMap fun j => if bit w (8 * j + 6) then some (fld w (8 * j) 6) else none

def minHops (e : RouteEntry) : Nat := fld e.w0 32 3
def nminHops (e : RouteEntry) : Nat := fld e.w0 36 3
def isLocal (e : RouteEntry) : Bool := bit e.w0 39

/-- A list without repeats. -/
def distinct (l : List Nat) : Bool :=
  match l with
  | [] => true
  | a :: as => !as.contains a && distinct as

/-- An illegal entry for a device number (R318). `frame` tells the ports in frame mode, whose only legal candidates are those
of R353. -/
def routeBad (own : Nat) (k : Nat) (e : RouteEntry) : Bool :=
  let mn := candidates e.w0
  let nm := candidates e.w1
  (List.range 4).any (fun j => bit e.w0 (8 * j + 7) || bit e.w1 (8 * j + 7)) || bit e.w0 35 || fld e.w0 40 24 != 0 ||
    fld e.w1 32 32 != 0 || (mn ++ nm).any (fun p => decide (47 < p)) || !distinct mn || !distinct nm ||
    (isLocal e && (!mn.isEmpty || !nm.isEmpty || minHops e != 0 || nminHops e != 0)) ||
    (!isLocal e && !mn.isEmpty && minHops e == 0) || (!nm.isEmpty && nminHops e == 0) ||
    (!mn.isEmpty && !nm.isEmpty && decide (nminHops e ≤ minHops e)) ||
    (!isLocal e && mn.isEmpty && nm.isEmpty && (minHops e != 0 || nminHops e != 0)) ||
    (if k = own then !isLocal e else isLocal e)

/-- EPOCH in force. -/
def epoch (s : State) : Bool := bit s.quoin.tick.routeCtrl 0

/-- The bank an epoch names, with its state. -/
def bankOf (s : State) (e : Bool) : Table RouteEntry × BankState :=
  if e then (s.fabric.route1, s.fabric.bank1) else (s.fabric.route0, s.fabric.bank0)

/-- The entry of a device in a bank. -/
def routeOf (s : State) (e : Bool) (dev : Nat) : RouteEntry := (tget (bankOf s e).1 dev).getD RouteEntry.empty

/-- A port carries cells. -/
def inService (p : Port) : Bool := decide (p.st = .up) || decide (p.st = .upSpared)

/-- The plate fields of a port. -/
def portPlate (s : State) (p : Nat) : Option PortPlate := s.plates.ports[p]?

/-- Rate of a port in Mb/s: lanes in service × lane rate. -/
def portRate (s : State) (p : Nat) : Nat :=
  (getPort s p).lanesUp.length * (match portPlate s p with | some x => x.rate | none => 0) * 1000

/-- R_MAX of a connection (R348): the data rate of the widest port in service among the minimal candidates; this device's own
connections, which cross no port, take the rate of one full lane (log entry 19). -/
def rMax (s : State) (dev : Nat) : Nat :=
  let ps := (candidates (routeOf s (epoch s) dev).w0).filter fun p => inService (getPort s p)
  let r := ps.foldl (fun m p => max m (portRate s p)) 0
  if r = 0 then 200000 else r

/-- ADAPT of a VC (R319). -/
def adaptOf (s : State) (vc : Nat) : Nat := fld s.quoin.tick.routeCtrl (36 + 2 * vc) 2

/-- Whether a destination has a route from here on a VC (R319, R320): non-minimal candidates count only under FULL and within
7 hops. -/
def hasRoute (s : State) (dev vc : Nat) : Bool :=
  let e := routeOf s (epoch s) dev
  let live (w : Word) : Bool := (candidates w).any fun p => inService (getPort s p)
  isLocal e || dev == s.plates.device || live e.w0 || (adaptOf s vc == 2 && decide (1 + nminHops e ≤ 7) && live e.w1)

/-- The frame-mode port that a device number names: MIN_PORT 0 of its route entry, alone (R353). -/
def framePort (s : State) (dev : Nat) : Option Nat :=
  match candidates (routeOf s (epoch s) dev).w0 with
  | [p] => match portPlate s p with | some x => if x.frame then some p else none | none => none
  | _ => none

/-! ### Ranks (02_wisan_contract.md R33, R34) -/

/-- JOB of the endpoint a docket is bound to. -/
def runJob (r : Run) : Nat := match r.bound with | some e => e.job | none => 0

/-- Resolve a rank through a queue's endpoint as it is bound now. -/
def resolve (s : State) (q : Queue) (rank : Nat) : Option (Nat × Nat) := (queueEndpoint s q).bind fun e => rankOf e rank

/-- A rank resolves to a RoCE peer (R353). -/
def roceRank (s : State) (q : Queue) (rank : Nat) : Bool :=
  match resolve s q rank with
  | some t => (framePort s t.1).isSome
  | none => false

end Sys2Proof.Machine
end

