-- ==== Sys2Proof/Machine/Operands.lean ====
section
/-! DEFINITION. The checks of a docket's operands: the MALFORMED findings of every opcode in word order
(05_dockets_receipts.md R51, R117, R119 and the chapters of the press and of collectives), and what a grant charges
(15_scheduling_shaping.md R374). -/
namespace Sys2Proof.Machine

/-! ### Findings by a docket's own fields (R51, R65) -/

/-- Findings in the op-specific fields of a docket, by its own fields alone. `program` is set for an entry of a tick
program, whose TALLY_WAIT may set GATE (R132). -/
def opFindings (program : Bool) (w : List Word) : List Finding :=
  let op := dOp w
  let len := dLen w
  if op = opCopy then
    [(1, dKey w != 0 && cpOpen w && decide (1 ≤ len % 4120) && decide (len % 4120 ≤ 24))] ++ mustBeZero w [5, 6, 7]
  else if op = opWrite ∨ op = opSend then
    (if isRaw w then
      [(0, dNotify w), (1, decide (len < 14)), (3, wd w 3 != 0), (4, dWindow w != 0 || dKey w != 0)]
    else [(0, op == opSend && (!dNotify w || dFlags w != 0)), (3, fld (wd w 3) 48 16 != 0)]) ++ mustBeZero w [6, 7]
  else if op = opRead then [(2, fld (wd w 2) 48 16 != 0)] ++ mustBeZero w [5, 6, 7]
  else if op = opAtomic then
    [(0, decide (6 < dFlags w % 16)), (1, len != 8), (2, wd w 2 != 0), (3, fld (wd w 3) 48 16 != 0 || dDst w % 8 != 0),
     (6, dFlags w % 16 != 1 && wd w 6 != 0), (7, wd w 7 != 0)]
  else if op = opTileCopy then
    [(1, len != tlRowBytes w * tlRows w * tlTiles w), (4, wd w 4 != 0),
     (5, tlRowBytes w == 0 || tlRows w == 0 || tlTiles w == 0 || fld (wd w 5) 56 8 != 0),
     (6, dLig w == 0 && decide (tlDstRow w < tlRowBytes w))]
  else if op = opFence then [(1, len != 0)] ++ mustBeZero w [2, 3, 4, 5, 6, 7]
  else if op = opInvalidate then
    [(1, len != 0), (5, fld (wd w 5) 41 23 != 0 || ivCount w == 0 || decide (16 < ivCount w))] ++
      mustBeZero w [2, 3, 4, 6, 7]
  else if op = opTallyAdd then
    [(1, len != 0), (4, if bit (wd w 0) 16 then dWindow w != 0 else wd w 4 != 0), (5, fld (wd w 5) 18 46 != 0)] ++
      mustBeZero w [2, 3, 7]
  else if op = opTallyWait then
    [(0, bit (wd w 0) 16 && !program), (1, len != 0), (5, fld (wd w 5) 18 46 != 0)] ++ mustBeZero w [2, 3, 4, 7]
  else if op = opCollOpen then
    [(1, len != 0), (6, coCount w == 0 || decide (65536 < coCount w) || decide (64 < coBins w) || !fmtOk (coFmt w) ||
        coOp w == 3 || fld (wd w 6) 30 34 != 0), (5, fld (wd w 5) 32 32 != 0)] ++ mustBeZero w [3, 4, 7]
  else if op = opCollRun then [(5, fld (wd w 5) 18 46 != 0)] ++ mustBeZero w [4, 6, 7]
  else if op = opCollClose then [(1, len != 0), (5, fld (wd w 5) 16 48 != 0)] ++ mustBeZero w [2, 3, 4, 6, 7]
  else if op = opAttend then
    [(1, len != 0), (4, wd w 4 != 0),
     (6, atTokens w == 0 || decide (1048576 < atTokens w) || atHeads w == 0 || decide (64 < atHeads w) ||
        atGroup w == 0 || decide (4 < atGroup w) || atDimCode w == 3 || ! [1, 3, 5].contains (atQFmt w) ||
        ! [3, 4, 5, 6].contains (atKvFmt w) || decide (2 < atOutFmt w) || bit (wd w 6) 31 || fld (wd w 6) 34 2 != 0 ||
        fld (wd w 6) 48 16 != 0 || decide (262144 < atHeads w * ceilDiv (atTokens w) 64)),
     (7, fld (wd w 7) 32 32 != 0 || !(match atScale w with | .fin _ m _ => decide (m ≠ 0) | _ => false))]
  else if op = opGatherReduce then
    let rb := if mxBad (grIn w) (grElems w) then 0 else rowBytes (grIn w) (grElems w)
    [(0, grWeighted w && isInt (grIn w)), (1, len == 0 || (rb != 0 && len % (max rb 1) != 0)), (4, wd w 4 != 0),
     (6, !grWeighted w && wd w 6 != 0),
     (7, grRows w == 0 || grFan w == 0 || decide (16 < grFan w) || grElems w == 0 || !fmtOk (grIn w) || !fmtOk (grOut w) ||
        fld (wd w 7) 29 3 != 0 || fld (wd w 7) 56 8 != 0 || decide (1048576 < grRows w * grFan w) ||
        mixedInt (grIn w) (grOut w) || mxBad (grIn w) (grElems w) || mxBad (grOut w) (grElems w))]
  else if op = opEmbedGather then
    let rb := if mxBad (grIn w) (grElems w) then 0 else rowBytes (grIn w) (grElems w)
    [(1, len == 0 || (rb != 0 && len % (max rb 1) != 0)), (4, wd w 4 != 0), (6, egPool w == 0 && wd w 6 != 0),
     (7, grRows w == 0 || decide (262143 < grRows w) || grFan w != 0 || grElems w == 0 || !fmtOk (grIn w) ||
        !fmtOk (grOut w) || fld (wd w 7) 29 3 != 0 || fld (wd w 7) 56 8 != 0 || mixedInt (grIn w) (grOut w) ||
        mxBad (grIn w) (grElems w) || mxBad (grOut w) (grElems w))]
  else if op = opTopk then
    [(1, len != tkRows w * tkCols w * (fmtBits (tkIn w) / 8)), (4, wd w 4 != 0),
     (6, tkCols w == 0 || tkK w == 0 || decide (1024 < tkK w) || decide (tkCols w < tkK w) || tkRows w == 0 ||
        !fmtOk (tkIn w) || isMx (tkIn w)), (7, wd w 7 != 0)]
  else if op = opTranscode then
    [(1, match streamElems (tcIn w) len with | some n => mxBad (tcOut w) n | none => true), (4, wd w 4 != 0),
     (5, fld (wd w 5) 9 55 != 0 || !fmtOk (tcIn w) || !fmtOk (tcOut w)), (6, !tcAmax w && wd w 6 != 0), (7, wd w 7 != 0)]
  else if op = opReduce then
    [(0, rdOp w == 3),
     (1, match streamElems (rdIn w) len with | some n => mxBad (rdOut w) n | none => true), (4, wd w 4 != 0),
     (5, decide (1 < rdSources w) && decide (rdStride w < len)),
     (6, rdSources w == 0 || decide (64 < rdSources w) || bit (wd w 6) 7 || fld (wd w 6) 16 48 != 0 ||
        !fmtOk (rdIn w) || !fmtOk (rdOut w) || mixedInt (rdIn w) (rdOut w)), (7, wd w 7 != 0)]
  else []

/-- Findings that every docket of a v2 view is checked for (R37, R116, R117, R119, R135). -/
def commonFindings (v1 : Bool) (w : List Word) : List Finding :=
  let op := dOp w
  [(0, dVer w != (if v1 then 1 else 2) || !opKnown v1 op || dFlags w &&& (0xFFFF - (if v1 then 0 else flagMask op)) != 0 ||
      (dNotify w && !mayNotify op)),
   (1, bit (wd w 1) 31 || decide (2 ^ 30 < dLen w) || (fld (wd w 1) 40 8 != 0 && !mayWait op) ||
      (dLig w != 0 && !mayLigature op)),
   (4, fld (wd w 4) 50 14 != 0 || (dKey w != 0 && !maySeal op) ||
      (!namesRank w && (dRank w != 0 || dWindow w != 0)))]

/-- Least word among the findings that hold (R51). -/
def firstFinding (l : List Finding) : Option Nat := (minBy (·.1) (l.filter (·.2))).map (·.1)

/-- A docket is MALFORMED by its own fields alone (R65): the word named. -/
def ownFinding (v1 program : Bool) (w : List Word) : Option Nat :=
  firstFinding (commonFindings v1 w ++ opFindings program w)

/-- MAX_FRAME of a port (14_ethernet_management.md ETH_CTRL): values outside 64 to 9,216 are 9,216. -/
def maxFrame (s : State) (p : Nat) : Nat :=
  let n := fld (getPort s p).ethCtrl 16 14
  if n < 64 ∨ 9216 < n then 9216 else n

/-! ### Findings that depend on objects (R30, R34, R106, R117, R228, R229, R236, R272) -/

/-- Input and output formats of a press operation that may name a ligature. -/
def pressFmts (w : List Word) : Nat × Nat :=
  let op := dOp w
  if op = opTranscode then (tcIn w, tcOut w)
  else if op = opReduce then (rdIn w, rdOut w)
  else (grIn w, grOut w)

/-- A ligature on working values has IN_FMT FP32, or INT32 on the integer path, and the output format wanted (R236). -/
def ligFits (l : List Word) (inFmt outFmt : Nat) : Bool :=
  ligIn l == (if isInt inFmt && isInt outFmt then 12 else 0) && ligOut l == outFmt

/-- A local operand that lies in a remote-window segment. -/
def farOperand (x : Inst) (a : Nat) : Bool :=
  match findSeg x.segs a 1 false false with
  | some g => g.kind == 4
  | none => false

/-- The ligature a docket names breaks its rules: an empty entry, a length, ACCUMULATE on a message, or R236. -/
def ligFindings (x : Inst) (w : List Word) : List Finding :=
  let op := dOp w
  if dLig w = 0 then []
  else
    match tget x.ligs (dLig w) with
    | none => [(1, true)]
    | some l =>
      if isPress op then [(1, !ligFits l (pressFmts w).1 (pressFmts w).2)]
      else if op = opTileCopy then
        let row := if ligLengthOk (some l) (tlRowBytes w) then destBytes (some l) (tlRowBytes w) else 0
        [(1, (streamElems (ligIn l) (dLen w)).isNone), (5, !ligLengthOk (some l) (tlRowBytes w)),
         (6, decide (tlDstRow w < row))]
      else if op = opCollRun then
        match tget x.colls (dHandle w) with
        | some c => [(1, decide (2 ≤ fld (wd w 5) 16 2) || !ligFits l c.fmt c.fmt)]
        | none => []
      else [(1, !ligLengthOk (some l) (ligLength w) || (ligAccumulates l && (op == opCopy || op == opRead) &&
          farOperand x (dDst w)) || ((op == opWrite || op == opSend) && ligAccumulates l))]

/-- Findings about the objects a docket names. -/
def objFindings (s : State) (i qi : Nat) (q : Queue) (w : List Word) : List Finding :=
  let x := getInst s i
  let op := dOp w
  ligFindings x w ++
  [(4, dKey w != 0 && maySeal op && (match tget x.keys (dKey w) with | some k => k.erased | none => true)),
   (4, op == opCopy && dKey w != 0 && (farOperand x (dSrc w) || farOperand x (dDst w))),
   (4, dKey w != 0 && (op == opWrite || op == opSend || (op == opCopy && !cpOpen w)) &&
      (match tget x.keys (dKey w) with | some k => k.counter == 2 ^ 64 - 1 | none => false)),
   (4, namesRank w && !isRaw w && !q.desc.epValid),
   (0, isRaw w && !(s.plates.ports.any fun p => p.frame && p.rawInst == some i)),
   (1, isRaw w && (match s.plates.ports[dRank w]? with
      | some p => p.frame && decide (maxFrame s (dRank w) < dLen w + 4)
      | none => false)),
   (0, isRaw w && (match s.plates.ports[dRank w]? with | some p => p.frame && p.rawInst != some i | none => false)),
   (4, isRaw w && (match s.plates.ports[dRank w]? with | some p => !p.frame | none => true)),
   (0, op == opAtomic && decide (2 ≤ dFlags w % 16) && roceRank s q (dRank w)),
   (3, op == opSend && !isRaw w && wd w 3 != 0 && roceRank s q (dRank w)),
   (4, namesRank w && !isRaw w && dKey w != 0 && roceRank s q (dRank w)),
   (2, op == opCollOpen && !q.desc.epValid),
   (5, (op == opTallyAdd || op == opTallyWait) && !bit (wd w 0) 16 && (tget x.tallies (dTally w)).isNone),
   (5, op == opTallyWait && (tget x.tallies (dTally w)).isNone),
   (5, (op == opCollRun || op == opCollClose) && (match tget x.colls (dHandle w) with
      | some c => op == opCollRun && c.queue != qi
      | none => true)),
   (1, op == opCollRun && (match tget x.colls (dHandle w) with
      | some c => (streamElems c.fmt (dLen w)).isNone
      | none => false)),
   (5, op == opInvalidate && (ivTarget w == qi || (match tget x.queues (ivTarget w) with
      | some t => t.desc.planned || decide (ringSize t ≤ ivFirst w)
      | none => true)))]

/-- A COLL_OPEN of an instance that holds COLL_HANDLES handles already (R265). -/
def handlesFull (s : State) (i : Nat) (w : List Word) : Bool :=
  dOp w == opCollOpen && decide (fld (wd (getInst s i).record 1) 28 11 ≤ (getInst s i).colls.length)

/-- The first MALFORMED finding of a docket whose start is judged now, by the objects as they stand (R29, R51, R108). The
finding on the handle quota, which is about no word of the docket, comes after those in word order (log entry 53). -/
def judge (s : State) (i qi : Nat) (q : Queue) (planned : Bool) (w : List Word) : Option Nat :=
  match firstFinding (commonFindings q.desc.v1 w ++ opFindings planned w ++ objFindings s i qi q w) with
  | some f => some f
  | none => if handlesFull s i w then some 0 else none

/-- The first MALFORMED finding of a docket: of a started one what was found at its start, whatever happened since to the
objects it is bound to (R29). -/
def finding (s : State) (i qi : Nat) (q : Queue) (r : Run) : Option Nat :=
  if r.started then r.found else judge s i qi q r.planned (view q.desc.v1 r.words)

/-- The finding is on the key slot that the docket seals with, and the slot is exhausted (R437). -/
def wornKey (x : Inst) (w : List Word) (found : Option Nat) : Bool :=
  found == some 4 && dKey w != 0 && (dOp w == opWrite || dOp w == opSend || (dOp w == opCopy && !cpOpen w)) &&
    (match tget x.keys (dKey w) with | some k => !k.erased && k.counter == 2 ^ 64 - 1 | none => false)

/-! ### Grants (R374) -/

/-- SEG of the port plate in bytes (R295, R299). -/
def segBytes (s : State) : Nat := 1024 * 2 ^ s.plates.seg

/-- Payload bytes of a full packet of a docket (R299). -/
def packetBytes (s : State) (sealed : Bool) : Nat := segBytes s - (if sealed then 32 else 0)

/-- Streamed bytes of a press operation (R249, R252, R255, R258, R261, R264), taken before its lists are read: every index
entry counts, and a pooled bag counts one index (log entry 14). -/
def streamedBytes (w : List Word) : Nat :=
  let op := dOp w
  if op = opAttend then atHeads w * atTokens w * 2 * rowBytes (atKvFmt w) (atDim w)
  else if op = opGatherReduce then
    grRows w * grFan w * rowBytes (grIn w) (grElems w) + grRows w * rowBytes (grOut w) (grElems w)
  else if op = opEmbedGather then
    grRows w * rowBytes (grIn w) (grElems w) + grRows w * rowBytes (grOut w) (grElems w)
  else if op = opTopk then dLen w + tkRows w * tkK w * (fmtBits (tkIn w) / 8 + 4)
  else if op = opTranscode then
    dLen w + (if tcOut w ≤ 12 then streamBytes (tcOut w) ((streamElems (tcIn w) (dLen w)).getD 0) else 0) +
      (if tcAmax w then 8 else 0)
  else rdSources w * dLen w + streamBytes (rdOut w) ((streamElems (rdIn w) (dLen w)).getD 0)

/-- Number of grants of a docket (R374). -/
def pieceCount (s : State) (x : Inst) (w : List Word) : Nat :=
  let op := dOp w
  if dLen w = 0 then 1
  else if op = opCopy ∨ op = opTileCopy then ceilDiv (dLen w) 4096
  else if op = opWrite ∨ op = opSend then
    max 1 (ceilDiv (destBytes (tableLig x w) (dLen w)) (packetBytes s (dKey w != 0)))
  else 1

/-- Charge of grant number k of a docket (R374). -/
def pieceCharge (s : State) (x : Inst) (w : List Word) (k : Nat) : Nat :=
  let op := dOp w
  let part := fun unit total : Nat => max 64 (min unit (total - k * unit))
  if isPress op then max 64 (streamedBytes w)
  else if dLen w = 0 then 64
  else if op = opCopy ∨ op = opTileCopy then part 4096 (dLen w)
  else if op = opWrite ∨ op = opSend then
    part (packetBytes s (dKey w != 0)) (destBytes (tableLig x w) (dLen w))
  else if op = opRead ∨ op = opCollRun then max 64 (dLen w)
  else 64

end Sys2Proof.Machine
end

