-- ==== Sys2Proof/Machine/Sched.lean ====
section
/-! DEFINITION. The scheduler (15_scheduling_shaping.md): shares, eligibility, the two wheels, class rounds, grants, and the
commit of shares. Times are held in 2^-8 ns; quotients are rounded down (log entry 9). -/
namespace Sys2Proof.Machine

/-! ### Shares (R373) -/

def shClass (w : Word) : Nat := fld w 0 2
def shWeight (w : Word) : Nat := fld w 8 8
def shRate (w : Word) : Nat := fld w 16 24
/-- B in bytes. -/
def shBurst (w : Word) : Nat := let b := fld w 40 16; if b = 0 then 4096 else b * 1024

/-- RATE 0xFF_FFFF is unlimited. -/
def unlimited : Nat := 0xFFFFFF

/-- The time that c bytes take at a rate, in 2^-8 ns. -/
def byteTime (rate c : Nat) : Nat := if rate = unlimited ∨ rate = 0 then 0 else c * 2048000 / rate

/-- ET of a piece of charge c (R376). -/
def eligibleAt (share : Word) (tt c : Nat) : Nat := tt - byteTime (shRate share) (shBurst share - min c (shBurst share))

/-- TT after a grant of charge c at time g (R376). -/
def afterGrant (share : Word) (tt g c : Nat) : Nat :=
  max tt (g - byteTime (shRate share) (shBurst share)) + byteTime (shRate share) c

/-- Now, in 2^-8 ns. -/
def now256 (s : State) : Nat := s.clk.mono * 256

/-- The ceiling of an instance and class, as a share word (R381, R421). -/
def ceilingOf (x : Inst) (c : Nat) : Word := x.ceil.getD c 0

/-! ### The next piece of a queue (R374, R378, R94) -/

/-- A queue's next piece: one more of a started docket, or the first of a fetched one. -/
inductive Piece where
  | more (ord : Nat)
  | first (f : Fetched)
deriving DecidableEq, Repr

/-- A held slot that has not started stands before a docket (R107). -/
def behindHold (q : Queue) (slot : Nat) : Bool :=
  match q.hold with
  | none => false
  | some h => h.slots.any fun k => decide (ringKey q k ≤ ringKey q slot) &&
      !(q.runs.any fun r => !r.planned && r.started && r.slot == k) && !q.retired.contains k

/-- A docket waits on FENCE: its own flag while an earlier docket of the queue is incomplete, or a FENCE docket before it
(R43, R44). -/
def behindFence (q : Queue) (f : Fetched) : Bool :=
  let w := view q.desc.v1 f.words
  let earlier (slot : Nat) := decide (ringKey q slot < ringKey q f.slot)
  (dFence w && (q.runs.any (fun r => !r.planned && earlier r.slot) || q.fetched.any fun g => earlier g.slot)) ||
    q.runs.any (fun r => !r.planned && dOp (view q.desc.v1 r.words) == opFence && earlier r.slot) ||
    q.fetched.any (fun g => dOp (view q.desc.v1 g.words) == opFence && earlier g.slot)

/-- The deadline of a docket has passed (R73, R60). -/
def missed (s : State) (q : Queue) (f : Fetched) : Bool :=
  let d := dDeadline (view q.desc.v1 f.words)
  d != 0 && ticking s && decide (f.tick + d ≤ tickNow s)

/-- A fetched docket may be granted its first piece: nothing holds it, no docket of its queue has a finding that is still to
be reported (R108), and no earlier press docket still waits for its start, unless it is a press docket itself, which then
waits ahead of step 1 of R241 (R94, R374). -/
def startable (s : State) (q : Queue) (f : Fetched) : Bool :=
  !behindHold q f.slot && !behindFence q f && !missed s q f && !(q.runs.any fun r => r.found.isSome) &&
    (isPress (dOp (view q.desc.v1 f.words)) || q.runs.all fun r => r.planned || r.started)

/-- The next piece under R374 and R378. -/
def nextPiece (s : State) (q : Queue) : Option Piece :=
  match q.runs.find? fun r => !r.planned && decide (r.granted < r.pieces) && r.outcome.isNone && !r.interrupted with
  | some r => some (.more r.ord)
  | none => (q.fetched.find? (startable s q)).map .first

/-- The charge of a piece. -/
def charge (s : State) (i : Nat) (q : Queue) : Piece → Nat
  | .more ord =>
    match q.runs.find? fun r => r.ord == ord with
    | some r => pieceCharge s (getInst s i) (view q.desc.v1 r.words) r.granted
    | none => 64
  | .first f => pieceCharge s (getInst s i) (view q.desc.v1 f.words) 0

/-- Dockets of a queue may start: the device runs, does not wait for quiescence (R475), and the function is in D0 (R410). -/
def mayStart (s : State) (i : Nat) (q : Queue) : Bool :=
  running s && s.power.keepSince.isNone && decide (q.st = .active) && !q.desc.planned && !q.receiptFull &&
    !(getFn s { fnOf s i with hatch := q.home }).d3

/-! ### Wheels (R377) -/

/-- Where a piece that becomes eligible at a time goes. -/
def wheelPlace (now et : Nat) : Place :=
  if et ≤ now then .eligible
  else if et ≤ now + 262144 * 256 then .timing (ceilDiv et (64 * 256))
  else .overflow (min (et / (262144 * 256)) (now / (262144 * 256) + 4095)) et

/-- ET under the TT of the instance and class of a queue (R381). -/
def ceilingTime (x : Inst) (q : Queue) (c : Nat) : Nat :=
  let k := shClass q.share
  eligibleAt (ceilingOf x k) (x.ceilTT.getD k 0) c

/-- ET under the queue's own TT and the TT of its instance and class: the later of the two (R381). -/
def pieceTime (x : Inst) (q : Queue) (c : Nat) : Nat :=
  max (eligibleAt q.share q.tt c) (ceilingTime x q c)

/-- RATE 0 pauses (R49, R381, R386). -/
def paused (x : Inst) (q : Queue) : Bool :=
  shRate q.share == 0 || shRate (ceilingOf x (shClass q.share)) == 0

/-- Place the next piece of one queue under R376 to R378. An entry already placed keeps its place (R384), unless its queue is
eligible and is paused (R386), or is held back by the TT of its instance and class, which others may have moved on (R381). -/
def placeQueue (s : State) (i : Nat) (q : Queue) : Queue :=
  if !mayStart s i q then { q with place := .none }
  else
    match nextPiece s q with
    | none => { q with place := .none }
    | some p =>
      if q.place = .eligible then
        if paused (getInst s i) q then { q with place := .none }
        else
          let t := ceilingTime (getInst s i) q (charge s i q p)
          if now256 s < t then { q with place := wheelPlace (now256 s) t } else q
      else if q.place ≠ .none then q
      else if paused (getInst s i) q then q
      else { q with place := wheelPlace (now256 s) (pieceTime (getInst s i) q (charge s i q p)) }

/-- Eligible queues join the rotating order of their class round; others leave it. -/
def joinRounds (s : State) : State :=
  let el := (allQueues s).filter fun p => p.2.2.place == .eligible
  let round (c : Nat) : List (Nat × Nat) :=
    let mine := (el.filter fun p => shClass p.2.2.share == c).map fun p => (p.1, p.2.1)
    let old := (s.sched.rounds.getD c []).filter mine.contains
    old ++ mine.filter (fun k => !old.contains k)
  { s with sched := { s.sched with rounds := (List.range 4).map round } }

/-- Place the next piece of every queue. -/
def placeAll (s : State) : State :=
  joinRounds { s with insts := tmap s.insts fun i x => { x with queues := tmap x.queues fun _ q => placeQueue s i q } }

/-! ### Class rounds and grants (R379, R380) -/

/-- Start tag S of a queue. -/
def startTag (s : State) (q : Queue) : Nat := max q.tag (s.sched.virtual.getD (shClass q.share) 0)

/-- Queues that can be granted now: eligible, not paused, fewer than 2 unfinished pieces (R375), TT of the instance due. -/
def grantable (s : State) (c : Nat) : List (Nat × Nat × Queue) :=
  (s.sched.rounds.getD c []).filterMap fun k =>
    match getQueue s k.1 k.2 with
    | some q =>
      if q.place = .eligible ∧ q.unfinished.length < 2 ∧ ¬ paused (getInst s k.1) q then
        match nextPiece s q with
        | some p => if ceilingTime (getInst s k.1) q (charge s k.1 q p) ≤ now256 s then some (k.1, k.2, q) else none
        | none => none
      else none
    | none => none

/-- The queue a class serves: least S among weights above 0, else rotating order among weight 0 (R379). -/
def classChoice (s : State) (c : Nat) : Option (Nat × Nat × Queue) :=
  let l := grantable s c
  match minBy (fun (p : Nat × Nat × Queue) => startTag s p.2.2) (l.filter fun p => 0 < shWeight p.2.2.share) with
  | some p => some p
  | none => l.head?

/-- Quantum of a class (R380). -/
def quantum (s : State) (c : Nat) : Nat := (fld s.quoin.tick.schedClass (8 * c) 8 + 1) * 1024

/-- Visits a class needs before its deficit covers a charge. -/
def visits (s : State) (c cost : Nat) : Nat := max 1 (ceilDiv (cost - s.sched.deficit.getD c 0) (quantum s c))

/-- The charge of the piece a class would serve. -/
def classCost (s : State) (c : Nat) : Option Nat :=
  (classChoice s c).bind fun p => (nextPiece s p.2.2).map fun x => charge s p.1 p.2.2 x

/-- The class served next in deficit round robin, with the deficits at its service (R380): the class in service goes on
while its deficit covers its next piece; after it, each visit adds a quantum. -/
def classNext (s : State) : Option (Nat × List Nat) :=
  let d := s.sched.deficit
  let idle (l : List Nat) := (List.range 4).map fun c => if (classCost s c).isSome then l.getD c 0 else 0
  match (classCost s s.sched.cls).bind fun k => if k ≤ d.getD s.sched.cls 0 then some k else none with
  | some _ => some (s.sched.cls, idle d)
  | none =>
    let order := (List.range 4).map fun p => (p, (s.sched.cls + 1 + p) % 4)
    let cand := order.filterMap fun pc => (classCost s pc.2).map fun k => (visits s pc.2 k, pc.1, pc.2)
    match minBy (fun (x : Nat × Nat × Nat) => x.1 * 4 + x.2.1) cand with
    | none => none
    | some (n, p, c) =>
      some (c, idle ((List.range 4).map fun k =>
        let pk := (k + 4 - (s.sched.cls + 1) % 4) % 4
        d.getD k 0 + (if pk ≤ p then n else n - 1) * quantum s k))

/-- The key a docket binds at its start (R29). -/
def bindKey (x : Inst) (w : List Word) : Option BoundKey :=
  if dKey w = 0 then none
  else (tget x.keys (dKey w)).map fun k => { slot := dKey w, key := k.key, salt := k.salt, mode := k.mode }

/-- A docket binds every object it names at the moment it starts, and its first finding is fixed there (R29, R33, R51). -/
def bindRun (s : State) (i qi : Nat) (q : Queue) (r : Run) : Run :=
  let x := getInst s i
  let w := view q.desc.v1 r.words
  let found := judge s i qi q r.planned w
  { r with
    started := true, startTick := tickNow s, segs := x.segs, lig := tableLig x w, key := bindKey x w
    bound := queueEndpoint s q, cls := shClass q.share, found := found, worn := wornKey x w found }

/-- A docket's run as it is granted or started: bound, unless it is a press operation, which starts with its first permit. -/
def newRun (s : State) (i qi : Nat) (q : Queue) (slot : Nat) (ws : List Word) (fetchTick : Int) (planned started : Bool) : Run :=
  let x := getInst s i
  let w := view q.desc.v1 ws
  let r : Run :=
    { slot := slot, words := ws, fetchTick := fetchTick, planned := planned, ord := s.ord, started := false,
      executed := false, startTick := tickNow s, pieces := pieceCount s x w, granted := if planned then pieceCount s x w else 1,
      segs := x.segs, lig := tableLig x w, key := bindKey x w, bound := none, cls := shClass q.share, found := none, worn := false, twin := false,
      plate := none, outcome := none, interrupted := false, resumed := false, heldBack := false, freedTally := none, press := none }
  if started then bindRun s i qi q r else r

/-- A run with the tables it would be bound to if it started now; a started one keeps its own (R29). -/
def asBound (s : State) (i : Nat) (q : Queue) (r : Run) : Run :=
  if r.started then r
  else
    let x := getInst s i
    let w := view q.desc.v1 r.words
    { r with segs := x.segs, lig := tableLig x w, key := bindKey x w }

/-- A grant holds a place under R375 until its piece has left the device or been written, or until its press docket has
started; the dockets of the other grants start with them. -/
def holdsPlace (op : Nat) : Bool := [opCopy, opTileCopy, opWrite, opSend, opRead].contains op || isPress op

/-- The bookkeeping of a grant of charge c: TT, finish tag, virtual time, the instance's TT (R376, R379, R381). -/
def chargeGrant (i qi c : Nat) (q : Queue) (s : State) : State :=
  let g := now256 s
  let k := shClass q.share
  let w := shWeight q.share
  let tag := startTag s q
  let x := getInst s i
  let s1 := modQueue i qi (fun y => { y with
    tt := afterGrant y.share y.tt g c
    tag := if 0 < w then tag + c * 256 / w else y.tag
    charged := satAdd 40 y.charged c
    place := .none }) s
  let s2 := modInst i (fun y => { y with
    ceilTT := modAt y.ceilTT k fun t => afterGrant (ceilingOf x k) t g c }) s1
  { s2 with sched := { s2.sched with
      virtual := if 0 < w then modAt s2.sched.virtual k fun _ => tag else s2.sched.virtual
      rounds := modAt s2.sched.rounds k fun l => l.filter (· != (i, qi)) ++ [(i, qi)] } }

/-- RECEIPT_FULL (R99): the start is held back and the queue's interrupt raised at once. -/
def holdReceiptFull (i qi : Nat) (s : State) : State :=
  raiseQueue i qi (modQueue i qi (fun q => { q with receiptFull := true, place := .none }) s)

/-- Grant one piece to a queue (R374, R99). -/
def grantPiece (i qi : Nat) (q : Queue) (p : Piece) (s : State) : State :=
  let c := charge s i q p
  match p with
  | .more ord =>
    let s1 := modQueue i qi (fun y => { y with
      runs := y.runs.map fun r => if r.ord = ord then { r with granted := r.granted + 1 } else r
      unfinished := y.unfinished ++ ((y.runs.find? fun r => r.ord == ord).map (·.slot)).toList }) s
    chargeGrant i qi c q s1
  | .first f =>
    if !receiptRoom q then holdReceiptFull i qi s
    else
      let op := dOp (view q.desc.v1 f.words)
      let r : Run := { newRun s i qi q f.slot f.words f.tick false (!isPress op) with plate := f.plate }
      let s1 : State := { s with ord := s.ord + 1 }
      let s2 := modQueue i qi (fun y => { y with
        fetched := y.fetched.filter fun g => g.slot != f.slot
        runs := y.runs ++ [r]
        unfinished := if holdsPlace op then y.unfinished ++ [f.slot] else y.unfinished }) s1
      chargeGrant i qi c q s2

/-- SCHEDULER_GRANT: the scheduler grants the next piece (R374 to R380). -/
def schedulerGrant (s : State) : State :=
  let s1 := placeAll s
  match classNext s1 with
  | none => s1
  | some (c, deficits) =>
    match classChoice s1 c with
    | none => s1
    | some (i, qi, q) =>
      match nextPiece s1 q with
      | none => s1
      | some p =>
        let cost := charge s1 i q p
        let s2 : State := { s1 with sched := { s1.sched with
          cls := c, deficit := modAt deficits c fun d => d - cost } }
        placeAll (grantPiece i qi q p s2)

def execSchedulerGrant (s : State) : Host.Outcome State Fault Refusal := .next (schedulerGrant s)

/-- Entries of the timing wheel, with their slots. -/
def timingSlots (s : State) : List Nat :=
  (allQueues s).filterMap fun p => match p.2.2.place with | .timing n => some n | _ => none

/-- WHEEL_SLOT_BEGIN: the next slot that holds an entry begins, or the next slot where none does; every entry in it becomes
eligible, but for a paused queue, which leaves the wheels (R377, R386). -/
def wheelSlotBegin (s : State) : State :=
  let n := ((minBy id (timingSlots s)).getD (s.clk.mono / 64 + 1))
  let s1 := waitMono (n * 64) s
  let due := max n (s1.clk.mono / 64)
  let s2 : State := { s1 with
    insts := tmap s1.insts fun _ x => { x with queues := tmap x.queues fun _ q =>
      match q.place with
      | .timing k => if k ≤ due then { q with place := if paused x q then .none else .eligible } else q
      | _ => q } }
  joinRounds s2

def execWheelSlotBegin (s : State) : Host.Outcome State Fault Refusal := .next (wheelSlotBegin s)

/-- Entries of the overflow wheel, with their slots. -/
def overflowSlots (s : State) : List Nat :=
  (allQueues s).filterMap fun p => match p.2.2.place with | .overflow n _ => some n | _ => none

/-- OVERFLOW_SLOT_MOVE: the interval of the next occupied overflow slot begins, and its entries go where their time puts
them (R377). -/
def overflowSlotMove (s : State) : State :=
  let n := ((minBy id (overflowSlots s)).getD (s.clk.mono / 262144 + 1))
  let s1 := waitMono (n * 262144) s
  let due := max n (s1.clk.mono / 262144)
  let s2 : State := { s1 with
    insts := tmap s1.insts fun _ x => { x with queues := tmap x.queues fun _ q =>
      match q.place with
      | .overflow k et => if k ≤ due then { q with place := wheelPlace (now256 s1) et } else q
      | _ => q } }
  joinRounds s2

def execOverflowSlotMove (s : State) : Host.Outcome State Fault Refusal := .next (overflowSlotMove s)

/-! ### Commit of shares (R383, R384, R14) -/

/-- Shares whose shadow differs from the share in force. -/
def pendingShares (x : Inst) : Table Word :=
  x.queues.filterMap fun p => if p.2.shadow ≠ p.2.share then some (p.1, p.2.shadow) else none

/-- RESULT codes of QS_STATUS. -/
def qsApplied : Nat := 0
def qsRange : Nat := 2
def qsBusy : Nat := 4
def qsDiscarded : Nat := 6

/-- The answer of a share commit in QS_STATUS; PENDING is clear. -/
def qsAnswer (result queue tick : Nat) (x : Inst) : Inst :=
  { x with sealedShares := none
           regs := { x.regs with qsStatus := place result 4 4 ||| place queue 8 20 ||| place tick 32 32 } }

/-- Apply the sealed shares of an instance, all or none. -/
def applyShares (tick : Nat) (x : Inst) : Inst :=
  match x.sealedShares with
  | none => x
  | some sh =>
    match sh.shares.find? (fun p => fld p.2 2 6 != 0 || fld p.2 56 8 != 0) with
    | some p => qsAnswer qsRange p.1 tick x
    | none =>
      let take (k : Nat) (q : Queue) : Queue := { q with share := (tget sh.shares k).getD q.share }
      qsAnswer qsApplied 0 tick { x with queues := tmap x.queues take }

/-- The edge that a commit sealed now misses (R81): less than 2 µs before it; of an armed generator, its first edge. -/
def tooLate (s : State) : Option Nat :=
  match s.time.gen with
  | .running => if nextEdge s < s.clk.ptp + 2000 then some (s.time.tick + 1) else none
  | .armed =>
    match s.time.first with
    | some (n, t) => if t < s.clk.ptp + 2000 then some n else none
    | none => none
  | .stopped => none

/-- QS_COMMIT with COMMIT 1 (R383): sealed for the next edge, or applied at once while the generator is not RUNNING. -/
def qsCommit (i : Nat) (s : State) : State :=
  let x := getInst s i
  if x.sealedShares.isSome then
    modRegs i (fun r => { r with qsStatus := setFld r.qsStatus 4 4 qsBusy }) s
  else
    let sh : SealedShares := { shares := pendingShares x, notAt := tooLate s }
    let s1 := modInst i (fun y => { y with
      sealedShares := some sh, regs := { y.regs with qsStatus := y.regs.qsStatus ||| 1 } }) s
    if ticking s then s1 else placeAll (modInst i (applyShares (s.time.tick % 2 ^ 32)) s1)

def execQsCommit (i : Nat) (s : State) : Host.Outcome State Fault Refusal :=
  .next (if running s && (slotOf s i).isSome then qsCommit i s else s)

end Sys2Proof.Machine
end

