-- ==== Sys2Proof/Machine/Local.lean ====
section
/-! DEFINITION. The start of a docket (04_queues_rings.md R108, R95) and the dockets that stay in the device: COPY between
local operands, TILE_COPY, FENCE and INVALIDATE (05_dockets_receipts.md R119 to R130, 04_queues_rings.md R106, R107), and
the deadline of posted dockets (03_tick.md R73). -/
namespace Sys2Proof.Machine

/-! ### Starting and settling -/

/-- The run of a slot that has been granted or started and whose opcode has not been carried out yet; a STOPPED queue carries
nothing out. -/
def openRun (s : State) (d : DRef) : Option (Queue × Run) :=
  match getQueue s d.inst d.queue with
  | none => none
  | some q =>
    if q.st = .stopped then none
    else
    (q.runs.find? fun r => r.slot == d.slot && !r.executed && r.outcome.isNone && !r.interrupted).map fun r => (q, r)

/-- Change the run of an order number. -/
def modRun (i qi ord : Nat) (f : Run → Run) (s : State) : State :=
  modQueue i qi (fun q => { q with runs := q.runs.map fun r => if r.ord = ord then f r else r }) s

/-- A translation refused while a docket runs ends it with SEGMENT_FAULT (R396). -/
def plainOutcome (out : Settled) : Settled :=
  if out.status = stDataError ∧ out.detail = atsDetail then { out with status := stSegmentFault, bytes := 0, detail := 0 } else out

/-- The outcome of a docket is settled (R18); DOCKET_COMPLETE writes its receipt. Where a translation was refused its
destination is undefined. -/
def settle (i qi ord : Nat) (out : Settled) (s : State) : State :=
  let s1 := if out.status = stDataError ∧ out.detail = atsDetail then
      (match (getQueue s i qi).bind fun q => (q.runs.find? fun r => r.ord == ord).map fun r => (q, r) with
       | some (q, r) => undefDocket r.segs r.lig (view q.desc.v1 r.words) s
       | none => s)
    else s
  modRun i qi ord (fun r => { r with executed := true, outcome := some (plainOutcome out) }) s1

/-- The v2 view of a run's docket. -/
def runWords (q : Queue) (r : Run) : List Word := view q.desc.v1 r.words

/-- A local range lies on the home hatch of its queue. -/
def onHome (q : Queue) (r : Run) (a n : Nat) : Bool :=
  match findSeg r.segs a n false false with
  | some g => g.kind == 3 && g.hatch == q.home
  | none => false

/-- The local ranges a docket still reads or writes: a started press operation has its lists already (R234). -/
def openRanges (q : Queue) (r : Run) : List (Nat × Nat × Bool) :=
  let w := runWords q r
  let listed := match r.press with
    | some p => decide (p.stage = .running) || decide (p.stage = .done)
    | none => false
  if isPress (dOp w) && listed then
    (pressOperands w).filterMap fun o => if o.write || o.word == 2 then some (o.addr, o.len, o.write) else none
  else localRanges r.lig w ++
    (if dOp w = opEmbedGather ∧ egPool w ≠ 0 then [((wd w 5).toNat, 1, false)] else [])

/-- A docket has an access to its home hatch before it. -/
def needsHome (q : Queue) (r : Run) : Bool := (openRanges q r).any fun x => onHome q r x.1 x.2.1

/-- A docket that needs the home hatch does not go on while its queue is HELD or its function is in D3hot (R399, R410). -/
def hatchBlocks (s : State) (i : Nat) (q : Queue) (r : Run) : Bool :=
  (decide (q.st = .held) || (getFn s { fnOf s i with hatch := q.home }).d3) && needsHome q r

/-- A docket refused because the slot it seals with is exhausted is counted (R437). -/
def countExhausted (r : Run) (s : State) : State :=
  if r.worn then { s with misc := { s.misc with exhausted := satAdd 16 s.misc.exhausted 1 } } else s

/-- The hatch of the first operand of KIND 3 for which a translation is refused (R396). -/
def atsRefused (s : State) (i : Nat) (q : Queue) (r : Run) : Option Nat :=
  (localRanges r.lig (runWords q r)).findSome? fun x =>
    (findSeg r.segs x.1 x.2.1 (!x.2.2) x.2.2).bind fun g =>
      if g.kind = 3 ∧ ¬ atsOk s (segFn s i g) (g.target + (x.1 - g.base)) x.2.1 x.2.2 then some g.hatch else none

/-- Translations of every operand are obtained before a byte moves. -/
def obtainAts (i : Nat) (q : Queue) (r : Run) (s : State) : State :=
  each (localRanges r.lig (runWords q r)) (fun x t =>
    match findSeg r.segs x.1 x.2.1 (!x.2.2) x.2.2 with
    | some g => if g.kind = 3 then cacheAts (segFn s i g) (g.target + (x.1 - g.base)) x.2.1 x.2.2 t else t
    | none => t) s

/-- A docket of an opcode starts its work: MALFORMED findings first (R108), then its effect. -/
def startDocket (d : DRef) (op : Nat) (body : Queue → Run → State → State) (s : State) : State :=
  match openRun s d with
  | none => s
  | some (q, r) =>
    let w := runWords q r
    if !running s || !r.started || dOp w != op then s
    else
      match finding s d.inst d.queue q r with
      | some k => placeAll (malformed d.inst d.queue r k (countExhausted r s))
      | none =>
        if hatchBlocks s d.inst q r then s
        else
          match atsRefused s d.inst q r with
          | some h => settle d.inst d.queue r.ord (settledAs stSegmentFault 0 0) (countAts h s)
          | none => body q r (obtainAts d.inst q r s)

/-! ### Local moves -/

/-- Where a local operand lies: the segment bound at the start that holds the whole range and allows the access. -/
def source (r : Run) (a n : Nat) : Option Seg := findSeg r.segs a n true false
def target (r : Run) (a n : Nat) : Option Seg := findSeg r.segs a n false true

/-- The destination bytes that hold source data when the first `k` source bytes could be read (R18, R133); 0 where a
block-scaled format interleaves them with scales (log entry 16). -/
def prefixBytes (l : Option (List Word)) (k : Nat) : Nat :=
  match l with
  | none => k
  | some w =>
    if isMx (ligIn w) || isMx (ligOut w) then 0
    else k / (fmtBits (ligIn w) / 8) * (fmtBits (ligOut w) / 8)

/-- Source bytes turned into destination bytes, with the destination read where the ligature accumulates. A failing read of
the destination reports its index and memory. -/
def transform (i : Nat) (l : Option (List Word)) (g : Seg) (a : Nat) (bs : List Byte) (s : State) : MemRead × State :=
  match l with
  | none => ({ bytes := bs, fail := none, twin := false, events := [] }, s)
  | some w =>
    let n := destBytes l bs.length
    let (r, s1) := if ligAccumulates w then readSeg i g a n s
      else ({ bytes := [], fail := none, twin := false, events := [] }, s)
    ({ r with bytes := applyLig w bs r.bytes s1.freeCount },
      { s1 with freeCount := s1.freeCount + ligDraws l bs.length })

/-- The result of moving one range: bytes of the destination that hold source data, the memory of the first failing
access, and whether a twin served. -/
structure Moved where
  good : Nat
  fail : Option Nat
  twin : Bool
deriving DecidableEq, Repr

/-- Least failure of two. -/
def Moved.of (all : Nat) (fs : List (Option (Nat × Nat))) (twin : Bool) : Moved :=
  match minBy (·.1) (fs.filterMap id) with
  | some (k, m) => { good := min k all, fail := some m, twin := twin }
  | none => { good := all, fail := none, twin := twin }

/-- Move `n` source bytes to a destination (R18, R40, R133, R227): the part after the first failing byte is undefined. -/
def moveRange (i : Nat) (l : Option (List Word)) (g h : Seg) (a b n : Nat) (s : State) : Moved × State :=
  if n = 0 then ({ good := 0, fail := none, twin := false }, s)
  else
    let (r, s1) := readSeg i g a n s
    let s2 := latchAll r.events s1
    let (t, s3) := transform i l h b r.bytes s2
    let s4 := latchAll t.events s3
    let (w, s5) := writeSeg i h b t.bytes s4
    let s6 := latchAll w.events s5
    let m := Moved.of (destBytes l n) [r.fail.map fun f => (prefixBytes l f.1, f.2), t.fail, w.fail] (r.twin || t.twin)
    (m, if m.fail.isSome then undefSeg h (b + m.good) (destBytes l n - m.good) s6 else s6)

/-- Outcome of a move. -/
def Moved.outcome (m : Moved) : Settled :=
  match m.fail with
  | some k => { settledAs stDataError m.good k with twin := m.twin }
  | none => { settledOk m.good with twin := m.twin }

/-- The part of a COPY's destination whose source bytes the COPY itself may have overwritten: undefined, as R40 orders no
write (log entry 15): offset and length. -/
def overlapPart (a b n : Nat) : Nat × Nat :=
  if a = b ∨ a + n ≤ b ∨ b + n ≤ a then (0, 0)
  else if a < b then (b - a, n - (b - a))
  else (0, b + n - a)

/-- Pieces of a docket that stays in the device are still to be granted (R374): it moves when the last has been, in one step
(log entry 91). -/
def ungranted (r : Run) : Bool := decide (r.granted < r.pieces)

/-- COPY between two local operands that are not remote windows (R119, R18). -/
def copyLocal (i qi : Nat) (r : Run) (w : List Word) (g h : Seg) (s : State) : State :=
  let n := dLen w
  let (m, s1) := moveRange i r.lig g h (dSrc w) (dDst w) n s
  let (o, k) := overlapPart (dSrc w) (dDst w) n
  let s2 := if k = 0 then s1
    else if r.lig.isSome then undefSeg h (dDst w) (destBytes r.lig n) s1
    else undefSeg h (dDst w + o) k s1
  settle i qi r.ord m.outcome s2

/-! ### TILE_COPY (R127 to R130) -/

/-- What the rows moved so far came to. -/
structure Tiles where
  good : Nat
  fail : Option Nat
  twin : Bool
deriving DecidableEq, Repr

/-- Move one row; after a failing read the rest is undefined (R18). -/
def tileRow (i : Nat) (l : Option (List Word)) (g h : Seg) (a b n : Nat) (t : Tiles) (s : State) : Tiles × State :=
  match t.fail with
  | some _ => (t, undefSeg h b (destBytes l n) s)
  | none =>
    let (m, s1) := moveRange i l g h a b n s
    ({ good := t.good + m.good, fail := m.fail, twin := t.twin || m.twin }, s1)

/-- Rows `row` to the last of one tile. -/
def tileRows (i : Nat) (w : List Word) (l : Option (List Word)) (g h : Seg) (a b : Nat) :
    Nat → Nat → Tiles → State → Tiles × State
  | 0, _, t, s => (t, s)
  | k + 1, row, t, s =>
    let (t1, s1) := tileRow i l g h (a + row * tlSrcRow w) (b + row * tlDstRow w) (tlRowBytes w) t s
    tileRows i w l g h a b k (row + 1) t1 s1

/-- Span of one tile with a row stride. -/
def tileSpan (rows stride row : Nat) : Nat := (rows - 1) * stride + row

/-- A segment of KIND 0 to 3. -/
def near (g : Option Seg) : Option Seg := g.bind fun x => if x.kind < 4 then some x else none

/-- Tiles `t` to the last: the index of the first that fails its check, if one does (R129). -/
def tileLoop (i : Nat) (r : Run) (w : List Word) : Nat → Nat → Tiles → State → Option Nat × Tiles × State
  | 0, _, t, s => (none, t, s)
  | k + 1, j, t, s =>
    let a := dSrc w + j * tlSrcTile w
    let b := dDst w + j * tlDstTile w
    match near (source r a (tileSpan (tlRows w) (tlSrcRow w) (tlRowBytes w))),
        near (target r b (tileSpan (tlRows w) (tlDstRow w) (destBytes r.lig (tlRowBytes w)))) with
    | some g, some h =>
      let (t1, s1) := tileRows i w r.lig g h a b (tlRows w) 0 t s
      tileLoop i r w k (j + 1) t1 s1
    | _, _ => (some j, t, s)

/-- Destination bytes where the spans of two executed tiles overlap are undefined (R130). -/
def tileOverlap (r : Run) (w : List Word) (tiles : Nat) (s : State) : State :=
  let span := tileSpan (tlRows w) (tlDstRow w) (destBytes r.lig (tlRowBytes w))
  if span ≤ tlDstTile w then s
  else
    each (List.range (tiles - 1)) (fun j t =>
      let b := dDst w + (j + 1) * tlDstTile w
      match target r b (span - tlDstTile w) with
      | some h => undefSeg h b (span - tlDstTile w) t
      | none => t) s

/-- TILE_COPY (R127 to R130, R140). -/
def tileCopy (i qi : Nat) (q : Queue) (r : Run) (s : State) : State :=
  let w := runWords q r
  let perTile := tlRows w * destBytes r.lig (tlRowBytes w)
  if ungranted r then s else
  let (bad, t, s1) := tileLoop i r w (tlTiles w) 0 { good := 0, fail := none, twin := false } s
  let done := bad.getD (tlTiles w)
  let out : Settled :=
    match bad with
    | some j => settledAs stSegmentFault (min (j * perTile) t.good) (j % 65536)
    | none => { good := t.good, fail := t.fail, twin := t.twin : Moved }.outcome
  settle i qi r.ord { out with twin := t.twin } (tileOverlap r w done s1)

def execTileCopy (d : DRef) (s : State) : Host.Outcome State Fault Refusal :=
  .next (startDocket d opTileCopy (tileCopy d.inst d.queue) s)

/-! ### FENCE (R44) -/

/-- FENCE moves nothing; its outcome is settled, and DOCKET_COMPLETE waits for the earlier dockets. -/
def fence (i qi : Nat) (_q : Queue) (r : Run) (s : State) : State := settle i qi r.ord (settledOk 0) s

def execFence (d : DRef) (s : State) : Host.Outcome State Fault Refusal :=
  .next (startDocket d opFence (fence d.inst d.queue) s)

/-! ### INVALIDATE (R106, R107) -/

/-- The slots an INVALIDATE names. -/
def heldSlots (t : Queue) (w : List Word) : List Nat :=
  (List.range (ivCount w)).map fun k => (ivFirst w + k) % ringSize t

/-- A slot's docket had started before the hold: it runs, has an outcome recorded on a HELD queue, or is retired after a
start. -/
def slotStarted (t : Queue) (slot : Nat) : Bool :=
  t.runs.any (fun r => !r.planned && r.started && r.slot == slot) ||
    t.record.any (fun h => !h.run.planned && h.run.slot == slot) ||
    (t.retired.contains slot && !t.neverStarted.contains slot)

/-- The mask of DETAIL: bit k for slot FIRST + k. -/
def startedMask (t : Queue) (w : List Word) : Nat :=
  (List.range (ivCount w)).foldl (fun m k =>
    if slotStarted t ((ivFirst w + k) % ringSize t) then m + 2 ^ k else m) 0

/-- The hold takes effect on the target queue. -/
def placeHold (slots : List Nat) (d : DRef) (t : Queue) : Queue :=
  let gone := (t.fetched.filter fun f => slots.contains f.slot).map (·.slot) ++
    (t.runs.filter fun r => !r.planned && !r.started && slots.contains r.slot).map (·.slot)
  let back := (minBy (ringKey t) gone).map fun k => (t.ci + ringKey t k) % (2 * ringSize t)
  { t with
    fetched := t.fetched.filter fun f => !slots.contains f.slot
    runs := t.runs.filter fun r => r.planned || r.started || !slots.contains r.slot
    unfinished := t.unfinished.filter fun k => !gone.contains k
    si := back.getD t.si
    sweep := none
    scanWaits := false
    place := .none
    hold := some { slots := slots ++ (match t.hold with | some h => h.slots | none => []), byInst := d.inst,
                   byQueue := d.queue, bySlot := d.slot, receiptWritten := false } }

/-- INVALIDATE. -/
def invalidate (d : DRef) (q : Queue) (r : Run) (s : State) : State :=
  let w := runWords q r
  match getQueue s d.inst (ivTarget w) with
  | none => s
  | some t =>
    let slots := heldSlots t w
    let s1 := each (t.runs.filter fun x => !x.planned && !x.started && slots.contains x.slot)
      (withdrawPress d.inst (ivTarget w)) s
    settle d.inst d.queue r.ord (settledAs stOk 0 (startedMask t w))
      (modQueue d.inst (ivTarget w) (placeHold slots d) s1)

def execInvalidate (d : DRef) (s : State) : Host.Outcome State Fault Refusal :=
  .next (placeAll (startDocket d opInvalidate (invalidate d) s))

/-! ### Deadlines of posted dockets (R73) -/

/-- DEADLINE_MISSED of a docket that has not started by the edge of tick F + d. -/
def missedReceipt (s : State) (slot : Nat) (w ws : List Word) : Receipt :=
  receiptOf s slot ws (settledAs stDeadlineMissed 0 (dDeadline w)) false

/-- The deadline of a docket that has been granted and has not started has passed (R73, R241). -/
def runMissed (s : State) (q : Queue) (r : Run) : Bool :=
  !r.planned && !r.started && missed s q { slot := r.slot, words := r.words, tick := r.fetchTick, plate := none }

/-- The outcome of a docket that ends before its start: DEADLINE_MISSED comes first once its deadline has passed (R140). -/
def unstartedOutcome (s : State) (i qi : Nat) (q : Queue) (r : Run) (out : Settled) : Settled :=
  flagged s i qi q r (if runMissed s q r then { settledAs stDeadlineMissed 0 (dDeadline (runWords q r)) with twin := out.twin }
    else out)

/-- DEADLINE_EXPIRY: a fetched docket, or a press docket that waits for galley room or a permit (R241). -/
def deadlineExpiry (d : DRef) (s : State) : State :=
  match getQueue s d.inst d.queue with
  | none => s
  | some q =>
    match q.fetched.find? (fun f => f.slot == d.slot && missed s q f) with
    | some f =>
      let s1 := modQueue d.inst d.queue (fun y => { y with fetched := y.fetched.filter fun g => g.slot != d.slot }) s
      placeAll (endUnstarted d.inst d.queue (missedReceipt s d.slot (view q.desc.v1 f.words) f.words) s1)
    | none =>
      match q.runs.find? (fun r => r.slot == d.slot && runMissed s q r) with
      | some r =>
        let s1 := withdrawPress d.inst d.queue r (modQueue d.inst d.queue (fun y =>
          { dropRun r.ord y with unfinished := y.unfinished.filter (· != r.slot) }) s)
        let out := unstartedOutcome s d.inst d.queue q r aborted
        placeAll (endUnstarted d.inst d.queue (receiptOf s d.slot r.words out false) s1)
      | none => s

end Sys2Proof.Machine
end

