-- ==== Sys2Proof/Machine/PressMath.lean ====
section
/-! DEFINITION. What the six press operations read, check, compute, write and draw (10_press_operations.md R233 to R264), as
functions of the docket, its lists and its input bytes. -/
namespace Sys2Proof.Machine

/-! ### Operands (R233) -/

/-- An operand resolves (R233); one of no bytes is checked as one of a single byte (R50). -/
def operandOk (segs : List Seg) (o : Operand) : Bool :=
  match findSeg segs o.addr o.len (!o.write) o.write with
    | some g => decide (g.kind ≤ o.maxKind)
    | none => false

/-! ### Lists (R234) -/

/-- Numbers of `size` bytes that a list holds. -/
def listEntries (size n : Nat) (bs : List Byte) : List Nat :=
  (List.range n).map fun k => leNat ((bs.drop (size * k)).take size)

/-- Source rows of a table. -/
def tableRows (w : List Word) : Nat := dLen w / max 1 (rowBytes (grIn w) (grElems w))

/-- A page entry fails its check (R246). -/
def pageBad (segs : List Seg) (w : List Word) (a : Nat) : Bool :=
  a % 64 != 0 || match findSeg segs a (atPageBytes w) true false with
    | some g => decide (1 < g.kind)
    | none => true

/-- Position of the first element that meets a condition on position and value. -/
def findAt (p : Nat → Nat → Bool) : Nat → List Nat → Option Nat
  | _, [] => none
  | k, a :: l => if p k a then some k else findAt p (k + 1) l

/-- First failing entry of the offset list of EMBED_GATHER (R254). -/
def offsetBad (w : List Word) (l : List Nat) : Option Nat :=
  findAt (fun k a => (k == 0 && a != 0) || (decide (0 < k) && decide (a < l.getD (k - 1) 0)) ||
    (k == grRows w && decide (1048576 < a))) 0 l

/-- First failing entry of the other lists: page list, index list. -/
def entryBad (segs : List Seg) (w : List Word) (l : List Nat) : Option Nat :=
  findAt (fun _ a =>
    if dOp w = opAttend then pageBad segs w a
    else if dOp w = opGatherReduce then a != 0xFFFFFFFF && decide (tableRows w ≤ a)
    else decide (tableRows w ≤ a)) 0 l

/-- The lists that are read first: address, entry size and count. -/
def firstLists (w : List Word) : List (Nat × Nat × Nat) :=
  let op := dOp w
  let a5 := (wd w 5).toNat
  let a6 := (wd w 6).toNat
  if op = opAttend then [(a5, 8, atHeads w * atPages w)]
  else if op = opGatherReduce then
    [(a5, 4, grRows w * grFan w)] ++ (if grWeighted w then [(a6, 4, grRows w * grFan w)] else [])
  else if op = opEmbedGather then (if egPool w = 0 then [(a5, 4, grRows w)] else [(a6, 4, grRows w + 1)])
  else []

/-- Table rows that an output row gathers, each with its weight code (R251, R254); `lists` as `firstLists` read them, with
the index list of a pooled EMBED_GATHER second. -/
def gathered (w : List Word) (lists : List (List Nat)) (r : Nat) : List (Nat × Nat) :=
  let a := lists.getD 0 []
  let b := lists.getD 1 []
  if dOp w = opGatherReduce then
    ((List.range (grFan w)).map fun j =>
      (a.getD (r * grFan w + j) 0xFFFFFFFF, b.getD (r * grFan w + j) 0)).filter fun p => p.1 != 0xFFFFFFFF
  else if egPool w = 0 then [(a.getD r 0, 0)]
  else ((b.drop (a.getD r 0)).take (a.getD (r + 1) 0 - a.getD r 0)).map fun x => (x, 0)

/-! ### Pieces: what an output element depends on (R248, R251, R257, R263) -/

/-- Elements in one piece of a stream: a block where either format is block-scaled. -/
def unitElems (a b : Nat) : Nat := if isMx a || isMx b then 32 else 1

/-- Number of pieces into which the output of an operation falls, each undefined by itself when an input of it changes. -/
def pieceTotal (w : List Word) : Nat :=
  let op := dOp w
  if op = opAttend then atHeads w
  else if op = opGatherReduce ∨ op = opEmbedGather then grRows w
  else if op = opTopk then tkRows w
  else if op = opTranscode then tcElems w / unitElems (tcIn w) (tcOut w)
  else rdElems w / unitElems (rdIn w) (rdOut w)

/-- Byte ranges of piece k of a stream of n elements at an address (R212). -/
def streamPiece (fmt n unit a k : Nat) : List (Nat × Nat) :=
  if isMx fmt then
    let bb := blockBytes fmt
    let g := k / 32
    let inGroup := min 32 (n / 32 - 32 * g)
    let base := a + g * (32 * (1 + bb))
    [(base + k % 32, 1), (base + inGroup + k % 32 * bb, bb)]
  else [(a + k * unit * (fmtBits fmt / 8), unit * (fmtBits fmt / 8))]

/-- Tokens of page p that count. -/
def pageTokens (w : List Word) (p : Nat) : Nat := min 64 (atTokens w - 64 * p)

/-- Input ranges of a piece. -/
def pieceIn (w : List Word) (lists : List (List Nat)) (k : Nat) : List (Nat × Nat) :=
  let op := dOp w
  if op = opAttend then
    let rq := rowBytes (atQFmt w) (atDim w)
    let rk := rowBytes (atKvFmt w) (atDim w)
    let pages := lists.getD 0 []
    (dSrc w + k * atGroup w * rq, atGroup w * rq) ::
      (List.range (atPages w)).flatMap fun p =>
        let a := pages.getD (k * atPages w + p) 0
        [(a, pageTokens w p * rk), (a + 64 * rk, pageTokens w p * rk)]
  else if op = opGatherReduce ∨ op = opEmbedGather then
    let rb := rowBytes (grIn w) (grElems w)
    (gathered w lists k).map fun x => (dSrc w + x.1 * rb, rb)
  else if op = opTopk then [(dSrc w + k * tkCols w * tkBytes w, tkCols w * tkBytes w)]
  else if op = opTranscode then streamPiece (tcIn w) (tcElems w) (unitElems (tcIn w) (tcOut w)) (dSrc w) k
  else (List.range (rdSources w)).flatMap fun m =>
    streamPiece (rdIn w) (rdElems w) (unitElems (rdIn w) (rdOut w)) (dSrc w + m * rdStride w) k

/-- Bytes of element k of a stream of n elements, with its scale where the format is block-scaled (R212, R213). -/
def elemRanges (fmt n a k : Nat) : List (Nat × Nat) :=
  let b := fmtBits fmt
  if isMx fmt then
    match streamPiece fmt n 32 a (k / 32) with
    | [scale, block] => [scale, (block.1 + k % 32 * b / 8, (k % 32 * b % 8 + b + 7) / 8)]
    | l => l
  else [(a + k * (b / 8), b / 8)]

/-- Output ranges of a piece. -/
def pieceOut (w : List Word) (k : Nat) : List (Nat × Nat) :=
  let op := dOp w
  if op = opAttend then
    let n := atGroup w * rowBytes (atOutFmt w) (atDim w)
    (dDst w + k * n, n) ::
      (if atLse w then [(dDst w + atOutBytes w + k * atGroup w * 8, atGroup w * 8)] else [])
  else if op = opGatherReduce ∨ op = opEmbedGather then
    let n := rowBytes (grOut w) (grElems w)
    [(dDst w + k * n, n)]
  else if op = opTopk then
    [(dDst w + k * tkK w * tkBytes w, tkK w * tkBytes w), ((wd w 5).toNat + k * tkK w * 4, tkK w * 4)]
  else if op = opTranscode then streamPiece (tcOut w) (tcElems w) (unitElems (tcIn w) (tcOut w)) (dDst w) k
  else streamPiece (rdOut w) (rdElems w) (unitElems (rdIn w) (rdOut w)) (dDst w) k

/-- The output ranges that writes to inputs leave undefined, where each operation's section says so (R248, R251, R257, R263):
the heads whose keys or values were written, the rows that gather or select from a written row, and the elements at written
positions of a source, a block at a time where OUT_FMT is block-scaled. -/
def touchedOut (w : List Word) (lists : List (List Nat)) (hit : Nat × Nat → Bool) : List (Nat × Nat) :=
  let op := dOp w
  if op = opAttend then
    ((List.range (atHeads w)).filter fun k => ((pieceIn w lists k).drop 1).any hit).flatMap (pieceOut w)
  else if op = opGatherReduce ∨ op = opTopk then
    ((List.range (pieceTotal w)).filter fun k => (pieceIn w lists k).any hit).flatMap (pieceOut w)
  else if op = opReduce then
    ((List.range (rdElems w)).filter fun e => (List.range (rdSources w)).any fun m =>
      (elemRanges (rdIn w) (rdElems w) (dSrc w + m * rdStride w) e).any hit).flatMap fun e =>
        if isMx (rdOut w) then streamPiece (rdOut w) (rdElems w) 32 (dDst w) (e / 32)
        else elemRanges (rdOut w) (rdElems w) (dDst w) e
  else []

/-- Every input range, piece by piece. -/
def pressIn (w : List Word) (lists : List (List Nat)) : List (Nat × Nat) := (List.range (pieceTotal w)).flatMap (pieceIn w lists)

/-- Bytes of a list of ranges. -/
def rangesBytes (l : List (Nat × Nat)) : Nat := sumOf (·.2) l

/-- Cut the bytes of ranges that were read one after another. -/
def cutRanges : List (Nat × Nat) → List Byte → List (List Byte)
  | [], _ => []
  | r :: l, bs => bs.take r.2 :: cutRanges l (bs.drop r.2)

/-- The input bytes of each piece, range by range. -/
def pieceInputs (w : List Word) (lists : List (List Nat)) : Nat → Nat → List Byte → List (List (List Byte))
  | 0, _, _ => []
  | n + 1, k, bs =>
    let rs := pieceIn w lists k
    cutRanges rs (bs.take (rangesBytes rs)) :: pieceInputs w lists n (k + 1) (bs.drop (rangesBytes rs))

/-- Two ranges meet. -/
def rangesMeet (a b : Nat × Nat) : Bool :=
  decide (0 < a.2) && decide (0 < b.2) && decide (a.1 < b.1 + b.2) && decide (b.1 < a.1 + a.2)

/-- The output overlaps an input or a list (R235). -/
def overlaps (w : List Word) (lists : List (List Nat)) : Bool :=
  let outs := (pressOperands w).filterMap fun o => if o.write then some (o.addr, o.len) else none
  let ls := (firstLists w).map (fun l => (l.1, l.2.1 * l.2.2)) ++
    (if dOp w = opEmbedGather ∧ egPool w ≠ 0 then [((wd w 5).toNat, 4 * (lists.getD 1 []).length)] else [])
  let fixed := (pressOperands w).filterMap fun o => if o.write then none else some (o.addr, o.len)
  let pages := if dOp w = opAttend then (lists.getD 0 []).map fun a => (a, atPageBytes w) else []
  outs.any fun o => (ls ++ fixed ++ pages).any (rangesMeet o)

/-! ### Blocks (R239, R247) -/

/-- First row of run j of R rows in n runs. -/
def runStart (rows n j : Nat) : Nat := j * (rows / n) + min j (rows % n)

/-- Cut the rows from x to `stop` into blocks of up to 64 that end at head boundaries. -/
def cutRun (tokens j stop : Nat) : Nat → Nat → List (Nat × Nat × Nat)
  | 0, _ => []
  | fuel + 1, x =>
    if stop ≤ x then []
    else
      let len := min 64 (min (stop - x) (tokens - x % tokens))
      (j, x, len) :: cutRun tokens j stop fuel (x + len)

/-- Blocks of an ATTEND in n runs: run, first row, rows. -/
def attendBlocks (w : List Word) (n : Nat) : List (Nat × Nat × Nat) :=
  let rows := atHeads w * atTokens w
  (List.range n).flatMap fun j => cutRun (atTokens w) j (runStart rows n (j + 1)) rows (runStart rows n j)

/-- Number of press blocks of a docket. -/
def blockTotal (w : List Word) (n : Nat) : Nat :=
  let op := dOp w
  let rowwise (rows elems part : Nat) : Nat := if part < elems then rows * ceilDiv elems part else ceilDiv rows 64
  if op = opAttend then (attendBlocks w n).length
  else if op = opGatherReduce ∨ op = opEmbedGather then rowwise (grRows w) (grElems w) 1024
  else if op = opTopk then rowwise (tkRows w) (tkCols w) 16384
  else if op = opTranscode then ceilDiv (tcElems w) 16384
  else ceilDiv (rdElems w) (16384 / max 1 (rdSources w) / 32 * 32)

/-- The chain that keeps a block on one unit (R240, R247, R251): an ATTEND run, a long TOPK row, an output row of a gather that
spans several blocks. -/
def chainOf (w : List Word) (n b : Nat) : Option Nat :=
  let op := dOp w
  if op = opAttend then ((attendBlocks w n)[b]?).map (·.1)
  else if op = opTopk ∧ 16384 < tkCols w then some (b / ceilDiv (tkCols w) 16384)
  else if (op = opEmbedGather ∨ op = opGatherReduce) ∧ 1024 < grElems w then some (b / ceilDiv (grElems w) 1024)
  else none

/-! ### Shared galley (R241) -/

/-- Shared galley a docket needs, from its own fields. -/
def galleyNeed (w : List Word) : Nat :=
  let op := dOp w
  if op = opAttend then
    8 * atHeads w * atPages w + atQueries w * rowBytes (atQFmt w) (atDim w) + (atDim w + 2) * 4 * atQueries w
  else if op = opGatherReduce then (if grWeighted w then 8 else 4) * grRows w * grFan w
  else if op = opEmbedGather then (if egPool w = 0 then 4 * grRows w else 4 * (grRows w + 1) + 4194304)
  else if op = opTopk then (if 16384 < tkCols w then ceilDiv (tkCols w) 16384 * tkK w * 8 else 0)
  else 64

/-! ### Nominal duration and draw (R242, R243) -/

/-- KIND of the segment at an address; 3 where none is found. -/
def kindAt (segs : List Seg) (a : Nat) : Nat := match findSeg segs a 1 false false with | some g => g.kind | none => 3

/-- Bytes that an operation streams, with the KIND of their memory (R249, R252, R255, R258, R261, R264). -/
def streamed (segs : List Seg) (w : List Word) (lists : List (List Nat)) : List (Nat × Nat) :=
  let op := dOp w
  let src := kindAt segs (dSrc w)
  let dst := kindAt segs (dDst w)
  if op = opAttend then
    ((List.range (atHeads w)).flatMap fun h => (List.range (atPages w)).map fun p =>
      (kindAt segs ((lists.getD 0 []).getD (h * atPages w + p) 0), 2 * pageTokens w p * rowBytes (atKvFmt w) (atDim w)))
  else if op = opGatherReduce ∨ op = opEmbedGather then
    [(src, rangesBytes (pressIn w lists)), (dst, grRows w * rowBytes (grOut w) (grElems w))]
  else if op = opTopk then
    [(src, dLen w), (dst, tkRows w * tkK w * tkBytes w), (kindAt segs (wd w 5).toNat, tkRows w * tkK w * 4)]
  else if op = opTranscode then
    [(src, dLen w), (dst, streamBytes (tcOut w) (tcElems w))] ++ (if tcAmax w then [(kindAt segs (wd w 6).toNat, 8)] else [])
  else [(src, rdSources w * dLen w), (dst, streamBytes (rdOut w) (rdElems w))]

/-- Bytes of fixed operands that are read and not streamed: queries and lists. -/
def fixedBytes (segs : List Seg) (w : List Word) (lists : List (List Nat)) : List (Nat × Nat) :=
  (firstLists w).map (fun l => (kindAt segs l.1, l.2.1 * l.2.2)) ++
    (if dOp w = opAttend then [(kindAt segs (dSrc w), atQueries w * rowBytes (atQFmt w) (atDim w))]
     else if dOp w = opEmbedGather ∧ egPool w ≠ 0 then [(kindAt segs (wd w 5).toNat, 4 * (lists.getD 1 []).length)]
     else [])

/-- Bytes in a memory KIND. -/
def bytesIn (k : Nat) (l : List (Nat × Nat)) : Nat := sumOf (·.2) (l.filter fun p => p.1 == k)

/-- The time that bytes take at the rates of R242, in fs: quotients are rounded down (log entry 9). -/
def streamTime (l : List (Nat × Nat)) : Nat :=
  bytesIn 0 l * 10000000 / 122880 + bytesIn 1 l * 10000000 / 8448 + (bytesIn 2 l + bytesIn 3 l) * 10000000 / 1280

/-- MACs per unit and cycle of the pairs of ATTEND (R232). -/
def scoreRate (w : List Word) : Nat := if atQFmt w = 1 then 64 else 128

/-- Vector and special-function results. -/
def vecResults (w : List Word) (lists : List (List Nat)) : Nat :=
  let op := dOp w
  let indices := sumOf (fun r => (gathered w lists r).length) (List.range (grRows w))
  if op = opAttend then atQueries w * (4 * atTokens w + 2 * atDim w * atPages w)
  else if op = opGatherReduce then indices * grElems w * (if grWeighted w then 2 else 1)
  else if op = opEmbedGather then (indices + grRows w) * grElems w
  else if op = opTopk then tkRows w * tkCols w * (1 + ceilDiv (tkK w) 64)
  else if op = opTranscode then tcElems w * (if isMx (tcOut w) then 2 else 1)
  else rdSources w * rdElems w

/-- T_mac on n units, in fs. -/
def macTime (w : List Word) (n : Nat) : Nat :=
  if dOp w = opAttend then
    ceilDiv (atHeads w * atTokens w) n * (atGroup w * atDim w * 250000 / scoreRate w + atGroup w * atDim w * 250000 / 128)
  else 0

/-- T_nom on n units, in fs (R242). -/
def nominal (segs : List Seg) (w : List Word) (lists : List (List Nat)) (n : Nat) : Nat :=
  streamTime (fixedBytes segs w lists) +
    max (streamTime (streamed segs w lists)) (max (macTime w n) (vecResults w lists * 1000000 / (max n 1 * 128)))

/-- Draw of the whole docket in units of 0.1 pJ (R243). -/
def drawOf (segs : List Seg) (w : List Word) (lists : List (List Nat)) : Nat :=
  let bytes := fixedBytes segs w lists ++ streamed segs w lists ++
    (if dOp w = opAttend then [(kindAt segs (dDst w), atOutBytes w + (if atLse w then 8 * atQueries w else 0))] else [])
  let macs := atQueries w * atTokens w * atDim w
  (if dOp w = opAttend then macs * (if atQFmt w = 1 then 45 else 22) + macs * 22 else 0) + vecResults w lists * 30 +
    bytesIn 0 bytes * 107 + bytesIn 1 bytes * 355 + (bytesIn 2 bytes + bytesIn 3 bytes) * 342

/-- Power in mW of a draw over a time in fs. -/
def powerOf (draw time : Nat) : Nat := if time = 0 then 0 else draw * 100000 / time

/-- 10 µs in fs. -/
def sliceTime : Nat := 10000000000

/-- Slices of a docket (R243). -/
def sliceCount (t : Nat) : Nat := if t ≤ sliceTime then 1 else ceilDiv t sliceTime

/-- First block past slice i. -/
def sliceLimit (t blocks i : Nat) : Nat := if sliceCount t ≤ i + 1 then blocks else min blocks (ceilDiv ((i + 1) * sliceTime * blocks) t)

/-! ### Working values -/

/-- Working values of an output row (R218, R219). -/
inductive Work where
  | fp (vs : List Val)
  | int (is : List Int)
deriving DecidableEq, Repr

/-- Encode a row of working values. -/
def Work.encode (fmt : Nat) (l : Option (List Word)) (dst : List Byte) (base : Nat) : Work → Encoded
  | .fp vs => encodeVals fmt l vs dst base
  | .int is => encodeWork fmt l is dst base

/-- Sum of rows: the first term is taken as it is, and each later addition rounds (R251, R263). -/
def sumVals (n : Nat) : List (List Val) → List Val
  | [] => List.replicate n Val.zero
  | a :: l => l.foldl (List.zipWith fadd) a

/-- Exact sum of rows of integers. -/
def sumInts (n : Nat) : List (List Int) → List Int
  | [] => List.replicate n 0
  | a :: l => l.foldl (List.zipWith (· + ·)) a

/-- Fold rows by an operation on elements. -/
def foldVals {α : Type} (f : α → α → α) (zero : List α) : List (List α) → List α
  | [] => zero
  | a :: l => l.foldl (List.zipWith f) a

/-- One output row of GATHER_REDUCE (R251). -/
def gatherRow (w : List Word) (terms : List (Nat × Nat)) (rows : List (List Byte)) : Work :=
  let e := grElems w
  if isInt (grIn w) then .int (sumInts e (rows.map (intStream (grIn w) e)))
  else
    let term (p : (Nat × Nat) × List Byte) : List Val :=
      let t := decodeStream (grIn w) e p.2
      if grWeighted w then t.map fun v => fmul v (f32 (BitVec.ofNat 32 p.1.2)) else t
    .fp (sumVals e ((terms.zip rows).map term))

/-- One output row of EMBED_GATHER (R254). -/
def bagRow (w : List Word) (rows : List (List Byte)) : Work :=
  let e := grElems w
  let n := rows.length
  if isInt (grIn w) then
    let l := rows.map (intStream (grIn w) e)
    if egPool w = 3 then .int (foldVals max (List.replicate e 0) l)
    else if egPool w = 2 ∧ 0 < n then .int ((sumInts e l).map fun t => t.tdiv n)
    else .int (sumInts e l)
  else
    let l := rows.map (decodeStream (grIn w) e)
    if egPool w = 3 then .fp (foldVals Val.pressMax (List.replicate e Val.zero) l)
    else if egPool w = 2 ∧ 0 < n then .fp ((sumVals e l).map fun t => fmul t (recip (to32 (Val.ofInt n))))
    else .fp (sumVals e l)

/-- Rejoin the pieces of a stream: the bytes of n elements at the head of a list of pieces, in the layout of R212. -/
def joinPieces (fmt : Nat) (ps : List (List (List Byte))) : List Byte :=
  if isMx fmt then layGroups (ps.length + 1) (ps.map fun p => (((p.getD 0 []).getD 0 0), p.getD 1 []))
  else ps.flatMap fun p => p.getD 0 []

/-- Working values of TRANSCODE (R260). -/
def transcodeWork (w : List Word) (bs : List Byte) : Work :=
  if isInt (tcIn w) && isInt (tcOut w) then .int (intStream (tcIn w) (tcElems w) bs) else .fp (decodeStream (tcIn w) (tcElems w) bs)

/-- The largest magnitude of the working values, as an FP32 code (R260). -/
def amaxOf : Work → BitVec 32
  | .fp vs => if vs.all Val.isNan then code32 .nan else code32 (maxMag vs)
  | .int is => code32 (Val.ofInt (is.foldl (fun m i => max m (i.natAbs : Int)) 0))

/-- Working values of REDUCE over the bytes of its sources (R263). -/
def reduceWork (w : List Word) (sources : List (List Byte)) : Work :=
  let e := rdElems w
  if isInt (rdIn w) then
    let l := sources.map (intStream (rdIn w) e)
    .int (if rdOp w = 0 then sumInts e l else foldVals (if rdOp w = 1 then min else max) [] l)
  else
    let l := sources.map (decodeStream (rdIn w) e)
    .fp (if rdOp w = 0 then sumVals e l else foldVals (if rdOp w = 1 then Val.pressMin else Val.pressMax) [] l)

/-! ### TOPK (R257) -/

/-- Insert a position and value before the first that it precedes. -/
def insertTop (before : Val → Val → Bool) (p : Nat × Val) : List (Nat × Val) → List (Nat × Val)
  | [] => [p]
  | q :: l => if before p.2 q.2 then p :: q :: l else q :: insertTop before p l

/-- Positions of the K first elements of a row in press order, descending or ascending, lower positions first among equals. -/
def topPositions (smallest : Bool) (k : Nat) (vs : List Val) : List Nat :=
  let before (a b : Val) : Bool := if smallest then a.pressLt b else b.pressLt a
  let sorted := ((List.range vs.length).zip vs).foldl (fun l p => insertTop before p l) []
  (sorted.take k).map (·.1)

/-- VALUES and POSITIONS of one row. -/
def topRow (w : List Word) (bs : List Byte) : List Byte × List Byte :=
  let eb := tkBytes w
  let codes := listEntries eb (tkCols w) bs
  let ps := topPositions (bit (wd w 0) 16) (tkK w) (codes.map (elemVal (tkIn w)))
  (ps.flatMap (fun p => leBytes eb (codes.getD p 0)), ps.flatMap (leBytes 4))

/-! ### ATTEND (R247) -/

/-- log2(e) in FP32. -/
def log2e : Val := f32 0x3FB8AA3B

/-- Numeric maximum, NaN when either is NaN. -/
def numMax (a b : Val) : Val := if a.isNan || b.isNan then .nan else if a.lt b then b else a

/-- exp2((a − b) × LOG2E). -/
def expDiff (a b : Val) : Val := exp2 (fmul (fadd a b.neg) log2e)

/-- Running state of one query head. -/
structure AttState where
  m : Val
  l : Val
  acc : List Val
deriving DecidableEq, Repr

def AttState.init (d : Nat) : AttState := { m := .inf true, l := Val.zero, acc := List.replicate d Val.zero }

/-- Column d of decoded value rows, each value as R215 decodes it, without a scale. -/
def valueColumn (rows : List (List Scaled)) (d : Nat) : List Scaled :=
  rows.map fun r => let x := r.getD d { raw := Val.zero, scale := Val.one }; { raw := x.val, scale := Val.one }

/-- Weights encoded as MXFP8 E4M3, padded with +0 to whole blocks. -/
def weightBlocks (p : List Val) : List Scaled :=
  let n := if p.length ≤ 32 then 32 else 64
  let padded := p ++ List.replicate (n - p.length) Val.zero
  scaledStream 5 n (encodeStream 5 rne 0 padded)

/-- One block for one query head: key rows and value rows of its tokens. -/
def attendBlock (scale : Val) (q : List Scaled) (ks vs : List (List Scaled)) (a : AttState) : AttState :=
  let s := ks.map fun k => fmul (dot false q k Val.zero) scale
  let m := s.foldl numMax a.m
  let c := if a.m = .inf true then Val.zero else expDiff a.m m
  let p := s.map fun x => expDiff x m
  let total := match p with | [] => Val.zero | x :: l => l.foldl fadd x
  let pe := weightBlocks p
  { m := m
    l := fadd (fmul a.l c) total
    acc := (List.range a.acc.length).map fun d =>
      fadd (fmul (a.acc.getD d Val.zero) c) (dot false pe (valueColumn vs d) Val.zero) }

/-- Merge of two partial states. -/
def attendMerge (a b : AttState) : AttState :=
  let m := numMax a.m b.m
  let ca := expDiff a.m m
  let cb := expDiff b.m m
  { m := m, l := fadd (fmul a.l ca) (fmul b.l cb),
    acc := List.zipWith (fun x y => fadd (fmul x ca) (fmul y cb)) a.acc b.acc }

/-- Rows of a row-wise operand. -/
def rowsIn (fmt d n : Nat) (bs : List Byte) : List (List Scaled) :=
  (List.range n).map fun r => scaledStream fmt d ((bs.drop (r * rowBytes fmt d)).take (rowBytes fmt d))

/-- Position in a list, its length where absent. -/
def indexIn (l : List Nat) (b : Nat) : Nat := l.idxOf b

/-- The final state of query head g of KV head h: its blocks run by run, partial states merged in the order in which their
last blocks were completed. `order` lists the blocks of the docket as they were completed. -/
def attendHead (w : List Word) (n : Nat) (order : List Nat) (h : Nat) (q : List Scaled) (ks vs : List (List Scaled)) : AttState :=
  let t := atTokens w
  let mine := ((List.range (attendBlocks w n).length).zip (attendBlocks w n)).filter fun b => b.2.2.1 / t == h
  let runs := ((List.range n).map fun j => mine.filter fun b => b.2.1 == j).filter fun l => !l.isEmpty
  let part (l : List (Nat × Nat × Nat × Nat)) : AttState :=
    l.foldl (fun a b =>
      attendBlock (atScale w) q ((ks.drop (b.2.2.1 % t)).take b.2.2.2) ((vs.drop (b.2.2.1 % t)).take b.2.2.2) a)
      (AttState.init (atDim w))
  let last (l : List (Nat × Nat × Nat × Nat)) : Nat := match l.getLast? with | some b => indexIn order b.1 | none => 0
  let sorted := runs.foldl (fun acc l => insertRun last l acc) []
  match sorted.map part with
  | [] => AttState.init (atDim w)
  | a :: rest => rest.foldl attendMerge a
where
  /-- Insert by completion. -/
  insertRun (key : List (Nat × Nat × Nat × Nat) → Nat) (x : List (Nat × Nat × Nat × Nat)) :
      List (List (Nat × Nat × Nat × Nat)) → List (List (Nat × Nat × Nat × Nat))
    | [] => [x]
    | y :: l => if key x < key y then x :: y :: l else y :: insertRun key x l

/-- Output rows and state pairs of one KV head; `inputs` are the ranges of its piece: queries, then keys and values of each
page. -/
def attendPiece (w : List Word) (n : Nat) (order : List Nat) (h : Nat) (inputs : List (List Byte)) : List AttState :=
  let d := atDim w
  let qs := rowsIn (atQFmt w) d (atGroup w) (inputs.getD 0 [])
  let page (v p : Nat) : List (List Scaled) := rowsIn (atKvFmt w) d (pageTokens w p) (inputs.getD (1 + 2 * p + v) [])
  let ks := (List.range (atPages w)).flatMap (page 0)
  let vs := (List.range (atPages w)).flatMap (page 1)
  qs.map fun q => attendHead w n order h q ks vs

/-- One output row. -/
def attendOut (w : List Word) (a : AttState) : Encoded := encodeVals (atOutFmt w) none (a.acc.map fun x => fmul x (recip a.l)) [] 0

/-- The FP32 pair (m, l). -/
def attendPair (a : AttState) : List Byte := leBytes 4 (code32 a.m).toNat ++ leBytes 4 (code32 a.l).toNat

end Sys2Proof.Machine
end

