-- ==== Sys2Proof/Machine/Program.lean ====
section
/-! DEFINITION. Tick programs (03_tick.md R64 to R72): the start times of entries, the delay D and its carry, gating waits,
skipped entries and overruns. A finished run stays at the head until the next edge, so that its D can be read. -/
namespace Sys2Proof.Machine

/-- The time from which an entry may start: E + OFFSET × 64 ns + D (R67). -/
def entryTime (p : ProgRun) (e : Entry) : Nat := p.edge + e.offset * 64 + p.delay

/-- The program run in hand and its next entry. -/
def nextEntry (s : State) : Option (ProgRun × Entry) :=
  match s.runs with
  | p :: _ => (p.entries[p.next]?).map fun e => (p, e)
  | [] => none

/-- A gating wait of the run in hand has completed (R69): no started docket of its entry is without an outcome. -/
def gateDone (s : State) (p : ProgRun) (d : DRef) : Bool :=
  match getQueue s d.inst d.queue with
  | some q => !q.runs.any fun r => r.planned && r.slot == d.slot && r.fetchTick == (p.tick : Int) && r.outcome.isNone
  | none => true

/-- Carry rule (R68): a finished run gives way to the one behind it, whose D starts at the time by which the last entry
started after its edge. -/
def carry : Nat → List ProgRun → List ProgRun
  | 0, l => l
  | n + 1, l =>
    match l with
    | p :: q :: rest =>
      if p.entries.length ≤ p.next then
        carry n ({ q with delay := match p.lastStart with | some t => t - q.edge | none => 0 } :: rest)
      else p :: q :: rest
    | _ => l

/-- D in units of 64 ns, saturating (R72). -/
def slipOf (delay : Nat) : Nat := min (delay / 64) 0xFFFFFF

/-- A TALLY_WAIT with GATE set (R69). -/
def isGate (e : Entry) : Bool := dOp e.words == opTallyWait && bit (wd e.words 0) 16

/-- The run in hand moves past its next entry, whose turn came at a time. -/
def passEntry (f : ProgRun → ProgRun) (s : State) : State :=
  match s.runs with
  | p :: rest => { s with runs := carry (rest.length + 1) (f { p with next := p.next + 1, asked := false } :: rest) }
  | [] => s

/-- The overrun of a program whose last entry started after its tick had ended (R72). -/
def countOverrun (e t : Nat) (s : State) : State :=
  let s1 := modTime (fun x => { x with overruns := satAdd 16 x.overruns 1, overrunNoted := true }) s
  if s.time.overrunNoted then s1 else latch (event 9 3 0 1 (t - e)) s1

/-- The next entry of the run in hand starts, or counts as started, at a time (R67). -/
def entryBegan (t : Nat) (s : State) : State :=
  match nextEntry s with
  | none => s
  | some (p, e) =>
    let d := t - p.edge - e.offset * 64
    let gates := if isGate e then [{ inst := e.inst, queue := e.queue, slot := p.next : DRef }] else []
    let s1 := match p.endEdge with
      | some x => if p.entries.length = p.next + 1 ∧ x < t then countOverrun x t s else s
      | none => s
    passEntry (fun r => { r with delay := d, lastStart := some t, gates := gates })
      (modTime (fun x => { x with maxSlip := max x.maxSlip (slipOf d) }) s1)

/-- The next entry is skipped when its turn comes (R70): D stays, and a skipped gating wait releases its entry. -/
def entrySkipped (t : Nat) (s : State) : State :=
  passEntry (fun r => { r with lastStart := some t, gates := [] })
    (modTime (fun x => { x with skipped := (x.skipped + 1) % 2 ^ 64 }) s)

/-- The run of the next entry of the run in hand, which asked for its first permit. -/
def askedRun (s : State) (p : ProgRun) (e : Entry) : Option Run :=
  (getQueue s e.inst e.queue).bind fun q =>
    q.runs.find? fun r => r.planned && !r.started && r.slot == p.next && r.fetchTick == (p.tick : Int)

/-- The planned run of the next entry waits for its permit, or ended before its start: it counts as started now, not
before its own time (R67, R468). -/
def plannedBegan (d : DRef) (s : State) : State :=
  match nextEntry s with
  | some (p, e) =>
    if p.asked && p.next == d.slot && e.inst == d.inst && e.queue == d.queue then
      entryBegan (max s.clk.ptp (entryTime p e)) s
    else s
  | none => s

/-- The entry of a planned press docket is skipped after all, for want of receipt space at its grant (R70, R99). -/
def plannedSkipped (d : DRef) (s : State) : State :=
  match nextEntry s with
  | some (p, e) =>
    if p.asked && p.next == d.slot && e.inst == d.inst && e.queue == d.queue then
      entrySkipped (max s.clk.ptp (entryTime p e)) s
    else s
  | none => s

/-- A planned entry waits in its queue's order (R43, R44): behind a FENCE docket that is not complete, and with FENCE set
until every earlier docket of the queue is. -/
def entryFenced (q : Queue) (e : Entry) : Bool :=
  (dFence e.words && !q.runs.isEmpty) || q.runs.any fun r => dOp (view q.desc.v1 r.words) == opFence

/-- A posted docket in hand uses a copy engine or a link that an entry of this opcode needs (R71). -/
def postedUses (s : State) (op : Nat) : Bool :=
  let moves := fun o : Nat => [opCopy, opTileCopy, opWrite, opSend, opRead, opAtomic].contains o
  moves op && (allQueues s).any fun x => x.2.2.runs.any fun r =>
    !r.planned && r.started && r.outcome.isNone && moves (dOp (view x.2.2.desc.v1 r.words))

/-- Posted work in the way of an entry yields at its next packet boundary, which delays the entry by at most 1 µs (R71): by
how much, the manual leaves open (log entry 107). -/
def yieldWait (op : Nat) (s : State) : State :=
  if postedUses s op then pass (Config.yieldNs s.freeCount % 1001) { s with freeCount := s.freeCount + 1 } else s

/-- The program in force. -/
def programNow (s : State) : List Entry := s.plates.programs.getD (fld s.quoin.tick.schedSel 0 2) []

/-- Times under R67 at which the press entries still to come would start: those of the programs in hand with the D of the
moment, and those of the next tick's program. -/
def pressDue (s : State) : List Nat :=
  let press (e : Entry) : Bool := isPress (dOp e.words)
  (s.runs.flatMap fun p => ((p.entries.drop p.next).filter press).map (entryTime p)) ++
    (if ticking s && bit s.time.tickCtrl 0 then ((programNow s).filter press).map fun e => nextEdge s + e.offset * 64 else [])

end Sys2Proof.Machine
end

