-- ==== Sys2Proof/Machine/Press.lean ====
section
/-! DEFINITION. The press: the start of a press docket, shared galley, draw permits, blocks and the end of the operation
(10_press_operations.md R233 to R264; 20_power_watch.md R465 to R469). -/
namespace Sys2Proof.Machine

/-! ### Press dockets in hand -/

/-- Started and waiting press operations of the device; one that waits is seen with the tables as they are (R29). -/
def pressRuns (s : State) : List (DRef × Queue × Run × PressRun) :=
  (allQueues s).flatMap fun q => q.2.2.runs.filterMap fun r => r.press.map fun p =>
    ({ inst := q.1, queue := q.2.1, slot := r.slot }, q.2.2, asBound s q.1 q.2.2 r, p)

/-- Change the press operation of a run. -/
def modPressRun (d : DRef) (ord : Nat) (f : PressRun → PressRun) (s : State) : State :=
  modRun d.inst d.queue ord (fun r => { r with press := r.press.map f }) s

/-- A press operation that has reached step 2 of R241. -/
def newPress (order : Nat) : PressRun where
  stage := .galley
  order := order
  lists := []
  n := 0
  blocks := 0
  chains := []
  withheld := []
  replays := []
  flying := []
  doneBlocks := []
  slices := 1
  slice := 0
  sliceEnd := 0
  narrowed := 0
  galley := 0
  inputs := []
  mark := 0
  twin := false
  spoiled := false
  rerun := false

/-- A press docket ends before its arithmetic: shared galley and permit request go back; one that has not started ends
without a reserved receipt slot, and its program goes on (R67, R100, R241). A deadline that has passed comes first (R140). -/
def endPress (d : DRef) (q : Queue) (r : Run) (out : Settled) (s : State) : State :=
  let s1 := withdrawPress d.inst d.queue r s
  if r.started then
    settle d.inst d.queue r.ord { out with twin := out.twin || servedTwin s d.inst d.queue r }
      (modRun d.inst d.queue r.ord (fun x => { x with press := none }) s1)
  else
    let s2 := modQueue d.inst d.queue (fun y =>
      { dropRun r.ord y with unfinished := y.unfinished.filter (· != r.slot) }) s1
    let late := r.planned && isLate s r q.desc.v1
    let s3 := endUnstarted d.inst d.queue
      (receiptOf s r.slot r.words (unstartedOutcome s d.inst d.queue q r (plainOutcome out)) late) s2
    plannedBegan d (placeAll (settleDrain d.inst d.queue s3))

/-- A press docket that has not started is MALFORMED. -/
def malformedPress (d : DRef) (r : Run) (k : Nat) (s : State) : State :=
  plannedBegan d (placeAll (malformed d.inst d.queue r k s))

/-! ### Steps 3 and 4 of R241 -/

/-- Ask for a permit: group 0 later slices, 1 planned first slices, 2 posted first slices (R467). -/
def askPermit (d : DRef) (group : Nat) (s : State) : State :=
  modPower (fun p => { p with waits := p.waits ++ [{ d := d, group := group, since := s.clk.mono, noted := false }] }) s

/-- Read lists in order: their numbers, or the memory of the first failing read. -/
def readLists (i : Nat) (segs : List Seg) : List (Nat × Nat × Nat) → State → Except Nat (List (List Nat)) × Bool × State
  | [], s => (.ok [], false, s)
  | l :: ls, s =>
    let none_ : MemRead := { bytes := [], fail := none, twin := false, events := [] }
    let (r, s1) := if l.2.2 = 0 then (none_, s)
      else match findSeg segs l.1 (l.2.1 * l.2.2) true false with
        | some g => readSeg i g l.1 (l.2.1 * l.2.2) s
        | none => (none_, s)
    let s2 := latchAll r.events s1
    match r.fail with
    | some f => (.error f.2, r.twin, s2)
    | none =>
      match readLists i segs ls s2 with
      | (.ok t, b, s3) => (.ok (listEntries l.2.1 l.2.2 r.bytes :: t), r.twin || b, s3)
      | (.error m, b, s3) => (.error m, r.twin || b, s3)

/-- The lists are read and checked: step 4. -/
def listsReady (d : DRef) (r : Run) (lists : List (List Nat)) (twin : Bool) (s : State) : State :=
  askPermit d (if r.planned then 1 else 2)
    (modPressRun d r.ord (fun p => { p with stage := .permit, lists := lists, twin := twin }) s)

/-- The number of index entries of a pooled EMBED_GATHER, from its offset list: at most what R253 allows. -/
def bagIndices (w : List Word) (offsets : List Nat) : Nat := min (offsets.getD (grRows w) 0) 1048576

/-- The index list of a pooled EMBED_GATHER as an operand. -/
def bagOperand (w : List Word) (offsets : List Nat) : Operand :=
  { word := 5, addr := (wd w 5).toNat, len := 4 * bagIndices w offsets, write := false, maxKind := 3 }

/-- The operands of a docket resolve, with the index list of a pooled EMBED_GATHER once its length is known. -/
def operandsOk (segs : List Seg) (w : List Word) (lists : List (List Nat)) : Bool :=
  (pressOperands w).all (operandOk segs) &&
    !(dOp w == opEmbedGather && egPool w != 0 && !lists.isEmpty && !operandOk segs (bagOperand w (lists.getD 0 [])))

/-- The position of the first list entry that fails its check, in the order of the operation's section (R234). -/
def badEntry (segs : List Seg) (w : List Word) (lists : List (List Nat)) : Option Nat :=
  if dOp w = opEmbedGather ∧ egPool w ≠ 0 then
    match offsetBad w (lists.getD 0 []) with
    | some k => some k
    | none => entryBad segs w (lists.getD 1 [])
  else entryBad segs w (lists.getD 0 [])

/-- Every list is read (R234): its entries are checked, and then the docket asks for its permit. -/
def listsRead (d : DRef) (q : Queue) (r : Run) (lists : List (List Nat)) (twin : Bool) (s : State) : State :=
  match badEntry r.segs (runWords q r) lists with
  | some k => endPress d q r { settledAs stSegmentFault 0 (k % 65536) with twin := twin } s
  | none => listsReady d r lists twin s

/-- Step 3 of R241: operands in word order, then the lists, all of them read before an entry is checked (R233, R234). How many
indices a pooled EMBED_GATHER has is in its offset list, so the range of its index list is checked once that is read. -/
def checkOperands (d : DRef) (q : Queue) (r : Run) (s : State) : State :=
  let w := runWords q r
  let fail (status detail : Nat) (twin : Bool) (t : State) : State :=
    endPress d q r { settledAs status 0 detail with twin := twin } t
  if !operandsOk r.segs w [] then fail stSegmentFault 0 false s
  else
    match readLists d.inst r.segs (firstLists w) s with
    | (.error m, b, s1) => fail stDataError m b s1
    | (.ok lists, b, s1) =>
      if dOp w = opEmbedGather ∧ egPool w ≠ 0 then
        if !operandsOk r.segs w lists then fail stSegmentFault 0 b s1
        else
          match readLists d.inst r.segs [((wd w 5).toNat, 4, bagIndices w (lists.getD 0 []))] s1 with
          | (.error m, c, s2) => fail stDataError m (b || c) s2
          | (.ok more, c, s2) => listsRead d q r (lists ++ more) (b || c) s2
      else listsRead d q r lists b s1

/-! ### Shared galley (step 2 of R241) -/

/-- The docket that receives room next: planned before posted, then in the order in which they reached the step. -/
def galleyHead (s : State) : Option (DRef × Queue × Run × PressRun) :=
  let l := (pressRuns s).filter fun x => x.2.2.2.stage == .galley
  match minBy (fun (x : DRef × Queue × Run × PressRun) => x.2.2.2.order) (l.filter fun x => x.2.2.1.planned) with
  | some x => some x
  | none => minBy (fun (x : DRef × Queue × Run × PressRun) => x.2.2.2.order) l

/-- Allocate the shared galley of the head docket, when it fits, and go on with it. -/
def allocHead (s : State) : State :=
  match galleyHead s with
  | none => s
  | some (d, q, r, _) =>
    let need := galleyNeed (runWords q r)
    if s.galley.free < need then s
    else
      let s1 := modPressRun d r.ord (fun p => { p with galley := need })
        (modGalley (fun g => { g with free := g.free - need }) s)
      checkOperands d q { r with press := r.press.map fun p => { p with galley := need } } s1

/-- GALLEY_ALLOC_GRANT: the docket at the head of the wait receives its room. -/
def execGalleyAllocGrant (s : State) : Host.Outcome State Fault Refusal :=
  .next (if running s then allocHead s else s)

/-- An earlier posted press docket of the queue has not started, so that this one may not start before it (R94, R374). One whose
deadline has passed ends without a start (R73). -/
def behindPress (s : State) (q : Queue) (r : Run) : Bool :=
  !r.planned && q.runs.any fun x => !x.planned && !x.started && decide (ringKey q x.slot < ringKey q r.slot) && !runMissed s q x

/-- Start of a press docket: MALFORMED findings, then its place in the wait for galley room, which it receives at once when
it stands at the head and fits. -/
def startPress (d : DRef) (op : Nat) (s : State) : State :=
  match openRun s d with
  | none => s
  | some (q, r0) =>
    let r := asBound s d.inst q r0
    let w := runWords q r
    let waits := q.runs.any fun x => !x.planned && !x.started && x.press.isNone && decide (ringKey q x.slot < ringKey q r.slot) &&
      !runMissed s q x
    if !running s || r.press.isSome || dOp w != op || (!r.planned && waits) then s
    else
      match finding s d.inst d.queue q r with
      | some k => malformedPress d r k s
      | none =>
        if hatchBlocks s d.inst q r then s
        else if let some h := atsRefused s d.inst q r then endPress d q r (settledAs stSegmentFault 0 0) (countAts h s)
        else
          let s := obtainAts d.inst q r s
          let s1 := modRun d.inst d.queue r.ord (fun x => { x with press := some (newPress s.ord) }) { s with ord := s.ord + 1 }
          match galleyHead s1 with
          | some (_, _, x, _) => if x.ord = r.ord then allocHead s1 else s1
          | none => s1

def execReduce (d : DRef) (s : State) : Host.Outcome State Fault Refusal := .next (startPress d opReduce s)
def execTranscode (d : DRef) (s : State) : Host.Outcome State Fault Refusal := .next (startPress d opTranscode s)
def execGatherReduce (d : DRef) (s : State) : Host.Outcome State Fault Refusal := .next (startPress d opGatherReduce s)
def execAttend (d : DRef) (s : State) : Host.Outcome State Fault Refusal := .next (startPress d opAttend s)
def execTopk (d : DRef) (s : State) : Host.Outcome State Fault Refusal := .next (startPress d opTopk s)
def execEmbedGather (d : DRef) (s : State) : Host.Outcome State Fault Refusal := .next (startPress d opEmbedGather s)

/-! ### Draw permits (R465 to R469) -/

/-- Effective ceiling E in mW under a value of PERMIT_CTRL. -/
def ceilingUnder (ctrl : Word) (s : State) : Nat :=
  let c := fld ctrl 0 10
  (if s.power.hot then min c (fld ctrl 36 10) else c) * 1000

/-- E in mW under the PERMIT_CTRL in force. -/
def ceilingMw (s : State) : Nat := ceilingUnder s.quoin.now.permitCtrl s

/-- PERMIT_CTRL that governs a docket: the one in force, or for a docket placed before an edge that replaced the press plate,
the one of the plate before (R15). -/
def permitOf (s : State) (r : Run) : Word := r.plate.getD s.quoin.now.permitCtrl

/-- A in mW, for a docket. -/
def availableMw (s : State) (r : Run) : Nat := ceilingUnder (permitOf s r) s - s.power.base - heldMw s

/-- The run whose request waits. -/
def waitRun (s : State) (x : PermitWait) : Option (Queue × Run × PressRun) :=
  ((pressRuns s).find? fun y => y.1 == x.d && y.2.2.2.stage == .permit && decide (x.group = 0) == decide (0 < y.2.2.2.slice)).map
    fun y => (y.2.1, y.2.2.1, y.2.2.2)

/-- A request that does not stand in the order of decisions: its docket is kept from starting by its hatch, by its deadline
(R73), by an earlier docket of its queue (R94), or on a queue that RECEIPT_FULL holds back, which affects no other (R99). -/
def standsAside (s : State) (x : PermitWait) : Bool :=
  match waitRun s x with
  | some (q, r, _) =>
    hatchBlocks s x.d.inst q r ||
      (!r.started && (runMissed s q r || behindPress s q r || (!r.planned && q.receiptFull && !receiptRoom q)))
  | none => false

/-- The request decided next: later slices, planned first slices, posted first slices, each in order of request (R467). -/
def headRequest (s : State) : Option PermitWait :=
  minBy (fun (x : PermitWait) => x.group) (s.power.waits.filter fun x => !standsAside s x)

/-- What a request comes to on n units. -/
structure Ask where
  blocks : Nat
  limit : Nat
  slices : Nat
  draw : Nat
  power : Nat
deriving DecidableEq, Repr

/-- The slice a docket asks for, on n units (R243, R466). -/
def askOf (w : List Word) (r : Run) (p : PressRun) (n : Nat) : Ask :=
  let t := nominal r.segs w p.lists n
  let blocks := if p.slice = 0 then blockTotal w n else p.blocks
  let limit := max (sliceLimit t blocks p.slice) (min blocks (p.sliceEnd + 1))
  let total := drawOf r.segs w p.lists
  { blocks := blocks, limit := limit, slices := sliceCount t, draw := total * (limit - p.sliceEnd) / max blocks 1,
    power := powerOf total t }

/-- k of a narrowed grant (R467). -/
def narrowTo (w : List Word) (r : Run) (p : PressRun) (avail : Nat) : Nat → Nat
  | 0 => 1
  | k + 1 => if powerOf (drawOf r.segs w p.lists) (nominal r.segs w p.lists (k + 1)) ≤ avail then k + 1 else narrowTo w r p avail k

/-- The bytes at a local range, as they stand. -/
def rawRange (segs : List Seg) (a : Nat × Nat) (s : State) : List Byte :=
  match findSeg segs a.1 a.2 true false with
  | none => List.replicate a.2 0
  | some g =>
    let off := g.target + (a.1 - g.base)
    if g.kind < 3 then rdBytes (getTier s (tierOfKind g.kind)).mem off a.2 else rdBytes (hostMem s g.hatch) off a.2

/-- Take the request of a docket off the list and hold its permit. -/
def holdPermit (x : PermitWait) (power draw : Nat) (narrowed : Bool) (s : State) : State :=
  modPower (fun p => { p with
    permits := p.permits ++ [{ d := x.d, milliwatts := power }]
    waits := delFirst p.waits (· == x)
    granted := p.granted + draw
    narrowed := if narrowed then satAdd 16 p.narrowed 1 else p.narrowed }) (meter s)

/-- A granted slice, with the units and blocks that the first one fixes (log entry 24). The blocks of a docket whose start a
gating wait still holds are not dispatched yet. -/
def grantSlice (x : PermitWait) (r : Run) (p : PressRun) (n : Nat) (a : Ask) (narrow : Nat) (gated : Bool) (s : State) : State :=
  let first := decide (p.slice = 0)
  modPressRun x.d r.ord (fun z => { z with
    stage := if gated then .gated else .running
    n := if first then n else z.n
    blocks := a.blocks
    slices := if first then a.slices else z.slices
    sliceEnd := a.limit
    narrowed := narrow }) (holdPermit x a.power a.draw (decide (narrow ≠ 0)) s)

/-- What stands against the start of a press docket: a MALFORMED finding on a word, or an operand or list entry. -/
inductive StartBar where
  | finding (word : Nat)
  | fault (detail : Nat)
deriving DecidableEq, Repr

/-- What stands against the start of a press docket now (R29, R241): the tables may have changed since its operands were
checked. -/
def startBar (s : State) (d : DRef) (q : Queue) (r : Run) (p : PressRun) : Option StartBar :=
  match finding s d.inst d.queue q r with
  | some k => some (.finding k)
  | none =>
    if !operandsOk r.segs (runWords q r) p.lists then some (.fault 0)
    else (badEntry r.segs (runWords q r) p.lists).map fun k => .fault (k % 65536)

/-- The end of a docket against whose start something stands. -/
def endBarred (d : DRef) (q : Queue) (r : Run) (bar : StartBar) (s : State) : State :=
  match bar with
  | .finding k => malformedPress d r k s
  | .fault k => endPress d q r (settledAs stSegmentFault 0 k) s

/-- A press operation runs. -/
def pressBusy (s : State) : Bool := (pressRuns s).any fun x => x.2.2.1.started && x.2.2.2.stage != .done

/-- Writes to memory are noted while a press operation runs (R235): the journal begins with the first. -/
def openWatch (s : State) : State := if pressBusy s && s.watch.isSome then s else { s with watch := some [] }
def closeWatch (s : State) : State := if pressBusy s then s else { s with watch := none }

/-- A press docket starts, with its first permit in hand: it binds what it names (R29), takes its place in the order of
starts, and its inputs are those of now (R235). A docket that runs again keeps its bindings (R184). -/
def beginPress (d : DRef) (q : Queue) (r : Run) (s : State) : State :=
  let s1 := openWatch s
  let w := runWords q r
  modRun d.inst d.queue r.ord (fun y =>
    let b := if y.started then y else bindRun s d.inst d.queue q y
    { b with press := b.press.map fun z => { z with
        stage := .running
        order := s.ord
        inputs := (pressIn w z.lists).flatMap fun c => rawRange b.segs c s
        mark := (s1.watch.getD []).length
        spoiled := overlaps w z.lists } }) { s1 with ord := s1.ord + 1 }

/-- Wait for the start time of the planned entry of a docket (R67). -/
def waitEntry (d : DRef) (s : State) : State :=
  match nextEntry s with
  | some (p, e) => if p.asked && p.next == d.slot && e.inst == d.inst && e.queue == d.queue then waitPtp (entryTime p e) s else s
  | none => s

/-- A gating wait still holds the start of the planned docket whose turn it is (R69). -/
def entryHeld (d : DRef) (s : State) : Bool :=
  match nextEntry s with
  | some (p, e) => p.asked && p.next == d.slot && e.inst == d.inst && e.queue == d.queue && !p.gates.all (gateDone s p)
  | none => false

/-- A planned docket without a receipt slot is skipped, with what it holds (R70, R99). -/
def skipAsked (d : DRef) (r : Run) (s : State) : State :=
  holdReceiptFull d.inst d.queue
    (plannedSkipped d (modQueue d.inst d.queue (dropRun r.ord) (withdrawPress d.inst d.queue r s)))

/-- A request is granted: a later slice runs on, and a first slice starts its docket, unless a gating wait holds it (R67,
R241). -/
def grantAsked (x : PermitWait) (q : Queue) (r : Run) (p : PressRun) (n narrow : Nat) (s : State) : State :=
  let held := r.planned && !r.started && entryHeld x.d s
  let s1 := if r.planned && !r.started && !held then waitEntry x.d s else s
  let s2 := grantSlice x r p n (askOf (runWords q r) r p n) narrow held s1
  if held || decide (p.slice ≠ 0) then s2
  else if r.started then beginPress x.d q r s2
  else if r.planned then plannedBegan x.d (beginPress x.d q r s2)
  else placeAll (beginPress x.d q r s2)

/-- The decision on a request: the first slice of a posted docket needs a receipt slot (R99), one of a planned docket is skipped
without (R70), and what stands against the docket's start ends it. -/
def decideSlice (x : PermitWait) (q : Queue) (r : Run) (p : PressRun) (s : State) : State :=
  let n := activeUnits s
  match if r.started then none else startBar s x.d q r p with
  | some bar => endBarred x.d q r bar s
  | none =>
    if !r.started && !receiptRoom q then
      if r.planned then skipAsked x.d r s else holdReceiptFull x.d.inst x.d.queue s
    else if (askOf (runWords q r) r p n).power ≤ availableMw s r then grantAsked x q r p n 0 s
    else if !s.power.permits.isEmpty then
      let fresh := (s.power.waits.filter fun y => !y.noted).length
      modPower (fun y => { y with
        waited := satAdd 16 y.waited fresh, waits := y.waits.map fun z => { z with noted := true } }) s
    else let k := narrowTo (runWords q r) r p (availableMw s r) n; grantAsked x q r p k k s

/-- PERMIT_GRANT: the governor decides the request at the head. -/
def permitGrant (s : State) : State :=
  match headRequest s with
  | none => s
  | some x =>
    match waitRun s x with
    | none => modPower (fun p => { p with waits := delFirst p.waits (· == x) }) s
    | some (q, r, p) => decideSlice x q r p s

def execPermitGrant (s : State) : Host.Outcome State Fault Refusal := .next (if running s then permitGrant s else s)

/-- PERMIT_TIMEOUT: a first slice has waited for TIMEOUT × 10 µs (R468). -/
def permitTimeout (d : DRef) (s : State) : State :=
  match s.power.waits.find? fun x => x.d == d && decide (0 < x.group) with
  | none => s
  | some x =>
    match waitRun s x with
    | none => s
    | some (q, r, _) =>
      if runMissed s q r then s
      else
        let s1 := waitMono (x.since + fld (permitOf s r) 20 16 * 10000) s
        modPower (fun p => { p with timeouts := satAdd 12 p.timeouts 1 })
          (endPress d q r (settledAs stPermitTimeout 0 0) s1)

def execPermitTimeout (d : DRef) (s : State) : Host.Outcome State Fault Refusal :=
  .next (if running s then permitTimeout d s else s)

/-- PERMIT_WINDOW_END: the window ends and its average power sets the base (R466). -/
def permitWindowEnd (milliwatts : Nat) (s : State) : State :=
  let s1 := meter (waitMono (s.power.windowAt + fld s.quoin.now.permitCtrl 10 10 * 1000) s)
  modPower (fun p =>
    let avg := p.windowHeld / max 1 (s1.clk.mono - p.windowAt)
    { p with base := milliwatts - avg, windowHeld := 0, windowAt := s1.clk.mono, windowMark := s1.clk.mono }) s1

def execPermitWindowEnd (milliwatts : Nat) (s : State) : Host.Outcome State Fault Refusal :=
  .next (if running s then permitWindowEnd milliwatts s else s)

/-- A slice in hand still has blocks to run. -/
def sliceBusy (p : PressRun) : Bool :=
  decide (p.stage = .running) &&
    (!p.flying.isEmpty || !p.withheld.isEmpty || !p.replays.isEmpty ||
      (List.range p.sliceEnd).any fun b => !p.doneBlocks.contains b)

/-! ### Dispatch (R240, R244) -/

/-- A block that is nowhere yet. -/
def blockFree (p : PressRun) (b : Nat) : Bool :=
  !p.doneBlocks.contains b && !(p.flying ++ p.withheld ++ p.replays).any fun x => x.block == b

/-- A unit may take a block of a chain: the chain's unit, or any when it has none in service, and no earlier block open. -/
def chainFree (s : State) (w : List Word) (p : PressRun) (u b : Nat) : Bool :=
  match chainOf w p.n b with
  | none => true
  | some c =>
    (match tget p.chains c with
     | some v => v == u || s.faults.units[v]? != some .active
     | none => true) &&
      !(p.flying ++ p.withheld ++ p.replays).any fun x => decide (x.block < b) && chainOf w p.n x.block == some c

/-- The next block of a docket that a unit may take. -/
def nextBlock (s : State) (w : List Word) (p : PressRun) (u : Nat) : Option Nat :=
  if p.stage ≠ .running ∨ (p.narrowed ≠ 0 ∧ p.narrowed ≤ p.flying.length) then none
  else (List.range p.sliceEnd).find? fun b => blockFree p b && chainFree s w p u b

/-- Nominal duration of a block in ns. -/
def blockTime (r : Run) (w : List Word) (p : PressRun) : Nat :=
  nominal r.segs w p.lists p.n / max 1 (ceilDiv p.blocks p.n) / 1000000

/-- A started planned docket has a block that has not been dispatched and is not tied to another unit (R240). -/
def plannedOpen (s : State) (u : Nat) (x : DRef × Queue × Run × PressRun) : Bool :=
  let (_, q, r, p) := x
  r.planned && r.started && decide (p.stage ≠ .done) && (List.range p.blocks).any fun b =>
    blockFree p b &&
      match (chainOf (runWords q r) p.n b).bind (tget p.chains) with
      | some v => v == u || s.faults.units[v]? != some .active
      | none => true

/-- A planned block is due on a unit before a time (R240): from the start its entry would have under R67, or from the start
of its docket. -/
def plannedDue (s : State) (u stop : Nat) : Bool :=
  (pressDue s).any (fun t => decide (s.clk.ptp < t) && decide (t < stop)) || (pressRuns s).any (plannedOpen s u)

/-- Press dockets in the order in which their blocks go: planned before posted, then by start. -/
def dispatchOrder (s : State) : List (DRef × Queue × Run × PressRun) :=
  let l := (pressRuns s).filter fun x => x.2.2.2.stage == .running
  let sort (m : List (DRef × Queue × Run × PressRun)) := m.foldl (fun acc x => insert x acc) []
  sort (l.filter fun x => x.2.2.1.planned) ++ sort (l.filter fun x => !x.2.2.1.planned)
where
  /-- Insert by order of start. -/
  insert (x : DRef × Queue × Run × PressRun) : List (DRef × Queue × Run × PressRun) → List (DRef × Queue × Run × PressRun)
    | [] => [x]
    | y :: l => if x.2.2.2.order < y.2.2.2.order then x :: y :: l else y :: insert x l

/-- The block a unit takes next, with its docket and whether it is a replay. -/
def unitChoice (s : State) (u : Nat) : Option (DRef × Queue × Run × Nat × Bool) :=
  let all := dispatchOrder s
  let again := all.findSome? fun x => (x.2.2.2.replays.find? fun b => b.unit == u || b.unit == 255).map fun b =>
    (x.1, x.2.1, x.2.2.1, b.block, true)
  match again with
  | some c => some c
  | none => all.findSome? fun x =>
      let w := runWords x.2.1 x.2.2.1
      match nextBlock s w x.2.2.2 u with
      | some b =>
        if x.2.2.1.planned || !plannedDue s u (s.clk.ptp + blockTime x.2.2.1 w x.2.2.2) then some (x.1, x.2.1, x.2.2.1, b, false)
        else none
      | none => none

/-- DMA masters that bring a docket's operands to the galley and its results out (R179): the fill path for a tier, a hatch's
copy engines for host memory. -/
def fillMasters (r : Run) (w : List Word) : List Nat :=
  (pressOperands w).filterMap fun o => (findSeg r.segs o.addr o.len (!o.write) o.write).map fun g =>
    if g.kind < 3 then mFill else if o.write then mWrite g.hatch else mRead g.hatch

/-- PRESS_BLOCK_DISPATCH: an active, ungated, free unit takes a block. -/
def blockDispatch (u : Nat) (s : State) : State :=
  let busy := (pressRuns s).any fun x => x.2.2.2.flying.any fun b => b.unit == u
  if busy || s.power.gated || s.faults.units[u]? != some .active then s
  else
    match unitChoice s u with
    | none => s
    | some (d, q, r, b, again) =>
      let w := runWords q r
      modPower (fun p => { p with lastBlock := s.clk.mono, st := if p.st = .idle then .active else p.st })
        (each (u :: fillMasters r w) (fun m t => galleyAccess m none t) (modPressRun d r.ord (fun p => { p with
          flying := p.flying ++ [{ block := b, unit := u, replay := again }]
          replays := if again then delFirst p.replays (fun x => x.block == b) else p.replays
          chains := match chainOf w p.n b with | some c => tset p.chains c u | none => p.chains }) s))

def execPressBlockDispatch (unit : Nat) (s : State) : Host.Outcome State Fault Refusal :=
  .next (if running s then blockDispatch unit s else s)

/-! ### The end of an operation (R235, R236, R238) -/

/-- Encode output rows one after another, each with its part of the destination. -/
def encodeRows (fmt : Nat) (l : Option (List Word)) (rb e : Nat) : Nat → List Byte → List Work → List Byte × (Nat × Nat)
  | _, _, [] => ([], (0, 0))
  | base, dst, x :: xs =>
    let y := x.encode fmt l (dst.take rb) base
    let (bs, c) := encodeRows fmt l rb e (base + e) (dst.drop rb) xs
    (y.bytes ++ bs, addCounts y.counts c)

/-- Output elements, for the random values drawn. -/
def outElems (w : List Word) : Nat :=
  let op := dOp w
  if op = opGatherReduce ∨ op = opEmbedGather then grRows w * grElems w
  else if op = opTranscode then tcElems w
  else if op = opReduce then rdElems w
  else 0

/-- What an operation writes, in order, with OVERFLOWED and NANS; `inputs` are the input bytes of each piece, `dst` the bytes
at OUT where a ligature accumulates, `order` the blocks as they were completed. -/
def pressWrites (w : List Word) (lig : Option (List Word)) (p : PressRun) (inputs : List (List (List Byte))) (dst : List Byte)
    (base : Nat) : List (Nat × List Byte) × (Nat × Nat) :=
  let op := dOp w
  let indexed := (List.range inputs.length).zip inputs
  if op = opAttend then
    let st := indexed.flatMap fun x => attendPiece w p.n p.doneBlocks x.1 x.2
    let outs := st.map (attendOut w)
    ((dDst w, outs.flatMap (·.bytes)) ::
        (if atLse w then [(dDst w + atOutBytes w, st.flatMap attendPair)] else []),
      outs.foldl (fun c o => addCounts c o.counts) (0, 0))
  else if op = opGatherReduce ∨ op = opEmbedGather then
    let row (x : Nat × List (List Byte)) : Work :=
      if op = opGatherReduce then gatherRow w (gathered w p.lists x.1) x.2 else bagRow w x.2
    let (bs, c) := encodeRows (grOut w) lig (rowBytes (grOut w) (grElems w)) (grElems w) base dst (indexed.map row)
    ([(dDst w, bs)], c)
  else if op = opTopk then
    let rows := inputs.map fun x => topRow w (x.getD 0 [])
    ([(dDst w, rows.flatMap (·.1)), ((wd w 5).toNat, rows.flatMap (·.2))], (0, 0))
  else if op = opTranscode then
    let work := transcodeWork w (joinPieces (tcIn w) inputs)
    let e := work.encode (tcOut w) lig dst base
    ((dDst w, e.bytes) :: (if tcAmax w then [((wd w 6).toNat, leBytes 8 (amaxOf work).toNat)] else []), e.counts)
  else
    let k := if isMx (rdIn w) then 2 else 1
    let srcs := (List.range (rdSources w)).map fun m => joinPieces (rdIn w) (inputs.map fun x => (x.drop (m * k)).take k)
    let e := (reduceWork w srcs).encode (rdOut w) lig dst base
    ([(dDst w, e.bytes)], e.counts)

/-- Read ranges in order: their bytes, the memory of the first failing read, and whether a twin served. -/
def readRanges (i : Nat) (segs : List Seg) (l : List (Nat × Nat)) (s : State) : MemRead × State :=
  l.foldl (fun (acc : MemRead × State) a =>
    match acc.1.fail, findSeg segs a.1 a.2 true false with
    | none, some g =>
      if a.2 = 0 then acc
      else
        let (r, t) := readSeg i g a.1 a.2 acc.2
        ({ bytes := acc.1.bytes ++ r.bytes, fail := r.fail, twin := acc.1.twin || r.twin, events := [] }, latchAll r.events t)
    | _, _ => acc) ({ bytes := [], fail := none, twin := false, events := [] }, s)

/-- Leave ranges of the output undefined. -/
def undefRanges (segs : List Seg) (l : List (Nat × Nat)) (s : State) : State :=
  each l (fun a t => match findSeg segs a.1 a.2 false true with | some g => undefSeg g a.1 a.2 t | none => t) s

/-- Write the outputs: the memory of the first failing write. -/
def writeRanges (i : Nat) (segs : List Seg) (l : List (Nat × List Byte)) (s : State) : Option Nat × State :=
  l.foldl (fun (acc : Option Nat × State) a =>
    match findSeg segs a.1 a.2.length false true with
    | some g =>
      let (wr, t) := writeSeg i g a.1 a.2 acc.2
      (match acc.1 with | some m => some m | none => wr.fail.map (·.2), latchAll wr.events t)
    | none => acc) (none, s)

/-- The byte ranges that were written in the memory of a virtual range: memory, start and length, as `watch` keeps them. -/
def placeOf (segs : List Seg) (a : Nat × Nat) : Option (Nat × Nat × Nat) :=
  (findSeg segs a.1 a.2 false false).map fun g =>
    (if g.kind < 3 then g.kind else 3 + g.hatch, g.target + (a.1 - g.base), a.2)

/-- A virtual range was written. -/
def rangeWritten (segs : List Seg) (log : List (Nat × Nat × Nat)) (a : Nat × Nat) : Bool :=
  match placeOf segs a with
  | some m => log.any fun x => x.1 == m.1 && rangesMeet x.2 m.2
  | none => false

/-- The value of AMAX over no element (R260) is stated nowhere: it is free. -/
def amaxOpen (w : List Word) : List (Nat × Nat) :=
  if dOp w = opTranscode ∧ tcAmax w = true ∧ tcElems w = 0 then [((wd w 6).toNat, 8)] else []

/-- The output ranges of an operation. -/
def outRanges (w : List Word) : List (Nat × Nat) := (pressOperands w).filterMap fun o => if o.write then some (o.addr, o.len) else none

/-- The end of a press operation: its inputs as they stood at the start give the output; what other writes to them leave
undefined, or all of it where ranges overlap, is free (R235; log entry 25). -/
def finishPress (d : DRef) (q : Queue) (r : Run) (p : PressRun) (s : State) : State :=
  let w := runWords q r
  let outs := outRanges w
  let log := (s.watch.getD []).drop p.mark
  let s0 := closeWatch (modPressRun d r.ord (fun x => { x with stage := .done, galley := 0, inputs := [] })
    (modGalley (fun g => { g with free := g.free + p.galley }) s))
  let (rd, s1) := readRanges d.inst r.segs (pressIn w p.lists) s0
  let acc := match r.lig with | some l => ligAccumulates l | none => false
  let (old, s2) := if acc && rd.fail.isNone then readRanges d.inst r.segs (outs.take 1) s1
    else ({ bytes := [], fail := none, twin := false, events := [] }, s1)
  let twin := rd.twin || old.twin || p.twin
  let bad (m : Nat) (t : State) : State :=
    settle d.inst d.queue r.ord { settledAs stDataError 0 m with twin := twin } (undefRanges r.segs outs t)
  match rd.fail.or old.fail with
  | some f => bad f.2 s2
  | none =>
    let before := pieceInputs w p.lists (pieceTotal w) 0 p.inputs
    let (writes, counts) := pressWrites w r.lig p before old.bytes s2.freeCount
    let s3 := { s2 with freeCount := s2.freeCount + outElems w }
    let (wr, s4) := writeRanges d.inst r.segs writes s3
    match wr with
    | some m => bad m s4
    | none =>
      let undef := if p.spoiled then outs else touchedOut w p.lists (rangeWritten r.segs log)
      let s5 := undefRanges r.segs (undef ++ amaxOpen w) s4
      let (extra, s6) := if dOp w = opTopk then (0, s5) else if undef.isEmpty then
          (place (min counts.1 (2 ^ 32 - 1)) 0 32 ||| place (min counts.2 (2 ^ 32 - 1)) 32 32, s5) else freeWord s5
      settle d.inst d.queue r.ord { settledOk (rangesBytes outs) with extra := extra, twin := twin } s6

/-- PRESS_BLOCK_DONE: a unit has written its block; with the last block the operation ends (R18, R244). -/
def blockDone (u : Nat) (s : State) : State :=
  match (pressRuns s).find? fun x => x.2.2.2.flying.any fun b => b.unit == u with
  | none => s
  | some (d, q, r, p) =>
    if hatchBlocks s d.inst q r then s
    else
    let now := (p.flying.filter fun b => b.unit == u).map (·.block)
    let p1 := { p with flying := p.flying.filter (fun b => b.unit != u), doneBlocks := p.doneBlocks ++ now }
    let s1 := modPressRun d r.ord (fun _ => p1) s
    endRecoveries (if p1.blocks ≤ p1.doneBlocks.length ∧ r.outcome.isNone then finishPress d q r p1 s1 else s1)

def execPressBlockDone (unit : Nat) (s : State) : Host.Outcome State Fault Refusal :=
  .next (if running s then blockDone unit s else s)

/-! ### The end of a slice (R243, R466) -/

/-- PERMIT_RELEASE: the last block of a slice has finished and its permit is released; the docket asks for its next slice, and
one that has no block at all ends. The permit of a docket that a gating wait still holds stays. -/
def permitRelease (d : DRef) (s : State) : State :=
  let mine := (pressRuns s).filter fun y => y.1 == d
  let held := (s.power.permits.filter fun x => x.d == d).length
  if held ≤ (mine.filter fun y => y.2.2.2.stage == .gated).length then s
  else
    let mine := mine.filter fun y => y.2.2.2.stage == .running
    if mine.any fun y => sliceBusy y.2.2.2 then s
    else
      let s1 := modPower (fun p => { p with permits := delFirst p.permits fun x => x.d == d }) (meter s)
      match mine.head? with
      | some (_, q, r, p) =>
        if p.sliceEnd < p.blocks then
          askPermit d 0 (modPressRun d r.ord (fun z => { z with stage := .permit, slice := z.slice + 1 }) s1)
        else if p.blocks = 0 then finishPress d q r p s1
        else s1
      | none => s1

def execPermitRelease (d : DRef) (s : State) : Host.Outcome State Fault Refusal := .next (permitRelease d s)

/-! ### Entries of tick programs (R67 to R70, R467) -/

/-- Start an entry on its ACTIVE planned queue: a press operation asks for its permit 200 ns before its start (R467) and
starts at its grant, any other entry starts at its own time. -/
def startEntry (p : ProgRun) (e : Entry) (q : Queue) (s : State) : State :=
  let press := isPress (dOp e.words)
  let s1 := if press then waitPtp (entryTime p e - 200) s else yieldWait (dOp e.words) (waitPtp (entryTime p e) s)
  let r := newRun s1 e.inst e.queue q p.next e.words p.tick true (!press)
  let s2 := modQueue e.inst e.queue (fun y => { y with runs := y.runs ++ [r] }) { s1 with ord := s1.ord + 1 }
  let s3 := (loadContext e.inst e.queue s2).2
  if press then
    match s3.runs with
    | x :: rest => { s3 with runs := { x with asked := true } :: rest }
    | [] => s3
  else entryBegan s3.clk.ptp s3

/-- An entry that has asked for its first permit: it starts when its gating waits are done, with a permit in hand by then
(R67); one whose run is gone is skipped. -/
def askedEntry (p : ProgRun) (e : Entry) (s : State) : State :=
  let d : DRef := { inst := e.inst, queue := e.queue, slot := p.next }
  match askedRun s p e, getQueue s e.inst e.queue with
  | some r0, some q =>
    if isGated r0 && p.gates.all (gateDone s p) then
      let s1 := waitPtp (entryTime p e) s
      let r := asBound s1 e.inst q r0
      match r.press.bind (startBar s1 d q r) with
      | some bar => endBarred d q r bar s1
      | none => if receiptRoom q then plannedBegan d (beginPress d q r s1) else skipAsked d r s1
    else s
  | _, _ => let s1 := waitPtp (entryTime p e) s; entrySkipped s1.clk.ptp s1

/-- PROGRAM_ENTRY_START: the turn of the next entry of the program comes (R67 to R70). A press operation asks for its permit
at that time, whatever gating wait still holds its start (R467). -/
def programEntryStart (s : State) : State :=
  match nextEntry s with
  | none => s
  | some (p, e) =>
    if !running s || !ticking s then s
    else if p.asked then askedEntry p e s
    else
      match getQueue s e.inst e.queue with
      | none => let s1 := waitPtp (entryTime p e) s; entrySkipped s1.clk.ptp s1
      | some q =>
        if q.st ≠ .active ∨ q.desc.planned = false then let s1 := waitPtp (entryTime p e) s; entrySkipped s1.clk.ptp s1
        else if entryFenced q e || (!isPress (dOp e.words) && !p.gates.all (gateDone s p)) then s
        else if !receiptRoom q then
          let s1 := waitPtp (entryTime p e) s
          holdReceiptFull e.inst e.queue (entrySkipped s1.clk.ptp s1)
        else startEntry p e q s

def execProgramEntryStart (s : State) : Host.Outcome State Fault Refusal := .next (programEntryStart s)

end Sys2Proof.Machine
end

