-- ==== Sys2Proof/Machine/Send.lean ====
section
/-! DEFINITION. The sending side of reliable delivery (13_delivery_congestion.md R326 to R349): connections, messages, the
dockets that send them (COPY with remote windows or stored records, WRITE, READ, SEND, ATOMIC), sealing (18_cipher.md R435 to
R443) and pacing. -/
namespace Sys2Proof.Machine

/-! ### Fields of DLV_CTRL and CC_CTRL, in ns and Mb/s -/

def dlvField (s : State) (lo len : Nat) : Nat := max 1 (fld s.dlv.dlvCtrl lo len)
def rtoMin (s : State) : Nat := dlvField s 0 8 * 1000
def rtoMax (s : State) : Nat := dlvField s 8 8 * 64000
def retryLimit (s : State) : Nat := dlvField s 16 4
def reorder (s : State) : Nat := fld s.dlv.dlvCtrl 20 8
def ackCount (s : State) : Nat := fld s.dlv.dlvCtrl 28 4
def ackDelay (s : State) : Nat := fld s.dlv.dlvCtrl 32 8 * 250
def rnrWait (s : State) : Nat := dlvField s 40 8 * 10000
def holdMax (s : State) : Nat := dlvField s 48 8 * 10000
/-- LIFE (R329). -/
def life (s : State) : Nat := (retryLimit s + 1) * rtoMax s + 7 * holdMax s + 4000000

def loadMark (s : State) : Nat := fld s.dlv.ccCtrl 0 8
def delayTarget (s : State) : Nat := fld s.dlv.ccCtrl 8 12 * 100
def betaShift (s : State) : Nat := max 1 (fld s.dlv.ccCtrl 20 4)
def aiStep (s : State) : Nat := fld s.dlv.ccCtrl 24 8 * 500
def rMin (s : State) : Nat := max 1 (fld s.dlv.ccCtrl 32 8) * 500

/-! ### Connections -/

def findTx (s : State) (k : ConnKey) : Option SendCtx := s.dlv.tx.find? fun c => c.key == k

def modTx (k : ConnKey) (f : SendCtx → SendCtx) (s : State) : State :=
  modDlv (fun d => { d with tx := d.tx.map fun c => if c.key == k then f c else c }) s

/-- A new send context (R328, R340, R348). -/
def newTx (s : State) (k : ConnKey) : SendCtx where
  key := k
  nextPsn := 0
  answered := false
  msgs := []
  srtt := none
  rttvar := 0
  samples := []
  backoff := 1
  rate := rMax s k.dstDev
  tDec := 0
  tInc := 0
  quietFrom := 0
  paceAt := 0
  failAt := none
  expires := s.clk.mono + 2 * life s

/-- Send contexts that the device holds (R327). -/
def txLimit : Nat := 65536

/-- A send context is free; RoCE connections take none (R353). -/
def txFree (s : State) (k : ConnKey) : Bool :=
  decide (16 ≤ k.vc) || decide ((s.dlv.tx.filter fun c => c.key.vc < 16).length < txLimit)

/-- Whether a message may start on a connection: its context exists, or a free one does, and it has not failed (R327). -/
def txReady (s : State) (k : ConnKey) : Bool :=
  match findTx s k with
  | some c => c.failAt.isNone
  | none => txFree s k

/-- A message and its packets on a connection: PSNs are taken in order (R330). While no send context is free the message
waits. -/
def addMessage (k : ConnKey) (count : Nat) (m : TxMsg) (s : State) : State :=
  if (findTx s k).isNone ∧ txFree s k = false then
    modDlv (fun d => { d with txWaits := d.txWaits ++ [{ key := k, count := count, msg := m }] }) s
  else
  let s1 := if (findTx s k).isSome then s else modDlv (fun d => { d with tx := d.tx ++ [newTx s k] }) s
  modTx k (fun c =>
    let ps := (List.range count).map fun j =>
      { psn := (c.nextPsn + j) % 2 ^ 24, pidx := j, sent := false, lastSent := 0, due := 0, resends := 0,
        lost := false, settled := false, sacked := false : TxPacket }
    { c with nextPsn := (c.nextPsn + count) % 2 ^ 24, msgs := c.msgs ++ [{ m with packets := ps }], expires := s.clk.mono + 2 * life s }) s1

/-- A send context has come free: the messages that waited for one go on in order (R327). -/
def admitWaits (s : State) : State :=
  each s.dlv.txWaits (fun x => addMessage x.key x.count x.msg) (modDlv (fun d => { d with txWaits := [] }) s)

/-- Change the message of a docket on every connection. -/
def modOwned (o : Owner) (f : TxMsg → TxMsg) (s : State) : State :=
  modDlv (fun d => { d with tx := d.tx.map fun c => { c with msgs := c.msgs.map fun m => if m.owner = o then f m else m } }) s

/-! ### Ranks (R33, R34) -/

/-- The connection of a queue towards a resolved rank on a request VC. -/
def connTo (s : State) (q : Queue) (vc : Nat) (t : Nat × Nat) : ConnKey :=
  { srcDev := s.plates.device, srcEp := q.desc.endpoint, dstDev := t.1, dstEp := t.2, vc := vc }

/-! ### The two ends of a move (R31, R120, R190) -/

/-- Destination bytes of a move docket. -/
def moveBytes (r : Run) (w : List Word) : Nat := moveLen r.lig w

/-- Source and destination of a docket with what it is bound to. -/
def moveEnds (r : Run) (w : List Word) : End × End := docketEnds r.segs r.lig w

/-- Rank an end names. -/
def End.rank : End → Option Nat
  | .far k _ _ => some k
  | _ => none

/-! ### Messages of dockets -/

def h3Of (window off : Nat) : Word := place off 0 48 ||| place window 48 16

/-- Number of packets of a message (R299). -/
def packetCount (ptype len seg : Nat) : Nat := if ptype = 3 ∨ ptype = 4 then 1 else max 1 (ceilDiv len seg)

/-- A message of a docket towards a rank. -/
def docketMessage (s : State) (i qi : Nat) (r : Run) (ptype rank window off len : Nat)
    (sealKey : Option BoundKey) : TxMsg where
  owner := .docket i qi r.ord
  ptype := ptype
  job := runJob r
  h3 := h3Of window off
  msgLen := len
  notify := false
  imm := 0
  sealKey := sealKey
  segBytes := packetBytes s sealKey.isSome
  src := none
  body := []
  packets := []
  rank := rank
  dst := none
  got := []
  data := []
  cut := none
  cutAt := none
  parts := []
  response := none
  twin := false
  voidFrom := none
  failMem := 0
  rnrAt := none
  wornAt := none

/-- The docket that waits for a message is executed: its outcome comes with the message. -/
def markExecuted (i qi ord : Nat) (s : State) : State := modRun i qi ord (fun r => { r with executed := true }) s

/-- The connection of a RoCE triple stands in the send contexts under this VC (R353; log entry 44). -/
def roceVc : Nat := 16

/-- The fields of a connection's triple (R354). -/
def RoceConn.endpoint (c : RoceConn) : Nat := fld (wd c.words 0) 24 6
def RoceConn.peerDev (c : RoceConn) : Nat := fld (wd c.words 0) 32 16
def RoceConn.peerEp (c : RoceConn) : Nat := fld (wd c.words 0) 48 6

/-- PMTU in bytes. -/
def RoceConn.pmtu (c : RoceConn) : Nat := 1024 * 2 ^ fld (wd c.words 0) 54 2

/-- The RoCE connection held for a triple (R353). -/
def roceFor (s : State) (ep dev peerEp : Nat) : Option (Nat × RoceConn) :=
  s.ether.roce.find? fun c => c.2.endpoint == ep && c.2.peerDev == dev && c.2.peerEp == peerEp

/-- Packets of PMTU that an operation takes as PSNs: a READ takes those of its response (R355). -/
def rocePackets (pmtu len : Nat) : Nat := max 1 (ceilDiv len pmtu)

/-- Put a docket's message on its RoCE connection; none, or one cleared or in the error state, is UNREACHABLE (R353, R358). -/
def launchRoce (i qi : Nat) (q : Queue) (r : Run) (t : Nat × Nat) (m : TxMsg) (s : State) : State :=
  match roceFor s q.desc.endpoint t.1 t.2 with
  | none => settle i qi r.ord (settledAs stUnreachable 0 (m.rank % 65536)) s
  | some (_, c) =>
    if c.error || !c.valid then settle i qi r.ord (settledAs stUnreachable 0 (m.rank % 65536)) s
    else
      let k := connTo s q roceVc t
      let n := rocePackets c.pmtu m.msgLen
      let s1 := addMessage k (if m.ptype = 3 ∨ m.ptype = 4 then 1 else n) { m with segBytes := c.pmtu } s
      markExecuted i qi r.ord
        (if m.ptype = 3 then modTx k (fun x => { x with nextPsn := (x.nextPsn + (n - 1)) % 2 ^ 24 }) s1 else s1)

/-- Put a docket's message on its connection, or leave the docket waiting while no context is free (R327); a window offset
beyond 48 bits lies in no window. -/
def launch (i qi : Nat) (q : Queue) (r : Run) (off : Nat) (m : TxMsg) (s : State) : State :=
  match runRank r m.rank with
  | none => settle i qi r.ord (settledAs stUnreachable 0 (m.rank % 65536)) s
  | some t =>
    let k := connTo s q r.cls t
    if !hasRoute s t.1 r.cls then settle i qi r.ord (settledAs stUnreachable 0 (m.rank % 65536)) s
    else if 2 ^ 48 < off + max m.msgLen 1 then settle i qi r.ord (settledAs stWindowFault 0 0) s
    else if (framePort s t.1).isSome then launchRoce i qi q r t m s
    else if !txReady s k then s
    else markExecuted i qi r.ord (addMessage k (packetCount m.ptype m.msgLen m.segBytes) m s)

/-- PTYPE of the message that carries a docket's data. -/
def dataType (w : List Word) : Nat := if dOp w = opSend then 2 else 1

/-- The message that writes to a far end. -/
def writeMessage (s : State) (i qi : Nat) (r : Run) (w : List Word) (rank window off : Nat) : TxMsg :=
  let own := dOp w == opWrite || dOp w == opSend
  { docketMessage s i qi r (dataType w) rank window off (destBytes r.lig (dLen w)) (if own then r.key else none) with
    notify := own && dNotify w
    imm := if own then wd w 5 else 0
    src := some (dSrc w) }

/-- The message that reads from a far end: placed on arrival, or kept for a ligature or a second message. -/
def readMessage (s : State) (i qi : Nat) (r : Run) (w : List Word) (rank window off : Nat) (dst : End) : TxMsg :=
  { docketMessage s i qi r 3 rank window off (dLen w) (if dOp w = opRead then r.key else none) with
    dst := match dst, r.lig with
      | .near _ a, none => some a
      | _, _ => none }

/-! ### Stored records (R442, R443) -/

/-- Additional data of record r of P bytes. -/
def recordAad (r p : Nat) : List Byte := leBytes 8 r ++ leBytes 8 p

/-- The 12-byte IV of a slot's salt and counter (R435). -/
def ivOf (salt counter : Nat) : List Byte := leBytes 4 salt ++ leBytes 8 counter

/-- Take the next counter of a key slot; none when it is exhausted or gone (R435, R437). -/
def takeCounter (i slot : Nat) (s : State) : Option Nat × State :=
  match tget (getInst s i).keys slot with
  | some k =>
    if k.counter = 2 ^ 64 - 1 then (none, s)
    else (some k.counter, modInst i (fun x => { x with keys := tmod x.keys slot fun y => { y with counter := y.counter + 1 } }) s)
  | none => (none, s)

/-- Seal the records of a plaintext; none when the slot runs out. -/
def sealRecords (i : Nat) (k : BoundKey) (p : Nat) : Nat → Nat → List Byte → State → Option (List Byte) × State
  | 0, _, _, s => (some [], s)
  | n + 1, r, bs, s =>
    match takeCounter i k.slot s with
    | (none, s1) => (none, s1)
    | (some c, s1) =>
      let iv := ivOf k.salt c
      let (ct, tag) := sealData k.mode k.key iv (recordAad r p) (bs.take 4096)
      match sealRecords i k p n (r + 1) (bs.drop 4096) s1 with
      | (some rest, s2) => (some (ct ++ iv ++ tag ++ rest), s2)
      | (none, s2) => (none, s2)

/-- Open the records of a sealed stream: the plaintext, or none at the first record whose tag fails. -/
def openRecords (k : BoundKey) (p : Nat) : Nat → Nat → List Byte → Option (List Byte)
  | 0, _, _ => some []
  | n + 1, r, bs =>
    let rec_ := bs.take 4120
    let len := rec_.length - 24
    match openData k.mode k.key ((rec_.drop len).take 12) (recordAad r p) (rec_.take len) (rec_.drop (len + 12)) with
    | some pt => (openRecords k p n (r + 1) (bs.drop 4120)).map fun rest => pt ++ rest
    | none => none

/-- COPY with a key slot between local operands: seal into, or open, stored records. -/
def copySealed (i qi : Nat) (r : Run) (w : List Word) (g h : Seg) (k : BoundKey) (s : State) : State :=
  let n := dLen w
  let b := dDst w
  let all := moveBytes r w
  let (rd, s1) := if n = 0 then ({ bytes := [], fail := none, twin := false, events := [] }, s) else readSeg i g (dSrc w) n s
  let s2 := latchAll rd.events s1
  let count (u : State) : State := { u with misc := { u.misc with authFails := satAdd 24 u.misc.authFails 1 } }
  match rd.fail with
  | some f => settle i qi r.ord { settledAs stDataError 0 f.2 with twin := rd.twin } (undefSeg h b all s2)
  | none =>
    if cpOpen w then
      let p := openedBytes n
      match openRecords k p (ceilDiv n 4120) 0 rd.bytes with
      | none =>
        let (wr, s3) := writeSeg i h b (List.replicate all 0) s2
        settle i qi r.ord { settledAs stAuthFail 0 0 with twin := rd.twin } (latchAll wr.events (count s3))
      | some pt =>
        let (t, s3) := transform i r.lig h b pt s2
        let (wr, s4) := writeSeg i h b t.bytes (latchAll t.events s3)
        let m := Moved.of all [t.fail, wr.fail] (rd.twin || t.twin)
        settle i qi r.ord m.outcome (latchAll wr.events s4)
    else
      let (t, s3) := transform i r.lig h b rd.bytes s2
      let p := t.bytes.length
      match sealRecords i k p (ceilDiv p 4096) 0 t.bytes s3 with
      | (none, s4) =>
        settle i qi r.ord { settledAs stUnreachable 0 0 with twin := rd.twin || t.twin }
          (undefSeg h b all { s4 with misc := { s4.misc with exhausted := satAdd 16 s4.misc.exhausted 1 } })
      | (some out, s4) =>
        let (wr, s5) := writeSeg i h b out s4
        let m := Moved.of all [t.fail.map fun f => (0, f.2), wr.fail] (rd.twin || t.twin)
        settle i qi r.ord m.outcome (latchAll wr.events s5)

/-! ### The four moving dockets (R119 to R121) -/

/-- A docket that moves bytes between its two ends. The source is checked before the destination, then ranks (R140). -/
def moveDocket (i qi : Nat) (q : Queue) (r : Run) (s : State) : State :=
  let w := runWords q r
  let (a, b) := moveEnds r w
  let bad := (a.rank.toList ++ b.rank.toList).find? fun k => (runRank r k).isNone
  match a, b with
  | .fault, _ => settle i qi r.ord (settledAs stSegmentFault 0 0) s
  | _, .fault => settle i qi r.ord (settledAs stSegmentFault 0 0) s
  | .near g _, .near h _ =>
    if ungranted r then s else
    match r.key with
    | some k => if dOp w = opCopy ∧ dKey w ≠ 0 then copySealed i qi r w g h k s else copyLocal i qi r w g h s
    | none => copyLocal i qi r w g h s
  | .near _ _, .far rank window off =>
    match bad with
    | some k => settle i qi r.ord (settledAs stUnreachable 0 (k % 65536)) s
    | none => launch i qi q r off (writeMessage s i qi r w rank window off) s
  | .far rank window off, _ =>
    match bad with
    | some k => settle i qi r.ord (settledAs stUnreachable 0 (k % 65536)) s
    | none => launch i qi q r off (readMessage s i qi r w rank window off b) s

def execCopy (d : DRef) (s : State) : Host.Outcome State Fault Refusal :=
  .next (startDocket d opCopy (moveDocket d.inst d.queue) s)

def execWrite (d : DRef) (s : State) : Host.Outcome State Fault Refusal :=
  .next (startDocket d opWrite (fun q r t => moveDocket d.inst d.queue q r t) s)

def execSend (d : DRef) (s : State) : Host.Outcome State Fault Refusal :=
  .next (startDocket d opSend (fun q r t => if isRaw (runWords q r) then t else moveDocket d.inst d.queue q r t) s)

def execRead (d : DRef) (s : State) : Host.Outcome State Fault Refusal :=
  .next (startDocket d opRead (fun q r t => moveDocket d.inst d.queue q r t) s)

/-- Whether 16 ATOMIC messages are outstanding on a connection (R337). -/
def atomicsFull (s : State) (k : ConnKey) : Bool :=
  match findTx s k with
  | some c => decide (16 ≤ (c.msgs.filter fun m => m.ptype == 4).length)
  | none => false

/-- ATOMIC (R126). -/
def atomicDocket (i qi : Nat) (q : Queue) (r : Run) (s : State) : State :=
  let w := runWords q r
  let off := dDst w % 2 ^ 48
  let m : TxMsg := { docketMessage s i qi r 4 (dRank w) (dWindow w) off 8 none with
    notify := dNotify w
    body := wordBytes (wd w 5) ++ wordBytes (wd w 6) ++ leBytes 1 (dFlags w % 16) ++ List.replicate 7 0 }
  match runRank r (dRank w) with
  | some t => if atomicsFull s (connTo s q r.cls t) then s else launch i qi q r off m s
  | none => launch i qi q r off m s

def execAtomic (d : DRef) (s : State) : Host.Outcome State Fault Refusal :=
  .next (startDocket d opAtomic (atomicDocket d.inst d.queue) s)

/-- An opcode the device does not implement, or a VER it does not accept, is MALFORMED (R27, R37). -/
def execUnimplementedOpcode (d : DRef) (s : State) : Host.Outcome State Fault Refusal :=
  .next (match openRun s d with
    | none => s
    | some (q, r) =>
      if running s && r.started && !opKnown q.desc.v1 (dOp (runWords q r)) then placeAll (malformed d.inst d.queue r 0 s) else s)

/-! ### Packets (R296 to R300, R439) -/

/-- Cells of a packet with B body bytes after the header (R299). -/
def cellsOf (n : Nat) : Nat := 1 + ceilDiv (n - 24) 56

/-- Data bytes of packet PIDX of a message (R299). -/
def payloadLen (len seg pidx : Nat) : Nat := min seg (len - pidx * seg)

/-- Words H0 to H3 of a packet (R298). -/
def headerWords (p : Packet) : List Word :=
  [place p.dstDev 0 16 ||| place p.dstEp 16 6 ||| place p.srcDev 24 16 ||| place p.srcEp 40 6 ||| place p.ptype 48 8
     ||| placeBit p.last 56 ||| placeBit p.notify 57 ||| placeBit p.sealed 58 ||| placeBit p.retx 59 ||| placeBit p.void 60,
   place p.job 0 32 ||| place p.psn 32 24 ||| place p.load 56 8,
   place p.msgLen 0 31 ||| place p.pidx 32 21 ||| place p.seg 53 2,
   p.h3]

/-- Additional data of a sealed packet: its header with LOAD 0 (R439). -/
def packetAad (p : Packet) : List Byte := bytesOf (headerWords { p with load := 0 })

/-- Buffer code of a packet's VC (R296). -/
def bufferCode (p : Packet) : Nat := if p.vc = 8 ∧ p.half then 10 else p.vc

/-- The connection a request packet travels on (R326). -/
def keyOf (p : Packet) : ConnKey :=
  { srcDev := p.srcDev, srcEp := p.srcEp, dstDev := p.dstDev, dstEp := p.dstEp, vc := p.vc }

/-- The run of a docket by its order. -/
def runOf (s : State) (i qi ord : Nat) : Option (Queue × Run) :=
  (getQueue s i qi).bind fun q => (q.runs.find? fun r => r.ord == ord).map fun r => (q, r)

/-- A request of VC 0 to 3. -/
def isRequest (p : Packet) : Bool := decide (p.vc ≤ 3)

/-- The message that a request of this device belongs to. -/
def ownMessage (s : State) (p : Packet) : Option TxMsg :=
  (findTx s (keyOf p)).bind fun c => c.msgs.find? fun m => m.packets.any fun t => t.psn == p.psn

/-- The run that a message moves data for: its docket, or the collective run of its handle. -/
def messageRun (s : State) (m : TxMsg) : Option Run :=
  match m.owner with
  | .docket i qi ord => (runOf s i qi ord).map (·.2)
  | .coll i h => (tget (getInst s i).colls h).bind fun c => c.run.bind fun x => (runOf s i c.queue x.ord).map (·.2)
  | .reply => none

/-- The tick of the planned docket that a request of this device moves data for (R71, R78). -/
def packetTick (s : State) (p : Packet) : Option Int :=
  if isRequest p then
    ((ownMessage s p).bind (messageRun s)).bind fun r => if r.planned then some r.fetchTick else none
  else none

/-- Put a packet at the switch core's injection input, with the epoch in force (R322); posted packets give way to those of a
planned docket (R71). -/
def inject (p : Packet) (s : State) : State :=
  let c := bufferCode p
  let w : Waiting :=
    { p := { p with epoch := epoch s, hops := 0, load := 0 }, staleAt := s.clk.mono + holdMax s, output := none, shutAt := none }
  let old := (tget s.fabric.inject c).getD []
  let first := if (packetTick s p).isSome then old.takeWhile fun x => (packetTick s x.p).isSome else old
  modFabric (fun f => { f with inject := tset f.inject c (first ++ w :: old.drop first.length) }) s

/-- A packet's header for a message and one of its packets. -/
def packetFor (s : State) (k : ConnKey) (m : TxMsg) (t : TxPacket) : Packet where
  vc := k.vc
  half := false
  epoch := false
  hops := 0
  dstDev := k.dstDev
  dstEp := k.dstEp
  srcDev := k.srcDev
  srcEp := k.srcEp
  ptype := m.ptype
  last := decide (t.pidx + 1 = m.packets.length)
  notify := m.notify
  sealed := m.sealKey.isSome
  retx := t.sent
  void := false
  job := m.job
  psn := t.psn
  load := 0
  msgLen := m.msgLen
  pidx := t.pidx
  seg := s.plates.seg
  h3 := m.h3
  body := []

/-- The source bytes of one packet, read now: the bytes, the memory of a failing read, a twin, and the state (R339, R521). -/
def readSource (i qi ord a : Nat) (m : TxMsg) (t : TxPacket) (s : State) : MemRead × State :=
  let none_ : MemRead := { bytes := [], fail := some (0, 4), twin := false, events := [] }
  match runOf s i qi ord with
  | none => (none_, s)
  | some (q, r) =>
    let w := runWords q r
    let n := payloadLen m.msgLen m.segBytes t.pidx
    match findSeg r.segs a (dLen w) true false with
    | none => (none_, s)
    | some g =>
      if m.msgLen = 0 then ({ none_ with fail := none }, s)
      else
        match r.lig with
        | none => readSeg i g (a + t.pidx * m.segBytes) n s
        | some l =>
          let (rd, s1) := readSeg i g a (dLen w) s
          let out := applyLig l rd.bytes [] s1.freeCount
          ({ rd with
              bytes := (out.drop (t.pidx * m.segBytes)).take n
              fail := rd.fail.bind fun f =>
                if prefixBytes (some l) f.1 < t.pidx * m.segBytes + n then some f else none },
            { s1 with freeCount := s1.freeCount + ligDraws (some l) rd.bytes.length })

/-- A sealed body: the slot's next counter is drawn; none when the slot is exhausted (R435, R437, R439). -/
def sealBody (i : Nat) (k : BoundKey) (p : Packet) (plain : List Byte) (s : State) : Option (List Byte) × State :=
  match takeCounter i k.slot s with
  | (none, s1) => (none, s1)
  | (some c, s1) =>
    let iv := ivOf k.salt c
    let (ct, tag) := sealData k.mode k.key iv (packetAad p) plain
    (some (ct ++ iv ++ tag), s1)

/-- The data of a packet of a message, with VOID where its source cannot be read (R521). -/
def packetData (m : TxMsg) (t : TxPacket) (s : State) : List Byte × Option Nat × Bool × State :=
  let kept := (m.body.drop (t.pidx * m.segBytes)).take (if m.ptype = 3 ∨ m.ptype = 4 then m.body.length else m.segBytes)
  match m.src, m.owner with
  | some a, .docket i qi ord =>
    match m.voidFrom with
    | some v =>
      if v ≤ t.pidx ∧ ¬ t.sent then ([], some m.failMem, false, s)
      else
        let (rd, s1) := readSource i qi ord a m t s
        (rd.bytes, rd.fail.map (·.2), rd.twin, latchAll rd.events s1)
    | none =>
      let (rd, s1) := readSource i qi ord a m t s
      (rd.bytes, rd.fail.map (·.2), rd.twin, latchAll rd.events s1)
  | _, _ => (kept, none, false, s)

/-- The moment a failed connection ends its dockets (R343). -/
def failTime (s : State) : Nat := s.clk.mono + (life s - (retryLimit s + 1) * rtoMax s)

/-- rto of a connection (R340, R346). -/
def rtoOf (s : State) (c : SendCtx) : Nat :=
  let lo := if c.key.vc = 8 then 4000 else rtoMin s
  match c.srtt with
  | none => min (rtoMax s) (lo * c.backoff)
  | some t => min (rtoMax s) (max lo (t + 4 * c.rttvar) * c.backoff)

/-- Record that a packet has gone out at `now`, with the time at which its rto runs out. -/
def noteSent (psn now due : Nat) (void : Option Nat) (pidx : Nat) (twin : Bool) (m : TxMsg) : TxMsg :=
  if m.packets.any (fun t => t.psn == psn) then
    { m with
      twin := m.twin || twin
      voidFrom := match void, m.voidFrom with
        | some _, some v => some (min v pidx)
        | some _, none => some pidx
        | none, v => v
      failMem := void.getD m.failMem
      packets := m.packets.map fun t => if t.psn = psn then
        { t with sent := true, lastSent := now, due := due,
                 resends := if t.sent then t.resends + 1 else t.resends, lost := false } else t }
  else m

/-- A packet that cannot be sealed (R437): its docket sends no further packet, and ends as one of a failed connection does. A
packet of a docket that has ended fails its connection, which cannot send it again (log entry 126). -/
def wornOut (k : ConnKey) (m : TxMsg) (s : State) : State :=
  match m.owner with
  | .docket _ _ _ =>
    modTx k (fun c => { c with msgs := c.msgs.map fun x => if x.owner = m.owner then { x with wornAt := some (failTime s) } else x })
      { s with misc := { s.misc with exhausted := satAdd 16 s.misc.exhausted 1 } }
  | _ => modTx k (fun c => { c with failAt := some (failTime s) }) s

/-- Send one packet of a message: built from its source now, sealed, injected, and paced (R339, R349). A READ_REQ carries
SEALED and nothing to seal (R300, R438). -/
def sendPacket (k : ConnKey) (m : TxMsg) (t : TxPacket) (s : State) : State :=
  let (data, fail, twin, s1) := packetData m t s
  let p := { packetFor s1 k m t with void := fail.isSome }
  let imm := if p.last && m.notify && m.ptype ≠ 4 then wordBytes m.imm else []
  let plain := if fail.isSome then [] else data ++ imm
  let (body, s2) := if m.ptype = 3 then (some plain, s1) else
    match m.sealKey, m.owner with
    | some key, .docket i _ _ => sealBody i key p plain s1
    | some _, _ => (none, s1)
    | none, _ => (some plain, s1)
  match body with
  | none => wornOut k m s2
  | some b =>
    let now := s2.clk.mono
    let s3 := inject { p with body := b } s2
    let s4 := modTx k (fun c => { c with
      expires := now + 2 * life s
      paceAt := now
      msgs := c.msgs.map (noteSent t.psn now (now + rtoOf s c) fail t.pidx twin) }) s3
    if t.sent then modDlv (fun d => { d with retxPkts := satAdd 32 d.retxPkts 1 }) s4 else s4

/-! ### Pacing (R349, R330, R328) -/

/-- A packet that its docket's grants cover (R374). -/
def granted (s : State) (m : TxMsg) (t : TxPacket) : Bool :=
  match m.owner with
  | .docket i qi ord =>
    match runOf s i qi ord with
    | some (q, r) =>
      r.planned || decide (r.pieces ≤ r.granted) || m.ptype == 3 ||
        (if dOp (runWords q r) = opCopy then decide ((t.pidx + 1) * m.segBytes ≤ r.granted * 4096)
         else decide (t.pidx < r.granted))
    | none => false
  | _ => true

/-- Every packet of a connection with its message. -/
def ctxPackets (c : SendCtx) : List (TxMsg × TxPacket) := c.msgs.flatMap fun m => m.packets.map fun t => (m, t)

/-- The oldest unsettled packet of a connection (R343). -/
def oldest (c : SendCtx) : Option (TxMsg × TxPacket) := (ctxPackets c).find? fun p => !p.2.settled

/-- A message does not go out now: its slot is exhausted (R437), its docket is drained, whose retransmission stops (R345), or reads its source through a
hatch that it cannot use (R399, R410). -/
def stopped (s : State) (m : TxMsg) : Bool :=
  m.wornAt.isSome || match m.owner with
  | .docket i qi ord =>
    match runOf s i qi ord with
    | some (q, r) => decide (q.st = .draining) || decide (q.st = .stopped) || (m.src.isSome && hatchBlocks s i q r)
    | none => true
  | _ => false

/-- A READ or an ATOMIC of a docket whose request may be settled and whose answer has not come: it times out and goes out again
until it has (R338, R342). -/
def unanswered (m : TxMsg) : Bool := m.owner != .reply && (m.ptype == 3 || (m.ptype == 4 && m.response.isNone))

/-- Bytes behind the header of a packet of a message (R299, R439, R521). -/
def packetLength (m : TxMsg) (t : TxPacket) : Nat :=
  let data := match m.src with
    | some _ => payloadLen m.msgLen m.segBytes t.pidx
    | none => min m.segBytes (m.body.length - t.pidx * m.segBytes)
  let void := match m.voidFrom with | some v => decide (v ≤ t.pidx) && !t.sent | none => false
  if m.ptype = 3 then 0
  else if m.ptype = 4 then m.body.length
  else (if void then 0 else data + (if m.notify && decide (t.pidx + 1 = m.packets.length) then 8 else 0)) +
    (if m.sealKey.isSome then 24 else 0)

/-- The time at which a packet becomes eligible: as long after the previous one as its cells take at the rate R (R349). -/
def paceTime (c : SendCtx) (m : TxMsg) (t : TxPacket) : Nat :=
  if c.paceAt = 0 then 0 else c.paceAt + cellsOf (packetLength m t) * 512000 / max 1 c.rate

/-- The next packet a connection may send: a lost one first, else the next new one inside the window (R330, R341). -/
def nextPacket (s : State) (c : SendCtx) : Option (TxMsg × TxPacket) :=
  let ok : TxMsg × TxPacket → Bool := fun p =>
    !stopped s p.1 && (match p.1.rnrAt with | some t => decide (t ≤ s.clk.mono) | none => true)
  match (ctxPackets c).find? fun p => p.2.lost && (!p.2.settled || unanswered p.1) && ok p with
  | some p => some p
  | none =>
    match (ctxPackets c).find? fun p => !p.2.sent && !p.2.settled with
    | none => none
    | some p =>
      let base := match oldest c with | some o => o.2.psn | none => p.2.psn
      let first : Bool := match c.msgs.head? with | some m => m.packets.any (fun t => t.psn == p.2.psn) | none => false
      if decide ((p.2.psn + 2 ^ 24 - base) % 2 ^ 24 < 65536) && (c.answered || first) && granted s p.1 p.2 && ok p then some p
      else none

/-- Give the packets not sent yet consecutive PSNs from `next` on. -/
def renumber (next : Nat) : List TxMsg → Nat × List TxMsg
  | [] => (next, [])
  | m :: ms =>
    let free := m.packets.filter fun t => !t.sent
    let ps := m.packets.filter (·.sent) ++ (((List.range free.length).zip free).map fun x =>
      { x.2 with psn := (next + x.1) % 2 ^ 24 })
    let (n, rest) := renumber ((next + free.length) % 2 ^ 24) ms
    (n, { m with packets := ps } :: rest)

/-- The messages of a docket that ends leave a connection: packets already sent stay until they are settled, for nobody;
those not sent give their PSNs to the messages behind. -/
def withdrawMessage (o : Owner) (c : SendCtx) : SendCtx :=
  let first := ((ctxPackets c).find? fun p => !p.2.sent).map fun p => p.2.psn
  let kept := c.msgs.filterMap fun m =>
    if m.owner = o then
      (if m.packets.any (·.sent) then some { m with owner := .reply, packets := m.packets.filter (·.sent) } else none)
    else some m
  let (n, ms) := renumber (first.getD c.nextPsn) kept
  { c with nextPsn := n, msgs := ms }

/-- What a docket that has begun to move data leaves undefined when it ends UNREACHABLE (R139): the local destination of a
READ, the remote range of the others. -/
def undefBegun (i qi ord : Nat) (m : TxMsg) (s : State) : State :=
  match runOf s i qi ord with
  | none => s
  | some (q, r) =>
    if !m.packets.any (·.sent) then s
    else if m.ptype = 3 then
      match (moveEnds r (runWords q r)).2 with
      | .near g a => if m.got.isEmpty then s else undefSeg g a (moveBytes r (runWords q r)) s
      | _ => s
    else undefFar r (runWords q r) s

/-- A packet without a route ends its docket UNREACHABLE (R139, R320). -/
def noRouteEnds (k : ConnKey) (m : TxMsg) (s : State) : State :=
  match m.owner with
  | .docket i qi ord =>
    settle i qi ord { settledAs stUnreachable 0 (m.rank % 65536) with twin := m.twin }
      (modTx k (withdrawMessage m.owner) (undefBegun i qi ord m s))
  | _ => s

/-- PACKET_ELIGIBLE: the next packet of a connection leaves at its paced time; without a route its docket ends (R320). -/
def packetEligible (k : ConnKey) (s : State) : State :=
  match findTx s k with
  | none => s
  | some c =>
    if c.failAt.isSome || !running s then s
    else
      match nextPacket s c with
      | none => s
      | some (m, t) =>
        let s1 := if k.vc = 8 then s else waitMono (paceTime c m t) s
        if hasRoute s1 k.dstDev k.vc then sendPacket k m t s1 else noRouteEnds k m s1

end Sys2Proof.Machine
end

