-- ==== Sys2Proof/Machine/Deliver.lean ====
section
/-! DEFINITION. The receiving side of reliable delivery and its timers (12_fabric_cells_routing.md R323, R324, R521;
13_delivery_congestion.md R327 to R348; 05_dockets_receipts.md R122 to R126; 08_segments_windows.md R195; 18_cipher.md R438 to
R440): requests at their target, acknowledgements and responses at the sender. -/
namespace Sys2Proof.Machine

/-! ### Packets in hand -/

/-- A packet is consumed: it leaves the ejection buffer if it waits there (R313). -/
def consume (p : Packet) (s : State) : State :=
  modFabric (fun f => { f with ejected := delFirst f.ejected (· == p) }) s

/-- The connection that a reply packet answers. -/
def replyKey (p : Packet) : ConnKey :=
  { srcDev := p.dstDev, srcEp := p.dstEp, dstDev := p.srcDev, dstEp := p.srcEp, vc := if p.vc = 8 then 8 else p.vc - 4 }

/-- First PSN of a packet's message. -/
def firstPsn (p : Packet) : Nat := (p.psn + 2 ^ 24 - p.pidx % 2 ^ 24) % 2 ^ 24

/-- Segment size of a packet's message (R299). -/
def segOf (p : Packet) : Nat := 1024 * 2 ^ p.seg - (if p.sealed then 32 else 0)

/-- Packets of its message. -/
def messagePackets (p : Packet) : Nat := packetCount p.ptype p.msgLen (segOf p)

/-- A packet that this device may consume as a type on its VCs (R300); the NAKs of a VC 8 connection travel on its reply half
(R326). -/
def arrives (s : State) (p : Packet) (ptype : Nat) : Bool :=
  running s && p.dstDev == s.plates.device && p.ptype == ptype && decide (p.seg < 3) &&
    (if ptype < 0x10 then decide (p.vc ≤ 3)
     else if ptype < 0x40 then p.vc == 2
     else if ptype < 0x80 then (decide (4 ≤ p.vc) && decide (p.vc ≤ 7)) || (ptype == 0x42 && p.vc == 8 && p.half)
     else if ptype < 0xC0 then p.vc == 8 && !p.half
     else p.vc == 8 && p.half)

/-- A reply packet towards the sender of a request on a connection. -/
def replyPacket (s : State) (k : ConnKey) (ptype psn len pidx : Nat) (last : Bool) (body : List Byte) : Packet where
  vc := if k.vc = 8 then 8 else k.vc + 4
  half := k.vc == 8
  epoch := false
  hops := 0
  dstDev := k.srcDev
  dstEp := k.srcEp
  srcDev := k.dstDev
  srcEp := k.dstEp
  ptype := ptype
  last := last
  notify := false
  sealed := false
  retx := false
  void := false
  job := match tget s.endpoints k.dstEp with | some e => e.job | none => 0
  psn := psn
  load := 0
  msgLen := len
  pidx := pidx
  seg := s.plates.seg
  h3 := 0
  body := body

/-! ### Receive contexts (R328 to R334) -/

def findRx (s : State) (k : ConnKey) : Option RecvCtx := s.dlv.rx.find? fun c => c.key == k

def modRx (k : ConnKey) (f : RecvCtx → RecvCtx) (s : State) : State :=
  modDlv (fun d => { d with rx := d.rx.map fun c => if c.key == k then f c else c }) s

def newRx (s : State) (k : ConnKey) (cum : Nat) : RecvCtx where
  key := k
  cum := cum
  placed := []
  settled := []
  map := false
  sinceAck := 0
  maxLoad := 0
  lastSack := 0
  ackDue := none
  record := []
  expires := s.clk.mono + life s
  msgs := []

/-- Distance of a PSN above CUM_PSN (R331). -/
def psnAbove (c : RecvCtx) (psn : Nat) : Nat := (psn + 2 ^ 24 - c.cum) % 2 ^ 24

/-- Advance CUM_PSN over settled PSNs (R334). -/
def advanceCum : Nat → RecvCtx → RecvCtx
  | 0, c => c
  | n + 1, c =>
    let next := (c.cum + 1) % 2 ^ 24
    if c.settled.contains next then
      advanceCum n { c with cum := next, settled := c.settled.filter (· != next), placed := c.placed.filter (· != next) }
    else c

/-- Settle PSNs and advance; the overflow map returns to the pool once the span suffices (R332). -/
def settlePsns (k : ConnKey) (l : List Nat) (s : State) : State :=
  match findRx s k with
  | none => s
  | some c =>
    let c1 := { c with settled := l.foldl addNew c.settled }
    let c2 := advanceCum c1.settled.length c1
    let back := c2.map && c2.placed.all fun x => decide (psnAbove c2 x ≤ 1024)
    let s1 := modRx k (fun _ => { c2 with map := c2.map && !back }) s
    if back then modDlv (fun d => { d with mapsFree := d.mapsFree + 1 }) s1 else s1

/-- PSNs of a message. -/
def psnsOf (first count : Nat) : List Nat := (List.range count).map fun j => (first + j) % 2 ^ 24

/-- SACK of R333. -/
def sackOf (c : RecvCtx) : Nat :=
  (List.range 64).foldl (fun m i => if c.placed.contains ((c.cum + 1 + i) % 2 ^ 24) then m + 2 ^ i else m) 0

/-- Send an ACK (R333). -/
def sendAck (k : ConnKey) (s : State) : State :=
  match findRx s k with
  | none => s
  | some c =>
    let body := leBytes 4 c.cum ++ leBytes 8 (sackOf c) ++ leBytes 1 c.maxLoad ++ [0, 0, 0]
    modRx k (fun x => { x with sinceAck := 0, maxLoad := 0, ackDue := none, lastSack := sackOf c })
      (inject (replyPacket s k 0x41 c.cum 16 0 true body) s)

/-- Body of a NAK (R336). -/
def nakBody (first code detail pidx : Nat) : List Byte :=
  leBytes 4 first ++ leBytes 1 code ++ leBytes 2 detail ++ [0] ++ leBytes 4 pidx

def sendNak (k : ConnKey) (first code detail pidx : Nat) (s : State) : State :=
  let s1 := inject (replyPacket s k 0x42 first 12 0 true (nakBody first code detail pidx)) s
  if code = 7 then modDlv (fun d => { d with rnrSent := satAdd 16 d.rnrSent 1 }) s1 else s1

/-- Release the notification slot a message reserved (R123). -/
def unreserve (m : RxMsg) (s : State) : State :=
  if m.notify then modQueue m.inst m.win.notifyQueue (fun q => { q with reserved := q.reserved - 1 }) s else s

/-- Refuse a message (R336, R337): a response record entry, every PSN settled, a NAK; RNR where no entry is free. -/
def refuse (p : Packet) (code detail pidx : Nat) (s : State) : State :=
  let k := keyOf p
  let f := firstPsn p
  match findRx s k with
  | none => sendNak k f 7 0 0 s
  | some c =>
    if 32 ≤ c.record.length then sendNak k f 7 0 0 s
    else
      let s0 := match c.msgs.find? fun m => m.psn == f with | some m => unreserve m s | none => s
      let e : RespEntry := { psn := f, count := messagePackets p, expires := s.clk.mono + life s, ptype := 0x42,
                             body := nakBody f code detail pidx }
      let s1 := modRx k (fun x => { x with
        record := x.record ++ [e], msgs := x.msgs.filter (fun m => m.psn != f) }) s0
      settlePsns k (psnsOf f (messagePackets p)) (sendNak k f code detail pidx s1)

/-! ### Checks at the head of a message (R35, R123, R195, R438) -/

/-- Permission of a request type in a window. -/
def mayAccess (w : Win) (ptype : Nat) : Bool :=
  if ptype = 1 then w.wr else if ptype = 2 then w.send else if ptype = 3 then w.rd else w.atom

/-- The notification queue is ready (R123). -/
def notifyReady (s : State) (i : Nat) (w : Win) : Bool :=
  match getQueue s i w.notifyQueue with
  | some q => decide (q.st = .active) && receiptRoom q
  | none => false

/-- What the checks of a message's head find: a NAK code, or the instance, its window, and the segment and key bound. -/
inductive Head where
  | nak (code : Nat)
  | ok (inst : Nat) (w : Win) (g : Seg) (key : Option BoundKey)
deriving DecidableEq, Repr

/-- Checks of R35, R195, R438, R123 and R400 in order. -/
def headCheck (s : State) (p : Packet) : Head :=
  match tget s.endpoints p.dstEp with
  | none => .nak 2
  | some e =>
    let x := getInst s e.inst
    if !e.valid then .nak 2
    else if e.job ≠ p.job then .nak 1
    else if x.st ≠ .active ∨ x.refusing then .nak 2
    else
      let off := fld p.h3 0 48
      match tget x.wins (fld p.h3 48 16) with
      | none => .nak 4
      | some w =>
        let key := (tget x.keys w.keySlot).bind fun k =>
          if k.mode = w.sealMode ∧ ¬ k.erased then
            some { slot := w.keySlot, key := k.key, salt := k.salt, mode := k.mode : BoundKey } else none
        if !w.valid || w.endpoint != p.dstEp || !mayAccess w p.ptype || decide (w.length < off + max p.msgLen 1) then .nak 4
        else if p.sealed != (w.sealMode != 0) || (w.sealMode != 0 && key.isNone) then .nak 4
        else if p.notify && (p.ptype == 1 || p.ptype == 2 || p.ptype == 4) && !notifyReady s e.inst w then .nak 3
        else
          match findSeg x.segs (w.base + off) (max p.msgLen 1) false false with
          | none => .nak 4
          | some g =>
            if g.kind = 3 ∧ (¬ hatchUp s g.hatch ∨ (getFn s (segFn s e.inst g)).d3) then .nak 7
            else .ok e.inst w g (if w.sealMode = 0 then none else key)

/-! ### Notifications (R122, R124) -/

/-- The sender's rank in the job of an endpoint; 0 where its rank table holds no valid entry of the sender (DESIGN CHOICE: R124
gives no value, log entry 116). -/
def senderRank (e : Endpoint) (dev ep : Nat) : Nat :=
  match e.ranks.find? fun (r : Nat × Nat × Nat × Bool) => r.2.2.2 && r.2.1 == dev && r.2.2.1 == ep with
  | some r => r.1
  | none => 0

/-- TAG of the sender's docket: known on a message of this device itself; of another device's message it stands in no field
of a packet, and is free (log entry 12). -/
def senderTag (s : State) (p : Packet) : Nat × State :=
  let own := (findTx s (keyOf p)).bind fun c => (c.msgs.find? fun m => m.packets.any fun t => t.psn == p.psn).bind fun m =>
    match m.owner with
    | .docket i qi ord => (runOf s i qi ord).map fun r => dTag r.2.words
    | _ => none
  match (if p.srcDev = s.plates.device then own else none) with
  | some t => (t, s)
  | none => (Config.freeTag s.freeCount % 2 ^ 32, { s with freeCount := s.freeCount + 1 })

/-- The zero-length read that a notification needs before it, where the window lies on another hatch than the receipt ring
(R41, R393). -/
def flushWindow (i : Nat) (w : Win) (s : State) : State :=
  match getQueue s i w.notifyQueue with
  | some q => flushOther (writeHatch (getInst s i).segs w.base 1).toList (receiptHatch s i q) s
  | none => s

/-- Write the notification receipt of a message into the queue its window names. -/
def notifyTarget (p : Packet) (i : Nat) (w : Win) (bytes : Nat) (word : Word) (s : State) : State :=
  let (tag, s1) := senderTag s p
  let rank := match tget s.endpoints p.dstEp with | some e => senderRank e p.srcDev p.srcEp | none => 0
  let out : Settled := { settledAs stOk bytes (rank % 65536) with extra := word }
  let r : Receipt :=
    { kind := 1, index := fld p.h3 48 16, tag := tag, out := out, late := false,
      tickLo := s.time.tick % 2 ^ 32, subtick := subtick s, signal := true }
  writeReceipt i w.notifyQueue r (flushWindow i w (modQueue i w.notifyQueue (fun q => { q with reserved := q.reserved - 1 }) s1))

/-! ### Requests -/

/-- DETAIL of a NAK of CODE 6: the memory of the failing access (R336); a refused translation is one of a hatch. -/
def memDetail (m : Nat) : Nat := if m = atsDetail then 4 else m

/-- The receive context of a request, made for the first packet of an unknown connection (R327, R328); none while none is free. -/
def openContext (p : Packet) (s : State) : Option State :=
  let k := keyOf p
  match findRx s k with
  | some _ => some (modRx k (fun x => { x with expires := s.clk.mono + life s, maxLoad := max x.maxLoad p.load }) s)
  | none =>
    if 65536 ≤ s.dlv.rx.length then none
    else some (modDlv (fun d => { d with rx := d.rx ++ [newRx s k ((firstPsn p + 2 ^ 24 - 1) % 2 ^ 24)] }) s)

/-- Classes of an arriving packet (R331). -/
inductive Arrival where
  | behind
  | repeated
  | beyond
  | fresh
deriving DecidableEq, Repr

/-- A packet beyond the context's own record, which has no overflow map yet (R332). -/
def wantsMap (c : RecvCtx) (p : Packet) : Bool := decide (1024 < psnAbove c p.psn) && !c.map

/-- The class of a packet; one that finds the pool of overflow maps empty is discarded too (R331, R332). -/
def arrivalOf (s : State) (p : Packet) : Arrival :=
  match findRx s (keyOf p) with
  | none => .beyond
  | some c =>
    let d := psnAbove c p.psn
    if d = 0 ∨ 2 ^ 23 ≤ d then .behind
    else if 65536 < d then .beyond
    else if c.placed.contains p.psn || c.settled.contains p.psn then .repeated
    else if wantsMap c p && s.dlv.mapsFree == 0 then .beyond
    else .fresh

/-- The context takes an overflow map where the packet needs one (R332). -/
def takeMap (p : Packet) (s : State) : State :=
  match findRx s (keyOf p) with
  | none => s
  | some c =>
    if wantsMap c p then
      modRx (keyOf p) (fun x => { x with map := true }) (modDlv (fun y => { y with mapsFree := y.mapsFree - 1 }) s)
    else s

/-- Take a request packet into its receive context (R327, R331): RNR while no context is free. -/
def admitTo (p : Packet) (fresh behind again : State → State) (s : State) : State :=
  match openContext p s with
  | none => sendNak (keyOf p) (firstPsn p) 7 0 0 s
  | some s1 =>
    let dup := modDlv (fun y => { y with dup := satAdd 24 y.dup 1 }) s1
    match arrivalOf s1 p with
    | .behind => behind dup
    | .repeated => again dup
    | .beyond => modDlv (fun y => { y with outOfWindow := satAdd 16 y.outOfWindow 1 }) s1
    | .fresh => fresh (takeMap p s1)

/-- A request of VC 0 to 3: `behind` answers one whose message is settled, and a Repeat gets an ACK at once. -/
def admitRequest (p : Packet) (fresh behind : State → State) (s : State) : State := admitTo p fresh behind (sendAck (keyOf p)) s

/-- The response record holds the message of a packet. -/
def recorded (p : Packet) (s : State) : Bool :=
  match findRx s (keyOf p) with | some c => c.record.any fun e => e.psn == firstPsn p | none => false

/-- Answer a Behind packet from the response record, or by an ACK (R338). -/
def answerBehind (p : Packet) (s : State) : State :=
  let k := keyOf p
  let f := firstPsn p
  match (findRx s k).bind fun c => c.record.find? fun e => e.psn == f with
  | some e => inject (replyPacket s k e.ptype f (if e.ptype = 0x42 then 12 else 8) 0 true e.body) s
  | none => sendAck k s

/-- A packet has been placed: its PSN is settled and the acknowledgement rules of R335 apply. `done` tells that its message
is complete. -/
def acknowledge (p : Packet) (done : Bool) (s : State) : State :=
  let k := keyOf p
  match findRx s k with
  | none => s
  | some c =>
    let gap := decide (psnAbove c p.psn ≠ 1) && decide (c.lastSack = 0)
    let s1 := modRx k (fun x => { x with
      placed := addNew x.placed p.psn, sinceAck := x.sinceAck + 1, maxLoad := max x.maxLoad p.load
      ackDue := some (x.ackDue.getD (s.clk.mono + ackDelay s)) }) s
    let s2 := settlePsns k [p.psn] s1
    if done || gap || ackDelay s == 0 || decide (ackCount s ≤ c.sinceAck + 1) then sendAck k s2 else s2

/-- The message of a packet, bound at its first packet (R195, R323). -/
def newMessage (p : Packet) (i : Nat) (w : Win) (g : Seg) (key : Option BoundKey) : RxMsg where
  psn := firstPsn p
  job := p.job
  ptype := p.ptype
  inst := i
  win := w
  seg := some g
  key := key
  msgLen := p.msgLen
  offset := fld p.h3 0 48
  windowNo := fld p.h3 48 16
  counted := 0
  pidxs := []
  void := false
  imm := 0
  notify := p.notify
  refused := false
  data := []
  parts := []

/-- Bind the message of a packet, or refuse it; a message bound before a reset of its instance is refused too (R17). -/
def bindMessage (p : Packet) (s : State) : Option RxMsg × State :=
  let k := keyOf p
  match (findRx s k).bind fun c => c.msgs.find? fun m => m.psn == firstPsn p && m.job == p.job with
  | some m =>
    let x := getInst s m.inst
    if x.st ≠ .active ∨ x.refusing then (none, refuse p 2 0 0 s) else (some m, s)
  | none =>
    match headCheck s p with
    | .nak 7 => (none, sendNak k (firstPsn p) 7 0 0 s)
    | .nak code => (none, refuse p code 0 0 s)
    | .ok i w g key =>
      let m := newMessage p i w g key
      let s1 := modRx k (fun x => { x with msgs := x.msgs ++ [m] }) s
      (some m, if p.notify then modQueue i w.notifyQueue (fun q => { q with reserved := q.reserved + 1 }) s1 else s1)

def modRxMsg (k : ConnKey) (psn : Nat) (f : RxMsg → RxMsg) (s : State) : State :=
  modRx k (fun c => { c with msgs := c.msgs.map fun m => if m.psn = psn then f m else m }) s

def dropRxMsg (k : ConnKey) (psn : Nat) (s : State) : State :=
  modRx k (fun c => { c with msgs := c.msgs.filter fun m => m.psn != psn }) s

/-- The plaintext of a packet's body; none when its tag fails (R439, R440). -/
def openBody (m : Option BoundKey) (p : Packet) : Option (List Byte) :=
  match m with
  | none => some p.body
  | some k =>
    let n := p.body.length - 24
    openData k.mode k.key ((p.body.drop n).take 12) (packetAad p) (p.body.take n) (p.body.drop (n + 12))

/-! ### Aligned words across packets (R45) -/

/-- How many bytes at the front and at the back of n bytes placed at x belong to aligned words of the range [a, b) of which
other packets bring the rest. -/
def edgeBytes (a b x n : Nat) : Nat × Nat :=
  let whole (w : Nat) : Bool := decide (a ≤ w) && decide (w + 8 ≤ b)
  let lo := x / 8 * 8
  let hi := (x + n) / 8 * 8
  (if x % 8 ≠ 0 ∧ whole lo = true then min n (lo + 8 - x) else 0,
   if (x + n) % 8 ≠ 0 ∧ whole hi = true ∧ x ≤ hi then x + n - hi else 0)

/-- A part of a word joins the parts held: the word is whole, or the part waits. -/
def joinPart (held : List WordPart) (p : WordPart) : List WordPart × Option (Nat × List Byte) :=
  match held.find? fun h => h.word == p.word && h.place != p.place with
  | some h => (held.filter (· != h), some (p.word, if h.place < p.place then h.bytes ++ p.bytes else p.bytes ++ h.bytes))
  | none => (held ++ [p], none)

/-- Where the bytes of one packet go: what is written now, from the lowest address on, and the parts that wait. -/
def packetWrites (held : List WordPart) (a b x : Nat) (bs : List Byte) : List (Nat × List Byte) × List WordPart :=
  let (f, l) := edgeBytes a b x bs.length
  let (h1, w1) := if f = 0 then (held, none) else joinPart held { word := x / 8 * 8, place := x % 8, bytes := bs.take f }
  let mid := (bs.drop f).take (bs.length - f - l)
  let (h2, w2) := if l = 0 then (h1, none)
    else joinPart h1 { word := (x + bs.length) / 8 * 8, place := 0, bytes := bs.drop (bs.length - l) }
  (w1.toList ++ (if mid = [] then [] else [(x + f, mid)]) ++ w2.toList, h2)

/-- Write ranges in order, up to the first that fails: the failing address and memory. -/
def writeParts (i : Nat) (g : Seg) : List (Nat × List Byte) → State → Option (Nat × Nat) × State
  | [], s => (none, s)
  | (a, bs) :: rest, s =>
    let (w, s1) := writeSeg i g a bs s
    match w.fail with
    | some f => (some (a + f.1, f.2), latchAll w.events s1)
    | none => writeParts i g rest (latchAll w.events s1)

/-- The parts that still wait when a message ends are written as they are. -/
def flushParts (i : Nat) (g : Seg) (l : List WordPart) (s : State) : State :=
  (writeParts i g (l.map fun h => (h.word + h.place, h.bytes)) s).2

/-- A WRITE or SEND packet at its target (R323, R324, R440, R521). -/
def placePacket (p : Packet) (s : State) : State :=
  let k := keyOf p
  match bindMessage p s with
  | (none, s1) => s1
  | (some m, s1) =>
    match m.seg with
    | none => s1
    | some g =>
      let a := m.win.base + m.offset
      match openBody m.key p with
      | none =>
        let s2 := { s1 with misc := { s1.misc with authFails := satAdd 24 s1.misc.authFails 1 } }
        let (w, s3) := writeSeg m.inst g a (List.replicate m.msgLen 0) s2
        refuse p 5 0 0 (latchAll w.events s3)
      | some body =>
        let n := payloadLen p.msgLen (segOf p) p.pidx
        let (ws, held) := if p.void then ([], m.parts)
          else packetWrites m.parts a (a + m.msgLen) (a + p.pidx * segOf p) (body.take n)
        let (fail, s2) := writeParts m.inst g ws s1
        match fail with
        | some f => refuse p 6 (memDetail f.2) p.pidx (flushParts m.inst g held s2)
        | none =>
          let whole := decide (m.counted + n = m.msgLen)
          let s3 := if whole then flushParts m.inst g held s2 else s2
          let m1 : RxMsg := { m with
            counted := m.counted + n, pidxs := m.pidxs ++ [p.pidx], void := m.void || p.void
            parts := if whole then [] else held
            imm := if p.last && m.notify then wordAt (body.drop n) 0 else m.imm }
          let done := decide (m1.counted = m.msgLen)
          if done then
            let s4 := dropRxMsg k m.psn s3
            let s5 := if m.notify then
                (if m1.void then unreserve m s4 else notifyTarget p m.inst m.win m.msgLen m1.imm s4)
              else s4
            reclaim (acknowledge p true s5)
          else acknowledge p false (modRxMsg k m.psn (fun _ => m1) s3)

def execWritePacket (p : Packet) (s : State) : Host.Outcome State Fault Refusal :=
  .next (if arrives s p 0x01 then admitRequest p (placePacket p) (answerBehind p) (consume p s) else s)

def execSendPacket (p : Packet) (s : State) : Host.Outcome State Fault Refusal :=
  .next (if arrives s p 0x02 then admitRequest p (fun t => placePacket p t) (answerBehind p) (consume p s) else s)

/-- One READ_RESP packet, sealed with the window's slot where the request was sealed (R438). -/
def respond (k : ConnKey) (i : Nat) (key : Option BoundKey) (psn len seg pidx : Nat) (bs : List Byte) (s : State) : State :=
  let n := packetCount 0x43 len seg
  let p := { replyPacket s k 0x43 psn len pidx (decide (pidx + 1 = n)) [] with sealed := key.isSome }
  let data := (bs.drop (pidx * seg)).take seg
  match key with
  | none => inject { p with body := data } s
  | some b =>
    match sealBody i b p data s with
    | (some body, s1) => inject { p with body := body } s1
    | (none, s1) => s1

/-- Serve a READ_REQ from its window (R323, R336, R342): the packets before a failing byte, then NAK CODE 6. -/
def serveRead (again : Bool) (p : Packet) (s : State) : State :=
  let k := keyOf p
  match headCheck s p with
  | .nak 7 => sendNak k (firstPsn p) 7 0 0 s
  | .nak code => if again then sendNak k (firstPsn p) code 0 0 s else refuse p code 0 0 s
  | .ok i w g key =>
    let a := w.base + fld p.h3 0 48
    let (r, s1) := if p.msgLen = 0 then ({ bytes := [], fail := none, twin := false, events := [] }, s)
      else readSeg i g a p.msgLen s
    let s2 := latchAll r.events s1
    let seg := packetBytes s key.isSome
    let count := match r.fail with | some f => f.1 / seg | none => packetCount 0x43 p.msgLen seg
    let s3 := each (List.range count) (fun j t => respond k i key p.psn p.msgLen seg j r.bytes t) s2
    match r.fail with
    | some f => if again then sendNak k p.psn 6 (memDetail f.2) count s3 else refuse p 6 (memDetail f.2) count s3
    | none => if again then s3 else acknowledge p true s3

def execReadReq (p : Packet) (s : State) : Host.Outcome State Fault Refusal :=
  .next (if arrives s p 0x03 then
      admitRequest p (serveRead false p) (fun t => if p.retx && !recorded p t then serveRead true p t else answerBehind p t)
        (consume p s)
    else s)

/-- The new value of an ATOMIC (R126). -/
def atomicValue (aop : Nat) (old a b : Word) : Word :=
  match aop with
  | 0 => old + a
  | 1 => if old = a then b else old
  | 2 => a
  | 3 => old ||| a
  | 4 => old &&& a
  | 5 => if old.toNat < a.toNat then a else old
  | _ => if a.toNat < old.toNat then a else old

/-- Serve an ATOMIC at its target (R126, R337). -/
def serveAtomic (p : Packet) (s : State) : State :=
  let k := keyOf p
  match headCheck s p with
  | .nak 7 => sendNak k (firstPsn p) 7 0 0 s
  | .nak code => refuse p code 0 0 s
  | .ok i w g _ =>
    let a := w.base + fld p.h3 0 48
    let full := match findRx s k with | some c => decide (32 ≤ c.record.length) | none => true
    if full then sendNak k (firstPsn p) 7 0 0 s
    else
      let (r, s1) := readSeg i g a 8 s
      let s2 := latchAll r.events s1
      match r.fail with
      | some f => refuse p 6 (memDetail f.2) 0 s2
      | none =>
        let old := wordAt r.bytes 0
        let new := atomicValue (leNat ((p.body.drop 16).take 1)) old (wordAt p.body 0) (wordAt p.body 1)
        let (wr, s3) := writeSeg i g a (wordBytes new) s2
        let s4 := latchAll wr.events s3
        match wr.fail with
        | some f => refuse p 6 (memDetail f.2) 0 s4
        | none =>
          let s5 := if p.notify then
              notifyTarget p i w 8 new (modQueue i w.notifyQueue (fun q => { q with reserved := q.reserved + 1 }) s4)
            else s4
          let e : RespEntry := { psn := p.psn, count := 1, expires := s.clk.mono + life s, ptype := 0x44, body := wordBytes old }
          let s6 := modRx k (fun c => { c with record := c.record ++ [e] }) s5
          acknowledge p true (inject (replyPacket s6 k 0x44 p.psn 8 0 true (wordBytes old)) s6)

def execAtomicPacket (p : Packet) (s : State) : Host.Outcome State Fault Refusal :=
  .next (if arrives s p 0x04 then admitRequest p (serveAtomic p) (answerBehind p) (consume p s) else s)

/-! ### The sender's side: completing messages -/

/-- Docket whose message has ended, with its outcome. -/
def endMessage (m : TxMsg) (out : Settled) (s : State) : State :=
  match m.owner with
  | .docket i qi ord => settle i qi ord { out with twin := out.twin || m.twin } s
  | _ => s

/-- A WRITE, SEND or ATOMIC whose every PSN CUM_PSN covers (R334, R521). -/
def messageOutcome (m : TxMsg) : Option Settled :=
  if m.ptype = 3 then none
  else if m.ptype = 4 then m.response.map fun w => { settledOk 8 with extra := w }
  else
    match m.voidFrom with
    | some v => some (settledAs stDataError (v * m.segBytes) m.failMem)
    | none => some (settledOk m.msgLen)

/-- A message every packet of which is settled. -/
def allSettled (m : TxMsg) : Bool := m.packets.all (·.settled)

/-- Messages that are complete leave the connection and end their dockets. -/
def completeMessages (k : ConnKey) (s : State) : State :=
  match findTx s k with
  | none => s
  | some c =>
    let done := c.msgs.filter fun m => allSettled m && (messageOutcome m).isSome
    let s1 := modTx k (fun x => { x with msgs := x.msgs.filter fun m =>
      !(allSettled m && ((messageOutcome m).isSome || m.owner == .reply)) }) s
    each done (fun m t => match messageOutcome m with | some o => endMessage m o t | none => t) s1

/-! ### ACK, NAK, responses -/

/-- A PSN at or below CUM_PSN. -/
def coveredBy (cum psn : Nat) : Bool := decide ((cum + 2 ^ 24 - psn) % 2 ^ 24 < 2 ^ 23)

/-- A packet the ACK covers by SACK. -/
def sackCovers (cum sack psn : Nat) : Bool :=
  let d := (psn + 2 ^ 24 - cum) % 2 ^ 24
  decide (1 ≤ d) && decide (d ≤ 64) && decide (sack / 2 ^ (d - 1) % 2 = 1)

/-- Fold one sample into the estimates (R340). -/
def addSample (now x : Nat) (c : SendCtx) : SendCtx :=
  let recent := c.samples.filter fun p => decide (now < p.1 + 10000000)
  match c.srtt with
  | none => { c with srtt := some x, rttvar := x / 2, samples := recent ++ [(now, x)] }
  | some t =>
    let diff := if t ≤ x then x - t else t - x
    { c with rttvar := (3 * c.rttvar + diff) / 4, srtt := some ((7 * t + x) / 8), samples := recent ++ [(now, x)] }

/-- base: the least sample of the last 10 ms. -/
def baseRtt (now : Nat) (c : SendCtx) : Option Nat :=
  minBy id ((c.samples.filter fun p => decide (now < p.1 + 10000000)).map (·.2))

/-- The rate law of R348 at an ACK, congested or not. -/
def rateStep (s : State) (congested : Bool) (c : SendCtx) : SendCtx :=
  let now := s.clk.mono
  let srtt := c.srtt.getD 0
  if congested then
    let c1 := { c with quietFrom := now }
    if c.tDec + srtt ≤ now then { c1 with rate := max (rMin s) (c.rate - c.rate / 2 ^ betaShift s), tDec := now } else c1
  else if c.quietFrom + srtt ≤ now ∧ c.tInc + srtt ≤ now then
    { c with rate := min (rMax s c.key.dstDev) (c.rate + aiStep s), tInc := now }
  else c

/-- The rate law at an ACK (R348): what makes it congested. -/
def rateLaw (s : State) (load : Nat) (sample : Option Nat) (c : SendCtx) : SendCtx :=
  let now := s.clk.mono
  let delayed := match sample, baseRtt now c with
    | some x, some b => decide (delayTarget s ≠ 0) && decide (b + delayTarget s < x)
    | _, _ => false
  rateStep s ((decide (loadMark s ≠ 0) && decide (loadMark s ≤ load)) || delayed) c

/-- Mark the packets an ACK shows lost: a placed PSN at least REORDER above, not resent within the last srtt (R341). -/
def markReorder (s : State) (cum sack : Nat) (c : SendCtx) : SendCtx :=
  let top := (List.range 64).foldl (fun m i => if sack / 2 ^ i % 2 = 1 then i + 1 else m) 0
  if reorder s = 0 then c
  else
    { c with msgs := c.msgs.map fun m => { m with packets := m.packets.map fun t =>
      let d := (t.psn + 2 ^ 24 - cum) % 2 ^ 24
      if t.sent && !t.settled && !t.sacked && decide (d + reorder s ≤ top) &&
          (t.resends == 0 || decide (t.lastSent + c.srtt.getD 0 ≤ s.clk.mono)) then { t with lost := true } else t } }

/-- What an ACK does to a send context (R334, R340, R348). -/
def applyAck (s : State) (cum sack load : Nat) (c : SendCtx) : SendCtx :=
  let now := s.clk.mono
  let fresh := (ctxPackets c).filterMap fun p =>
    if p.2.sent && !p.2.settled && !p.2.sacked && decide (p.2.resends = 0) &&
        (coveredBy cum p.2.psn || sackCovers cum sack p.2.psn) then some (now - p.2.lastSent) else none
  let advanced := (ctxPackets c).any fun p => p.2.sent && !p.2.settled && coveredBy cum p.2.psn
  let c1 := fresh.foldl (fun x y => addSample now y x) c
  let c2 := { c1 with
    answered := true, expires := now + 2 * life s
    backoff := if advanced then 1 else c1.backoff
    msgs := c1.msgs.map fun m => { m with packets := m.packets.map fun t =>
      { t with settled := t.settled || (t.sent && coveredBy cum t.psn)
               sacked := t.sacked || sackCovers cum sack t.psn
               lost := t.lost && !coveredBy cum t.psn } } }
  rateLaw s load fresh.getLast? (markReorder s cum sack c2)

/-- ACK at the sender. -/
def ackArrives (p : Packet) (s : State) : State :=
  let k := replyKey p
  completeMessages k (modTx k (applyAck s (leNat (p.body.take 3)) (leNat ((p.body.drop 4).take 8))
    (leNat ((p.body.drop 12).take 1))) s)

def execAck (p : Packet) (s : State) : Host.Outcome State Fault Refusal :=
  .next (if arrives s p 0x41 then ackArrives p (consume p s) else s)

/-- The receipt of a refused message (R336). -/
def nakOutcome (code detail : Nat) : Settled :=
  match code with
  | 1 => settledAs stRemoteRefused 0 1
  | 2 => settledAs stRemoteRefused 0 2
  | 3 => settledAs stRemoteRefused 0 3
  | 4 => settledAs stWindowFault 0 0
  | 5 => settledAs stAuthFail 0 0
  | _ => settledAs stDataError 0 detail

/-- The local destination of a READ docket from byte `from_` on is undefined. -/
def undefRead (i qi ord from_ : Nat) (s : State) : State :=
  match runOf s i qi ord with
  | none => s
  | some (q, r) =>
    let w := runWords q r
    match (moveEnds r w).2 with
    | .near g a => undefSeg g (a + from_) (moveBytes r w - from_) s
    | _ => s

/-- Parts of words of a READ's destination that still wait are written as they are. -/
def flushRead (i qi ord : Nat) (l : List WordPart) (s : State) : State :=
  match runOf s i qi ord with
  | none => s
  | some (q, r) =>
    match (moveEnds r (runWords q r)).2 with
    | .near g _ => flushParts i g l s
    | _ => s

/-- The pieces kept of a READ, in order. -/
def keptBytes (m : TxMsg) : List Byte :=
  ((List.range (packetCount 0x43 m.msgLen m.segBytes)).flatMap fun j =>
    ((m.data.find? fun d => d.1 == j).map (·.2)).getD [])

/-- A READ whose every byte has arrived: placed already, or placed now through the ligature, or sent on (log entry 18). -/
def finishRead (k : ConnKey) (m : TxMsg) (s : State) : State :=
  let s0 := modTx k (fun c => { c with msgs := c.msgs.map fun x => if x.owner = m.owner ∧ x.ptype = 3 then { x with owner := .reply } else x }) s
  let s1 := modTx k (fun c => { c with msgs := c.msgs.filter fun x => !(x.owner == .reply && allSettled x) }) s0
  match m.owner with
  | .docket i qi ord =>
    match runOf s1 i qi ord with
    | none => s1
    | some (q, r) =>
      let w := runWords q r
      match (moveEnds r w).2 with
      | .near g a =>
        match r.lig with
        | none => settle i qi ord { settledOk m.msgLen with twin := m.twin } s1
        | some _ =>
          let (t, s2) := transform i r.lig g a (keptBytes m) s1
          let (wr, s3) := writeSeg i g a t.bytes (latchAll t.events s2)
          settle i qi ord (Moved.of t.bytes.length [t.fail, wr.fail] t.twin).outcome (latchAll wr.events s3)
      | .far rank window off =>
        let bs := match r.lig with | some l => applyLig l (keptBytes m) [] s1.freeCount | none => keptBytes m
        launch i qi q r off { writeMessage s1 i qi r w rank window off with src := none, body := bs, msgLen := bs.length }
          { s1 with freeCount := s1.freeCount + ligDraws r.lig (keptBytes m).length }
      | .fault => s1
  | _ => s1

/-- A READ is complete, or cut short by NAK CODE 6 with every packet before the failing one placed (R323, R336). -/
def checkRead (k : ConnKey) (psn : Nat) (s : State) : State :=
  match (findTx s k).bind fun c => c.msgs.find? fun m => m.ptype == 3 && m.packets.any fun t => t.psn == psn with
  | none => s
  | some m =>
    let n := packetCount 0x43 m.msgLen m.segBytes
    match m.cut with
    | some j =>
      if (List.range j).all m.got.contains then
        let s1 := modTx k (fun c => { c with msgs := c.msgs.filter fun x => !(x.packets.any fun t => t.psn == psn) }) s
        match m.owner with
        | .docket i qi ord =>
          let good := if m.dst.isSome then m.cutAt.getD (j * m.segBytes) else 0
          endMessage m (settledAs stDataError good m.failMem) (undefRead i qi ord good (flushRead i qi ord m.parts s1))
        | _ => s1
      else s
    | none => if m.got.length = n then finishRead k m s else s

/-- NAK at the sender (R336, R342). -/
def nakArrives (p : Packet) (s : State) : State :=
  let k := replyKey p
  let first := leNat (p.body.take 3)
  let code := leNat ((p.body.drop 4).take 1)
  let detail := leNat ((p.body.drop 5).take 2)
  let pidx := leNat ((p.body.drop 8).take 4)
  let s0 := modTx k (fun c => { c with answered := true, expires := s.clk.mono + 2 * life s }) s
  match (findTx s0 k).bind fun c => c.msgs.find? fun m => (m.packets.head?.map (·.psn)) == some first with
  | none => s0
  | some m =>
    let mark (f : TxMsg → TxMsg) (t : State) : State :=
      modTx k (fun c => { c with msgs := c.msgs.map fun x => if (x.packets.head?.map (·.psn)) = some first then f x else x }) t
    if code = 7 then mark (fun x => { x with rnrAt := some (s.clk.mono + rnrWait s) }) s0
    else if code = 0 ∨ 7 < code then s0
    else if code = 6 ∧ m.ptype = 3 then
      checkRead k first (mark (fun x => if (x.cut.any fun c => decide (c ≤ pidx)) then x else { x with
        cut := some pidx, cutAt := none, failMem := detail
        packets := x.packets.map fun t => { t with settled := true } }) s0)
    else
      endMessage m (nakOutcome code detail)
        (modTx k (fun c => { c with msgs := c.msgs.filter fun x => !((x.packets.head?.map (·.psn)) == some first) }) s0)

def execNak (p : Packet) (s : State) : Host.Outcome State Fault Refusal :=
  .next (if arrives s p 0x42 then nakArrives p (consume p s) else s)

/-- A READ_RESP at the requester: opened, placed once, counted (R323, R440). -/
def readRespArrives (p : Packet) (s : State) : State :=
  let k := replyKey p
  match (findTx s k).bind fun c => c.msgs.find? fun m => m.ptype == 3 && m.packets.any fun t => t.psn == p.psn with
  | none => s
  | some m =>
    match m.owner with
    | .docket i qi ord =>
      match runOf s i qi ord with
      | none => s
      | some (q, r) =>
        let w := runWords q r
        if m.got.contains p.pidx || p.msgLen != m.msgLen || hatchBlocks s i q r ||
            decide (packetCount 0x43 m.msgLen m.segBytes ≤ p.pidx) || p.sealed != m.sealKey.isSome then s
        else
          match openBody m.sealKey p with
          | none =>
            let s1 := { s with misc := { s.misc with authFails := satAdd 24 s.misc.authFails 1 } }
            let s2 := match (moveEnds r w).2 with
              | .near g a => let (wr, u) := writeSeg i g a (List.replicate (moveBytes r w) 0) s1; latchAll wr.events u
              | _ => s1
            settle i qi ord (settledAs stAuthFail 0 0)
              (modTx k (fun c => { c with msgs := c.msgs.map fun x => if x.owner = m.owner then { x with owner := .reply } else x }) s2)
          | some body =>
            let bs := body.take (payloadLen m.msgLen m.segBytes p.pidx)
            let note (x : TxMsg) : TxMsg := if x.owner = m.owner ∧ x.ptype = 3 then
              { x with got := x.got ++ [p.pidx], data := if m.dst.isSome then x.data else x.data ++ [(p.pidx, bs)] } else x
            let s1 := modTx k (fun c => { c with expires := s.clk.mono + 2 * life s, msgs := c.msgs.map note }) s
            match m.dst with
            | none => checkRead k p.psn s1
            | some a =>
              match findSeg r.segs a (dLen w) false true with
              | none => s1
              | some g =>
                let (ws, held) := packetWrites m.parts a (a + m.msgLen) (a + p.pidx * m.segBytes) bs
                let (fail, s2) := writeParts i g ws s1
                let failed (x : TxMsg) : TxMsg := match fail with
                  | some f => if x.cut.any fun c => decide (c ≤ p.pidx) then x
                      else { x with cut := some p.pidx, cutAt := some (f.1 - a), failMem := f.2 }
                  | none => x
                checkRead k p.psn (modTx k (fun c => { c with msgs := c.msgs.map fun x =>
                  if x.owner = m.owner ∧ x.ptype = 3 then failed { x with parts := held } else x }) s2)
    | _ => s

def execReadResp (p : Packet) (s : State) : Host.Outcome State Fault Refusal :=
  .next (if arrives s p 0x43 then readRespArrives p (consume p s) else s)

/-- An ATOMIC_RESP at the sender: the old value is kept until CUM_PSN covers the request (R334). -/
def atomicRespArrives (p : Packet) (s : State) : State :=
  let k := replyKey p
  let note (m : TxMsg) : TxMsg :=
    if m.ptype = 4 ∧ (m.packets.any (fun t => t.psn == p.psn)) = true then { m with response := some (wordAt p.body 0) } else m
  completeMessages k (modTx k (fun c => { c with msgs := c.msgs.map note }) s)

def execAtomicResp (p : Packet) (s : State) : Host.Outcome State Fault Refusal :=
  .next (if arrives s p 0x44 then atomicRespArrives p (consume p s) else s)

/-! ### Timers -/

/-- ACK_DELAY_EXPIRY (R335). -/
def ackDelayExpiry (k : ConnKey) (s : State) : State :=
  match (findRx s k).bind (·.ackDue) with
  | some t => if running s then sendAck k (waitMono t s) else s
  | none => s

def execAckDelayExpiry (k : ConnKey) (s : State) : Host.Outcome State Fault Refusal := .next (ackDelayExpiry k s)

/-- Start the failure of a connection (R343). -/
def startFailure (k : ConnKey) (s : State) : State :=
  modDlv (fun d => { d with failed := satAdd 16 d.failed 1 }) (modTx k (fun c => { c with failAt := some (failTime s) }) s)

/-- RTO_EXPIRY: a packet is not covered when rto has passed since its last sending (R341 to R343); while its message waits
after an RNR, RNR_WAIT takes the place of rto. -/
def rtoExpiry (k : ConnKey) (psn : Nat) (s : State) : State :=
  match findTx s k with
  | none => s
  | some c =>
    match (ctxPackets c).find? fun p => p.2.psn == psn && p.2.sent && !p.2.lost && !stopped s p.1 &&
        p.1.rnrAt.isNone && ((!p.2.settled && !p.2.sacked) || unanswered p.1) with
    | none => s
    | some (_, t) =>
      if c.failAt.isSome || !running s then s
      else
        let s1 := waitMono t.due s
        let s2 := modDlv (fun d => { d with timeouts := satAdd 16 d.timeouts 1 }) s1
        let isOldest := match oldest c with | some o => o.2.psn == psn | none => true
        if isOldest && decide (retryLimit s ≤ t.resends) then startFailure k s2
        else
          modTx k (fun x => { x with
            backoff := min (2 * x.backoff) 256
            rate := if k.vc = 8 then x.rate else max (rMin s) (x.rate / 2)
            tDec := s2.clk.mono
            msgs := x.msgs.map fun m => { m with packets := m.packets.map fun y =>
              if y.psn = psn then { y with lost := true } else y } }) s2

def execRtoExpiry (k : ConnKey) (psn : Nat) (s : State) : Host.Outcome State Fault Refusal :=
  .next (if k.vc < 16 then rtoExpiry k psn s else s)

/-- RNR_RESEND: RNR_WAIT after an RNR the message goes out again from PIDX 0; each RNR counts for RETRY_LIMIT (R342). -/
def rnrResend (k : ConnKey) (psn : Nat) (s : State) : State :=
  match (findTx s k).bind fun c => c.msgs.find? fun m => m.packets.any fun t => t.psn == psn with
  | none => s
  | some m =>
    match m.rnrAt with
    | none => s
    | some t =>
      let s1 := waitMono t s
      let worn := m.packets.any fun y => decide (retryLimit s ≤ y.resends)
      let mark (x : TxMsg) : TxMsg := if x.packets.any (fun y => y.psn == psn) then
        { x with rnrAt := none, packets := x.packets.map fun y => { y with lost := y.sent && !y.settled } } else x
      if worn then startFailure k s1 else modTx k (fun c => { c with msgs := c.msgs.map mark }) s1

def execRnrResend (k : ConnKey) (psn : Nat) (s : State) : Host.Outcome State Fault Refusal := .next (rnrResend k psn s)

/-- CONNECTION_FAIL: the wait of R343 is over; every outstanding docket of the connection ends with UNREACHABLE, or the one
whose slot is exhausted (R437). -/
def connectionFail (k : ConnKey) (s : State) : State :=
  match findTx s k with
  | none => s
  | some c =>
    match c.failAt with
    | none =>
      match c.msgs.find? fun m => m.wornAt.isSome with
      | some m => admitWaits (noRouteEnds k m (waitMono (m.wornAt.getD 0) s))
      | none => s
    | some t =>
      let s1 := modDlv (fun d => { d with tx := d.tx.filter fun x => x.key != k }) (waitMono t s)
      admitWaits (each c.msgs (fun m u =>
        match m.owner with
        | .docket i qi ord =>
          settle i qi ord { settledAs stUnreachable 0 (m.rank % 65536) with twin := m.twin } (undefBegun i qi ord m u)
        | _ => u) s1)

def execConnectionFail (k : ConnKey) (s : State) : Host.Outcome State Fault Refusal := .next (connectionFail k s)

/-- RX_CONTEXT_EXPIRY: LIFE has passed without a packet (R329). -/
def rxContextExpiry (k : ConnKey) (s : State) : State :=
  match findRx s k with
  | none => s
  | some c =>
    let s1 := waitMono c.expires s
    let s2 := each c.msgs unreserve s1
    reclaim (modDlv (fun d => { d with
      rx := d.rx.filter fun x => x.key != k
      mapsFree := if c.map then d.mapsFree + 1 else d.mapsFree }) s2)

def execRxContextExpiry (k : ConnKey) (s : State) : Host.Outcome State Fault Refusal := .next (rxContextExpiry k s)

/-- TX_CONTEXT_EXPIRY: 2 × LIFE has passed with no packet outstanding (R329). -/
def txContextExpiry (k : ConnKey) (s : State) : State :=
  match findTx s k with
  | none => s
  | some c =>
    if c.msgs.all (fun m => allSettled m && !unanswered m) && c.failAt.isNone then
      admitWaits (modDlv (fun d => { d with tx := d.tx.filter fun x => x.key != k }) (waitMono c.expires s))
    else s

def execTxContextExpiry (k : ConnKey) (s : State) : Host.Outcome State Fault Refusal :=
  .next (if k.vc < 16 then txContextExpiry k s else s)

/-- RESPONSE_RECORD_EXPIRY: an entry is freed (R337). -/
def responseRecordExpiry (k : ConnKey) (entry : Nat) (s : State) : State :=
  match findRx s k with
  | none => s
  | some c =>
    match c.record[entry]? with
    | none => s
    | some e =>
      let passed := coveredBy c.cum e.psn && decide (65536 < (c.cum + 2 ^ 24 - e.psn) % 2 ^ 24)
      let s1 := if passed then s else waitMono e.expires s
      modRx k (fun x => { x with record := x.record.take entry ++ x.record.drop (entry + 1) }) s1

def execResponseRecordExpiry (k : ConnKey) (entry : Nat) (s : State) : Host.Outcome State Fault Refusal :=
  .next (responseRecordExpiry k entry s)

end Sys2Proof.Machine
end

