-- ==== Sys2Proof/Machine/Queues.lean ====
section
/-! DEFINITION. Queue commands and queue events (04_queues_rings.md R86 to R115): one meaning for each. -/
namespace Sys2Proof.Machine

/-! ### The queue command registers (R86) -/

/-- Whether an instance page takes a command: the device is RUNNING and awake and the instance has a slot (R413, R416,
R476). The command comes by a route that reaches the page: BAR2 of its function or the manager's view (log entry 8). -/
def pageOpen (s : State) (i : Nat) : Bool := running s && (slotOf s i).isSome

/-- RESULT codes of QC_STATUS. -/
def qcOk : Nat := 0
def qcRange : Nat := 2
def qcQuota : Nat := 3
def qcExists : Nat := 4
def qcAbsent : Nat := 5
def qcState : Nat := 6
def qcUnsupported : Nat := 7
def qcAlign : Nat := 8
def qcSegment : Nat := 9
def qcData : Nat := 10
def qcBusy : Nat := 1

/-- A command's result in QC_STATUS: BUSY is clear again. -/
def qcAnswer (i qi result : Nat) (s : State) : State :=
  modRegs i (fun r => { r with qcStatus := resultWord result qi 20 }) s

/-- The outcome of a queue command: nothing happens where the page does not answer. -/
def qcCommand (i qi : Nat) (f : State → State) (s : State) : Host.Outcome State Fault Refusal :=
  .next (if pageOpen s i && decide (qi < 1048576) then f s else s)

/-- The queue descriptor that 8 words hold (R87). -/
def descOf (w : List Word) : QDesc where
  docketBase := (wd w 0).toNat
  receiptBase := (wd w 1).toNat
  ringCode := fld (wd w 2) 0 5
  v1 := bit (wd w 2) 5
  planned := bit (wd w 2) 6
  epValid := bit (wd w 2) 7
  endpoint := fld (wd w 2) 8 6
  depth := fld (wd w 2) 14 3 + 1
  sweepSel := bit (wd w 2) 17
  sweepCount := fld (wd w 2) 18 4
  msix := fld (wd w 2) 32 16

/-- A non-zero reserved field of a share (R373). -/
def shareReserved (w : Word) : Bool := fld w 2 6 != 0 || fld w 56 8 != 0

/-- A non-zero reserved field of a descriptor. -/
def descReserved (w : List Word) : Bool :=
  fld (wd w 2) 22 10 != 0 || fld (wd w 2) 48 16 != 0 || shareReserved (wd w 3) ||
    (List.range 4).any fun k => wd w (4 + k) != 0

/-- RANGE findings of CREATE (R88, R415). -/
def descRange (s : State) (i : Nat) (w : List Word) : Bool :=
  let d := descOf w
  decide (d.ringCode < 3) || decide (16 < d.ringCode) || descReserved w ||
    decide (((slotOf s i).map (·.msixCount)).getD 0 ≤ d.msix) ||
    (d.epValid && !(match tget s.endpoints d.endpoint with | some e => e.valid && e.inst == i | none => false)) ||
    (d.planned && d.v1)

/-- A ring lies in one enabled segment that the device may read and write and that is no remote window (R88). -/
def ringOk (x : Inst) (a n : Nat) : Bool :=
  match findSeg x.segs a n true true with
  | some g => decide (g.kind < 4)
  | none => false

/-- The first finding of CREATE after the descriptor has been read (R88). -/
def createFinding (s : State) (i qi : Nat) (w : List Word) : Option Nat :=
  let d := descOf w
  let x := getInst s i
  if descRange s i w then some qcRange
  else if fld (wd x.record 0) 0 21 ≤ x.queues.length ∨ queueCapacity s ≤ (allQueues s).length then some qcQuota
  else if (tget x.queues qi).isSome then some qcExists
  else if d.docketBase % 4096 ≠ 0 ∨ d.receiptBase % 4096 ≠ 0 ∨ (d.planned ∧ d.docketBase ≠ 0) then some qcAlign
  else if (¬ d.planned ∧ ¬ ringOk x d.docketBase (2 ^ d.ringCode * (if d.v1 then 32 else 64))) ∨
      ¬ ringOk x d.receiptBase (2 ^ d.ringCode * 32) then some qcSegment
  else none

/-- A new queue: ACTIVE, indices 0, prefetch empty, share and shadow from the descriptor (R90, R376, R383, R409). -/
def newQueue (d : QDesc) (home : Nat) (share : Word) : Queue where
  desc := d
  home := home
  st := .active
  heldFrom := .active
  si := 0
  ci := 0
  wi := 0
  ri := 0
  receiptFull := false
  badRelease := false
  fetchErr := false
  errIndex := 0
  errCount := 0
  fetchStop := none
  scanWaits := false
  sweep := none
  fetched := []
  runs := []
  retired := []
  neverStarted := []
  waiting := []
  hold := none
  bell := false
  reserved := 0
  record := []
  cached := false
  lastUse := 0
  share := share
  shadow := share
  tt := 0
  tag := 0
  place := .none
  unfinished := []
  charged := 0
  modCfg := 0
  counted := 0
  countedAt := none
  modDue := none
  dueWaits := false

/-- CREATE (R88 to R90). -/
def createQueue (i qi : Nat) (s : State) : State :=
  let x := getInst s i
  let a := x.regs.qcDesc.toNat / 64 * 64
  if x.st = .resetting then qcAnswer i qi qcState s
  else
    match findSeg x.segs a 64 true false with
    | none => qcAnswer i qi qcSegment s
    | some g =>
      if 4 ≤ g.kind then qcAnswer i qi qcSegment s
      else
        let (r, s1) := readSeg i g a 64 s
        let s2 := latchAll r.events s1
        if r.fail.isSome then qcAnswer i qi qcData s2
        else
          let w := wordsOf r.bytes 8
          match createFinding s2 i qi w with
          | some f => qcAnswer i qi f s2
          | none =>
            qcAnswer i qi qcOk (modInst i (fun y =>
              { y with queues := tset y.queues qi (newQueue (descOf w) (fnOf s i).hatch (wd w 3)) }) s2)

/-- CREATE, a QC_OP write with OP 1. -/
def execQcCreate (i qi : Nat) (s : State) : Host.Outcome State Fault Refusal :=
  qcCommand i qi (createQueue i qi) s

/-- A FENCE that waits for earlier dockets has not completed, so a drain reaches it (R44, R111). -/
def reopenFence (q : Queue) (r : Run) : Run :=
  if dOp (view q.desc.v1 r.words) = opFence ∧ earlierDone q r = false then { r with outcome := none } else r

/-- DRAIN (R90, R110): fetching stops at once. -/
def drainQueue (i qi : Nat) (s : State) : State :=
  match getQueue s i qi with
  | none => qcAnswer i qi qcAbsent s
  | some q =>
    if q.st = .active ∨ q.st = .error then
      if !tracks s then qcAnswer i qi qcUnsupported s
      else
        qcAnswer i qi qcOk (settleDrain i qi (modQueue i qi (fun y =>
          { y with st := .draining, sweep := none, scanWaits := false, fetchStop := none, place := .none,
                   runs := y.runs.map (reopenFence y) }) s))
    else qcAnswer i qi qcState s

/-- DRAIN, a QC_OP write with OP 2. -/
def execQcDrain (i qi : Nat) (s : State) : Host.Outcome State Fault Refusal :=
  qcCommand i qi (drainQueue i qi) s

/-- SI after RESUME (R109): the retired count of ERR_INDEX, with its wrap, and one more unless FETCH_ERR is set. -/
def resumeIndex (q : Queue) : Nat := (q.errCount + (if q.fetchErr then 0 else 1)) % (2 * ringSize q)

/-- A scan that no doorbell asked for (R109, R412) loads its queue's context like one (R115): where none can be evicted, the
scan is recorded and runs later. -/
def scanLoaded (i qi : Nat) (s : State) : State :=
  let (ok, s1) := loadContext i qi s
  if ok then scan i qi none (modQueue i qi (fun q => { q with bell := false }) s1) else s1

/-- RESUME (R90, R109). -/
def resumeQueue (i qi : Nat) (s : State) : State :=
  match getQueue s i qi with
  | none => qcAnswer i qi qcAbsent s
  | some q =>
    if q.st = .error then
      scanLoaded i qi (qcAnswer i qi qcOk (modQueue i qi (fun y =>
        { y with st := .active, fetched := [], si := resumeIndex y, fetchErr := false, fetchStop := none }) s))
    else qcAnswer i qi qcState s

/-- RESUME, a QC_OP write with OP 3. -/
def execQcResume (i qi : Nat) (s : State) : Host.Outcome State Fault Refusal :=
  qcCommand i qi (fun t => placeAll (resumeQueue i qi t)) s

/-- Whether an ACTIVE queue may be destroyed (R90): nothing fetched, started or awaiting a receipt, and no owned slot at SI;
a slot that cannot be read counts as owned (log entry 13). -/
def idleQueue (i : Nat) (q : Queue) (s : State) : Bool :=
  q.fetched.isEmpty && q.runs.isEmpty && q.waiting.isEmpty && q.record.isEmpty &&
    (q.desc.planned || (readSlot i q s).1 == .notOwned)

/-- DESTROY (R90). -/
def destroyQueue (i qi : Nat) (s : State) : State :=
  match getQueue s i qi with
  | none => qcAnswer i qi qcAbsent s
  | some q =>
    let gone := modInst i (fun x => { x with queues := tdel x.queues qi }) s
    if q.st = .stopped then qcAnswer i qi qcOk gone
    else if q.st = .active then
      if idleQueue i q s then qcAnswer i qi qcOk gone else qcAnswer i qi qcBusy s
    else qcAnswer i qi qcState s

/-- DESTROY, a QC_OP write with OP 4. -/
def execQcDestroy (i qi : Nat) (s : State) : Host.Outcome State Fault Refusal :=
  qcCommand i qi (destroyQueue i qi) s

/-- The receipt of a recorded outcome (R403 step 1). -/
def heldReceipt (h : HeldRec) : Receipt :=
  { kind := 0, index := h.run.slot % 65536, tag := fld (wd h.run.words 0) 32 32,
    out := heldResumed h.out,
    late := h.late, tickLo := h.tickLo, subtick := h.subtick, signal := bit (wd h.run.words 0) 2 }

/-- Step 1 of R403 for one recorded docket: OWN cleared, receipt written, slot retired. -/
def replayRecord (i qi : Nat) (h : HeldRec) (s : State) : State :=
  let s1 := match getQueue s i qi with | some q => clearAfter i qi q h.run s | none => s
  let w := match getQueue s i qi with | some q => view q.desc.v1 h.run.words | none => h.run.words
  let s2 := collReceipt i h.run.ord w h.out
    (writeReceipt i qi (heldReceipt h) (modQueue i qi (fun q => { q with record := q.record.drop 1 }) s1))
  markHolds i qi h.run.slot (modQueue i qi (fun q => if h.run.planned then q else retire h.run.slot q) s2)

/-- Step 2 of R403: interrupted dockets start again, in ring order, with their bindings. -/
def reexecute (s : State) (q : Queue) : Queue :=
  { q with runs := (q.runs.filter fun r => !r.interrupted) ++
      (q.runs.filter (·.interrupted)).map fun r =>
        { r with interrupted := false, resumed := true, executed := false, started := true, outcome := none,
                 startTick := tickNow s, press := none } }

/-- ARM (R90, R403, R412). -/
def armQueue (i qi : Nat) (s : State) : State :=
  match getQueue s i qi with
  | none => qcAnswer i qi qcAbsent s
  | some q =>
    let c := getFn s { fnOf s i with hatch := q.home }
    if q.st = .held ∧ (getHatch s q.home).link = .up ∧ c.memSpace ∧ c.busMaster then
      let s0 := modHatch q.home (fun h => { h with armed := true }) s
      let s1 := modQueue i qi (fun y => { y with st := y.heldFrom }) s0
      let s2 := each q.record (replayRecord i qi) s1
      let s3 := settleDrain i qi (modQueue i qi (reexecute s2) s2)
      let s4 := if q.dueWaits then raiseQueue i qi (modQueue i qi (fun y => { y with dueWaits := false }) s3) else s3
      let s5 := if q.bell then scanLoaded i qi s4 else s4
      qcAnswer i qi qcOk (reclaim s5)
    else qcAnswer i qi qcState s

/-- ARM, a QC_OP write with OP 5. -/
def execQcArm (i qi : Nat) (s : State) : Host.Outcome State Fault Refusal :=
  qcCommand i qi (fun t => placeAll (armQueue i qi t)) s

/-- QUERY (R86, R90): QC_RESULT0 and QC_RESULT1 of one instant; an ABSENT queue reads 0. -/
def queryQueue (i qi : Nat) (s : State) : State :=
  qcAnswer i qi qcOk (modRegs i (fun r => { r with
    qcRes0 := match getQueue s i qi with | some q => qcResult0 q | none => 0
    qcRes1 := match getQueue s i qi with | some q => qcResult1 q | none => 0 }) s)

/-- QUERY, a QC_OP write with OP 6. -/
def execQcQuery (i qi : Nat) (s : State) : Host.Outcome State Fault Refusal :=
  qcCommand i qi (queryQueue i qi) s

/-! ### Scans that need no doorbell (R102, R103, R115) -/

/-- SCAN_CONTINUE: a scan stopped by depth or ring room goes on (R102). -/
def scanAgain (i qi : Nat) (s : State) : State :=
  match getQueue s i qi with
  | some q => if q.scanWaits then placeAll (scan i qi none s) else s
  | none => s

def execScanContinue (i qi : Nat) (s : State) : Host.Outcome State Fault Refusal := .next (scanAgain i qi s)

/-- SWEEP_RESCAN: the next re-scan of a late-write sweep, at its time (R103). -/
def sweepAgain (i qi : Nat) (s : State) : State :=
  match getQueue s i qi with
  | some q =>
    match q.sweep with
    | some w => placeAll (scan i qi (some w) (waitMono w.due s))
    | none => s
  | none => s

def execSweepRescan (i qi : Nat) (s : State) : Host.Outcome State Fault Refusal := .next (sweepAgain i qi s)

/-- DEFERRED_SCAN: the scan of a doorbell recorded while no context could be evicted (R115). -/
def scanDeferred (i qi : Nat) (s : State) : State :=
  match getQueue s i qi with
  | some q =>
    if q.bell && mayFetch s q then
      let (ok, s1) := loadContext i qi s
      if ok then placeAll (scan i qi none (modQueue i qi (fun y => { y with bell := false }) s1)) else s
    else s
  | none => s

def execDeferredScan (i qi : Nat) (s : State) : Host.Outcome State Fault Refusal := .next (scanDeferred i qi s)

/-- QUEUE_FETCH_ERROR: every docket fetched before the failing slot has started, so the queue enters ERROR (R93). -/
def fetchError (i qi : Nat) (s : State) : State :=
  match getQueue s i qi with
  | some q =>
    match q.fetchStop with
    | some slot =>
      if q.st = .active ∧ q.fetched.isEmpty ∧ q.runs.all (·.started) then
        raiseQueue i qi (modQueue i qi (fun y =>
          { latchError slot true y with st := .error, place := .none }) s)
      else s
    | none => s
  | none => s

def execQueueFetchError (i qi : Nat) (s : State) : Host.Outcome State Fault Refusal := .next (fetchError i qi s)

/-! ### Releases and waiting receipts (R98 to R100) -/

/-- A release word is accepted: its bits above RING_CODE are 0 and it does not pass WI (R98). -/
def releaseOk (q : Queue) (value : Word) : Bool :=
  decide (value.toNat < 2 * ringSize q) && decide (ringDiff q value.toNat q.ri ≤ ringDiff q q.wi q.ri)

/-- RELEASE_WORD (R98, R99). -/
def release (i qi : Nat) (value : Word) (s : State) : State :=
  placeAll (modQueue i qi (fun q =>
    if releaseOk q value then
      let y := { q with ri := value.toNat, badRelease := false }
      { y with receiptFull := y.receiptFull && !receiptRoom y }
    else { q with badRelease := true }) s)

def execReleaseWord (i qi : Nat) (value : Word) (s : State) : Host.Outcome State Fault Refusal :=
  .next (if pageOpen s i then release i qi value s else s)

/-- PENDING_RECEIPT_WRITE: the first waiting receipt takes a slot that a release provided (R100). -/
def writeWaiting (i qi : Nat) (s : State) : State :=
  match getQueue s i qi with
  | some q =>
    match q.waiting with
    | r :: rest =>
      if receiptRoom q && receiptsFlow s i q then
        placeAll (settleDrain i qi (writeEnd i qi r (modQueue i qi (fun y => { y with waiting := rest }) s)))
      else s
    | [] => s
  | none => s

def execPendingReceiptWrite (i qi : Nat) (s : State) : Host.Outcome State Fault Refusal := .next (writeWaiting i qi s)

/-- MODERATION_TIMEOUT: TIME has run since the first counted receipt (R409). -/
def moderationDue (i qi : Nat) (s : State) : State :=
  match getQueue s i qi with
  | some q =>
    match q.modDue with
    | some t => raiseQueue i qi (waitMono t s)
    | none => s
  | none => s

def execModerationTimeout (i qi : Nat) (s : State) : Host.Outcome State Fault Refusal := .next (moderationDue i qi s)

/-- MSIX_UNMASK: the host clears the mask of an entry, or of the whole function; pending messages are then sent (R408). -/
def unmask (f : Fn) (entry : Option Nat) (s : State) : State :=
  let c := getFn s f
  match entry with
  | some e =>
    let s1 := modFn f (fun x => { x with unmasked := addNew x.unmasked e, pendingBits := x.pendingBits.filter (· != e) }) s
    if c.pendingBits.contains e then sendMsix f e s1 else s1
  | none =>
    let ready := c.pendingBits.filter fun e => c.unmasked.contains e
    let left := c.pendingBits.filter fun e => !c.unmasked.contains e
    let s1 := modFn f (fun x => { x with msixMask := false, pendingBits := left }) s
    each ready (sendMsix f) s1

def execMsixUnmask (f : Fn) (entry : Option Nat) (s : State) : Host.Outcome State Fault Refusal := .next (unmask f entry s)

end Sys2Proof.Machine
end

