-- ==== Sys2Proof/Machine/Tally.lean ====
section
/-! DEFINITION. Tallies and their sync-plane messages: TALLY_ADD, TALLY_WAIT and its patience, the tally commands of the
instance page, the remote add and its acknowledgements (05_dockets_receipts.md R131, R132; 07_galley.md R174, R184;
11_collectives.md R290 to R294; 13_delivery_congestion.md R346). -/
namespace Sys2Proof.Machine

/-! ### The two copies of a tally (R174, R184) -/

/-- Device tally behind an instance's tally index (R413). -/
def tallyNo (s : State) (i n : Nat) : Nat := ((slotOf s i).map (·.tallyBase)).getD 0 + n

/-- A galley event about a tally: its SOURCE is the shared bank of its first copy. -/
def tallyEvent (kind level n : Nat) : Event :=
  let ga := 0x13C00000 + 8 * n
  event 1 kind level (100 + (ga - 0x10000000) / 64 % 64) ga

/-- The value of a device tally. -/
def tallyValue (s : State) (n : Nat) : Word := (tget s.galley.tallies n).getD 0

/-- Write both copies of a tally without reading them (R174). -/
def putTally (n : Nat) (v : Word) (s : State) : State :=
  modGalley (fun g => { g with tallies := tset g.tallies n v, tallyFailed := tdel g.tallyFailed n }) s

/-- Read a tally (R174, R184): served from the second copy where the first fails, 0 where both do. The flag tells that both
failed. -/
def readTally (n : Nat) (s : State) : Bool × Word × State :=
  match (tget s.galley.tallyFailed n).getD 0 with
  | 0 => (false, tallyValue s n, s)
  | 1 => (false, tallyValue s n, latch (tallyEvent 5 1 n) (modGalley (fun g => { g with tallyFailed := tdel g.tallyFailed n }) s))
  | 2 => (false, tallyValue s n, s)
  | _ => (true, 0, latch (tallyEvent 6 3 n) (putTally n 0 s))

/-! ### Waits (R132, R291, R293) -/

/-- V − TARGET ≥ 0 as a signed 64-bit difference. -/
def tallyReached (v target : Word) : Bool := decide (0 ≤ (v - target).toInt)

/-- A started wait on a tally of its instance that has not ended. -/
def waitsOn (q : Queue) (n : Nat) (r : Run) : Bool :=
  let w := runWords q r
  dOp w == opTallyWait && r.executed && r.outcome.isNone && r.freedTally.isNone && dTally w == n

/-- Started TALLY_WAIT dockets of the device. -/
def waitsStarted (s : State) : Nat :=
  sumOf (fun p => (p.2.2.runs.filter fun r => dOp (runWords p.2.2 r) == opTallyWait && r.executed && r.outcome.isNone).length)
    (allQueues s)

/-- Settle the waits of a tally that a condition picks. -/
def endWaits (i n : Nat) (pick : List Word → Bool) (out : Settled) (s : State) : State :=
  modInst i (fun x => { x with queues := tmap x.queues fun _ q =>
    { q with runs := q.runs.map fun r =>
        if waitsOn q n r && pick (runWords q r) then { r with outcome := some out } else r } }) s

/-- After one change of a tally every started wait on it is tested (R291). -/
def testWaits (i n : Nat) (v : Word) (s : State) : State :=
  endWaits i n (fun w => tallyReached v (wd w 6)) { settledAs stOk 0 0 with extra := v } s

/-- Both copies failed: every started wait ends with DATA_ERROR, DETAIL 5 (R293). -/
def failWaits (i n : Nat) (s : State) : State := endWaits i n (fun _ => true) (settledAs stDataError 0 5) s

/-- Read a tally of an instance; where both copies fail its waits end (R293). -/
def readTallyOf (i n : Nat) (s : State) : Bool × Word × State :=
  let (both, v, s1) := readTally (tallyNo s i n) s
  (both, v, if both then failWaits i n s1 else s1)

/-- Add to a tally of an instance, indivisibly, writing both copies, and test its waits: the value after the add, and the
state. -/
def addTally (i n : Nat) (addend : Word) (s : State) : Word × State :=
  let k := tallyNo s i n
  let (_, v, s2) := readTallyOf i n s
  let v1 := v + addend
  (v1, testWaits i n v1 (putTally k v1 s2))

/-! ### TALLY_ADD and TALLY_WAIT -/

/-- Send a request-half message of VC 8 (R294, R300, R346). -/
def syncMessage (s : State) (owner : Owner) (job ptype : Nat) (h3 : Word) (body : List Byte) (rank : Nat) : TxMsg where
  owner := owner
  ptype := ptype
  job := job
  h3 := h3
  msgLen := body.length
  notify := false
  imm := 0
  sealKey := none
  segBytes := segBytes s
  src := none
  body := body
  packets := []
  rank := rank
  dst := none
  got := []
  data := []
  cut := none
  cutAt := none
  parts := []
  response := none
  twin := false
  voidFrom := none
  failMem := 0
  rnrAt := none
  wornAt := none

/-- TALLY_ADD (R131). -/
def tallyAdd (i qi : Nat) (q : Queue) (r : Run) (s : State) : State :=
  let w := runWords q r
  if bit (wd w 0) 16 then
    match runRank r (dRank w) with
    | none => settle i qi r.ord (settledAs stUnreachable 0 (dRank w % 65536)) s
    | some t =>
      let k := connTo s q 8 t
      if !hasRoute s t.1 8 || (framePort s t.1).isSome then settle i qi r.ord (settledAs stUnreachable 0 (dRank w % 65536)) s
      else if !txReady s k then s
      else
        markExecuted i qi r.ord (addMessage k 1 (syncMessage s (.docket i qi r.ord) (runJob r) 0x81 0
          (leBytes 4 (dTally w) ++ wordBytes (wd w 6)) (dRank w)) s)
  else
    let (v, s1) := addTally i (dTally w) (wd w 6) (galleyAccess mQueue (some 1) s)
    settle i qi r.ord { settledAs stOk 0 0 with extra := v } s1

def execTallyAdd (d : DRef) (s : State) : Host.Outcome State Fault Refusal :=
  .next (startDocket d opTallyAdd (tallyAdd d.inst d.queue) s)

/-- TALLY_WAIT (R132): it completes at once where its condition holds already; beyond 65,536 started waits it waits to start
(R291). -/
def tallyWait (i qi : Nat) (q : Queue) (r : Run) (s : State) : State :=
  let w := runWords q r
  if 65536 ≤ waitsStarted s then modRun i qi r.ord (fun x => { x with heldBack := true }) s
  else
    let s0 := if r.heldBack then modRun i qi r.ord (fun x => { x with heldBack := false, startTick := tickNow s }) s else s
    let (both, v, s2) := readTallyOf i (dTally w) (galleyAccess mQueue (some 1) s0)
    if both then settle i qi r.ord (settledAs stDataError 0 5) s2
    else if tallyReached v (wd w 6) then settle i qi r.ord { settledAs stOk 0 0 with extra := v } s2
    else markExecuted i qi r.ord s2

def execTallyWait (d : DRef) (s : State) : Host.Outcome State Fault Refusal :=
  .next (startDocket d opTallyWait (tallyWait d.inst d.queue) s)

/-- TALLY_WAIT_PATIENCE: the condition has not held by the edge of tick S + p (R132). -/
def tallyPatience (d : DRef) (s : State) : State :=
  match getQueue s d.inst d.queue with
  | none => s
  | some q =>
    match q.runs.find? (fun r => r.slot == d.slot && dOp (runWords q r) == opTallyWait && r.executed && r.outcome.isNone) with
    | none => s
    | some r =>
      let w := runWords q r
      if ticking s && decide (r.startTick + dPatience w ≤ tickNow s) then
        match r.freedTally with
        | some v => settle d.inst d.queue r.ord { settledAs stLaggard 0 0 with extra := v } s
        | none =>
          let (both, v, s1) := readTallyOf d.inst (dTally w) (galleyAccess mQueue (some 1) s)
          if both then s1 else settle d.inst d.queue r.ord { settledAs stLaggard 0 0 with extra := v } s1
      else s

def execTallyWaitPatience (d : DRef) (s : State) : Host.Outcome State Fault Refusal := .next (tallyPatience d s)

/-! ### Tally commands of the instance page (R290) -/

def tlOk : Nat := 0
def tlBusy : Nat := 1
def tlRange : Nat := 2
def tlExists : Nat := 4
def tlAbsent : Nat := 5

/-- A command's result in TALLY_STATUS. -/
def tallyAnswer (i n result : Nat) (s : State) : State :=
  modRegs i (fun r => { r with tallyStatus := resultWord result n 18 }) s

/-- A tally command: discarded where the page does not answer, BUSY while the instance is RESETTING (R425). -/
def tallyCommand (i n : Nat) (f : State → State) (s : State) : Host.Outcome State Fault Refusal :=
  .next (if pageOpen s i && decide (n < 262144) then
      (if (getInst s i).st = .resetting then tallyAnswer i n tlBusy s else f s)
    else s)

/-- TALLY_COUNT (R421). -/
def tallyCount (x : Inst) : Nat := fld (wd x.record 0) 38 19

def tallyAlloc (i n : Nat) (remoteOk : Bool) (s : State) : State :=
  let x := getInst s i
  if tallyCount x ≤ n then tallyAnswer i n tlRange s
  else if (tget x.tallies n).isSome then tallyAnswer i n tlExists s
  else
    tallyAnswer i n tlOk (putTally (tallyNo s i n) x.regs.tallyValue
      (modInst i (fun y => { y with tallies := tset y.tallies n remoteOk }) s))

def execTallyAlloc (i n : Nat) (remoteOk : Bool) (s : State) : Host.Outcome State Fault Refusal :=
  tallyCommand i n (tallyAlloc i n remoteOk) s

/-- FREE: started waits run on with the value the tally had (R29). -/
def tallyFree (i n : Nat) (s : State) : State :=
  let x := getInst s i
  if (tget x.tallies n).isNone then tallyAnswer i n tlAbsent s
  else
    let (_, v, s1) := readTallyOf i n s
    let detach (q : Queue) (r : Run) : Run := if waitsOn q n r then { r with freedTally := some v } else r
    tallyAnswer i n tlOk (modInst i (fun y => { y with
      tallies := tdel y.tallies n
      queues := tmap y.queues fun _ q => { q with runs := q.runs.map (detach q) } }) s1)

def execTallyFree (i n : Nat) (s : State) : Host.Outcome State Fault Refusal := tallyCommand i n (tallyFree i n) s

def tallySet (i n : Nat) (s : State) : State :=
  let x := getInst s i
  if (tget x.tallies n).isNone then tallyAnswer i n tlAbsent s
  else tallyAnswer i n tlOk (testWaits i n x.regs.tallyValue (putTally (tallyNo s i n) x.regs.tallyValue s))

def execTallySet (i n : Nat) (s : State) : Host.Outcome State Fault Refusal := tallyCommand i n (tallySet i n) s

def tallyRead (i n : Nat) (s : State) : State :=
  let x := getInst s i
  if (tget x.tallies n).isNone then tallyAnswer i n tlAbsent s
  else
    let (_, v, s2) := readTallyOf i n s
    tallyAnswer i n tlOk (modRegs i (fun r => { r with tallyValue := v }) s2)

def execTallyRead (i n : Nat) (s : State) : Host.Outcome State Fault Refusal := tallyCommand i n (tallyRead i n) s

/-! ### Sync-plane requests at their target (R346) -/

/-- Answer a request of VC 8. -/
def syncReply (p : Packet) (ptype : Nat) (body : List Byte) (s : State) : State :=
  inject (replyPacket s (keyOf p) ptype p.psn body.length 0 true body) s

/-- Answer a duplicate: from the response record, or with SYNC_ACK for a type whose answer holds nothing. -/
def answerSync (p : Packet) (s : State) : State :=
  match (findRx s (keyOf p)).bind fun c => c.record.find? (fun e => e.psn == p.psn) with
  | some e => syncReply p e.ptype e.body s
  | none => if p.ptype = 0x81 ∨ p.ptype = 0x87 then s else syncReply p 0xC2 [] s

/-- Keep an answer in the response record; false where no entry is free. -/
def recordSync (p : Packet) (ptype : Nat) (body : List Byte) (s : State) : State :=
  modRx (keyOf p) (fun c => { c with
    record := c.record ++ [{ psn := p.psn, count := 1, expires := s.clk.mono + life s, ptype := ptype, body := body }] }) s

/-- Room in a connection's response record. -/
def recordRoom (k : ConnKey) (s : State) : Bool :=
  match findRx s k with | some c => decide (c.record.length < 32) | none => false

/-- Settle a request of VC 8 at its target. -/
def settleSync (p : Packet) (s : State) : State :=
  let k := keyOf p
  settlePsns k [p.psn] (modRx k (fun c => { c with placed := addNew c.placed p.psn }) s)

/-- Take a request of VC 8 into its receive context: a duplicate is answered again (R346). -/
def admitSync (p : Packet) (fresh : State → State) (s : State) : State := admitTo p fresh (answerSync p) (answerSync p) s

/-- Result of a remote TALLY_ADD (R292): 0 applied, 1 job, 2 endpoint, 3 tally. -/
def tallyCheck (s : State) (p : Packet) : Nat × Nat :=
  let n := leNat (p.body.take 4) % 2 ^ 18
  match tget s.endpoints p.dstEp with
  | none => (2, 0)
  | some e =>
    let x := getInst s e.inst
    if !e.valid then (2, 0)
    else if e.job ≠ p.job then (1, e.inst)
    else if x.st ≠ .active then (2, e.inst)
    else match tget x.tallies n with
      | some true => (0, e.inst)
      | _ => (3, e.inst)

/-- TALLY_ADD at its target. -/
def tallyAddArrives (p : Packet) (s : State) : State :=
  if !recordRoom (keyOf p) s then sendNak (keyOf p) p.psn 7 0 0 s
  else
    let (code, i) := tallyCheck s p
    let (v, s1) := if code = 0 then
        addTally i (leNat (p.body.take 4) % 2 ^ 18) (BitVec.ofNat 64 (leNat ((p.body.drop 4).take 8)))
          (galleyAccess mSwitch (some 1) s)
      else (0, s)
    let body := leBytes 1 code ++ wordBytes v
    syncReply p 0xC1 body (settleSync p (recordSync p 0xC1 body s1))

def execTallyAddPacket (p : Packet) (s : State) : Host.Outcome State Fault Refusal :=
  .next (if arrives s p 0x81 then admitSync p (tallyAddArrives p) (consume p s) else s)

/-! ### Sync-plane replies at the sender -/

/-- The message of VC 8 that a reply answers. -/
def syncSent (s : State) (p : Packet) : Option TxMsg :=
  (findTx s (replyKey p)).bind fun c => c.msgs.find? fun m => m.packets.any fun t => t.psn == p.psn

/-- The reply settles its request: the message leaves its connection, with its first sending as a sample (R340). -/
def endSync (p : Packet) (s : State) : State :=
  let now := s.clk.mono
  modTx (replyKey p) (fun c =>
    let fresh := (ctxPackets c).filterMap fun t =>
      if t.2.psn = p.psn ∧ t.2.sent = true ∧ t.2.resends = 0 then some (now - t.2.lastSent) else none
    let c1 := fresh.foldl (fun x y => addSample now y x) c
    { c1 with answered := true, backoff := 1, expires := now + 2 * life s,
              msgs := c1.msgs.filter fun m => !(m.packets.any fun t => t.psn == p.psn) }) s

/-- TALLY_DONE (R131, R292). -/
def tallyDoneArrives (p : Packet) (s : State) : State :=
  match syncSent s p with
  | none => s
  | some m =>
    if m.ptype ≠ 0x81 then s
    else
      let v := BitVec.ofNat 64 (leNat ((p.body.drop 1).take 8))
      let out := match leNat (p.body.take 1) with
        | 0 => { settledAs stOk 0 0 with extra := v }
        | 1 => settledAs stRemoteRefused 0 1
        | 2 => settledAs stRemoteRefused 0 2
        | _ => settledAs stWindowFault 0 0
      endMessage m out (endSync p s)

def execTallyDone (p : Packet) (s : State) : Host.Outcome State Fault Refusal :=
  .next (if arrives s p 0xC1 then tallyDoneArrives p (consume p s) else s)

/-- SYNC_ACK (R346). -/
def execSyncAck (p : Packet) (s : State) : Host.Outcome State Fault Refusal :=
  .next (if arrives s p 0xC2 then endSync p (consume p s) else s)

end Sys2Proof.Machine
end

