-- ==== Sys2Proof/Machine/Coll.lean ====
section
/-! DEFINITION. Collective handles, bins and runs (11_collectives.md R265 to R289; packet formats 12_fabric_cells_routing.md
R300, R301, R314): COLL_OPEN, COLL_RUN, COLL_CLOSE, the sync-plane messages, chunks on the ring, the fold and the direct
paths, patience and the laggard query. -/
namespace Sys2Proof.Machine

/-! ### Pieces and chunks (R274, R277, R279) -/

/-- Elements of a unit: a block of an MX format, one element otherwise. -/
def collUnit (fmt : Nat) : Nat := if isMx fmt then 32 else 1

/-- Bytes of a unit in a stream. -/
def unitBytes (fmt : Nat) : Nat := if isMx fmt then 1 + blockBytes fmt else fmtBits fmt / 8

/-- Units of piece k of `e` elements among n members, and the first of them. -/
def pieceUnits (fmt e n k : Nat) : Nat :=
  let u := e / collUnit fmt
  u / n + if k < u % n then 1 else 0
def pieceFirst (fmt e n k : Nat) : Nat :=
  let u := e / collUnit fmt
  k * (u / n) + min k (u % n)

/-- Units of a chunk: 16,384 elements or 8,192 on the fold path; 64 KiB elsewhere, for an MX format in whole groups (log
entry 30). -/
def chunkUnits (folds : Bool) (fmt : Nat) : Nat :=
  if folds then (if isInt fmt then 8192 else 16384) / collUnit fmt
  else if isMx fmt then 65536 / (32 * unitBytes fmt) * 32
  else 65536 / unitBytes fmt

/-- Chunks of a number of units. -/
def chunksOf (folds : Bool) (fmt units : Nat) : Nat := ceilDiv units (chunkUnits folds fmt)

/-- Units of chunk c of a piece. -/
def unitsAt (folds : Bool) (fmt units c : Nat) : Nat := min (chunkUnits folds fmt) (units - c * chunkUnits folds fmt)

/-- Place of the scale and of the elements of block b in an MX stream of nb blocks (R212). -/
def scalePos (fmt b : Nat) : Nat := b / 32 * 32 * unitBytes fmt + b % 32
def elemPos (fmt nb b : Nat) : Nat :=
  b / 32 * 32 * unitBytes fmt + min 32 (nb - b / 32 * 32) + b % 32 * blockBytes fmt

/-- Units `first` onward of a buffer of nb units, as a stream of their own. -/
def takeUnits (fmt nb first cnt : Nat) (buf : List Byte) : List Byte :=
  if isMx fmt then
    layGroups (cnt + 1) ((List.range cnt).map fun b =>
      (buf.getD (scalePos fmt (first + b)) 0, (buf.drop (elemPos fmt nb (first + b))).take (blockBytes fmt)))
  else (buf.drop (first * unitBytes fmt)).take (cnt * unitBytes fmt)

/-- Where the bytes of a stream of cnt units go in a buffer of nb units: offset and bytes of each part. -/
def putUnits (fmt nb first cnt : Nat) (data : List Byte) : List (Nat × List Byte) :=
  if isMx fmt then
    (List.range cnt).flatMap fun b =>
      [(scalePos fmt (first + b), [data.getD (scalePos fmt b) 0]),
       (elemPos fmt nb (first + b), (data.drop (elemPos fmt cnt b)).take (blockBytes fmt))]
  else [(first * unitBytes fmt, data.take (cnt * unitBytes fmt))]

/-! ### Sums (R278) -/

/-- The elements of a chunk's data as accumulators. -/
def accOf (fmt : Nat) (data : List Byte) : Acc :=
  let n := (streamElems fmt data.length).getD 0
  if isInt fmt then .int (intStream fmt n data) else .fp ((decodeStream fmt n data).map code32)

/-- OP on FP32 values: SUM rounds to nearest even, MIN and MAX select in press order. -/
def reduceVal (op : Nat) (a b : Val) : Val := if op = 0 then fadd a b else if op = 1 then a.pressMin b else a.pressMax b

def reduceInt (op : Nat) (a b : Int) : Int := if op = 0 then a + b else if op = 1 then min a b else max a b

/-- One contribution added to the accumulators. -/
def accAdd (op : Nat) : Acc → Acc → Acc
  | .fp a, .fp b => .fp (List.zipWith (fun x y => code32 (reduceVal op (f32 x) (f32 y))) a b)
  | .int a, .int b => .int (List.zipWith (reduceInt op) a b)
  | a, _ => a

/-- Accumulators encoded in FMT with round to nearest even, SAT 0 and FLUSH 0. -/
def accBytes (fmt : Nat) : Acc → List Byte
  | .fp l => encodeStream fmt rne 0 (l.map f32)
  | .int l => encodeInts fmt l

/-! ### Handles -/

def getColl (s : State) (i h : Nat) : Option Coll := tget (getInst s i).colls h

def modColl (i h : Nat) (f : Coll → Coll) (s : State) : State := modInst i (fun x => { x with colls := tmod x.colls h f }) s

def modCollRun (i h : Nat) (f : CollRunSt → CollRunSt) (s : State) : State :=
  modColl i h (fun c => { c with run := c.run.map f }) s

def modCollDev (f : CollDev → CollDev) (s : State) : State := { s with collDev := f s.collDev }

/-- Do something with the run in progress of a handle. -/
def withRun (i h : Nat) (f : Coll → CollRunSt → State → State) (s : State) : State :=
  match getColl s i h with
  | none => s
  | some c => match c.run with | some r => f c r s | none => s

def memberCount (c : Coll) : Nat := c.members.length

/-- Rank of a member. -/
def memberRank (c : Coll) (j : Nat) : Nat := c.members.getD j 0

/-- Every member but this one. -/
def otherMembers (c : Coll) : List Nat := (List.range (memberCount c)).filter (· != c.index)

/-- The member at a device and endpoint. -/
def memberAt (c : Coll) (dev ep : Nat) : Option Nat :=
  (List.range (memberCount c)).find? fun j => c.places.getD j (0, 0) == (dev, ep)

/-- Successor and predecessor on the ring. -/
def nextMember (c : Coll) : Nat := (c.index + 1) % memberCount c
def prevMember (c : Coll) : Nat := (c.index + memberCount c - 1) % memberCount c

/-- i − k modulo the number of members. -/
def back (c : Coll) (k : Nat) : Nat := (c.index + memberCount c - k % memberCount c) % memberCount c

/-- The handle that a packet concerns: its endpoint's instance, KEY, and a sender who is a member (R298, R300). -/
def collOf (s : State) (p : Packet) : Option (Nat × Nat × Coll) :=
  match tget s.endpoints p.dstEp with
  | none => none
  | some e =>
    if !e.valid || e.job != p.job then none
    else
      ((getInst s e.inst).colls.find? fun x =>
        x.2.endpoint == p.dstEp && x.2.key == fld p.h3 0 32 && (memberAt x.2 p.srcDev p.srcEp).isSome).map
        fun x => (e.inst, x.1, x.2)

/-- Run number of a packet. -/
def runOfPacket (p : Packet) : Nat := fld p.h3 32 32

/-- A run number at or beyond the next run of a handle. -/
def runAhead (c : Coll) (n : Nat) : Bool := decide ((n + 2 ^ 32 - c.nextRun % 2 ^ 32) % 2 ^ 32 < 2 ^ 31)

/-! ### Sending -/

/-- H3 of a packet that concerns a handle (R298). -/
def collH3 (c : Coll) (run : Nat) : Word := place c.key 0 32 ||| place run 32 32

/-- The connection towards a member. -/
def memberKey (s : State) (c : Coll) (j vc : Nat) : ConnKey :=
  let p := c.places.getD j (0, 0)
  { srcDev := s.plates.device, srcEp := c.endpoint, dstDev := p.1, dstEp := p.2, vc := vc }

/-- Send a message of VC 8 to a member. -/
def sendSync (i h : Nat) (c : Coll) (j ptype run : Nat) (body : List Byte) (s : State) : State :=
  addMessage (memberKey s c j 8) 1 (syncMessage s (.coll i h) c.job ptype (collH3 c run) body (memberRank c j)) s

/-- Send a message of VC 8 to every other member. -/
def toMembers (i h : Nat) (c : Coll) (ptype run : Nat) (body : List Byte) (s : State) : State :=
  each (otherMembers c) (fun j t => sendSync i h c j ptype run body t) s

/-- What a chunk's packets say of its run (R301): number, MODE, element count, and whether it travels on the sync plane. -/
structure RunTag where
  number : Nat
  mode : Nat
  elements : Nat
  small : Bool
deriving DecidableEq, Repr

/-- A folded run of at most 256 bytes travels on the sync plane (R282). -/
def isSmall (fmt : Nat) (folds : Bool) (elements : Nat) : Bool := folds && decide (streamBytes fmt elements ≤ 256)

def tagOf (c : Coll) (r : CollRunSt) : RunTag :=
  { number := r.number, mode := r.mode, elements := r.elements, small := isSmall c.fmt r.folds r.elements }

/-- The collective prefix (R301). -/
def collPrefix (t : RunTag) (m : ChunkMsg) : List Byte :=
  leBytes 4 (m.step % 2 ^ 17 + t.mode * 2 ^ 17) ++ leBytes 4 (m.piece % 2 ^ 16 + m.chunk % 2 ^ 14 * 2 ^ 16) ++
    leBytes 8 t.elements

/-- Every packet of a chunk begins with the prefix. -/
def cutBody (pre : List Byte) (part : Nat) : Nat → List Byte → List Byte
  | 0, _ => []
  | n + 1, data => pre ++ data.take part ++ cutBody pre part n (data.drop part)

/-- Send a chunk: one message on VC 2, or a SMALL_RUN on the sync plane, where STEP 1 marks a result (log entry 31). -/
def sendChunk (i h : Nat) (c : Coll) (t : RunTag) (m : ChunkMsg) (s : State) : State :=
  if t.small then
    sendSync i h c m.dst 0x88 t.number
      (collPrefix t { m with step := if m.ptype = 0x12 then 1 else 0 } ++ m.data) s
  else
    let part := segBytes s - 16
    let n := max 1 (ceilDiv m.data.length part)
    let msg : TxMsg := { syncMessage s (.coll i h) c.job m.ptype (collH3 c t.number) (cutBody (collPrefix t m) part n m.data)
      (memberRank c m.dst) with msgLen := m.data.length }
    addMessage (memberKey s c m.dst 2) n msg s

/-- READY to a member: rooms granted to it so far in the run (R276, R300). -/
def sendReady (i h : Nat) (c : Coll) (run j rooms : Nat) (s : State) : State :=
  sendSync i h c j 0x84 run (leBytes 4 rooms) s

/-- Rooms that a member granted in a run; none while its READY has not come. -/
def roomsFrom (c : Coll) (run j : Nat) : Option Nat :=
  (c.readies.find? fun x => x.1 == run && x.2.1 == j).map (·.2.2)

/-! ### Bins (R269, R270) -/

/-- Bins of the device's quota that an instance holds. -/
def binsHeld (x : Inst) : Nat := sumOf (fun p => p.2.granted) x.colls

/-- Reserve the bins of an open, in full or not at all. -/
def reserveBins (i b : Nat) (s : State) : Nat × State :=
  if b = 0 then (0, s)
  else if b ≤ s.collDev.binsFree ∧ binsHeld (getInst s i) + b ≤ fld (wd (getInst s i).record 1) 17 11 then
    (b, modCollDev (fun d => { d with binsFree := d.binsFree - b }) s)
  else (0, modCollDev (fun d => { d with binsDenied := satAdd 32 d.binsDenied 1 }) s)

/-- Free bins. -/
def freeBins (n : Nat) (s : State) : State := modCollDev (fun d => { d with binsFree := d.binsFree + n }) s

/-- A handle leaves: its bins are freed and its number is ABSENT. -/
def dropColl (i h : Nat) (s : State) : State :=
  match getColl s i h with
  | none => s
  | some c => modInst i (fun x => { x with colls := tdel x.colls h }) (freeBins c.granted s)

/-! ### The end of a run (R283 to R287) -/

/-- Note a LAGGARD whose receipt is still to be written (R289). -/
def noteLaggard (i ord h rank : Nat) (s : State) : State :=
  modCollDev (fun d => { d with ended := d.ended ++ [(i, ord, h, rank)] }) s

/-- The run leaves the handle; the fold state of an ended run goes with it (R285). -/
def closeRun (i h n : Nat) (keepBins : Bool) (s : State) : State :=
  modColl i h (fun c => { c with
    run := none, query := none
    binChunks := if keepBins then c.binChunks else c.binChunks.filter fun b => b.run != n
    rooms := c.rooms.filter fun x => x.run != n
    freed := if keepBins && (c.binChunks.any fun b => b.run == n) then c.freed else tdel c.freed n
    readies := if keepBins && (c.binChunks.any fun b => b.run == n) then c.readies
      else c.readies.filter fun x => x.1 != n }) s

/-- The fold state of an ended run that its home still holds, and the chunks of it that wait, are discarded (R285). -/
def dropFold (i h n : Nat) (s : State) : State :=
  modColl i h (fun c => { c with
    binChunks := c.binChunks.filter fun b => b.run != n
    rooms := c.rooms.filter fun x => x.run != n, freed := tdel c.freed n }) s

/-- The docket of a run, its destination segment and address. -/
def runTarget (s : State) (i : Nat) (c : Coll) (ord : Nat) : Option (Run × Seg × List Word) :=
  (runOf s i c.queue ord).bind fun x =>
    let w := runWords x.1 x.2
    (near (target x.2 (dDst w) (dLen w))).map fun g => (x.2, g, w)

/-- The whole DST of a run is undefined. -/
def undefRun (i : Nat) (c : Coll) (ord : Nat) (s : State) : State :=
  match runTarget s i c ord with
  | some (_, g, w) => undefSeg g (dDst w) (dLen w) s
  | none => s

/-- A piece whose every byte has been written (R286): every chunk of it is final; in an all-to-all the piece that came for
it must fill it (log entry 34). -/
def pieceFinal (c : Coll) (r : CollRunSt) (k : Nat) : Bool :=
  let u := pieceUnits c.fmt r.elements (memberCount c)
  (r.mode != 3 || decide (u k ≤ u c.index)) && (List.range (chunksOf r.folds c.fmt (u k))).all fun x => r.final.contains (k, x)

/-- The final pieces i, i − 1, i − 2, … without a gap (R286). -/
def keptPieces (c : Coll) (r : CollRunSt) : Nat → Nat → List Nat
  | 0, _ => []
  | n + 1, k => if pieceFinal c r (back c k) then back c k :: keptPieces c r n (k + 1) else []

/-- Bytes of a piece. -/
def pieceBytes (c : Coll) (e k : Nat) : Nat := pieceUnits c.fmt e (memberCount c) k * unitBytes c.fmt

/-- Units of a buffer that are not final become undefined. -/
def undefPiece (i : Nat) (c : Coll) (r : CollRunSt) (k : Nat) (s : State) : State :=
  match runTarget s i c r.ord with
  | none => s
  | some (_, g, w) =>
    let n := pieceUnits c.fmt r.elements (memberCount c) k
    let parts := putUnits c.fmt (r.elements / collUnit c.fmt) (pieceFirst c.fmt r.elements (memberCount c) k) n
      (List.replicate (n * unitBytes c.fmt) 0)
    each parts (fun p t => undefSeg g (dDst w + p.1) p.2.length t) s

/-- SRC and DST overlap where R275 leaves DST undefined. -/
def runSpoiled (w : List Word) (mode : Nat) : Bool :=
  decide (dSrc w < dDst w + dLen w) && decide (dDst w < dSrc w + dLen w) && (mode == 3 || dSrc w != dDst w)

/-- DST where its overlap with SRC leaves it undefined (R275). -/
def spoilRun (i : Nat) (c : Coll) (r : CollRunSt) (s : State) : State :=
  match runTarget s i c r.ord with
  | some (_, g, w) => if runSpoiled w r.mode then undefSeg g (dDst w) (dLen w) s else s
  | none => s

/-- End the run in progress with LAGGARD, naming a rank (R285, R286). -/
def endLaggard (i h rank : Nat) (s : State) : State :=
  withRun i h (fun c r s =>
    let kept := if r.folds then [] else keptPieces c r (memberCount c) 0
    let bytes := sumOf (pieceBytes c r.elements) kept
    let s1 := if kept = [] then undefRun i c r.ord s
      else each ((List.range (memberCount c)).filter fun k => !kept.contains k) (undefPiece i c r) s
    let out : Settled := { settledAs stLaggard bytes (rank % 65536) with foldDenied := foldDenied c r.mode, twin := r.twin }
    noteLaggard i r.ord h rank (closeRun i h r.number false (settle i c.queue r.ord out (spoilRun i c r s1)))) s

/-- End the run in progress with DATA_ERROR (R287). -/
def endDataError (i h detail : Nat) (s : State) : State :=
  withRun i h (fun c r s =>
    closeRun i h r.number false (settle i c.queue r.ord { settledAs stDataError 0 detail with twin := r.twin }
      (undefRun i c r.ord s))) s

/-- END's payload: the named rank, and the DETAIL of a DATA_ERROR in bits 31:18, 0 for LAGGARD (log entry 32). -/
def endWord (rank detail : Nat) : Nat := rank % 2 ^ 18 + detail % 2 ^ 14 * 2 ^ 18

/-- What END does to a run in progress. -/
def endBy (i h word : Nat) (s : State) : State :=
  if word / 2 ^ 18 % 2 ^ 14 = 0 then endLaggard i h (word % 2 ^ 18) s else endDataError i h (word / 2 ^ 18 % 2 ^ 14) s

/-- This member's own data failed: DATA_ERROR here, END to every member (R287). -/
def ownDataError (i h detail : Nat) (s : State) : State :=
  withRun i h (fun c r s =>
    toMembers i h c 0x85 r.number (leBytes 4 (endWord (memberRank c c.index) detail)) (endDataError i h detail s)) s

/-- The run is complete: OK (R283); on the integer path BYTES is LENGTH. -/
def endOk (i h : Nat) (s : State) : State :=
  withRun i h (fun c r s =>
    let n := memberCount c
    let bytes := if r.mode = 1 ∧ 1 < n ∧ isInt c.fmt = false then pieceBytes c r.elements c.index
      else streamBytes c.fmt r.elements
    let late := min (r.latest - r.earliest) (2 ^ 32 - 1)
    let out : Settled := { settledOk bytes with
      foldDenied := foldDenied c r.mode, twin := r.twin
      extra := place r.latestBy 0 18 ||| place late 32 32 }
    closeRun i h r.number true (settle i c.queue r.ord out (spoilRun i c r s))) s

/-! ### Placing final values (R276, R278) -/

/-- Final wire values as DST holds them: this member's ligature applies to them (R278). -/
def finalBytes (l : Option (List Word)) (fmt : Nat) (data dst : List Byte) (base : Nat) : List Byte :=
  let n := (streamElems fmt data.length).getD 0
  match l with
  | none => data
  | some _ =>
    if isInt fmt then (encodeWork fmt l (intStream fmt n data) dst base).bytes
    else (encodeVals fmt l (decodeStream fmt n data) dst base).bytes

/-- Read units `first` onward of a buffer of nb units, as a stream of their own: only their bytes are read. -/
def readUnits (i : Nat) (g : Seg) (a fmt nb first cnt : Nat) (s : State) : MemRead × State :=
  let parts := putUnits fmt nb first cnt (List.replicate (cnt * unitBytes fmt) 0)
  let (all, got, s1) := parts.foldl (fun (x : MemRead × List (List Byte) × State) p =>
    if p.2.length = 0 then x
    else
      let (r, t) := readSeg i g (a + p.1) p.2.length x.2.2
      ({ bytes := [], fail := match x.1.fail with | some f => some f | none => r.fail
         twin := x.1.twin || r.twin, events := x.1.events ++ r.events }, x.2.1 ++ [r.bytes], t))
    ({ bytes := [], fail := none, twin := false, events := [] }, [], s)
  let blocks := (List.range cnt).map fun b => ((got.getD (2 * b) []).getD 0 0, got.getD (2 * b + 1) [])
  ({ all with bytes := if isMx fmt then layGroups (cnt + 1) blocks else got.flatten }, s1)

/-- Write one final chunk of a piece, whose units are `units` at `first` of the buffer; a failing line ends the run. -/
def placeUnits (i h first units : Nat) (piece chunk : Nat) (data : List Byte) (s : State) : State :=
  withRun i h (fun c r s =>
    match runTarget s i c r.ord with
    | none => s
    | some (d, g, w) =>
      let nb := r.elements / collUnit c.fmt
      let acc := match d.lig with | some l => ligAccumulates l | none => false
      let (rd, s1) := if acc then readUnits i g (dDst w) c.fmt nb first units s
        else ({ bytes := [], fail := none, twin := false, events := [] }, s)
      let s2 := latchAll rd.events s1
      match rd.fail with
      | some f => ownDataError i h f.2 s2
      | none =>
        let bytes := finalBytes d.lig c.fmt data rd.bytes s2.freeCount
        let s3 := { s2 with freeCount := s2.freeCount + units * collUnit c.fmt }
        let (bad, s4) := (putUnits c.fmt nb first units bytes).foldl (fun (a : Option Nat × State) p =>
          let (wr, t) := writeSeg i g (dDst w + p.1) p.2 a.2
          ((match a.1 with | some f => some f | none => wr.fail.map (·.2)), latchAll wr.events t)) (none, s3)
        match bad with
        | some f => ownDataError i h f s4
        | none => modCollRun i h (fun y => { y with final := addNew y.final (piece, chunk), twin := y.twin || rd.twin }) s4) s

/-- Write chunk `chunk` of a piece of the reduction or of an allgather. -/
def placeFinal (i h piece chunk : Nat) (data : List Byte) (s : State) : State :=
  withRun i h (fun c r s =>
    let u := pieceUnits c.fmt r.elements (memberCount c) piece
    placeUnits i h (pieceFirst c.fmt r.elements (memberCount c) piece + chunk * chunkUnits r.folds c.fmt)
      (unitsAt r.folds c.fmt u chunk) piece chunk data s) s

/-- Chunk c of a piece of this member's source. -/
def sourceChunk (c : Coll) (r : CollRunSt) (piece chunk : Nat) : List Byte :=
  let n := memberCount c
  takeUnits c.fmt (r.elements / collUnit c.fmt)
    (pieceFirst c.fmt r.elements n piece + chunk * chunkUnits r.folds c.fmt)
    (unitsAt r.folds c.fmt (pieceUnits c.fmt r.elements n piece) chunk) r.srcBytes

/-- The chunks of a piece of this member's source, for a member. -/
def sourceChunks (c : Coll) (r : CollRunSt) (dst ptype step piece : Nat) : List ChunkMsg :=
  (List.range (chunksOf r.folds c.fmt (pieceUnits c.fmt r.elements (memberCount c) piece))).map fun k =>
    { dst := dst, ptype := ptype, step := step, piece := piece, chunk := k, data := sourceChunk c r piece k }

/-! ### Bins at work (R279) -/

/-- Merge stamps into a run. -/
def noteStamps (x : Stamps) (r : CollRunSt) : CollRunSt :=
  { r with
    latest := max r.latest x.latest
    latestBy := if r.latest < x.latest then x.by_ else r.latestBy
    earliest := min r.earliest x.earliest }

def runStamps (r : CollRunSt) : Stamps := { latest := r.latest, by_ := r.latestBy, earliest := r.earliest }

/-- The destination of a handle's run lies behind a hatch that does not take writes now (R399, R410). -/
def runBlocked (s : State) (i : Nat) (c : Coll) : Bool :=
  match c.run with
  | none => false
  | some r => match runOf s i c.queue r.ord with
    | some (q, d) => hatchBlocks s i q d
    | none => false

/-- Chunks that the bins of a handle have done with in a run. -/
def freedOf (c : Coll) (run : Nat) : Nat := (tget c.freed run).getD 0

/-- Results of a run that have gone to a member. -/
def resultsTo (c : Coll) (run j : Nat) : Nat :=
  freedOf c run + (c.binChunks.filter fun b => b.run == run && b.sent.contains j).length

/-- Whether the result of a bin may go to a member: to another one while it has granted a room for it (R313), to this one when
its run has started and its destination takes writes. -/
def resultReady (s : State) (i : Nat) (c : Coll) (b : BinChunk) (j : Nat) : Bool :=
  if j = c.index then !runBlocked s i c && (match c.run with | some r => r.number == b.run | none => false)
  else decide (resultsTo c b.run j < (roomsFrom c b.run j).getD 0)

/-- Members a result goes to. -/
def resultMembers (c : Coll) (b : BinChunk) : List Nat := if b.mode = 1 then [c.index] else List.range (memberCount c)

/-- Change a bin. -/
def modBin (i h run chunk : Nat) (f : BinChunk → BinChunk) (s : State) : State :=
  modColl i h (fun c => { c with binChunks := c.binChunks.map fun b => if b.run = run ∧ b.chunk = chunk then f b else b }) s

/-- Rooms that a member of a folded run has for chunks from another one: B, and one more for every chunk its bins have done
with; in an allreduce one more when it has also taken one more result of that member (log entry 33). -/
def foldRooms (c : Coll) (r : CollRunSt) (j : Nat) : Nat :=
  let taken := (r.final.filter fun f => f.1 == j).length
  c.granted + if r.mode = 0 then min (freedOf c r.number) taken else freedOf c r.number

/-- Grant the rooms of a folded run that have come free, while chunks are left for them. -/
def grantFold (i h : Nat) (s : State) : State :=
  withRun i h (fun c r s =>
    let u := fun k => chunksOf true c.fmt (pieceUnits c.fmt r.elements (memberCount c) k)
    if !r.folds then s
    else
      each (otherMembers c) (fun j t =>
        let n := foldRooms c r j
        if (tget r.granted j).getD c.granted < n ∧ n ≤ max (u c.index) (u j) then
          sendReady i h c r.number j n (modCollRun i h (fun y => { y with granted := tset y.granted j n }) t)
        else t) s) s

/-- A bin that has delivered to every member is free. -/
def freeBin (i h run chunk : Nat) (s : State) : State :=
  grantFold i h (modColl i h (fun y =>
    let left := y.binChunks.filter fun b => !(b.run == run && b.chunk == chunk)
    let live := left.any (fun b => b.run == run) || (match y.run with | some r => r.number == run | none => false)
    { y with
      binChunks := left
      freed := if live then tset y.freed run (freedOf y run + 1) else tdel y.freed run
      readies := if live then y.readies else y.readies.filter fun x => x.1 != run }) s)

/-- Deliver the result of a bin to the members that may have it. -/
def deliverBin (i h run chunk : Nat) (s : State) : State :=
  match getColl s i h with
  | none => s
  | some c =>
    match c.binChunks.find? (fun b => b.run == run && b.chunk == chunk) with
    | none => s
    | some b =>
      match b.result with
      | none => s
      | some data =>
        let now := (resultMembers c b).filter fun j => !b.sent.contains j && resultReady s i c b j
        let tag : RunTag := { number := run, mode := b.mode, elements := b.elements, small := isSmall c.fmt true b.elements }
        let s1 := each now (fun j t =>
          if j = c.index then
            placeFinal i h c.index chunk data
              (modCollRun i h (noteStamps { latest := b.latest, by_ := b.latestBy, earliest := b.earliest }) t)
          else sendChunk i h c tag { dst := j, ptype := 0x12, step := 0, piece := c.index, chunk := chunk, data := data } t) s
        let s2 := modBin i h run chunk (fun y => { y with sent := y.sent ++ now }) s1
        if b.sent.length + now.length = (resultMembers c b).length then freeBin i h run chunk s2 else s2

/-- Deliver every bin of a handle. -/
def deliverBins (i h : Nat) (s : State) : State :=
  match getColl s i h with
  | none => s
  | some c => each c.binChunks (fun b t => deliverBin i h b.run b.chunk t) s

/-- A contribution fits its run as far as this home knows it: MODE and element count (R273), piece, chunk and length; none fits a
run whose END has come (R285). -/
def foldFits (c : Coll) (x : ChunkIn) : Bool :=
  let u := pieceUnits c.fmt x.elements (memberCount c) c.index
  decide (x.mode ≤ 1) && !(c.ends.any fun e => e.1 == x.run) && x.piece == c.index && decide (x.chunk < chunksOf true c.fmt u) &&
    x.data.length == unitsAt true c.fmt u x.chunk * unitBytes c.fmt &&
    (match c.run with
     | some r => if r.number = x.run then r.folds && r.mode == x.mode && r.elements == x.elements else runAhead c x.run
     | none => runAhead c x.run)

/-- Whether a bin is there for a contribution, or free. -/
def binFor (c : Coll) (x : ChunkIn) : Bool :=
  (c.binChunks.any fun b => b.run == x.run && b.chunk == x.chunk) || decide (c.binChunks.length < c.granted)

/-- Add a contribution that fits into its bin and count it; N contributions make the result. -/
def foldIn (i h : Nat) (x : ChunkIn) (s : State) : State :=
  match getColl s i h with
  | none => s
  | some c =>
    let a := accOf c.fmt x.data
    let b0 := c.binChunks.find? fun b => b.run == x.run && b.chunk == x.chunk
    let full (b : BinChunk) : BinChunk :=
      if b.from_.length = memberCount c then { b with result := some (accBytes c.fmt b.acc) } else b
    match b0 with
    | some b =>
      if b.from_.contains x.sender || b.mode != x.mode || b.elements != x.elements then s
      else
        deliverBin i h x.run x.chunk (modBin i h x.run x.chunk (fun y => full { y with
          acc := accAdd c.op y.acc a, from_ := y.from_ ++ [x.sender]
          latest := max y.latest x.stamps.latest
          latestBy := if y.latest < x.stamps.latest then x.stamps.by_ else y.latestBy
          earliest := min y.earliest x.stamps.earliest }) s)
    | none =>
      let b : BinChunk := full {
        run := x.run, mode := x.mode, elements := x.elements, chunk := x.chunk, acc := a
        from_ := [x.sender], latest := x.stamps.latest, latestBy := x.stamps.by_, earliest := x.stamps.earliest,
        result := none, sent := [] }
      deliverBin i h x.run x.chunk (modColl i h (fun y => { y with binChunks := y.binChunks ++ [b] }) s)

/-! ### Moving a run on -/

/-- Grant one more room to a member. -/
def grantRoom (i h j : Nat) (s : State) : State :=
  withRun i h (fun c r s =>
    let n := (tget r.granted j).getD 0 + 1
    sendReady i h c r.number j n (modCollRun i h (fun y => { y with granted := tset y.granted j n }) s)) s

/-- Whether a room at a member is left for one more chunk. -/
def roomLeft (c : Coll) (r : CollRunSt) (j : Nat) : Bool :=
  decide ((tget r.sentTo j).getD 0 < (roomsFrom c r.number j).getD 0)

/-- One chunk goes out. -/
def putOut (i h : Nat) (c : Coll) (r : CollRunSt) (m : ChunkMsg) (s : State) : State :=
  sendChunk i h c (tagOf c r) m (modCollRun i h (fun y => { y with sentTo := tset y.sentTo m.dst ((tget y.sentTo m.dst).getD 0 + 1) }) s)

/-- Chunks of a run that have come in part from a member. -/
def partlyIn (s : State) (c : Coll) (r : CollRunSt) (j : Nat) : Nat :=
  let p := c.places.getD j (0, 0)
  let k : ConnKey := { srcDev := p.1, srcEp := p.2, dstDev := s.plates.device, dstEp := c.endpoint, vc := 2 }
  match findRx s k with
  | some x => (x.msgs.filter fun m => m.ptype == 0x10 && m.imm == collH3 c r.number).length
  | none => 0

/-- Chunk rooms of the ring that are occupied: chunks that wait to be forwarded, wait for the hatch, or have come in part. -/
def occupied (s : State) (c : Coll) (r : CollRunSt) : Nat :=
  r.waiting.length + (c.rooms.filter fun x => x.run == r.number).length + partlyIn s c r (prevMember c)

/-- Ring: chunks to be forwarded go first, then chunks of the own source while at most 2 rooms are occupied (R314). -/
def pumpRing (i h : Nat) : Nat → State → State
  | 0, s => s
  | n + 1, s =>
    withRun i h (fun c r s =>
      if !roomLeft c r (nextMember c) then s
      else
        match r.waiting with
        | m :: ms =>
          pumpRing i h n (grantRoom i h (prevMember c)
            (putOut i h c r m (modCollRun i h (fun y => { y with waiting := ms }) s)))
        | [] =>
          match r.own with
          | m :: ms =>
            if 2 < occupied s c r then s
            else pumpRing i h n (putOut i h c r m (modCollRun i h (fun y => { y with own := ms }) s))
          | [] => s) s

/-- All-to-all: pieces go out in the order of their steps (R281). -/
def pumpPieces (i h : Nat) : Nat → State → State
  | 0, s => s
  | n + 1, s =>
    withRun i h (fun c r s =>
      match r.own with
      | m :: ms =>
        if roomLeft c r m.dst then pumpPieces i h n (putOut i h c r m (modCollRun i h (fun y => { y with own := ms }) s)) else s
      | [] => s) s

/-- Fold: a contribution goes to its home while the home has a bin for it: the first B chunks by DECIDE, further ones by
READY; the own piece goes to this home (R279, log entry 33). -/
def pumpFold (i h : Nat) (s : State) : State :=
  withRun i h (fun _ r0 s =>
    each r0.own (fun m t => withRun i h (fun c r t =>
      let gone := modCollRun i h (fun y => { y with own := y.own.filter (· != m) })
      if m.dst = c.index then
        let x : ChunkIn := {
          ptype := m.ptype, step := m.step, mode := r.mode, piece := m.piece, chunk := m.chunk
          elements := r.elements, run := r.number, sender := c.index, data := m.data, stamps := runStamps r }
        if binFor c x then foldIn i h x (gone t) else t
      else if (tget r.sentTo m.dst).getD 0 < max c.granted ((roomsFrom c r.number m.dst).getD 0) then putOut i h c r m (gone t)
      else t) t) s) s

/-- Chunks this member is to receive: on the ring in every step, in an all-to-all from every other member. -/
def ringSteps (c : Coll) (mode : Nat) : Nat := if mode = 0 then 2 * (memberCount c - 1) else memberCount c - 1

/-- The piece received in ring step s (R277, R281). -/
def ringPiece (c : Coll) (mode s : Nat) : Nat :=
  if mode = 2 then back c (s + 1)
  else if s + 2 ≤ memberCount c then back c (s + 2)
  else back c (s + 2 - memberCount c)

def chunksDue (c : Coll) (r : CollRunSt) : Nat :=
  let u := fun k => chunksOf r.folds c.fmt (pieceUnits c.fmt r.elements (memberCount c) k)
  if r.mode = 3 then u c.index * (memberCount c - 1)
  else sumOf (fun s => u (ringPiece c r.mode s)) (List.range (ringSteps c r.mode))

/-- Everything has been sent, received and written. -/
def runComplete (c : Coll) (r : CollRunSt) : Bool :=
  let u := fun k => chunksOf r.folds c.fmt (pieceUnits c.fmt r.elements (memberCount c) k)
  r.waiting.isEmpty && r.own.isEmpty &&
    (if r.folds then
      (if r.mode = 1 then decide (r.final.length = u c.index)
       else decide (r.final.length = sumOf u (List.range (memberCount c))))
     else decide (r.got.length = chunksDue c r))

/-- Send what can be sent, and end the run when it is complete. -/
def pumpRun (i h : Nat) (s : State) : State :=
  withRun i h (fun _ r s =>
    let n := r.waiting.length + r.own.length
    let s1 := if r.folds then pumpFold i h s else if r.mode = 3 then pumpPieces i h n s else pumpRing i h n s
    withRun i h (fun c1 r1 t => if runComplete c1 r1 then endOk i h t else t) s1) s

/-! ### Chunks at their target (R273, R277, R279, R281) -/

/-- The run in progress takes a chunk of its own number, MODE and element count. -/
def chunkFits (r : CollRunSt) (x : ChunkIn) : Bool :=
  r.number == x.run && r.mode == x.mode && r.elements == x.elements

/-- A ring chunk: added or written, and forwarded in the next step (R277, R278, R281). -/
def ringChunk (i h : Nat) (x : ChunkIn) (s : State) : State :=
  withRun i h (fun c r s =>
    let n := memberCount c
    let u := pieceUnits c.fmt r.elements n x.piece
    if !chunkFits r x || r.folds || r.mode == 3 || x.sender != prevMember c || decide (ringSteps c r.mode ≤ x.step) ||
        x.piece != ringPiece c r.mode x.step || decide (chunksOf false c.fmt u ≤ x.chunk) || r.got.contains (x.step, x.chunk) ||
        x.data.length != unitsAt false c.fmt u x.chunk * unitBytes c.fmt then s
    else
      let adds := r.mode != 2 && decide (x.step + 2 ≤ n)
      let data := if adds then accBytes c.fmt (accAdd c.op (accOf c.fmt x.data) (accOf c.fmt (sourceChunk c r x.piece x.chunk)))
        else x.data
      let isFinal := !adds || decide (x.step + 2 = n)
      let s1 := modCollRun i h (fun y => noteStamps x.stamps { y with got := y.got ++ [(x.step, x.chunk)] }) s
      let s2 := if isFinal then placeFinal i h x.piece x.chunk data s1 else s1
      let s3 := if x.step + 1 < ringSteps c r.mode then
          modCollRun i h (fun y => { y with waiting := y.waiting ++
            [{ dst := nextMember c, ptype := 0x10, step := x.step + 1, piece := x.piece, chunk := x.chunk, data := data }] }) s2
        else grantRoom i h (prevMember c) s2
      pumpRun i h s3) s

/-- A chunk waits in its room. -/
def keepChunk (i h : Nat) (x : ChunkIn) (s : State) : State := modColl i h (fun c => { c with rooms := c.rooms ++ [x] }) s

/-- A contribution to a bin of this home; where no bin is free it waits in its room. -/
def foldChunk (i h : Nat) (x : ChunkIn) (s : State) : State :=
  match getColl s i h with
  | none => s
  | some c =>
    if !foldFits c x then s
    else if !binFor c x then keepChunk i h x s
    else
      pumpRun i h (foldIn i h x (match c.run with
        | some r => if r.number = x.run then modCollRun i h (noteStamps x.stamps) s else s
        | none => s))

/-- A folded result (R279). -/
def resultChunk (i h : Nat) (x : ChunkIn) (s : State) : State :=
  withRun i h (fun c r s =>
    let u := pieceUnits c.fmt r.elements (memberCount c) x.piece
    if !chunkFits r x || !r.folds || r.mode != 0 || x.sender != x.piece || decide (chunksOf true c.fmt u ≤ x.chunk) ||
        r.final.contains (x.piece, x.chunk) || x.data.length != unitsAt true c.fmt u x.chunk * unitBytes c.fmt then s
    else pumpRun i h (grantFold i h (placeFinal i h x.piece x.chunk x.data (modCollRun i h (noteStamps x.stamps) s)))) s

/-- A chunk of an all-to-all: member j's piece i goes to DST piece j; where the two differ in size, the units in common
are written and the rest of DST piece j is undefined (log entry 34). -/
def pieceChunk (i h : Nat) (x : ChunkIn) (s : State) : State :=
  withRun i h (fun c r s =>
    let n := memberCount c
    let u := pieceUnits c.fmt r.elements n c.index
    let v := pieceUnits c.fmt r.elements n x.sender
    let at_ := x.chunk * chunkUnits false c.fmt
    if !chunkFits r x || r.mode != 3 || x.piece != c.index || x.sender == c.index || decide (chunksOf false c.fmt u ≤ x.chunk) ||
        r.got.contains (x.sender, x.chunk) || x.data.length != unitsAt false c.fmt u x.chunk * unitBytes c.fmt then s
    else
      let m := min (unitsAt false c.fmt u x.chunk) (v - at_)
      let first := pieceFirst c.fmt r.elements n x.sender
      let s1 := modCollRun i h (fun y => noteStamps x.stamps { y with got := y.got ++ [(x.sender, x.chunk)] }) s
      let s2 := placeUnits i h (first + at_) m x.sender x.chunk (takeUnits c.fmt (unitsAt false c.fmt u x.chunk) 0 m x.data) s1
      let s3 := if u < v ∧ x.chunk + 1 = chunksOf false c.fmt u then
          (match runTarget s2 i c r.ord with
           | some (_, g, w) =>
             each (putUnits c.fmt (r.elements / collUnit c.fmt) (first + u) (v - u)
               (List.replicate ((v - u) * unitBytes c.fmt) 0)) (fun p t => undefSeg g (dDst w + p.1) p.2.length t) s2
           | none => s2)
        else s2
      pumpRun i h (grantRoom i h x.sender s3)) s

/-- A chunk read from its packets. -/
def chunkOf (p : Packet) (pre data : List Byte) (sender : Nat) : ChunkIn :=
  let a := leNat (pre.take 4)
  let b := leNat ((pre.drop 4).take 4)
  { ptype := p.ptype, step := a % 2 ^ 17, mode := a / 2 ^ 17 % 4, piece := b % 2 ^ 16, chunk := b / 2 ^ 16 % 2 ^ 14
    elements := leNat ((pre.drop 8).take 8), run := runOfPacket p, sender := sender, data := data
    stamps := { latest := Config.stampIn p.body, by_ := Config.stampRankIn p.body % 2 ^ 18, earliest := Config.stampFirstIn p.body } }

/-- A whole chunk: a contribution goes to its bin, data for the destination waits in its room while the hatch there takes no
writes (R313, R410). -/
def takeChunk (i h : Nat) (x : ChunkIn) (s : State) : State :=
  if x.ptype = 0x11 then foldChunk i h x s
  else if (match getColl s i h with | some c => runBlocked s i c | none => false) then keepChunk i h x s
  else if x.ptype = 0x10 then ringChunk i h x s
  else if x.ptype = 0x12 then resultChunk i h x s
  else pieceChunk i h x s

/-- Chunks that wait in their rooms are tried again, in the order in which they came. -/
def drainRooms (i h : Nat) : Nat → State → State
  | 0, s => s
  | n + 1, s =>
    match getColl s i h with
    | none => s
    | some c => drainRooms i h n (each c.rooms (takeChunk i h) (modColl i h (fun y => { y with rooms := [] }) s))

def drainAll (i h : Nat) (s : State) : State :=
  drainRooms i h (match getColl s i h with | some c => c.rooms.length | none => 0) s

/-- A whole chunk has arrived. -/
def chunkArrives (i h : Nat) (x : ChunkIn) (s : State) : State := drainAll i h (takeChunk i h x s)

/-- Runs whose destination takes writes again go on (R410). -/
def wakeRuns (s : State) : State :=
  each s.insts (fun x t => each x.2.colls (fun p u => drainAll x.1 p.1 (pumpRun x.1 p.1 (deliverBins x.1 p.1 u))) t) s

/-! ### COLL_RUN (R272, R273, R276) -/

/-- The start stamp of a run, in units of 64 ns (R283). -/
def stampNow (s : State) : Nat := (if ticking s then s.time.edge + 64 * subtick s else s.clk.ptp) / 64

/-- The READYs a member sends at the start of its run: 4 rooms on the ring and the direct paths (log entry 33). -/
def firstReadies (i h : Nat) (s : State) : State :=
  withRun i h (fun c r s =>
    let to_ := if r.folds then (if r.mode = 0 then otherMembers c else [])
      else if r.mode = 3 then otherMembers c else [prevMember c]
    let rooms := if r.folds then c.granted else 4
    each to_ (fun j t => sendReady i h c r.number j rooms
      (modCollRun i h (fun y => { y with granted := tset y.granted j rooms }) t)) s) s

/-- What a run puts on its way from its own source, and the pieces it writes at once (R277, R279, R281). -/
def loadRun (i h : Nat) (s : State) : State :=
  withRun i h (fun c r s =>
    let n := memberCount c
    let mine (t : State) : State :=
      each (sourceChunks c r c.index 0 0 c.index) (fun m u => placeFinal i h c.index m.chunk m.data u) t
    let set (l : List ChunkMsg) (t : State) : State := modCollRun i h (fun y => { y with own := l }) t
    if n = 1 then mine s
    else if r.folds then
      set ((List.range n).flatMap fun k => sourceChunks c r k 0x11 0 k) s
    else if r.mode = 3 then
      set ((List.range (n - 1)).flatMap fun j =>
        let k := (c.index + j + 1) % n
        sourceChunks c r k 0x13 (j + 1) k) (mine s)
    else if r.mode = 2 then set (sourceChunks c r (nextMember c) 0x10 0 c.index) (mine s)
    else set (sourceChunks c r (nextMember c) 0x10 0 (back c 1)) s) s

/-- The source a mode reads: piece i alone for an allgather (R274): the first failing read. -/
def readRunSource (i : Nat) (c : Coll) (mode elements : Nat) (g : Seg) (a n : Nat) (s : State) : MemRead × State :=
  if mode ≠ 2 then readSeg i g a n s
  else
    let k := pieceUnits c.fmt elements (memberCount c) c.index
    let (all, s1) := readUnits i g a c.fmt (elements / collUnit c.fmt)
      (pieceFirst c.fmt elements (memberCount c) c.index) k s
    let (whole, _) := readSeg i g a n s
    ({ all with bytes := whole.bytes }, s1)

/-- Start the data of a run whose operands resolve. -/
def activateRun (i h : Nat) (c : Coll) (r : Run) (w : List Word) (number : Nat) (g : Seg) (s : State) : State :=
  let mode := fld (wd w 5) 16 2
  let e := (streamElems c.fmt (dLen w)).getD 0
  let (rd, s1) := readRunSource i c mode e g (dSrc w) (dLen w) s
  let s2 := latchAll rd.events s1
  let t := stampNow s
  let run : CollRunSt :=
    { number := number, ord := r.ord, mode := mode, elements := e
      folds := decide (mode ≤ 1) && decide (c.granted ≠ 0) && decide (1 < memberCount c)
      startTick := tickNow s, patience := dPatience w, srcBytes := rd.bytes, got := [], final := [], sentTo := []
      granted := [], waiting := [], own := [], latest := t, latestBy := memberRank c c.index, earliest := t, twin := rd.twin }
  let fits (b : BinChunk) : Bool := b.run != number || (b.mode == mode && b.elements == e && run.folds)
  let s3 := modColl i h (fun y => { y with run := some run, binChunks := y.binChunks.filter fits }) s2
  match rd.fail with
  | some f => ownDataError i h f.2 s3
  | none => drainAll i h (pumpRun i h (deliverBins i h (pumpRun i h (loadRun i h
      (if memberCount c = 1 then s3 else firstReadies i h s3)))))

/-- Next run number of a handle, past those taken by dockets that missed their deadline. -/
def nextNumber (c : Coll) : Nat → Nat → Nat
  | 0, k => k
  | n + 1, k => if c.skipped.contains k then nextNumber c n (k + 1) else k

/-- A docket of the instance that stands before an order of start and names a handle. -/
def earlierOn (s : State) (i h ord op : Nat) : Bool :=
  (getInst s i).queues.any fun p => p.2.runs.any fun x =>
    decide (x.ord < ord) && x.outcome.isNone && dOp (runWords p.2 x) == op && dHandle (runWords p.2 x) == h

/-- A run has data to send and a connection it needs for that has no send context yet (R327). -/
def runWaits (s : State) (c : Coll) (w : List Word) : Bool :=
  let mode := fld (wd w 5) 16 2
  let e := (streamElems c.fmt (dLen w)).getD 0
  let folds := decide (mode ≤ 1) && decide (c.granted ≠ 0)
  let keys : List ConnKey :=
    if folds || mode == 3 then (otherMembers c).flatMap fun j =>
      [memberKey s c j (if isSmall c.fmt folds e then 8 else 2), memberKey s c j 8]
    else [memberKey s c (nextMember c) 2, memberKey s c (prevMember c) 8]
  decide (1 < memberCount c) && decide (e ≠ 0) && decide (c.st = .open) && !keys.all (txReady s)

/-- COLL_RUN: it waits for the open, for earlier runs of its handle and for an earlier close; then it takes the next number
and starts. -/
def collRun (i qi : Nat) (q : Queue) (r : Run) (s : State) : State :=
  let w := runWords q r
  let h := dHandle w
  match getColl s i h with
  | none => s
  | some c =>
    if c.st = .opening ∨ c.run.isSome ∨ earlierOn s i h r.ord opCollRun ∨ earlierOn s i h r.ord opCollClose ∨
        runWaits s c w then s
    else
      let k := nextNumber c (c.skipped.length + 1) c.nextRun
      let number := k % 2 ^ 32
      let s1 := modColl i h (fun y => { y with
        nextRun := k + 1, skipped := y.skipped.filter fun x => decide (k < x), ends := y.ends.filter fun x => x.1 != number }) s
      match near (source r (dSrc w) (dLen w)), near (target r (dDst w) (dLen w)) with
      | some g, some _ =>
        let e := (streamElems c.fmt (dLen w)).getD 0
        let mode := fld (wd w 5) 16 2
        let denied := foldDenied c mode
        let lag (rank : Nat) : State :=
          noteLaggard i r.ord h rank (settle i qi r.ord { settledAs stLaggard 0 (rank % 65536) with foldDenied := denied }
            (undefRun i c r.ord (dropFold i h number s1)))
        match c.st, c.ends.find? (fun x => x.1 == number) with
        | .broken, _ => lag (c.brokenBy.getD 0)
        | _, some x =>
          if x.2 / 2 ^ 18 % 2 ^ 14 = 0 then lag (x.2 % 2 ^ 18)
          else settle i qi r.ord { settledAs stDataError 0 (x.2 / 2 ^ 18 % 2 ^ 14) with foldDenied := denied }
            (undefRun i c r.ord (dropFold i h number s1))
        | _, none =>
          if e = 0 then
            settle i qi r.ord { settledOk 0 with foldDenied := denied, extra := place (memberRank c c.index) 0 18 } s1
          else activateRun i h c r w number g (markExecuted i qi r.ord s1)
      | _, _ => settle i qi r.ord (settledAs stSegmentFault 0 0) s1

def execCollRun (d : DRef) (s : State) : Host.Outcome State Fault Refusal :=
  .next (startDocket d opCollRun (collRun d.inst d.queue) s)

/-! ### COLL_OPEN (R266 to R271) -/

/-- CLOSE dockets that waited for the open go on, or have nothing to free (R288). -/
def wakeClosings (i : Nat) (c : Coll) (opened : Bool) (s : State) : State :=
  each c.closing (fun x t =>
    if opened then modRun i x.1 x.2 (fun r => { r with executed := false }) t else settle i x.1 x.2 (settledOk 0) t) s

/-- The handle is OPEN, or BROKEN where a peer has ended meanwhile; without folding its bins are released (R265, R269). -/
def openDone (i h : Nat) (folds : Bool) (s : State) : State :=
  match getColl s i h with
  | none => s
  | some c =>
    let s1 := if folds then s else freeBins c.granted s
    let held := if folds then c.granted else 0
    let s2 := modColl i h (fun y => { y with
      st := if y.brokenBy.isSome then .broken else .open, granted := held, closing := [] }) s1
    let out : Settled := { settledOk 0 with
      foldDenied := decide (c.bins ≠ 0) && decide (held = 0)
      extra := place h 0 16 ||| place held 16 8 ||| place c.index 24 17 }
    wakeClosings i c true (settle i c.queue c.ord out s2)

/-- The open ends without a handle: LAGGARD, naming a rank (R265, R268). -/
def openFail (i h rank : Nat) (s : State) : State :=
  match getColl s i h with
  | none => s
  | some c =>
    wakeClosings i c false (noteLaggard i c.ord h rank
      (settle i c.queue c.ord (settledAs stLaggard 0 (rank % 65536)) (dropColl i h s)))

/-- A JOIN matches the coordinator's open (R268). -/
def joinFits (c : Coll) (j : HeldJoin) : Bool :=
  j.ep == c.endpoint && j.key == c.key && j.count == memberCount c && j.crc == c.crc && j.fmt == c.fmt && j.op == c.op &&
    j.bins == c.bins && (match memberAt c j.srcDev j.srcEp with | some m => !c.joined.any (·.1 == m) | none => false)

/-- All members have joined: DECIDE to every member; folding when every member has its bins (R268, R269). -/
def decideOpen (i h : Nat) (s : State) : State :=
  match getColl s i h with
  | none => s
  | some c =>
    if c.st ≠ .opening ∨ c.index ≠ 0 ∨ c.joined.length < memberCount c then s
    else
      let folds := decide (c.bins ≠ 0) && c.joined.all (·.2)
      openDone i h folds (toMembers i h c 0x83 0 (leBytes 1 (if folds then 1 else 0)) s)

/-- Count one held JOIN. -/
def countJoin (i h : Nat) (j : HeldJoin) (s : State) : State :=
  match getColl s i h with
  | none => s
  | some c =>
    if joinFits c j then
      match memberAt c j.srcDev j.srcEp with
      | some m =>
        modCollDev (fun d => { d with joins := delFirst d.joins (· == j) })
          (modColl i h (fun y => { y with joined := y.joined ++ [(m, j.grant)] }) s)
      | none => s
    else s

/-- Ranks of a member list. -/
def listRanks (bs : List Byte) (n : Nat) : List Nat := (List.range n).map fun k => leNat ((bs.drop (4 * k)).take 4)

/-- The new handle of an open. -/
def newColl (s : State) (q : Queue) (e : Endpoint) (qi : Nat) (r : Run) (w : List Word) (crc granted : Nat)
    (ranks : List Nat) : Coll where
  st := .opening
  key := fld (wd w 5) 0 32
  crc := crc
  endpoint := q.desc.endpoint
  job := e.job
  queue := qi
  ord := r.ord
  members := ranks
  places := ranks.map fun k => (rankOf e k).getD (0, 0)
  index := ranks.idxOf e.myRank
  fmt := coFmt w
  op := coOp w
  bins := coBins w
  granted := granted
  openTick := tickNow s
  joined := []
  nextRun := 0
  skipped := []
  slowest := 0
  lateBy := 0
  runCount := 0
  laggards := 0
  brokenBy := none
  ends := []
  readies := []
  run := none
  binChunks := []
  freed := []
  rooms := []
  info := [0, 0, 0]
  closing := []
  query := none

/-- JOIN's payload (R300). -/
def joinBody (c : Coll) : List Byte :=
  leBytes 4 (memberCount c) ++ leBytes 4 c.crc ++ leBytes 1 c.fmt ++ leBytes 1 c.op ++ leBytes 1 c.bins ++
    leBytes 1 (if c.granted = 0 then 0 else 1)

/-- The list has been read and checked: the handle takes the lowest free number and joins. -/
def openHandle (i : Nat) (c : Coll) (s : State) : State :=
  let x := getInst s i
  match (List.range (fld (wd x.record 1) 28 11)).find? fun k => (tget x.colls k).isNone with
  | none => s
  | some h =>
    let s1 := modInst i (fun y => { y with colls := tset y.colls h c }) s
    if memberCount c = 1 then openDone i h (decide (c.granted ≠ 0)) s1
    else if c.index = 0 then
      decideOpen i h (each s.collDev.joins (fun j t => countJoin i h j t)
        (modColl i h (fun y => { y with joined := [(0, decide (c.granted ≠ 0))] }) s1))
    else sendSync i h c 0 0x82 0 (joinBody c) s1

/-- The shared galley has room for a list of n entries, and no press docket that came before waits for room (R234, R241, R267;
log entry 90). -/
def listRoom (n : Nat) (s : State) : Bool :=
  decide (ceilDiv (4 * n) 64 * 64 ≤ s.galley.free) && !(pressRuns s).any fun x => x.2.2.2.stage == .galley

/-- COLL_OPEN: the list is read whole into the shared galley, for which the open waits (R267). -/
def collOpen (i qi : Nat) (q : Queue) (r : Run) (s : State) : State :=
  let w := runWords q r
  let n := coCount w
  match near (source r (dSrc w) (4 * n)) with
  | none => settle i qi r.ord (settledAs stSegmentFault 0 0) s
  | some g =>
   if !listRoom n s then s
   else
    let (rd, s1) := readSeg i g (dSrc w) (4 * n) s
    let s2 := latchAll rd.events s1
    let all := listRanks rd.bytes n
    match rd.fail, r.bound with
    | some f, _ => settle i qi r.ord { settledAs stDataError 0 f.2 with twin := rd.twin } s2
    | none, none => settle i qi r.ord { settledAs stUnreachable 0 (all.headD 0 % 65536) with twin := rd.twin } s2
    | none, some e =>
      if (all.any fun k => decide (2 ^ 18 ≤ k)) || decide (all.eraseDups.length < n) || all.count e.myRank != 1 then
        malformed i qi r 2 s2
      else
        match all.find? fun k => match rankOf e k with | some t => (framePort s2 t.1).isSome | none => true with
        | some k => settle i qi r.ord { settledAs stUnreachable 0 (k % 65536) with twin := rd.twin } s2
        | none =>
         if !(rankOf e (all.headD 0)).all fun t => all.headD 0 == e.myRank || txReady s2 (connTo s2 q 8 t) then s
         else
          let (b, s3) := reserveBins i (coBins w) s2
          openHandle i (newColl s3 q e qi r w (crc32 rd.bytes) b all)
            (modRun i qi r.ord (fun x => { x with executed := true, twin := rd.twin }) s3)

def execCollOpen (d : DRef) (s : State) : Host.Outcome State Fault Refusal :=
  .next (startDocket d opCollOpen (collOpen d.inst d.queue) s)

/-! ### COLL_CLOSE (R288) -/

/-- COLL_CLOSE: it waits for the open's outcome and for every earlier run. -/
def collClose (i qi : Nat) (q : Queue) (r : Run) (s : State) : State :=
  let h := dHandle (runWords q r)
  match getColl s i h with
  | none => s
  | some c =>
    if c.st = .opening then
      markExecuted i qi r.ord (modColl i h (fun y => { y with closing := y.closing ++ [(qi, r.ord)] }) s)
    else if earlierOn s i h r.ord opCollRun ∨ c.run.isSome then s
    else settle i qi r.ord (settledOk 0) (dropColl i h (toMembers i h c 0x86 0 [] s))

def execCollClose (d : DRef) (s : State) : Host.Outcome State Fault Refusal :=
  .next (startDocket d opCollClose (collClose d.inst d.queue) s)

/-! ### Handles that end otherwise (R265, R287) -/

/-- A reset of the instance: bins freed, CLOSE sent, no handle left. -/
def resetColls (i : Nat) (s : State) : State :=
  each (getInst s i).colls (fun p t => dropColl i p.1 (toMembers i p.1 p.2 0x86 0 [] t)) s

/-- An endpoint is unbound: the peers of its handles hear of it (R265). -/
def unbindColls (e : Nat) (s : State) : State :=
  each s.insts (fun x t => each (x.2.colls.filter fun p => p.2.endpoint == e) (fun p u => toMembers x.1 p.1 p.2 0x86 0 [] u) t) s

/-- A docket of a collective is ended from outside (R110, R265): an open drops its handle with CLOSE to every member, a run
leaves its handle, a waiting close is forgotten. -/
def abortColl (i qi ord : Nat) (s : State) : State :=
  each (getInst s i).colls (fun p t =>
    let c := p.2
    let t1 := modColl i p.1 (fun y => { y with closing := y.closing.filter (· != (qi, ord)) }) t
    if c.queue = qi ∧ c.ord = ord ∧ c.st = .opening then
      wakeClosings i c false (dropColl i p.1 (toMembers i p.1 c 0x86 0 [] t1))
    else
      match c.run with
      | some r => if c.queue = qi ∧ r.ord = ord then closeRun i p.1 r.number false t1 else t1
      | none => t1) s

/-- A peer's handle has ended. -/
def peerGone (i h rank : Nat) (s : State) : State :=
  match getColl s i h with
  | none => s
  | some c =>
    match c.st with
    | .opening => modColl i h (fun y => { y with brokenBy := some (y.brokenBy.getD rank) }) s
    | .open => endLaggard i h rank (modColl i h (fun y => { y with st := .broken, brokenBy := some rank }) s)
    | .broken => s

/-- The number of a docket before which `ahead` dockets of its handle still wait. -/
def numberAfter (c : Coll) : Nat → Nat → Nat → Nat
  | 0, _, k => k
  | n + 1, ahead, k =>
    if c.skipped.contains k then numberAfter c n ahead (k + 1)
    else if ahead = 0 then k
    else numberAfter c n (ahead - 1) (k + 1)

/-- COLL_RUN dockets of a handle that stand before a slot in ring order and have not started their run. -/
def runsAhead (q : Queue) (h slot : Nat) : Nat :=
  let names (w : List Word) : Bool := dOp w == opCollRun && dHandle w == h
  (q.runs.filter fun r => !r.executed && r.outcome.isNone && names (runWords q r)).length +
    (q.fetched.filter fun f => decide (ringKey q f.slot < ringKey q slot) && names (view q.desc.v1 f.words)).length

/-- A COLL_RUN docket whose deadline passed before its start takes its number, and its member sends END naming itself
(R273, R287). -/
def missedRun (i : Nat) (q : Queue) (slot : Nat) (w : List Word) (s : State) : State :=
  match getColl s i (dHandle w) with
  | none => s
  | some c =>
    let ahead := runsAhead q (dHandle w) slot
    let k := numberAfter c (c.skipped.length + ahead + 1) ahead c.nextRun
    toMembers i (dHandle w) c 0x85 (k % 2 ^ 32) (leBytes 4 (endWord (memberRank c c.index) 0))
      (modColl i (dHandle w) (fun y => { y with skipped := addNew y.skipped k }) s)

/-- DEADLINE_EXPIRY (R73), with what the missed run of a collective tells the other members. -/
def missDeadline (d : DRef) (s : State) : State :=
  match getQueue s d.inst d.queue with
  | none => s
  | some q =>
    match q.fetched.find? (fun f => f.slot == d.slot && missed s q f && dOp (view q.desc.v1 f.words) == opCollRun) with
    | some f => missedRun d.inst q d.slot (view q.desc.v1 f.words) (deadlineExpiry d s)
    | none => deadlineExpiry d s

def execDeadlineExpiry (d : DRef) (s : State) : Host.Outcome State Fault Refusal :=
  .next (if running s then missDeadline d s else s)

/-! ### Sync-plane messages at their target -/

/-- A message of VC 8 that SYNC_ACK answers: taken once. -/
def takeSync (p : Packet) (f : State → State) (s : State) : State :=
  admitSync p (fun t => syncReply p 0xC2 [] (settleSync p (f t))) s

/-- JOIN at the coordinator (R268). -/
def joinArrives (p : Packet) (s : State) : State :=
  let j : HeldJoin :=
    { ep := p.dstEp, srcDev := p.srcDev, srcEp := p.srcEp, key := fld p.h3 0 32, count := leNat (p.body.take 4)
      crc := leNat ((p.body.drop 4).take 4), fmt := leNat ((p.body.drop 8).take 1), op := leNat ((p.body.drop 9).take 1)
      bins := leNat ((p.body.drop 10).take 1), grant := decide (leNat ((p.body.drop 11).take 1) = 1), tick := tickNow s }
  let s1 := modCollDev (fun d => { d with joins := d.joins ++ [j] }) s
  match collOf s p with
  | some (i, h, c) =>
    if c.st = .opening ∧ c.index = 0 then decideOpen i h (countJoin i h j s1) else s1
  | none => s1

def execJoin (p : Packet) (s : State) : Host.Outcome State Fault Refusal :=
  .next (if arrives s p 0x82 then takeSync p (joinArrives p) (consume p s) else s)

/-- DECIDE at a member (R265, R269). -/
def decideArrives (p : Packet) (s : State) : State :=
  match collOf s p with
  | some (i, h, c) =>
    if c.st = .opening ∧ memberAt c p.srcDev p.srcEp = some 0 then
      openDone i h (decide (leNat (p.body.take 1) = 1) && decide (c.granted ≠ 0)) s
    else s
  | none => s

def execDecide (p : Packet) (s : State) : Host.Outcome State Fault Refusal :=
  .next (if arrives s p 0x83 then takeSync p (decideArrives p) (consume p s) else s)

/-- READY at a sender of chunks (R276, R279). -/
def readyArrives (p : Packet) (s : State) : State :=
  match collOf s p with
  | none => s
  | some (i, h, c) =>
    match memberAt c p.srcDev p.srcEp with
    | none => s
    | some j =>
      let n := runOfPacket p
      let live := runAhead c n || (match c.run with | some r => r.number == n | none => false) ||
        c.binChunks.any fun b => b.run == n
      if !live then s
      else
        let rooms := max (leNat (p.body.take 4)) ((roomsFrom c n j).getD 0)
        drainAll i h (pumpRun i h (deliverBins i h (modColl i h (fun y => { y with
          readies := (y.readies.filter fun x => !(x.1 == n && x.2.1 == j)) ++ [(n, j, rooms)] }) s)))

def execReady (p : Packet) (s : State) : Host.Outcome State Fault Refusal :=
  .next (if arrives s p 0x84 then takeSync p (readyArrives p) (consume p s) else s)

/-- END at a member (R265, R285): the open or the run ends at once; for a run not started it is kept. -/
def endArrives (p : Packet) (s : State) : State :=
  match collOf s p with
  | none => s
  | some (i, h, c) =>
    let word := leNat (p.body.take 4)
    let n := runOfPacket p
    if c.st = .opening ∧ memberAt c p.srcDev p.srcEp = some 0 then openFail i h (word % 2 ^ 18) s
    else
      drainAll i h (
        if (match c.run with | some r => r.number == n | none => false) then endBy i h word s
        else if runAhead c n then modColl i h (fun y => { y with ends := y.ends ++ [(n, word)] }) (dropFold i h n s)
        else dropFold i h n s)

def execEnd (p : Packet) (s : State) : Host.Outcome State Fault Refusal :=
  .next (if arrives s p 0x85 then takeSync p (endArrives p) (consume p s) else s)

/-- CLOSE from a member (R265, R268): while this coordinator gathers, the member's held or counted JOIN is withdrawn; and this
member's handle becomes BROKEN. -/
def closeArrives (p : Packet) (s : State) : State :=
  match collOf s p with
  | none => s
  | some (i, h, c) =>
    match memberAt c p.srcDev p.srcEp with
    | none => s
    | some j =>
      peerGone i h (memberRank c j)
        (if c.st = .opening ∧ c.index = 0 then
          modCollDev (fun d => { d with joins := d.joins.filter fun x =>
            !(x.ep == p.dstEp && x.key == c.key && x.srcDev == p.srcDev && x.srcEp == p.srcEp) })
            (modColl i h (fun y => { y with joined := y.joined.filter (·.1 != j) }) s)
        else s)

def execClose (p : Packet) (s : State) : Host.Outcome State Fault Refusal :=
  .next (if arrives s p 0x86 then takeSync p (closeArrives p) (consume p s) else s)

/-! ### Packets of chunks (R313) -/

/-- One packet of a chunk, gathered until the chunk is whole; data that concerns no handle is acknowledged and discarded. -/
def collPacket (p : Packet) (s : State) : State :=
  let k := keyOf p
  let part := segOf p - 16
  match collOf s p with
  | none => acknowledge p p.last s
  | some (i, h, c) =>
    let old := (findRx s k).bind fun x => x.msgs.find? fun m => m.psn == firstPsn p
    let m0 := old.getD (newMessage p i Win.empty Seg.empty none)
    let n := payloadLen p.msgLen part p.pidx
    let m : RxMsg := { m0 with
      seg := none, imm := p.h3, counted := m0.counted + n, pidxs := m0.pidxs ++ [p.pidx]
      data := m0.data ++ [(p.pidx, (p.body.drop 16).take n)] }
    if m.counted < p.msgLen then
      let s1 := modRx k (fun x => { x with msgs := (x.msgs.filter fun y => y.psn != m.psn) ++ [m] }) s
      acknowledge p false s1
    else
      let bytes := (List.range (max 1 (ceilDiv p.msgLen part))).flatMap fun j =>
        ((m.data.find? fun d => d.1 == j).map (·.2)).getD []
      acknowledge p true (chunkArrives i h
        (chunkOf p (p.body.take 16) bytes ((memberAt c p.srcDev p.srcEp).getD 0)) (dropRxMsg k m.psn s))

/-- A packet of VC 2. -/
def collData (ptype : Nat) (p : Packet) (s : State) : State :=
  if arrives s p ptype then admitRequest p (collPacket p) (answerBehind p) (consume p s) else s

def execCollStep (p : Packet) (s : State) : Host.Outcome State Fault Refusal := .next (collData 0x10 p s)
def execCollFold (p : Packet) (s : State) : Host.Outcome State Fault Refusal := .next (collData 0x11 p s)
def execCollResult (p : Packet) (s : State) : Host.Outcome State Fault Refusal := .next (collData 0x12 p s)
def execCollPiece (p : Packet) (s : State) : Host.Outcome State Fault Refusal := .next (collData 0x13 p s)

/-- SMALL_RUN (R282): a contribution, or with STEP 1 a result. -/
def smallArrives (p : Packet) (s : State) : State :=
  match collOf s p with
  | none => s
  | some (i, h, c) =>
    let x := chunkOf p (p.body.take 16) (p.body.drop 16) ((memberAt c p.srcDev p.srcEp).getD 0)
    chunkArrives i h { x with ptype := if x.step = 1 then 0x12 else 0x11 } s

def execSmallRun (p : Packet) (s : State) : Host.Outcome State Fault Refusal :=
  .next (if arrives s p 0x88 then takeSync p (smallArrives p) (consume p s) else s)

/-! ### Patience and the laggard query (R284) -/

/-- The member a run waits for: the ring's predecessor; the lowest member missing from a bin it waits on, or the lowest home
whose result it lacks; the lowest member whose piece it lacks. -/
def waitedFor (c : Coll) (r : CollRunSt) : Option Nat :=
  let n := memberCount c
  let u := fun k => chunksOf r.folds c.fmt (pieceUnits c.fmt r.elements n k)
  if n = 1 then none
  else if r.folds then
    let lacking := (List.range (u c.index)).filter fun k => !r.final.contains (c.index, k)
    let missing := lacking.filterMap fun k =>
      let b := c.binChunks.find? fun x => x.run == r.number && x.chunk == k
      (List.range n).find? fun j => j != c.index && (match b with | some x => !x.from_.contains j | none => true)
    match minBy id missing with
    | some j => some j
    | none => if r.mode = 0 then (List.range n).find? fun k => k != c.index && !pieceFinal c r k else none
  else if r.mode = 3 then
    (otherMembers c).find? fun j => decide ((r.got.filter fun g => g.1 == j).length < u c.index)
  else if r.got.length < chunksDue c r then some (prevMember c) else none

/-- A member that waits for no input but for a READY names the member whose READY it lacks, else itself (log entry 35). -/
def readyMissing (c : Coll) (r : CollRunSt) : Nat :=
  match r.waiting ++ r.own with
  | m :: _ => m.dst
  | [] => c.index

/-- Settle the name: END to every member, and the own run ends (R284, R285). -/
def settleName (i h rank : Nat) (s : State) : State :=
  withRun i h (fun c r s =>
    endLaggard i h rank (toMembers i h c 0x85 r.number (leBytes 4 (endWord rank 0)) s)) s

/-- Ask a member whether it waits; a member asked before, or this one, is named (log entry 35). -/
def askMember (i h j : Nat) (seen : List Nat) (s : State) : State :=
  withRun i h (fun c r s =>
    if j = c.index ∨ j ∈ seen then settleName i h (memberRank c j) s
    else
      sendSync i h c j 0x87 r.number []
        (modColl i h (fun y => { y with query := some (j, s.clk.mono, seen ++ [j]) }) s)) s

/-- COLL_RUN_PATIENCE: the run has not completed by the edge of tick S + p. -/
def collPatience (i h : Nat) (s : State) : State :=
  withRun i h (fun c r s =>
    if ticking s && decide (r.startTick + r.patience ≤ tickNow s) && c.query.isNone then
      askMember i h ((waitedFor c r).getD (readyMissing c r)) [] s
    else s) s

def execCollRunPatience (inst handle : Nat) (s : State) : Host.Outcome State Fault Refusal := .next (collPatience inst handle s)

/-- QUERY: whether this member waits in that run, and for whom. -/
def queryArrives (p : Packet) (s : State) : State :=
  let waits := (collOf s p).bind fun x => x.2.2.run.bind fun r =>
    if r.number = runOfPacket p then (waitedFor x.2.2 r).map (memberRank x.2.2) else none
  let body := leBytes 1 (if waits.isSome then 1 else 0) ++ leBytes 4 (waits.getD 0)
  syncReply p 0xC7 body (settleSync p (recordSync p 0xC7 body s))

def execQueryPacket (p : Packet) (s : State) : Host.Outcome State Fault Refusal :=
  .next (if arrives s p 0x87 then admitSync p (fun t =>
    if recordRoom (keyOf p) t then queryArrives p t else sendNak (keyOf p) p.psn 7 0 0 t) (consume p s) else s)

/-- QUERY_ANSWER: the question passes on, or names the member. -/
def answerArrives (p : Packet) (s : State) : State :=
  match syncSent s p with
  | none => s
  | some m =>
    match m.owner with
    | .coll i h =>
      if m.ptype ≠ 0x87 then s
      else
        withRun i h (fun c r t =>
          match c.query with
          | none => t
          | some (j, _, seen) =>
            if memberRank c j ≠ m.rank ∨ fld m.h3 32 32 ≠ r.number then t
            else if leNat (p.body.take 1) = 0 then settleName i h (memberRank c j) t
            else askMember i h (c.members.idxOf (leNat ((p.body.drop 1).take 4) % 2 ^ 18)) seen t) (endSync p s)
    | _ => s

def execQueryAnswer (p : Packet) (s : State) : Host.Outcome State Fault Refusal :=
  .next (if arrives s p 0xC7 then answerArrives p (consume p s) else s)

/-- LAGGARD_QUERY_TIMEOUT: a member that does not answer within 10 µs is named. -/
def queryTimeout (i h : Nat) (s : State) : State :=
  withRun i h (fun c _ s =>
    match c.query with
    | some (j, t, _) => settleName i h (memberRank c j) (waitMono (t + 10000) s)
    | none => s) s

def execLaggardQueryTimeout (inst handle : Nat) (s : State) : Host.Outcome State Fault Refusal :=
  .next (if running s then queryTimeout inst handle s else s)

/-! ### Timers of an open (R268) -/

/-- JOIN_HOLD_EXPIRY: a held JOIN leaves at the edge of tick A + 3. -/
def joinExpiry (ep key srcDev srcEp : Nat) (s : State) : State :=
  modCollDev (fun d => { d with joins := d.joins.filter fun j =>
    !(j.ep == ep && j.key == key && j.srcDev == srcDev && j.srcEp == srcEp && ticking s && decide (j.tick + 3 ≤ tickNow s)) }) s

def execJoinHoldExpiry (ep key srcDev srcEp : Nat) (s : State) : Host.Outcome State Fault Refusal :=
  .next (joinExpiry ep key srcDev srcEp s)

/-- COORDINATOR_GATHER_TIMEOUT: not all members joined by the edge of tick S + 3: END names the lowest one missing. -/
def gatherTimeout (i h : Nat) (s : State) : State :=
  match getColl s i h with
  | none => s
  | some c =>
    if c.st ≠ .opening ∨ c.index ≠ 0 ∨ !ticking s ∨ tickNow s < c.openTick + 3 then s
    else
      match (List.range (memberCount c)).find? fun j => !c.joined.any (·.1 == j) with
      | none => s
      | some j =>
        openFail i h (memberRank c j) (toMembers i h c 0x85 0 (leBytes 4 (endWord (memberRank c j) 0)) s)

def execCoordinatorGatherTimeout (inst handle : Nat) (s : State) : Host.Outcome State Fault Refusal :=
  .next (gatherTimeout inst handle s)

/-- COLL_OPEN_TIMEOUT: neither DECIDE nor END by 10 µs after the edge of tick S + 3: the coordinator is named. -/
def openTimeout (i h : Nat) (s : State) : State :=
  match getColl s i h with
  | none => s
  | some c =>
    if c.st ≠ .opening ∨ !ticking s ∨ tickNow s < c.openTick + 3 then s
    else
      let back := (tickNow s - (c.openTick + 3)).toNat * period s
      openFail i h (memberRank c 0) (waitPtp (s.time.edge - back + 10000) s)

def execCollOpenTimeout (inst handle : Nat) (s : State) : Host.Outcome State Fault Refusal := .next (openTimeout inst handle s)

end Sys2Proof.Machine
end

