-- ==== Sys2Proof/Machine/Link.lean ====
section
/-! DEFINITION. The sending side of a port in cell mode (12_fabric_cells_routing.md R295 to R315; 03_tick.md R71, R75 to R78):
cells and their order over the lanes, the replay buffer, credits returned, gate windows, the packets that compete for an
output, and the link-local packets of VC 9. -/
namespace Sys2Proof.Machine

/-! ### Cells (R296, R297) -/

def cellKind (t : Word) : Nat := fld t 0 2
def cellLast (t : Word) : Bool := bit t 2
def cellVc (t : Word) : Nat := fld t 3 4
def cellHalf (t : Word) : Bool := bit t 7
def cellEpoch (t : Word) : Bool := bit t 8
def cellHops (t : Word) : Nat := fld t 9 3
def cellLsn (t : Word) : Nat := fld t 12 10
def cellAck (t : Word) : Nat := fld t 22 10
def cellCrCode (t : Word) : Nat := fld t 32 4
def cellCrClass (t : Word) : Nat := fld t 36 3
def cellCrCells (t : Word) : Nat := fld t 39 3

/-- CRC-16 over tag bits 47:0 and the body. -/
def cellCrc (t : Word) (body : List Byte) : Nat := crc16 (leBytes 6 (fld t 0 48) ++ body)

/-- The CRC of a cell checks. -/
def cellCrcOk (c : Cell) : Bool := c.body.length == 56 && cellCrc c.tag c.body == fld c.tag 48 16

/-- VC and CR_CODE are legal (R302). -/
def cellLegal (c : Cell) : Bool :=
  decide (cellVc c.tag ≤ 9) && (decide (cellCrCode c.tag ≤ 10) || cellCrCode c.tag == 15)

/-- A cell tag without CRC. -/
def makeTag (kind vc : Nat) (lastc half epoch : Bool) (hops lsn ack code cls n : Nat) : Word :=
  place kind 0 2 ||| placeBit lastc 2 ||| place vc 3 4 ||| placeBit half 7 ||| placeBit epoch 8 ||| place hops 9 3 |||
    place lsn 12 10 ||| place ack 22 10 ||| place code 32 4 ||| place cls 36 3 ||| place n 39 3

/-- A tag with the CRC of its cell (R297). -/
def withCrc (t : Word) (body : List Byte) : Word := setFld t 48 16 (cellCrc t body)

/-- Bytes cut in bodies of 56, the last filled with zeros. -/
def cutBodies : Nat → List Byte → List (List Byte)
  | 0, _ => []
  | n + 1, bs => (bs.take 56 ++ List.replicate (56 - (bs.take 56).length) 0) :: cutBodies n (bs.drop 56)

/-- Last LSN that a port accepted in order. -/
def lastAccepted (p : Port) : Nat := (p.rxLsn + 1023) % 1024

/-- The cells of a packet on a port (R298, R299). -/
def cellsFor (p : Port) (k : Packet) : List SentCell :=
  let n := cellsOf k.body.length
  let bodies := cutBodies n (bytesOf (headerWords k) ++ k.body)
  ((List.range n).zip bodies).map fun x =>
    let lsn := (p.txLsn + x.1) % 1024
    let t := makeTag (if x.1 = 0 then 1 else 2) k.vc (decide (x.1 + 1 = n)) k.half k.epoch k.hops lsn (lastAccepted p) 15 0 0
    { lsn := lsn, tag := withCrc t x.2, body := x.2 }

/-! ### Cells on the lanes (R295, R303) -/

/-- A port runs in cell mode and exists. -/
def cellPort (s : State) (p : Nat) : Bool :=
  match portPlate s p with | some x => !x.frame && !x.lanes.isEmpty | none => false

/-- Time of n cells on the lanes in service of a port, in ps (R295). -/
def cellsTime (s : State) (p n : Nat) : Nat :=
  n * (match portPlate s p with | some x => if x.rate = 100 then 5120 else 2560 | none => 2560) /
    max 1 (getPort s p).lanesUp.length

/-- Place of a port's next cell among all it sends since training: IDLE cells fill the time in which it sends nothing else
(R296, R315). -/
def cellPlace (s : State) (p : Nat) : Nat :=
  let x := getPort s p
  max x.cellsOut ((s.clk.mono - x.linkedAt) * 1000 / max 1 (cellsTime s p 1))

/-- n cells go out on a port, on its lanes in rotation; a control block precedes the first cell after training and every
16,384th after that (R295). -/
def stripe (p n : Nat) (s : State) : State :=
  let x := getPort s p
  let at_ := cellPlace s p
  let blocks := ceilDiv (at_ + n) 16384 - ceilDiv x.cellsOut 16384
  let lanes := (List.range n).map fun j => x.lanesUp.getD ((at_ + j) % max 1 x.lanesUp.length) p
  let s1 := emit (.onLanes p lanes) (if blocks = 0 then s else emit (.blocks p blocks) s)
  modPort p (fun y => { y with cellsOut := at_ + n }) s1

/-- Control cell on a port; SPARE_REQ travels on the spare lane (R306). -/
def sendControl (p code arg : Nat) (s : State) : State :=
  emit (.control p code arg) (if code = 2 then s else stripe p 1 s)

/-- A held cell as it is sent again: ACK_LSN and the CRC are new (R303). -/
def renewed (p : Port) (c : SentCell) : SentCell :=
  { c with tag := withCrc (setFld c.tag 22 10 (lastAccepted p)) c.body }

/-- Resend held cells from LSN e onward, in LSN order (R303). -/
def replayFrom (p e : Nat) (s : State) : State :=
  let x := getPort s p
  let cells := (x.replay.dropWhile fun c => c.lsn != e).map (renewed x)
  each cells (fun c t => emit (.replayed p c) t) (stripe p cells.length
    (modPort p (fun y => { y with
      replay := (y.replay.takeWhile fun c => c.lsn != e) ++ cells, replayed := satAdd 32 y.replayed cells.length }) s))

/-- Cells to return leave in IDLE cells of at most 7, which carry LSNs, while the replay buffer has room (R303, R310; log
entry 38). -/
def returnCredits (p : Nat) : Nat → State → State
  | 0, s => s
  | fuel + 1, s =>
    let x := getPort s p
    match x.owed.find? fun o => o.2 != 0 with
    | none => s
    | some (k, n) =>
      if 512 ≤ x.replay.length ∨ !(inService x || x.linked) then s
      else
        let m := min 7 n
        let body := List.replicate 56 0
        let t := withCrc (makeTag 0 0 false false false 0 x.txLsn (lastAccepted x) (k / 8) (k % 8) m) body
        let cell : SentCell := { lsn := x.txLsn, tag := t, body := body }
        returnCredits p fuel (emit (.credit p (k / 8) (k % 8) m) (stripe p 1 (modPort p (fun y => { y with
          owed := tset y.owed k (n - m), txLsn := (y.txLsn + 1) % 1024, replay := y.replay ++ [cell] }) s)))

/-- Cells have left a buffer of an input port. -/
def freeCells (input code cls n : Nat) (s : State) : State :=
  if 48 ≤ input then s
  else
    returnCredits input (n + 1) (modPort input (fun y => { y with
      owed := tset y.owed (code * 8 + cls) ((tget y.owed (code * 8 + cls)).getD 0 + n) }) s)

/-- A packet starts on a port: its cells are numbered and held for replay, and its credit is used (R303, R310). -/
def sendCells (p : Nat) (k : Packet) (s : State) : State :=
  let n := cellsOf k.body.length
  let key := bufferCode k * 8 + k.hops
  emit (.cells p k) (stripe p n (modPort p (fun y => { y with
    replay := y.replay ++ cellsFor y k, txLsn := (y.txLsn + n) % 1024
    credits := tset y.credits key ((tget y.credits key).getD 0 - n) }) s))

/-- Credit for a whole packet, and room to hold its cells (R303, R310). -/
def hasCredit (x : Port) (key n : Nat) : Bool :=
  !x.lanesUp.isEmpty && decide (n ≤ (tget x.credits key).getD 0) && decide (x.replay.length + n ≤ 512)

/-! ### Buffers -/

/-- The input that stands for this device's own injection. -/
def ownInput : Nat := 48

/-- The packets in a buffer. -/
def bufferAt (s : State) (input code cls : Nat) : List Waiting :=
  if input < 48 then (tget (getPort s input).buffers (code * 8 + cls)).getD []
  else (tget s.fabric.inject code).getD []

def setBuffer (input code cls : Nat) (l : List Waiting) (s : State) : State :=
  if input < 48 then modPort input (fun y => { y with buffers := tset y.buffers (code * 8 + cls) l }) s
  else modFabric (fun f => { f with inject := tset f.inject code l }) s

/-- Every buffer: input, buffer code, hop class, packets. -/
def allBuffers (s : State) : List (Nat × Nat × Nat × List Waiting) :=
  (s.fabric.inject.map fun x => (ownInput, x.1, 0, x.2)) ++
    (List.range 48).flatMap fun p => (getPort s p).buffers.map fun x => (p, x.1 / 8, x.1 % 8, x.2)

/-! ### Gate windows (R75 to R77) -/

/-- The gate list in force of a port: GATE_BANK of SCHED_SEL (R79). -/
def gateList (s : State) (p : Nat) : List GateWindow :=
  match portPlate s p with
  | some x => x.gates.getD (fld s.quoin.tick.schedSel 2 1) []
  | none => []

/-- PTP time at which a window of the current tick ends: at the latest at the next edge. -/
def windowEnd (s : State) (w : GateWindow) : Nat := min (s.time.edge + (w.start + w.length) * 64) (nextEdge s)

/-- A VC, or in frame mode a priority, of a port may start what takes the line for a time in ps (R76, R77, R364). While the
generator is not RUNNING there is no edge to measure OPEN from: a VC that a window names stays closed (DESIGN CHOICE, log
entry 112). -/
def gateFits (s : State) (p vc ps : Nat) : Bool :=
  let l := gateList s p
  let names (w : GateWindow) : Bool := decide (w.mask / 2 ^ vc % 2 = 1)
  if 8 ≤ vc || !l.any names then true
  else ticking s && (getPort s p).openWindows.any fun k => match l[k]? with
    | some w => names w && decide (s.clk.ptp * 1000 + ps ≤ windowEnd s w * 1000)
    | none => false

/-- A VC of a port may start a packet of n cells. -/
def vcOpen (s : State) (p vc n : Nat) : Bool := gateFits s p vc (cellsTime s p n)

/-! ### The order at an output (R310, R315) -/

/-- A head packet that competes for an output: input, buffer code, hop class of its buffer, and the packet. -/
structure Head_ where
  input : Nat
  code : Nat
  cls : Nat
  p : Packet
deriving DecidableEq, Repr

/-- HOPS of a packet on its next link (R311). -/
def nextHops (h : Head_) : Nat := if h.input < 48 then h.p.hops + 1 else 0

/-- Nothing but a closed gate can keep a packet from an output: in service, credit for the whole packet, room for replay. -/
def readyBut (s : State) (p : Nat) (h : Head_) : Bool :=
  inService (getPort s p) && hasCredit (getPort s p) (h.code * 8 + nextHops h) (cellsOf h.p.body.length)

/-- A packet may start on an output: in service, the whole packet has credit, its VC is open, the replay buffer has room. -/
def mayLeave (s : State) (p : Nat) (h : Head_) : Bool :=
  readyBut s p h && vcOpen s p h.p.vc (cellsOf h.p.body.length)

/-- The tick of the planned docket whose packet waits at this device's own input (R71). -/
def plannedTick (s : State) (h : Head_) : Option Int := if h.input < 48 then none else packetTick s h.p

/-- Heads that may start on an output now; this device's posted packets yield to its planned ones (R71). -/
def contenders (s : State) (p : Nat) : List Head_ :=
  let l := (allBuffers s).filterMap fun b =>
    match b.2.2.2 with
    | w :: _ =>
      let h : Head_ := { input := b.1, code := b.2.1, cls := b.2.2.1, p := w.p }
      if w.output = some p ∧ mayLeave s p h = true then some h else none
    | [] => none
  if l.any fun h => (plannedTick s h).isSome then
    l.filter fun h => decide (h.input < 48) || (plannedTick s h).isSome || !isRequest h.p
  else l

/-- VC 8 is within its share of 2 % of the cell slots of the current 10 µs window (R294). -/
def syncFirst (s : State) (p : Nat) : Bool :=
  let x := getPort s p
  let slots := 10000000 * max 1 x.lanesUp.length / max 1 (cellsTime s p (max 1 x.lanesUp.length))
  decide (x.syncWindow ≠ s.clk.mono / 10000) || decide (x.syncCells * 50 < slots)


/-! ### Link-local packets (R300, R308, R309, R315) -/

/-- A packet of VC 9: its header fields beyond PTYPE are free (log entry 110). -/
def localPacket (s : State) (ptype : Nat) (body : List Byte) : Packet :=
  let f (k b : Nat) : Nat := Config.linkField s.freeCount k % 2 ^ b
  { vc := 9, half := false, epoch := epoch s, hops := 0, dstDev := f 0 16, dstEp := f 1 6, srcDev := s.plates.device
    srcEp := f 2 6, ptype := ptype, last := true, notify := false, sealed := false, retx := false, void := false
    job := f 3 32, psn := f 4 24, load := 0, msgLen := body.length, pidx := 0, seg := s.plates.seg
    h3 := BitVec.ofNat 64 (f 5 64), body := body }

/-- A packet of VC 8 within its share goes before VC 9 (R315). -/
def syncWaits (s : State) (p : Nat) : Bool := syncFirst s p && (contenders s p).any fun h => h.p.vc == 8

/-- The link-local packets of a port leave, in order, as far as credit and VC 8 let them. -/
def drainLocal (p : Nat) : Nat → State → State
  | 0, s => s
  | n + 1, s =>
    let x := getPort s p
    match x.linkLocal with
    | [] => s
    | k :: rest =>
      if (x.linked || inService x) && hasCredit x 72 (cellsOf k.body.length) && !syncWaits s p then
        drainLocal p n (sendCells p k (modPort p (fun y => { y with linkLocal := rest }) s))
      else s

/-- The link-local packets that may leave now. -/
def sendWaitingLocal (p : Nat) (s : State) : State := drainLocal p (getPort s p).linkLocal.length s

/-- A link-local packet takes its place on a port. -/
def sendLocal (p ptype : Nat) (body : List Byte) (s : State) : State :=
  sendWaitingLocal p (modPort p (fun y => { y with linkLocal := y.linkLocal ++ [localPacket s ptype body] })
    { s with freeCount := s.freeCount + 1 })

end Sys2Proof.Machine
end

