-- ==== Sys2Proof/Machine/Servo.lean ====
section
/-! DEFINITION. The time base (03_tick.md R52 to R61; 14_ethernet_management.md R368; 23_signals_package.md R510): PTP
messages, PPS edges, the servo, and the arming of the tick generator. -/
namespace Sys2Proof.Machine

/-! ### Fields -/

/-- SOURCE and PTP_PORT of TIME_CTRL in force. -/
def timeSource (s : State) : Nat := fld s.quoin.now.timeCtrl 0 2
def ptpPort (s : State) : Nat := fld s.quoin.now.timeCtrl 2 6

/-- ARM, TICK_OUT_EN, PPS_OUT_EN and HOLDOVER_LIMIT of TICK_CTRL. -/
def armBit (s : State) : Bool := bit s.time.tickCtrl 0
def tickOutEn (s : State) : Bool := bit s.time.tickCtrl 1
def ppsOutEn (s : State) : Bool := bit s.time.tickCtrl 2
def holdoverLimit (s : State) : Nat := fld s.time.tickCtrl 8 8

/-- TICK_EPOCH in force, in ns of PTP time. -/
def tickEpoch (s : State) : Nat := fld s.quoin.tick.epochS 0 48 * 1000000000 + fld s.quoin.tick.epochNs 0 30

/-! ### The generator leaves ARMED (R58, R59) -/

/-- The number and the time of the first edge of a run that may begin now (R59). -/
def firstEdge (s : State) : Nat × Nat :=
  let e := tickEpoch s
  if s.clk.ptp < e then (0, e)
  else
    let n := (s.clk.ptp - e) / period s + 1
    (n, e + n * period s)

/-- R58 lets an ARMED generator run: the servo is LOCKED or in HOLDOVER, or SOURCE is FREE_RUN. -/
def mayRun (s : State) : Bool :=
  decide (s.time.servo = .locked) || decide (s.time.servo = .holdover) || decide (timeSource s = 0)

/-- An ARMED generator takes its first edge; one that has it takes it anew where the counter, the period or the epoch
changed. -/
def letRun (s : State) : State :=
  if s.time.gen = .armed ∧ (s.time.first.isSome ∨ mayRun s = true) then modTime (fun t => { t with first := some (firstEdge s) }) s
  else s

/-- TICK_ARM: ARM written 1 (R58). -/
def tickArm (s : State) : State :=
  let s1 := modTime (fun t => { t with
    tickCtrl := t.tickCtrl ||| 1, gen := if t.gen = .stopped then .armed else t.gen }) s
  if s.time.gen = .stopped then letRun s1 else s1

/-- TICK_DISARM: ARM written 0; a RUNNING generator runs to its next edge (R58). -/
def tickDisarm (s : State) : State :=
  modTime (fun t => { t with
    tickCtrl := setFld t.tickCtrl 0 1 0
    gen := if t.gen = .armed then .stopped else t.gen
    first := if t.gen = .armed then none else t.first }) s

/-- TICK_CTRL answers, in keeping too (R476): R58 gives ARM no other condition (log entry 55). -/
def mayArm (s : State) : Bool := wakeAnswers s

def execTickArm (s : State) : Host.Outcome State Fault Refusal := .next (if mayArm s then tickArm s else s)
def execTickDisarm (s : State) : Host.Outcome State Fault Refusal := .next (if mayArm s then tickDisarm s else s)

/-! ### The servo (R55 to R57) -/

/-- The counter steps by a signed amount. -/
def moveCounter (d : Int) (s : State) : State := { s with clk := { s.clk with ptp := (s.clk.ptp + d).toNat } }

/-- A value kept within ± a bound. -/
def within (b d : Int) : Int := max (-b) (min b d)

/-- The rate of the counter after a sync interval, in 10^-9 (log entry 41): a master that keeps its rate is met within a free
±8 ns at the end of the next interval (R55), and the counter never slews by more than 10 ppm (R57). -/
def servoRate (off : Int) (s : State) : Int :=
  let span : Int := match s.time.lastSync with | some t => ((s.clk.mono - t : Nat) : Int) | none => 0
  if span = 0 then s.clk.rate
  else
    let aim := within 8 (Config.servoStep s.freeCount)
    within 10000 (s.clk.rate + (aim - 2 * off + s.time.residual) * 1000000000 / span)

/-- One sync interval ends with a measured offset from the master (R56); a step takes the offset away, slewing does not. -/
def measure (off : Int) (s : State) : State :=
  let now := s.clk.mono
  let t := s.time
  let resumed : Servo := if t.servo = .holdover then .acquiring else t.servo
  let good : Nat := if -20 ≤ off ∧ off ≤ 20 then (if t.servo = .holdover then 1 else t.inRange + 1) else 0
  let next : Servo := if resumed = .acquiring ∧ 16 ≤ good then .locked else resumed
  let steps := resumed = .acquiring ∧ (1000 < off ∨ off < -1000) ∧ t.gen ≠ .running
  let rate := if steps then s.clk.rate else servoRate off s
  let s1 := modTime (fun x => { x with
    servo := next, offset := off, inRange := good, lastSync := some now, holdSince := none, holdLatched := false
    residual := if steps then 0 else off }) { s with freeCount := s.freeCount + 1, clk := { s.clk with rate := rate } }
  letRun (if steps then moveCounter (-off) s1 else s1)

/-- The servo uses a source: a PTP or PPS_IN source is in force. -/
def servoOn (s : State) (src : Nat) : Bool := powered s && decide (timeSource s = src) && decide (s.time.servo ≠ .free)

/-- SOURCE in force has changed (R56): in FREE_RUN the counter runs from the crystal. -/
def sourceChanged (s : State) : State :=
  if timeSource s = 0 then
    letRun (modTime (fun t => { t with servo := .free, inRange := 0, holdSince := none, holdLatched := false })
      { s with clk := { s.clk with rate := 0 } })
  else if s.time.servo = .free then
    modTime (fun t => { t with servo := .acquiring, inRange := 0, lastSync := none }) s
  else s

/-! ### PTP messages (R54, R368) -/

/-- Bound of the timestamp error of a port in ns (R368). -/
def stampBound (s : State) (p : Nat) : Int :=
  if 48 ≤ p then 40 else match s.plates.ports[p]? with | some x => if x.rate = 100 then 6 else 4 | none => 4

/-- A hardware timestamp taken now on a port: the counter within the bound of R368. -/
def stamp (p : Nat) (s : State) : Nat × State :=
  (((s.clk.ptp : Int) + within (stampBound s p) (Config.stampError s.freeCount)).toNat, { s with freeCount := s.freeCount + 1 })

/-- PTP role of a port under the schedule plate: 0 disabled, 1 slave, 2 master, 3 passive (R54, R486). -/
def ptpRoleOf (s : State) (p : Nat) : Nat :=
  if p = 48 then s.plates.mgmtRole
  else match s.plates.ports[p]? with | some x => x.ptpRole | none => 0

/-- The slave port in use: the role of the plate and PTP_PORT agree. -/
def slavePort (s : State) (p : Nat) : Bool := ptpRoleOf s p == 1 && ptpPort s == p

/-! ### PPS (R56, R61, R510) -/

/-- PPS_IN_EDGE: the edge marks a whole second; a second edge within 500 ms is ignored. The offset is taken from the nearest
whole second (log entry 40). -/
def ppsIn (s : State) : State :=
  let soon : Bool := match s.time.lastSync with | some t => decide (s.clk.mono < t + 500000000) | none => false
  if !servoOn s 2 || soon then s
  else
    let e := within 2 (Config.stampError s.freeCount)
    let r : Int := s.clk.ptp % 1000000000
    measure ((if r < 500000000 then r else r - 1000000000) + e) { s with freeCount := s.freeCount + 1 }

def execPpsInEdge (s : State) : Host.Outcome State Fault Refusal := .next (ppsIn s)

/-- The next whole PTP second at which PPS_OUT has not pulsed. -/
def nextSecond (s : State) : Nat :=
  if s.clk.ptp % 1000000000 = 0 ∧ s.time.ppsSecond ≠ s.clk.ptp / 1000000000 then s.clk.ptp / 1000000000
  else s.clk.ptp / 1000000000 + 1

/-- PPS_OUT_PULSE (R61). -/
def ppsOut (s : State) : State :=
  let k := nextSecond s
  if powered s && ppsOutEn s then
    emit (.ppsOut k) (modTime (fun t => { t with ppsSecond := k }) (waitPtp (k * 1000000000) s))
  else s

def execPpsOutPulse (s : State) : Host.Outcome State Fault Refusal := .next (ppsOut s)

/-! ### HOLDOVER (R56) -/

/-- The limit of HOLDOVER is latched. -/
def latchHoldover (s : State) : State :=
  latch (event 9 2 3 0 (holdoverLimit s)) (modTime (fun t => { t with holdLatched := true }) s)

/-- SERVO_HOLDOVER: no sync message or PPS edge for 3 expected intervals. -/
def servoHoldover (s : State) : State :=
  if powered s = true ∧ s.time.servo = .locked then
    let s0 := match s.time.lastSync with
      | some t => if timeSource s = 2 then waitMono (t + 3000000000) s else s
      | none => s
    let s1 := latch (event 9 1 0 0 (intCode 64 s.time.offset)) (modTime (fun t => { t with
      servo := .holdover, inRange := 0, holdSince := some s0.clk.mono, holdLatched := false }) s0)
    if holdoverLimit s = 0 then latchHoldover s1 else s1
  else s

def execServoHoldover (s : State) : Host.Outcome State Fault Refusal := .next (servoHoldover s)

/-- HOLDOVER_LIMIT_EXPIRY. -/
def holdoverExpiry (s : State) : State :=
  match s.time.holdSince with
  | some t =>
    if s.time.servo = .holdover ∧ s.time.holdLatched = false then
      latchHoldover (waitMono (t + holdoverLimit s * 1000000000) s)
    else s
  | none => s

def execHoldoverLimitExpiry (s : State) : Host.Outcome State Fault Refusal := .next (holdoverExpiry s)

end Sys2Proof.Machine
end

