-- ==== Sys2Proof/Machine/Ptp.lean ====
section
/-! DEFINITION. PTP messages of the boundary clock (03_tick.md R54; 14_ethernet_management.md R368; 12_fabric_cells_routing.md
R309): on a cell-mode port in packets of VC 9, elsewhere in frames. -/
namespace Sys2Proof.Machine

/-! ### Messages and their bytes -/

/-- A PTP message of IEEE 1588-2019 from its bytes (PRESUMED, log entry 42): messageType, correctionField in 2^-16 ns,
sourcePortIdentity, and the timestamp of 6 bytes of seconds and 4 of nanoseconds. -/
def ptpOf (bs : List Byte) : PtpMsg :=
  let at_ (a n : Nat) : Nat := beNat ((bs.drop a).take n)
  let time := at_ 34 6 * 1000000000 + at_ 40 4
  let corr : Int := (BitVec.ofNat 64 (at_ 8 8)).toInt / 65536
  match at_ 0 1 % 16 with
  | 0 => .sync time corr
  | 1 => .delayReq (at_ 20 10)
  | 2 => .pdelayReq (at_ 20 10)
  | 3 => .pdelayResp time
  | 9 => .delayResp time
  | _ => .general

/-- The bytes of a message as `ptpOf` reads them; what the manual does not give is free (log entries 42, 110). -/
def ptpMessage (draw : Nat) (m : PtpMsg) : List Byte :=
  let (kind, time, n) := match m with
    | .sync t _ => (0, t, 44)
    | .delayReq _ => (1, 0, 44)
    | .pdelayReq _ => (2, 0, 54)
    | .pdelayResp t => (3, t, 54)
    | .delayResp t => (9, t, 54)
    | .general => (8, 0, 44)
  let byte (k : Nat) : Byte := BitVec.ofNat 8 (Config.linkField draw k)
  let corr := match m with | .sync _ c => intCode 64 (c * 65536) | _ => 0
  let identity := match m with
    | .delayReq x => beBytes 10 x
    | .pdelayReq x => beBytes 10 x
    | _ => (List.range 10).map fun k => byte (20 + k)
  BitVec.ofNat 8 ((byte 0).toNat / 16 * 16 + kind) :: (((List.range 7).map fun k => byte (1 + k)) ++ beBytes 8 corr ++
    ((List.range 4).map fun k => byte (16 + k)) ++ identity ++ ((List.range 4).map fun k => byte (30 + k)) ++
    beBytes 6 (time / 1000000000) ++ beBytes 4 (time % 1000000000) ++ (List.range (n - 44)).map fun k => byte (44 + k))

/-- A PTP message leaves on a port: in a packet of VC 9 where the port carries cells (R309). -/
def ptpOut (p : Nat) (m : PtpMsg) (s : State) : State :=
  if cellPort s p then sendLocal p 0xF0 (ptpMessage s.freeCount m) s else emit (.ptp p m) s

/-! ### The boundary clock -/

/-- A PTP message arrives on a port (R54). -/
def ptpArrives (p : Nat) (m : PtpMsg) (s : State) : State :=
  if !powered s then s
  else
    match m with
    | .sync origin correction =>
      if slavePort s p && servoOn s 1 then
        let (t2, s1) := stamp p s
        let t1 : Int := origin + correction
        measure ((t2 : Int) - t1 - s1.time.pathDelay) (modTime (fun t => { t with syncRx := some (t2, t1.toNat) }) s1)
      else s
    | .delayResp t4 =>
      match s.time.syncRx, s.time.delayTx with
      | some (t2, t1), some t3 =>
        if slavePort s p then
          modTime (fun t => { t with
            pathDelay := (((t2 : Int) - t1 + ((t4 : Int) - t3)) / 2).toNat, delayTx := none }) s
        else s
      | _, _ => s
    | .delayReq _ =>
      if ptpRoleOf s p = 2 then let (t, s1) := stamp p s; ptpOut p (.delayResp t) s1 else s
    | .pdelayReq _ =>
      if ptpRoleOf s p ≠ 0 then let (t, s1) := stamp p s; ptpOut p (.pdelayResp t) s1 else s
    | .pdelayResp _ => s
    | .general => s

def execPtpMessageRx (port : Nat) (m : PtpMsg) (s : State) : Host.Outcome State Fault Refusal := .next (ptpArrives port m s)

/-- PTP_MESSAGE_SEND: a master sends a one-step Sync, the slave a Delay_Req (R54, R368). -/
def ptpSend (p : Nat) (s : State) : State :=
  if !powered s then s
  else if ptpRoleOf s p = 2 then let (t, s1) := stamp p s; ptpOut p (.sync t 0) s1
  else if slavePort s p && servoOn s 1 then
    let (t, s1) := stamp p s
    ptpOut p (.delayReq s.plates.device) (modTime (fun x => { x with delayTx := some t }) s1)
  else s

def execPtpMessageSend (port : Nat) (s : State) : Host.Outcome State Fault Refusal := .next (ptpSend port s)

end Sys2Proof.Machine
end

