-- ==== Sys2Proof/Machine/Fabric.lean ====
section
/-! DEFINITION. Cells, links and switching (12_fabric_cells_routing.md R295 to R322; 13_delivery_congestion.md R344, R347;
03_tick.md R75 to R77): lane faults and the spare lane, training, the link-level retry, virtual channels and credits, the
choice of an output, the arbitration at an output, route banks and gate windows. -/
namespace Sys2Proof.Machine

/-! ### Lanes and ports -/

/-- The port that a lane belongs to. -/
def portOfLane (s : State) (lane : Nat) : Option Nat :=
  (List.range 48).find? fun p => match portPlate s p with | some x => x.lanes.contains lane | none => false

/-- The protected port of the bay whose spare lane is 48 + b. -/
def protectedPort (s : State) (bay : Nat) : Option Nat :=
  (List.range 8).findSome? fun j =>
    let p := 8 * bay + j
    match portPlate s p with | some x => if x.protect ∧ x.lanes ≠ [] then some p else none | none => none

/-- A FABRIC event (R446). -/
def fabricEvent (kind level source detail : Nat) : Event := event 5 kind level source detail

/-- Outputs chosen for a port are taken back: the packets are routed again (R307). -/
def unroute (p : Nat) (l : List Waiting) : List Waiting :=
  l.map fun w => if w.output = some p then { w with output := none } else w

/-- Packets that were to leave on a port and have not started are routed again (R307). -/
def unrouteAll (p : Nat) (s : State) : State :=
  modFabric (fun f => { f with
    inject := tmap f.inject fun _ l => unroute p l
    ports := f.ports.map fun y => { y with buffers := tmap y.buffers fun _ l => unroute p l } }) s

/-- What a port that goes DOWN discards and gives up (R307). -/
def takeDown (p : Nat) (s : State) : State :=
  unrouteAll p ( modPort p (fun y => { y with
    st := .down, lanesUp := [], returns := false, retrainAt := s.clk.mono + 100000000, replay := [], partials := []
    recovery := false, retryCount := 0, credits := [], owed := [], spareReq := none, spareUsed := none, wasDown := true
    linked := false, peerSeen := false, ahead := [], linkLocal := [] }) s)

/-- A port goes DOWN (R307). -/
def portDown (p : Nat) (s : State) : State := latch (fabricEvent 2 3 p (getPort s p).peerDev) (takeDown p s)

/-- A lane is lost without cover: the port goes on with the others, or goes DOWN (R307), as a frame-mode port does at once
(R350). -/
def loseLane (p lane : Nat) (s : State) : State :=
  let frame := match portPlate s p with | some y => y.frame | none => false
  let s1 := modPort p (fun x => { x with
    lanesUp := if frame then [] else x.lanesUp.filter (· != lane), spareReq := none }) s
  if (getPort s1 p).lanesUp = [] then portDown p s1 else s1

/-- The spare of a port's bay is free and trained, and covers that port (R306). -/
def spareFree (p : Nat) (s : State) : Bool :=
  let x := getPort s p
  match portPlate s p with
  | some y => y.protect && x.spareUsed.isNone && x.spareReq.isNone && !x.spareBad && !y.frame
  | none => false

/-- Uncorrectable codewords of a lane in the last 1 ms. -/
def recentWords (x : Port) (now lane : Nat) : Nat :=
  sumOf (fun w => if w.1 = lane ∧ now < w.2.1 + 1000000 then w.2.2 else 0) x.words

/-- n more uncorrectable codewords on a lane (R304, R305): they count in UCW too. -/
def noteWords (p lane n : Nat) (s : State) : State :=
  modPort p (fun y => { y with
    ucw := satAdd 16 y.ucw n
    words := (y.words.filter fun w => decide (s.clk.mono < w.2.1 + 1000000)) ++ [(lane, s.clk.mono, n)] }) s

/-- The lane in service to which a link fault is attributed (R304): among equals, which one is left open (log entry 39). -/
def worstLane (s : State) (p : Nat) : Option Nat :=
  let x := getPort s p
  let most := x.lanesUp.foldl (fun m l => max m (recentWords x s.clk.mono l)) 0
  let worst := x.lanesUp.filter fun l => recentWords x s.clk.mono l == most
  worst[Config.blamedLane s.freeCount % max 1 worst.length]?

/-- A lane is at fault (R305). -/
def atFault (s : State) (p lane : Nat) : LaneCause → Bool
  | .lostLock ns => decide (1000 ≤ ns)
  | .codewords _ => decide (s.plates.ucwLimit < recentWords (getPort s p) s.clk.mono lane)
  | .blamed => decide (8 ≤ (getPort s p).retryCount) && worstLane s p == some lane

/-- The port whose lane or spare lane this is. -/
def faultPort (s : State) (lane : Nat) : Option Nat :=
  if 48 ≤ lane then protectedPort s (lane - 48) else portOfLane s lane

/-- A lane fails (R305, R306): a lane of the protected port is taken over by the spare where that is free and trained. -/
def laneFault (p lane : Nat) (s : State) : State :=
  let x := getPort s p
  if 48 ≤ lane then
    let s1 := modPort p (fun x => { x with spareBad := true }) s
    match x.spareUsed with
    | some l => loseLane p l s1
    | none => match x.spareReq with | some (l, _) => loseLane p l s1 | none => s1
  else if !inService x || !x.lanesUp.contains lane then s
  else
    let s1 := modPort p (fun y => { y with laneFaults := satAdd 8 y.laneFaults 1, retryCount := 0 }) s
    if spareFree p s then
      sendControl p 2 lane (modPort p (fun y => { y with
        lanesUp := y.lanesUp.filter (· != lane), spareReq := some (lane, s.clk.mono, s.clk.mono) }) s1)
    else loseLane p lane s1

/-- LANE_FAULT: what a lane has suffered is recorded, and it fails where R305 says so. -/
def laneEvent (lane : Nat) (cause : LaneCause) (s : State) : State :=
  match faultPort s lane with
  | none => s
  | some p =>
    let s1 := match cause with | .codewords n => noteWords p lane n s | _ => s
    if atFault s1 p lane cause then laneFault p lane s1 else s1

def execLaneFault (lane : Nat) (cause : LaneCause) (s : State) : Host.Outcome State Fault Refusal :=
  .next (if running s then laneEvent lane cause s else s)

/-- The spare carries a lane's traffic from now on: UP_SPARED (R306). -/
def toSpare (p lane : Nat) (s : State) : State :=
  modPort p (fun x => { x with
    st := .upSpared, spareUsed := some lane, spareReq := none, lanesUp := addNew x.lanesUp lane }) s

/-- A lane is taken over by the spare, latched at level 2 (R306). -/
def useSpare (p lane : Nat) (s : State) : State := latch (fabricEvent 1 2 lane p) (toSpare p lane s)

/-- SPARE_REQ at the other end: the lane moves to the spare and SPARE_ACK answers. -/
def spareAsked (p lane : Nat) (s : State) : State :=
  let x := getPort s p
  match portPlate s p with
  | none => s
  | some y =>
    if !inService x || !y.protect || !y.lanes.contains lane || x.spareBad then s
    else
      match x.spareUsed with
      | some l => if l = lane then sendControl p 3 lane s else s
      | none => sendControl p 3 lane (useSpare p lane s)

def execSpareReq (port lane : Nat) (s : State) : Host.Outcome State Fault Refusal :=
  .next (if running s then spareAsked port lane s else s)

/-- SPARE_ACK: the lane's traffic moves and every unacknowledged cell is replayed. -/
def spareAnswered (p lane : Nat) (s : State) : State :=
  match (getPort s p).spareReq with
  | some (l, _) =>
    if l = lane then
      let s1 := useSpare p lane s
      match (getPort s1 p).replay with
      | c :: _ => replayFrom p c.lsn s1
      | [] => s1
    else s
  | none => s

def execSpareAck (port lane : Nat) (s : State) : Host.Outcome State Fault Refusal :=
  .next (if running s then spareAnswered port lane s else s)

/-- SPARE_REQ_REPEAT: again every 1 µs. -/
def spareAgain (p : Nat) (s : State) : State :=
  match (getPort s p).spareReq with
  | some (lane, from_, last) =>
    let s1 := waitMono (last + 1000) s
    if from_ + 8000 ≤ s1.clk.mono then s
    else sendControl p 2 lane (modPort p (fun x => { x with spareReq := some (lane, from_, s1.clk.mono) }) s1)
  | none => s

def execSpareReqRepeat (port : Nat) (s : State) : Host.Outcome State Fault Refusal :=
  .next (if running s then spareAgain port s else s)

/-- SPARE_ACK_TIMEOUT: after 8 µs the lane is lost. -/
def spareTimeout (p : Nat) (s : State) : State :=
  match (getPort s p).spareReq with
  | some (lane, from_, _) => loseLane p lane (waitMono (from_ + 8000) s)
  | none => s

def execSpareAckTimeout (port : Nat) (s : State) : Host.Outcome State Fault Refusal :=
  .next (if running s then spareTimeout port s else s)

/-! ### Training (R307, R308, R491) -/

/-- PORT_RETRAIN: every 100 ms a DOWN port trains. -/
def portRetrain (p : Nat) (s : State) : State :=
  let x := getPort s p
  if decide (x.st = .down) && (match portPlate s p with | some y => !y.lanes.isEmpty | none => false) then
    let s1 := waitMono x.retrainAt s
    emit (.train p) (modPort p (fun y => { y with st := .training, retrainAt := s1.clk.mono + 100000000 }) s1)
  else s

def execPortRetrain (port : Nat) (s : State) : Host.Outcome State Fault Refusal :=
  .next (if running s && decide (port < 48) then portRetrain port s else s)

/-- Credits of an idle link: the cells of every buffer at the other end, which has the same BUF (log entry 37). -/
def startCredits (x : PortPlate) : Table Nat :=
  (List.range 11).flatMap fun code =>
    (List.range (if code = 9 then 1 else 7)).map fun cls => (code * 8 + cls, x.buf.getD code 0)

/-- A port's link is trained and runs, on n lanes: LSNs, credits and cells begin anew. -/
def startLink (p n : Nat) (x : PortPlate) (s : State) : State :=
  modPort p (fun y => { y with
    lanesUp := x.lanes.take n, linked := true, linkedAt := s.clk.mono, cellsOut := 0, txLsn := 0, rxLsn := 0, replay := []
    partials := [], ahead := [], words := [], recovery := false, retryCount := 0, credits := startCredits x, owed := []
    spareReq := none, spareUsed := none, spareBad := false }) s

/-- A trained port enters service. -/
def enterService (p : Nat) (s : State) : State :=
  modPort p (fun y => { y with st := .up, returns := false, wasDown := false }) s

/-- A port whose link runs and whose peer is accepted enters service at once, or after a loss of its link at the next tick
edge (R307, R491). -/
def admitPort (p : Nat) (s : State) : State :=
  if (getPort s p).wasDown && ticking s then modPort p (fun z => { z with returns := true }) s else enterService p s

/-- The peer of a port is accepted (R308): none is recorded, or the one that PEER_ID named; a frame-mode port has none. -/
def peerAccepted (x : PortPlate) (y : Port) : Bool :=
  x.frame || decide (65536 ≤ x.peerDev) || (y.peerSeen && y.peerDev == x.peerDev && y.peerPort == x.peerPort)

/-- PORT_TRAINING_DONE: PEER_ID goes out, and the port enters service once its peer is accepted. -/
def trainingDone (p lanes : Nat) (s : State) : State :=
  let x := getPort s p
  match portPlate s p with
  | none => s
  | some y =>
    if x.st ≠ .training ∨ y.lanes.length < lanes then s
    else if lanes = 0 then modPort p (fun z => { z with st := .down, wasDown := true }) s
    else
      let s1 := startLink p lanes y s
      let s2 := if y.frame then s1 else sendLocal p 0xF1 (leBytes 2 s.plates.device ++ leBytes 1 p) s1
      if peerAccepted y x then admitPort p s2 else s2

def execPortTrainingDone (port lanes : Nat) (s : State) : Host.Outcome State Fault Refusal :=
  .next (if running s && decide (port < 48) then trainingDone port lanes s else s)

/-- Ports whose training is done return at the edge (R307). -/
def returnPorts (s : State) : State := each ((List.range 48).filter fun p => (getPort s p).returns) enterService s

/-- PEER_ID: a peer other than the route plate's keeps the port out of service, and packets routed to it are routed again; the
peer expected lets a trained port enter (R308). -/
def peerIdentified (p dev port : Nat) (s : State) : State :=
  match portPlate s p with
  | none => s
  | some y =>
    let s1 := modPort p (fun x => { x with peerDev := dev, peerPort := port, peerSeen := true }) s
    let x := getPort s1 p
    if peerAccepted y x then
      if x.linked && !inService x && !x.returns then admitPort p s1 else s1
    else
      latch (fabricEvent 3 3 p dev) (unrouteAll p (modPort p (fun x => { x with st := .wrongPeer, returns := false }) s1))

/-- A port takes cells: it is in service, or trained and about to be. -/
def takesCells (s : State) (p : Nat) : Bool :=
  cellPort s p && (inService (getPort s p) || ((getPort s p).linked && decide ((getPort s p).st = .training)))

def execPeerId (port peerDev peerPort : Nat) (s : State) : Host.Outcome State Fault Refusal :=
  .next (if running s && cellPort s port && (inService (getPort s port) || decide ((getPort s port).st = .training)) then
      peerIdentified port peerDev peerPort s
    else s)

/-! ### Link-level retry (R302 to R304) -/

/-- The receiver enters recovery and asks for LSN E at once. -/
def enterRecovery (p : Nat) (s : State) : State :=
  let x := getPort s p
  if x.recovery then s
  else sendControl p 1 x.rxLsn (modPort p (fun y => { y with recovery := true, recoverAt := s.clk.mono, ahead := [] }) s)

/-- RETRY_REPEAT: again every 1 µs while recovery lasts. -/
def retryAgain (p : Nat) (s : State) : State :=
  let x := getPort s p
  if x.recovery then
    let s1 := waitMono (x.recoverAt + 1000) s
    sendControl p 1 x.rxLsn (modPort p (fun y => { y with recoverAt := s1.clk.mono }) s1)
  else s

def execRetryRepeat (port : Nat) (s : State) : Host.Outcome State Fault Refusal :=
  .next (if running s then retryAgain port s else s)

/-- RETRY naming E: replay; the eighth for one E without progress is a link fault, attributed to the worst lane (R303, R304). -/
def retryAsked (p e : Nat) (s : State) : State :=
  let x := getPort s p
  if !takesCells s p then s
  else
    let n := if x.retryE = e ∧ x.retryCount ≠ 0 then x.retryCount + 1 else 1
    let s1 := replayFrom p e (modPort p (fun y => { y with retryE := e, retryCount := n }) s)
    if n < 8 then s1
    else
      match worstLane s1 p with
      | some lane => laneFault p lane { s1 with freeCount := s1.freeCount + 1 }
      | none => s1

def execRetry (port e : Nat) (s : State) : Host.Outcome State Fault Refusal :=
  .next (if running s && cellPort s port then retryAsked port e s else s)

/-- ACK_LSN of a cell whose CRC checks frees the replay buffer. -/
def takeAck (p ack : Nat) (s : State) : State :=
  let x := getPort s p
  if x.replay.any (fun c => c.lsn == ack) then
    let left := (x.replay.dropWhile fun c => c.lsn != ack).drop 1
    sendWaitingLocal p (returnCredits p 512 (modPort p (fun y => { y with
      replay := left
      retryCount := if left.any (fun c => c.lsn == y.retryE) then y.retryCount else 0 }) s))
  else s

/-! ### Packets from cells -/

/-- Body bytes of a packet by its header: payload, immediate and seal trailer (R299, R300, R301, R521). -/
def bodyLength (k : Packet) : Nat :=
  let trailer := if k.sealed then 24 else 0
  let imm := if k.last && k.notify then 8 else 0
  if k.void then trailer
  else if k.ptype = 1 ∨ k.ptype = 2 then payloadLen k.msgLen (segOf k) k.pidx + imm + trailer
  else if k.ptype = 0x43 then payloadLen k.msgLen (segOf k) k.pidx + trailer
  else if k.ptype = 3 then trailer
  else if k.ptype = 4 then 24
  else if 0x10 ≤ k.ptype ∧ k.ptype ≤ 0x13 then 16 + payloadLen k.msgLen (segOf k - 16) k.pidx
  else if k.ptype = 0x41 then 16
  else if k.ptype = 0x42 then 12
  else if k.ptype = 0x44 then 8
  else if k.ptype = 0xC1 then 9
  else if k.ptype = 0xC7 then 5
  else k.msgLen

/-- The packet that a head cell's tag and the gathered bytes make (R298). -/
def packetOf (x : Partial) : Packet :=
  let h := wordsOf x.body 4
  let k : Packet :=
    { vc := x.vc, half := x.half, epoch := x.epoch, hops := x.hops
      dstDev := fld (wd h 0) 0 16, dstEp := fld (wd h 0) 16 6, srcDev := fld (wd h 0) 24 16, srcEp := fld (wd h 0) 40 6
      ptype := fld (wd h 0) 48 8, last := bit (wd h 0) 56, notify := bit (wd h 0) 57, sealed := bit (wd h 0) 58
      retx := bit (wd h 0) 59, void := bit (wd h 0) 60, job := fld (wd h 1) 0 32, psn := fld (wd h 1) 32 24
      load := fld (wd h 1) 56 8, msgLen := fld (wd h 2) 0 31, pidx := fld (wd h 2) 32 21, seg := fld (wd h 2) 53 2
      h3 := wd h 3, body := [] }
  { k with body := (x.body.drop 32).take (bodyLength k) }

/-- Count a discarded packet at its port, or at port 0 for a packet of this device. -/
def countDrop (input : Nat) (f : Port → Port) (s : State) : State := modPort (if input < 48 then input else 0) f s
def dropNoRoute (p : Port) : Port := { p with noRoute := satAdd 20 p.noRoute 1 }
def dropEpoch (p : Port) : Port := { p with epochDrop := satAdd 24 p.epochDrop 1 }
def dropHops (p : Port) : Port := { p with hopLimit := satAdd 16 p.hopLimit 1 }

/-- A whole packet has arrived on a port: VC 9 is consumed, anything else waits in its buffer (R309, R310, R313). -/
def packetArrives (p : Nat) (x : Partial) (s : State) : State :=
  let k := packetOf x
  if x.vc = 9 then
    let s1 := freeCells p 9 0 x.cells s
    if k.ptype = 0xF1 then
      let b := (x.body.drop 32)
      peerIdentified p (leNat (b.take 2)) (leNat ((b.drop 2).take 1)) s1
    else if k.ptype = 0xF0 then ptpArrives p (ptpOf (x.body.drop 32)) s1
    else countDrop p dropNoRoute s1
  else
    modPort p (fun y => { y with
      buffers := tset y.buffers (bufferCode k * 8 + k.hops) ((tget y.buffers (bufferCode k * 8 + k.hops)).getD [] ++
        [{ p := k, staleAt := s.clk.mono + holdMax s, output := none, shutAt := none }]) }) s

/-- An accepted cell's credits and body. -/
def takeCell (p : Nat) (c : Cell) (s : State) : State :=
  let t := c.tag
  let s1 := if cellCrCode t = 15 then s
    else sendWaitingLocal p (modPort p (fun y => { y with
      credits := tset y.credits (cellCrCode t * 8 + cellCrClass t)
        ((tget y.credits (cellCrCode t * 8 + cellCrClass t)).getD 0 + cellCrCells t) }) s)
  let same (x : Partial) : Bool := x.vc == cellVc t && x.half == cellHalf t
  let cur : Option Partial :=
    if cellKind t = 1 then
      some { vc := cellVc t, half := cellHalf t, hops := cellHops t, epoch := cellEpoch t, body := c.body, cells := 1 }
    else if cellKind t = 2 then
      ((getPort s p).partials.find? same).map fun x => { x with body := x.body ++ c.body, cells := x.cells + 1 }
    else none
  match cur with
  | none => s1
  | some x =>
    let s2 := modPort p (fun y => { y with
      partials := (y.partials.filter fun z => !same z) ++ (if cellLast t then [] else [x]) }) s1
    if cellLast t then packetArrives p x s2 else s2

/-- A numbered cell whose turn it is. -/
def acceptCell (p : Nat) (c : Cell) (s : State) : State :=
  takeCell p c (modPort p (fun y => { y with rxLsn := (y.rxLsn + 1) % 1024, recovery := false }) s)

/-- Cells of other lanes whose turn has come (R295). -/
def acceptAhead (p : Nat) : Nat → State → State
  | 0, s => s
  | n + 1, s =>
    let x := getPort s p
    match x.ahead.find? fun c => cellLsn c.tag == x.rxLsn with
    | none => s
    | some c => acceptAhead p n (acceptCell p c (modPort p (fun y => { y with ahead := y.ahead.filter (· != c) }) s))

/-- A numbered cell that is not bad (R302): in its turn it is accepted; on a port of k lanes, one fewer than k ahead waits for
the cells of the other lanes (R295, log entry 111); one further ahead starts recovery; one behind is a duplicate. -/
def numberedCell (p : Nat) (c : Cell) (s : State) : State :=
  let x := getPort s p
  let d := (cellLsn c.tag + 1024 - x.rxLsn) % 1024
  if d = 0 then acceptAhead p x.ahead.length (acceptCell p c s)
  else if 512 ≤ d ∨ x.recovery = true then s
  else if d < x.lanesUp.length then
    (if x.ahead.any fun y => cellLsn y.tag == cellLsn c.tag then s else modPort p (fun y => { y with ahead := y.ahead ++ [c] }) s)
  else enterRecovery p s

/-- CELL_RECEIVE (R302). -/
def cellArrives (p : Nat) (c : Cell) (s : State) : State :=
  let crc := cellCrcOk c
  let s1 := if c.fecOk then s
    else
      let t := noteWords p c.lane 1 s
      if atFault t p c.lane (.codewords 1) && faultPort t c.lane == some p then laneFault p c.lane t else t
  let s2 := if crc then takeAck p (cellAck c.tag) s1 else s1
  if !c.fecOk || !crc || !cellLegal c then (if takesCells s2 p then enterRecovery p s2 else s2)
  else if cellKind c.tag = 3 then
    let arg := leNat ((c.body.drop 1).take 2)
    match leNat (c.body.take 1) with
    | 1 => retryAsked p arg s2
    | 2 => spareAsked p arg s2
    | 3 => spareAnswered p arg s2
    | _ => s2
  else if cellKind c.tag = 0 ∧ cellCrCode c.tag = 15 then s2
  else numberedCell p c s2

def execCellReceive (port : Nat) (c : Cell) (s : State) : Host.Outcome State Fault Refusal :=
  .next (if running s && takesCells s port then cellArrives port c s else s)

/-! ### Routing (R319, R320, R322, R347) -/

/-- Cells waiting at this device for an output: all VCs, or VC 0 to 7. -/
def cellsWaiting (s : State) (p : Nat) (all : Bool) : Nat :=
  sumOf (fun b => sumOf (fun w => if w.output = some p ∧ (all = true ∨ w.p.vc < 8) then cellsOf w.p.body.length else 0) b.2.2.2)
    (allBuffers s)

/-- BIAS. -/
def bias (s : State) : Nat := fld s.quoin.tick.routeCtrl 24 12

/-- Candidates in service for cells. -/
def liveCandidates (s : State) (w : Word) : List Nat :=
  (candidates w).filter fun p => inService (getPort s p) && cellPort s p

/-- The candidate of least Q, ties in rotating order from a place. -/
def leastQueued (s : State) (from_ : Nat) (l : List Nat) : Option Nat :=
  let k := if l.length = 0 then 0 else from_ % l.length
  minBy (fun p => cellsWaiting s p true) (l.drop k ++ l.take k)

/-- The hash of FIXED mode (R319). -/
def routeHash (k : Packet) : Nat :=
  crc16 (leBytes 2 k.srcDev ++ leBytes 1 k.srcEp ++ leBytes 3 ((k.psn + 2 ^ 24 - k.pidx % 2 ^ 24) % 2 ^ 24))

/-- The output of a packet: none where there is no route; the flag marks a non-minimal choice. -/
def chooseOutput (s : State) (k : Packet) (h : Nat) : Option (Nat × Bool) :=
  let e := routeOf s k.epoch k.dstDev
  let mins := liveCandidates s e.w0
  let turn := (tget s.fabric.rotate k.dstDev).getD 0
  let m := if mins = [] then none
    else if adaptOf s k.vc = 0 then mins[routeHash k % mins.length]?
    else leastQueued s turn mins
  let n := if adaptOf s k.vc = 2 ∧ h + 1 + nminHops e ≤ 7 then leastQueued s turn (liveCandidates s e.w1) else none
  match m, n with
  | none, none => none
  | none, some b => some (b, true)
  | some a, none => some (a, false)
  | some a, some b =>
    if cellsWaiting s b true * nminHops e + bias s < cellsWaiting s a true * minHops e then some (b, true) else some (a, false)

/-- LOAD of a request head (R347). -/
def withLoad (s : State) (p : Nat) (k : Packet) : Packet :=
  if k.vc ≤ 3 then { k with load := max k.load (min 255 (cellsWaiting s p false / 32)) } else k

/-! ### Gate windows open and close (R75 to R77) -/

/-- GATE_WINDOW_OPEN: at its offset in the tick. -/
def gateOpen (p k : Nat) (s : State) : State :=
  match (gateList s p)[k]? with
  | none => s
  | some w =>
    if w.length = 0 ∨ nextEdge s ≤ s.time.edge + w.start * 64 ∨ windowEnd s w ≤ s.clk.ptp then s
    else modPort p (fun y => { y with openWindows := addNew y.openWindows k }) (waitPtp (s.time.edge + w.start * 64) s)

/-- GATE_WINDOW_CLOSE. -/
def gateClose (p k : Nat) (s : State) : State :=
  match (gateList s p)[k]? with
  | none => s
  | some w =>
    if (getPort s p).openWindows.contains k then
      modPort p (fun y => { y with openWindows := y.openWindows.filter (· != k) }) (waitPtp (windowEnd s w) s)
    else s

def execGateWindowClose (port window : Nat) (s : State) : Host.Outcome State Fault Refusal :=
  .next (if running s && ticking s then gateClose port window s else s)

/-! ### The order at an output (R310, R315) -/

/-- Weight of a VC in the round robin. -/
def vcWeight (s : State) (p vc : Nat) : Nat :=
  if vc = 8 then 1 else max 1 (match portPlate s p with | some x => x.weights.getD vc 1 | none => 1)

/-- The VC served next among those that may start. -/
def nextVc (s : State) (p : Nat) (l : List Head_) : Nat :=
  let x := getPort s p
  let has (v : Nat) : Bool := l.any fun h => h.p.vc == v
  if has 8 && syncFirst s p then 8
  else if has x.turn.1 && decide (0 < x.turn.2) then x.turn.1
  else ((List.range 9).map (fun k => (x.turn.1 + 1 + k) % 9)).find? has |>.getD x.turn.1

/-- The head that the output takes next: its VC in turn, the highest hop class, inputs in rotating order. -/
def nextLeaving (s : State) (p : Nat) : Option Head_ :=
  let l := contenders s p
  let v := nextVc s p l
  let x := getPort s p
  minBy (fun h => (7 - min 7 (nextHops h)) * 64 + (h.input + 48 - x.lastInput) % 49) (l.filter fun h => h.p.vc == v)

/-- The wait of a planned packet at a closed gate adds to D of its program (R78); waits that overlap count once. -/
def addGateWait (tick : Int) (from_ : Nat) (s : State) : State :=
  let now := s.clk.ptp
  { s with runs := s.runs.map fun r =>
      if (r.tick : Int) = tick then { r with delay := r.delay + (now - max from_ r.waited), waited := max now r.waited } else r }

/-- A packet leaves on an output: its cells go out and its buffer is free. -/
def leave (p : Nat) (h : Head_) (s : State) : State :=
  let n := cellsOf h.p.body.length
  let window := s.clk.mono / 10000
  let head := (bufferAt s h.input h.code h.cls).head?
  let s0 := match plannedTick s h, head.bind (·.shutAt) with
    | some t, some a => addGateWait t a s
    | _, _ => s
  let s1 := setBuffer h.input h.code h.cls ((bufferAt s h.input h.code h.cls).drop 1) s0
  let strict := decide (h.p.vc = 8) && syncFirst s p
  let s2 := modPort p (fun y => { y with
    syncWindow := window
    syncCells := (if y.syncWindow = window then y.syncCells else 0) + (if strict then n else 0)
    turn := if strict then y.turn
      else if h.p.vc = y.turn.1 ∧ 0 < y.turn.2 then (h.p.vc, y.turn.2 - 1) else (h.p.vc, vcWeight s p h.p.vc - 1)
    lastInput := h.input }) s1
  freeCells h.input h.code h.cls n (sendCells p { h.p with hops := nextHops h } s2)

/-- A head is discarded: its buffer is free. -/
def discardHead (input code cls : Nat) (w : Waiting) (f : Port → Port) (s : State) : State :=
  freeCells input code cls (cellsOf w.p.body.length)
    (countDrop input f (setBuffer input code cls ((bufferAt s input code cls).drop 1) s))

/-- A listed packet type on the VC it belongs to (R300). -/
def typeFits (k : Packet) : Bool :=
  if [1, 2, 3, 4].contains k.ptype then decide (k.vc ≤ 3)
  else if [0x10, 0x11, 0x12, 0x13].contains k.ptype then k.vc == 2
  else if [0x41, 0x42, 0x43, 0x44].contains k.ptype then decide (4 ≤ k.vc) && decide (k.vc ≤ 7)
  else if [0x81, 0x82, 0x83, 0x84, 0x85, 0x86, 0x87, 0x88].contains k.ptype then k.vc == 8 && !k.half
  else if [0xC1, 0xC2, 0xC7].contains k.ptype then k.vc == 8 && k.half
  else false

/-- Note when a head of a planned docket is first kept by nothing but a closed gate (R78). -/
def noteShut (input code cls p : Nat) (s : State) : State :=
  match bufferAt s input code cls with
  | w :: rest =>
    let h : Head_ := { input := input, code := code, cls := cls, p := w.p }
    if w.shutAt.isNone && (plannedTick s h).isSome && readyBut s p h && !mayLeave s p h then
      setBuffer input code cls ({ w with shutAt := some s.clk.ptp } :: rest) s
    else s
  | [] => s

/-- Send a head on its chosen output when it is the output's next; link-local packets go before all but VC 8 within its share
(R315). -/
def tryLeave (input code cls p : Nat) (s : State) : State :=
  let s1 := sendWaitingLocal p s
  match nextLeaving s1 p with
  | some h =>
    if h.input = input ∧ h.code = code ∧ h.cls = cls then sendWaitingLocal p (leave p h s1) else noteShut input code cls p s1
  | none => noteShut input code cls p s1

/-- A packet of this device that has no route is not sent: its docket ends (R320), and a packet without a docket is
discarded. -/
def ownUnroutable (code cls : Nat) (w : Waiting) (s : State) : State :=
  let s1 := setBuffer ownInput code cls ((bufferAt s ownInput code cls).drop 1) s
  match if isRequest w.p then ownMessage s w.p else none with
  | some m =>
    let k := keyOf w.p
    let last : Bool := match findTx s k with
      | some c => (ctxPackets c).all fun x => !x.2.sent || decide ((x.2.psn + 2 ^ 24 - w.p.psn) % 2 ^ 24 = 0) ||
          decide (2 ^ 23 ≤ (x.2.psn + 2 ^ 24 - w.p.psn) % 2 ^ 24)
      | none => false
    let unsent (x : TxPacket) : TxPacket :=
      if x.psn = w.p.psn ∧ x.resends = 0 ∧ last = true then { x with sent := false, settled := false } else x
    let s2 := modTx k (fun c => { c with
      msgs := c.msgs.map fun y => { y with packets := y.packets.map unsent } }) s1
    noRouteEnds k ((ownMessage s2 w.p).getD m) s2
  | none => modPort 0 (fun q => { q with noRoute := satAdd 20 q.noRoute 1 }) s1

/-- PACKET_ROUTE: the head of a buffer is ejected, given its output once, discarded, or sent on. -/
def routeHead (input code cls : Nat) (s : State) : State :=
  match bufferAt s input code cls with
  | [] => s
  | w :: rest =>
    match w.output with
    | some p => tryLeave input code cls p s
    | none =>
      let bank := (bankOf s w.p.epoch).2
      if bank = .idle ∨ bank = .loading then discardHead input code cls w dropEpoch s
      else if isLocal (routeOf s w.p.epoch w.p.dstDev) then
        if typeFits w.p then
          freeCells input code cls (cellsOf w.p.body.length)
            (modFabric (fun f => { f with ejected := f.ejected ++ [w.p] }) (setBuffer input code cls rest s))
        else discardHead input code cls w dropNoRoute s
      else if input < 48 ∧ 6 ≤ w.p.hops then discardHead input code cls w dropHops s
      else
        match chooseOutput s w.p (if input < 48 then w.p.hops else 0) with
        | none => if input < 48 then discardHead input code cls w dropNoRoute s else ownUnroutable code cls w s
        | some (p, far) =>
          let s1 := modFabric (fun f => { f with
            rotate := tset f.rotate w.p.dstDev ((tget f.rotate w.p.dstDev).getD 0 + 1)
            nonMin := if far then satAdd 64 f.nonMin 1 else f.nonMin }) s
          tryLeave input code cls p
            (setBuffer input code cls ({ w with output := some p, p := withLoad s p w.p } :: rest) s1)

/-- Buffer code of a VC and half. -/
def codeOf (vc : Nat) (half : Bool) : Nat := if vc = 8 ∧ half = true then 10 else vc

def execPacketRoute (input vc : Nat) (half : Bool) (hopClass : Nat) (s : State) : Host.Outcome State Fault Refusal :=
  .next (if running s && decide (input ≤ ownInput) then routeHead input (codeOf vc half) hopClass s else s)

/-- STALE_DISCARD: a head of VC 0 to 7 has waited HOLD_MAX in one input buffer (R344). -/
def discardStale (input vc cls : Nat) (s : State) : State :=
  match bufferAt s input vc cls with
  | w :: _ =>
    let s1 := waitMono w.staleAt s
    modDlv (fun d => { d with stale := satAdd 16 d.stale 1 }) (discardHead input vc cls w (fun p => p) s1)
  | [] => s

def execStaleDiscard (input vc hopClass : Nat) (s : State) : Host.Outcome State Fault Refusal :=
  .next (if running s && decide (input < 48) && decide (vc ≤ 7) then discardStale input vc hopClass s else s)

/-! ### Route banks (R318, R321) -/

def rtOk : Nat := 0
def rtRange : Nat := 2
def rtState : Nat := 6
def rtEntry : Nat := 7

/-- The bank ROUTE_LOAD addresses. -/
def loadBank (s : State) : Bool := bit s.fabric.load 16

def modBank (e : Bool) (f : BankState → BankState) (s : State) : State :=
  modFabric (fun x => if e then { x with bank1 := f x.bank1 } else { x with bank0 := f x.bank0 }) s

def routeAnswer (r : Nat) (s : State) : State := modFabric (fun f => { f with result := r }) s

/-- ROUTE_LOAD takes its writable fields; OP 3 gives RANGE. -/
def writeRouteLoad (v : Word) (s : State) : State := modFabric (fun f => { f with load := place (fld v 0 18) 0 18 }) s

/-- OP LOAD (R321). -/
def routeLoad (v : Word) (s : State) : State :=
  let s1 := writeRouteLoad v s
  let e := loadBank s1
  match (bankOf s1 e).2 with
  | .inForce | .draining => routeAnswer rtState s1
  | _ => routeAnswer rtOk (modBank e (fun _ => .loading) s1)

def execRouteLoad (value : Word) (s : State) : Host.Outcome State Fault Refusal :=
  .next (if barAnswers s then routeLoad value s else s)

/-- A candidate on a frame-mode port outside the one form of R353. -/
def frameBad (s : State) (e : RouteEntry) : Bool :=
  let frame (p : Nat) : Bool := match portPlate s p with | some x => x.frame | none => false
  let all := candidates e.w0 ++ candidates e.w1
  all.any frame && !(decide (all.length = 1) && bit e.w0 6 && decide (minHops e = 1))

/-- The first illegal entry of a table: unlisted entries are zeros, legal but at this device's own number. -/
def firstIllegal (s : State) (t : Table RouteEntry) : Option Nat :=
  let own := s.plates.device
  let bad := (t.filter fun x => routeBad own x.1 x.2 || frameBad s x.2).map (·.1)
  minBy id (if (tget t own).isNone then own :: bad else bad)

/-- OP READY (R318, R321). -/
def routeReady (v : Word) (s : State) : State :=
  let s1 := writeRouteLoad v s
  let e := loadBank s1
  match bankOf s1 e with
  | (t, .loading) =>
    match firstIllegal s1 t with
    | some k => routeAnswer rtEntry (modFabric (fun f => { f with badEntry := k }) s1)
    | none => routeAnswer rtOk (modBank e (fun _ => .ready) s1)
  | _ => routeAnswer rtState s1

def execRouteReady (value : Word) (s : State) : Host.Outcome State Fault Refusal :=
  .next (if barAnswers s then routeReady value s else s)

/-- ROUTE_DATA1_WRITE: both words of the entry, where BANK is LOADING. -/
def routeData1 (v : Word) (s : State) : State :=
  let e := loadBank s
  let k := fld s.fabric.load 0 16
  let entry : RouteEntry := { w0 := s.fabric.data0, w1 := v }
  let s1 := modFabric (fun f => { f with
    data1 := v, load := if bit f.load 17 then setFld f.load 0 16 ((k + 1) % 65536) else f.load }) s
  match (bankOf s e).2 with
  | .loading =>
    routeAnswer rtOk (modFabric (fun f =>
      if e then { f with route1 := tset f.route1 k entry } else { f with route0 := tset f.route0 k entry }) s1)
  | _ => routeAnswer rtState s1

def execRouteData1Write (value : Word) (s : State) : Host.Outcome State Fault Refusal :=
  .next (if barAnswers s then routeData1 value s else s)

/-- ROUTE_DRAIN_EXPIRY: DRAIN_US after the edge the draining bank is IDLE. -/
def drainOver (s : State) : State :=
  if s.fabric.bank0 = .draining then modBank false (fun _ => .idle) (waitMono s.fabric.drainAt s)
  else if s.fabric.bank1 = .draining then modBank true (fun _ => .idle) (waitMono s.fabric.drainAt s)
  else s

def execRouteDrainExpiry (s : State) : Host.Outcome State Fault Refusal := .next (if running s then drainOver s else s)

end Sys2Proof.Machine
end

