-- ==== Sys2Proof/Machine/Ether.lean ====
section
/-! DEFINITION. Frame-mode ports (14_ethernet_management.md R350 to R352, R360 to R368): the fields and checks of a frame, the
frames queued at a port with their gates and pauses, raw frames, and priority flow control. -/
namespace Sys2Proof.Machine

/-! ### Fields of a frame (IEEE 802.3, 802.1Q; RFC 791, 768, 793, 8200) -/

/-- Bytes a to a + n − 1 as a number in network order. -/
def netAt (bs : List Byte) (a n : Nat) : Nat := beNat ((bs.drop a).take n)

def destMac (bs : List Byte) : Nat := netAt bs 0 6
def sourceMac (bs : List Byte) : Nat := netAt bs 6 6
def tagged (bs : List Byte) : Bool := netAt bs 12 2 == 0x8100
def frameTci (bs : List Byte) : Nat := if tagged bs then netAt bs 14 2 else 0
/-- The priority a frame is carried with; 0 untagged. -/
def framePcp (bs : List Byte) : Nat := frameTci bs / 8192
def l3At (bs : List Byte) : Nat := if tagged bs then 18 else 14
def etherType (bs : List Byte) : Nat := netAt bs (l3At bs - 2) 2
def isV4 (bs : List Byte) : Bool :=
  etherType bs == 0x0800 && netAt bs (l3At bs) 1 / 16 == 4 && decide (l3At bs + 20 ≤ bs.length)
def isV6 (bs : List Byte) : Bool :=
  etherType bs == 0x86DD && netAt bs (l3At bs) 1 / 16 == 6 && decide (l3At bs + 40 ≤ bs.length)
def ipHeader (bs : List Byte) : Nat := if isV4 bs then netAt bs (l3At bs) 1 % 16 * 4 else 40
def l4At (bs : List Byte) : Nat := l3At bs + ipHeader bs
def l4Length (bs : List Byte) : Nat :=
  if isV4 bs then netAt bs (l3At bs + 2) 2 - ipHeader bs else netAt bs (l3At bs + 4) 2
/-- Protocol of an unfragmented packet; 255 where there is none. -/
def ipProtocol (bs : List Byte) : Nat :=
  if isV4 bs then (if netAt bs (l3At bs + 6) 2 % 0x4000 = 0 then netAt bs (l3At bs + 9) 1 else 255)
  else if isV6 bs then netAt bs (l3At bs + 6) 1
  else 255
def isUdp (bs : List Byte) : Bool := ipProtocol bs == 17
def isTcp (bs : List Byte) : Bool := ipProtocol bs == 6
def udpDest (bs : List Byte) : Nat := netAt bs (l4At bs + 2) 2
def ipSource (bs : List Byte) : Nat := netAt bs (l3At bs + 12) 4
def ipDest (bs : List Byte) : Nat := netAt bs (l3At bs + 16) 4
/-- UDP/IPv4 to port 4791. -/
def isRoce (bs : List Byte) : Bool := isV4 bs && isUdp bs && udpDest bs == 4791

/-! ### Checksums (R360) -/

/-- Sum of 16-bit words in network order. -/
def sum16 : List Byte → Nat
  | [] => 0
  | [a] => a.toNat * 256
  | a :: b :: r => a.toNat * 256 + b.toNat + sum16 r

/-- Ones' complement sum. -/
def fold16 (n : Nat) : Nat :=
  let m := n % 65536 + n / 65536
  m % 65536 + m / 65536

/-- The IPv4 header. -/
def ipBytes (bs : List Byte) : List Byte := (bs.drop (l3At bs)).take (ipHeader bs)

/-- The sum of the L4 segment with its pseudo-header. -/
def l4Sum (bs : List Byte) : Nat :=
  let seg := (bs.drop (l4At bs)).take (l4Length bs)
  let pseudo := if isV4 bs then (bs.drop (l3At bs + 12)).take 8 else (bs.drop (l3At bs + 8)).take 32
  fold16 (sum16 seg + sum16 pseudo + l4Length bs + ipProtocol bs)

/-- Where the checksum of the L4 header stands. -/
def l4Check (bs : List Byte) : Nat := l4At bs + (if isUdp bs then 6 else 16)

/-- Bytes from `a` on replaced. -/
def putBytes (bs : List Byte) (a : Nat) (new : List Byte) : List Byte := bs.take a ++ new ++ bs.drop (a + new.length)

/-- The invariant CRC over an IPv4 packet without its last 4 bytes, with the fields that may change read as ones
(PRESUMED, IBTA Annex A17; log entry 17). -/
def invariantCrc (bs : List Byte) : Nat :=
  let ip := l3At bs
  let udp := l4At bs
  let body := bs.take (udp + l4Length bs - 4)
  let ones (l : List Byte) (i : Nat) : List Byte := modAt l i fun _ => 0xFF
  let masked := [ip + 1, ip + 8, ip + 10, ip + 11, udp + 6, udp + 7, udp + 12].foldl ones body
  crc32 (List.replicate 8 0xFF ++ masked.drop ip)

/-- What is wrong with a frame (R361). -/
structure Flaws where
  fcs : Bool
  runt : Bool
  giant : Bool
  pcs : Bool
  ip : Bool
  l4 : Bool
  icrc : Bool
deriving DecidableEq, Repr

def flawsOf (s : State) (p : Nat) (f : Frame) : Flaws where
  fcs := crc32 f.bytes != f.fcs.toNat
  runt := decide (f.bytes.length + 4 < 64)
  giant := decide (maxFrame s p < f.bytes.length + 4)
  pcs := f.pcsError
  ip := isV4 f.bytes && fold16 (sum16 (ipBytes f.bytes)) != 0xFFFF
  l4 := (isUdp f.bytes && netAt f.bytes (l4Check f.bytes) 2 != 0 || isTcp f.bytes) && l4Sum f.bytes != 0xFFFF
  icrc := isRoce f.bytes && leNat ((f.bytes.drop (l4At f.bytes + l4Length f.bytes - 4)).take 4) != invariantCrc f.bytes

def Flaws.any (x : Flaws) : Bool := x.fcs || x.runt || x.giant || x.pcs || x.ip || x.l4 || x.icrc

/-! ### Ports in frame mode -/

/-- A port exists and is in frame mode. -/
def isFramePort (s : State) (p : Nat) : Bool :=
  match portPlate s p with | some x => x.frame && !x.lanes.isEmpty | none => false

/-- MAC address of a port; the management port is number 48 (R351, R369). -/
def ownMac (p : Nat) : Nat := (Config.macBase.toNat + p) % 2 ^ 48

def deliverFlawed (s : State) (p : Nat) : Bool := bit (getPort s p).ethCtrl 0
def rawEn (s : State) (p : Nat) : Bool := bit (getPort s p).ethCtrl 1
def pfcEn (s : State) (p v : Nat) : Bool := bit (getPort s p).ethCtrl (8 + v)

/-- Frames that a port accepts: by destination address, with or without one 802.1Q tag (R351). -/
def acceptsFrame (p : Nat) (bs : List Byte) : Bool :=
  [ownMac p, 0xFFFFFFFFFFFF, 0x011B19000000, 0x0180C200000E].contains (destMac bs) && !(tagged bs && etherType bs == 0x8100)

/-- Opcodes of the reliable connected transport and of CNP (R355, R359). -/
def roceKnown (op : Nat) : Bool := decide (op ≤ 0x14) || op == 0x16 || op == 0x17 || op == 0x81

/-- Paths of a received frame (R352, R361); PFC frames go to the MAC control of R365 (log entry 45). -/
inductive Path where
  | pfc
  | notMine
  | flawDrop
  | ptp
  | roce
  | raw
deriving DecidableEq, Repr

/-- A PFC frame of IEEE 802.1Qbb. -/
def isPfc (bs : List Byte) : Bool :=
  destMac bs == 0x0180C2000001 && netAt bs 12 2 == 0x8808 && netAt bs 14 2 == 0x0101

/-- PTP over IEEE 802.3 or over UDP/IPv4 (R352). -/
def isPtpFrame (bs : List Byte) : Bool :=
  etherType bs == 0x88F7 || (isV4 bs && isUdp bs && (udpDest bs == 319 || udpDest bs == 320))

/-- The PTP message in a frame. -/
def ptpBytes (bs : List Byte) : List Byte := bs.drop (if etherType bs = 0x88F7 then l3At bs else l4At bs + 8)

/-- The path a frame takes (R351, R352, R361). -/
def pathOf (s : State) (p : Nat) (f : Frame) : Path :=
  let x := flawsOf s p f
  if isPfc f.bytes then (if x.any then .flawDrop else .pfc)
  else if !acceptsFrame p f.bytes then .notMine
  else if x.any then (if deliverFlawed s p && rawEn s p then .raw else .flawDrop)
  else if isPtpFrame f.bytes then .ptp
  else if isRoce f.bytes && ipDest f.bytes == (getPort s p).ipv4 then .roce
  else if rawEn s p then .raw
  else .notMine

/-- A frame may arrive: the port is in frame mode and in service. -/
def frameComes (s : State) (p : Nat) : Bool := running s && isFramePort s p && inService (getPort s p)

/-! ### Sending frames (R364, R365, R367) -/

/-- Time of `n` bytes with FCS on a port, in ps. -/
def frameTime (s : State) (p n : Nat) : Nat := (n + 4) * 8 * 1000000 / max 1 (portRate s p)

/-- A priority is paused. -/
def isPaused (s : State) (p v : Nat) : Bool := (tget (getPort s p).pauseUntil v).isSome

/-- The oldest frame of its priority that may start now. -/
def nextFrame (s : State) (p : Nat) : Option (Nat × List Byte × Option (Nat × Nat × Nat)) :=
  let l := (getPort s p).frames
  l.find? fun f => (l.find? fun g => g.1 == f.1) == some f && !isPaused s p f.1 &&
    gateFits s p f.1 (frameTime s p f.2.1.length)

/-- A raw docket whose frame has left its port completes (R362). -/
def endRaw (out : Settled) (o : Option (Nat × Nat × Nat)) (s : State) : State :=
  match o with
  | some (i, qi, ord) => settle i qi ord out s
  | none => s

/-- Bytes of the docket behind a frame. -/
def rawLength (s : State) (o : Option (Nat × Nat × Nat)) : Nat :=
  match o.bind fun x => runOf s x.1 x.2.1 x.2.2 with
  | some (q, r) => dLen (runWords q r)
  | none => 0

/-- Send every queued frame that may start. -/
def drainFrames (p : Nat) : Nat → State → State
  | 0, s => s
  | fuel + 1, s =>
    if !inService (getPort s p) then s
    else
      match nextFrame s p with
      | none => s
      | some f =>
        let s1 := modPort p (fun x => { x with frames := delFirst x.frames (· == f) }) s
        drainFrames p fuel (endRaw (settledOk (rawLength s f.2.2)) f.2.2 (emit (.frame p f.2.1) s1))

def drainPort (p : Nat) (s : State) : State := drainFrames p ((getPort s p).frames.length) s

/-- Queue a frame on a port. -/
def queueFrame (p v : Nat) (bs : List Byte) (o : Option (Nat × Nat × Nat)) (s : State) : State :=
  drainPort p (modPort p (fun x => { x with frames := x.frames ++ [(v, bs, o)] }) s)

def execGateWindowOpen (port window : Nat) (s : State) : Host.Outcome State Fault Refusal :=
  .next (if running s && ticking s then drainPort port (gateOpen port window s) else s)

/-! ### Priority flow control (R365, R367) -/

/-- Cells of 64 bytes that a frame takes in its buffer. -/
def frameCells (f : Frame) : Nat := ceilDiv f.bytes.length 64

/-- Cells held for a priority. -/
def occupancy (s : State) (p v : Nat) : Nat :=
  sumOf (fun (x : Nat × Frame × Nat) => frameCells x.2.1) ((getPort s p).received.filter fun x => x.1 == v)

/-- Time of `n` pause quanta of 512 bits in ns. -/
def quantaTime (s : State) (p n : Nat) : Nat := n * 512000 / max 1 (portRate s p)

/-- Send or end PAUSE as the buffer of a priority stands. -/
def pauseCheck (p v : Nat) (s : State) : State :=
  match portPlate s p with
  | none => s
  | some x =>
    let n := occupancy s p v
    let on := (tget (getPort s p).pausing v).isSome
    if !on && pfcEn s p v && decide (x.xoff.getD v 0 < n) then
      emit (.pfc p [(v, 0xFFFF)]) (modPort p (fun y => { y with
        pausing := tset y.pausing v (s.clk.mono + quantaTime s p 0xFFFF / 2) }) s)
    else if on && decide (n < x.xon.getD v 0) then
      emit (.pfc p [(v, 0)]) (modPort p (fun y => { y with pausing := tdel y.pausing v }) s)
    else s

/-- PFC_REPEAT: again every half quantum time while the buffer holds more than XON. -/
def pfcAgain (p v : Nat) (s : State) : State :=
  match tget (getPort s p).pausing v with
  | none => s
  | some t =>
    let s1 := waitMono t s
    emit (.pfc p [(v, 0xFFFF)]) (modPort p (fun y => { y with
      pausing := tset y.pausing v (s1.clk.mono + quantaTime s p 0xFFFF / 2) }) s1)

def execPfcRepeat (port priority : Nat) (s : State) : Host.Outcome State Fault Refusal :=
  .next (if frameComes s port then pfcAgain port priority s else s)

/-- A PFC frame pauses the priorities it names for its quanta, or lets them go on. -/
def pfcArrives (p : Nat) (quanta : List (Nat × Nat)) (s : State) : State :=
  let one (x : Nat × Nat) (t : State) : State :=
    if !pfcEn t p x.1 || decide (8 ≤ x.1) then t
    else if x.2 = 0 then
      modPort p (fun y => { y with pauseUntil := tdel y.pauseUntil x.1, pausedSince := tdel y.pausedSince x.1 }) t
    else
      modPort p (fun y => { y with
        pauseUntil := tset y.pauseUntil x.1 (t.clk.mono + quantaTime t p x.2)
        pausedSince := tset y.pausedSince x.1 ((tget y.pausedSince x.1).getD t.clk.mono) }) t
  drainPort p (each quanta one s)

def execPfcFrameRx (port : Nat) (quanta : List (Nat × Nat)) (s : State) : Host.Outcome State Fault Refusal :=
  .next (if frameComes s port then pfcArrives port quanta s else s)

/-- PFC_PAUSE_EXPIRY: the quanta run out. -/
def pauseExpiry (p v : Nat) (s : State) : State :=
  match tget (getPort s p).pauseUntil v with
  | none => s
  | some t =>
    drainPort p (modPort p (fun y => { y with pauseUntil := tdel y.pauseUntil v, pausedSince := tdel y.pausedSince v })
      (waitMono t s))

def execPfcPauseExpiry (port priority : Nat) (s : State) : Host.Outcome State Fault Refusal :=
  .next (if frameComes s port then pauseExpiry port priority s else s)

/-- The outcome of a raw docket whose frame was discarded before it left: the manual states none (log entry 46). -/
def discardedRaw (s : State) : Settled × State :=
  let (w, s1) := freeWord s
  (settledAs (if bit w 0 then stOk else stUnreachable) 0 0, s1)

/-- PFC_WATCHDOG: a priority paused for longer than 10 ms loses the frames queued for it (R367). -/
def pfcWatchdog (p v : Nat) (s : State) : State :=
  match tget (getPort s p).pausedSince v, tget (getPort s p).pauseUntil v with
  | some t, some u =>
    if u ≤ t + 10000000 then s
    else
      let s1 := waitMono (t + 10000000) s
      let gone := (getPort s1 p).frames.filter fun f => f.1 == v
      let s2 := modPort p (fun y => { y with
        frames := y.frames.filter (fun f => f.1 != v), pfcWd := satAdd 16 y.pfcWd gone.length
        pausedSince := tset y.pausedSince v s1.clk.mono }) s1
      let s3 := each gone (fun f x => let (o, y) := discardedRaw x; endRaw o f.2.2 y) s2
      latch (fabricEvent 4 1 p v) s3
  | _, _ => s

def execPfcWatchdog (port priority : Nat) (s : State) : Host.Outcome State Fault Refusal :=
  .next (if frameComes s port then pfcWatchdog port priority s else s)

/-! ### Raw frames (R362, R363) -/

/-- A frame lacks a header that a checksum flag of its docket needs (R362). -/
def rawLacks (w : List Word) (bs : List Byte) : Bool :=
  (bit (wd w 0) 17 && !isV4 bs) || (bit (wd w 0) 18 && !(isUdp bs || isTcp bs)) || (bit (wd w 0) 19 && !isRoce bs)

/-- The frame of a raw docket: PCP, invariant CRC, IPv4 and L4 checksums, padding. -/
def rawFrame (w : List Word) (cls : Nat) (bs : List Byte) : List Byte :=
  let b0 := if tagged bs then putBytes bs 14 (beBytes 2 (frameTci bs % 8192 + cls * 8192)) else bs
  let b1 := if bit (wd w 0) 19 then b0 ++ leBytes 4 (invariantCrc (b0 ++ [0, 0, 0, 0])) else b0
  let b2 := if bit (wd w 0) 17 then
      (let z := putBytes b1 (l3At b1 + 10) [0, 0]
       putBytes z (l3At z + 10) (beBytes 2 (0xFFFF - fold16 (sum16 (ipBytes z)))))
    else b1
  let b3 := if bit (wd w 0) 18 then
      (let z := putBytes b2 (l4Check b2) [0, 0]
       let c := 0xFFFF - l4Sum z
       putBytes z (l4Check z) (beBytes 2 (if c = 0 ∧ isUdp z then 0xFFFF else c)))
    else b2
  b3 ++ List.replicate (60 - b3.length) 0

/-- RAW_SEND: the frame is read, completed and queued at its port; the receipt comes when it has left (R362). -/
def rawSend (i qi : Nat) (q : Queue) (r : Run) (s : State) : State :=
  let w := runWords q r
  if !isRaw w then s
  else
    match findSeg r.segs (dSrc w) (dLen w) true false with
    | none => settle i qi r.ord (settledAs stSegmentFault 0 0) s
    | some g =>
      if g.kind = 4 then settle i qi r.ord (settledAs stSegmentFault 0 0) s
      else
        let (rd, s1) := readSeg i g (dSrc w) (dLen w) s
        let s2 := latchAll rd.events s1
        match rd.fail with
        | some f => settle i qi r.ord { settledAs stDataError 0 f.2 with twin := rd.twin } s2
        | none =>
          let bs := match r.lig with | some l => applyLig l rd.bytes [] s2.freeCount | none => rd.bytes
          let s3 := { s2 with freeCount := s2.freeCount + ligDraws r.lig rd.bytes.length }
          if rawLacks w bs then placeAll (malformed i qi r 0 s3)
          else
            queueFrame (dRank w) r.cls (rawFrame w r.cls bs) (some (i, qi, r.ord))
              (markExecuted i qi r.ord s3)

def execRawSend (d : DRef) (s : State) : Host.Outcome State Fault Refusal :=
  .next (startDocket d opSend (rawSend d.inst d.queue) s)

/-- DETAIL of a raw frame's notification (R363). -/
def rawDetail (x : Flaws) (long : Bool) (bs : List Byte) : Nat :=
  let b (v : Bool) (k : Nat) : Nat := if v then 2 ^ k else 0
  b x.fcs 0 + b x.runt 1 + b (x.giant || long) 2 + b x.pcs 3 + b x.ip 4 + b x.l4 5 + b x.icrc 6 + b (tagged bs) 7

/-- Word 2 of a raw frame's notification. -/
def rawWord (p ns : Nat) (bs : List Byte) : Word :=
  place p 0 6 ||| place (if isV4 bs then 1 else if isV6 bs then 2 else 0) 6 2 |||
    place (if isRoce bs then 3 else if isUdp bs then 1 else if isTcp bs then 2 else 0) 8 2 |||
    place (frameTci bs) 16 16 ||| place ns 32 32

/-- A raw frame has no room: it is discarded and counted (R363). -/
def rawFull (p : Nat) (s : State) : State := modPort p (fun x => { x with rawFull := satAdd 16 x.rawFull 1 }) s

/-- The timestamp of a raw frame's first byte: the one it was held with. -/
def frameStamp (p : Nat) (f : Frame) (s : State) : Nat × State :=
  match (getPort s p).received.find? (fun y => y.2.1 == f) with
  | some y => (y.2.2, s)
  | none => stamp p s

/-- A received raw frame goes to its slot of the raw window with a notification that tells when it came (R363). -/
def rawArrives (p : Nat) (f : Frame) (came : Nat) (s : State) : State :=
  match portPlate s p with
  | none => s
  | some x =>
    match x.rawInst with
    | none => rawFull p s
    | some i =>
      match tget (getInst s i).wins x.rawWindow with
      | none => rawFull p s
      | some w =>
        let k := (getPort s p).rawCount % max 1 x.rawSlots
        let data := f.bytes.take 16384
        let off := k * 16384
        if !w.valid || !notifyReady s i w || decide (w.length < off + max data.length 1) then rawFull p s
        else
          match findSeg (getInst s i).segs (w.base + off) (max data.length 1) false false with
          | none => rawFull p s
          | some g =>
            let (wr, s1) := writeSeg i g (w.base + off) data s
            let s2 := latchAll wr.events s1
            if wr.fail.isSome then rawFull p s2
            else
              let out : Settled := { settledAs stOk data.length
                (rawDetail (flawsOf s p f) (decide (16384 < f.bytes.length)) f.bytes) with
                extra := rawWord p (came % 1000000000) f.bytes }
              writeReceipt i w.notifyQueue
                { kind := 1, index := x.rawWindow, tag := k, out := out, late := false, tickLo := s.time.tick % 2 ^ 32,
                  subtick := subtick s, signal := true }
                (flushWindow i w (modPort p (fun y => { y with rawCount := (y.rawCount + 1) % max 1 x.rawSlots }) s2))

/-- A frame leaves the receive buffer. -/
def takeFrame (p : Nat) (f : Frame) (s : State) : State :=
  pauseCheck p (framePcp f.bytes) (modPort p (fun x => { x with received := delFirst x.received fun y => y.2.1 == f }) s)

def execRawFrameRx (port : Nat) (f : Frame) (s : State) : Host.Outcome State Fault Refusal :=
  .next (if frameComes s port && pathOf s port f == .raw then
    let (t, s1) := frameStamp port f s
    rawArrives port f t (takeFrame port f s1) else s)

/-! ### Receiving (R351, R352, R360, R361) -/

/-- FCS and CSUM of ETH_ERR, for every frame (R360). -/
def countFlaws (p : Nat) (x : Flaws) (s : State) : State :=
  modPort p (fun y => { y with
    fcsErr := if x.fcs then satAdd 16 y.fcsErr 1 else y.fcsErr
    csumErr := if x.ip || x.l4 || x.icrc then satAdd 16 y.csumErr 1 else y.csumErr }) s

/-- A frame for RoCE or for the raw path waits in the receive buffer of its priority, where there is room. -/
def holdFrame (p : Nat) (f : Frame) (s : State) : State :=
  let v := framePcp f.bytes
  let room := match portPlate s p with | some x => x.buf.getD v 0 | none => 0
  if room < occupancy s p v + frameCells f then s
  else
    let (t, s1) := stamp p s
    pauseCheck p v (modPort p (fun x => { x with received := x.received ++ [(v, f, t)] }) s1)

def RoceConn.localQpn (c : RoceConn) : Nat := fld (wd c.words 0) 0 24
def RoceConn.peerIp (c : RoceConn) : Nat := fld (wd c.words 3) 0 32
/-- The send context of a connection. -/
def roceKey (s : State) (c : RoceConn) : ConnKey :=
  { srcDev := s.plates.device, srcEp := c.endpoint, dstDev := c.peerDev, dstEp := c.peerEp, vc := roceVc }

/-- A connection still serves what is bound to it (R29). -/
def roceBound (s : State) (c : RoceConn) : Bool :=
  c.rx.isSome || (match findTx s (roceKey s c) with | some x => !x.msgs.isEmpty | none => false)

/-- Destination queue pair of the base transport header. -/
def rxQpn (bs : List Byte) : Nat := netAt bs (l4At bs + 13) 3

/-- The connection that holds a packet's destination queue pair, from its peer's address (R356). -/
def roceHolder (s : State) (bs : List Byte) : Option (Nat × RoceConn) :=
  s.ether.roce.find? fun c => c.2.localQpn == rxQpn bs && c.2.peerIp == ipSource bs && (c.2.valid || roceBound s c.2)

/-- A packet for no connection is discarded and counted (R356). -/
def roceStray (p : Nat) (s : State) : State := modPort p (fun x => { x with roceDrop := satAdd 16 x.roceDrop 1 }) s

/-- The priorities and quanta a PFC frame names. -/
def pfcQuanta (bs : List Byte) : List (Nat × Nat) :=
  (List.range 8).filterMap fun v => if netAt bs 16 2 / 2 ^ v % 2 = 1 then some (v, netAt bs (18 + 2 * v) 2) else none

/-- FRAME_RECEIVE: the frame is sorted to its path; a RoCE packet of another transport is dropped (log entry 45). -/
def frameArrives (p : Nat) (f : Frame) (s : State) : State :=
  let s1 := countFlaws p (flawsOf s p f) s
  match pathOf s p f with
  | .pfc => pfcArrives p (pfcQuanta f.bytes) s1
  | .notMine => modPort p (fun x => { x with notMine := satAdd 16 x.notMine 1 }) s1
  | .flawDrop => modPort p (fun x => { x with flawedDrop := satAdd 16 x.flawedDrop 1 }) s1
  | .ptp => ptpArrives p (ptpOf (ptpBytes f.bytes)) s1
  | .roce =>
    if roceKnown (netAt f.bytes (l4At f.bytes + 8) 1) then holdFrame p f s1
    else if (roceHolder s1 f.bytes).isSome then s1 else roceStray p s1
  | .raw => holdFrame p f s1

def execFrameReceive (port : Nat) (f : Frame) (s : State) : Host.Outcome State Fault Refusal :=
  .next (if frameComes s port then frameArrives port f s else s)

end Sys2Proof.Machine
end

