-- ==== Sys2Proof/Machine/Roce.lean ====
section
/-! DEFINITION. The RoCE v2 subset (14_ethernet_management.md R353 to R360): connections, outbound messages in packets of PMTU,
inbound requests, acknowledgements, retries, congestion notification. The headers are those of the IBTA specification
(PRESUMED, log entry 17). -/
namespace Sys2Proof.Machine

/-! ### The entry of a connection (R354) -/

def RoceConn.peerQpn (c : RoceConn) : Nat := fld (wd c.words 1) 0 24
def RoceConn.startPsn (c : RoceConn) : Nat := fld (wd c.words 1) 32 24
def RoceConn.retry (c : RoceConn) : Nat := fld (wd c.words 1) 56 3
def RoceConn.rnrRetry (c : RoceConn) : Nat := fld (wd c.words 1) 59 3
def RoceConn.peerMac (c : RoceConn) : Nat := fld (wd c.words 2) 0 48
def RoceConn.vid (c : RoceConn) : Nat := fld (wd c.words 2) 48 12
def RoceConn.udpSrc (c : RoceConn) : Nat := fld (wd c.words 3) 32 16
def RoceConn.ackTime (c : RoceConn) : Nat := 4096 * 2 ^ fld (wd c.words 3) 48 5
def RoceConn.recvWindow (c : RoceConn) : Nat := fld (wd c.words 4) 0 16
def RoceConn.recvSlots (c : RoceConn) : Nat := fld (wd c.words 4) 16 16
def RoceConn.slotBytes (c : RoceConn) : Nat := 2 ^ (fld (wd c.words 4) 32 4 + 10)

/-- A reserved field that is not 0, or a value outside its range. -/
def roceBad (w : List Word) : Bool :=
  bit (wd w 0) 31 || fld (wd w 0) 56 8 != 0 || fld (wd w 0) 0 24 == 0 || fld (wd w 0) 54 2 == 3 ||
    fld (wd w 1) 24 8 != 0 || fld (wd w 1) 62 2 != 0 || fld (wd w 2) 60 4 != 0 || fld (wd w 3) 53 11 != 0 ||
    fld (wd w 3) 48 5 == 0 || fld (wd w 4) 36 28 != 0 || fld (wd w 4) 16 16 == 0 || decide (5 < fld (wd w 4) 32 4) ||
    wd w 5 != 0 || wd w 6 != 0 || wd w 7 != 0

def modRoce (n : Nat) (f : RoceConn → RoceConn) (s : State) : State := modEther (fun e => { e with roce := tmod e.roce n f }) s

/-- Cleared connections that nothing is bound to any more are gone. -/
def tidyRoce (s : State) : State :=
  let gone := s.ether.roce.filter fun c => !c.2.valid && !roceBound s c.2
  if gone.isEmpty then s
  else
    let keys := gone.map fun c => roceKey s c.2
    modDlv (fun d => { d with tx := d.tx.filter fun x => !keys.contains x.key })
      (modEther (fun e => { e with roce := e.roce.filter fun c => c.2.valid || roceBound s c.2 }) s)

/-- ROCE_CONN_STATUS. -/
def roceAnswer (result : Nat) (s : State) : State := modEther (fun e => { e with roceResult := result }) s

/-- A new connection. -/
def newRoce (w : List Word) : RoceConn where
  words := w
  valid := true
  error := false
  expPsn := none
  msn := 0
  nakSent := false
  sends := 0
  retries := 0
  rnrRetries := 0
  rnrAt := none
  lastCnp := none
  rx := none
  atomics := []

/-- CLEAR. -/
def roceClear (n : Nat) (s : State) : State := roceAnswer 0 (tidyRoce (modRoce n (fun c => { c with valid := false }) s))

/-- LOAD. -/
def roceLoad (n : Nat) (s : State) : State :=
  let (r, s1) := readHost (mgrFn s) (fld s.ether.roceAddr 6 58 * 64) 64 s
  let w := wordsOf r.bytes 8
  let c := newRoce w
  let taken (x : Nat × RoceConn) : Bool := x.1 == n || x.2.localQpn == c.localQpn ||
    (x.2.endpoint == c.endpoint && x.2.peerDev == c.peerDev && x.2.peerEp == c.peerEp)
  if r.fail.isSome then roceAnswer 2 s1
  else if !bit (wd w 0) 30 then roceClear n s1
  else if roceBad w then roceAnswer 2 s1
  else if s1.ether.roce.any taken then roceAnswer 4 s1
  else
    let k := roceKey s1 c
    roceAnswer 0 (modDlv (fun d => { d with tx := d.tx ++ [{ newTx s1 k with nextPsn := c.startPsn, answered := true }] })
      (modEther (fun e => { e with roce := tset e.roce n c }) s1))

/-- The manager's RoCE commands, by an index of 14 bits. -/
def execRoceConnLoad (index : Nat) (s : State) : Host.Outcome State Fault Refusal :=
  .next (if running s && decide (index < 16384) then roceLoad index (tidyRoce s) else s)

def execRoceConnClear (index : Nat) (s : State) : Host.Outcome State Fault Refusal :=
  .next (if running s && decide (index < 16384) then roceClear index s else s)

/-! ### Packets sent (R355, R359, R360) -/

/-- The base transport header. -/
def bth (op pad qpn psn : Nat) (ack : Bool) : List Byte :=
  leBytes 1 op ++ leBytes 1 (pad * 16) ++ beBytes 2 0xFFFF ++ [0] ++ beBytes 3 qpn ++ [if ack then 0x80 else 0] ++ beBytes 3 psn

/-- A RoCE packet on a port, from its IB headers and payload. -/
def roceBytes (s : State) (p : Nat) (c : RoceConn) (pcp ident : Nat) (ib : List Byte) : List Byte :=
  let udpLen := 8 + ib.length + 4
  let tag := if c.vid = 0 then [] else beBytes 2 0x8100 ++ beBytes 2 (pcp * 8192 + c.vid)
  let ip (sum : Nat) : List Byte :=
    [0x45, 0x02] ++ beBytes 2 (20 + udpLen) ++ beBytes 2 (Config.ipIdent ident) ++ beBytes 2 Config.ipFlags ++
      leBytes 1 Config.ipTtl ++ [17] ++ beBytes 2 sum ++ beBytes 4 (getPort s p).ipv4 ++ beBytes 4 c.peerIp
  let bs := beBytes 6 c.peerMac ++ beBytes 6 (ownMac p) ++ tag ++ beBytes 2 0x0800 ++
    ip (0xFFFF - fold16 (sum16 (ip 0))) ++ beBytes 2 c.udpSrc ++ beBytes 2 4791 ++ beBytes 2 udpLen ++ [0, 0] ++ ib
  let all := bs ++ leBytes 4 (invariantCrc (bs ++ [0, 0, 0, 0]))
  all ++ List.replicate (60 - all.length) 0

/-- Send a RoCE packet to a connection's peer. -/
def sendRoce (c : RoceConn) (pcp : Nat) (ib : List Byte) (s : State) : State :=
  match framePort s c.peerDev with
  | some p => queueFrame p pcp (roceBytes s p c pcp s.freeCount ib) none { s with freeCount := s.freeCount + 1 }
  | none => s

/-- Payload filled to a multiple of 4. -/
def padOf (n : Nat) : Nat := (4 - n % 4) % 4

/-- Opcode of packet `t` of a message (R355). -/
def roceOpcode (m : TxMsg) (pidx : Nat) : Nat :=
  let first := pidx = 0
  let last := pidx + 1 = m.packets.length
  match m.ptype with
  | 1 => if first ∧ last then (if m.notify then 0x0B else 0x0A) else if first then 0x06
         else if last then (if m.notify then 0x09 else 0x08) else 0x07
  | 2 => if first ∧ last then 0x05 else if first then 0x00 else if last then 0x03 else 0x01
  | 3 => 0x0C
  | _ => if (m.body.getD 16 0) = 0 then 0x14 else 0x13

/-- The headers after the BTH. -/
def roceHeaders (m : TxMsg) (pidx : Nat) : List Byte :=
  let reth := beBytes 8 (fld m.h3 0 48) ++ beBytes 4 (fld m.h3 48 16) ++ beBytes 4 m.msgLen
  let imm := beBytes 4 (fld m.imm 0 32)
  match roceOpcode m pidx with
  | 0x06 | 0x0A | 0x0C => reth
  | 0x0B => reth ++ imm
  | 0x03 | 0x05 | 0x09 => imm
  | 0x13 => beBytes 8 (fld m.h3 0 48) ++ beBytes 4 (fld m.h3 48 16) ++ beBytes 8 (wordAt m.body 1).toNat ++
      beBytes 8 (wordAt m.body 0).toNat
  | 0x14 => beBytes 8 (fld m.h3 0 48) ++ beBytes 4 (fld m.h3 48 16) ++ beBytes 8 (wordAt m.body 0).toNat ++ beBytes 8 0
  | _ => []

/-- A docket on a connection ends with a status for all of it. -/
def endRoce (m : TxMsg) (out : Settled) (s : State) : State :=
  match m.owner with
  | .docket i qi ord =>
    endMessage m (if out.status = stUnreachable then { out with detail := m.rank % 65536 } else out)
      (if m.ptype = 3 ∧ m.got ≠ [] then undefRead i qi ord 0 s else s)
  | _ => s

/-- The connection enters the IBTA error state: every outstanding docket completes with one status (R358). -/
def failRoce (n : Nat) (c : RoceConn) (out : Settled) (s : State) : State :=
  let k := roceKey s c
  let msgs := match findTx s k with | some x => x.msgs | none => []
  let s1 := modTx k (fun x => { x with msgs := [] }) (modRoce n (fun y => { y with error := true, rnrAt := none }) s)
  tidyRoce (each msgs (fun m t => endRoce m out t) s1)

/-- A packet that its docket's grants cover (R374). -/
def roceGranted (s : State) (m : TxMsg) (t : TxPacket) : Bool :=
  match m.owner with
  | .docket i qi ord =>
    match runOf s i qi ord with
    | some (q, r) =>
      let piece := if dOp (runWords q r) = opCopy then 4096 else packetBytes s false
      r.planned || decide (r.pieces ≤ r.granted) || decide (3 ≤ m.ptype) ||
        decide ((t.pidx + 1) * m.segBytes ≤ r.granted * piece)
    | none => false
  | _ => false

/-- The next packet of a connection: lost ones again in order, then the next new one. -/
def nextRoce (s : State) (x : SendCtx) : Option (TxMsg × TxPacket) :=
  match (ctxPackets x).find? fun p => p.2.lost && !p.2.settled with
  | some p => some p
  | none => ((ctxPackets x).find? fun p => !p.2.sent && !p.2.settled).bind fun p =>
      if roceGranted s p.1 p.2 then some p else none

/-- PACKET_ELIGIBLE on a RoCE connection: one packet leaves at its paced time. A source that cannot be read ends its docket
and takes the connection to the error state (log entry 47). -/
def roceEligible (k : ConnKey) (s : State) : State :=
  match roceFor s k.srcEp k.dstDev k.dstEp, findTx s k with
  | some (n, c), some x =>
    if c.error || c.rnrAt.isSome || !running s then s
    else
      match nextRoce s x with
      | none => s
      | some (m, t) =>
        let s1 := waitMono x.paceAt s
        let (data, fail, twin, s2) := packetData m t s1
        match fail, m.owner with
        | some e, .docket i qi ord =>
          failRoce n c (settledAs stUnreachable 0 0) (modTx k (fun y => { y with
            msgs := y.msgs.filter fun z => z.owner ≠ m.owner })
            (settle i qi ord { settledAs stDataError (t.pidx * m.segBytes) e with twin := twin || m.twin } s2))
        | _, _ =>
          let body := if 3 ≤ m.ptype then [] else data
          let pad := padOf body.length
          let ack := decide (t.pidx + 1 = m.packets.length)
          let pcp := match messageRun s m with | some r => r.cls | none => 0
          let ib := bth (roceOpcode m t.pidx) pad c.peerQpn t.psn ack ++ roceHeaders m t.pidx ++ body ++ List.replicate pad 0
          let now := s2.clk.mono
          modTx k (fun y => { y with
            expires := now + 2 * life s
            paceAt := max now y.paceAt + (ib.length + 62) * 8000 / max 1 y.rate
            msgs := y.msgs.map (noteSent t.psn now (now + c.ackTime) none t.pidx twin) }) (sendRoce c pcp ib s2)
  | _, _ => s

def execPacketEligible (k : ConnKey) (s : State) : Host.Outcome State Fault Refusal :=
  .next (if k.vc = roceVc then roceEligible k s else packetEligible k s)

/-! ### Packets received (R356, R359) -/

def rxOp (bs : List Byte) : Nat := netAt bs (l4At bs + 8) 1
def rxPad (bs : List Byte) : Nat := netAt bs (l4At bs + 9) 1 / 16 % 4
def rxAckReq (bs : List Byte) : Bool := decide (128 ≤ netAt bs (l4At bs + 16) 1)
def rxPsn (bs : List Byte) : Nat := netAt bs (l4At bs + 17) 3
/-- Bytes after the BTH, without padding and invariant CRC. -/
def rxRest (bs : List Byte) : List Byte :=
  (bs.drop (l4At bs + 20)).take (l4Length bs - 8 - 12 - 4 - rxPad bs)

/-- A packet marked CE is answered by a CNP, at most once per 50 µs (R359). -/
def answerCe (n : Nat) (c : RoceConn) (bs : List Byte) (s : State) : State :=
  let due := match c.lastCnp with | some t => decide (t + 50000 ≤ s.clk.mono) | none => true
  if netAt bs (l3At bs + 1) 1 % 4 = 3 ∧ due = true then
    sendRoce c (framePcp bs) (bth 0x81 0 c.peerQpn 0 false ++ List.replicate 16 0)
      (modRoce n (fun y => { y with lastCnp := some s.clk.mono }) s)
  else s

/-- A RoCE frame of some opcodes reaches its connection, or is dropped (R356). -/
def roceIn (p : Nat) (f : Frame) (ops : List Nat) (act : Nat → RoceConn → List Byte → State → State) (s : State) : State :=
  if frameComes s p && pathOf s p f == .roce && ops.contains (rxOp f.bytes) then
    let bs := f.bytes
    let s1 := takeFrame p f s
    match roceHolder s1 bs with
    | none => roceStray p s1
    | some (n, c) => if c.error then s1 else tidyRoce (act n c bs (answerCe n c bs s1))
  else s

/-- The acknowledge extended header. -/
def aeth (syndrome msn : Nat) : List Byte := leBytes 1 syndrome ++ beBytes 3 msn

/-- Send an acknowledgement or NAK of a PSN, with the connection as it stands. -/
def sendAeth (n : Nat) (bs : List Byte) (psn syndrome : Nat) (s : State) : State :=
  match tget s.ether.roce n with
  | some c => sendRoce c (framePcp bs) (bth 0x11 0 c.peerQpn psn false ++ aeth syndrome (c.msn % 2 ^ 24)) s
  | none => s

/-- How a request's PSN stands. -/
inductive PsnPlace where
  | fresh
  | ahead
  | behind
deriving DecidableEq, Repr

def psnPlace (c : RoceConn) (psn : Nat) : PsnPlace :=
  match c.expPsn with
  | none => .fresh
  | some e =>
    let d := (psn + 2 ^ 24 - e) % 2 ^ 24
    if d = 0 then .fresh else if d < 2 ^ 23 then .ahead else .behind

/-- PSN acknowledged last. -/
def lastPsn (c : RoceConn) : Nat := match c.expPsn with | some e => (e + 2 ^ 24 - 1) % 2 ^ 24 | none => 0

/-- The next expected PSN moves past a packet. -/
def passPsn (n psn count : Nat) (s : State) : State :=
  modRoce n (fun c => { c with expPsn := some ((psn + count) % 2 ^ 24), nakSent := false }) s

/-- An inbound message that was refused: the rest of its packets pass without effect. -/
def RoceRx.refused : RoceRx :=
  { kind := 255, inst := 0, windowNo := 0, win := Win.empty, seg := none, offset := 0, total := 0, placed := 0, data := [] }

/-- Refuse a message with a NAK. -/
def refuseRoce (n : Nat) (bs : List Byte) (last : Bool) (syndrome : Nat) (s : State) : State :=
  sendAeth n bs (rxPsn bs) syndrome (passPsn n (rxPsn bs) 1 (modRoce n (fun c => { c with
    rx := if last then none else some RoceRx.refused }) s))

/-- RNR NAK: the request is not taken. -/
def notReady (n : Nat) (bs : List Byte) (s : State) : State := sendAeth n bs (rxPsn bs) (0x20 + Config.rnrTimer % 32) s

/-- A request in order is handled; one ahead of a gap gets one sequence NAK; one behind is answered again. -/
def sequenced (n : Nat) (c : RoceConn) (bs : List Byte) (fresh behind : State → State) (s : State) : State :=
  match psnPlace c (rxPsn bs) with
  | .fresh => fresh s
  | .ahead =>
    if c.nakSent then s
    else sendAeth n bs (match c.expPsn with | some e => e | none => 0) 0x60 (modRoce n (fun y => { y with nakSent := true }) s)
  | .behind => behind s

/-- The request of a connection as the target's checks see it (R356). -/
def rocePacket (s : State) (c : RoceConn) (ptype window off len : Nat) (notify : Bool) : Packet where
  vc := 0
  half := false
  epoch := false
  hops := 0
  dstDev := s.plates.device
  dstEp := c.endpoint
  srcDev := c.peerDev
  srcEp := c.peerEp
  ptype := ptype
  last := true
  notify := notify
  sealed := false
  retx := false
  void := false
  job := match tget s.endpoints c.endpoint with | some e => e.job | none => 0
  psn := 0
  load := 0
  msgLen := len
  pidx := 0
  seg := s.plates.seg
  h3 := h3Of window off
  body := []

/-- What the checks of R35, R195 and R356 find: the syndrome of a NAK, or the instance, window and segment. -/
def roceCheck (s : State) (c : RoceConn) (ptype rkey va len : Nat) (notify : Bool) : Except Nat (Nat × Win × Seg) :=
  if 65536 ≤ rkey ∨ 2 ^ 48 ≤ va then .error 0x62
  else
    match headCheck s (rocePacket s c ptype rkey va len notify) with
    | .ok i w g _ => if w.sealMode ≠ 0 then .error 0x62 else .ok (i, w, g)
    | .nak 3 => .error 0x20
    | .nak 7 => .error 0x20
    | .nak _ => .error 0x62

/-- Answer a failed check. -/
def roceRefusal (n : Nat) (bs : List Byte) (last : Bool) (e : Nat) (s : State) : State :=
  if e = 0x20 then notReady n bs s else refuseRoce n bs last e s

/-- The notification of an inbound SEND or WRITE with immediate (R357). -/
def roceNotify (n i windowNo : Nat) (w : Win) (tag bytes imm : Nat) (s : State) : State :=
  writeReceipt i w.notifyQueue
    { kind := 1, index := windowNo, tag := tag, late := false, tickLo := s.time.tick % 2 ^ 32, subtick := subtick s,
      signal := true, out := { settledAs stOk bytes n with extra := BitVec.ofNat 64 imm } } (flushWindow i w s)

/-- A message is complete: counted, acknowledged. -/
def roceDone (n : Nat) (bs : List Byte) (s : State) : State :=
  sendAeth n bs (rxPsn bs) 0x1F (passPsn n (rxPsn bs) 1 (modRoce n (fun c => { c with rx := none, msn := c.msn + 1 }) s))

/-- A packet before the last has been taken. -/
def roceMore (n : Nat) (bs : List Byte) (s : State) : State :=
  let s1 := passPsn n (rxPsn bs) 1 s
  if rxAckReq bs then sendAeth n bs (rxPsn bs) 0x1F s1 else s1

/-- A duplicate request is acknowledged again. -/
def roceAgain (n : Nat) (c : RoceConn) (bs : List Byte) (s : State) : State := sendAeth n bs (lastPsn c) 0x1F s

/-- A packet of a SEND (R357); the window is bound and checked at the first packet (R195, R356). -/
def roceSendIn (n : Nat) (c : RoceConn) (bs : List Byte) (s : State) : State :=
  let op := rxOp bs
  let first := [0, 4, 5].contains op
  let last := [2, 3, 4, 5].contains op
  let imm := [3, 5].contains op
  let rest := rxRest bs
  let pay := if imm then rest.drop 4 else rest
  match first, c.rx with
  | false, some r =>
    if r.kind = 255 then
      passPsn n (rxPsn bs) 1 (if last then modRoce n (fun y => { y with rx := none }) s else s)
    else if r.kind ≠ 0 then refuseRoce n bs last 0x61 s
    else go last imm rest { r with data := r.data ++ pay }
  | false, none => refuseRoce n bs true 0x61 s
  | true, some _ => refuseRoce n bs last 0x61 s
  | true, none =>
    if [0x16, 0x17].contains op then refuseRoce n bs true 0x61 s
    else if c.slotBytes < pay.length then refuseRoce n bs last 0x61 s
    else
      match roceCheck s c 2 c.recvWindow (slot * c.slotBytes) pay.length true with
      | .error e => roceRefusal n bs last e s
      | .ok (i, w, g) => go last imm rest { RoceRx.refused with
          kind := 0, inst := i, windowNo := c.recvWindow, win := w, seg := some g, offset := slot * c.slotBytes, data := pay }
where
  slot : Nat := c.sends % max 1 c.recvSlots
  go (last imm : Bool) (rest : List Byte) (r : RoceRx) : State :=
    match r.seg with
    | none => s
    | some g =>
      if c.slotBytes < r.data.length then refuseRoce n bs last 0x61 s
      else if r.win.length < r.offset + r.data.length then refuseRoce n bs last 0x62 s
      else if !last then roceMore n bs (modRoce n (fun y => { y with rx := some r }) s)
      else if !notifyReady s r.inst r.win then notReady n bs s
      else
        let (wr, s1) := writeSeg r.inst g (r.win.base + r.offset) r.data s
        let s2 := latchAll wr.events s1
        if wr.fail.isSome then refuseRoce n bs true 0x63 s2
        else
          roceDone n bs (roceNotify n r.inst r.windowNo r.win slot r.data.length (if imm then netAt rest 0 4 else 0)
            (modRoce n (fun y => { y with sends := y.sends + 1 }) s2))

def sendOps : List Nat := [0, 1, 2, 3, 4, 5, 0x16, 0x17]

def execRoceSendRx (port : Nat) (f : Frame) (s : State) : Host.Outcome State Fault Refusal :=
  .next (roceIn port f sendOps (fun n c bs t => sequenced n c bs (roceSendIn n c bs) (roceAgain n c bs) t) s)

/-- A packet of an RDMA WRITE (R356). -/
def roceWriteIn (n : Nat) (c : RoceConn) (bs : List Byte) (s : State) : State :=
  let op := rxOp bs
  let first := [6, 0x0A, 0x0B].contains op
  let last := [8, 9, 0x0A, 0x0B].contains op
  let imm := [9, 0x0B].contains op
  let rest := rxRest bs
  let head := if first then 16 else 0
  let value := if imm then netAt rest head 4 else 0
  let pay := rest.drop (head + (if imm then 4 else 0))
  match first, c.rx with
  | true, none =>
    let va := netAt rest 0 8
    let rkey := netAt rest 8 4
    let len := netAt rest 12 4
    match roceCheck s c 1 rkey va len imm with
    | .error e => roceRefusal n bs last e s
    | .ok (i, w, g) => go last imm value pay { RoceRx.refused with
        kind := 6, inst := i, windowNo := rkey, win := w, seg := some g, offset := va, total := len }
  | true, some _ => refuseRoce n bs last 0x61 s
  | false, none => refuseRoce n bs true 0x61 s
  | false, some r =>
    if r.kind = 255 then
      passPsn n (rxPsn bs) 1 (if last then modRoce n (fun y => { y with rx := none }) s else s)
    else if r.kind ≠ 6 then refuseRoce n bs last 0x61 s
    else if imm && !notifyReady s r.inst r.win then notReady n bs s
    else go last imm value pay r
where
  go (last imm : Bool) (value : Nat) (pay : List Byte) (r : RoceRx) : State :=
    let placed := r.placed + pay.length
    match r.seg with
    | none => s
    | some g =>
      if r.total < placed ∨ (last = true ∧ placed ≠ r.total) then refuseRoce n bs last 0x61 s
      else
        let (wr, s1) := writeSeg r.inst g (r.win.base + r.offset + r.placed) pay s
        let s2 := latchAll wr.events s1
        if wr.fail.isSome then refuseRoce n bs last 0x63 s2
        else if last then
          roceDone n bs (if imm then roceNotify n r.inst r.windowNo r.win 0 r.total value s2 else s2)
        else roceMore n bs (modRoce n (fun y => { y with rx := some { r with placed := placed } }) s2)

def execRoceWriteRx (port : Nat) (f : Frame) (s : State) : Host.Outcome State Fault Refusal :=
  .next (roceIn port f [6, 7, 8, 9, 0x0A, 0x0B]
    (fun n c bs t => sequenced n c bs (roceWriteIn n c bs) (roceAgain n c bs) t) s)

/-- One packet of an RDMA READ response. -/
def readReply (c : RoceConn) (bs data : List Byte) (count j : Nat) (s : State) : State :=
  let pay := (data.drop (j * c.pmtu)).take c.pmtu
  let op := if count = 1 then 0x10 else if j = 0 then 0x0D else if j + 1 = count then 0x0F else 0x0E
  let pad := padOf pay.length
  sendRoce c (framePcp bs) (bth op pad c.peerQpn ((rxPsn bs + j) % 2 ^ 24) false ++
    (if op = 0x0E then [] else aeth 0x1F (c.msn % 2 ^ 24)) ++ pay ++ List.replicate pad 0) s

/-- An RDMA READ: the data of the window in packets of PMTU (R356). `again` answers a duplicate. -/
def roceReadIn (again : Bool) (n : Nat) (c : RoceConn) (bs : List Byte) (s : State) : State :=
  let rest := rxRest bs
  let len := netAt rest 12 4
  match roceCheck s c 3 (netAt rest 8 4) (netAt rest 0 8) len false with
  | .error e => if again then s else roceRefusal n bs true e s
  | .ok (i, w, g) =>
    let (r, s1) := if len = 0 then ({ bytes := [], fail := none, twin := false, events := [] }, s)
      else readSeg i g (w.base + netAt rest 0 8) len s
    let s2 := latchAll r.events s1
    if r.fail.isSome then (if again then s2 else refuseRoce n bs true 0x63 s2)
    else
      let count := rocePackets c.pmtu len
      let c1 := if again then c else { c with msn := c.msn + 1 }
      let s3 := each (List.range count) (fun j t => readReply c1 bs r.bytes count j t) s2
      if again then s3 else passPsn n (rxPsn bs) count (modRoce n (fun y => { y with msn := y.msn + 1 }) s3)

def execRoceReadRx (port : Nat) (f : Frame) (s : State) : Host.Outcome State Fault Refusal :=
  .next (roceIn port f [0x0C]
    (fun n c bs t => sequenced n c bs (roceReadIn false n c bs) (roceReadIn true n c bs) t) s)

/-- The answer to an atomic. -/
def atomicReply (n : Nat) (bs : List Byte) (old : Word) (s : State) : State :=
  match tget s.ether.roce n with
  | some c => sendRoce c (framePcp bs) (bth 0x12 0 c.peerQpn (rxPsn bs) false ++ aeth 0x1F (c.msn % 2 ^ 24) ++
      beBytes 8 old.toNat) s
  | none => s

/-- A 64-bit atomic: COMPARE_SWAP (0x13) or FETCH_ADD (0x14) on a word of the window (R356). -/
def roceAtomicIn (n : Nat) (c : RoceConn) (bs : List Byte) (s : State) : State :=
  let rest := rxRest bs
  let va := netAt rest 0 8
  if va % 8 ≠ 0 then refuseRoce n bs true 0x61 s
  else
    match roceCheck s c 4 (netAt rest 8 4) va 8 false with
    | .error e => roceRefusal n bs true e s
    | .ok (i, w, g) =>
      let (r, s1) := readSeg i g (w.base + va) 8 s
      let s2 := latchAll r.events s1
      let old := wordAt r.bytes 0
      let x := BitVec.ofNat 64 (netAt rest 12 8)
      let y := BitVec.ofNat 64 (netAt rest 20 8)
      let new := if rxOp bs = 0x14 then atomicValue 0 old x 0 else atomicValue 1 old y x
      let (wr, s3) := writeSeg i g (w.base + va) (wordBytes new) s2
      if r.fail.isSome then refuseRoce n bs true 0x63 s2
      else if wr.fail.isSome then refuseRoce n bs true 0x63 (latchAll wr.events s3)
      else
        atomicReply n bs old (passPsn n (rxPsn bs) 1 (modRoce n (fun z => { z with
          msn := z.msn + 1, atomics := ((rxPsn bs, old) :: z.atomics).take 16 }) (latchAll wr.events s3)))

/-- A duplicate atomic gets the value kept for it. -/
def roceAtomicAgain (n : Nat) (c : RoceConn) (bs : List Byte) (s : State) : State :=
  match c.atomics.find? fun a => a.1 == rxPsn bs with
  | some a => atomicReply n bs a.2 s
  | none => s

def execRoceAtomicRx (port : Nat) (f : Frame) (s : State) : Host.Outcome State Fault Refusal :=
  .next (roceIn port f [0x13, 0x14]
    (fun n c bs t => sequenced n c bs (roceAtomicIn n c bs) (roceAtomicAgain n c bs) t) s)

/-! ### Answers to what this device sent (R355, R358, R359) -/

/-- Packets up to a PSN are acknowledged: round-trip sample, rate, completed dockets. A READ or an ATOMIC waits for its own
answer. -/
def roceCovered (n : Nat) (c : RoceConn) (psn : Nat) (s : State) : State :=
  let k := roceKey s c
  let now := s.clk.mono
  let hit (m : TxMsg) (t : TxPacket) : Bool := t.sent && !t.settled && decide (m.ptype < 3) && coveredBy psn t.psn
  match findTx s k with
  | none => s
  | some x =>
    let fresh := (ctxPackets x).filterMap fun p => if hit p.1 p.2 && p.2.resends == 0 then some (now - p.2.lastSent) else none
    let moved := (ctxPackets x).any fun p => hit p.1 p.2
    let x1 := fresh.foldl (fun y z => addSample now z y) x
    let settleOne (m : TxMsg) (t : TxPacket) : TxPacket := if hit m t then { t with settled := true, lost := false } else t
    let x2 := rateStep s false { x1 with msgs := x1.msgs.map fun m => { m with packets := m.packets.map (settleOne m) } }
    let s1 := if moved then modRoce n (fun y => { y with retries := 0, rnrRetries := 0 }) s else s
    completeMessages k (modTx k (fun _ => x2) s1)

/-- The message of a connection that holds a PSN, with the place of the PSN in it. -/
def roceMessage (s : State) (c : RoceConn) (psn : Nat) : Option (TxMsg × Nat) :=
  (findTx s (roceKey s c)).bind fun x => x.msgs.findSome? fun m =>
    match m.packets.head? with
    | none => none
    | some t =>
      let d := (psn + 2 ^ 24 - t.psn) % 2 ^ 24
      let n := if m.ptype = 3 then rocePackets m.segBytes m.msgLen else m.packets.length
      if t.sent ∧ d < n then some (m, d) else none

/-- An acknowledgement, or the answer to an atomic. -/
def roceAckIn (n : Nat) (c : RoceConn) (bs : List Byte) (s : State) : State :=
  let psn := rxPsn bs
  let rest := rxRest bs
  let s1 := roceCovered n c psn s
  if rxOp bs = 0x12 then
    match roceMessage s1 c psn with
    | some (m, _) =>
      if m.ptype = 4 then
        let k := roceKey s c
        let note (y : TxMsg) : TxMsg := if y.owner = m.owner then
            { y with
              response := some (BitVec.ofNat 64 (netAt rest 4 8))
              packets := y.packets.map fun t => { t with settled := true } }
          else y
        completeMessages k (modTx k (fun x => { x with msgs := x.msgs.map note }) (modRoce n (fun y => { y with retries := 0, rnrRetries := 0 }) s1))
      else s1
    | none => s1
  else if netAt rest 0 1 / 32 % 4 = 0 then s1
  else s

def execRoceAckRx (port : Nat) (f : Frame) (s : State) : Host.Outcome State Fault Refusal :=
  .next (if rxOp f.bytes = 0x11 ∧ netAt (rxRest f.bytes) 0 1 / 32 % 4 ≠ 0 then s
    else roceIn port f [0x11, 0x12] roceAckIn s)

/-- Every packet sent and not acknowledged goes out again in order. -/
def resendRoce (k : ConnKey) (s : State) : State :=
  let again (t : TxPacket) : TxPacket := if t.sent && !t.settled then { t with lost := true } else t
  modTx k (fun x => { x with msgs := x.msgs.map fun m => { m with packets := m.packets.map again } }) s

/-- IBTA RNR timer codes, in units of 10 µs. -/
def rnrTime (code : Nat) : Nat :=
  10000 * [65536, 1, 2, 3, 4, 6, 8, 12, 16, 24, 32, 48, 64, 96, 128, 192, 256, 384, 512, 768, 1024, 1536, 2048, 3072, 4096,
    6144, 8192, 12288, 16384, 24576, 32768, 49152].getD (code % 32) 1

/-- A NAK or an RNR NAK (R358). -/
def roceNakIn (n : Nat) (c : RoceConn) (bs : List Byte) (s : State) : State :=
  let psn := rxPsn bs
  let code := netAt (rxRest bs) 0 1
  let k := roceKey s c
  let s1 := roceCovered n c ((psn + 2 ^ 24 - 1) % 2 ^ 24) s
  if code / 32 = 1 then modRoce n (fun y => { y with rnrAt := some (s.clk.mono + rnrTime code) }) s1
  else if code = 0x60 then resendRoce k s1
  else
    match roceMessage s1 c psn with
    | none => s1
    | some (m, _) =>
      let out := if code = 0x62 then some (settledAs stWindowFault 0 0)
        else if code = 0x61 ∨ code = 0x63 then some (settledAs stRemoteRefused 0 2) else none
      match out with
      | some o => endRoce m o (modTx k (fun x => { x with msgs := x.msgs.filter fun y => y.owner ≠ m.owner }) s1)
      | none => s1

def execRoceNakRx (port : Nat) (f : Frame) (s : State) : Host.Outcome State Fault Refusal :=
  .next (if netAt (rxRest f.bytes) 0 1 / 32 % 4 = 0 then s else roceIn port f [0x11] roceNakIn s)

/-- An RDMA READ response packet is placed at the destination of its docket, in order (R355). -/
def roceReadBack (n : Nat) (c : RoceConn) (bs : List Byte) (s : State) : State :=
  match roceMessage s c (rxPsn bs) with
  | none => s
  | some (m, pidx) =>
    if m.ptype ≠ 3 ∨ pidx ≠ m.got.length then s
    else
      let k := roceKey s c
      let rest := rxRest bs
      let first := match m.packets.head? with | some t => t.psn | none => 0
      let data := if rxOp bs = 0x0E then rest else rest.drop 4
      let count := rocePackets m.segBytes m.msgLen
      let s1 := roceCovered n c ((first + 2 ^ 24 - 1) % 2 ^ 24) s
      let restart (t : TxPacket) : TxPacket :=
        { t with lastSent := s.clk.mono, due := s.clk.mono + c.ackTime, lost := false, settled := decide (pidx + 1 = count) }
      let note (y : TxMsg) : TxMsg := if y.owner = m.owner then { y with packets := y.packets.map restart } else y
      let s2 := modTx k (fun x => { x with msgs := x.msgs.map note })
        (modRoce n (fun y => { y with retries := 0, rnrRetries := 0 }) s1)
      readRespArrives { rocePacket s c 0x43 0 0 m.msgLen false with
        vc := roceVc + 4, psn := first, pidx := pidx, body := data } s2

def execRoceReadResponseRx (port : Nat) (f : Frame) (s : State) : Host.Outcome State Fault Refusal :=
  .next (roceIn port f [0x0D, 0x0E, 0x0F, 0x10] roceReadBack s)

/-- CNP: a congested ACK of the connection (R359). -/
def execCnpRx (port : Nat) (f : Frame) (s : State) : Host.Outcome State Fault Refusal :=
  .next (roceIn port f [0x81] (fun _ c _ t => modTx (roceKey t c) (rateStep t true) t) s)

/-! ### Timers (R358) -/

/-- ROCE_ACK_TIMEOUT: the oldest packet sent has had no acknowledgement for ACK_TIMEOUT. -/
def roceTimeout (n : Nat) (s : State) : State :=
  match tget s.ether.roce n with
  | none => s
  | some c =>
    let k := roceKey s c
    match (findTx s k).bind fun x => (ctxPackets x).find? fun p => p.2.sent && !p.2.settled && !p.2.lost with
    | none => s
    | some (_, t) =>
      if c.error || c.rnrAt.isSome || !running s then s
      else
        let s1 := waitMono t.due s
        if c.retry ≤ c.retries then failRoce n c (settledAs stUnreachable 0 0) s1
        else resendRoce k (modRoce n (fun y => { y with retries := y.retries + 1 }) s1)

def execRoceAckTimeout (index : Nat) (s : State) : Host.Outcome State Fault Refusal := .next (roceTimeout index s)

/-- ROCE_RNR_RETRY: the RNR timer runs out. -/
def roceRnr (n : Nat) (s : State) : State :=
  match tget s.ether.roce n with
  | none => s
  | some c =>
    match c.rnrAt with
    | none => s
    | some t =>
      let s1 := waitMono t s
      if c.rnrRetry ≠ 7 ∧ c.rnrRetry ≤ c.rnrRetries then failRoce n c (settledAs stRemoteRefused 0 3) s1
      else
        resendRoce (roceKey s c) (modRoce n (fun y => { y with rnrAt := none, rnrRetries := y.rnrRetries + 1 }) s1)

def execRoceRnrRetry (index : Nat) (s : State) : Host.Outcome State Fault Refusal := .next (roceRnr index s)

end Sys2Proof.Machine
end

