-- ==== Sys2Proof/Machine/Finish.lean ====
section
/-! DEFINITION. Doorbells (04_queues_rings.md R91, R101 to R107, R115), the ends of pieces (15_scheduling_shaping.md R375) and
of dockets: their receipt (R95), the drain (R110, 13_delivery_congestion.md R345) and what a link-down does to a started docket
(16_hatches.md R399, R404). -/
namespace Sys2Proof.Machine

/-! ### Doorbells -/

/-- A hold whose INVALIDATE has its receipt ends at the doorbell (R107). -/
def endHold (q : Queue) : Queue :=
  { q with hold := q.hold.bind fun h => if h.receiptWritten then none else some h }

/-- A doorbell is recorded, for ARM or for the time when a scan may run (R91, R115, R476). -/
def recordBell (i qi : Nat) (s : State) : State := modQueue i qi (fun q => { q with bell := true }) s

/-- DOORBELL: an ACTIVE posted queue is scanned at once, with its context loaded; a HELD queue, and one that waits for the
device to fetch again, records it. -/
def ringBell (i qi : Nat) (s : State) : State :=
  match getQueue s i qi with
  | none => s
  | some q =>
    if q.desc.planned ∨ (q.st ≠ .active ∧ q.st ≠ .held) then s
    else
      let s1 := modQueue i qi endHold s
      if q.st = .held ∨ running s = false ∨ s.power.keepSince.isSome = true then recordBell i qi s1
      else
        let (ok, s2) := loadContext i qi s1
        if ok then placeAll (scan i qi none (modQueue i qi (fun y => { y with bell := false }) s2)) else s2

def execDoorbell (i qi : Nat) (s : State) : Host.Outcome State Fault Refusal :=
  .next (if s.startup = .running ∧ (slotOf s i).isSome then ringBell i qi s else s)

/-! ### Pieces (R375) -/

/-- A packet that was sent still waits at the switch core, or at its frame port. -/
def waitsToLeave (s : State) (k : ConnKey) (t : TxPacket) : Bool :=
  if k.vc = roceVc then
    match roceFor s k.srcEp k.dstDev k.dstEp, framePort s k.dstDev with
    | some (_, c), some p => (getPort s p).frames.any fun f =>
        isRoce f.2.1 && rxQpn f.2.1 == c.peerQpn && rxPsn f.2.1 == t.psn && decide (rxOp f.2.1 < 0x0D ∨ 0x12 < rxOp f.2.1)
    | _, _ => false
  else s.fabric.inject.any fun b => b.2.any fun w => keyOf w.p == k && w.p.psn == t.psn

/-- The packets of a docket's messages, and whether each has left the device. -/
def docketPackets (s : State) (i qi ord : Nat) : List (TxMsg × Bool) :=
  s.dlv.tx.flatMap fun c => c.msgs.flatMap fun m =>
    if m.owner = .docket i qi ord then m.packets.map fun t => (m, t.sent && !waitsToLeave s c.key t) else []

/-- Pieces of a docket that have left with its packets. -/
def piecesOut (r : Run) (op : Nat) (l : List (TxMsg × Bool)) : Nat :=
  let out := (l.takeWhile fun x => x.2).length
  if op ≠ opCopy then out
  else if out = l.length then r.pieces
  else match l.head? with
    | some x => out * x.1.segBytes / 4096
    | none => 0

/-- A granted piece of a docket is finished (R375): its packets have left the device; where none are sent, its opcode has been
carried out, or it has started and its grant is finished with its start; or it moves only data of the device, of which pieces
are still to be granted (log entry 91). -/
def pieceDone (s : State) (i qi : Nat) (q : Queue) (r : Run) : Bool :=
  let op := dOp (runWords q r)
  let l := docketPackets s i qi r.ord
  if r.outcome.isSome then true
  else if !l.isEmpty then decide (r.granted < piecesOut r op l + (q.unfinished.filter fun k => k == r.slot).length)
  else if [opWrite, opSend, opRead].contains op then false
  else r.executed || r.started && (!holdsPlace op || isPress op || decide (r.granted < r.pieces))

/-- PIECE_FINISH: a granted piece of a docket has left the device or has been written (R375). -/
def pieceFinish (d : DRef) (s : State) : State :=
  placeAll (modQueue d.inst d.queue (fun q =>
    if q.runs.any (fun r => r.slot == d.slot && pieceDone s d.inst d.queue q r) then
      { q with unfinished := delFirst q.unfinished fun k => k == d.slot }
    else q) s)

def execPieceFinish (d : DRef) (s : State) : Host.Outcome State Fault Refusal := .next (pieceFinish d s)

/-! ### Receipts -/

/-- The first run of a slot whose outcome is settled. -/
def settledRun (q : Queue) (slot : Nat) : Option (Run × Settled) :=
  (q.runs.find? fun r => r.slot == slot && r.outcome.isSome).bind fun r => r.outcome.map fun o => (r, o)

/-- A run that has not started ends without a reserved receipt slot (R100). -/
def endWaitingRun (i qi : Nat) (q : Queue) (r : Run) (out : Settled) (s : State) : State :=
  let s1 := modQueue i qi (fun y => { dropRun r.ord y with unfinished := y.unfinished.filter (· != r.slot) }) s
  let out1 := unstartedOutcome s i qi q r out
  settleDrain i qi (endUnstarted i qi (receiptOf s r.slot r.words out1 (r.planned && isLate s r q.desc.v1)) s1)

/-- DOCKET_COMPLETE: a docket whose outcome is settled ends. A FENCE waits for the earlier dockets of its queue (R44), and a
receipt for its function's return to D0 (R410); on a HELD queue the outcome goes to the record (R399). -/
def completeDocket (d : DRef) (s : State) : State :=
  match getQueue s d.inst d.queue with
  | none => s
  | some q =>
    match settledRun q d.slot with
    | none => s
    | some (r, out) =>
      if dOp (runWords q r) = opFence ∧ earlierDone q r = false then s
      else if q.st = .stopped ∨ (q.st ≠ .held ∧ receiptsFlow s d.inst q = false) then s
      else if r.started then placeAll (finishRun d.inst d.queue r out s)
      else placeAll (endWaitingRun d.inst d.queue q r out s)

def execDocketComplete (d : DRef) (s : State) : Host.Outcome State Fault Refusal :=
  .next (if running s then completeDocket d s else s)

/-! ### Ends from outside -/

/-- Packets of a docket that may still land: sent and not settled, or a READ request, whose response may come. -/
def airborne (s : State) (o : Owner) : List TxPacket :=
  s.dlv.tx.flatMap fun c => (c.msgs.filter fun m => m.owner == o).flatMap fun m =>
    m.packets.filter fun t => t.sent && (!t.settled || m.ptype == 3)

/-- The messages of a docket leave a connection. PSNs at its end that no packet has carried are taken back. -/
def dropOwned (o : Owner) (c : SendCtx) : SendCtx :=
  let unsent := match c.msgs.getLast? with
    | some m => if m.owner = o then (m.packets.filter fun t => !t.sent).length else 0
    | none => 0
  { c with nextPsn := (c.nextPsn + 2 ^ 24 - unsent % 2 ^ 24) % 2 ^ 24, msgs := c.msgs.filter fun m => m.owner != o }

/-- Retransmission for a docket is abandoned (R345): once each sent packet is settled, or 7 × HOLD_MAX + 100 µs after its last
sending. -/
def abandon (i qi ord : Nat) (s : State) : State :=
  let o := Owner.docket i qi ord
  let last := (airborne s o).foldl (fun m t => max m (t.lastSent + 7 * holdMax s + 100000)) 0
  tidyRoce (modDlv (fun d => { d with tx := d.tx.map (dropOwned o) }) (waitMono last s))

/-- A docket stops: its messages, its queued raw frame, its press operation, and its part in a collective. -/
def stopDocket (i qi : Nat) (r : Run) (s : State) : State :=
  let s1 := abandon i qi r.ord s
  let s2 := modFabric (fun f => { f with ports := f.ports.map fun p =>
    { p with frames := p.frames.filter fun x => x.2.2 != some (i, qi, r.ord) } }) s1
  modRun i qi r.ord (fun x => { x with press := none }) (withdrawPress i qi r s2)

/-- A fetched docket of a drained queue ends ABORTED (R100, R110, R111), or DEADLINE_MISSED once its deadline has passed,
which leaves its destination unchanged (R139, R140). -/
def abortFetched (d : DRef) (q : Queue) (f : Fetched) (s : State) : State :=
  let w := view q.desc.v1 f.words
  let x := getInst s d.inst
  let late := missed s q f
  let s1 := modQueue d.inst d.queue (fun y => { y with fetched := y.fetched.filter fun g => g.slot != d.slot })
    (if late then s else undefDocket x.segs (tableLig x w) w s)
  let r := if late then missedReceipt s d.slot w f.words else receiptOf s d.slot f.words aborted false
  settleDrain d.inst d.queue (endUnstarted d.inst d.queue r s1)

/-- A granted or started docket of a drained queue ends: MALFORMED where its start found so, DEADLINE_MISSED where it missed
its start, and ABORTED otherwise, its destination undefined (R111, R139, R140). -/
def abortRun (d : DRef) (q : Queue) (r : Run) (s : State) : State :=
  match r.found with
  | some k => malformed d.inst d.queue r k (countExhausted r s)
  | none =>
    let s1 := abortColl d.inst d.queue r.ord (stopDocket d.inst d.queue r s)
    let s2 := if runMissed s q r then s1 else undefFar r (runWords q r) (undefDocket r.segs r.lig (runWords q r) s1)
    let r1 := { r with press := none, twin := servedTwin s d.inst d.queue r }
    if r.started then finishRun d.inst d.queue r1 aborted s2 else endWaitingRun d.inst d.queue q r1 aborted s2

/-- DRAIN_ABORT: one outstanding docket of a DRAINING queue ends; one that has completed keeps its own status. -/
def drainAbort (d : DRef) (s : State) : State :=
  match getQueue s d.inst d.queue with
  | none => s
  | some q =>
    if q.st ≠ .draining then s
    else
      match q.fetched.find? fun f => f.slot == d.slot with
      | some f => placeAll (abortFetched d q f s)
      | none =>
        match q.runs.find? fun r => r.slot == d.slot && r.outcome.isNone with
        | some r => if receiptsFlow s d.inst q then placeAll (abortRun d q r s) else s
        | none => s

def execDrainAbort (d : DRef) (s : State) : Host.Outcome State Fault Refusal :=
  .next (if running s then drainAbort d s else s)

/-! ### Held queues -/

/-- The outcome of an interruption that is not re-executed (R404). -/
def interruptedOut : Settled := settledAs stDataError 0 4

/-- An interrupted COLL_RUN whose run has not begun takes its number in its turn and tells the other members (R287). -/
def interruptTurn (i qi : Nat) (q : Queue) (r : Run) (h : Nat) (c : Coll) (s : State) : State :=
  if c.st = .opening ∨ c.run.isSome ∨ earlierOn s i h r.ord opCollRun ∨ earlierOn s i h r.ord opCollClose then s
  else
    let k := nextNumber c (c.skipped.length + 1) c.nextRun
    let s1 := modColl i h (fun y => { y with
      nextRun := k + 1, skipped := y.skipped.filter fun x => decide (k < x), ends := y.ends.filter fun x => x.1 != k % 2 ^ 32 }) s
    let s2 := toMembers i h c 0x85 (k % 2 ^ 32) (leBytes 4 (endWord (memberRank c c.index) 4)) s1
    finishRun i qi r interruptedOut (undefDocket r.segs r.lig (runWords q r) s2)

/-- An interrupted COLL_RUN: DATA_ERROR, and END to the members. -/
def interruptColl (i qi : Nat) (q : Queue) (r : Run) (s : State) : State :=
  let h := dHandle (runWords q r)
  match getColl s i h with
  | none => s
  | some c =>
    if (match c.run with | some x => x.ord == r.ord | none => false) then
      finishRun i qi r interruptedOut (ownDataError i h 4 s)
    else interruptTurn i qi q r h c s

/-- What an interrupted docket writes of host memory is undefined until its receipt (R405). -/
def undefHost (r : Run) (w : List Word) (s : State) : State :=
  each (destRanges r.lig w) (fun d t =>
    match findSeg r.segs d.1 d.2 false true with
    | some g => if g.kind = 3 then undefSeg g d.1 d.2 t else t
    | none => t) s

/-- The device stops a docket of a HELD queue at an access to its hatch (R399): it is kept for re-execution, or recorded
where R404 says so. -/
def interruptDocket (i qi : Nat) (q : Queue) (r : Run) (s : State) : State :=
  let w := runWords q r
  if dOp w = opCollRun then interruptColl i qi q r s
  else
    let s1 := stopDocket i qi r s
    let s2 := modQueue i qi (fun y => { y with unfinished := y.unfinished.filter (· != r.slot) }) s1
    if (match r.lig with | some l => ligAccumulates l | none => false) then
      finishRun i qi { r with press := none } interruptedOut (undefDocket r.segs r.lig w s2)
    else modRun i qi r.ord (fun x => { x with interrupted := true }) (undefHost r w s2)

/-- HELD_DOCKET_END: a started docket of a HELD queue ends recorded, or interrupted at an access to the hatch. -/
def heldEnd (d : DRef) (interrupted : Bool) (s : State) : State :=
  match getQueue s d.inst d.queue with
  | none => s
  | some q =>
    if q.st ≠ .held then s
    else if interrupted then
      match q.runs.find? fun r => r.slot == d.slot && r.started && r.outcome.isNone && !r.interrupted with
      | some r => if needsHome q r then interruptDocket d.inst d.queue q r s else s
      | none => s
    else completeDocket d s

def execHeldDocketEnd (d : DRef) (interrupted : Bool) (s : State) : Host.Outcome State Fault Refusal :=
  .next (if running s then heldEnd d interrupted s else s)

end Sys2Proof.Machine
end

