-- ==== Sys2Proof/Machine/Tables.lean ====
section
/-! DEFINITION. The mirrored tables and the tables an instance loads by command: TBL_SYNC with the allocation of tier
storage (06_memory_tiers.md R143, R146; 08_segments_windows.md R189 to R200), EP_SYNC (R202 to R205), ligature entries
(09_press_arithmetic.md R226, R231) and key slots (18_cipher.md R431 to R434). -/
namespace Sys2Proof.Machine

/-! ### Entries (R189, R194) -/

/-- A segment entry of 4 words; the tier offset of a KIND 0 to 2 segment is the device's own. -/
def segOfWords (w : List Word) : Seg where
  en := bit (wd w 0) 0
  rd := bit (wd w 0) 1
  wr := bit (wd w 0) 2
  twin := bit (wd w 0) 3
  keep := bit (wd w 0) 4
  kind := fld (wd w 0) 5 3
  hatch := fld (wd w 0) 8 2
  base := (wd w 0).toNat / 2097152 * 2097152
  size := fld (wd w 1) 0 26
  target := (wd w 2).toNat
  rank := fld (wd w 3) 0 18
  window := fld (wd w 3) 18 16

/-- The words of a segment entry as the readback registers show it (R197). -/
def wordsOfSeg (g : Seg) : List Word :=
  [BitVec.ofNat 64 g.base ||| placeBit g.en 0 ||| placeBit g.rd 1 ||| placeBit g.wr 2 ||| placeBit g.twin 3 ||| placeBit g.keep 4
     ||| place g.kind 5 3 ||| place g.hatch 8 2,
   place g.size 0 26, BitVec.ofNat 64 g.target, place g.rank 0 18 ||| place g.window 18 16]

/-- A window entry of 4 words. -/
def winOfWords (w : List Word) : Win where
  valid := bit (wd w 0) 0
  rd := bit (wd w 0) 1
  wr := bit (wd w 0) 2
  send := bit (wd w 0) 3
  atom := bit (wd w 0) 4
  sealMode := fld (wd w 0) 5 2
  endpoint := fld (wd w 0) 7 6
  keySlot := fld (wd w 0) 16 16
  notifyQueue := fld (wd w 0) 32 20
  base := (wd w 1).toNat
  length := fld (wd w 2) 0 47

/-- The words of a window entry. -/
def wordsOfWin (x : Win) : List Word :=
  [placeBit x.valid 0 ||| placeBit x.rd 1 ||| placeBit x.wr 2 ||| placeBit x.send 3 ||| placeBit x.atom 4
     ||| place x.sealMode 5 2 ||| place x.endpoint 7 6 ||| place x.keySlot 16 16 ||| place x.notifyQueue 32 20,
   BitVec.ofNat 64 x.base, place x.length 0 47, 0]

/-- RANGE findings of a segment entry (R189, R199). -/
def segBad (s : State) (i : Nat) (w : List Word) : Bool :=
  let g := segOfWords w
  let mask := ((slotOf s i).map (·.hatchMask)).getD 0
  fld (wd w 0) 10 11 != 0 || fld (wd w 1) 26 38 != 0 || fld (wd w 3) 34 30 != 0 || decide (4 < g.kind) ||
    decide (33554432 < g.size) || decide (2 ^ 64 < g.limit) || (g.twin && decide (3 ≤ g.kind)) ||
    (decide (g.kind < 3) && wd w 2 != 0) || (g.kind != 4 && (g.rank != 0 || g.window != 0)) ||
    (g.kind != 3 && g.hatch != 0) || (g.kind == 4 && fld (wd w 2) 48 16 != 0) ||
    (g.kind == 3 && (g.target % 4096 != 0 || role s g.hatch != 0 || mask / 2 ^ g.hatch % 2 != 1))

/-- A window names an endpoint that the instance holds. -/
def winOwns (s : State) (i : Nat) (x : Win) : Bool :=
  match tget s.endpoints x.endpoint with | some e => e.valid && e.inst == i | none => false

/-- RANGE findings of a window entry with VALID set (R194, R199). -/
def winBad (s : State) (i : Nat) (w : List Word) : Bool :=
  let x := winOfWords w
  x.valid && (fld (wd w 0) 13 3 != 0 || fld (wd w 0) 52 12 != 0 || fld (wd w 2) 47 17 != 0 || wd w 3 != 0 ||
    decide (2 ^ 46 < x.length) || x.sealMode == 3 || x.base % 64 != 0 || !winOwns s i x ||
    (x.sealMode == 0) != (x.keySlot == 0))

/-- An enabled segment of non-zero size. -/
def Seg.live (g : Seg) : Bool := g.en && decide (0 < g.size)

/-- Two enabled segments overlap (R31). -/
def segsMeet (a b : Seg) : Bool := a.live && b.live && decide (a.base < b.limit) && decide (b.base < a.limit)

/-- A segment that overlaps another of the table. -/
def overlapAt (l : List Seg) (k : Nat) : Bool :=
  (List.range l.length).any fun j => j != k && segsMeet (l.getD k Seg.empty) (l.getD j Seg.empty)

/-- A ring of a queue lies as R192 says. -/
def ringsOk (x : Inst) (l : List Seg) (q : Queue) : Bool :=
  let y := { x with segs := l }
  ringOk y q.desc.receiptBase (ringSize q * 32) && (q.desc.planned || ringOk y q.desc.docketBase (ringSize q * docketSize q))

/-- Segments that hold a ring of a queue. -/
def holdsRing (g : Seg) (q : Queue) : Bool :=
  g.live && (g.holds q.desc.receiptBase 1 || (!q.desc.planned && g.holds q.desc.docketBase 1))

/-- A window that R196 allows. -/
def winHeld (l : List Seg) (x : Win) : Bool :=
  x.length == 0 ||
    match l.find? (fun g => g.live && g.holds x.base x.length) with
    | some g => decide (g.kind < 4) && (!x.rd || g.rd) && (!(x.wr || x.send) || g.wr) && (!x.atom || (g.rd && g.wr))
    | none => false

/-! ### Tier storage (R143, R144, R193; layout of the pools: log entry 21) -/

/-- Bytes and first offset of the expander of a cellar hatch (R142). -/
def expanderAt (s : State) (h : Nat) : Nat × Nat :=
  (sumOf (fun k => (getHatch s k).expander) ((List.range h).filter (1 ≤ ·)), (getHatch s h).expander)

/-- Pool ranges of a tier: from, to. -/
def poolsOf (s : State) (t : Tier) (twin : Bool) : List (Nat × Nat) :=
  match t with
  | .shelf =>
    let a := s.plates.shelfSys * mib
    let b := a + s.plates.shelfTwin * gib
    if twin then [(a, a + s.plates.shelfTwin * gib / 2)] else [(b, s.shelf.capacity)]
  | .store =>
    let a := s.plates.storeSys * mib
    let b := a + s.plates.storeTwin * gib
    if twin then [(a, a + s.plates.storeTwin * gib / 2)] else [(b, s.store.capacity)]
  | .cellar =>
    match cellarPair s with
    | some (h, k) =>
      if twin then [((expanderAt s h).1, (expanderAt s h).1 + (expanderAt s h).2)]
      else ((List.range 4).filter fun j => decide (1 ≤ j) && j != h && j != k).map fun j =>
        ((expanderAt s j).1, (expanderAt s j).1 + (expanderAt s j).2)
    | none => if twin then [] else [(0, sumOf (fun k => (getHatch s k).expander) [1, 2, 3])]

/-- Ranges in use in a tier: segments, parked segments, and freed storage still bound. -/
def usedRanges (s : State) (t : Tier) (without : Nat) (segs : List Seg) : List (Nat × Nat) :=
  let of (l : List Seg) := l.filterMap fun g =>
    if g.live && decide (g.kind = tierCode t) then some (g.target, g.target + g.size * 2097152) else none
  (s.insts.flatMap fun p => if p.1 = without then [] else of p.2.segs) ++ of segs ++
    (s.steward.parked.flatMap fun p => of (p.segs.map (·.seg))) ++
    ((getTier s t).freeing.map fun f => (f.start, f.start + f.length))

/-- A range is free. -/
def rangeFree (used : List (Nat × Nat)) (a b : Nat) : Bool := used.all fun u => decide (u.2 ≤ a) || decide (b ≤ u.1)

/-- First free contiguous range of n bytes, lowest first (log entry 21). -/
def allocRange (pools used : List (Nat × Nat)) (n : Nat) : Option Nat :=
  let cand := (pools.map (·.1)) ++ used.map (·.2)
  let ok (a : Nat) : Bool := rangeFree used a (a + n) && pools.any fun p => decide (p.1 ≤ a) && decide (a + n ≤ p.2)
  minBy id (cand.filter ok)

/-- A segment keeps its storage under R193. -/
def keepsStorage (old new : Seg) : Bool :=
  old.live && new.live && decide (old.kind < 3) && old.kind == new.kind && old.twin == new.twin

/-- Whether a change needs new storage. -/
def needsStorage (old new : Seg) : Bool :=
  new.live && decide (new.kind < 3) && (!keepsStorage old new || decide (old.size < new.size))

/-- Place the storage of segments k to 15; an error names the first that finds no room. Storage that the same sync frees is
not yet free (log entry 23). -/
def placeStorage (s : State) (i : Nat) (old : List Seg) : Nat → Nat → List Seg → Except Nat (List Seg)
  | 0, _, l => .ok l
  | n + 1, k, l =>
    let a := old.getD k Seg.empty
    let g := l.getD k Seg.empty
    let t := tierOfKind g.kind
    if keepsStorage a g then
      let used := usedRanges s t i (l.take k ++ old.take k ++ old.drop (k + 1))
      let top := a.target + g.size * 2097152
      let room := decide (g.size ≤ a.size) ||
        (rangeFree used (a.target + a.size * 2097152) top &&
          (poolsOf s t g.twin).any fun p => decide (p.1 ≤ a.target) && decide (top ≤ p.2))
      if room then placeStorage s i old n (k + 1) (modAt l k fun x => { x with target := a.target }) else .error k
    else if needsStorage a g then
      match allocRange (poolsOf s t g.twin) (usedRanges s t i (l.take k ++ old)) (g.size * 2097152) with
      | some o => placeStorage s i old n (k + 1) (modAt l k fun x => { x with target := o })
      | none => .error k
    else placeStorage s i old n (k + 1) l

/-- Units of 2 MiB that a table takes in a tier; a twin segment counts twice (R422). -/
def tierUnits (t : Tier) (l : List Seg) : Nat :=
  sumOf (fun (g : Seg) => if g.live && decide (g.kind = tierCode t) then (if g.twin then 2 * g.size else g.size) else 0) l

/-- The limit of the record for a tier (R421). -/
def tierQuota (x : Inst) : Tier → Nat
  | .shelf => fld (wd x.record 2) 0 24
  | .store => fld (wd x.record 2) 24 24
  | .cellar => fld (wd x.record 3) 0 24

/-- The first segment whose new storage goes beyond its tier's quota. -/
def overQuota (x : Inst) (old new : List Seg) : Option Nat :=
  (List.range 16).find? fun k =>
    let g := new.getD k Seg.empty
    needsStorage (old.getD k Seg.empty) g && decide (tierQuota x (tierOfKind g.kind) < tierUnits (tierOfKind g.kind) new)

/-- Storage that a change of one segment frees (R193). -/
def freedBy (old new : Seg) : Option (Tier × FreeWait) :=
  if !old.live || decide (3 ≤ old.kind) then none
  else if keepsStorage old new then
    if new.size < old.size then
      some (tierOfKind old.kind, { start := old.target + new.size * 2097152, length := (old.size - new.size) * 2097152,
                                   twin := old.twin })
    else none
  else some (tierOfKind old.kind, { start := old.target, length := old.size * 2097152, twin := old.twin })

/-- Storage to be freed joins its tier's list (R146). -/
def freeStorage (f : Tier × FreeWait) (s : State) : State :=
  modTier f.1 (fun x => { x with freeing := x.freeing ++ [f.2] }) s

/-! ### TBL_SYNC (R197 to R200) -/

def tbOk : Nat := 0
def tbBusy : Nat := 1
def tbRange : Nat := 2
def tbQuota : Nat := 3
def tbOverlap : Nat := 4
def tbPairing : Nat := 5
def tbStale : Nat := 6
def tbFetch : Nat := 7

/-- ENTRY of a finding that concerns no single entry. -/
def noEntry : Nat := 0x3FFFF

def tblAnswer (i result entry : Nat) (s : State) : State :=
  modRegs i (fun r => { r with tblResult := result, tblEntry := entry }) s

/-- Entries read from the host copy: the first that could not be read, or the words of each. -/
def readEntries (f : Fn) (base : Nat) : List Nat → State → Except Nat (Table (List Word)) × State
  | [], s => (.ok [], s)
  | k :: ks, s =>
    let (r, s1) := readHost f (base + 32 * k) 32 s
    match r.fail with
    | some _ => (.error k, s1)
    | none =>
      match readEntries f base ks s1 with
      | (.ok t, s2) => (.ok ((k, wordsOf r.bytes 4) :: t), s2)
      | (.error j, s2) => (.error j, s2)

/-- The lowest window of a table that meets a finding. -/
def firstWin (wins : Table Win) (f : Nat × Win → Bool) : Option Nat := minBy id ((wins.filter f).map (·.1))

/-- The findings of R199 over the resulting tables, in order: result code and entry; every window with VALID set is checked, also
one that was not read. -/
def tblFinding (s : State) (i : Nat) (value : Word) (segw winw : Table (List Word)) (segs : List Seg) (wins : Table Win) :
    Option (Nat × Nat) :=
  let x := getInst s i
  if 65536 < fld value 16 16 + fld value 32 17 then some (tbRange, noEntry)
  else
    match segw.find? fun p => segBad s i p.2 with
    | some p => some (tbRange, p.1)
    | none =>
      match firstWin wins fun p => (tget winw p.1).elim (!winOwns s i p.2) (winBad s i) with
      | some k => some (tbRange, 0x20000 + k)
      | none =>
        match (List.range 16).find? (overlapAt segs) with
        | some k => some (tbOverlap, k)
        | none =>
          match x.queues.filter fun p => !ringsOk x segs p.2 with
          | p :: ps =>
            let at_ := (List.range 16).find? fun k =>
              (tget segw k).isSome && (p :: ps).any fun q => holdsRing (x.segs.getD k Seg.empty) q.2
            some (tbPairing, at_.getD ((segw.head?.map (·.1)).getD noEntry))
          | [] => (firstWin wins fun p => !winHeld segs p.2).map fun k => (tbPairing, 0x20000 + k)

/-- TBL_SYNC. After an accepted one ENTRY reads 0x3_FFFF, and reserved bits of the host header that are not zero are not looked
at (DESIGN CHOICE: R197 and R199 give no value for the one and no finding for the other, log entry 121). -/
def tblSync (i : Nat) (value : Word) (s : State) : State :=
  let x := getInst s i
  let f := fnOf s i
  let a := x.regs.tblAddr.toNat / 64 * 64
  let b := x.regs.tblWinAddr.toNat / 4096 * 4096
  if x.st = .resetting then tblAnswer i tbBusy noEntry s
  else
    let (h, s1) := readHost f a 64 s
    let gen := fld (wordAt h.bytes 0) 0 32
    if h.fail.isSome then tblAnswer i tbFetch noEntry s1
    else if gen ≠ (x.devGen + 1) % 2 ^ 32 then tblAnswer i tbStale noEntry s1
    else
      let mask := (List.range 16).filter fun k => bit value k
      let names := ((List.range (fld value 32 17)).map (fun k => k + fld value 16 16)).filter (· < 65536)
      match readEntries f (a + 64) mask s1 with
      | (.error k, s2) => tblAnswer i tbFetch k s2
      | (.ok segw, s2) =>
        match readEntries f b names s2 with
        | (.error k, s3) => tblAnswer i tbFetch (0x20000 + k) s3
        | (.ok winw, s3) =>
          let segs := (List.range 16).map fun k => (tget segw k).elim (x.segs.getD k Seg.empty) segOfWords
          let wins := winw.foldl (fun t p =>
            if (winOfWords p.2).valid then tset t p.1 (winOfWords p.2) else tdel t p.1) x.wins
          match tblFinding s3 i value segw winw segs wins with
          | some (code, e) => tblAnswer i code e s3
          | none =>
            match overQuota x x.segs segs, placeStorage s3 i x.segs 16 0 segs with
            | some k, .error j => tblAnswer i tbQuota (min k j) s3
            | some k, .ok _ => tblAnswer i tbQuota k s3
            | none, .error k => tblAnswer i tbQuota k s3
            | none, .ok placed =>
                let more := firstWin wins fun p => (tget x.wins p.1).isNone
                if fld (wd x.record 0) 21 17 < wins.length ∧ more.isSome then
                  tblAnswer i tbQuota (0x20000 + more.getD 0) s3
                else
                  let freed := (List.range 16).filterMap fun k =>
                    freedBy (x.segs.getD k Seg.empty) (placed.getD k Seg.empty)
                  let s4 := each freed freeStorage s3
                  let s5 := modInst i (fun y => { y with
                    segs := placed, wins := wins, devGen := gen
                    refusing := y.refusing && wins.isEmpty }) s4
                  let s6 := (writeHost f (a + 8) (leBytes 4 gen) s5).2
                  tblAnswer i tbOk noEntry (reclaim s6)

def execTblSync (i : Nat) (value : Word) (s : State) : Host.Outcome State Fault Refusal :=
  .next (if pageOpen s i then tblSync i value s else s)

/-! ### EP_SYNC (R202 to R205) -/

/-- An endpoint that was never bound. -/
def Endpoint.empty : Endpoint where
  valid := false
  inst := 0
  job := 0
  myRank := 0
  rankCount := 0
  rtAddr := 0
  gen := 0
  ranks := []

/-- Answer of EP_SYNC. -/
def epAnswer (e result : Nat) (s : State) : State := { s with misc := { s.misc with epResult := result, epLast := e } }

/-- Reserved fields of a binding descriptor. -/
def descBad (w : List Word) : Bool := fld (wd w 0) 13 19 != 0 || fld (wd w 1) 37 27 != 0 || fld (wd w 3) 32 32 != 0

/-- The binding a descriptor gives an endpoint; an unbinding ends its rank table (R33). -/
def bindOf (w : List Word) (old : Endpoint) : Endpoint :=
  if bit (wd w 0) 12 then
    { old with valid := true, inst := fld (wd w 0) 0 12, job := fld (wd w 0) 32 32, myRank := fld (wd w 1) 0 18,
               rankCount := fld (wd w 1) 18 19, rtAddr := (wd w 2).toNat }
  else { old with valid := false, inst := 0, job := 0, myRank := 0, rankCount := 0, rtAddr := 0, ranks := [] }

/-- A queue of an instance is attached to an endpoint. -/
def epAttached (s : State) (e : Nat) (old : Endpoint) : Bool :=
  old.valid && (getInst s old.inst).queues.any fun p => p.2.desc.epValid && p.2.desc.endpoint == e

/-- RANGE findings of EP_SYNC with BIND (R204); a RANK_COUNT or RT_ADDR outside R202 is one too (DESIGN CHOICE: R204's list does
not name them, log entry 115). -/
def bindBad (s : State) (e : Nat) (w : List Word) (old : Endpoint) (count : Nat) : Bool :=
  let new := bindOf w old
  if bit (wd w 0) 12 then
    decide ((getInst s new.inst).st = .absent) || decide (new.rankCount = 0) || decide (262144 < new.rankCount) ||
      decide (new.rtAddr % 4096 ≠ 0) ||
      (old.valid && (old.inst != new.inst || old.job != new.job) && epAttached s e old)
  else decide (count ≠ 0)

/-- A rank table entry of 4 bytes. -/
def rankEntry (n : Nat) : Nat × Nat × Bool := (n % 65536, n / 65536 % 64, decide (n / 2 ^ 31 % 2 = 1))

/-- EP_SYNC: the descriptor is read for GEN every time, and binds the endpoint with BIND. -/
def epSync (bind : Bool) (value : Word) (s : State) : State :=
  let e := fld value 0 6
  let first := fld value 8 18
  let count := fld value 26 19
  let f := mgrFn s
  let old := (tget s.endpoints e).getD Endpoint.empty
  let (d, s1) := readHost f (s.misc.epDesc.toNat / 32 * 32) 32 s
  let w := wordsOf d.bytes 4
  if d.fail.isSome then epAnswer e tbFetch s1
  else if fld (wd w 3) 0 32 ≠ (old.gen + 1) % 2 ^ 32 then epAnswer e tbStale s1
  else
    let new := if bind then bindOf w old else old
    let unbinds := bind && !new.valid
    let (r, s2) := if count = 0 ∨ unbinds = true then ({ bytes := [], fail := none, twin := false, events := [] }, s1)
      else readHost f (new.rtAddr + 4 * first) (4 * count) s1
    let nums := (List.range count).map fun k => leNat ((r.bytes.drop (4 * k)).take 4)
    if r.fail.isSome then epAnswer e tbFetch s2
    else if descBad w || (bind && bindBad s2 e w old count) || (!unbinds && decide (new.rankCount < first + count)) ||
        nums.any (fun n => n / 2 ^ 22 % 2 ^ 9 != 0) then epAnswer e tbRange s2
    else
      let ranks := ((List.range count).zip nums).foldl (fun t p => tset t (first + p.1) (rankEntry p.2)) new.ranks
      let s3 := if old.valid && (!new.valid || old.inst != new.inst || old.job != new.job) then unbindColls e s2 else s2
      epAnswer e tbOk { s3 with endpoints := tset s3.endpoints e { new with gen := fld (wd w 3) 0 32, ranks := ranks } }

/-- BAR0 takes the manager's commands (R479, R476, R459). -/
def mgrOpen (s : State) : Bool := barAnswers s

def execEpSync (value : Word) (s : State) : Host.Outcome State Fault Refusal :=
  .next (if mgrOpen s then epSync false value s else s)

def execEpBind (value : Word) (s : State) : Host.Outcome State Fault Refusal :=
  .next (if mgrOpen s then epSync true value s else s)

/-! ### Ligature entries (R231) -/

def lgOk : Nat := 0
def lgBusy : Nat := 1
def lgRange : Nat := 2
def lgSegment : Nat := 4

/-- LIG_ENTRIES of the record. -/
def ligEntries (x : Inst) : Nat := fld (wd x.record 1) 39 11

/-- A command's result in LIG_STATUS, and the word LIG_READ shows. -/
def ligAnswer (i n result : Nat) (s : State) : State :=
  modInst i (fun x => { x with regs := { x.regs with
    ligStatus := resultWord result n 16
    ligRead := wd ((tget x.ligs n).getD []) 0 } }) s

/-- A ligature command: BUSY while the instance is RESETTING (R425), RANGE for an index the instance does not hold. -/
def ligCommand (i n : Nat) (f : State → State) (s : State) : Host.Outcome State Fault Refusal :=
  .next (if pageOpen s i && decide (n < 65536) then
      (if (getInst s i).st = .resetting then ligAnswer i n lgBusy s
       else if n = 0 ∨ ligEntries (getInst s i) ≤ n then ligAnswer i n lgRange s
       else f s)
    else s)

/-- LOAD. An entry that lies in a remote window, or that cannot be read, gives SEGMENT (log entry 22). -/
def ligLoad (i n : Nat) (s : State) : State :=
  let x := getInst s i
  let a := x.regs.ligAddr.toNat / 64 * 64
  match findSeg x.segs a 64 true false with
  | none => ligAnswer i n lgSegment s
  | some g =>
    if 4 ≤ g.kind then ligAnswer i n lgSegment s
    else
      let (r, s1) := readSeg i g a 64 s
      let s2 := latchAll r.events s1
      let w := wordsOf r.bytes 8
      if r.fail.isSome then ligAnswer i n lgSegment s2
      else if !ligOk w then ligAnswer i n lgRange s2
      else ligAnswer i n lgOk (modInst i (fun y => { y with ligs := tset y.ligs n w }) s2)

def execLigLoad (i n : Nat) (s : State) : Host.Outcome State Fault Refusal := ligCommand i n (ligLoad i n) s

def ligClear (i n : Nat) (s : State) : State :=
  ligAnswer i n lgOk (modInst i (fun y => { y with ligs := tdel y.ligs n }) s)

def execLigClear (i n : Nat) (s : State) : Host.Outcome State Fault Refusal := ligCommand i n (ligClear i n) s

/-! ### Key slots (R431 to R434) -/

def kyOk : Nat := 0
def kyRange : Nat := 2
def kyQuota : Nat := 3
def kyExists : Nat := 4
def kyAbsent : Nat := 5

/-- A command's result in KEY_STATUS. -/
def keyAnswer (i n result : Nat) (s : State) : State :=
  modRegs i (fun r => { r with keyStatus := resultWord result n 16 }) s

def keyCommand (i n : Nat) (f : State → State) (s : State) : Host.Outcome State Fault Refusal :=
  .next (if pageOpen s i && decide (n < 65536) then f s else s)

/-- Slots that hold a loaded key. -/
def keysLoaded (x : Inst) : Nat := (x.keys.filter fun k => !k.2.erased).length

/-- LOAD; KEY_DATA0 to 3 are cleared whatever the result. -/
def keyLoad (i n : Nat) (s : State) : State :=
  let x := getInst s i
  let mode := fld x.regs.keyParam 32 2
  let full := decide (fld (wd x.record 1) 0 17 ≤ keysLoaded x) ||
    decide (65535 ≤ sumOf (fun p => p.2.keys.length) s.insts)
  let result := if (tget x.keys n).isSome then kyExists else if full then kyQuota
    else if n = 0 ∨ mode = 0 ∨ mode = 3 ∨ x.regs.keyCtr.toNat = 2 ^ 64 - 1 then kyRange else kyOk
  let slot : KeySlot := { key := bytesOf x.regs.keyData, salt := fld x.regs.keyParam 0 32, mode := mode,
                          counter := x.regs.keyCtr.toNat, erased := false }
  let s1 := if result = kyOk then modInst i (fun y => { y with keys := tset y.keys n slot }) s else s
  keyAnswer i n result (modRegs i (fun r => { r with keyData := [0, 0, 0, 0] }) s1)

def execKeyLoad (i n : Nat) (s : State) : Host.Outcome State Fault Refusal := keyCommand i n (keyLoad i n) s

/-- A docket or an inbound message is bound to a slot (R434). -/
def keyBound (s : State) (i n : Nat) : Bool :=
  ((getInst s i).queues.any fun p => p.2.runs.any fun r => match r.key with | some k => k.slot == n | none => false) ||
    s.dlv.rx.any fun c => c.msgs.any fun m => m.inst == i && (match m.key with | some k => k.slot == n | none => false)

/-- ERASE: the key stays with the dockets bound to it. -/
def keyErase (i n : Nat) (s : State) : State :=
  match tget (getInst s i).keys n with
  | some k =>
    if k.erased then keyAnswer i n kyAbsent s
    else if keyBound s i n then
      keyAnswer i n kyOk (modInst i (fun y => { y with keys := tmod y.keys n fun z => { z with erased := true } }) s)
    else keyAnswer i n kyOk (modInst i (fun y => { y with keys := tdel y.keys n }) s)
  | none => keyAnswer i n kyAbsent s

def execKeyErase (i n : Nat) (s : State) : Host.Outcome State Fault Refusal := keyCommand i n (keyErase i n) s

/-- READ: everything but the key. -/
def keyRead (i n : Nat) (s : State) : State :=
  keyAnswer i n kyOk (modRegs i (fun r =>
    match tget (getInst s i).keys n with
    | some k =>
      if k.erased then { r with keyParam := 0, keyCtr := 0 }
      else { r with
        keyParam := place k.salt 0 32 ||| place k.mode 32 2 ||| placeBit true 34 ||| placeBit (k.counter == 2 ^ 64 - 1) 35
        keyCtr := BitVec.ofNat 64 k.counter }
    | none => { r with keyParam := 0, keyCtr := 0 }) s)

def execKeyRead (i n : Nat) (s : State) : Host.Outcome State Fault Refusal := keyCommand i n (keyRead i n) s

/-- KEY_SLOT_ZEROISE: an erased slot's key is overwritten with zeros once nothing is bound to it, and the slot is free. -/
def keyZeroise (i n : Nat) (s : State) : State :=
  match tget (getInst s i).keys n with
  | some k =>
    if k.erased && !keyBound s i n then modInst i (fun y => { y with keys := tdel y.keys n }) s else s
  | none => s

def execKeySlotZeroise (i n : Nat) (s : State) : Host.Outcome State Fault Refusal := .next (keyZeroise i n s)

end Sys2Proof.Machine
end

