-- ==== Sys2Proof/Machine/Galley.lean ====
section
/-! DEFINITION. The galley (07_galley.md R172 to R188): its addresses, the manager's window with its aliases and collisions,
the conflict counters, and the background tester with the outcomes of failing lanes. -/
namespace Sys2Proof.Machine

/-! ### Galley addresses (R173) -/

/-- What a galley address names. -/
inductive Region where
  | unit (u : Nat)
  | working
  | tally (n : Nat)
  | tallyCopy (n : Nat)
  | setAlias (ga : Nat)
  | clearAlias (ga : Nat)
  | none
deriving DecidableEq, Repr

/-- Bytes of the shared working area: 1 MiB less for each disabled bank (R186). -/
def workingBytes (s : State) : Nat := 62914560 - 1048576 * s.galley.disabledBanks.length

def regionOf (s : State) (ga : Nat) : Region :=
  if ga < 0x0C800000 then .unit (ga / 0x200000)
  else if 0x10000000 ≤ ga ∧ ga < 0x10000000 + workingBytes s then .working
  else if 0x13C00000 ≤ ga ∧ ga < 0x13E00000 then .tally ((ga - 0x13C00000) / 8)
  else if 0x13E00000 ≤ ga ∧ ga < 0x14000000 then .tallyCopy ((ga - 0x13E00000) / 8)
  else if 0x14000000 ≤ ga ∧ ga < 0x14000000 + workingBytes s then .setAlias (ga - 0x04000000)
  else if 0x18000000 ≤ ga ∧ ga < 0x18000000 + workingBytes s then .clearAlias (ga - 0x08000000)
  else .none

/-- A region on a shared bank, where accesses can collide (R181). -/
def Region.shared : Region → Bool
  | .unit _ => false
  | .none => false
  | _ => true

/-- A unit galley outside the pool cannot be reached. -/
def inPool (s : State) (u : Nat) : Bool :=
  match s.faults.units[u]? with
  | some .retired => false
  | some _ => true
  | none => false

/-- SOURCE of a galley event (R446): the unit, or 100 + the shared bank. -/
def galleySource (ga : Nat) : Nat := if ga < 0x0C800000 then ga / 0x200000 else 100 + (ga - 0x10000000) / 64 % 64

/-- The bank of a galley address: 8 of each unit, then the 64 shared banks (R172). -/
def bankNumber (ga : Nat) : Nat :=
  if ga < 0x0C800000 then ga / 0x200000 * 8 + ga % 0x200000 / 64 % 8 else 800 + (ga - 0x10000000) / 64 % 64

/-- The 8 bytes at a galley address. -/
def galleyWord (s : State) (ga : Nat) : Word := wordAt (rdBytes s.galley.mem ga 8) 0

def putGalley (ga : Nat) (v : Word) (s : State) : State :=
  modGalley (fun g => { g with mem := wrBytes g.mem ga (wordBytes v) }) s

/-! ### The manager's window (R181 to R183, R188) -/

/-- GA and INC of GALLEY_WIN_ADDR. -/
def winGa (s : State) : Nat := fld s.galley.winAddr 3 26 * 8

/-- GALLEY_WIN_STS after an access, and GA advanced where INC is set; ECC tells of the last read, so a write leaves it. -/
def winDone (busy range : Bool) (ecc : Option Bool) (s : State) : State :=
  modGalley (fun g => { g with
    winSts := placeBit busy 0 ||| placeBit range 1 ||| placeBit (ecc.getD (bit g.winSts 2)) 2
    winAddr := if bit g.winAddr 29 then setFld g.winAddr 3 26 (fld g.winAddr 3 26 + 1) else g.winAddr }) s

/-- Whether a copy of a tally is known to fail: 0 the first, 1 the second. -/
def copyFailed (s : State) (n copy : Nat) : Bool := (tget s.galley.tallyFailed n).getD 0 / 2 ^ copy % 2 == 1

/-- A lane of the working area known to hold an uncorrectable error. -/
def laneBad (s : State) (ga : Nat) : Bool := (tget s.galley.badLanes (ga / 8)).isSome

/-- What a window read finds: the word, RANGE and ECC. -/
def winFind (s : State) (ga : Nat) : Word × Bool × Bool :=
  let lane (a : Nat) : Word × Bool × Bool := if laneBad s a then (0, false, true) else (galleyWord s a, false, false)
  match regionOf s ga with
  | .unit u => if inPool s u then (galleyWord s ga, false, false) else (0, true, false)
  | .working => lane ga
  | .setAlias a => lane a
  | .clearAlias a => lane a
  | .tally n => if copyFailed s n 0 then (0, false, true) else (tallyValue s n, false, false)
  | .tallyCopy n => if copyFailed s n 1 then (0, false, true) else (tallyValue s n, false, false)
  | .none => (0, true, false)

/-- A read of GALLEY_WIN_DATA whose lane holds what `found` says (R184): a single error is corrected, an uncorrectable one
reads 0 with ECC; a read that collides with a write returns an undefined word (R182). DESIGN CHOICE: the level-1 event of an
uncorrectable lane has KIND 0x05, as neither R184 nor R446 gives one (log entry 117). -/
def winRead (collides : Bool) (found : Upset) (s : State) : State :=
  let ga := winGa s
  let (v, range, known) := winFind s ga
  let ecc := known || (!range && (found == .soft || found == .hard))
  let busy := collides && (regionOf s ga).shared
  let s0 := if range then s else galleyAccess mWindow (some 1) s
  let (x, s1) := if busy then freeWord s0 else (if ecc then 0 else v, s0)
  let s2 := if ecc then latch (event 1 5 1 (galleySource ga) ga) s1
    else if !range && found == .correctable then latch (event 1 1 1 (galleySource ga) ga) s1 else s1
  winDone busy range (some ecc) (emit (.data x) s2)

def execGalleyWinRead (met : WindowRead) (s : State) : Host.Outcome State Fault Refusal :=
  .next (if mgrOpen s then winRead met.collides met.found s else emit (.data (BitVec.allOnes 64)) s)

/-- Every press operation with blocks on a unit has its destination undefined (R188). -/
def spoilUnit (u : Nat) (s : State) : State :=
  modPress (fun p => if p.flying.any fun b => b.unit == u then { p with spoiled := true } else p) s

/-- A lane written whole: an error that a rewrite repairs is gone. -/
def writeLane (ga : Nat) (v : Word) (s : State) : State :=
  modGalley (fun g => { g with badLanes := g.badLanes.filter fun x => x.1 != ga / 8 || x.2 == .hard }) (putGalley ga v s)

/-- A write of GALLEY_WIN_DATA. -/
def winWrite (v : Word) (collides : Bool) (s : State) : State :=
  let ga := winGa s
  let busy := collides && (regionOf s ga).shared
  let done (t : State) : State := winDone busy false none (galleyAccess mWindow (some 1) t)
  match regionOf s ga with
  | .unit u => if inPool s u then done (spoilUnit u (putGalley ga v s)) else winDone false true none s
  | .working => done (writeLane ga v s)
  | .setAlias a => done (writeLane a (galleyWord s a ||| v) s)
  | .clearAlias a => done (writeLane a (galleyWord s a &&& ~~~v) s)
  | _ => winDone false true none s

def execGalleyWinWrite (value : Word) (collides : Bool) (s : State) : Host.Outcome State Fault Refusal :=
  .next (if mgrOpen s then winWrite value collides s else s)

/-- GALLEY_CFL_CLEAR (R179). -/
def execGalleyCflClear (s : State) : Host.Outcome State Fault Refusal :=
  .next (if mgrOpen s then modGalley (fun g => { g with conflicts := [] }) s else s)

/-! ### The background tester (R184, R185) -/

/-- A failing column of a bank joins the soft-repair list of up to 64 columns; one found when it holds 64 others is not entered
(DESIGN CHOICE: R186 does not say what becomes of it, log entry 120). -/
def listColumn (bank column : Nat) (s : State) : State :=
  modGalley (fun g => { g with
    softRepair := if g.softRepair.length < 64 then addNew g.softRepair (bank, column) else g.softRepair }) s

/-- A failing column is found: it is listed and its event latched (R185, R186). -/
def noteColumn (ga column : Nat) (s : State) : State :=
  listColumn (bankNumber ga) column
    (latch (event 1 7 1 (galleySource ga) column) s)

/-- The instance and index of a device tally. -/
def tallyOwner (s : State) (n : Nat) : Option (Nat × Nat) :=
  (s.plates.slots.find? fun x => decide (x.tallyBase ≤ n) && decide (n < x.tallyBase + x.tallySpan)).map fun x =>
    (x.inst, n - x.tallyBase)

/-- A tally copy is found failed (R174, R184): the first is served by the second and written back, both leave the tally 0.
DESIGN CHOICE: of a second copy that fails alone no event is latched, as R184's table has no row for it; it is marked where no
rewrite by the tester repairs it (log entry 118). -/
def tallyCopyFails (n copy : Nat) (hard : Bool) (s : State) : State :=
  if copyFailed s n (1 - copy) then
    let s1 := latch (tallyEvent 6 3 n) (putTally n 0 s)
    match tallyOwner s n with
    | some (i, k) => failWaits i k s1
    | none => s1
  else
    let mark := (tget s.galley.tallyFailed n).getD 0
    let s1 := if copy = 0 then latch (tallyEvent 5 1 n) s else s
    if hard && !copyFailed s n copy then
      modGalley (fun g => { g with tallyFailed := tset g.tallyFailed n (mark + 2 ^ copy) }) s1
    else s1

/-- A docket whose shared galley lost a word runs again from its start, once (R184). -/
def rerunPress (d : DRef) (ga : Nat) (s : State) : State :=
  match (pressRuns s).find? fun x => x.1 == d && decide (0 < x.2.2.2.galley) with
  | none => latch (event 1 3 2 (galleySource ga) ga) s
  | some (_, q, r, p) =>
    let s0 := modPower (fun y => { y with
      permits := delFirst y.permits (fun x => x.d == d), waits := y.waits.filter fun x => x.d != d }) (meter s)
    if p.rerun then
      endPress d q r (settledAs stDataError 0 5)
        (latch (event 1 4 3 (galleySource ga) ga)
          (if r.started then undefRanges r.segs (outRanges (runWords q r)) s0 else s0))
    else
      let p1 := { newPress p.order with galley := p.galley, twin := p.twin, rerun := true }
      let s1 := modPressRun d r.ord (fun _ => p1) (latch (event 1 3 2 (galleySource ga) ga) s0)
      checkOperands d q { r with press := some p1 } s1

/-- A word of the shared working area is withdrawn until power-off; its lane stays uncorrectable. -/
def withdrawWord (word : Nat) (holder : Option DRef) (s : State) : State :=
  let s1 := if s.galley.withdrawn.contains word then s
    else modGalley (fun g => { g with withdrawn := g.withdrawn ++ [word], free := g.free - 64 }) s
  match holder with
  | some d => rerunPress d (word * 64) s1
  | none => latch (event 1 3 2 (galleySource (word * 64)) (word * 64)) s1

/-- An uncorrectable lane (R184). DESIGN CHOICE: in the galley of a spare or reserved unit it has the outcome of an active
unit's, of which alone R184 speaks (log entry 119). -/
def laneUncorrectable (word lane : Nat) (hard : Bool) (holder : Option DRef) (s : State) : State :=
  let ga := word * 64
  match regionOf s ga with
  | .unit u => if inPool s u then retireUnit 1 u (latch (event 1 2 2 u ga) s) else s
  | .working =>
    withdrawWord word holder (modGalley (fun g => { g with
      badLanes := tset g.badLanes (ga / 8 + lane) (if hard then .hard else .soft) }) s)
  | .tally n => tallyCopyFails (n + lane) 0 hard s
  | .tallyCopy n => tallyCopyFails (n + lane) 1 hard s
  | _ => s

/-- GALLEY_TEST: the tester visits one word, or the work that a word holds reads it (R184, log entry 77). -/
def galleyTest (word lane : Nat) (found : Upset) (column : Option Nat) (holder : Option DRef) (s : State) : State :=
  let ga := word * 64
  match regionOf s ga with
  | .none => s
  | .setAlias _ => s
  | .clearAlias _ => s
  | _ =>
    let s1 := match (if fld s.galley.ctrl 0 8 = 0 then none else column) with | some c => noteColumn ga c s | none => s
    match found with
    | .clean => s1
    | .correctable => latch (event 1 1 1 (galleySource ga) ga) s1
    | .soft => laneUncorrectable word lane false holder s1
    | .hard => laneUncorrectable word lane true holder s1

def execGalleyTest (word lane : Nat) (found : Upset) (column : Option Nat) (holder : Option DRef) (s : State) :
    Host.Outcome State Fault Refusal :=
  .next (if running s && (decide (fld s.galley.ctrl 0 8 ≠ 0) || holder.isSome) then galleyTest word lane found column holder s else s)

end Sys2Proof.Machine
end

