-- ==== Sys2Proof/Machine/Tiers.lean ====
section
/-! DEFINITION. What the tiers do by themselves (06_memory_tiers.md): the patrol scrubber, background clearing, the loss of a
part, and the return of a cellar expander with its resynchronisation. -/
namespace Sys2Proof.Machine

/-! ### Where lines lie -/

/-- An offset lies in the twin pool of its tier. -/
def inTwinPool (s : State) (t : Tier) (off : Nat) : Bool :=
  (poolsOf s t true).any fun p => decide (p.1 ≤ off) && decide (off < p.2)

/-- Bytes of a tier. -/
def tierBytes (s : State) (t : Tier) : Nat :=
  match t with
  | .cellar => sumOf (fun h => (getHatch s h).expander) [1, 2, 3]
  | _ => (getTier s t).capacity

/-- A tier that the scrubber may read: trained, out of self-refresh, and the device running (R150, R162). -/
def tierActive (s : State) (t : Tier) : Bool := running s && ((getTier s t).ready || t == .cellar)

/-! ### Scrubbing (R150, R154) -/

/-- Hours of the scrub period of a tier; the device does not scrub the cellar. -/
def scrubHours (s : State) : Tier → Nat
  | .shelf => fld s.misc.scrubCtrl 0 8
  | .store => fld s.misc.scrubCtrl 8 8
  | .cellar => 0

/-- What the scrub read finds joins what is known of the line; a copy known to fail stays so. -/
def foundUpset (old new : Upset) : Upset := if upsetFails old then old else new

/-- The repair of a copy line from its primary (R154). -/
def repairCopy (t : Tier) (line : Nat) (s : State) : List Event × State :=
  let x := getTier s t
  let b := badLine x line
  match b.copy with
  | .clean => ([], s)
  | .correctable => countCorrection t line (copyLine s t line) (setBad { b with copy := .clean } x) s
  | .soft => ([], countUe (modTier t (setBad { b with copy := .clean }) s))
  | .hard =>
    if 0 < sparesLeft x t (copyLine s t line) then
      ([memEvent s t (line * 64) 3 2], countUe (modTier t (replaceRow s t (copyLine s t line)) s))
    else if b.latched then ([], s)
    else ([memEvent s t (line * 64) 5 3], countUe (modTier t (setBad { b with latched := true }) s))
where
  /-- The uncorrectable line is counted (R150). -/
  countUe (u : State) : State := modTier t (fun y => { y with ueCount := satAdd 16 y.ueCount 1 }) u

/-- The lowest touched granule begins a new scrub period: row counts start afresh (R148, log entry 27). -/
def periodStart (x : TierSt) (line : Nat) : Bool := match minBy id x.touched with | some g => g * 1024 == line | none => false

/-- What the scrubber finds in the cells of a line. -/
def scrubNote (twin : Bool) (line : Nat) (primary copy : Upset) (x : TierSt) : TierSt :=
  let y := if periodStart x line then { x with rowCe := [] } else x
  let b := badLine y line
  setBad { b with primary := foundUpset b.primary primary
                  copy := if twin then foundUpset b.copy copy else .clean } y

/-- SCRUB_PASS: the scrubber reads one touched line; `primary` and `copy` are what it finds in the cells. -/
def scrubPass (t : Tier) (line : Nat) (primary copy : Upset) (s : State) : State :=
  let twin := inTwinPool s t (line * 64)
  let (r, s1) := readLine t twin line (modTier t (scrubNote twin line primary copy) s)
  let ok := twin && !upsetFails (badLine (getTier s1 t) line).primary && !partLost s1 t (twinPart s1 t (partOf s1 t (line * 64)))
  let (ev, s2) := if ok then repairCopy t line s1 else ([], s1)
  latchAll ev (latchAll r.events s2)

def execScrubPass (tier : Tier) (line : Nat) (primary copy : Upset) (s : State) : Host.Outcome State Fault Refusal :=
  .next (if tierActive s tier && decide (scrubHours s tier ≠ 0) && isTouched (getTier s tier) (line * 64) &&
      decide (line * 64 < tierBytes s tier) then scrubPass tier line primary copy s else s)

/-! ### Background clearing (R166, R167) -/

/-- Background clearing goes on from the training of a tier (R480, R491), but for keeping (R162), safe state (R459), and an
expander whose link is down (R171). -/
def clearsTier (s : State) (t : Tier) (granule : Nat) : Bool :=
  powered s && decide (s.startup ≠ .safe) && !inKeeping s &&
    (match t with
     | .cellar => !partLost s .cellar (partOf s .cellar (granule * 65536))
     | _ => (getTier s t).ready)

/-- BACKGROUND_CLEAR: an untouched granule is zeroed and its bit set; a granule whose bit is set is left alone. -/
def execBackgroundClear (tier : Tier) (granule : Nat) (s : State) : Host.Outcome State Fault Refusal :=
  .next (if clearsTier s tier granule && decide (granule * 65536 < tierBytes s tier) then
    let (ev, s1) := clearGranule tier (granule * 65536) s
    latchAll ev s1
  else s)

/-! ### Parts (R155, R156, R171) -/

/-- Parts of a tier. -/
def isPart (s : State) (t : Tier) (p : Nat) : Bool :=
  match t with
  | .shelf => decide (p < 6)
  | .store => decide (p < 12)
  | .cellar => decide (1 ≤ p) && decide (p < 4) && decide (0 < (getHatch s p).expander)

/-- First tier offset on a part, the offset its event carries (log entry 28). -/
def partOffset (s : State) (t : Tier) (p : Nat) : Nat :=
  match t with
  | .shelf => p * 8192
  | .store => p * 256
  | .cellar => (expanderAt s p).1

/-- A segment has storage on a part. -/
def onPart (s : State) (t : Tier) (p : Nat) (g : Seg) : Bool :=
  decide (g.kind = tierCode t) && (match t with
    | .cellar => decide (g.target < (expanderAt s p).1 + (expanderAt s p).2) &&
        decide ((expanderAt s p).1 < g.target + g.size * 2097152)
    | _ => true)

/-- A line of a twin segment in the cellar has no valid copy but the one behind hatch p: it awaits its resynchronisation
(R156). -/
def onlyOn (s : State) (p : Nat) (g : Seg) : Bool :=
  let here (l : Nat) : Bool := decide (g.target ≤ l * 64) && decide (l * 64 < g.target + g.size * 2097152)
  match cellarPair s with
  | some (a, _) => if p = a then s.cellar.bad.any fun b => here b.line && upsetFails b.copy else s.cellar.resync.any here
  | none => false

/-- Storage of a segment is lost with a part: a plain one there, a twin one where no other copy is left (R155, R161, R163). -/
def lostOn (s : State) (t : Tier) (p : Nat) (g : Seg) : Bool :=
  let other := twinPart s t p
  if g.twin then (onPart s t p g || onPart s t other g) && (partLost s t other || (t == .cellar && onlyOn s p g))
  else onPart s t p g

/-- Storage of a segment is lost now (R161, R163). -/
def segLost (s : State) (g : Seg) : Bool :=
  (List.range 12).any fun p => isPart s (tierOfKind g.kind) p && partLost s (tierOfKind g.kind) p && lostOn s (tierOfKind g.kind) p g

/-- Parked segments whose storage is lost with a part (R161). -/
def loseParked (t : Tier) (p : Nat) (s : State) : State :=
  { s with steward := { s.steward with parked := s.steward.parked.map fun k =>
      { k with segs := k.segs.map fun x => if lostOn s t p x.seg then { x with lost := true } else x } } }

/-- A part is lost: its copies are marked lost, COPIES_LOST counts it, and the event is latched. -/
def losePart (t : Tier) (p : Nat) (s : State) : State :=
  let src := match t with | .shelf => p * 32 | _ => p
  let s1 := modTier t (fun x => { x with lost := addNew x.lost p, copiesLost := satAdd 8 x.copiesLost 1 }) s
  latch (event (2 + tierCode t) 6 3 src (partOffset s t p)) (loseParked t p s1)

/-- PART_LOSS: a whole stack, channel or expander fails. -/
def execPartLoss (tier : Tier) (part : Nat) (s : State) : Host.Outcome State Fault Refusal :=
  .next (if powered s && isPart s tier part && !(getTier s tier).lost.contains part then losePart tier part s else s)

/-- CELLAR_LINK_DOWN: the expander behind a cellar hatch is lost until the link returns (R163, R171). -/
def cellarLinkDown (h : Nat) (s : State) : State :=
  let s1 := modHatch h (fun x => { x with
    link := .down, gen := 0, width := 0, downs := satAdd 16 x.downs 1, downSince := some s.clk.mono }) s
  if (getHatch s h).expander = 0 ∨ s.cellar.lost.contains h = true then s1 else losePart .cellar h s1

def execCellarLinkDown (hatch : Nat) (s : State) : Host.Outcome State Fault Refusal :=
  .next (if powered s && decide (role s hatch = 1) && hatchUp s hatch then cellarLinkDown hatch s else s)

/-- Touched granules on an expander. -/
def granulesOn (s : State) (h : Nat) : List Nat :=
  s.cellar.touched.filter fun g =>
    decide ((expanderAt s h).1 ≤ g * 65536) && decide (g * 65536 < (expanderAt s h).1 + (expanderAt s h).2)

/-- Lines of granules. -/
def linesIn (gs : List Nat) : List Nat := gs.flatMap fun g => (List.range 1024).map fun k => g * 1024 + k

/-- CELLAR_LINK_UP (R171): plain storage becomes untouched and parked segments there LOST; twin lines are to be rewritten
from the paired expander, primaries as `resync`, copies as copies that fail until then. -/
def cellarLinkUp (h : Nat) (s : State) : State :=
  let s1 := modHatch h (fun x => { x with link := .up, downSince := none }) s
  let (a, n) := expanderAt s h
  let back (x : TierSt) : TierSt := { x with lost := x.lost.filter (· != h) }
  match cellarPair s with
  | some (first, second) =>
    let range := expanderAt s first
    if h = first ∨ h = second then
      let other := if h = first then second else first
      if partLost s .cellar other then modTier .cellar (fun x => clearPlain range.1 range.2 (back x)) s1
      else modTier .cellar (fun x => (linesIn (granulesOn s first)).foldl (fun y l => twinBack (decide (h = first)) l y) (back x)) s1
    else loseParked .cellar h (modTier .cellar (fun x => clearPlain a n (back x)) s1)
  | none => loseParked .cellar h (modTier .cellar (fun x => clearPlain a n (back x)) s1)
where
  /-- A twin line whose copy on the returned expander is to be rewritten; a line that the other expander does not hold either is
  gone, and reads zeros (R163). -/
  twinBack (primary : Bool) (l : Nat) (x : TierSt) : TierSt :=
    let b := badLine x l
    let gone := if primary then upsetFails b.copy else x.resync.contains l || upsetFails b.primary
    if gone then
      { setBad { b with primary := .clean, copy := .clean } x with
        mem := clearBytes x.mem (l * 64) 64, resync := x.resync.filter (· != l) }
    else if primary then { x with resync := addNew x.resync l }
    else setBad { b with copy := .soft } x
  /-- Every granule of a range is untouched and reads zeros. -/
  clearPlain (a n : Nat) (x : TierSt) : TierSt :=
    { x with
      mem := clearBytes x.mem a n
      touched := x.touched.filter fun g => decide (g * 65536 < a) || decide (a + n ≤ g * 65536)
      resync := x.resync.filter fun l => decide (l * 64 < a) || decide (a + n ≤ l * 64)
      bad := x.bad.filter fun b => decide (b.line * 64 < a) || decide (a + n ≤ b.line * 64) }

def execCellarLinkUp (hatch : Nat) (s : State) : Host.Outcome State Fault Refusal :=
  .next (if powered s && decide (role s hatch = 1) && decide ((getHatch s hatch).link = .down) &&
      decide (0 < (getHatch s hatch).expander) then cellarLinkUp hatch s else s)

/-- TWIN_RESYNC: one twin line on a returned expander is rewritten from its pair (R156). -/
def twinResync (line : Nat) (s : State) : State :=
  modTier .cellar (fun x =>
    let b := badLine x line
    if x.resync.contains line ∧ upsetFails b.copy then x
    else if x.resync.contains line then { setBad { b with primary := .clean } x with resync := x.resync.filter (· != line) }
    else if upsetFails b.copy ∧ ¬ upsetFails b.primary then setBad { b with copy := .clean } x
    else x) s

/-- The partner that a resynchronisation reads from answers. -/
def resyncReady (s : State) : Bool :=
  match cellarPair s with
  | some (a, b) => !partLost s .cellar a && !partLost s .cellar b
  | none => false

def execTwinResync (line : Nat) (s : State) : Host.Outcome State Fault Refusal :=
  .next (if running s && resyncReady s then twinResync line s else s)

end Sys2Proof.Machine
end

