-- ==== Sys2Proof/Machine/Inst.lean ====
section
/-! DEFINITION. Virtual instances (17_instances.md R417 to R428): the steward's frames and commands, quotas, the reset of an
instance and its clearing; parked sets (06_memory_tiers.md R157 to R161). -/
namespace Sys2Proof.Machine

/-! ### The reset of an instance (R17, R426 to R428) -/

/-- Dockets of a queue that have not started are withdrawn, and their destinations left undefined (R112). -/
def dropUnstarted (i qi : Nat) (x : Inst) (q : Queue) (s : State) : State :=
  let waiting := q.runs.filter fun r => !r.started
  let s1 := each q.fetched (fun f =>
    undefDocket x.segs (tableLig x (view q.desc.v1 f.words)) (view q.desc.v1 f.words)) s
  let s2 := each waiting (fun r t => undefDocket r.segs r.lig (runWords q r) (withdrawPress i qi r t)) s1
  modQueue i qi (fun y => { y with fetched := [], runs := y.runs.filter (·.started) }) s2

/-- A queue stops without receipts: the broadsheet plate, a DRAINING or a HELD queue (R112, R113, R401). Started dockets are
ended when the instance is cleared. -/
def stopQueue (i qi : Nat) (x : Inst) (q : Queue) (s : State) : State :=
  modQueue i qi (fun y => { y with
    st := .stopped, record := [], waiting := [], sweep := none, scanWaits := false, fetchStop := none, place := .none }) (dropUnstarted i qi x q s)

/-- The outstanding dockets of a DRAINING queue end: one that has completed keeps its own status, the others are ABORTED
(R110, R111). -/
def endOutstanding (i qi : Nat) (s : State) : State :=
  match getQueue s i qi with
  | none => s
  | some q =>
    let at_ (slot : Nat) : DRef := { inst := i, queue := qi, slot := slot }
    let done := q.runs.filter fun r => r.outcome.isSome && dOp (runWords q r) != opFence
    each (q.fetched.map (·.slot) ++ q.runs.map (·.slot)) (fun k => drainAbort (at_ k))
      (each (done.map (·.slot)) (fun k => completeDocket (at_ k)) s)

/-- A DRAINING queue goes to STOPPED at once with its receipts (R17, R113); those for which no receipt slot is released wait
for one (R100). -/
def stopDraining (i qi : Nat) (s : State) : State :=
  modQueue i qi (fun y => { y with
    st := .stopped, sweep := none, scanWaits := false, fetchStop := none, place := .none }) (endOutstanding i qi s)

/-- What a reset does to one queue at once: a queue of a plate with tracking records drains, any other stops, and one that drains already is STOPPED with its receipts
(R113); started
TALLY_WAITs end without receipts (R293), a FENCE that waits for earlier dockets has not completed (R44), and the interrupts due
or counted are dropped (R412). -/
def resetQueue (i : Nat) (x : Inst) (p : Nat × Queue) (s : State) : State :=
  let qi := p.1
  let s1 := modQueue i qi (fun y => { y with
    counted := 0, countedAt := none, modDue := none, dueWaits := false, bell := false
    runs := (y.runs.map (reopenFence y)).filter fun r => !(r.started && dOp (runWords y r) == opTallyWait) }) s
  match getQueue s1 i qi with
  | none => s1
  | some q =>
    match q.st with
    | .active | .error =>
      if tracks s then
        settleDrain i qi (modQueue i qi (fun y => { y with
          st := .draining, sweep := none, scanWaits := false, fetchStop := none, place := .none }) s1)
      else stopQueue i qi x q s1
    | .draining => if tracks s then stopDraining i qi s1 else stopQueue i qi x q s1
    | .held => stopQueue i qi x q s1
    | .stopped => s1

/-- A reset event: step 1 of R427, or its merging into the sequence already running (R424). -/
def resetInst (i : Nat) (destroy : Bool) (s : State) : State :=
  let x := getInst s i
  match x.st with
  | .absent => s
  | .resetting => modInst i (fun y => { y with destroy := y.destroy || destroy }) s
  | .active =>
    let s1 := modInst i (fun y => { y with
      st := .resetting, shareHeld := true, clearing := false, destroy := destroy, refusing := true
      resets := satAdd 32 y.resets 1, missed := 0, late := 0 }) s
    placeAll (resetColls i (each x.queues (resetQueue i x) s1))

/-! ### Parked sets (R158 to R161) -/

/-- A segment that R157 lets park. -/
def parks (g : Seg) : Bool := g.live && g.keep && decide (g.kind < 3)

/-- The segments of an instance leave its table: KEEP segments are parked under its token, the others freed. -/
def clearSegs (i : Nat) (s : State) : State :=
  let x := getInst s i
  let token := wd x.record 4
  let idx := (List.range 16).filter fun k => token != 0 && parks (x.segs.getD k Seg.empty)
  let full := decide (4096 ≤ s.steward.parked.length)
  let keep := if full then [] else idx
  let freed := (List.range 16).filterMap fun k =>
    if keep.contains k then none else freedBy (x.segs.getD k Seg.empty) Seg.empty
  let entry (k : Nat) : ParkedSeg :=
    { index := k, seg := x.segs.getD k Seg.empty, lost := segLost s (x.segs.getD k Seg.empty) }
  let sets := if keep = [] then s.steward.parked else s.steward.parked ++ [{ token := token, segs := keep.map entry }]
  let s1 : State := { s with steward := { s.steward with parked := sets } }
  let s2 := each freed freeStorage (modInst i (fun y => { y with segs := List.replicate 16 Seg.empty }) s1)
  if full ∧ idx ≠ [] then latch (event 2 7 2 0 i) s2 else s2

/-! ### Steward frames (R417 to R420) -/

/-- Result codes of R418. -/
def swOk : Nat := 0
def swBusy : Nat := 1
def swRange : Nat := 2
def swQuota : Nat := 3
def swExists : Nat := 4
def swAbsent : Nat := 5
def swState : Nat := 6
def swUnsupported : Nat := 7
def swOccupied : Nat := 8
def swInUse : Nat := 9

def modSteward (f : Steward → Steward) (s : State) : State := { s with steward := f s.steward }

/-- Fields of a frame. -/
def stwCmd (w : List Word) : Nat := fld (wd w 0) 0 16
def stwSeq (w : List Word) : Nat := fld (wd w 0) 16 16
def stwLen (w : List Word) : Nat := fld (wd w 0) 32 16
def stwInst (w : List Word) : Nat := fld (wd w 1) 0 12
def stwToken (w : List Word) : Word := wd w 2
def stwTarget (w : List Word) : Nat := fld (wd w 3) 0 12

/-- A response frame. -/
def stwFrame (w : List Word) (result : Nat) (payload : List Byte) : List Byte :=
  bytesOf [place (stwCmd w) 0 16 ||| place (stwSeq w) 16 16 ||| place payload.length 32 16 ||| place result 48 8,
           place (stwInst w) 0 12, stwToken w, place (stwTarget w) 0 12] ++ payload

/-- A response: to STW_RESP, with STW_STATUS, or over the management port. -/
def stwReply (ch : StwChannel) (w : List Word) (result : Nat) (payload : List Byte) (s : State) : State :=
  let bs := stwFrame w result payload
  match ch with
  | .mailbox =>
    let s1 := (writeHost (mgrFn s) (s.steward.resp.toNat / 4096 * 4096) bs s).2
    modSteward (fun t => { t with busy := false, seq := stwSeq w, result := result }) s1
  | .mgmtPort n _ => emit (.steward n bs) s

/-- A frame that R418 refuses with RANGE: a reserved field, a length other than the command's, an INSTANCE or TARGET without a
slot. -/
def stwBad (s : State) (w : List Word) : Bool :=
  let keep := decide (16 ≤ stwCmd w)
  fld (wd w 0) 48 16 != 0 || fld (wd w 1) 12 52 != 0 || fld (wd w 3) 12 52 != 0 ||
    (!keep && stwToken w != 0) || (stwCmd w != 0x11 && stwTarget w != 0) ||
    stwLen w != (if stwCmd w = 1 ∨ stwCmd w = 5 then 128 else 0) || (slotOf s (stwInst w)).isNone ||
    (stwCmd w == 0x11 && (slotOf s (stwTarget w)).isNone)

/-! ### The record and quotas (R421, R422) -/

def recQueues (r : List Word) : Nat := fld (wd r 0) 0 21
def recWindows (r : List Word) : Nat := fld (wd r 0) 21 17
def recTallies (r : List Word) : Nat := fld (wd r 0) 38 19
def recKeys (r : List Word) : Nat := fld (wd r 1) 0 17
def recBins (r : List Word) : Nat := fld (wd r 1) 17 11
def recHandles (r : List Word) : Nat := fld (wd r 1) 28 11
def recLigs (r : List Word) : Nat := fld (wd r 1) 39 11

/-- The ceilings of a record, as share words. -/
def recCeil (r : List Word) : List Word := [wd r 5, wd r 6, wd r 7, wd r 8]

/-- A record beyond the limits of R421. -/
def recordBad (s : State) (i : Nat) (r : List Word) : Bool :=
  decide (1048576 < recQueues r) || decide (65536 < recWindows r) ||
    decide (((slotOf s i).map (·.tallySpan)).getD 0 < recTallies r) || decide (65535 < recKeys r) ||
    decide (1536 < recBins r) || decide (1024 < recHandles r) || decide (1024 < recLigs r) ||
    decide (294912 < fld (wd r 2) 0 24) || decide (1572864 < fld (wd r 2) 24 24) || decide (1572864 < fld (wd r 3) 0 24) ||
    fld (wd r 0) 57 7 != 0 || fld (wd r 1) 50 14 != 0 || fld (wd r 2) 48 16 != 0 || fld (wd r 3) 25 39 != 0 ||
    (recCeil r).any (fun c => fld c 0 16 != 0 || fld c 56 8 != 0) || ((List.range 7).any fun k => wd r (9 + k) != 0)

/-- The sum of a reserved field over the other existing instances. -/
def otherSum (s : State) (i : Nat) (f : List Word → Nat) : Nat :=
  sumOf (fun p => if p.1 = i ∨ p.2.st = .absent then 0 else f p.2.record) s.insts

/-- Reservations that would exceed the device (R422). -/
def overReserved (s : State) (i : Nat) (r : List Word) : Bool :=
  decide (queueCapacity s < otherSum s i recQueues + recQueues r) || decide (65535 < otherSum s i recKeys + recKeys r) ||
    decide (16384 < otherSum s i recHandles + recHandles r) || decide (65536 < otherSum s i recLigs + recLigs r)

/-- Highest allocated index plus 1 of a table. -/
def topIndex {α : Type} (t : Table α) : Nat := t.foldl (fun m p => max m (p.1 + 1)) 0

/-- A reserved field lowered below its use (R423). -/
def lowersInUse (x : Inst) (r : List Word) : Bool :=
  let lower (f : List Word → Nat) (use : Nat) : Bool := decide (f r < f x.record) && decide (f r < use)
  lower recQueues x.queues.length || lower recTallies (topIndex x.tallies) || lower recKeys (keysLoaded x) ||
    lower recHandles x.colls.length || lower recLigs (topIndex x.ligs)

/-- The usage of an instance, in the layout of the record (R418). -/
def usageWords (x : Inst) : List Word :=
  [place x.queues.length 0 21 ||| place (x.wins.filter fun w => w.2.valid).length 21 17 ||| place x.tallies.length 38 19,
   place (keysLoaded x) 0 17 ||| place (binsHeld x) 17 11 ||| place x.colls.length 28 11 ||| place x.ligs.length 39 11,
   place (tierUnits .shelf x.segs) 0 24 ||| place (tierUnits .store x.segs) 24 24, place (tierUnits .cellar x.segs) 0 24] ++
    List.replicate 12 0

/-! ### The commands -/

/-- INST_CREATE: the record is stored, every table is empty. -/
def createInst (ch : StwChannel) (w r : List Word) (s : State) : State :=
  let i := stwInst w
  if recordBad s i r then stwReply ch w swRange [] s
  else if (getInst s i).st ≠ .absent then stwReply ch w swExists [] s
  else if overReserved s i r then stwReply ch w swQuota [] s
  else
    stwReply ch w swOk [] (modInst i (fun x => { Inst.empty with
      st := .active, record := r, shown := x.shown, ceil := recCeil r, resets := x.resets }) s)

/-- INST_RESET and INST_DESTROY: answered when the clearing is done. -/
def resetByFrame (destroy : Bool) (ch : StwChannel) (w : List Word) (s : State) : State :=
  let i := stwInst w
  let x := getInst s i
  if x.st = .absent then stwReply ch w swAbsent [] s
  else
    let s1 := resetInst i destroy s
    if x.st = .resetting ∧ x.clearing = true then stwReply ch w swOk [] s1
    else
      let busy := decide (ch = .mailbox)
      modSteward (fun t => { t with busy := t.busy || busy })
        (modInst i (fun y => { y with answers := y.answers ++ [(ch, stwCmd w, stwSeq w)] }) s1)

/-- INST_QUERY. -/
def queryInst (ch : StwChannel) (w : List Word) (s : State) : State :=
  let x := getInst s (stwInst w)
  if x.st = .absent then stwReply ch w swAbsent [] s
  else stwReply ch w swOk (bytesOf (x.record ++ usageWords x)) s

/-- New ceilings come into force (R423, R384): at the edge, or at once while no tick runs. -/
def setCeilings (i : Nat) (r : List Word) (s : State) : State :=
  if ticking s then modInst i (fun x => { x with ceilNext := some (recCeil r) }) s
  else placeAll (modInst i (fun x => { x with ceil := recCeil r }) s)

/-- INST_SET. -/
def setInst (ch : StwChannel) (w r : List Word) (s : State) : State :=
  let i := stwInst w
  let x := getInst s i
  if recordBad s i r then stwReply ch w swRange [] s
  else if x.st = .absent then stwReply ch w swAbsent [] s
  else if x.st = .resetting then stwReply ch w swState [] s
  else if overReserved s i r then stwReply ch w swQuota [] s
  else if lowersInUse x r then stwReply ch w swInUse [] s
  else stwReply ch w swOk [] (setCeilings i r (modInst i (fun y => { y with record := r }) s))

/-- The oldest parked set under a token. -/
def oldestSet (s : State) (token : Word) : Option ParkedSet := s.steward.parked.find? fun p => p.token == token

/-- A segment entry of KEEP_LIST (R419). -/
def listEntry (x : ParkedSeg) : List Word :=
  [place x.index 0 4 ||| placeBit x.lost 4, BitVec.ofNat 64 x.seg.base, BitVec.ofNat 64 x.seg.limit,
   place x.seg.kind 0 2 ||| place (x.seg.size * 2097152 / 4) 2 62]

/-- KEEP_LIST. -/
def listSet (ch : StwChannel) (w : List Word) (s : State) : State :=
  match oldestSet s (stwToken w) with
  | none => stwReply ch w swAbsent [] s
  | some p => stwReply ch w swOk (bytesOf (p.segs.flatMap listEntry)) s

/-- The storage of a LOST segment is marked untouched (R161). -/
def untouch (g : Seg) (s : State) : State :=
  let f : FreeWait := { start := g.target, length := g.size * 2097152, twin := g.twin }
  modTier (tierOfKind g.kind) (fun x => { reclaimTier (fun _ => false) { x with freeing := [f] } with freeing := x.freeing }) s

/-- The segment table of a target with a set entered at its recorded places. The attributes RD, WR and KEEP are not recorded:
the segments read and write like any other, and keep KEEP. -/
def enterSet (p : ParkedSet) (l : List Seg) : List Seg :=
  p.segs.foldl (fun t x => modAt t x.index fun _ => { x.seg with en := true, rd := true, wr := true, keep := true }) l

/-- KEEP_CLAIM: every segment of the set, or none; DEV_GEN counts the change (R201). -/
def claimSet (ch : StwChannel) (w : List Word) (s : State) : State :=
  let i := stwTarget w
  let x := getInst s i
  match oldestSet s (stwToken w) with
  | none => stwReply ch w swAbsent [] s
  | some p =>
    if x.st = .resetting then stwReply ch w swState [] s
    else if x.st = .absent then stwReply ch w swAbsent [] s
    else
      let l := enterSet p x.segs
      let tiers := (p.segs.map fun y => tierOfKind y.seg.kind)
      if (p.segs.any fun y => (x.segs.getD y.index Seg.empty).en) || (List.range 16).any (overlapAt l) then
        stwReply ch w swOccupied [] s
      else if tiers.any fun t => decide (tierQuota x t < tierUnits t l) then stwReply ch w swQuota [] s
      else
        let s1 := modSteward (fun t => { t with parked := delFirst t.parked (fun y => y.token == stwToken w) }) s
        let s2 := each (p.segs.filter (·.lost)) (fun y => untouch y.seg) s1
        stwReply ch w swOk [] (modInst i (fun y => { y with segs := l, devGen := (y.devGen + 1) % 2 ^ 32 }) s2)

/-- KEEP_DISCARD. -/
def discardSet (ch : StwChannel) (w : List Word) (s : State) : State :=
  match oldestSet s (stwToken w) with
  | none => stwReply ch w swAbsent [] s
  | some p =>
    let s1 := modSteward (fun t => { t with parked := delFirst t.parked (fun y => y.token == stwToken w) }) s
    let freed := p.segs.filterMap fun y => freedBy y.seg Seg.empty
    stwReply ch w swOk [] (reclaim (each freed freeStorage s1))

/-- A command is still in progress for the instance, or a frame of the management port waits for its answer (R420). -/
def stwBusy (s : State) (ch : StwChannel) (w : List Word) : Bool :=
  stwCmd w != 4 && (!(getInst s (stwInst w)).answers.isEmpty ||
    (ch != .mailbox && s.insts.any fun p => p.2.answers.any fun a => a.1 != .mailbox))

/-- Run one frame. -/
def stwRun (ch : StwChannel) (bs : List Byte) (s : State) : State :=
  let w := wordsOf bs 4
  let r := wordsOf (bs.drop 32) 16
  let c := stwCmd w
  if ¬ (c = 1 ∨ c = 2 ∨ c = 3 ∨ c = 4 ∨ c = 5 ∨ c = 0x10 ∨ c = 0x11 ∨ c = 0x12) then stwReply ch w swUnsupported [] s
  else if stwBad s w then stwReply ch w swRange [] s
  else if stwBusy s ch w then stwReply ch w swBusy [] s
  else if c = 1 then createInst ch w r s
  else if c = 2 then resetByFrame true ch w s
  else if c = 3 then resetByFrame false ch w s
  else if c = 4 then queryInst ch w s
  else if c = 5 then setInst ch w r s
  else if c = 0x10 then listSet ch w s
  else if c = 0x11 then claimSet ch w s
  else discardSet ch w s

/-- The request frame at STW_REQ, read by the manager's function (R520): a header, and its payload. A frame that cannot be
read is answered with a result that the manual does not give. -/
def readFrame (s : State) : Option (List Byte) × State :=
  let a := s.steward.req.toNat / 64 * 64
  let (h, s1) := readHost (mgrFn s) a 32 s
  if h.fail.isSome then (none, s1)
  else
    let n := min 4064 (stwLen (wordsOf h.bytes 4))
    if n = 0 then (some h.bytes, s1)
    else
      let (p, s2) := readHost (mgrFn s) (a + 32) n s1
      if p.fail.isSome then (none, s2) else (some (h.bytes ++ p.bytes), s2)

/-- STW_GO: ignored while a command is in progress (R420). -/
def stwGo (s : State) : State :=
  if s.steward.busy then s
  else
    match readFrame s with
    | (some bs, s1) => stwRun .mailbox bs s1
    | (none, s1) =>
      let (v, s2) := freeWord s1
      modSteward (fun t => { t with result := v.toNat % 10, seq := v.toNat / 16 % 65536 }) s2

/-- A session opened with the key of MGR_KEY_HASH, which alone carries steward messages (R369, R494). -/
def managerSession (s : State) (n : Nat) : Bool :=
  match tget s.spdm.sessions n with
  | some x => x.established && x.manager
  | none => false

/-- A frame of the management port is discarded and counted (R369). -/
def mgmtDiscard (s : State) : State := modEther (fun e => { e with mgmtDrop := satAdd 16 e.mgmtDrop 1 }) s

/-- A command of R418 by either channel; a frame of another command does nothing here, one that cannot be read is answered as
`stwGo` says. -/
def stwCommand (cmd : Nat) (ch : StwChannel) (s : State) : State :=
  if !running s then s
  else
    match ch with
    | .mailbox =>
      match (readFrame s).1 with
      | some bs => if stwCmd (wordsOf bs 4) = cmd then stwGo s else s
      | none => stwGo s
    | .mgmtPort n bs =>
      if stwCmd (wordsOf bs 4) ≠ cmd then s
      else if managerSession s n then stwRun (.mgmtPort n bs) bs s
      else mgmtDiscard s

def execInstCreate (ch : StwChannel) (s : State) : Host.Outcome State Fault Refusal := .next (stwCommand 1 ch s)
def execInstDestroy (ch : StwChannel) (s : State) : Host.Outcome State Fault Refusal := .next (stwCommand 2 ch s)
def execInstReset (ch : StwChannel) (s : State) : Host.Outcome State Fault Refusal := .next (stwCommand 3 ch s)
def execInstQuery (ch : StwChannel) (s : State) : Host.Outcome State Fault Refusal := .next (stwCommand 4 ch s)
def execInstSet (ch : StwChannel) (s : State) : Host.Outcome State Fault Refusal := .next (stwCommand 5 ch s)
def execKeepList (ch : StwChannel) (s : State) : Host.Outcome State Fault Refusal := .next (stwCommand 0x10 ch s)
def execKeepClaim (ch : StwChannel) (s : State) : Host.Outcome State Fault Refusal := .next (stwCommand 0x11 ch s)
def execKeepDiscard (ch : StwChannel) (s : State) : Host.Outcome State Fault Refusal := .next (stwCommand 0x12 ch s)

/-! ### The clearing (R427 steps 2 to 5, R206) -/

/-- What is left of a queue when no write of the instance can land any more: outstanding dockets of a draining queue end
ABORTED, then started ones without a receipt, their destinations undefined. -/
def clearQueue (i : Nat) (p : Nat × Queue) (s : State) : State :=
  let s1 := endOutstanding i p.1 s
  match getQueue s1 i p.1 with
  | none => s1
  | some q =>
    each q.runs (fun r t => undefDocket r.segs r.lig (runWords q r) (stopDocket i p.1 r t)) (dropUnstarted i p.1 (getInst s1 i) q s1)

/-- Messages being received for an instance are dropped with the slots they reserved. -/
def dropInbound (i : Nat) (s : State) : State :=
  let s1 := modDlv (fun d => { d with rx := d.rx.map fun c => { c with msgs := c.msgs.filter fun m => m.inst != i } }) s
  modEther (fun e => { e with roce := tmap e.roce fun _ c =>
    { c with rx := c.rx.bind fun r => if r.inst = i then none else some r } }) s1

/-- Step 5: the share and the ceilings are returned; the instance is ACTIVE, or ABSENT after INST_DESTROY. -/
def returnShare (i : Nat) (s : State) : State :=
  modInst i (fun x =>
    if x.destroy then { Inst.empty with resets := x.resets, shown := x.shown }
    else { x with st := .active, shareHeld := false, clearing := false, ceil := recCeil x.record, ceilNext := none,
                  ceilTT := [0, 0, 0, 0], sealedShares := none }) s

/-- An INST_RESET or INST_DESTROY that waits is answered (R420). -/
def answerReset (i : Nat) (a : StwChannel × Nat × Nat) (s : State) : State :=
  stwReply a.1 [place a.2.1 0 16 ||| place a.2.2 16 16, place i 0 12, 0, 0] swOk [] s

/-- RESET_CLEARING: steps 2 to 4 of R427 for a RESETTING instance; while no tick runs the share returns at once. -/
def resetClearing (i : Nat) (s : State) : State :=
  let x := getInst s i
  if x.st ≠ .resetting ∨ x.clearing = true then s
  else
    let s1 := meter (each x.queues (clearQueue i) s)
    let s2 := modPower (fun p => { p with
      waits := p.waits.filter (fun y => y.d.inst != i), permits := p.permits.filter fun y => y.d.inst != i }) s1
    let s3 := clearSegs i (dropInbound i s2)
    let s4 := modInst i (fun y => { y with
      queues := [], wins := [], ligs := [], tallies := [], keys := [], colls := [], devGen := 0, clearing := true
      regs := { y.regs with keyData := [0, 0, 0, 0] }, answers := [] }) s3
    let s5 : State := { s4 with collDev := { s4.collDev with ended := s4.collDev.ended.filter fun e => e.1 != i } }
    let s6 := each x.answers (answerReset i) (reclaim s5)
    if ticking s6 then s6 else returnShare i s6

def execResetClearing (i : Nat) (s : State) : Host.Outcome State Fault Refusal :=
  .next (if running s then resetClearing i s else s)

end Sys2Proof.Machine
end

