-- ==== Sys2Proof/Machine/Hatch.lean ====
section
/-! DEFINITION. Upstream hatches (16_hatches.md R387 to R412): training, link-down and HELD queues, L0p, L1 and Recovery, D3hot,
ATS invalidation; and the resets of functions (17_instances.md R426, R416). -/
namespace Sys2Proof.Machine

/-- An upstream hatch. -/
def upstream (s : State) (h : Nat) : Bool := decide (h < 4) && role s h == 0

/-- The hatch plate of a hatch; before it is applied, hatch 0 trains under MAX_GEN 6 and MAX_WIDTH 16 (R480). -/
def hatchPlate (s : State) (h : Nat) : HatchPlate :=
  (s.plates.hatches[h]?).getD { role := role s h, maxGen := 6, maxWidth := 16, l0pMin := 1, pfCount := 1, totalVfs := [] }

/-- HOLD_LIMIT and L0P_EN of a hatch. -/
def holdLimit (s : State) (h : Nat) : Nat := fld (getHatch s h).ctrl 0 8
def l0pEn (s : State) (h : Nat) : Bool := bit (getHatch s h).ctrl 8

/-! ### Pending interrupts of a function -/

/-- Messages of a function that only its link or its power state kept back are sent (R408, R410). -/
def flushPending (f : Fn) (s : State) : State :=
  let c := getFn s f
  if c.msixEn && !c.msixMask && !c.d3 && hatchUp s f.hatch then
    let ready := c.pendingBits.filter fun e => c.unmasked.contains e
    each ready (sendMsix f) (modFn f (fun x => { x with pendingBits := x.pendingBits.filter fun e => !ready.contains e }) s)
  else s

/-! ### Training and link-down (R388, R398, R402) -/

/-- A rate and width that training can give under the plate. -/
def linkLegal (s : State) (h gen width : Nat) : Bool :=
  let p := hatchPlate s h
  decide (3 ≤ gen) && decide (gen ≤ p.maxGen) && [1, 2, 4, 8, 16].contains width && decide (width ≤ p.maxWidth)

/-- A hatch may train: upstream, PERST_N deasserted, and for hatch 0 the sequence of R480 begun; hatches 1 to 3 wait for the
hatch plate, which gives them their role. -/
def mayTrain (s : State) (h : Nat) : Bool := powered s && upstream s h && !(getHatch s h).perst

/-- The link of a hatch reaches L0 from training. -/
def linkTrained (h gen width : Nat) (s : State) : State :=
  let p := hatchPlate s h
  let s1 := modHatch h (fun x => { x with link := .up, gen := gen, width := width, trained := width }) s
  let s2 := if gen < p.maxGen ∨ width < p.maxWidth then latch (event 6 1 1 h (Config.linkDetail gen width)) s1 else s1
  each (s2.fns.filter fun f => f.1.hatch == h) (fun f => flushPending f.1) s2

/-- Training in SRIS mode begins 1 ms after the deassertion of PERST_N, when no edge has come on HREFI (R509). -/
def awaitClock (h : Nat) (s : State) : State :=
  if (getHatch s h).sris then waitMono ((getHatch s h).released + 1000000) s else s

/-- HATCH_LINK_UP: training, or Recovery, ends in L0. The first training of hatch 0 ends POWER_ON, from 20 ms after rails
valid (R480). -/
def hatchLinkUp (h gen width : Nat) (s0 : State) : State :=
  let s := awaitClock h s0
  if !mayTrain s0 h || !linkLegal s0 h gen width then s0
  else
    match (getHatch s h).link with
    | .recovery => modHatch h (fun x => { x with link := .up, gen := gen, width := width, trained := width }) s
    | .down | .training =>
      if s.startup = .powerOn then
        if h = 0 then linkTrained h gen width { waitMono (s.boot.startedAt + 20000000) s with startup := .bare } else s0
      else linkTrained h gen width s
    | _ => s0

def execHatchLinkUp (hatch gen width : Nat) (s : State) : Host.Outcome State Fault Refusal :=
  .next (placeAll (hatchLinkUp hatch gen width s))

/-- A queue homed on a hatch becomes HELD. -/
def holdQueue (h : Nat) (q : Queue) : Queue :=
  if q.home = h ∧ (q.st = .active ∨ q.st = .error ∨ q.st = .draining) then
    { q with st := .held, heldFrom := q.st, place := .none }
  else q

/-- Queues that a link-down makes HELD. -/
def heldCount (s : State) (h : Nat) : Nat :=
  ((allQueues s).filter fun q => q.2.2.home == h &&
    (q.2.2.st == .active || q.2.2.st == .error || q.2.2.st == .draining)).length

/-- Messages that waited for a wake wait for the link instead. -/
def unwake (m : Fn × Nat) (s : State) : State := modFn m.1 (fun x => { x with pendingBits := addNew x.pendingBits m.2 }) s

/-- A link-down of an upstream hatch (R398). -/
def linkDown (h : Nat) (s : State) : State :=
  let x := getHatch s h
  let n := heldCount s h
  let s1 := modHatch h (fun y => { y with
    link := .down, gen := 0, width := 0, trained := 0, downs := satAdd 16 y.downs 1, atc := [], wakeMsgs := []
    downSince := some s.clk.mono, armed := false }) s
  let s2 := { s1 with insts := tmap s1.insts fun _ y => { y with queues := tmap y.queues fun _ q => holdQueue h q } }
  placeAll (latch (event 6 2 0 h n) (each x.wakeMsgs unwake s2))

/-- A link that can go down. -/
def linkLive (s : State) (h : Nat) : Bool := upstream s h && hatchUp s h

def execHatchLinkDown (hatch : Nat) (s : State) : Host.Outcome State Fault Refusal :=
  .next (if powered s && linkLive s hatch then linkDown hatch s else s)

/-! ### Resets (R401, R416, R426) -/

/-- The reset of an instance, or in keeping its record: it runs first when the device leaves keeping (R512). -/
def instReset (i : Nat) (s : State) : State :=
  if running s then resetInst i false s
  else if s.startup = .running ∧ (getInst s i).st = .active then
    modPower (fun p => { p with recordedResets := addNew p.recordedResets i }) (modInst i (fun x => { x with st := .resetting }) s)
  else s

/-- Recorded resets run. -/
def runRecorded (s : State) : State :=
  each s.power.recordedResets (fun i t => resetInst i false (modInst i (fun x => { x with st := .active }) t))
    (modPower (fun p => { p with recordedResets := [] }) s)

/-- The configuration of a function returns to its reset values, and its translations are discarded (R397). A physical
function keeps VF Enable, as its reset reaches no virtual function (R426). -/
def clearFn (f : Fn) (s : State) : State :=
  let vf := (getFn s f).vfEnable && f.vf == 0
  let s1 := { s with fns := s.fns.filter fun p => p.1 != f }
  modHatch f.hatch (fun h => { h with atc := h.atc.filter fun t => t.1 != f, wakeMsgs := h.wakeMsgs.filter fun t => t.1 != f })
    (if vf then modFn f (fun c => { c with vfEnable := true }) s1 else s1)

/-- Instances that a function presents. -/
def presented (s : State) (f : Fn) : List Nat := (s.plates.slots.filter fun x => fnOf s x.inst == f).map (·.inst)

/-- A function-level reset. -/
def functionReset (f : Fn) (s : State) : State := each (presented s f) instReset (clearFn f s)

/-- Configuration requests reach a function: its hatch is upstream and its link carries them. -/
def configReaches (s : State) (f : Fn) : Bool :=
  decide (s.startup ≠ .off) && decide (s.startup ≠ .powerOn) && linkLive s f.hatch

def execFunctionLevelReset (f : Fn) (s : State) : Host.Outcome State Fault Refusal :=
  .next (if configReaches s f then functionReset f s else s)

/-- Virtual functions of a physical function that the device knows of. -/
def vfsOf (s : State) (h pf : Nat) : List Fn :=
  let slots := s.plates.slots.filterMap fun x =>
    if !x.pfPage && x.hatch == h && x.pf == pf then some { hatch := h, pf := pf, vf := x.vf : Fn } else none
  (slots ++ (s.fns.map (·.1)).filter fun f => f.hatch == h && f.pf == pf && f.vf != 0).foldl addNew []

/-- VF_ENABLE_CLEAR (R416). -/
def vfEnableClear (h pf : Nat) (s : State) : State :=
  let f : Fn := { hatch := h, pf := pf, vf := 0 }
  if configReaches s f && (getFn s f).vfEnable then
    each (vfsOf s h pf) functionReset (modFn f (fun c => { c with vfEnable := false }) s)
  else s

def execVfEnableClear (hatch pf : Nat) (s : State) : Host.Outcome State Fault Refusal := .next (vfEnableClear hatch pf s)

/-- Every instance presented on a hatch. -/
def onHatch (s : State) (h : Nat) : List Nat := (s.plates.slots.filter fun x => x.hatch == h).map (·.inst)

/-- A hot reset, or PERST_N, resets every function of a hatch (R401). -/
def resetHatch (h : Nat) (s : State) : State :=
  let s1 := { s with fns := s.fns.filter fun p => p.1.hatch != h }
  each (onHatch s1 h) instReset (modHatch h (fun x => { x with atc := [], wakeMsgs := [] }) s1)

def execHotReset (hatch : Nat) (s : State) : Host.Outcome State Fault Refusal :=
  .next (if decide (s.startup ≠ .off) && decide (s.startup ≠ .powerOn) && linkLive s hatch then resetHatch hatch s else s)

/-- HOLD_LIMIT_EXPIRY (R402): HOLD_LIMIT seconds after the link-down, with the link still down or returned without an ARM. -/
def holdExpiry (h : Nat) (s : State) : State :=
  let x := getHatch s h
  match x.downSince with
  | some t =>
    if holdLimit s h ≠ 0 ∧ (hatchUp s h = false ∨ x.armed = false) then
      each (onHatch s h) instReset (modHatch h (fun y => { y with downSince := none })
        (waitMono (t + holdLimit s h * 1000000000) s))
    else s
  | none => s

def execHoldLimitExpiry (hatch : Nat) (s : State) : Host.Outcome State Fault Refusal :=
  .next (if running s && upstream s hatch then holdExpiry hatch s else s)

/-! ### D3hot (R410) -/

/-- D3HOT_ENTRY: the function's queues start nothing more. -/
def execD3hotEntry (f : Fn) (s : State) : Host.Outcome State Fault Refusal :=
  .next (if configReaches s f then placeAll (modFn f (fun c => { c with d3 := true }) s) else s)

/-- Queues of the instances of a function whose due interrupt waits. -/
def waitingQueues (s : State) (f : Fn) : List (Nat × Nat × Queue) :=
  (allQueues s).filter fun q => q.2.2.dueWaits && { fnOf s q.1 with hatch := q.2.2.home } == f

/-- D0_RETURN: every due interrupt is sent, and work goes on. -/
def d0Return (f : Fn) (s : State) : State :=
  let s1 := modFn f (fun c => { c with d3 := false }) s
  let s2 := each (waitingQueues s1 f) (fun q t =>
    raiseQueue q.1 q.2.1 (modQueue q.1 q.2.1 (fun y => { y with dueWaits := false }) t)) s1
  placeAll (wakeRuns (flushPending f s2))

def execD0Return (f : Fn) (s : State) : Host.Outcome State Fault Refusal :=
  .next (if configReaches s f && (getFn s f).d3 then d0Return f s else s)

/-! ### L0p, L1 and Recovery (R389, R390, R411) -/

/-- A width that L0p may ask for: a narrower one not below L0P_MIN, or the full width again (R389). -/
def l0pLegal (s : State) (h width : Nat) : Bool :=
  [1, 2, 4, 8, 16].contains width && (decide (width < (getHatch s h).width) && decide ((hatchPlate s h).l0pMin ≤ width) ||
    decide ((getHatch s h).width < width) && decide (width = (getHatch s h).trained))

/-- L0P_REQUEST. -/
def execL0pRequest (hatch width : Nat) (s : State) : Host.Outcome State Fault Refusal :=
  .next (if running s && upstream s hatch && decide ((getHatch s hatch).link = .up) && l0pEn s hatch &&
      l0pLegal s hatch width then
    emit (.l0p hatch width) (modHatch hatch (fun x => { x with width := width }) s)
  else s)

/-- A docket has an access to a hatch before it. -/
def needsHatch (h : Nat) (q : Queue) (r : Run) : Bool :=
  r.outcome.isNone && (openRanges q r).any fun x =>
    match findSeg r.segs x.1 x.2.1 false false with
    | some g => g.kind == 3 && g.hatch == h
    | none => false

/-- A request is outstanding on a hatch, a piece is granted towards it, or an interrupt is due to be sent (R390). -/
def hatchBusy (s : State) (h : Nat) : Bool :=
  !(getHatch s h).wakeMsgs.isEmpty || (allQueues s).any fun q =>
    (q.2.2.home == h && q.2.2.dueWaits) || q.2.2.runs.any fun r =>
      needsHatch h q.2.2 r || (q.2.2.home == h && r.outcome.isSome)

/-- L1_ENTRY: into L1 (substate 0), L1.1 (1) or L1.2 (2). -/
def execL1Entry (hatch substate : Nat) (s : State) : Host.Outcome State Fault Refusal :=
  .next (if powered s && upstream s hatch && decide (substate ≤ 2) && !hatchBusy s hatch &&
      (decide ((getHatch s hatch).link = .up) || decide ((getHatch s hatch).link = .l1)) then
    modHatch hatch (fun x => { x with link := if substate = 2 then .l12 else .l1 }) s
  else s)

/-- L1_WAKE: the link returns to L0 and the waiting messages are sent. -/
def l1Wake (h : Nat) (s : State) : State :=
  let x := getHatch s h
  each x.wakeMsgs (fun m => sendMsix m.1 m.2) (modHatch h (fun y => { y with link := .up, wakeMsgs := [] }) s)

def execL1Wake (hatch : Nat) (s : State) : Host.Outcome State Fault Refusal :=
  .next (if powered s && upstream s hatch &&
      (decide ((getHatch s hatch).link = .l1) || decide ((getHatch s hatch).link = .l12)) then l1Wake hatch s else s)

/-- HATCH_RECOVERY: the link enters Recovery; requests wait in the device until L0 returns, so nothing is lost (R389). -/
def execHatchRecovery (hatch : Nat) (s : State) : Host.Outcome State Fault Refusal :=
  .next (if powered s && upstream s hatch && decide ((getHatch s hatch).link = .up) then
    modHatch hatch (fun x => { x with link := .recovery }) s else s)

/-! ### ATS (R397) -/

/-- ATS_INVALIDATE: pages leave the ATC for reads and writes, and the request is completed. -/
def execAtsInvalidate (f : Fn) (page count : Nat) (s : State) : Host.Outcome State Fault Refusal :=
  .next (if configReaches s f then
    emit (.atsDone f) (modHatch f.hatch (fun h => { h with atc := h.atc.filter fun t =>
      !(t.1 == f && decide (page ≤ t.2 / 2) && decide (t.2 / 2 < page + count)) }) s)
  else s)

end Sys2Proof.Machine
end

