-- ==== Sys2Proof/Machine/Health.lean ====
section
/-! DEFINITION. The manager's registers of the ledger and the event ring, forced safe state and injection, ALIVE and the
watchdog, and the faults of units of the device (19_faults_takeover.md R445 to R464). -/
namespace Sys2Proof.Machine

/-! ### Ledger and ring (R448, R449) -/

/-- A class is acknowledged: VALID, TOP, EVENTS and LEDGER_DETAIL become 0; the other fields keep their values. -/
def ackClass (c : LedgerClass) : LedgerClass := { c with first := setFld c.first 0 1 0, detail := 0, top := 0, events := 0 }

/-- LEDGER_ACK. -/
def ackLedger (classes : Nat) (s : State) : State :=
  modFaults (fun f => { f with ledger := (List.range 16).map fun c =>
    let x := f.ledger.getD c LedgerClass.reset
    if classes / 2 ^ c % 2 = 1 then ackClass x else x }) s

def execLedgerAck (classes : BitVec 16) (s : State) : Host.Outcome State Fault Refusal :=
  .next (if ledgerAnswers s then ackLedger classes.toNat s else s)

/-- FEV_RI: a release index not beyond WI is accepted. -/
def writeFevRi (v : Nat) (s : State) : State :=
  let f := s.faults
  if (v + 512 - f.ri) % 512 ≤ (f.wi + 512 - f.ri) % 512 then modFaults (fun x => { x with ri := v }) s else s

def execFevRiWrite (value : Word) (s : State) : Host.Outcome State Fault Refusal :=
  .next (if ledgerAnswers s then writeFevRi (fld value 0 9) s else s)

/-! ### Forced safe state and injection (R464) -/

/-- FAULT_FORCE with KEY 0x5AFE. -/
def execFaultForce (key : BitVec 16) (s : State) : Host.Outcome State Fault Refusal :=
  .next (if barAnswers s && key == 0x5AFE then placeAll (latch (event 15 1 4 0 0) s) else s)

/-- The CLASS, KIND and LEVEL of every event of R446 below level 4. -/
def injectable : List (Nat × Nat × Nat) :=
  [(0, 1, 2), (1, 1, 1), (1, 2, 2), (1, 3, 2), (1, 4, 3), (1, 5, 1), (1, 6, 3), (1, 7, 1), (1, 8, 3)] ++
  [(2, 1, 1), (2, 2, 1), (2, 3, 2), (2, 4, 2), (2, 5, 3), (2, 6, 3), (2, 7, 2), (2, 8, 3)] ++
  [(3, 1, 1), (3, 2, 1), (3, 3, 2), (3, 4, 2), (3, 5, 3), (3, 6, 3), (3, 8, 3)] ++
  [(4, 1, 1), (4, 2, 1), (4, 3, 2), (4, 4, 2), (4, 5, 3), (4, 6, 3), (4, 8, 3)] ++
  [(5, 1, 2), (5, 2, 3), (5, 3, 3), (5, 4, 1), (6, 1, 1), (6, 2, 0), (7, 1, 1), (7, 2, 2), (8, 1, 2), (8, 2, 2)] ++
  [(9, 1, 0), (9, 3, 0), (9, 2, 3), (10, 1, 3), (11, 1, 3), (11, 2, 0), (12, 1, 1), (13, 1, 3)]

/-- The tier of a memory class. -/
def tierOfClass (cls : Nat) : Tier := if cls = 2 then .shelf else if cls = 3 then .store else .cellar

/-- DETAIL of an injected event. FAULT_INJECT carries none, so the line, word or tally that the event names is free, within
the unit that SOURCE names where the response must find it (log entry 49). -/
def injectDetail (cls source : Nat) (s : State) : Nat × State :=
  let (w, s1) := freeWord s
  let n := w.toNat
  let d :=
    if cls = 1 then
      if source < 100 then source * 0x200000 + n % 0x8000 * 64
      else 0x10000000 + (n % (workingBytes s / 4096) * 64 + (source - 100) % 64) * 64
    else if 2 ≤ cls ∧ cls ≤ 4 then n % max 1 (tierBytes s (tierOfClass cls) / 64) * 64
    else n
  (d, s1)

/-- A whole tier is withdrawn (R446 KIND 0x08). -/
def withdrawTier (t : Tier) (source : Nat) (s : State) : State :=
  match t with
  | .cellar => modTier t (fun x => { x with lost := addNew x.lost source }) (loseParked t source s)
  | _ =>
    let parts := List.range (if t = .shelf then 6 else 12)
    let s1 := modTier t (fun x => { x with lost := parts.foldl addNew x.lost, capacity := 0 }) s
    each parts (loseParked t) s1

/-- The response to an injected memory event. -/
def injectMemory (t : Tier) (kind source detail : Nat) (s : State) : State :=
  let line := detail / 64
  match kind with
  | 1 => modTier t (fun x => { x with ceCount := satAdd 24 x.ceCount 1 }) s
  | 2 => modTier t (fun x => { x with twinCount := satAdd 8 x.twinCount 1 }) s
  | 3 => modTier t (replaceRow s t line) s
  | 4 => modTier t (fun x => { setBad { badLine x line with primary := .soft, latched := true } x with
      ueCount := satAdd 16 x.ueCount 1 }) s
  | 5 => modTier t (fun x => { x with servedCopy := addNew x.servedCopy line }) s
  | 6 =>
    let p := if t = .shelf then source / 32 else source
    if isPart s t p ∧ (getTier s t).lost.contains p = false then
      loseParked t p (modTier t (fun x => { x with lost := addNew x.lost p, copiesLost := satAdd 8 x.copiesLost 1 }) s)
    else s
  | 8 => withdrawTier t source s
  | _ => s

/-- The response to an injected galley event. -/
def injectGalley (kind source detail : Nat) (s : State) : State :=
  match kind with
  | 2 => if source < 100 then retireUnit 1 source s else s
  | 3 | 4 =>
    if source < 100 ∨ s.galley.withdrawn.contains (detail / 64) then s
    else modGalley (fun g => { g with withdrawn := g.withdrawn ++ [detail / 64], free := g.free - 64 }) s
  | 7 => listColumn (if source < 100 then source * 8 + detail % 8 else 800 + (source - 100)) detail s
  | 6 =>
    let n := detail / 8 % 262144
    match tallyOwner s n with
    | some (i, k) => failWaits i k (putTally n 0 s)
    | none => putTally n 0 s
  | 8 =>
    if source < 100 then retireUnit 1 source s
    else if s.galley.disabledBanks.contains (source - 100) then s
    else modGalley (fun g => { g with disabledBanks := g.disabledBanks ++ [source - 100], free := g.free - 1048576 }) s
  | _ => s

/-- The response to an injected fabric event: a takeover of the lane by the spare with its replay, a port that goes DOWN, or
one that stays out of service. -/
def injectFabric (kind source : Nat) (s : State) : State :=
  match kind with
  | 1 =>
    match portOfLane s source with
    | none => s
    | some p =>
      if !inService (getPort s p) || !(getPort s p).lanesUp.contains source then s
      else if spareFree p s then
        let s1 := sendControl p 2 source (toSpare p source s)
        match (getPort s1 p).replay with
        | c :: _ => replayFrom p c.lsn s1
        | [] => s1
      else loseLane p source s
  | 2 => if inService (getPort s source) then takeDown source s else s
  | 3 => if inService (getPort s source) then
      unrouteAll source (modPort source (fun x => { x with st := .wrongPeer, returns := false }) s)
    else s
  | _ => s

/-- A Ruzel pair fails (R455, R457): a spare pair takes its tasks. -/
def retirePair (p : Nat) (s : State) : State :=
  match s.faults.pairs[p]? with
  | some .active => startRecovery 8 8 p s
  | some .reserved => replaceSpare 8 8 p s
  | some .spare => modFaults (fun f => { f with pairs := modAt f.pairs p fun _ => .retired }) s
  | _ => s

/-- A cipher engine is withdrawn. -/
def withdrawEngine (e : Nat) (s : State) : State := modFaults (fun f => { f with engines := addNew f.engines e }) s

/-- The response to an injected event (R464). -/
def injectResponse (cls kind source detail : Nat) (s : State) : State :=
  match cls with
  | 0 => retireUnit 0 source s
  | 1 => injectGalley kind source detail s
  | 2 => injectMemory .shelf kind source detail s
  | 3 => injectMemory .store kind source detail s
  | 4 => injectMemory .cellar kind source detail s
  | 5 => injectFabric kind source s
  | 8 => retirePair source s
  | 10 => modPower (fun p => { p with hot := true }) s
  | 11 => if kind = 1 ∧ source < 24 then withdrawEngine source s else s
  | _ => s

/-- FAULT_INJECT. -/
def faultInject (v : Word) (s : State) : State :=
  let cls := fld v 0 4
  let level := fld v 4 3
  let kind := fld v 8 8
  let source := fld v 16 16
  if !s.plates.injectOk then modFaults (fun f => { f with injResult := 3 }) s
  else if !injectable.contains (cls, kind, level) then modFaults (fun f => { f with injResult := 2 }) s
  else
    let (d, s1) := injectDetail cls source s
    let s2 := latch { event cls kind level source d with injected := true } (modFaults (fun f => { f with injResult := 0 }) s1)
    if s2.startup = .safe then s2 else placeAll (injectResponse cls kind source d s2)

def execFaultInject (value : Word) (s : State) : Host.Outcome State Fault Refusal :=
  .next (if barAnswers s then faultInject value s else s)

/-! ### ALIVE and the watchdog (R461 to R463, R480) -/

/-- ALIVE_TOGGLE: 500 µs after the last edge. -/
def toggleAlive (s : State) : State :=
  if s.faults.aliveOn then
    let s1 := waitMono (s.faults.aliveAt + 500000) s
    emit (.alive (!s.faults.alive)) (modFaults (fun f => { f with alive := !f.alive, aliveAt := s1.clk.mono }) s1)
  else s

def execAliveToggle (s : State) : Host.Outcome State Fault Refusal := .next (if powered s then toggleAlive s else s)

/-- The watchdog period in force in ns: PERIOD_MS while RUNNING, 1,000 ms before (R480, R491). -/
def wdogPeriod (s : State) : Nat := (if s.startup = .running then fld s.quoin.now.wdogCtrl 0 14 else 1000) * 1000000

/-- The watchdog runs: it is armed, and not suspended by keeping (R476). -/
def wdogRuns (s : State) : Bool := s.faults.wdogOn && !inKeeping s

/-- WATCHDOG_SERVE: the service counts only when its three checks passed. -/
def execWatchdogServe (spineOk clockOk : Bool) (s : State) : Host.Outcome State Fault Refusal :=
  .next (if wdogRuns s && spineOk && clockOk && decide (4 ≤ (s.faults.pairs.filter (· == .active)).length) then
    modFaults (fun f => { f with wdogServed := s.clk.mono }) s else s)

/-- WATCHDOG_EXPIRY: not served for the period. -/
def execWatchdogExpiry (s : State) : Host.Outcome State Fault Refusal :=
  .next (if wdogRuns s then placeAll (latch (event 14 1 4 0 0) (waitMono (s.faults.wdogServed + wdogPeriod s) s)) else s)

/-- WATCH_SELFCHECK_FAIL. -/
def execWatchSelfcheckFail (s : State) : Host.Outcome State Fault Refusal :=
  .next (if powered s then placeAll (latch (event 14 2 4 0 0) s) else s)

/-! ### Units (R446, R455 to R457) -/

/-- A working part of the device can be found faulty: it has power and is not in safe state. -/
def awake (s : State) : Bool := powered s && decide (s.startup ≠ .safe)

/-- A Ruzel pair is halted: KIND 1 on a lockstep mismatch, 2 on a missed heartbeat. -/
def pairFails (kind p : Nat) (s : State) : State :=
  match s.faults.pairs[p]? with
  | none => s
  | some .retired => s
  | some _ =>
    let s1 := latch (event 8 kind 2 p 0) s
    if s1.startup = .safe then s1 else retirePair p s1

def execRuzelMismatch (pair : Nat) (s : State) : Host.Outcome State Fault Refusal :=
  .next (if awake s then pairFails 1 pair s else s)
def execRuzelHeartbeatMiss (pair : Nat) (s : State) : Host.Outcome State Fault Refusal :=
  .next (if awake s then pairFails 2 pair s else s)

/-- PRESS_UNIT_FAULT: a block on a unit fails the unit's checks. -/
def unitFault (u : Nat) (s : State) : State :=
  match (pressRuns s).find? fun x => x.2.2.2.flying.any fun b => b.unit == u with
  | none => s
  | some (d, _, _, _) =>
    let s1 := latch (event 0 1 2 u d.queue) s
    if s1.startup = .safe then s1 else placeAll (retireUnit 0 u s1)

def execPressUnitFault (unit : Nat) (s : State) : Host.Outcome State Fault Refusal :=
  .next (if running s then unitFault unit s else s)

/-- SPINE_FLIT_ERROR: corrected (KIND 1), delivered by link retry (2), or uncorrectable after retry (3). -/
def spineError (stop link kind : Nat) (s : State) : State :=
  match kind with
  | 1 => latch (event 7 1 1 stop link) s
  | 2 => latch (event 7 2 2 stop link) s
  | 3 => placeAll (latch (event 7 3 4 stop link) s)
  | _ => s

def execSpineFlitError (stop link kind : Nat) (s : State) : Host.Outcome State Fault Refusal :=
  .next (if awake s && decide (stop < 64) then spineError stop link kind s else s)

/-- CIPHER_SELFCHECK_FAIL. -/
def execCipherSelfcheckFail (engine : Nat) (s : State) : Host.Outcome State Fault Refusal :=
  .next (if awake s && decide (engine < 24) && !s.faults.engines.contains engine then
    withdrawEngine engine (latch (event 11 1 3 engine 0) s) else s)

end Sys2Proof.Machine
end

