-- ==== Sys2Proof/Machine/Power.lean ====
section
/-! DEFINITION. Temperature, the power states and the comparators (20_power_watch.md R471 to R478). -/
namespace Sys2Proof.Machine

/-! ### Temperature (R471) -/

/-- The lowest sensor that reads above a limit, with its reading. -/
def hotSensor (l : List Nat) (limit : Nat) : Option (Nat × Nat) :=
  ((List.range l.length).map fun k => (k, l.getD k 0)).find? fun x => decide (limit < x.2)

/-- TEMP_SAMPLE: the 16 sensors are read. -/
def tempSample (l : List Nat) (s : State) : State :=
  let rise := hotSensor l 95
  let s1 := match rise with
    | some (k, c) => if s.power.warned then s else latch (event 10 1 3 k c) s
    | none => s
  let s2 := modPower (fun p => { p with
    tempMax := (l.foldl max 0) % 256
    warned := rise.isSome
    hot := if rise.isSome then true else if l.all fun c => decide (c < 90) then false else p.hot }) s1
  match hotSensor l 105 with
  | some (k, c) => placeAll (latch (event 10 2 4 k c) s2)
  | none => s2

def execTempSample (celsius : List Nat) (s : State) : Host.Outcome State Fault Refusal :=
  .next (if powered s && decide (celsius.length = 16) then tempSample celsius s else s)

/-! ### Gating (R472 to R474) -/

/-- IDLE_US and KEEP_WAIT of POWER_CTRL, in ns. -/
def idleTime (s : State) : Nat := fld s.power.ctrl 8 8 * 1000
def keepTime (s : State) : Nat := fld s.power.ctrl 16 16 * 1000

/-- A block waits for a unit. -/
def blockDue (s : State) : Bool :=
  (List.range 100).any fun u => decide (s.faults.units[u]? = some .active) && (unitChoice s u).isSome

/-- The start time of the next planned entry, less the 2 µs in which the units are ungated (R474). -/
def ungateTime (s : State) : Option Nat := (nextEntry s).map fun x => entryTime x.1 x.2 - 2000

/-- IDLE_GATE: no press block was dispatched for IDLE_US, none runs, and none is due. -/
def idleGate (s : State) : State :=
  let s1 := waitMono (s.power.lastBlock + idleTime s) s
  let soon := match ungateTime s1 with | some t => decide (t ≤ s1.clk.ptp) | none => false
  if s.power.st = .active ∧ (pressRuns s).all (fun x => x.2.2.2.flying.isEmpty) = true ∧ blockDue s = false ∧ soon = false then
    modPower (fun p => { p with st := .idle, gated := true }) s1
  else s

def execIdleGate (s : State) : Host.Outcome State Fault Refusal := .next (if running s then idleGate s else s)

/-- The press units are ungated. -/
def ungate (s : State) : State := modPower (fun p => { p with st := .active, gated := false }) s

/-- PRESS_UNGATE: a block is due, or the next planned entry starts in 2 µs. -/
def pressUngate (s : State) : State :=
  if s.power.st ≠ .idle then s
  else if blockDue s then ungate s
  else
    match ungateTime s with
    | some t => ungate (waitPtp t s)
    | none => s

def execPressUngate (s : State) : Host.Outcome State Fault Refusal := .next (if running s then pressUngate s else s)

/-! ### Keeping (R475, R476) -/

/-- Results of POWER_STS. -/
def pwOk : Nat := 0
def pwBusy : Nat := 1
def pwRange : Nat := 2
def pwState : Nat := 6

def powerAnswer (r : Nat) (s : State) : State := modPower (fun p => { p with result := r }) s

/-- Quiescent (R475). -/
def quiescent (s : State) : Bool :=
  (allQueues s).all (fun q => q.2.2.fetched.isEmpty && q.2.2.runs.isEmpty && q.2.2.waiting.isEmpty && q.2.2.record.isEmpty) &&
    s.insts.all fun p => p.2.colls.isEmpty

/-- Queues whose doorbell was recorded are scanned once. -/
def scanBells (s : State) : State :=
  each ((allQueues s).filter fun q => q.2.2.bell && mayFetch s q.2.2) (fun q t =>
    let (ok, t1) := loadContext q.1 q.2.1 t
    if ok then scan q.1 q.2.1 none (modQueue q.1 q.2.1 (fun y => { y with bell := false }) t1) else t1) s

/-- KEEP_REQUEST: REQ = KEEP in active or idle stops the fetching; in keeping it gives STATE. -/
def keepRequest (s : State) : State :=
  if inKeeping s then powerAnswer pwState s
  else if keepTime s = 0 ∧ quiescent s = false then powerAnswer pwBusy s
  else modPower (fun p => { p with keepSince := some (p.keepSince.getD s.clk.mono) }) s

def execKeepRequest (s : State) : Host.Outcome State Fault Refusal :=
  .next (if running s || inKeeping s then keepRequest s else s)

/-- A servo whose source is a fabric port enters HOLDOVER (R476). -/
def holdServo (s : State) : State :=
  if timeSource s = 1 ∧ ptpPort s < 48 ∧ (s.time.servo = .locked ∨ s.time.servo = .acquiring) then
    let s1 := latch (event 9 1 0 0 (intCode 64 s.time.offset)) (modTime (fun t => { t with
      servo := .holdover, inRange := 0, holdSince := some s.clk.mono, holdLatched := false }) s)
    if holdoverLimit s = 0 then latchHoldover s1 else s1
  else s

/-- KEEP_ENTRY: the keys erased, the fabric silenced, the shelf and the store room in self-refresh, the press units, the
galley, the switch core and all Ruzel pairs but one without power. -/
def keepEntry (s : State) : State :=
  let s1 : State := { s with
    insts := tmap s.insts fun _ x => { x with keys := [] }
    fabric := { s.fabric with ports := s.fabric.ports.map silencePort, inject := [], ejected := [] }
    shelf := { s.shelf with ready := false }
    store := { s.store with ready := false }
    runs := [] }
  let s2 := modPower (fun p => { p with st := .keeping, result := pwOk, keepSince := none, gated := true }) s1
  holdServo s2

def execKeepEntry (s : State) : Host.Outcome State Fault Refusal :=
  .next (if running s && s.power.keepSince.isSome && quiescent s then keepEntry s else s)

/-- KEEP_WAIT_EXPIRY: not quiescent within KEEP_WAIT; fetching resumes. -/
def keepExpiry (s : State) : State :=
  match s.power.keepSince with
  | some t =>
    placeAll (scanBells (modPower (fun p => { p with result := pwBusy, keepSince := none }) (waitMono (t + keepTime s) s)))
  | none => s

def execKeepWaitExpiry (s : State) : Host.Outcome State Fault Refusal :=
  .next (if running s && !quiescent s then keepExpiry s else s)

/-- The galley as on wake from off (R164, R187): zeros, with the banks and words that faults withdrew still out of use;
the conflict counters end with it (R180). -/
def clearGalley (s : State) : State :=
  modGalley (fun g => { g with
    mem := [], tallies := [], tallyFailed := [], badLanes := g.badLanes.filter (fun x => x.2 == .hard), conflicts := []
    free := workingBytes s - 64 * g.withdrawn.length }) s

/-- A port that the plate gives lanes trains; it returns to service at the next tick edge (R307). -/
def retrainPort (s : State) (k : Nat) (p : Port) : Port :=
  match s.plates.ports[k]? with
  | some x => if x.lanes.isEmpty then p else { p with st := .training, wasDown := true }
  | none => p

/-- The exit from keeping (R476, R162): resets recorded in keeping run first (R512), then each recorded doorbell is
scanned. -/
def leaveKeeping (s : State) : State :=
  let s1 : State := { s with
    shelf := { s.shelf with ready := decide (0 < s.shelf.capacity) }
    store := { s.store with ready := decide (0 < s.store.capacity) }
    fabric := { s.fabric with
      ports := (List.range s.fabric.ports.length).map fun k => retrainPort s k (s.fabric.ports.getD k Port.reset) } }
  let s2 := modPower (fun p => { p with st := .active, result := pwOk, gated := false, lastBlock := s.clk.mono }) (clearGalley s1)
  let s3 := modFaults (fun f => { f with wdogServed := s.clk.mono }) s2
  placeAll (scanBells (runRecorded s3))

/-- WAKE_REQUEST: REQ = WAKE; in active or idle it gives STATE. -/
def execWakeRequest (s : State) : Host.Outcome State Fault Refusal :=
  .next (if inKeeping s then leaveKeeping s else if running s then powerAnswer pwState s else s)

/-! ### Comparators (R478) -/

def comparator (s : State) (k : Nat) : Comparator := s.power.comparators.getD k { ctrl := 0, value := 0, period := 0 }

def modComparator (k : Nat) (f : Comparator → Comparator) (s : State) : State :=
  modPower (fun p => { p with comparators := modAt p.comparators k f }) s

/-- VALUE of BASE 0 in ns of the time counter, whose seconds count modulo 2^34. -/
def valueTime (v : Word) : Nat := fld v 30 34 * 1000000000 + fld v 0 30

/-- ns as a VALUE of BASE 0. -/
def timeValue (t : Nat) : Word := place (t % 1000000000) 0 30 ||| place (t / 1000000000 % 2 ^ 34) 30 34

/-- The time counter's own reading modulo 2^34 s. -/
def counterTime (s : State) : Nat := s.clk.ptp % (2 ^ 34 * 1000000000)

/-- The comparator after it fired: VALUE advances by PERIOD, or EN clears. -/
def rearm (c : Comparator) : Comparator :=
  if c.period = 0 then { c with ctrl := setFld c.ctrl 0 1 0 }
  else if bit c.ctrl 1 then { c with value := c.value + c.period }
  else { c with value := timeValue (valueTime c.value + c.period.toNat) }

/-- COMPARATOR_FIRE: on BASE 0 the time counter runs on until it reaches VALUE; on BASE 1 the tick number of the last edge
has reached it. In safe state FIRED alone is set. -/
def comparatorFire (k : Nat) (s : State) : State :=
  let c := comparator s k
  if !bit c.ctrl 0 || (bit c.ctrl 1 && decide (s.time.tick < c.value.toNat)) then s
  else
    let s1 := if bit c.ctrl 1 then s else waitPtp (s.clk.ptp + (valueTime c.value - counterTime s)) s
    let s2 := modComparator k (fun x => { x with ctrl := x.ctrl ||| 0x10 }) s1
    if s.startup = .safe then s2
    else
      let s3 := modComparator k rearm s2
      let s4 := if bit c.ctrl 2 then sendMsix (mgrFn s3) (fld c.ctrl 32 11) s3 else s3
      if bit c.ctrl 3 && inKeeping s4 then leaveKeeping s4 else s4

def execComparatorFire (k : Nat) (s : State) : Host.Outcome State Fault Refusal :=
  .next (if powered s && decide (k < 8) then comparatorFire k s else s)

end Sys2Proof.Machine
end

