-- ==== Sys2Proof/Machine/Quoin.lean ====
section
/-! DEFINITION. The quoin (03_tick.md R65, R80 to R85; 21_startup_forme.md R493): sealing, checking and applying the shadowed
fields of the tick group and of the commit-now group. -/
namespace Sys2Proof.Machine

/-! ### Results -/

def qnApplied : Nat := 0
def qnRange : Nat := 1
def qnPairing : Nat := 2
def qnLate : Nat := 3
def qnBusy : Nat := 4
def qnPlate : Nat := 5
def qnCancelled : Nat := 6

/-- BAR0 offsets of the SH registers (R501). -/
def offTimeCtrl : Nat := 0x20008
def offPeriod : Nat := 0x20010
def offEpochS : Nat := 0x20018
def offEpochNs : Nat := 0x20020
def offSweep : Nat := 0x20060
def offSchedClass : Nat := 0x20068
def offSchedSel : Nat := 0x20070
def offRouteCtrl : Nat := 0x50000
def offFaultResp : Nat := 0x70018
def offWdog : Nat := 0x70020
def offPermit : Nat := 0x70040

/-- A commit outcome in QUOIN_STATUS (R80): FIELD is a BAR0 offset divided by 8. -/
def quoinResult (result off : Nat) (s : State) : State :=
  modQuoin (fun q => { q with result := result, field := off / 8, seq := (q.seq + 1) % 256 }) s

/-! ### Checks (R53, R65, R83) -/

/-- The first field of the commit-now group out of range. -/
def nowRange (n : NowRegs) : Option Nat :=
  if fld n.timeCtrl 0 2 = 3 ∨ 48 < fld n.timeCtrl 2 6 then some offTimeCtrl
  else if 4 < fld n.faultResp 16 3 then some offFaultResp
  else if fld n.wdogCtrl 0 14 = 0 ∨ 10000 < fld n.wdogCtrl 0 14 then some offWdog
  else if fld n.permitCtrl 0 10 < 300 ∨ 560 < fld n.permitCtrl 0 10 ∨ fld n.permitCtrl 10 10 < 10 ∨
      1000 < fld n.permitCtrl 10 10 ∨ fld n.permitCtrl 20 16 = 0 ∨ fld n.permitCtrl 36 10 < 300 ∨
      560 < fld n.permitCtrl 36 10 then some offPermit
  else none

/-- The first field of the tick group out of range. -/
def tickRange (t : TickRegs) : Option Nat :=
  if fld t.period 0 20 < 250 ∨ 1000000 < fld t.period 0 20 then some offPeriod
  else if 1000000000 ≤ fld t.epochNs 0 30 then some offEpochNs
  else if fld t.routeCtrl 8 10 = 0 ∨ 1000 < fld t.routeCtrl 8 10 ∨
      ((List.range 9).any fun v => fld t.routeCtrl (36 + 2 * v) 2 == 3) = true then some offRouteCtrl
  else none

/-- OFFSETs in non-decreasing order. -/
def risingOffsets : List Entry → Bool
  | a :: b :: l => decide (a.offset ≤ b.offset) && risingOffsets (b :: l)
  | _ => true

/-- A program entry that R65 refuses. -/
def planBad (s : State) (periodNs : Nat) (e : Entry) : Bool :=
  decide (periodNs ≤ e.offset * 64) || dDeadline e.words != 0 || (ownFinding false true e.words).isSome ||
    (match getQueue s e.inst e.queue with | some q => !q.desc.planned | none => true)

/-- A program that R65 refuses. -/
def programBad (s : State) (periodNs : Nat) (l : List Entry) : Bool :=
  !risingOffsets l || l.any (planBad s periodNs) ||
    (match l.getLast? with | some e => dOp e.words == opTallyWait && bit (wd e.words 0) 16 | none => false)

/-- Ports take their peers from a route plate, their gate banks and PTP roles from a schedule plate. -/
def withPeer (a b : PortPlate) : PortPlate := { a with peerDev := b.peerDev, peerPort := b.peerPort }
def withGates (a b : PortPlate) : PortPlate := { a with gates := b.gates, ptpRole := b.ptpRole }

/-- Each port changed by the same port of a plate. -/
def joinPorts (f : PortPlate → PortPlate → PortPlate) : List PortPlate → List PortPlate → List PortPlate
  | a :: as, b :: bs => f a b :: joinPorts f as bs
  | as, _ => as

/-- The plates in force once some plates of another set replace them (R493). -/
def replacePlates (old : Plates) (st : Staged) : Plates :=
  let n := st.plates
  let digest (k : Nat) (p : Plates) : Plates := { p with digests := modAt p.digests (k - 1) fun _ => n.digests.getD (k - 1) [] }
  let p1 := if st.ids.contains 7 then
      digest 7 { old with route := n.route, routeCtrl := n.routeCtrl, ports := joinPorts withPeer old.ports n.ports }
    else old
  let p2 := if st.ids.contains 8 then
      digest 8 { p1 with
        programs := n.programs, schedSel := n.schedSel, schedClass := n.schedClass, mgmtRole := n.mgmtRole
        ports := joinPorts withGates p1.ports n.ports }
    else p1
  if st.ids.contains 9 then
    digest 9 { p2 with
      permitCtrl := n.permitCtrl, sweepCtrl := n.sweepCtrl, scrubCtrl := n.scrubCtrl, galleyCtrl := n.galleyCtrl
      faultResp := n.faultResp }
  else p2

/-- The registers that come into force with the staged plates. -/
def stagedTick (st : Option Staged) (t : TickRegs) : TickRegs :=
  match st with
  | none => t
  | some x =>
    let t1 := if x.ids.contains 7 then { t with routeCtrl := setFld x.plates.routeCtrl 0 1 (if x.bank then 1 else 0) } else t
    if x.ids.contains 8 then { t1 with schedSel := x.plates.schedSel, schedClass := x.plates.schedClass } else t1
def stagedNow (st : Option Staged) (n : NowRegs) : NowRegs :=
  match st with
  | none => n
  | some x => if x.ids.contains 9 then
      { n with permitCtrl := x.plates.permitCtrl, sweepCtrl := x.plates.sweepCtrl, faultResp := x.plates.faultResp }
    else n

/-- A staged plate of an ID. -/
def stages (s : State) (id : Nat) : Bool := match s.boot.staged with | some x => x.ids.contains id | none => false

/-- The plates in force after a tick-group quoin. -/
def nextPlates (s : State) : Plates :=
  match s.boot.staged with
  | some x => replacePlates s.plates x
  | none => s.plates

/-- A gate window of a bank starts at or after a period. -/
def gateBad (p : Plates) (bank periodNs : Nat) : Bool :=
  p.ports.any fun x => (x.gates.getD bank []).any fun w => decide (periodNs ≤ w.start * 64)

/-- The finding of a tick-group quoin (R83), as RESULT and offset: RANGE, PAIRING, LATE and PLATE in this order (log entry
48). DESIGN CHOICE: an EPOCH that names a DRAINING bank is accepted, as R321's table has it, though its last sentence refuses
it (log entry 113); gate windows are judged at every quoin, not only at one that changes the period or the bank (log entry
114). -/
def tickFinding (s : State) (at_ : Bool) (t : TickRegs) (n : NowRegs) : Option (Nat × Nat) :=
  let old := s.quoin.tick
  let p := nextPlates s
  let ns := fld t.period 0 20 * 1000
  let newPeriod := fld t.period 0 20 != fld old.period 0 20
  let newProgram := fld t.schedSel 0 2 != fld old.schedSel 0 2
  let field := if newPeriod && !newProgram && !stages s 8 then offPeriod else offSchedSel
  let checked := newPeriod || newProgram || stages s 8
  let bank := (bankOf s (bit t.routeCtrl 0)).2
  match nowRange n, tickRange t with
  | some f, some g => some (qnRange, min f g)
  | some f, none => some (qnRange, f)
  | none, some g => some (qnRange, g)
  | none, none =>
    if checked && (match p.programs[fld t.schedSel 0 2]? with | some l => programBad s ns l | none => newProgram || stages s 8) then
      some (qnPairing, field)
    else if gateBad p (fld t.schedSel 2 1) ns then some (qnPairing, if newPeriod then offPeriod else offSchedSel)
    else if bank = .idle ∨ bank = .loading then some (qnPairing, offRouteCtrl)
    else if ticking s && !at_ && newPeriod then some (qnLate, offPeriod)
    else if ticking s && !at_ && fld t.epochS 0 48 != fld old.epochS 0 48 then some (qnLate, offEpochS)
    else if ticking s && !at_ && fld t.epochNs 0 30 != fld old.epochNs 0 30 then some (qnLate, offEpochNs)
    else if ticking s && !at_ && stages s 8 then some (qnLate, 0)
    else if s.boot.stageBad then some (qnPlate, 0)
    else none

/-! ### Applying -/

/-- The route epoch applied (R321): its bank comes into force, the other drains. -/
def applyEpoch (t : TickRegs) (s : State) : State :=
  let e := bit t.routeCtrl 0
  if epoch s = e then s
  else
    modFabric (fun f => { f with
      bank0 := if e then (if f.bank0 = .inForce then .draining else f.bank0) else .inForce
      bank1 := if e then .inForce else (if f.bank1 = .inForce then .draining else f.bank1)
      drainAt := s.clk.mono + fld t.routeCtrl 8 10 * 1000 }) s

/-- Every docket that the device holds is governed by a value of PERMIT_CTRL, or by the one in force. -/
def rulePress (f : Option Word → Option Word) (s : State) : State :=
  { s with insts := tmap s.insts fun _ x => { x with queues := tmap x.queues fun _ q =>
      { q with
        fetched := q.fetched.map fun d => { d with plate := f d.plate }
        runs := q.runs.map fun r => { r with plate := f r.plate } } } }

/-- The commit-now registers come into force: PERMIT_CTRL by a commit governs every docket (R469), while that of a new press
plate governs only dockets placed after the edge (R15, log entry 109). -/
def applyNow (n : NowRegs) (plate : Bool) (s : State) : State :=
  let changed := fld n.timeCtrl 0 2 != timeSource s
  let old := s.quoin.now.permitCtrl
  let s0 := if plate then rulePress (fun p => some (p.getD old)) s
    else if n.permitCtrl = old then s else rulePress (fun _ => none) s
  let s1 := modQuoin (fun q => { q with now := n }) s0
  if changed then sourceChanged s1 else s1

/-- The tick-group registers come into force. -/
def applyTick (t : TickRegs) (s : State) : State :=
  let s1 := modQuoin (fun q => { q with tick := t }) (applyEpoch t s)
  if s.time.gen = .armed then letRun s1 else s1

/-- Staged plates come into force with their quoin (R493): their registers replace the shadows too. -/
def applyPlates (s : State) : State :=
  match s.boot.staged with
  | none => s
  | some x =>
    let s1 : State := { s with plates := nextPlates s, boot := { s.boot with staged := none } }
    let s2 := modQuoin (fun q => { q with
      tickShadow := stagedTick (some x) q.tickShadow, nowShadow := stagedNow (some x) q.nowShadow }) s1
    if x.ids.contains 9 then
      { s2 with misc := { s2.misc with scrubCtrl := x.plates.scrubCtrl }
                galley := { s2.galley with ctrl := x.plates.galleyCtrl } }
    else s2

/-- A refused quoin drops the replacement it carried, which must be loaded again (R493). -/
def refuseQuoin (result off : Nat) (s : State) : State :=
  quoinResult result off (modBoot (fun b => { b with staged := none }) s)

/-- Judge and apply, or refuse, a sealed tick-group commit (R83). -/
def judgeCommit (c : SealedCommit) (s : State) : State :=
  let s0 := modQuoin (fun q => { q with commit := none, appliedTick := s.time.tick % 2 ^ 32 }) s
  let t := stagedTick s.boot.staged c.tick
  let n := stagedNow s.boot.staged c.now
  match tickFinding s c.atTick.isSome t n with
  | some (r, f) => refuseQuoin r f s0
  | none => quoinResult qnApplied 0 (applyNow n (stages s 9) (applyTick t (applyPlates s0)))

/-- Step 2 of R13 for the pending tick-group commit (R81, R82). -/
def edgeCommit (s : State) : State :=
  match s.quoin.commit with
  | none => s
  | some c =>
    if c.notAt = some s.time.tick then s
    else
      match c.atTick with
      | none => judgeCommit c s
      | some a =>
        let d := (s.time.tick % 2 ^ 32 + 2 ^ 32 - a) % 2 ^ 32
        if d = 0 then judgeCommit c s
        else if d < 2 ^ 31 then
          refuseQuoin qnLate 0 (modQuoin (fun q => { q with commit := none, appliedTick := s.time.tick % 2 ^ 32 }) s)
        else s

/-! ### Commands (R80 to R84) -/

/-- COMMIT (R81): both groups are sealed. -/
def commitTick (at_ : Option Nat) (s : State) : State :=
  if s.quoin.commit.isSome then quoinResult qnBusy 0 s
  else
    let sealOf (q : Quoin) : SealedCommit :=
      { tick := q.tickShadow, now := q.nowShadow, atTick := at_, notAt := tooLate s, since := [] }
    modQuoin (fun q => { q with commit := some (sealOf q) }) s

def execQuoinCommitTick (atValid : Bool) (atTick : BitVec 32) (s : State) : Host.Outcome State Fault Refusal :=
  .next (if barAnswers s then commitTick (if atValid then some atTick.toNat else none) s else s)

/-- NOW: the commit-now group is sealed. -/
def commitNow (s : State) : State := modQuoin (fun q => { q with commitNow := q.commitNow ++ [q.nowShadow] }) s

def execQuoinCommitNow (s : State) : Host.Outcome State Fault Refusal := .next (if barAnswers s then commitNow s else s)

/-- The value that a shadow takes back when its commit is withdrawn: the sealed one, unless it was written since (R82). -/
def unsealed (since : List Nat) (off : Nat) (sealed_ shadow : Word) : Word := if since.contains off then shadow else sealed_

/-- CANCEL. -/
def cancelCommit (s : State) : State :=
  match s.quoin.commit with
  | none => s
  | some c =>
    let back := unsealed c.since
    quoinResult qnCancelled 0 (modQuoin (fun q => { q with
      commit := none
      tickShadow :=
        { period := back offPeriod c.tick.period q.tickShadow.period
          epochS := back offEpochS c.tick.epochS q.tickShadow.epochS
          epochNs := back offEpochNs c.tick.epochNs q.tickShadow.epochNs
          schedSel := back offSchedSel c.tick.schedSel q.tickShadow.schedSel
          schedClass := back offSchedClass c.tick.schedClass q.tickShadow.schedClass
          routeCtrl := back offRouteCtrl c.tick.routeCtrl q.tickShadow.routeCtrl }
      nowShadow :=
        { timeCtrl := back offTimeCtrl c.now.timeCtrl q.nowShadow.timeCtrl
          sweepCtrl := back offSweep c.now.sweepCtrl q.nowShadow.sweepCtrl
          permitCtrl := back offPermit c.now.permitCtrl q.nowShadow.permitCtrl
          wdogCtrl := back offWdog c.now.wdogCtrl q.nowShadow.wdogCtrl
          faultResp := back offFaultResp c.now.faultResp q.nowShadow.faultResp } }) s)

def execQuoinCancel (s : State) : Host.Outcome State Fault Refusal := .next (if barAnswers s then cancelCommit s else s)

/-- COMMIT_NOW_APPLY (R60, R84): the oldest sealed commit-now group is judged; while the generator is not RUNNING, a
tick-group commit without AT_VALID too. -/
def commitNowApply (s : State) : State :=
  match s.quoin.commitNow with
  | n :: rest =>
    let s1 := modQuoin (fun q => { q with commitNow := rest }) s
    match nowRange n with
    | some f => quoinResult qnRange f s1
    | none => quoinResult qnApplied 0 (applyNow n false s1)
  | [] =>
    match s.quoin.commit with
    | some c => if !ticking s && c.atTick.isNone then judgeCommit c s else s
    | none => s

def execCommitNowApply (s : State) : Host.Outcome State Fault Refusal := .next (if barAnswers s then commitNowApply s else s)

end Sys2Proof.Machine
end

