-- ==== Sys2Proof/Machine/Plates.lean ====
section
/-! DEFINITION. The plates of a forme image (21_startup_forme.md R486): their fields, read through `Config.plateField` (log
entry 50), and the checks that the chapters of R486 make of them. -/
namespace Sys2Proof.Machine

/-! ### Writable bits of the registers that plates and writes set (R8, R501) -/

def maskTickCtrl : Word := 0xFF07
def maskTimeCtrl : Word := 0xFF
def maskPeriod : Word := 0xFFFFF
def maskEpochS : Word := 0xFFFFFFFFFFFF
def maskEpochNs : Word := 0x3FFFFFFF
def maskSweep : Word := 0xFF000F
def maskSchedClass : Word := 0xFFFFFFFF
def maskSchedSel : Word := 7
def maskShare : Word := 0x00FFFFFFFFFFFF03
def maskRouteCtrl : Word := 0x003FFFFFFF03FF01
def maskFaultResp : Word := 0x000007FF0FF7FFFF
def maskWdog : Word := 0x3FFF
def maskPermit : Word := 0x3FFFFFFFFFFF
def maskScrub : Word := 0xFFFFFFFF
def maskGalley : Word := 0xFF

/-! ### Fields -/

/-- A field as a Boolean, a word, and a list of n fields. -/
def pfBit (id : Nat) (bs : List Byte) (path : List Nat) : Bool := Config.plateField id bs path % 2 == 1
def pfWord (id : Nat) (bs : List Byte) (path : List Nat) (mask : Word) : Word := BitVec.ofNat 64 (Config.plateField id bs path) &&& mask
def pfList (id n : Nat) (bs : List Byte) (path : List Nat) : List Nat :=
  (List.range n).map fun k => Config.plateField id bs (path ++ [k])

/-- Identity plate: DEVICE, MGR_KEY_HASH, INJECT_OK. -/
def readIdentity (bs : List Byte) (p : Plates) : Plates :=
  { p with device := Config.plateField 1 bs [0]
           mgrKeyHash := (pfList 1 32 bs [1]).map (BitVec.ofNat 8), injectOk := pfBit 1 bs [2] }

/-- Port plate of port k: lanes, mode and rate of its bay, protected port of the bay, buffers, thresholds, weights, raw
window. The headroom of R366 is checked where it is read. -/
def readPort (bs : List Byte) (k : Nat) (p : PortPlate) : PortPlate :=
  let f (path : List Nat) : Nat := Config.plateField 2 bs path
  { p with
    lanes := (List.range (f [3, k, 0])).map (· + k)
    frame := pfBit 2 bs [2, k / 8, 0]
    rate := if pfBit 2 bs [2, k / 8, 1] then 100 else 200
    protect := f [2, k / 8, 2] == k + 1
    buf := pfList 2 11 bs [3, k, 1]
    xon := pfList 2 8 bs [3, k, 2]
    xoff := pfList 2 8 bs [3, k, 3]
    weights := pfList 2 8 bs [3, k, 4]
    rawInst := if pfBit 2 bs [3, k, 5] then some (f [3, k, 6]) else none
    rawWindow := f [3, k, 7]
    rawSlots := f [3, k, 8] }

/-- A port of which no plate says anything yet: absent, no recorded peer. -/
def PortPlate.empty : PortPlate where
  lanes := []
  rate := 200
  frame := false
  protect := false
  buf := []
  xon := []
  xoff := []
  weights := []
  rawInst := none
  rawWindow := 0
  rawSlots := 0
  peerDev := 65536
  peerPort := 0
  ptpRole := 0
  gates := []

/-- Change each of the 48 ports of a plate. -/
def eachPort (f : Nat → PortPlate → PortPlate) (p : Plates) : Plates :=
  { p with ports := (List.range 48).map fun k => f k (p.ports.getD k PortPlate.empty) }

def readPorts (bs : List Byte) (p : Plates) : Plates :=
  { eachPort (readPort bs) p with seg := Config.plateField 2 bs [0], ucwLimit := Config.plateField 2 bs [1] }

/-- Hatch plate (R387), with PF_COUNT and TotalVFs (R413, R486). -/
def readHatches (bs : List Byte) (p : Plates) : Plates :=
  let f (path : List Nat) : Nat := Config.plateField 3 bs path
  { p with hatches := (List.range 4).map fun h =>
      { role := f [h, 0], maxGen := f [h, 1], maxWidth := f [h, 2], l0pMin := f [h, 3], pfCount := f [h, 4]
        totalVfs := pfList 3 4 bs [h, 5] } }

/-- Tier plate (R144). -/
def readTiers (bs : List Byte) (p : Plates) : Plates :=
  let f (k : Nat) : Nat := Config.plateField 4 bs [k]
  { p with shelfSys := f 0, shelfTwin := f 1, storeSys := f 2, storeTwin := f 3, cellarPair := f 4, storeMinMts := f 5 }

def readQueue (bs : List Byte) (p : Plates) : Plates := { p with queueCap := Config.plateField 5 bs [0] }

/-- Instance plate (R413): the manager's function, and the slots that it lists. -/
def readInstances (bs : List Byte) (p : Plates) : Plates :=
  let f (path : List Nat) : Nat := Config.plateField 6 bs path
  { p with
    mgrHatch := f [0], mgrPf := f [1]
    slots := (List.range (min 4096 (f [2]))).map fun k =>
      { inst := f [3, k, 0], pfPage := pfBit 6 bs [3, k, 1], hatch := f [3, k, 2], pf := f [3, k, 3], vf := f [3, k, 4]
        page := f [3, k, 5], msixBase := f [3, k, 6], msixCount := f [3, k, 7], hatchMask := f [3, k, 8]
        tallyBase := f [3, k, 9], tallySpan := f [3, k, 10] } }

/-- Route plate (R486): the entries of one bank (R316), the peers of ports (R308), ROUTE_CTRL. -/
def readRoute (bs : List Byte) (p : Plates) : Plates :=
  let entry (k : Nat) : RouteEntry := { w0 := pfWord 7 bs [0, k, 0] (-1), w1 := pfWord 7 bs [0, k, 1] (-1) }
  let peer (k : Nat) (x : PortPlate) : PortPlate :=
    if pfBit 7 bs [1, k, 0] then
      { x with peerDev := Config.plateField 7 bs [1, k, 1] % 65536, peerPort := Config.plateField 7 bs [1, k, 2] % 64 }
    else { x with peerDev := 65536, peerPort := 0 }
  { eachPort peer p with
    route := ((List.range 65536).map fun k => (k, entry k)).filter fun x => x.2.w0 != 0 || x.2.w1 != 0
    routeCtrl := pfWord 7 bs [2] maskRouteCtrl }

/-- A program entry from its 10 words (R64). -/
def entryOf (w : List Word) : Entry :=
  { offset := fld (wd w 0) 0 32, inst := fld (wd w 0) 32 12, queue := fld (wd w 1) 0 20, words := w.drop 2 }

/-- The 10 words of entry k of program n. -/
def entryWords (bs : List Byte) (n k : Nat) : List Word := (List.range 10).map fun j => pfWord 8 bs [2, n, k, j] (-1)

/-- Entries of a program, and programs that the plate holds. -/
def entryCount (bs : List Byte) (n : Nat) : Nat := Config.plateField 8 bs [1, n]
def programCount (bs : List Byte) : Nat := Config.plateField 8 bs [0]

/-- A gate window from its word (R75). -/
def windowOf (w : Word) : GateWindow := { start := fld w 0 32, length := fld w 32 24, mask := fld w 56 8 }

/-- Schedule plate (R486). -/
def readSchedule (bs : List Byte) (p : Plates) : Plates :=
  let gates (k b : Nat) : List GateWindow :=
    (List.range (Config.plateField 8 bs [3, k, b])).map fun j => windowOf (pfWord 8 bs [4, k, b, j] (-1))
  let port (k : Nat) (x : PortPlate) : PortPlate :=
    { x with gates := [gates k 0, gates k 1], ptpRole := Config.plateField 8 bs [5, k] }
  { eachPort port p with
    programs := (List.range (min 4 (programCount bs))).map fun n =>
      (List.range (entryCount bs n)).map fun k => entryOf (entryWords bs n k)
    schedSel := pfWord 8 bs [6] maskSchedSel
    schedClass := pfWord 8 bs [7] maskSchedClass
    period := pfWord 8 bs [8] maskPeriod
    epochS := pfWord 8 bs [9] maskEpochS
    epochNs := pfWord 8 bs [10] maskEpochNs
    mgmtRole := Config.plateField 8 bs [5, 48] }

/-- Press plate (R486). -/
def readPress (bs : List Byte) (p : Plates) : Plates :=
  { p with
    permitCtrl := pfWord 9 bs [0] maskPermit
    sweepCtrl := pfWord 9 bs [1] maskSweep
    scrubCtrl := pfWord 9 bs [2] maskScrub
    galleyCtrl := pfWord 9 bs [3] maskGalley
    faultResp := pfWord 9 bs [4] maskFaultResp }

/-- A plate of an ID joins a set of plates. -/
def readPlate (id : Nat) (bs : List Byte) (p : Plates) : Plates :=
  match id with
  | 1 => readIdentity bs p
  | 2 => readPorts bs p
  | 3 => readHatches bs p
  | 4 => readTiers bs p
  | 5 => readQueue bs p
  | 6 => readInstances bs p
  | 7 => readRoute bs p
  | 8 => readSchedule bs p
  | 9 => readPress bs p
  | _ => p

/-! ### Checks: the REASON of R490 that refuses a plate, or none -/

/-- The first REASON of a list of findings. -/
def firstReason (l : List (Bool × Nat)) : Option Nat := (l.find? (·.1)).map (·.2)

def checkIdentity (p : Plates) : Option Nat := firstReason [(decide (65536 ≤ p.device), 7)]

def checkQueue (p : Plates) : Option Nat := firstReason [(decide (3 < p.queueCap), 7)]

/-- R387 and R413's PF_COUNT and TotalVFs. -/
def hatchBad (h : Nat) (x : HatchPlate) : Bool :=
  decide (2 < x.role) || (decide (h = 0) && decide (x.role ≠ 0)) || decide (x.maxGen < 3) || decide (6 < x.maxGen) ||
    ! [1, 2, 4, 8, 16].contains x.maxWidth || ! [1, 2, 4, 8].contains x.l0pMin ||
    (decide (x.role = 0) && (decide (x.pfCount < 1) || decide (4 < x.pfCount) || x.totalVfs.any fun n => decide (1024 < n)))

def checkHatch (p : Plates) : Option Nat :=
  firstReason [((List.range p.hatches.length).any fun h => match p.hatches[h]? with | some x => hatchBad h x | none => true, 7)]

/-- Context region of the queue plate in MiB (R114). -/
def contextMib (cap : Nat) : Nat := match cap with | 0 => 16 | 1 => 64 | 2 => 128 | _ => 256

/-- Expanders named by CELLAR_PAIR. -/
def pairOf (code : Nat) : Option (Nat × Nat) :=
  match code with
  | 1 => some (1, 2)
  | 2 => some (1, 3)
  | 3 => some (2, 3)
  | _ => none

/-- R144 and R145: legal values, then what start-up found, then the hatch plate. -/
def checkTier (p : Plates) (s : State) : Option Nat :=
  let pair := pairOf p.cellarPair
  let roleOf (h : Nat) : Nat := match p.hatches[h]? with | some x => x.role | none => 2
  firstReason
    [(decide (p.shelfSys % 2 = 1) || decide (p.shelfSys < contextMib p.queueCap + 256), 7),
     (decide (p.shelfTwin % 2 = 1) || decide (576 * 1024 < p.shelfSys + p.shelfTwin * 1024), 7),
     (decide (p.storeSys % 2 = 1) || decide (p.storeSys < 256) || decide (p.storeTwin % 2 = 1), 7),
     (decide (3 < p.cellarPair) || ! [6400, 8000, 8800].contains p.storeMinMts, 7),
     (decide (s.shelf.capacity < p.shelfSys * 1048576 + p.shelfTwin * 1073741824), 8),
     (decide (s.store.capacity < p.storeSys * 1048576 + p.storeTwin * 1073741824), 8),
     (match pair with | some (a, b) => decide (roleOf a ≠ 1) || decide (roleOf b ≠ 1) | none => false, 9),
     (match pair with
      | some (a, b) => decide ((getHatch s a).expander ≠ (getHatch s b).expander) || decide ((getHatch s a).expander = 0)
      | none => false, 8)]

/-- Cells of the largest packet of SEG (R299). -/
def largestCells (seg : Nat) : Nat := match seg with | 0 => 19 | 1 => 38 | _ => 74

/-- Ports that exist. -/
def portsOf (p : Plates) : List (Nat × PortPlate) :=
  ((List.range p.ports.length).map fun k => (k, p.ports.getD k PortPlate.empty)).filter fun x => !x.2.lanes.isEmpty

/-- A cell-mode port that R312 or R315 refuses. -/
def cellPortBad (seg : Nat) (x : PortPlate) : Bool :=
  ((List.range 8).any fun v => decide (x.buf.getD v 0 < largestCells seg + 1)) ||
    ([8, 9, 10].any fun c => decide (x.buf.getD c 0 < 7)) ||
    ((List.range 8).any fun v => decide (x.weights.getD v 0 < 1) || decide (15 < x.weights.getD v 0))

/-- Largest frame that a port takes (ETH_CTRL.MAX_FRAME). -/
def plateFrame (s : State) (k : Nat) : Nat :=
  let m := fld (getPort s k).ethCtrl 16 14
  if m < 64 ∨ 9216 < m then 9216 else m

/-- A frame-mode port that R366 refuses; `headroom` is the plate's by priority. -/
def framePortBad (s : State) (k : Nat) (headroom : List Nat) (x : PortPlate) : Bool :=
  (List.range 8).any fun v =>
    decide (x.buf.getD v 0 * 64 < 2 * plateFrame s k) || decide (x.xoff.getD v 0 ≤ x.xon.getD v 0) ||
      (bit (getPort s k).ethCtrl (8 + v) && decide (x.buf.getD v 0 < x.xoff.getD v 0 + headroom.getD v 0))

/-- A port has 1, 2, 4 or 8 lanes of its bay. -/
def lanesBad (k : Nat) (x : PortPlate) : Bool := ! [1, 2, 4, 8].contains x.lanes.length || decide (8 < k % 8 + x.lanes.length)

/-- Cells of every buffer of a port (R312). -/
def portCells (x : PortPlate) : Nat :=
  sumOf (fun c => x.buf.getD c 0 * (if c = 9 then 1 else 7)) (List.range 11)

def checkPort (bs : List Byte) (p : Plates) (s : State) : Option Nat :=
  let l := portsOf p
  firstReason
    [(decide (2 < p.seg), 7),
     (l.any fun x => lanesBad x.1 x.2, 7),
     (!distinct (l.flatMap fun x => x.2.lanes), 7),
     (l.any fun x => !x.2.frame && cellPortBad p.seg x.2, 7),
     (l.any fun x => x.2.frame && framePortBad s x.1 (pfList 2 8 bs [3, x.1, 9]) x.2, 7),
     (decide (2097152 < sumOf (fun x => if x.2.frame then 0 else portCells x.2) l), 7)]

/-- A slot of the instance plate outside its own legal values (R413). -/
def slotBad (x : InstSlot) : Bool :=
  decide (4096 ≤ x.inst) || (x.pfPage && decide (255 < x.page)) || decide (2048 < x.msixBase + x.msixCount) ||
    decide (16 ≤ x.hatchMask) || decide (262144 < x.tallyBase + x.tallySpan)

/-- A slot that the hatch plate does not allow. -/
def slotUnfit (p : Plates) (x : InstSlot) : Bool :=
  match p.hatches[x.hatch]? with
  | none => true
  | some h =>
    decide (h.role ≠ 0) || decide (h.pfCount ≤ x.pf) ||
      (!x.pfPage && (decide (x.vf < 1) || decide (h.totalVfs.getD x.pf 0 < x.vf))) ||
      (List.range 4).any fun k => decide (x.hatchMask / 2 ^ k % 2 = 1) && (match p.hatches[k]? with | some y => decide (y.role ≠ 0) | none => true)

/-- The tallies of two slots overlap. -/
def spansMeet (x y : InstSlot) : Bool :=
  decide (x.tallyBase < y.tallyBase + y.tallySpan) && decide (y.tallyBase < x.tallyBase + x.tallySpan) &&
    decide (0 < x.tallySpan) && decide (0 < y.tallySpan)

/-- Two slots name one instance, one VF or one PF page, or share a tally. -/
def slotsClash (x y : InstSlot) : Bool :=
  x.inst == y.inst || spansMeet x y ||
    (x.hatch == y.hatch && x.pf == y.pf && x.pfPage == y.pfPage && (if x.pfPage then x.page == y.page else x.vf == y.vf))

/-- Some pair of a list clashes. -/
def anyClash : List InstSlot → Bool
  | [] => false
  | x :: l => l.any (slotsClash x) || anyClash l

def checkInstance (p : Plates) : Option Nat :=
  let mgr := match p.hatches[p.mgrHatch]? with | some h => decide (h.role ≠ 0) || decide (h.pfCount ≤ p.mgrPf) | none => true
  firstReason
    [(p.slots.any slotBad, 7), (anyClash p.slots, 7), (mgr, 9), (p.slots.any (slotUnfit p), 9),
     (p.ports.any fun x => match x.rawInst with | some i => !p.slots.any (fun y => y.inst == i) | none => false, 9)]

/-- A candidate on a frame-mode port outside the one form of R353. -/
def plateFrameBad (p : Plates) (e : RouteEntry) : Bool :=
  let frame (k : Nat) : Bool := match p.ports[k]? with | some x => x.frame | none => false
  let all := candidates e.w0 ++ candidates e.w1
  all.any frame && !(decide (all.length = 1) && bit e.w0 6 && decide (minHops e = 1))

def checkRoute (p : Plates) : Option Nat :=
  firstReason
    [((tget p.route p.device).isNone, 7),
     (p.route.any fun x => routeBad p.device x.1 x.2, 7),
     ((tickRange { TickRegs.reset with routeCtrl := p.routeCtrl }).isSome, 7),
     (p.route.any fun x => plateFrameBad p x.2, 9)]

/-- Reserved bits of a program entry. -/
def entryReserved (w : List Word) : Bool := fld (wd w 0) 44 20 != 0 || fld (wd w 1) 20 44 != 0

/-- The PTP roles of the 48 ports and of the management port (R54). -/
def ptpRoles (p : Plates) : List Nat := p.ports.map (·.ptpRole) ++ [p.mgmtRole]

def checkSchedule (bs : List Byte) (p : Plates) : Option Nat :=
  firstReason
    [(decide (4 < programCount bs) || decide (programCount bs ≤ fld p.schedSel 0 2), 7),
     ((List.range (min 4 (programCount bs))).any fun n =>
        (List.range (entryCount bs n)).any fun k => entryReserved (entryWords bs n k), 7),
     ((tickRange { TickRegs.reset with period := p.period, epochNs := p.epochNs }).isSome, 7),
     ((ptpRoles p).any (fun r => decide (3 < r)) || decide (1 < ((ptpRoles p).filter (· == 1)).length), 7)]

def checkPress (p : Plates) : Option Nat :=
  firstReason [((nowRange { NowRegs.reset with permitCtrl := p.permitCtrl, faultResp := p.faultResp }).isSome, 7)]

/-- The check of a plate of an ID against the plates with which it would be in force. -/
def checkPlate (id : Nat) (bs : List Byte) (p : Plates) (s : State) : Option Nat :=
  match id with
  | 1 => checkIdentity p
  | 2 => checkPort bs p s
  | 3 => checkHatch p
  | 4 => checkTier p s
  | 5 => checkQueue p
  | 6 => checkInstance p
  | 7 => checkRoute p
  | 8 => checkSchedule bs p
  | 9 => checkPress p
  | _ => none

end Sys2Proof.Machine
end

