-- ==== Sys2Proof/Machine/Boot.lean ====
section
/-! DEFINITION. The boot mailbox (21_startup_forme.md R483 to R493): images and their checks, the application of a forme
image, its refusal, and the staging of replacement plates. -/
namespace Sys2Proof.Machine

/-! ### Images (R484, R485) -/

/-- Results of BOOT_STATUS. -/
def btOk : Nat := 0
def btBusy : Nat := 1
def btRange : Nat := 2
def btState : Nat := 6
def btRefused : Nat := 7

/-- A field of n bytes at an offset of an image. -/
def imgField (img : List Byte) (off n : Nat) : Nat := leNat ((img.drop off).take n)

/-- The bytes of a field. -/
def imgBytes (img : List Byte) (off n : Nat) : List Byte := (img.drop off).take n

/-- A field holds zeros only. -/
def imgZero (img : List Byte) (off n : Nat) : Bool := (imgBytes img off n).all (· == 0)

/-- A directory entry. -/
structure DirEntry where
  id : Nat
  reserved : Nat
  offset : Nat
  length : Nat
  digest : List Byte
deriving DecidableEq, Repr

def plateCount (img : List Byte) : Nat := imgField img 12 2

/-- The directory. -/
def directory (img : List Byte) : List DirEntry :=
  (List.range (plateCount img)).map fun k =>
    let a := 528 + 48 * k
    { id := imgField img a 2, reserved := imgField img (a + 4) 4, offset := imgField img (a + 8) 4
      length := imgField img (a + 12) 4, digest := imgBytes img (a + 16) 32 }

/-- The bytes of a plate. -/
def plateBytes (img : List Byte) (e : DirEntry) : List Byte := imgBytes img e.offset e.length

/-- Step 1 of R487: the header, for an image of a KIND. -/
def headerReason (kind : Nat) (img : List Byte) : Option Nat :=
  firstReason
    [(decide (img.length < 912), 1),
     (imgField img 0 8 != 0x31454D524F46424C || imgField img 8 2 != 1 || imgField img 10 1 != kind, 1),
     (decide (plateCount img < 1) || decide (16 < plateCount img), 1),
     (imgField img 16 4 != img.length || img.length % 64 != 0, 1),
     (imgField img 20 2 != 24 || imgField img 22 2 % 2 != 1 || imgField img 24 2 != 2, 2),
     (imgField img 512 4 != 65537, 1),
     (imgField img 22 2 / 2 != 0 || !imgZero img 14 2 || !imgZero img 26 6 || !imgZero img 36 28 || !imgZero img 96 32 ||
        !imgZero img 516 12 || (decide (kind ≠ 3) && !imgZero img 64 32), 1)]

/-- The key hash of an image: SHA-256 of MODULUS and EXPONENT as stored. -/
def keyHash (img : List Byte) : List Byte := sha256 (imgBytes img 128 388)

/-- Step 2: the key hash against the fuses and the policy (R488), or the forme in force. -/
def keyReason (kind : Nat) (img : List Byte) (s : State) : Option Nat :=
  let signer := imgField img 11 1
  let hash := keyHash img
  match kind with
  | 1 => if signer ≠ 0 then some 12 else if hash = Config.vendorKeyHash then none else some 3
  | 2 =>
    if signer = 0 then
      if Config.customerOnly then some 12 else if hash = Config.vendorKeyHash then none else some 3
    else if signer = 1 ∧ Config.customerKeyHash.all (· == 0) = false then
      if hash = Config.customerKeyHash then none else some 3
    else some 12
  | _ =>
    if hash = s.boot.formeKey ∧ imgBytes img 64 32 = sha256 (s.boot.forme.getD []) then none else some 3

/-- Step 3: the signature over everything before it; integers are stored least significant byte first. -/
def signatureOk (img : List Byte) : Bool :=
  let n := img.length - 384
  rsaPssVerify (imgBytes img 128 384).reverse (imgBytes img n 384).reverse (img.take n)

/-- Offsets rise, and plates do not overlap. -/
def risingPlates : List DirEntry → Bool
  | a :: b :: l => decide (a.offset + a.length ≤ b.offset) && risingPlates (b :: l)
  | _ => true

/-- A directory entry out of place. -/
def entryOut (img : List Byte) (e : DirEntry) : Bool :=
  e.reserved != 0 || e.offset % 64 != 0 || e.length == 0 || decide (e.offset < 528 + 48 * plateCount img) ||
    decide (img.length - 384 < e.offset + e.length)

/-- Step 4: the plates that an image of a KIND holds (R486). -/
def idsOk (kind : Nat) (ids : List Nat) : Bool :=
  match kind with
  | 1 => ids == [16]
  | 2 => distinct ids && ids.length == 9 && ids.all fun i => decide (1 ≤ i) && decide (i ≤ 9)
  | _ => distinct ids && decide (ids.length ≤ 3) && ids.all fun i => decide (7 ≤ i) && decide (i ≤ 9)

/-- What the check of an image found: PLATE and REASON. -/
def imageFinding (kind : Nat) (img : List Byte) (s : State) : Option (Nat × Nat) :=
  let d := directory img
  match headerReason kind img, keyReason kind img s with
  | some r, _ => some (0, r)
  | none, some r => some (0, r)
  | none, none =>
    if !signatureOk img then some (0, 4)
    else
      match d.find? (entryOut img) with
      | some e => some (e.id % 16, 6)
      | none =>
        if !risingPlates d || !idsOk kind (d.map (·.id)) then some (0, 6)
        else (d.find? fun e => sha256 (plateBytes img e) != e.digest).map fun e => (e.id % 16, 5)

/-- The bytes of the plate of an ID. -/
def plateOf (img : List Byte) (id : Nat) : List Byte :=
  match (directory img).find? fun e => e.id == id with
  | some e => plateBytes img e
  | none => []

/-! ### Answers -/

/-- RESULT, PLATE and REASON. -/
def bootAnswer (result plate reason : Nat) (s : State) : State :=
  modBoot (fun b => { b with busy := false, result := result, plate := plate, reason := reason }) s

/-- A cellar or an upstream hatch 1 to 3 returns to electrical idle, with CRST_N low and HREFO silent (R509, R513); hatch 0 stays. -/
def idleHatch (h : Nat) (s : State) : State :=
  let x := getHatch s h
  let s1 := if x.crst then s else emit (.crst h true) s
  let s2 := if x.hrefo then emit (.hrefo h false) s1 else s1
  modHatch h (fun y => { y with
    link := .down, gen := 0, width := 0, trained := 0, expander := 0, crst := true, hrefo := false }) s2

/-- Every plate of a refused forme is withdrawn (R490): hatches 1 to 3 idle, the bays silent, the tiers untouched. -/
def withdrawForme (s : State) : State :=
  let s1 : State := { s with
    plates := Plates.empty
    fabric := { s.fabric with
      ports := s.fabric.ports.map (fun p => { silencePort p with st := .down })
      route0 := [], route1 := [], bank0 := .inForce, bank1 := .idle }
    boot := { s.boot with formePending := none, forme := none, formeKey := [] } }
  each [1, 2, 3] idleHatch s1

/-- A refused image or plate (R490): BARE, with REFUSED, and CONFIG KIND 0x01. -/
def refuseForme (plate reason : Nat) (s : State) : State :=
  let s1 := bootAnswer btRefused plate reason { withdrawForme s with startup := .bare }
  latch (event 13 1 3 plate reason) s1

/-! ### Applying a forme image (R489, R491) -/

/-- The shelf and the store room stay in self-refresh from safe state until a tier plate is applied (R481). -/
def keptTiers (s : State) : Bool := bit s.boot.oldSafe 1 && !s.boot.tiersTrained

/-- Registers that plates carry, written to the live value and the shadow. -/
def plateRegisters (p : Plates) (s : State) : State :=
  let tick (t : TickRegs) : TickRegs := { t with
    period := p.period, epochS := p.epochS, epochNs := p.epochNs, schedSel := p.schedSel, schedClass := p.schedClass
    routeCtrl := setFld p.routeCtrl 0 1 0 }
  let now (n : NowRegs) : NowRegs := { n with
    permitCtrl := p.permitCtrl, sweepCtrl := p.sweepCtrl, faultResp := p.faultResp }
  let s1 := modQuoin (fun q => { q with
    tick := tick q.tick, tickShadow := tick q.tickShadow, now := now q.now, nowShadow := now q.nowShadow }) s
  modGalley (fun g => { g with ctrl := p.galleyCtrl }) { s1 with misc := { s1.misc with scrubCtrl := p.scrubCtrl } }

/-- Entry to RUNNING (R491): SAFE_N high, PERIOD_MS in the watchdog, instances ABSENT. -/
def enterRunning (s : State) : State :=
  let s1 : State := { s with
    startup := .running
    faults := { s.faults with safeN := true, safeStatus := setFld s.faults.safeStatus 0 2 0 }
    power := { s.power with st := .active, lastBlock := s.clk.mono } }
  emit (.safeN true) (bootAnswer btOk 0 0 (modBoot (fun b => { b with formePending := none }) s1))

/-- Steps 5 to 9 of R489 applied: every plate is in force, the bays train, bank 0 is IN_FORCE. -/
def applyRest (p : Plates) (s : State) : State :=
  let port (k : Nat) (x : Port) : Port :=
    { x with st := if (p.ports.getD k PortPlate.empty).lanes.isEmpty then .unused else .training, wasDown := false }
  let s1 : State := { s with
    plates := p
    fabric := { s.fabric with
      ports := (List.range s.fabric.ports.length).map fun k => port k (s.fabric.ports.getD k Port.reset)
      route0 := p.route, route1 := [], bank0 := .inForce, bank1 := .idle } }
  enterRunning (plateRegisters p s1)

/-- A cellar hatch still trains. -/
def cellarTraining (s : State) : Bool :=
  [1, 2, 3].any fun h => decide (role s h = 1) && decide ((getHatch s h).link = .training)

/-- The store room found at start-up is judged by STORE_MIN_MTS of the tier plate (R168). -/
def judgeStore (p : Plates) (s : State) : State :=
  if 0 < s.store.capacity ∧ s.boot.storeRate < p.storeMinMts then
    latch (event 3 8 3 0 0) { s with store := { s.store with capacity := 0, ready := false } }
  else s

/-- The first plate of steps 5 to 9 that its check refuses. -/
def restFinding (img : List Byte) (p : Plates) (s : State) : Option (Nat × Nat) :=
  [2, 6, 7, 8, 9].findSome? fun id => (checkPlate id (plateOf img id) p s).map fun r => (id, r)

/-- Steps 4 to 9 of R489, once the tiers are trained and the cellar hatches done. -/
def continueForme (s : State) : State :=
  match s.boot.formePending with
  | none => s
  | some p =>
    let img := s.boot.forme.getD []
    if keptTiers s then
      match checkTier p s with
      | some r => refuseForme 4 r s
      | none => s
    else if !s.boot.tiersTrained || cellarTraining s then s
    else
      let s1 := judgeStore p s
      if s1.startup = .safe then s1
      else
        match checkTier p s1, restFinding img p s1 with
        | some r, _ => refuseForme 4 r s1
        | none, some (id, r) => refuseForme id r s1
        | none, none => applyRest p s1

/-- The hatch plate is applied: cellar hatches train, upstream hatches 1 to 3 are released (R489). -/
def releaseHatches (p : Plates) (s : State) : State :=
  each [1, 2, 3] (fun h t =>
    match p.hatches[h]? with
    | some x =>
      if x.role = 1 then
        let u := emit (.hrefo h true) (waitMono (s.boot.startedAt + 20000000) t)
        emit (.crst h false) (modHatch h (fun y => { y with link := .training, crst := false, hrefo := true })
          (waitMono (s.boot.startedAt + 100000000) u))
      else if x.role = 0 then modHatch h (fun y => { y with link := if y.perst then .down else .training }) t
      else t
    | none => t) s

/-- The checked forme image is applied from its first plate on. -/
def configure (img : List Byte) (s : State) : State :=
  let all := [1, 2, 3, 4, 5, 6, 7, 8, 9]
  let p0 := all.foldl (fun q id => readPlate id (plateOf img id) q) Plates.empty
  let p : Plates := { p0 with digests := all.map fun id => sha256 (plateOf img id) }
  let early := [1, 5, 3].findSome? fun id => (checkPlate id (plateOf img id) p s).map fun r => (id, r)
  let s1 : State := { s with
    startup := .configuring
    boot := { s.boot with busy := true, forme := some img, formeKey := keyHash img, formePending := some p } }
  match early with
  | some (id, r) => refuseForme id r s1
  | none =>
    let s2 : State := { s1 with plates := { Plates.empty with
      device := p.device, mgrKeyHash := p.mgrKeyHash, injectOk := p.injectOk, queueCap := p.queueCap, hatches := p.hatches
      digests := (List.range 9).map fun k => if [0, 2, 4].contains k then p.digests.getD k [] else [] } }
    continueForme (releaseHatches p s2)

/-! ### A GO (R483) -/

/-- Largest LEN of a KIND. -/
def largestImage (kind : Nat) : Nat :=
  match kind with
  | 1 => 8388608
  | 3 => 16384
  | _ => 67108864

/-- The states in which a KIND is accepted. -/
def kindAccepted (kind : Nat) (s : State) : Bool :=
  match kind with
  | 1 => decide (s.startup = .bare) && s.boot.firmware.isNone
  | 2 => decide (s.startup = .bare) && s.boot.firmware.isSome
  | 3 => decide (s.startup = .bare) || decide (s.startup = .running)
  | _ => decide (s.startup = .running)

/-- A GO that is not taken: its RESULT. -/
def goRefused (kind : Nat) (s : State) : Option Nat :=
  if s.boot.busy then some btBusy
  else if !kindAccepted kind s then some btState
  else if 4 ≤ kind ∧ s.quoin.commit.isSome then some btBusy
  else if kind ≠ 5 ∧ largestImage kind < s.boot.len.toNat then some btRange
  else none

/-- Set RESULT alone. -/
def goResult (r : Nat) (s : State) : State := modBoot (fun b => { b with result := r }) s

/-- The image at BOOT_ADDR. -/
def readImage (s : State) : Option (List Byte) × State :=
  let (r, s1) := readHost (mgrFn s) (s.boot.addr.toNat / 4096 * 4096) s.boot.len.toNat s
  (if r.fail.isSome then none else some r.bytes, s1)

/-- KIND 1: a firmware image is installed. -/
def goFirmware (img : List Byte) (s : State) : State :=
  match imageFinding 1 img s with
  | some (p, r) => refuseForme p r s
  | none => bootAnswer btOk 0 0 (modBoot (fun b => { b with firmware := some img, firmwareSvn := imgField img 32 4 }) s)

/-- KIND 2: a forme image is checked and applied. -/
def goForme (img : List Byte) (s : State) : State :=
  match imageFinding 2 img s with
  | some (p, r) => refuseForme p r s
  | none => configure img s

/-- KIND 3: the certificate chain; its leaf must hold the device key, which is derived within 3 s of the start. -/
def goChain (bs : List Byte) (s : State) : State :=
  let s0 := if s.boot.keyDerived then s
    else modBoot (fun b => { b with keyDerived := true }) (waitMono (s.boot.startedAt + 3000000000) s)
  if Config.leafModulus bs = Config.deviceModulus then bootAnswer btOk 0 0 (modBoot (fun b => { b with chain := some bs }) s0)
  else bootAnswer btRefused 0 3 s0

/-- The bank that a staged route plate loads: the one not in force. -/
def spareBank (s : State) : Bool := s.fabric.bank0 == .inForce

/-- The replacement image's plates join those in force. -/
def stagedPlates (img : List Byte) (ids : List Nat) (s : State) : Plates :=
  let p := ids.foldl (fun q id => readPlate id (plateOf img id) q) s.plates
  { p with digests := ids.foldl (fun d id => modAt d (id - 1) fun _ => sha256 (plateOf img id)) p.digests }

/-- A replacement whose checks failed (R493). -/
def stageRefused (plate reason : Nat) (s : State) : State :=
  bootAnswer btRefused plate reason (modBoot (fun b => { b with staged := none, stageBad := true }) s)

/-- KIND 4: replacement plates are checked and staged (R492). -/
def goPlates (img : List Byte) (s : State) : State :=
  match imageFinding 3 img s with
  | some (p, r) => stageRefused p r s
  | none =>
    let ids := (directory img).map (·.id)
    let p := stagedPlates img ids s
    let e := spareBank s
    match ids.findSome? fun id => (checkPlate id (plateOf img id) p s).map fun r => (id, r) with
    | some (id, r) => stageRefused id r s
    | none =>
      if ids.contains 7 ∧ (bankOf s e).2 = .draining then bootAnswer btState 0 0 s
      else
        let s1 := if ids.contains 7 then
            modBank e (fun _ => .ready) (modFabric (fun f => if e then { f with route1 := p.route } else { f with route0 := p.route }) s)
          else s
        bootAnswer btOk 0 0 (modBoot (fun b => { b with
          staged := some { plates := p, ids := ids, bank := e }, stageBad := false }) s1)

/-- A GO of KIND 1 to 4: its image is read and handled; one that cannot be read is refused with REASON 10. -/
def bootGo (kind : Nat) (run : List Byte → State → State) (s : State) : State :=
  match goRefused kind s with
  | some r => goResult r s
  | none =>
    match readImage s with
    | (some img, s1) => placeAll (run img s1)
    | (none, s1) => if kind ≤ 2 then refuseForme 0 10 s1 else bootAnswer btRefused 0 10 s1

/-- KIND 5: the staged replacement is discarded. -/
def bootDiscard (s : State) : State :=
  match goRefused 5 s with
  | some r => goResult r s
  | none => bootAnswer btOk 0 0 (modBoot (fun b => { b with staged := none, stageBad := false }) s)

def execBootFirmware (s : State) : Host.Outcome State Fault Refusal :=
  .next (if barAnswers s then bootGo 1 goFirmware s else s)
def execBootForme (s : State) : Host.Outcome State Fault Refusal :=
  .next (if barAnswers s then bootGo 2 goForme s else s)
def execBootCertChain (s : State) : Host.Outcome State Fault Refusal :=
  .next (if barAnswers s then bootGo 3 goChain s else s)
def execBootPlates (s : State) : Host.Outcome State Fault Refusal :=
  .next (if barAnswers s then bootGo 4 goPlates s else s)
def execBootDiscard (s : State) : Host.Outcome State Fault Refusal :=
  .next (if barAnswers s then bootDiscard s else s)

end Sys2Proof.Machine
end

