-- ==== Sys2Proof/Machine/Start.lean ====
section
/-! DEFINITION. Power-on and power-off, the restart from safe state, training of the tiers and of cellar hatches, rails and
PERST_N (21_startup_forme.md R479 to R481; 23_signals_package.md R512 to R517; 19_faults_takeover.md R460). -/
namespace Sys2Proof.Machine

/-! ### Units and columns found good (R186, R455, R480) -/

/-- The first n parts that no fault and no fuse has withdrawn are active, the others spares. -/
def assignFrom (n : Nat) : List UnitState → List UnitState
  | [] => []
  | .retired :: l => .retired :: assignFrom n l
  | _ :: l => (if n = 0 then .spare else .active) :: assignFrom (n - 1) l

/-- Press units under the fused unit map: 96 active, the rest of the good ones spare. -/
def assignUnits (l : List UnitState) : List UnitState :=
  assignFrom 96 ((List.range l.length).map fun u => if Config.badUnits.contains u then .retired else l.getD u .retired)

/-- Ruzel pairs: 8 active. -/
def assignPairs (l : List UnitState) : List UnitState := assignFrom 8 l

/-- Columns of the soft-repair list in a bank. -/
def softColumns (s : State) (b : Nat) : List Nat :=
  (s.galley.softRepair.filter fun x => x.1 == b).map (·.2)

/-- Spare columns of a bank that the fuses leave (R186). -/
def columnsLeft (b : Nat) : Nat := let n := if b < 800 then 2 else 4; n - Config.fusedColumns b

/-- A bank with more failing columns than spares is given up (R186): its unit leaves the pool, or the working area shrinks. -/
def repairBank (b : Nat) (s : State) : State :=
  let cols := softColumns s b
  if cols.length ≤ columnsLeft b then s
  else
    let column := cols.getD (columnsLeft b) 0
    if b < 800 then
      if s.faults.units[b / 8]? = some .retired then s
      else latch (event 1 8 3 (b / 8) column) (modFaults (fun f => { f with units := modAt f.units (b / 8) fun _ => .retired }) s)
    else if s.galley.disabledBanks.contains (b - 800) then s
    else latch (event 1 8 3 (100 + (b - 800)) column)
      (modGalley (fun g => { g with disabledBanks := g.disabledBanks ++ [b - 800] }) s)

/-- Repairs applied at a start, before the galley is cleared. -/
def applyRepairs (s : State) : State :=
  each ((s.galley.softRepair.map (·.1)).foldl addNew []) repairBank s

/-! ### What survives a restart from safe state (R460, R481) -/

/-- A tier as on wake from off: its counters and what faults withdrew stay (R150, R455). -/
def wipeTier (x : TierSt) : TierSt :=
  { TierSt.reset with
    ceCount := x.ceCount, ueCount := x.ueCount, twinCount := x.twinCount, copiesLost := x.copiesLost, lost := x.lost
    sparesUsed := x.sparesUsed }

/-- Fields of a port that keep their values across every reset other than power-off. -/
def keptPort (p : Port) : Port :=
  { Port.reset with
    replayed := p.replayed, ucw := p.ucw, laneFaults := p.laneFaults, epochDrop := p.epochDrop, noRoute := p.noRoute
    hopLimit := p.hopLimit, ethCtrl := p.ethCtrl, ipv4 := p.ipv4, fcsErr := p.fcsErr, csumErr := p.csumErr
    flawedDrop := p.flawedDrop, rawFull := p.rawFull, notMine := p.notMine, roceDrop := p.roceDrop, pfcWd := p.pfcWd }

/-- Fields of a hatch that stay; its pin PERST_N is not the device's. -/
def keptHatch (h : Hatch) : Hatch :=
  { Hatch.reset with
    ctrl := h.ctrl, downs := h.downs, cplTimeout := h.cplTimeout, cplAbort := h.cplAbort, poisoned := h.poisoned
    atsFault := h.atsFault, perst := h.perst, perstAt := h.perstAt, released := h.released, sris := h.sris }

/-- Tick-group and commit-now registers that keep their values (03_tick.md). -/
def keptTick (t : TickRegs) : TickRegs := { TickRegs.reset with period := t.period, epochS := t.epochS, epochNs := t.epochNs }
def keptNow (n : NowRegs) : NowRegs := { NowRegs.reset with timeCtrl := n.timeCtrl }

/-- Parked sets survive with the shelf and the store room; segments in the cellar are LOST, as its links train anew. -/
def keptParked (keep : Bool) (l : List ParkedSet) : List ParkedSet :=
  if keep then l.map fun p => { p with segs := p.segs.map fun g => if g.seg.kind = 2 then { g with lost := true } else g } else []

/-- The device at the beginning of the sequence of R480, from safe state or from off: the watch domain keeps its contents,
and so do the fields that every reset but power-off leaves alone. -/
def restarted (s : State) : State :=
  let keep := bit s.faults.safeStatus 1
  let r := State.reset
  { r with
    pending := s.pending, out := s.out, freeCount := s.freeCount, ord := s.ord, host := s.host, pins := s.pins
    clk := s.clk
    time := s.time
    startup := .powerOn
    quoin := { r.quoin with
      tick := keptTick s.quoin.tick, tickShadow := keptTick s.quoin.tickShadow
      now := keptNow s.quoin.now, nowShadow := keptNow s.quoin.nowShadow }
    shelf := if keep then { s.shelf with ready := false } else wipeTier s.shelf
    store := if keep then { s.store with ready := false } else wipeTier s.store
    cellar := wipeTier s.cellar
    galley := { r.galley with
      softRepair := s.galley.softRepair, withdrawn := s.galley.withdrawn, badLanes := s.galley.badLanes, disabledBanks := s.galley.disabledBanks
      conflicts := s.galley.conflicts, cflFreeze := s.galley.cflFreeze }
    insts := tmap s.insts fun _ x => { Inst.empty with resets := x.resets, missed := x.missed, late := x.late }
    fabric := { r.fabric with ports := s.fabric.ports.map keptPort, nonMin := s.fabric.nonMin }
    dlv := { r.dlv with
      retxPkts := s.dlv.retxPkts, timeouts := s.dlv.timeouts, failed := s.dlv.failed, dup := s.dlv.dup
      outOfWindow := s.dlv.outOfWindow, stale := s.dlv.stale, rnrSent := s.dlv.rnrSent }
    ether := { r.ether with mgmtLink := true }
    misc := { r.misc with
      authFails := s.misc.authFails, exhausted := s.misc.exhausted, alarmErases := s.misc.alarmErases }
    hatches := s.hatches.map keptHatch
    steward := { r.steward with parked := keptParked keep s.steward.parked }
    faults := { s.faults with recoveries := [], injResult := 0 }
    power := { r.power with comparators := s.power.comparators }
    boot := { r.boot with starts := s.boot.starts, keptTier := s.boot.keptTier, oldSafe := s.faults.safeStatus } }

/-- The sequence of R480 begins: fuses, repairs, units and pairs, the galley cleared, the watchdog at 1,000 ms and ALIVE
from 20 ms on. -/
def beginStart (s : State) : State :=
  let s1 := applyRepairs (restarted (each [1, 2, 3] idleHatch s))
  let s2 := modFaults (fun f => { f with
    units := assignUnits f.units, pairs := assignPairs f.pairs, safeN := false
    aliveOn := true, aliveAt := s.clk.mono + 19500000, wdogOn := true, wdogServed := s.clk.mono + 20000000 }) s1
  let s3 := modBoot (fun b => { b with startedAt := s.clk.mono, starts := satAdd 32 b.starts 1 }) (modGalley (fun g => { g with conflicts := s.galley.conflicts }) (clearGalley s2))
  if Config.fuseCrcOk then s3 else latch (event 14 2 4 0 0) s3

/-- RAILS_VALID: every rail valid for 1 ms, and the reference stable. -/
def execRailsValid (s : State) : Host.Outcome State Fault Refusal :=
  .next (if s.startup = .off then emit (.safeN false) (beginStart s) else s)

/-- POWER_OFF: every tier and every field is lost; what is outside the device stays. -/
def powerDown (s : State) : State :=
  { State.reset with
    pending := s.pending, out := s.out, freeCount := s.freeCount, ord := s.ord, host := s.host, pins := s.pins
    hatches := s.hatches.map fun h => { Hatch.reset with perst := h.perst, sris := h.sris } }

def execPowerOff (s : State) : Host.Outcome State Fault Refusal := .next (powerDown s)

/-! ### Rails (R514 to R516) -/

/-- Nominal voltage in mV and tolerance in percent of a rail, in the order of R515. -/
def railLimits : List (Nat × Nat) :=
  [(800, 3), (1800, 5), (750, 3), (850, 3), (900, 2), (1050, 3), (750, 3), (1100, 3)]

/-- A reading outside the operating tolerance. -/
def railBad (rail mv : Nat) : Bool :=
  match railLimits[rail]? with
  | some (v, t) => decide (mv * 100 < v * (100 - t)) || decide (v * (100 + t) < mv * 100)
  | none => false

/-- RAIL_FAULT: level 4; without VWATCH the device is off. -/
def execRailFault (rail millivolts : Nat) (s : State) : Host.Outcome State Fault Refusal :=
  .next (if powered s && railBad rail millivolts then
    if rail = 0 ∧ millivolts = 0 then powerDown s else placeAll (latch (event 10 3 4 rail millivolts) s)
  else s)

/-! ### Training (R168, R169, R406, R480, R481) -/

/-- Bytes that the 12 modules give, 0 when the store room is disabled for a channel or a module. -/
def storeBytes (gib : Nat) (matched : Bool) : Nat := if matched && [64, 128, 256].contains gib then 12 * gib * 1073741824 else 0

/-- A start-up state before RUNNING in which tiers train. -/
def starting (s : State) : Bool :=
  decide (s.startup = .powerOn) || decide (s.startup = .bare) || decide (s.startup = .loading) ||
    decide (s.startup = .configuring)

/-- Every tier as on wake from off (R481): KEPT_LOST. -/
def loseKept (s : State) : State :=
  let wipe (x : TierSt) : TierSt := { wipeTier x with capacity := x.capacity, ready := x.ready }
  let s1 : State := { s with shelf := wipe s.shelf, store := wipe s.store, steward := { s.steward with parked := [] } }
  modBoot (fun b => { b with keptLost := true }) s1

/-- TIER_TRAINING_DONE: the shelf stacks and the modules are trained. Tiers kept in self-refresh train only once a tier plate
is to be applied, and keep their contents when it is the one in force before (R481). -/
def tiersTrain (gib rate : Nat) (matched : Bool) (s : State) : State :=
  let kept := keptTiers s
  let n := storeBytes gib matched
  let s1 : State := { s with
    shelf := { s.shelf with capacity := 618475290624, ready := true }
    store := { s.store with capacity := n, ready := decide (0 < n) }
    boot := { s.boot with tiersTrained := true, storeRate := rate } }
  let s2 := if n = 0 then latch (event 3 8 3 0 0) s1 else s1
  let same := match s.boot.formePending with | some p => p.digests.getD 3 [] == s.boot.keptTier | none => false
  placeAll (continueForme (if kept && !same then loseKept s2 else s2))

def execTierTrainingDone (moduleGib rateMts : Nat) (channelsMatch : Bool) (s : State) : Host.Outcome State Fault Refusal :=
  .next (if starting s && !s.boot.tiersTrained && (!keptTiers s || s.boot.formePending.isSome) then
    tiersTrain moduleGib rateMts channelsMatch s else s)

/-- Capacity of an expander in bytes: rounded down to 2 MiB, from 256 MiB to 1 TiB (R169). -/
def expanderBytes (mib : Nat) : Nat := if 256 ≤ mib ∧ mib ≤ 1048576 then mib / 2 * 2097152 else 0

/-- CELLAR_TRAINING_DONE: the expander is enumerated, or the hatch disabled (R406). -/
def cellarTrained (h gtps : Nat) (cxl : Bool) (mib : Nat) (s : State) : State :=
  let n := if cxl ∧ 32 ≤ gtps then expanderBytes mib else 0
  let s1 :=
    if 0 < n then
      modHatch h (fun x => { x with
        link := .up, gen := if 64 ≤ gtps then 6 else 5, width := (hatchPlate s h).maxWidth, expander := n })
        (modTier .cellar (fun x => { x with lost := x.lost.filter (· != h) }) s)
    else latch (event 4 8 3 h 0) (modHatch h (fun x => { x with link := .down, expander := 0 }) s)
  placeAll (continueForme s1)

def execCellarTrainingDone (hatch gtps : Nat) (cxlMem : Bool) (mebibytes : Nat) (s : State) :
    Host.Outcome State Fault Refusal :=
  .next (if decide (s.startup = .configuring) && decide (role s hatch = 1) &&
      decide ((getHatch s hatch).link = .training) then cellarTrained hatch gtps cxlMem mebibytes s else s)

/-- DEVICE_KEY_DERIVED: within 3 s of rails valid. -/
def execDeviceKeyDerived (s : State) : Host.Outcome State Fault Refusal :=
  .next (if powered s && decide (s.startup ≠ .safe) then modBoot (fun b => { b with keyDerived := true }) s else s)

/-! ### PERST_N (R512) -/

/-- PERST_N of an upstream hatch takes its link down. -/
def dropLink (h : Nat) (s : State) : State := if linkLive s h then linkDown h s else s

/-- PERST_N of an upstream hatch, asserted for at least 1 µs, in each state. -/
def perstEffect (h ns : Nat) (s : State) : State :=
  match s.startup with
  | .off => s
  | .powerOn => s
  | .bare => resetHatch h (dropLink h s)
  | .loading | .configuring =>
    if h = 0 then modBoot (fun b => { b with waitPerst := true, busy := false }) (withdrawForme (resetHatch h (dropLink h s)))
    else resetHatch h (dropLink h s)
  | .running => resetHatch h (dropLink h s)
  | .safe => if h = 0 ∧ 100000000 ≤ ns then beginStart (pass 100000000 s) else s

/-- PERST_ASSERT: shorter assertions than 1 µs are ignored, and so are those of a hatch that is not upstream. -/
def perstAssert (h ns : Nat) (s : State) : State :=
  if ns < 1000 then s
  else
    let s1 := modHatch h (fun x => { x with perst := true, perstAt := s.clk.mono }) s
    if role s h = 0 then placeAll (perstEffect h ns s1) else s1

def execPerstAssert (hatch nanoseconds : Nat) (s : State) : Host.Outcome State Fault Refusal :=
  .next (if hatch < 4 then perstAssert hatch nanoseconds s else s)

/-- PERST_DEASSERT: the hatch may train, in common-clock mode where an edge arrives on HREFI within 1 ms, else in SRIS mode (R509); a
forme discarded by hatch 0 leaves the device in BARE (R479). -/
def perstDeassert (h : Nat) (s : State) : State :=
  let sris := !Config.hrefEdge h s.freeCount
  let s1 := modHatch h (fun x => { x with perst := false, released := s.clk.mono, sris := sris })
    { s with freeCount := s.freeCount + 1 }
  if h = 0 ∧ s.boot.waitPerst then modBoot (fun b => { b with waitPerst := false }) { s1 with startup := .bare } else s1

def execPerstDeassert (hatch : Nat) (s : State) : Host.Outcome State Fault Refusal :=
  .next (if hatch < 4 then perstDeassert hatch s else s)

end Sys2Proof.Machine
end

