-- ==== Sys2Proof/Machine/Spdm.lean ====
section
/-! DEFINITION. Attestation (21_startup_forme.md R494 to R496): the SPDM 1.2 responder, its sessions and its measurements.
The manual names the messages; their codes and layouts are those of DMTF SPDM 1.2 (PRESUMED, log entry 51). -/
namespace Sys2Proof.Machine

/-! ### Messages -/

/-- The responder answers in every state but POWER_ON and SAFE (R494). -/
def spdmOn (s : State) : Bool :=
  powered s && decide (s.startup ≠ .powerOn) && decide (s.startup ≠ .safe)

def modSpdm (f : Spdm → Spdm) (s : State) : State := { s with spdm := f s.spdm }

/-- A message: version, code, two parameters, body. -/
def spdmBytes (code p1 p2 : Nat) (body : List Byte) : List Byte := leBytes 4 (0x12 + code * 256 + p1 * 65536 + p2 * 16777216) ++ body

/-- ERROR codes. -/
def erInvalid : Nat := 1
def erUnexpected : Nat := 4
def erDecrypt : Nat := 6

/-- The response goes out, and request and response join the transcript. -/
def spdmReply (request response : List Byte) (s : State) : State :=
  emit (.spdm response) (modSpdm (fun x => { x with transcript := x.transcript ++ request ++ response }) s)

/-- An ERROR response; it joins no transcript. -/
def spdmError (code : Nat) (s : State) : State := emit (.spdm (spdmBytes 0x7F code 0 [])) s

/-- A request outside a session, or in one that is established, is answered; any other cannot be read. -/
def inSession (s : State) : Option Nat → Bool
  | none => true
  | some n => match tget s.spdm.sessions n with | some x => x.established | none => false

/-- Requests that need the negotiation done are answered UnexpectedRequest before it. -/
def negotiated (f : State → State) (s : State) : State := if s.spdm.negotiated then f s else spdmError erUnexpected s

/-- An answered request of a session. -/
def spdmTurn (session : Option Nat) (f : State → State) (s : State) : Host.Outcome State Fault Refusal :=
  .next (if spdmOn s && inSession s session then f s else s)

/-! ### Version, capabilities, algorithms -/

/-- GET_VERSION begins anew: what was negotiated is forgotten, and sessions end. -/
def getVersion (s : State) : State :=
  let request := leBytes 4 0x8410
  let response := leBytes 4 0x0410 ++ [0, 1, 0x00, 0x12]
  spdmReply request response (modSpdm (fun x => { Spdm.reset with versioned := true, nextSession := x.nextSession }) s)

def execGetVersion (session : Option Nat) (s : State) : Host.Outcome State Fault Refusal := spdmTurn session getVersion s

/-- GET_CAPABILITIES follows the version. -/
def getCapabilities (request : List Byte) (s : State) : State :=
  if s.spdm.versioned then
    spdmReply request (spdmBytes 0x61 0 0 Config.spdmCapabilities) (modSpdm (fun x => { x with capable := true }) s)
  else spdmError erUnexpected s

def execGetCapabilities (session : Option Nat) (request : List Byte) (s : State) : Host.Outcome State Fault Refusal :=
  spdmTurn session (getCapabilities request) s

/-- NEGOTIATE_ALGORITHMS: the algorithms of R494, where the request offers them. -/
def negotiate (request : List Byte) (s : State) : State :=
  if !s.spdm.capable then spdmError erUnexpected s
  else if Config.spdmAlgorithmsOk request then
    spdmReply request (spdmBytes 0x63 0 0 (Config.spdmAlgorithms request)) (modSpdm (fun x => { x with negotiated := true }) s)
  else spdmError erInvalid s

def execNegotiateAlgorithms (session : Option Nat) (request : List Byte) (s : State) : Host.Outcome State Fault Refusal :=
  spdmTurn session (negotiate request) s

/-! ### Certificates (R495) -/

/-- GET_DIGESTS: slot 0 once a chain is installed, no slot before. -/
def getDigests (s : State) : State :=
  let request := spdmBytes 0x81 0 0 []
  match s.boot.chain with
  | some c => spdmReply request (spdmBytes 0x01 0 1 (sha256 c)) s
  | none => spdmReply request (spdmBytes 0x01 0 0 []) s

def execGetDigests (session : Option Nat) (s : State) : Host.Outcome State Fault Refusal :=
  spdmTurn session (negotiated getDigests) s

/-- GET_CERTIFICATE: a portion of the chain of slot 0. -/
def getCertificate (slot offset length : Nat) (s : State) : State :=
  match s.boot.chain with
  | some c =>
    if slot ≠ 0 ∨ c.length ≤ offset then spdmError erInvalid s
    else
      let part := (c.drop offset).take length
      spdmReply (spdmBytes 0x82 slot 0 (leBytes 2 offset ++ leBytes 2 length))
        (spdmBytes 0x02 slot 0 (leBytes 2 part.length ++ leBytes 2 (c.length - offset - part.length) ++ part)) s
  | none => spdmError erInvalid s

def execGetCertificate (session : Option Nat) (slot offset length : Nat) (s : State) : Host.Outcome State Fault Refusal :=
  spdmTurn session (negotiated (getCertificate slot offset length)) s

/-! ### Signed answers -/

/-- A response whose last part is the device key's signature over the transcript up to it. -/
def spdmSigned (request response : List Byte) (s : State) : State :=
  spdmReply request (response ++ Config.deviceSign (s.spdm.transcript ++ request ++ response)) s

/-- CHALLENGE: UnexpectedRequest until a chain is installed. -/
def challenge (slot : Nat) (nonce : List Byte) (s : State) : State :=
  match s.boot.chain with
  | none => spdmError erUnexpected s
  | some c =>
    if slot ≠ 0 ∨ nonce.length ≠ 32 then spdmError erInvalid s
    else
      let (own, s1) := freeBytes 32 s
      spdmSigned (spdmBytes 0x83 slot 0 nonce) (spdmBytes 0x03 slot 1 (sha256 c ++ own ++ [0, 0])) s1

def execChallenge (session : Option Nat) (slot : Nat) (nonce : List Byte) (s : State) : Host.Outcome State Fault Refusal :=
  spdmTurn session (negotiated (challenge slot nonce)) s

/-! ### Measurements (R496) -/

/-- A digest of zeros: the content is not loaded. -/
def noDigest : List Byte := List.replicate 32 0

/-- The digest of what is loaded, if anything is. -/
def digestOf : Option (List Byte) → List Byte
  | some bs => sha256 bs
  | none => noDigest

/-- The start-up record: STARTS, KEPT_LOST, and SAFE_STATUS of the last safe state. -/
def startRecord (s : State) : List Byte :=
  leBytes 4 s.boot.starts ++ [if s.boot.keptLost then 1 else 0] ++ wordBytes s.boot.oldSafe

/-- The digest of a measurement block. -/
def measurement (s : State) (k : Nat) : List Byte :=
  match k with
  | 1 => Config.bootRomDigest
  | 2 => digestOf s.boot.firmware
  | 3 => Config.fuseDigest
  | 4 => digestOf s.boot.forme
  | 14 => digestOf s.boot.chain
  | 15 => sha256 (startRecord s)
  | _ => let d := s.plates.digests.getD (k - 5) []; if d.isEmpty then noDigest else d

/-- A measurement block: the firmware's carries its SVN. -/
def measurementBlock (s : State) (k : Nat) : List Byte :=
  let value := measurement s k ++ (if k = 2 then leBytes 4 s.boot.firmwareSvn else [])
  leBytes 2 (k + 256) ++ leBytes 2 (value.length + 3) ++ leBytes 3 (value.length * 256) ++ value

/-- GET_MEASUREMENTS: index 0 asks for the number of blocks, 255 for all of them. -/
def getMeasurements (index : Nat) (signed : Bool) (nonce : List Byte) (s : State) : State :=
  if signed && s.boot.chain.isNone then spdmError erUnexpected s
  else if (15 < index ∧ index ≠ 255) ∨ (signed = true ∧ nonce.length ≠ 32) then spdmError erInvalid s
  else
    let ks := if index = 0 then [] else if index = 255 then (List.range 15).map (· + 1) else [index]
    let record := ks.flatMap (measurementBlock s)
    let (own, s1) := freeBytes 32 s
    let request := spdmBytes 0xE0 (if signed then 1 else 0) index (if signed then nonce ++ [0] else [])
    let response := spdmBytes 0x60 (if index = 0 then 15 else 0) 0
      ([BitVec.ofNat 8 ks.length] ++ leBytes 3 record.length ++ record ++ own ++ [0, 0])
    if signed then spdmSigned request response s1 else spdmReply request response s1

def execGetMeasurements (session : Option Nat) (index : Nat) (signed : Bool) (nonce : List Byte) (s : State) :
    Host.Outcome State Fault Refusal :=
  spdmTurn session (negotiated (getMeasurements index signed nonce)) s

/-! ### Sessions (R494) -/

/-- KEY_EXCHANGE opens a session, whose requester must authenticate itself too. -/
def keyExchange (request : List Byte) (s : State) : State :=
  if s.boot.chain.isNone then spdmError erUnexpected s
  else
    let n := s.spdm.nextSession
    let (random, s1) := freeBytes 32 s
    let body := leBytes 2 n ++ [1, 0] ++ random ++ Config.dheResponse n request ++ [0, 0]
    let response := spdmBytes 0x64 0 0 body
    let sign := Config.deviceSign (s1.spdm.transcript ++ request ++ response)
    let verify := Config.spdmVerify n (s1.spdm.transcript ++ request ++ response ++ sign)
    let opened : Session := { established := false, requester := [], manager := false, updates := 0 }
    spdmReply request (response ++ sign ++ verify) (modSpdm (fun x => { x with
      sessions := tset x.sessions n opened, nextSession := (n + 1) % 65536 }) s1)

def execKeyExchange (request : List Byte) (s : State) : Host.Outcome State Fault Refusal :=
  spdmTurn none (negotiated (keyExchange request)) s

/-- FINISH establishes a session; it may carry steward messages when its requester's key is the manager's (R494). -/
def finishSession (n : Nat) (key request : List Byte) (s : State) : State :=
  match tget s.spdm.sessions n with
  | none => spdmError erUnexpected s
  | some x =>
    if x.established then spdmError erUnexpected s
    else if Config.spdmFinishOk n request then
      let y : Session := { x with established := true, requester := key, manager := sha256 key == s.plates.mgrKeyHash }
      spdmReply request (spdmBytes 0x65 0 0 []) (modSpdm (fun z => { z with sessions := tset z.sessions n y }) s)
    else spdmError erDecrypt (modSpdm (fun z => { z with sessions := tdel z.sessions n }) s)

def execFinish (session : Nat) (requesterKey request : List Byte) (s : State) : Host.Outcome State Fault Refusal :=
  spdmTurn none (negotiated (finishSession session requesterKey request)) s

/-- HEARTBEAT. -/
def heartbeat (s : State) : State := emit (.spdm (spdmBytes 0x68 0 0 [])) s

def execHeartbeat (session : Nat) (s : State) : Host.Outcome State Fault Refusal := spdmTurn (some session) heartbeat s

/-- KEY_UPDATE: the keys of one direction (1) or of both (2), and the verification of the new ones (3). -/
def keyUpdate (n operation : Nat) (s : State) : State :=
  if operation = 0 ∨ 3 < operation then spdmError erInvalid s
  else
    emit (.spdm (spdmBytes 0x69 operation 0 [])) (modSpdm (fun z => { z with
      sessions := tmod z.sessions n fun x => { x with updates := if operation = 3 then x.updates else x.updates + 1 } }) s)

def execKeyUpdate (session operation : Nat) (s : State) : Host.Outcome State Fault Refusal :=
  spdmTurn (some session) (keyUpdate session operation) s

/-- END_SESSION. -/
def endSession (n : Nat) (s : State) : State :=
  emit (.spdm (spdmBytes 0x6C 0 0 [])) (modSpdm (fun z => { z with sessions := tdel z.sessions n }) s)

def execEndSession (session : Nat) (s : State) : Host.Outcome State Fault Refusal :=
  spdmTurn (some session) (endSession session) s

/-- A request from its bytes, as the management port carries it. -/
def spdmRequest (session : Option Nat) (bs : List Byte) (s : State) : State :=
  let at_ (k n : Nat) : Nat := leNat ((bs.drop k).take n)
  let p1 := at_ 2 1
  match at_ 1 1 with
  | 0x84 => getVersion s
  | 0xE1 => getCapabilities bs s
  | 0xE3 => negotiate bs s
  | 0x81 => negotiated getDigests s
  | 0x82 => negotiated (getCertificate p1 (at_ 4 2) (at_ 6 2)) s
  | 0x83 => negotiated (challenge p1 ((bs.drop 4).take 32)) s
  | 0xE0 => negotiated (getMeasurements (at_ 3 1) (p1 % 2 == 1) ((bs.drop 4).take 32)) s
  | 0xE4 => negotiated (keyExchange bs) s
  | 0xE8 => match session with | some _ => heartbeat s | none => spdmError erUnexpected s
  | 0xE9 => match session with | some n => keyUpdate n p1 s | none => spdmError erUnexpected s
  | 0xEC => match session with | some n => endSession n s | none => spdmError erUnexpected s
  | _ => spdmError 7 s

end Sys2Proof.Machine
end

