-- ==== Sys2Proof/Machine/Mgmt.lean ====
section
/-! DEFINITION. The management port (14_ethernet_management.md R369, R370): its frames, ARP, collisions and PLCA. -/
namespace Sys2Proof.Machine

/-- The port works: not in POWER_ON, and silent in safe state (R459). -/
def mgmtOn (s : State) : Bool :=
  s.ether.mgmtLink && powered s && decide (s.startup ≠ .powerOn) && decide (s.startup ≠ .safe)

/-- A frame goes out; it stands as the frame in transmission until the next one (log entry 52). -/
def mgmtSend (bs : List Byte) (s : State) : State :=
  if mgmtOn s then
    emit (.mgmt bs) (modEther (fun e => { e with mgmtQueue := [bs], collisions := 0 }) s)
  else s

/-! ### T1S_TERM and the test port (R506) -/

/-- The on-die termination of the management segment: T1S_TERM at VIO. -/
def termOn (s : State) : Bool := decide (s.pins.t1sTerm = .vio)

/-- The test port is in reset: TRST_N is pulled low unless it is driven. -/
def testReset (s : State) : Bool := decide (s.pins.trstN ≠ .vio)

/-- Boundary scan runs: not in reset, and refused while the device is RUNNING. -/
def scanRuns (s : State) : Bool := !testReset s && decide (s.startup ≠ .running)

/-- TDO in high impedance: where no scan runs. -/
def tdoHighZ (s : State) : Bool := !scanRuns s

/-! ### ARP (R369) -/

/-- The reply to an ARP request, padded to 60 bytes, without FCS. -/
def arpReply (targetIp senderMac senderIp : Nat) : List Byte :=
  let bs := beBytes 6 senderMac ++ beBytes 6 (ownMac 48) ++ beBytes 2 0x0806 ++ beBytes 2 1 ++ beBytes 2 0x0800 ++ [6, 4] ++
    beBytes 2 2 ++ beBytes 6 (ownMac 48) ++ beBytes 4 targetIp ++ beBytes 6 senderMac ++ beBytes 4 senderIp
  bs ++ List.replicate (60 - bs.length) 0

/-- ARP_REQUEST: answered for the device's own address. -/
def answerArp (targetIp senderMac senderIp : Nat) (s : State) : State :=
  if targetIp = Config.mgmtIp then mgmtSend (arpReply targetIp senderMac senderIp) s else s

def execArpRequest (targetIp senderMac senderIp : Nat) (s : State) : Host.Outcome State Fault Refusal :=
  .next (if mgmtOn s then answerArp targetIp senderMac senderIp s else s)

/-! ### Received frames (R369) -/

/-- An ARP request in a frame. -/
def isArpRequest (bs : List Byte) : Bool := etherType bs == 0x0806 && netAt bs (l3At bs + 6) 2 == 1

/-- A UDP/IPv4 frame to a port of this device. -/
def udpTo (bs : List Byte) (port : Nat) : Bool := isV4 bs && isUdp bs && ipDest bs == Config.mgmtIp && udpDest bs == port

/-- The UDP payload. -/
def udpPayload (bs : List Byte) : List Byte := (bs.drop (l4At bs + 8)).take (netAt bs (l4At bs + 4) 2 - 8)

/-- A steward message: only in a secured session with the manager's key (R369), and not in keeping (R476). -/
def mgmtSteward (bs : List Byte) (s : State) : State :=
  match Config.securedOpen (udpPayload bs) with
  | some (n, plain) =>
    if !managerSession s n then mgmtDiscard s
    else if running s then stwRun (.mgmtPort n plain) plain s
    else s
  | none => mgmtDiscard s

/-- An SPDM message, in the clear or in an established session. -/
def mgmtSpdm (bs : List Byte) (s : State) : State :=
  let m := Config.mctpMessage (udpPayload bs)
  match Config.securedOpen m with
  | some (n, plain) =>
    if netAt plain 1 1 = 0xE5 then negotiated (finishSession n (Config.requesterKey n) plain) s
    else if inSession s (some n) then spdmRequest (some n) plain s
    else s
  | none => spdmRequest none m s

/-- MGMT_FRAME_RX: a frame is sorted, or discarded and counted. In keeping only ARP and SPDM are answered. -/
def mgmtFrame (f : Frame) (s : State) : State :=
  let bs := f.bytes
  let mine := destMac bs == ownMac 48
  if crc32 bs ≠ f.fcs.toNat ∨ f.pcsError = true then mgmtDiscard s
  else if isArpRequest bs && (mine || destMac bs == 0xFFFFFFFFFFFF) then
    answerArp (netAt bs (l3At bs + 24) 4) (netAt bs (l3At bs + 8) 6) (netAt bs (l3At bs + 14) 4) s
  else if isPtpFrame bs && isV4 bs && (mine || netAt bs 0 1 % 2 == 1) then ptpArrives 48 (ptpOf (ptpBytes bs)) s
  else if mine && udpTo bs 0x4C43 then mgmtSpdm bs s
  else if mine && udpTo bs 0x4C42 then (if inKeeping s then mgmtDiscard s else mgmtSteward bs s)
  else mgmtDiscard s

def execMgmtFrameRx (f : Frame) (s : State) : Host.Outcome State Fault Refusal :=
  .next (if mgmtOn s then placeAll (mgmtFrame f s) else s)

/-! ### Collisions and PLCA (R370) -/

/-- MGMT_COLLISION: the frame in transmission goes again after a back-off of 0 to 2^min(n, 10) − 1 slots of 51.2 µs, or is
abandoned after 16 attempts. -/
def mgmtCollides (s : State) : State :=
  match s.ether.mgmtQueue with
  | [] => s
  | bs :: _ =>
    let n := s.ether.collisions + 1
    if 16 ≤ n then
      modEther (fun e => { e with mgmtQueue := [], collisions := 0, mgmtExcess := satAdd 16 e.mgmtExcess 1 }) s
    else
      let slots := Config.backoffDraw s.freeCount % 2 ^ min n 10
      emit (.mgmt bs) (pass (slots * 51200) (modEther (fun e => { e with collisions := n })
        { s with freeCount := s.freeCount + 1 }))

def execMgmtCollision (s : State) : Host.Outcome State Fault Refusal :=
  .next (if mgmtOn s && !s.ether.plcaActive then mgmtCollides s else s)

/-- PLCA in use: PLCA_EN, with a NODE_ID other than 0xFF. -/
def plcaOn (ctrl : Word) : Bool := bit ctrl 0 && fld ctrl 8 8 != 0xFF

/-- PLCA_BEACON_LOSS: back to CSMA/CD; the coordinator sends the BEACON itself. -/
def execPlcaBeaconLoss (s : State) : Host.Outcome State Fault Refusal :=
  .next (if mgmtOn s && s.ether.plcaActive && fld s.ether.mgmtCtrl 8 8 != 0 then
    modEther (fun e => { e with plcaActive := false }) s else s)

end Sys2Proof.Machine
end

