-- ==== Sys2Proof/Machine/RegMap.lean ====
section
/-! DEFINITION. The register map: every register of BAR0 and of an instance page by name, and its offset
(22_register_summary.md R501, R502). -/
namespace Sys2Proof.Machine

/-- Registers of an instance page (R502). -/
inductive PageReg where
  | instInfo
  | instCnt
  | tickNowCopy
  | subtickCopy
  | qcDescAddr
  | qcOp
  | qcStatus
  | qcResult0
  | qcResult1
  | tblAddr
  | tblWinAddr
  | tblSync
  | tblStatus
  | tblRdSel
  | tblRdData (k : Fin 4)
  | ligAddr
  | ligOp
  | ligStatus
  | ligRead
  | qsSel
  | qsShare
  | qsLive
  | qsStat
  | qsCommit
  | qsStatus
  | modSel
  | modCfg
  | modStat
  | tallyValue
  | tallyOp
  | tallyStatus
  | collSel
  | collInfo (k : Fin 3)
  | keyData (k : Fin 4)
  | keyParam
  | keyCtr
  | keyOp
  | keyStatus
deriving DecidableEq, Repr

/-- Offset within the page. -/
def PageReg.offset : PageReg → Nat
  | .instInfo => 0x1000
  | .instCnt => 0x1008
  | .tickNowCopy => 0x1010
  | .subtickCopy => 0x1018
  | .qcDescAddr => 0x1100
  | .qcOp => 0x1108
  | .qcStatus => 0x1110
  | .qcResult0 => 0x1118
  | .qcResult1 => 0x1120
  | .tblAddr => 0x1200
  | .tblWinAddr => 0x1208
  | .tblSync => 0x1210
  | .tblStatus => 0x1218
  | .tblRdSel => 0x1220
  | .tblRdData k => 0x1228 + 8 * k.val
  | .ligAddr => 0x1300
  | .ligOp => 0x1308
  | .ligStatus => 0x1310
  | .ligRead => 0x1318
  | .qsSel => 0x1400
  | .qsShare => 0x1408
  | .qsLive => 0x1410
  | .qsStat => 0x1418
  | .qsCommit => 0x1420
  | .qsStatus => 0x1428
  | .modSel => 0x1500
  | .modCfg => 0x1508
  | .modStat => 0x1510
  | .tallyValue => 0x1600
  | .tallyOp => 0x1608
  | .tallyStatus => 0x1610
  | .collSel => 0x1700
  | .collInfo k => 0x1708 + 8 * k.val
  | .keyData k => 0x2000 + 8 * k.val
  | .keyParam => 0x2020
  | .keyCtr => 0x2028
  | .keyOp => 0x2030
  | .keyStatus => 0x2038

/-- Registers of a page that are not in a repeated set. -/
def pageSingles : List PageReg :=
  [.instInfo, .instCnt, .tickNowCopy, .subtickCopy, .qcDescAddr, .qcOp, .qcStatus, .qcResult0, .qcResult1] ++
  [.tblAddr, .tblWinAddr, .tblSync, .tblStatus, .tblRdSel, .ligAddr, .ligOp, .ligStatus, .ligRead] ++
  [.qsSel, .qsShare, .qsLive, .qsStat, .qsCommit, .qsStatus, .modSel, .modCfg, .modStat] ++
  [.tallyValue, .tallyOp, .tallyStatus, .collSel, .keyParam, .keyCtr, .keyOp, .keyStatus]

/-- The number of a register of a repeated set: its base, its stride, how many there are. -/
def setIndex (base stride n off : Nat) : Option (Fin n) :=
  let k := (off - base) / stride
  if h : k < n then (if off = base + stride * k then some ⟨k, h⟩ else none) else none

/-- The register at an offset of a page; none where the manual assigns none. -/
def pageRegAt (off : Nat) : Option PageReg :=
  match pageSingles.find? fun r => r.offset == off with
  | some r => some r
  | none =>
    match setIndex 0x1228 8 4 off, setIndex 0x1708 8 3 off, setIndex 0x2000 8 4 off with
    | some k, _, _ => some (.tblRdData k)
    | none, some k, _ => some (.collInfo k)
    | none, none, some k => some (.keyData k)
    | none, none, none => none

/-- Registers of BAR0 (R501), the capability area apart (R503). -/
inductive BarReg where
  | bootAddr
  | bootLen
  | bootGo
  | bootStatus
  | tickCtrl
  | timeCtrl
  | tickPeriod
  | tickEpochS
  | tickEpochNs
  | tickNow
  | tickSubtick
  | timeStatus
  | tickSlip
  | tickSkipped
  | quoinCommit
  | quoinStatus
  | sweepCtrl
  | schedClass
  | schedSel
  | cmpCtrl (k : Fin 8)
  | cmpValue (k : Fin 8)
  | cmpPeriod (k : Fin 8)
  | scrubCtrl
  | memErrShelf
  | memErrStore
  | memErrCellar
  | clearStatus
  | galleyCtrl
  | galleyWinAddr
  | galleyWinData
  | galleyWinSts
  | galleyCflCtrl
  | galleyCfl (m : Fin 128)
  | epSync
  | epDescAddr
  | epStatus
  | lagLast
  | lagCount
  | binStatus
  | routeCtrl
  | routeLoad
  | routeData0
  | routeData1
  | routeStatus
  | fabNonmin
  | dlvCtrl
  | ccCtrl
  | dlvRetx
  | dlvDrop
  | dlvConn
  | roceConnAddr
  | roceConnOp
  | roceConnStatus
  | mgmtCtrl
  | mgmtSts
  | cipherCnt
  | portSts (p : Fin 48)
  | portErr (p : Fin 48)
  | portDrop (p : Fin 48)
  | ethCtrl (p : Fin 48)
  | ethAddr (p : Fin 48)
  | ethErr (p : Fin 48)
  | ethDrop (p : Fin 48)
  | hatchCtrl (h : Fin 4)
  | hatchSts (h : Fin 4)
  | hatchErr (h : Fin 4)
  | ledgerAck
  | fevStatus
  | fevRi
  | faultResp
  | wdogCtrl
  | safeStatus
  | faultForce
  | faultInject
  | permitCtrl
  | permitSts
  | permitTick
  | permitLast
  | powerCtrl
  | powerSts
  | ledgerFirst (c : Fin 16)
  | ledgerDetail (c : Fin 16)
  | ledgerSum (c : Fin 16)
  | fevEntry (k : Fin 1024)
  | stwReq
  | stwResp
  | stwGo
  | stwStatus
  | instViewSel
deriving DecidableEq, Repr

/-- Offset in BAR0. -/
def BarReg.offset : BarReg → Nat
  | .bootAddr => 0x10000
  | .bootLen => 0x10008
  | .bootGo => 0x10010
  | .bootStatus => 0x10018
  | .tickCtrl => 0x20000
  | .timeCtrl => 0x20008
  | .tickPeriod => 0x20010
  | .tickEpochS => 0x20018
  | .tickEpochNs => 0x20020
  | .tickNow => 0x20028
  | .tickSubtick => 0x20030
  | .timeStatus => 0x20038
  | .tickSlip => 0x20040
  | .tickSkipped => 0x20048
  | .quoinCommit => 0x20050
  | .quoinStatus => 0x20058
  | .sweepCtrl => 0x20060
  | .schedClass => 0x20068
  | .schedSel => 0x20070
  | .cmpCtrl k => 0x20100 + 0x20 * k.val
  | .cmpValue k => 0x20108 + 0x20 * k.val
  | .cmpPeriod k => 0x20110 + 0x20 * k.val
  | .scrubCtrl => 0x30000
  | .memErrShelf => 0x30008
  | .memErrStore => 0x30010
  | .memErrCellar => 0x30018
  | .clearStatus => 0x30020
  | .galleyCtrl => 0x30028
  | .galleyWinAddr => 0x30030
  | .galleyWinData => 0x30038
  | .galleyWinSts => 0x30040
  | .galleyCflCtrl => 0x30048
  | .galleyCfl m => 0x30400 + 8 * m.val
  | .epSync => 0x40000
  | .epDescAddr => 0x40008
  | .epStatus => 0x40010
  | .lagLast => 0x40018
  | .lagCount => 0x40020
  | .binStatus => 0x40028
  | .routeCtrl => 0x50000
  | .routeLoad => 0x50008
  | .routeData0 => 0x50010
  | .routeData1 => 0x50018
  | .routeStatus => 0x50020
  | .fabNonmin => 0x50028
  | .dlvCtrl => 0x50030
  | .ccCtrl => 0x50038
  | .dlvRetx => 0x50040
  | .dlvDrop => 0x50048
  | .dlvConn => 0x50050
  | .roceConnAddr => 0x50058
  | .roceConnOp => 0x50060
  | .roceConnStatus => 0x50068
  | .mgmtCtrl => 0x50070
  | .mgmtSts => 0x50078
  | .cipherCnt => 0x50080
  | .portSts p => 0x51000 + 0x40 * p.val
  | .portErr p => 0x51008 + 0x40 * p.val
  | .portDrop p => 0x51010 + 0x40 * p.val
  | .ethCtrl p => 0x51018 + 0x40 * p.val
  | .ethAddr p => 0x51020 + 0x40 * p.val
  | .ethErr p => 0x51028 + 0x40 * p.val
  | .ethDrop p => 0x51030 + 0x40 * p.val
  | .hatchCtrl h => 0x60000 + 0x20 * h.val
  | .hatchSts h => 0x60008 + 0x20 * h.val
  | .hatchErr h => 0x60010 + 0x20 * h.val
  | .ledgerAck => 0x70000
  | .fevStatus => 0x70008
  | .fevRi => 0x70010
  | .faultResp => 0x70018
  | .wdogCtrl => 0x70020
  | .safeStatus => 0x70028
  | .faultForce => 0x70030
  | .faultInject => 0x70038
  | .permitCtrl => 0x70040
  | .permitSts => 0x70048
  | .permitTick => 0x70050
  | .permitLast => 0x70058
  | .powerCtrl => 0x70060
  | .powerSts => 0x70068
  | .ledgerFirst c => 0x70100 + 0x20 * c.val
  | .ledgerDetail c => 0x70108 + 0x20 * c.val
  | .ledgerSum c => 0x70110 + 0x20 * c.val
  | .fevEntry k => 0x72000 + 8 * k.val
  | .stwReq => 0x80000
  | .stwResp => 0x80008
  | .stwGo => 0x80010
  | .stwStatus => 0x80018
  | .instViewSel => 0x80020

/-- Registers of BAR0 that are not in a repeated set. -/
def barSingles : List BarReg :=
  [.bootAddr, .bootLen, .bootGo, .bootStatus, .tickCtrl, .timeCtrl, .tickPeriod, .tickEpochS, .tickEpochNs, .tickNow] ++
  [.tickSubtick, .timeStatus, .tickSlip, .tickSkipped, .quoinCommit, .quoinStatus, .sweepCtrl, .schedClass, .schedSel] ++
  [.scrubCtrl, .memErrShelf, .memErrStore, .memErrCellar, .clearStatus, .galleyCtrl, .galleyWinAddr, .galleyWinData] ++
  [.galleyWinSts, .galleyCflCtrl, .epSync, .epDescAddr, .epStatus, .lagLast, .lagCount, .binStatus, .routeCtrl] ++
  [.routeLoad, .routeData0, .routeData1, .routeStatus, .fabNonmin, .dlvCtrl, .ccCtrl, .dlvRetx, .dlvDrop, .dlvConn] ++
  [.roceConnAddr, .roceConnOp, .roceConnStatus, .mgmtCtrl, .mgmtSts, .cipherCnt, .ledgerAck, .fevStatus, .fevRi] ++
  [.faultResp, .wdogCtrl, .safeStatus, .faultForce, .faultInject, .permitCtrl, .permitSts, .permitTick, .permitLast] ++
  [.powerCtrl, .powerSts, .stwReq, .stwResp, .stwGo, .stwStatus, .instViewSel]

/-- Registers of the repeated sets of BAR0, by the first that an offset fits. -/
def barSets (off : Nat) : List (Option BarReg) :=
  [(setIndex 0x20100 0x20 8 off).map .cmpCtrl, (setIndex 0x20108 0x20 8 off).map .cmpValue,
   (setIndex 0x20110 0x20 8 off).map .cmpPeriod, (setIndex 0x30400 8 128 off).map .galleyCfl] ++
  [(setIndex 0x51000 0x40 48 off).map .portSts, (setIndex 0x51008 0x40 48 off).map .portErr,
   (setIndex 0x51010 0x40 48 off).map .portDrop, (setIndex 0x51018 0x40 48 off).map .ethCtrl,
   (setIndex 0x51020 0x40 48 off).map .ethAddr, (setIndex 0x51028 0x40 48 off).map .ethErr,
   (setIndex 0x51030 0x40 48 off).map .ethDrop] ++
  [(setIndex 0x60000 0x20 4 off).map .hatchCtrl, (setIndex 0x60008 0x20 4 off).map .hatchSts,
   (setIndex 0x60010 0x20 4 off).map .hatchErr] ++
  [(setIndex 0x70100 0x20 16 off).map .ledgerFirst, (setIndex 0x70108 0x20 16 off).map .ledgerDetail,
   (setIndex 0x70110 0x20 16 off).map .ledgerSum, (setIndex 0x72000 8 1024 off).map .fevEntry]

/-- The register at an offset of BAR0; none where R501 assigns none. -/
def barRegAt (off : Nat) : Option BarReg :=
  match barSingles.find? fun r => r.offset == off with
  | some r => some r
  | none => (barSets off).findSome? id

end Sys2Proof.Machine
end

