-- ==== Sys2Proof/Machine/Regs.lean ====
section
/-! DEFINITION. Register writes (00_scope.md R8, R9; 03_tick.md R80; 22_register_summary.md R497 to R502): each field takes
the written value under its access code; a register whose write is a command of its own runs that command. Configuration
space, and what a host does to its own memory, are written here too (log entry 5). -/
namespace Sys2Proof.Machine

/-- The state that a meaning leaves; every meaning of this block answers one. -/
def after (o : Host.Outcome State Fault Refusal) (s : State) : State :=
  match o with
  | .next t => t
  | _ => s

/-! ### Instance pages (R502) -/

/-- QC_OP (R86): OP and QUEUE; an OP of no command gives RANGE. -/
def writeQcOp (i : Nat) (v : Word) (s : State) : State :=
  let q := fld v 32 20
  match fld v 0 4 with
  | 1 => after (execQcCreate i q s) s
  | 2 => after (execQcDrain i q s) s
  | 3 => after (execQcResume i q s) s
  | 4 => after (execQcDestroy i q s) s
  | 5 => after (execQcArm i q s) s
  | 6 => after (execQcQuery i q s) s
  | _ => qcAnswer i q qcRange s

/-- LIG_OP (R231). -/
def writeLigOp (i : Nat) (v : Word) (s : State) : State :=
  let n := fld v 0 16
  match fld v 16 4 with
  | 1 => after (execLigLoad i n s) s
  | 2 => after (execLigClear i n s) s
  | _ => after (ligCommand i n (ligAnswer i n lgRange) s) s

/-- TALLY_OP (R290). -/
def writeTallyOp (i : Nat) (v : Word) (s : State) : State :=
  let n := fld v 0 18
  match fld v 24 4 with
  | 1 => after (execTallyAlloc i n (bit v 28) s) s
  | 2 => after (execTallyFree i n s) s
  | 3 => after (execTallySet i n s) s
  | 4 => after (execTallyRead i n s) s
  | _ => after (tallyCommand i n (tallyAnswer i n tlRange) s) s

/-- KEY_OP (R432, R433). -/
def writeKeyOp (i : Nat) (v : Word) (s : State) : State :=
  let n := fld v 0 16
  match fld v 16 4 with
  | 1 => after (execKeyLoad i n s) s
  | 2 => after (execKeyErase i n s) s
  | 3 => after (execKeyRead i n s) s
  | _ => keyAnswer i n kyRange s

/-- QS_SHARE: the shadow of the selected queue, reserved bits too, which a commit refuses (R383); SHARE_LOCK keeps the
tenant out, and not the manager's view (R421). -/
def writeShare (i : Nat) (view : Bool) (v : Word) (s : State) : State :=
  let x := getInst s i
  if view || !bit (wd x.record 3) 24 then modQueue i (fld x.regs.qsSel 0 20) (fun q => { q with shadow := v }) s else s

/-- INST_CNT (R74). -/
def writeInstCnt (i : Nat) (v : Word) (s : State) : State :=
  modInst i (fun x => { x with missed := w1c 32 x.missed (fld v 0 32), late := w1c 32 x.late (fld v 32 32) }) s

/-- A write to a register of an instance's page, by the page itself or by the manager's view of it. -/
def writePage (i : Nat) (view : Bool) (r : PageReg) (v : Word) (s : State) : State :=
  match r with
  | .instCnt => writeInstCnt i v s
  | .qcDescAddr => modRegs i (fun x => { x with qcDesc := setFld v 0 6 0 }) s
  | .qcOp => writeQcOp i v s
  | .tblAddr => modRegs i (fun x => { x with tblAddr := setFld v 0 6 0 }) s
  | .tblWinAddr => modRegs i (fun x => { x with tblWinAddr := setFld v 0 12 0 }) s
  | .tblSync => after (execTblSync i v s) s
  | .tblRdSel => modRegs i (fun x => { x with tblRdSel := place (fld v 0 17) 0 17 }) s
  | .ligAddr => modRegs i (fun x => { x with ligAddr := setFld v 0 6 0 }) s
  | .ligOp => writeLigOp i v s
  | .qsSel => modRegs i (fun x => { x with qsSel := place (fld v 0 20) 0 20 }) s
  | .qsShare => writeShare i view v s
  | .qsCommit => if bit v 0 then after (execQsCommit i s) s else s
  | .modSel => modRegs i (fun x => { x with modSel := place (fld v 0 20) 0 20 }) s
  | .modCfg => modQueue i (fld (getInst s i).regs.modSel 0 20) (fun q => { q with modCfg := place (fld v 0 32) 0 32 }) s
  | .tallyValue => modRegs i (fun x => { x with tallyValue := v }) s
  | .tallyOp => writeTallyOp i v s
  | .collSel => modRegs i (fun x => { x with collSel := place (fld v 0 16) 0 16 }) s
  | .keyData k => modRegs i (fun x => { x with keyData := modAt x.keyData k.val fun _ => v }) s
  | .keyParam => modRegs i (fun x => { x with keyParam := setFld x.keyParam 0 34 (fld v 0 34) }) s
  | .keyCtr => modRegs i (fun x => { x with keyCtr := v }) s
  | .keyOp => writeKeyOp i v s
  | .instInfo | .tickNowCopy | .subtickCopy | .qcStatus | .qcResult0 | .qcResult1 | .tblStatus | .tblRdData _ => s
  | .ligStatus | .ligRead | .qsLive | .qsStat | .qsStatus | .modStat | .tallyStatus | .collInfo _ | .keyStatus => s

/-! ### Shadows (R80) -/

/-- The offset of an SH field written while a tick-group commit is sealed (R82). -/
def noteShadow (off : Nat) (q : Quoin) : Quoin :=
  { q with commit := q.commit.map fun c => { c with since := addNew c.since off } }

/-- A write of a tick-group register lands in its shadow. -/
def shadowTick (off : Nat) (f : TickRegs → TickRegs) (s : State) : State :=
  modQuoin (fun q => noteShadow off { q with tickShadow := f q.tickShadow }) s

/-- A write of a commit-now register lands in its shadow. -/
def shadowNow (off : Nat) (f : NowRegs → NowRegs) (s : State) : State :=
  modQuoin (fun q => noteShadow off { q with nowShadow := f q.nowShadow }) s

/-! ### BAR0 (R501) -/

/-- BOOT_GO (R483 to R493): a KIND of no image gives RANGE. -/
def writeBootGo (v : Word) (s : State) : State :=
  match fld v 0 3 with
  | 1 => after (execBootFirmware s) s
  | 2 => after (execBootForme s) s
  | 3 => after (execBootCertChain s) s
  | 4 => after (execBootPlates s) s
  | 5 => after (execBootDiscard s) s
  | _ => if s.boot.busy then goResult btBusy s else goResult btRange s

/-- TICK_CTRL: ARM arms or stops the generator (R58). -/
def writeTickCtrl (v : Word) (s : State) : State :=
  let s1 := modTime (fun t => { t with tickCtrl := setFld (setFld t.tickCtrl 1 2 (fld v 1 2)) 8 8 (fld v 8 8) }) s
  if bit v 0 then after (execTickArm s1) s1 else after (execTickDisarm s1) s1

/-- TICK_SLIP: MAX_SLIP and OVERRUNS; OVERRUNS cleared lets the note of R72 be latched again. -/
def writeTickSlip (v : Word) (s : State) : State :=
  modTime (fun t =>
    let n := w1c 16 t.overruns (fld v 48 16)
    { t with maxSlip := w1c 24 t.maxSlip (fld v 24 24), overruns := n, overrunNoted := t.overrunNoted && decide (n ≠ 0) }) s

/-- QUOIN_COMMIT: CANCEL first, then COMMIT, then NOW (R82). -/
def writeQuoin (v : Word) (s : State) : State :=
  let s1 := when_ (bit v 3) cancelCommit s
  let s2 := when_ (bit v 0) (commitTick (if bit v 2 then some (fld v 32 32) else none)) s1
  when_ (bit v 1) commitNow s2

/-- CMP_CTRL: FIRED is cleared by writing 1 (R478). -/
def writeCmpCtrl (v : Word) (c : Comparator) : Comparator :=
  let fired := bit c.ctrl 4 && !bit v 4
  { c with ctrl := place (fld v 0 4) 0 4 ||| placeBit fired 4 ||| place (fld v 32 11) 32 11 }

/-- MEM_ERR of a tier (R150). -/
def writeMemErr (t : Tier) (v : Word) (s : State) : State :=
  modTier t (fun x => { x with
    ceCount := w1c 24 x.ceCount (fld v 0 24), ueCount := w1c 16 x.ueCount (fld v 24 16)
    twinCount := w1c 8 x.twinCount (fld v 40 8) }) s

/-- GALLEY_CFL_CTRL (R179). -/
def writeCflCtrl (v : Word) (s : State) : State :=
  modGalley (fun g => { g with conflicts := if bit v 0 then [] else g.conflicts, cflFreeze := bit v 1 }) s

/-- ROUTE_LOAD (R321): OP 0 writes its fields alone, OP 3 gives RANGE. -/
def writeRoute (v : Word) (s : State) : State :=
  match fld v 18 2 with
  | 0 => writeRouteLoad v s
  | 1 => after (execRouteLoad v s) s
  | 2 => after (execRouteReady v s) s
  | _ => routeAnswer rtRange (writeRouteLoad v s)

/-- ROCE_CONN_OP (R354). -/
def writeRoceOp (v : Word) (s : State) : State :=
  match fld v 14 2 with
  | 1 => after (execRoceConnLoad (fld v 0 14) s) s
  | 2 => after (execRoceConnClear (fld v 0 14) s) s
  | _ => roceAnswer 2 s

/-- MGMT_CTRL (R370). -/
def writeMgmtCtrl (v : Word) (s : State) : State :=
  let w := setFld (place (fld v 0 40) 0 40) 1 7 0
  modEther (fun e => { e with mgmtCtrl := w, plcaActive := plcaOn w }) s

/-- Counters of a port (12_fabric_cells_routing.md, 14_ethernet_management.md). -/
def writePortErr (v : Word) (p : Port) : Port :=
  { p with replayed := w1c 32 p.replayed (fld v 0 32), ucw := w1c 16 p.ucw (fld v 32 16)
           laneFaults := w1c 8 p.laneFaults (fld v 48 8) }
def writePortDrop (v : Word) (p : Port) : Port :=
  { p with epochDrop := w1c 24 p.epochDrop (fld v 0 24), noRoute := w1c 20 p.noRoute (fld v 24 20)
           hopLimit := w1c 16 p.hopLimit (fld v 44 16) }
def writeEthCtrl (v : Word) (p : Port) : Port :=
  { p with ethCtrl := place (fld v 0 2) 0 2 ||| place (fld v 8 8) 8 8 ||| place (fld v 16 14) 16 14 }
def writeEthErr (v : Word) (p : Port) : Port :=
  { p with fcsErr := w1c 16 p.fcsErr (fld v 0 16), csumErr := w1c 16 p.csumErr (fld v 16 16)
           flawedDrop := w1c 16 p.flawedDrop (fld v 32 16), rawFull := w1c 16 p.rawFull (fld v 48 16) }
def writeEthDrop (v : Word) (p : Port) : Port :=
  { p with notMine := w1c 16 p.notMine (fld v 0 16), roceDrop := w1c 16 p.roceDrop (fld v 16 16)
           pfcWd := w1c 16 p.pfcWd (fld v 32 16) }

/-- Counters of a hatch (16_hatches.md). -/
def writeHatchErr (v : Word) (h : Hatch) : Hatch :=
  { h with cplTimeout := w1c 16 h.cplTimeout (fld v 0 16), cplAbort := w1c 16 h.cplAbort (fld v 16 16)
           poisoned := w1c 16 h.poisoned (fld v 32 16), atsFault := w1c 16 h.atsFault (fld v 48 16) }

/-- FEV_STATUS (R449). -/
def writeFevStatus (v : Word) (s : State) : State :=
  modFaults (fun f => { f with
    overflow := f.overflow && !bit v 16, suppressed := w1c 15 f.suppressed (fld v 17 15), lost := w1c 32 f.lost (fld v 32 32) }) s

/-- POWER_CTRL (R475): the waiting times, then REQ; 0 and 3 give RANGE. -/
def writePowerCtrl (v : Word) (s : State) : State :=
  let s1 := modPower (fun p => { p with ctrl := place (fld v 8 24) 8 24 }) s
  match fld v 0 2 with
  | 1 => after (execKeepRequest s1) s1
  | 2 => after (execWakeRequest s1) s1
  | _ => powerAnswer pwRange s1

/-- Counters of delivery (13_delivery_congestion.md). -/
def writeDlvRetx (v : Word) (d : Delivery) : Delivery :=
  { d with retxPkts := w1c 32 d.retxPkts (fld v 0 32), timeouts := w1c 16 d.timeouts (fld v 32 16)
           failed := w1c 16 d.failed (fld v 48 16) }
def writeDlvDrop (v : Word) (d : Delivery) : Delivery :=
  { d with dup := w1c 24 d.dup (fld v 0 24), outOfWindow := w1c 16 d.outOfWindow (fld v 24 16)
           stale := w1c 16 d.stale (fld v 40 16) }

/-- CIPHER_CNT (R444). -/
def writeCipherCnt (v : Word) (m : Misc) : Misc :=
  { m with authFails := w1c 24 m.authFails (fld v 0 24), exhausted := w1c 16 m.exhausted (fld v 24 16)
           alarmErases := w1c 8 m.alarmErases (fld v 40 8) }

/-- Change the device-wide parts without a structure of their own. -/
def modMisc (f : Misc → Misc) (s : State) : State := { s with misc := f s.misc }

/-- A write to a register of BAR0 that answers. -/
def writeBarReg (r : BarReg) (v : Word) (s : State) : State :=
  match r with
  | .bootAddr => modBoot (fun b => { b with addr := setFld v 0 12 0 }) s
  | .bootLen => modBoot (fun b => { b with len := place (fld v 0 32) 0 32 }) s
  | .bootGo => writeBootGo v s
  | .tickCtrl => writeTickCtrl v s
  | .timeCtrl => shadowNow offTimeCtrl (fun n => { n with timeCtrl := v &&& maskTimeCtrl }) s
  | .tickPeriod => shadowTick offPeriod (fun t => { t with period := v &&& maskPeriod }) s
  | .tickEpochS => shadowTick offEpochS (fun t => { t with epochS := v &&& maskEpochS }) s
  | .tickEpochNs => shadowTick offEpochNs (fun t => { t with epochNs := v &&& maskEpochNs }) s
  | .tickSlip => writeTickSlip v s
  | .quoinCommit => writeQuoin v s
  | .sweepCtrl => shadowNow offSweep (fun n => { n with sweepCtrl := v &&& maskSweep }) s
  | .schedClass => shadowTick offSchedClass (fun t => { t with schedClass := v &&& maskSchedClass }) s
  | .schedSel => shadowTick offSchedSel (fun t => { t with schedSel := v &&& maskSchedSel }) s
  | .cmpCtrl k => modComparator k.val (writeCmpCtrl v) s
  | .cmpValue k => modComparator k.val (fun c => { c with value := v }) s
  | .cmpPeriod k => modComparator k.val (fun c => { c with period := v }) s
  | .scrubCtrl => modMisc (fun m => { m with scrubCtrl := v &&& maskScrub }) s
  | .memErrShelf => writeMemErr .shelf v s
  | .memErrStore => writeMemErr .store v s
  | .memErrCellar => writeMemErr .cellar v s
  | .galleyCtrl => modGalley (fun g => { g with ctrl := v &&& maskGalley }) s
  | .galleyWinAddr => modGalley (fun g => { g with winAddr := place (fld v 3 27) 3 27 }) s
  | .galleyWinData => after (execGalleyWinWrite v false s) s
  | .galleyWinSts => modGalley (fun g => { g with winSts := place (w1c 3 (fld g.winSts 0 3) (fld v 0 3)) 0 3 }) s
  | .galleyCflCtrl => writeCflCtrl v s
  | .epSync => if bit v 6 then after (execEpBind v s) s else after (execEpSync v s) s
  | .epDescAddr => modMisc (fun m => { m with epDesc := setFld v 0 5 0 }) s
  | .lagCount => { s with collDev := { s.collDev with lagCount := w1c 64 s.collDev.lagCount v.toNat } }
  | .binStatus => { s with collDev := { s.collDev with binsDenied := w1c 32 s.collDev.binsDenied (fld v 16 32) } }
  | .routeCtrl => shadowTick offRouteCtrl (fun t => { t with routeCtrl := v &&& maskRouteCtrl }) s
  | .routeLoad => writeRoute v s
  | .routeData0 => modFabric (fun f => { f with data0 := v }) s
  | .routeData1 => after (execRouteData1Write v s) s
  | .fabNonmin => modFabric (fun f => { f with nonMin := w1c 64 f.nonMin v.toNat }) s
  | .dlvCtrl => modDlv (fun d => { d with dlvCtrl := place (fld v 0 56) 0 56 }) s
  | .ccCtrl => modDlv (fun d => { d with ccCtrl := place (fld v 0 40) 0 40 }) s
  | .dlvRetx => modDlv (writeDlvRetx v) s
  | .dlvDrop => modDlv (writeDlvDrop v) s
  | .dlvConn => modDlv (fun d => { d with rnrSent := w1c 16 d.rnrSent (fld v 48 16) }) s
  | .roceConnAddr => modEther (fun e => { e with roceAddr := setFld v 0 6 0 }) s
  | .roceConnOp => writeRoceOp v s
  | .mgmtCtrl => writeMgmtCtrl v s
  | .mgmtSts => modEther (fun e => { e with
      mgmtExcess := w1c 16 e.mgmtExcess (fld v 16 16), mgmtDrop := w1c 16 e.mgmtDrop (fld v 32 16) }) s
  | .cipherCnt => modMisc (writeCipherCnt v) s
  | .portErr p => modPort p.val (writePortErr v) s
  | .portDrop p => modPort p.val (writePortDrop v) s
  | .ethCtrl p => modPort p.val (writeEthCtrl v) s
  | .ethAddr p => modPort p.val (fun x => { x with ipv4 := fld v 0 32 }) s
  | .ethErr p => modPort p.val (writeEthErr v) s
  | .ethDrop p => modPort p.val (writeEthDrop v) s
  | .hatchCtrl h => modHatch h.val (fun x => { x with ctrl := place (fld v 0 9) 0 9 }) s
  | .hatchSts h => modHatch h.val (fun x => { x with downs := w1c 16 x.downs (fld v 16 16) }) s
  | .hatchErr h => modHatch h.val (writeHatchErr v) s
  | .ledgerAck => after (execLedgerAck (v.setWidth 16) s) s
  | .fevStatus => writeFevStatus v s
  | .fevRi => after (execFevRiWrite v s) s
  | .faultResp => shadowNow offFaultResp (fun n => { n with faultResp := v &&& maskFaultResp }) s
  | .wdogCtrl => shadowNow offWdog (fun n => { n with wdogCtrl := v &&& maskWdog }) s
  | .faultForce => after (execFaultForce (v.setWidth 16) s) s
  | .faultInject => after (execFaultInject v s) s
  | .permitCtrl => shadowNow offPermit (fun n => { n with permitCtrl := v &&& maskPermit }) s
  | .powerCtrl => writePowerCtrl v s
  | .stwReq => modSteward (fun t => { t with req := setFld v 0 6 0 }) s
  | .stwResp => modSteward (fun t => { t with resp := setFld v 0 12 0 }) s
  | .stwGo => if running s && bit v 0 then stwGo s else s
  | .instViewSel => modSteward (fun t => { t with viewSel := place (fld v 0 13) 0 13 }) s
  | .bootStatus | .tickNow | .tickSubtick | .timeStatus | .tickSkipped | .quoinStatus | .clearStatus | .galleyCfl _ => s
  | .epStatus | .lagLast | .routeStatus | .roceConnStatus | .portSts _ | .safeStatus | .permitSts | .permitTick => s
  | .permitLast | .powerSts | .ledgerFirst _ | .ledgerDetail _ | .ledgerSum _ | .fevEntry _ | .stwStatus => s

/-- Registers that answer in keeping too (R476): power, ledger, event ring, time and comparators. -/
def BarReg.wakes : BarReg → Bool
  | .powerCtrl | .powerSts | .ledgerAck | .ledgerFirst _ | .ledgerDetail _ | .ledgerSum _ | .fevStatus | .fevRi => true
  | .fevEntry _ | .tickCtrl | .timeCtrl | .tickPeriod | .tickEpochS | .tickEpochNs | .tickNow | .tickSubtick => true
  | .timeStatus | .tickSlip | .tickSkipped | .cmpCtrl _ | .cmpValue _ | .cmpPeriod _ => true
  | _ => false

/-- Whether a write to a register of BAR0 is taken (R459, R476, R479). -/
def barTakes (r : BarReg) (s : State) : Bool :=
  match r with
  | .ledgerAck | .fevRi => ledgerAnswers s
  | _ => if r.wakes then wakeAnswers s else barAnswers s

/-- A write of a page register, by the page or the view, where the page answers. -/
def writePageAt (i : Nat) (view : Bool) (off : Nat) (v : Word) (s : State) : State :=
  match pageRegAt off with
  | some r => if pageOpen s i then writePage i view r v s else s
  | none => s

/-- A write to an offset of BAR0 by the manager's function: a register, the instance view while it is enabled (R425), or
an offset whose writes are discarded (R498, R499). -/
def writeBar0 (off : Nat) (v : Word) (s : State) : State :=
  if 0x1000000 ≤ off ∧ off < 0x1010000 then
    (if bit s.steward.viewSel 12 then writePageAt (fld s.steward.viewSel 0 12) true (off - 0x1000000) v s else s)
  else
    match barRegAt off with
    | some r => if barTakes r s then writeBarReg r v s else s
    | none => s

/-! ### Configuration space (16_hatches.md, 17_instances.md) -/

/-- The bytes that a PCIe size code names: 128 × 2^code. -/
def sizeOfCode (v : Word) : Nat := 128 * 2 ^ fld v 0 3

/-- A write of a configuration field of a function. VF Enable cleared resets the virtual functions (R416); ATS disabled
discards the function's translations (R397). -/
def writeConfig (f : Fn) (field : CfgField) (v : Word) (s : State) : State :=
  let on := bit v 0
  match field with
  | .memorySpaceEnable => modFn f (fun c => { c with memSpace := on }) s
  | .busMasterEnable => modFn f (fun c => { c with busMaster := on }) s
  | .atsEnable =>
    let s1 := modFn f (fun c => { c with ats := on }) s
    if on then s1 else modHatch f.hatch (fun h => { h with atc := h.atc.filter fun t => t.1 != f }) s1
  | .relaxedOrdering => modFn f (fun c => { c with relaxed := on }) s
  | .pmeEnable => modFn f (fun c => { c with pmeEn := on }) s
  | .pmeStatus => modFn f (fun c => { c with pmeStatus := c.pmeStatus && !on }) s
  | .vfEnable =>
    if on then (if f.vf = 0 then modFn f (fun c => { c with vfEnable := true }) s else s) else vfEnableClear f.hatch f.pf s
  | .msixEnable =>
    let s1 := modFn f (fun c => { c with msixEn := on }) s
    if on then flushPending f s1 else s1
  | .msixFunctionMask => if on then modFn f (fun c => { c with msixMask := true }) s else unmask f none s
  | .msixEntryMask e => if on then modFn f (fun c => { c with unmasked := c.unmasked.filter (· != e) }) s else unmask f (some e) s
  | .maxReadRequest => modFn f (fun c => { c with maxRead := sizeOfCode v }) s
  | .maxPayload => modFn f (fun c => { c with maxPayload := sizeOfCode v }) s

/-! ### The host's side (log entry 5) -/

/-- A host writes 8 bytes of its own memory. -/
def writeHostMemory (h a : Nat) (v : Word) (s : State) : State :=
  putHost h a (wordBytes v) s

/-- A host changes how its IOMMU answers a function's requests to a page; 3, both
translated, is what an unlisted page answers. -/
def writeHostMap (f : Fn) (page : Nat) (v : Word) (s : State) : State :=
  let rest := s.host.map.filter fun e => !(e.1 == f && e.2.1 == page)
  { s with host := { s.host with map := if fld v 0 4 = 3 then rest else rest ++ [(f, page, fld v 0 4)] } }

/-- REGISTER_WRITE. -/
def registerWrite (t : WriteTarget) (v : Word) (s : State) : State :=
  match t with
  | .bar0 off => writeBar0 off v s
  | .page i off => writePageAt i false off v s
  | .config f field => if configReaches s f then writeConfig f field v s else s
  | .hostMemory h a => writeHostMemory h a v s
  | .hostMap f page => writeHostMap f page v s

def execRegisterWrite (target : WriteTarget) (value : Word) (s : State) : Host.Outcome State Fault Refusal :=
  .next (registerWrite target value s)

end Sys2Proof.Machine
end

