-- ==== Sys2Proof/Machine/Tick.lean ====
section
/-! DEFINITION. The tick edge (01_architecture.md R13, R14; 03_tick.md R52, R59, R68, R72): the steps of an edge in their
order. -/
namespace Sys2Proof.Machine

/-! ### The first edge of a run (R59) -/

/-- Ticks taken before the first edge of a new run count as n0 − 1. -/
def retick (n : Int) (s : State) : State :=
  let onRun (r : Run) : Run := { r with fetchTick := n, startTick := n }
  let onQueue (q : Queue) : Queue :=
    { q with fetched := q.fetched.map (fun f => { f with tick := n }), runs := q.runs.map onRun }
  let onColl (c : Coll) : Coll := { c with openTick := n, run := c.run.map fun r => { r with startTick := n } }
  { s with
    insts := tmap s.insts fun _ x => { x with
      queues := tmap x.queues fun _ q => onQueue q, colls := tmap x.colls fun _ c => onColl c }
    collDev := { s.collDev with joins := s.collDev.joins.map fun j => { j with tick := n } } }

/-! ### Steps of R13 -/

/-- The number and time of the coming edge. -/
def comingEdge (s : State) : Option (Nat × Nat) :=
  match s.time.gen with
  | .running => some (s.time.tick + 1, nextEdge s)
  | .armed => s.time.first
  | .stopped => none

/-- Step 1: the tick number advances and TICK_OUT pulses; the program of the tick that ends has its edge. -/
def advanceTick (n t : Nat) (s : State) : State :=
  let s1 := if s.time.gen = .armed then retick ((n : Int) - 1) s else s
  let s2 := modTime (fun x => { x with gen := .running, tick := n, edge := t, first := none }) s1
  let s3 := { s2 with runs := s2.runs.map fun p => { p with endEdge := some (p.endEdge.getD t) } }
  if tickOutEn s3 then emit (.tickOut n) s3 else s3

/-- Step 2 for one instance: its sealed shares, unless a reset holds its share or they were sealed too late; its ceilings. -/
def edgeShares (n : Nat) (x : Inst) : Inst :=
  let x1 := match x.sealedShares with
    | none => x
    | some sh =>
      if x.shareHeld then qsAnswer qsDiscarded 0 (n % 2 ^ 32) x
      else if sh.notAt = some n then x
      else applyShares (n % 2 ^ 32) x
  match x1.ceilNext with
  | some c => if x1.shareHeld then x1 else { x1 with ceil := c, ceilNext := none }
  | none => x1

/-- Step 4: instances whose clearing is done get their share back. -/
def returnShares (s : State) : State :=
  each (s.insts.filter fun p => p.2.shareHeld && p.2.clearing) (fun p => returnShare p.1) s

/-- PERMIT_TICK (R470). -/
def permitTick (p : Power) : Word :=
  place (min (p.granted / 10000000000) 0xFFFFF) 0 20 ||| place p.waited 20 16 ||| place p.narrowed 36 16 |||
    place p.timeouts 52 12

/-- Step 5: PERMIT_TICK is copied and restarts. -/
def restartCounts (s : State) : State :=
  modPower (fun p => { p with last := permitTick p, granted := 0, waited := 0, narrowed := 0, timeouts := 0 }) s

/-- Step 6: the windows of the last tick are closed; each opens at its offset. -/
def closeWindows (s : State) : State :=
  modFabric (fun f => { f with ports := f.ports.map fun p => { p with openWindows := [] } }) s

/-- Step 7: the program in force begins its run behind the one before it (R68), and the contexts of the queues it names are
in the cache (R115); none in keeping (R476). -/
def beginProgram (s : State) : State :=
  let p : ProgRun := { entries := programNow s, next := 0, edge := s.time.edge, tick := s.time.tick, delay := 0,
                       lastStart := none, gates := [], asked := false, endEdge := none, waited := 0 }
  if running s then
    each p.entries (fun e t => (loadContext e.inst e.queue t).2) { s with runs := carry (s.runs.length + 1) (s.runs ++ [p]) }
  else s

/-- A planned press docket that has asked for its permit and not started leaves with its program (R60). -/
def dropAsked (x : DRef × Queue × Run × PressRun) (s : State) : State :=
  modQueue x.1.inst x.1.queue (dropRun x.2.2.1.ord) (withdrawPress x.1.inst x.1.queue x.2.2.1 s)

/-- The generator stops after an edge at which ARM reads 0 (R58): no program runs on, and no entry of one starts (R60). -/
def stopGenerator (s : State) : State :=
  modTime (fun t => { t with gen := .stopped })
    { each ((pressRuns s).filter fun x => x.2.2.1.planned && !x.2.2.1.started) dropAsked s with runs := [] }

/-- TICK_EDGE. -/
def tickEdge (s : State) : State :=
  match comingEdge s with
  | none => s
  | some (n, t) =>
    let s1 := advanceTick n t (waitPtp t s)
    let s2 := edgeCommit s1
    let s3 := { s2 with insts := tmap s2.insts fun _ x => edgeShares n x }
    let s4 := showPages (returnShares (returnPorts (completeTakeovers s3)))
    let s5 := closeWindows (restartCounts s4)
    placeAll (endRecoveries (if armBit s5 then beginProgram s5 else stopGenerator s5))

def execTickEdge (s : State) : Host.Outcome State Fault Refusal := .next (if powered s then tickEdge s else s)

end Sys2Proof.Machine
end

