-- ==== Sys2Proof/Machine/Dispatch.lean ====
section
/-! DEFINITION. One arm per command of spec/opcode_table.json: a direct call of its meaning. -/
namespace Sys2Proof.Machine

def exec (i : Instr) (s : State) : Host.Outcome State Fault Refusal :=
  match i with
  | .tickEdge => Sys2Proof.Machine.execTickEdge s
  | .programEntryStart => Sys2Proof.Machine.execProgramEntryStart s
  | .gateWindowOpen port window => Sys2Proof.Machine.execGateWindowOpen port window s
  | .gateWindowClose port window => Sys2Proof.Machine.execGateWindowClose port window s
  | .deadlineExpiry d => Sys2Proof.Machine.execDeadlineExpiry d s
  | .ppsOutPulse => Sys2Proof.Machine.execPpsOutPulse s
  | .ppsInEdge => Sys2Proof.Machine.execPpsInEdge s
  | .ptpMessageRx port m => Sys2Proof.Machine.execPtpMessageRx port m s
  | .servoHoldover => Sys2Proof.Machine.execServoHoldover s
  | .holdoverLimitExpiry => Sys2Proof.Machine.execHoldoverLimitExpiry s
  | .tickArm => Sys2Proof.Machine.execTickArm s
  | .tickDisarm => Sys2Proof.Machine.execTickDisarm s
  | .quoinCommitTick atValid atTick => Sys2Proof.Machine.execQuoinCommitTick atValid atTick s
  | .quoinCommitNow => Sys2Proof.Machine.execQuoinCommitNow s
  | .quoinCancel => Sys2Proof.Machine.execQuoinCancel s
  | .commitNowApply => Sys2Proof.Machine.execCommitNowApply s
  | .qcCreate inst queue => Sys2Proof.Machine.execQcCreate inst queue s
  | .qcDrain inst queue => Sys2Proof.Machine.execQcDrain inst queue s
  | .qcResume inst queue => Sys2Proof.Machine.execQcResume inst queue s
  | .qcDestroy inst queue => Sys2Proof.Machine.execQcDestroy inst queue s
  | .qcArm inst queue => Sys2Proof.Machine.execQcArm inst queue s
  | .qcQuery inst queue => Sys2Proof.Machine.execQcQuery inst queue s
  | .doorbell inst queue => Sys2Proof.Machine.execDoorbell inst queue s
  | .scanContinue inst queue => Sys2Proof.Machine.execScanContinue inst queue s
  | .sweepRescan inst queue => Sys2Proof.Machine.execSweepRescan inst queue s
  | .deferredScan inst queue => Sys2Proof.Machine.execDeferredScan inst queue s
  | .queueFetchError inst queue => Sys2Proof.Machine.execQueueFetchError inst queue s
  | .releaseWord inst queue value => Sys2Proof.Machine.execReleaseWord inst queue value s
  | .pendingReceiptWrite inst queue => Sys2Proof.Machine.execPendingReceiptWrite inst queue s
  | .schedulerGrant => Sys2Proof.Machine.execSchedulerGrant s
  | .wheelSlotBegin => Sys2Proof.Machine.execWheelSlotBegin s
  | .overflowSlotMove => Sys2Proof.Machine.execOverflowSlotMove s
  | .pieceFinish d => Sys2Proof.Machine.execPieceFinish d s
  | .packetEligible c => Sys2Proof.Machine.execPacketEligible c s
  | .qsCommit inst => Sys2Proof.Machine.execQsCommit inst s
  | .copy d => Sys2Proof.Machine.execCopy d s
  | .write d => Sys2Proof.Machine.execWrite d s
  | .read d => Sys2Proof.Machine.execRead d s
  | .send d => Sys2Proof.Machine.execSend d s
  | .rawSend d => Sys2Proof.Machine.execRawSend d s
  | .atomic d => Sys2Proof.Machine.execAtomic d s
  | .tileCopy d => Sys2Proof.Machine.execTileCopy d s
  | .fence d => Sys2Proof.Machine.execFence d s
  | .invalidate d => Sys2Proof.Machine.execInvalidate d s
  | .reduce d => Sys2Proof.Machine.execReduce d s
  | .transcode d => Sys2Proof.Machine.execTranscode d s
  | .gatherReduce d => Sys2Proof.Machine.execGatherReduce d s
  | .attend d => Sys2Proof.Machine.execAttend d s
  | .topk d => Sys2Proof.Machine.execTopk d s
  | .embedGather d => Sys2Proof.Machine.execEmbedGather d s
  | .collOpen d => Sys2Proof.Machine.execCollOpen d s
  | .collRun d => Sys2Proof.Machine.execCollRun d s
  | .collClose d => Sys2Proof.Machine.execCollClose d s
  | .tallyAdd d => Sys2Proof.Machine.execTallyAdd d s
  | .tallyWait d => Sys2Proof.Machine.execTallyWait d s
  | .tallyWaitPatience d => Sys2Proof.Machine.execTallyWaitPatience d s
  | .galleyAllocGrant => Sys2Proof.Machine.execGalleyAllocGrant s
  | .permitGrant => Sys2Proof.Machine.execPermitGrant s
  | .permitTimeout d => Sys2Proof.Machine.execPermitTimeout d s
  | .permitWindowEnd milliwatts => Sys2Proof.Machine.execPermitWindowEnd milliwatts s
  | .permitRelease d => Sys2Proof.Machine.execPermitRelease d s
  | .pressBlockDispatch unit => Sys2Proof.Machine.execPressBlockDispatch unit s
  | .pressBlockDone unit => Sys2Proof.Machine.execPressBlockDone unit s
  | .docketComplete d => Sys2Proof.Machine.execDocketComplete d s
  | .drainAbort d => Sys2Proof.Machine.execDrainAbort d s
  | .moderationTimeout inst queue => Sys2Proof.Machine.execModerationTimeout inst queue s
  | .msixUnmask f entry => Sys2Proof.Machine.execMsixUnmask f entry s
  | .tblSync inst value => Sys2Proof.Machine.execTblSync inst value s
  | .epSync value => Sys2Proof.Machine.execEpSync value s
  | .epBind value => Sys2Proof.Machine.execEpBind value s
  | .ligLoad inst index => Sys2Proof.Machine.execLigLoad inst index s
  | .ligClear inst index => Sys2Proof.Machine.execLigClear inst index s
  | .tallyAlloc inst index remoteOk => Sys2Proof.Machine.execTallyAlloc inst index remoteOk s
  | .tallyFree inst index => Sys2Proof.Machine.execTallyFree inst index s
  | .tallySet inst index => Sys2Proof.Machine.execTallySet inst index s
  | .tallyRead inst index => Sys2Proof.Machine.execTallyRead inst index s
  | .keyLoad inst index => Sys2Proof.Machine.execKeyLoad inst index s
  | .keyErase inst index => Sys2Proof.Machine.execKeyErase inst index s
  | .keyRead inst index => Sys2Proof.Machine.execKeyRead inst index s
  | .keySlotZeroise inst index => Sys2Proof.Machine.execKeySlotZeroise inst index s
  | .roceConnLoad index => Sys2Proof.Machine.execRoceConnLoad index s
  | .roceConnClear index => Sys2Proof.Machine.execRoceConnClear index s
  | .routeLoad value => Sys2Proof.Machine.execRouteLoad value s
  | .routeReady value => Sys2Proof.Machine.execRouteReady value s
  | .routeData1Write value => Sys2Proof.Machine.execRouteData1Write value s
  | .routeDrainExpiry => Sys2Proof.Machine.execRouteDrainExpiry s
  | .galleyWinRead met => Sys2Proof.Machine.execGalleyWinRead met s
  | .galleyWinWrite value collides => Sys2Proof.Machine.execGalleyWinWrite value collides s
  | .galleyCflClear => Sys2Proof.Machine.execGalleyCflClear s
  | .ledgerAck classes => Sys2Proof.Machine.execLedgerAck classes s
  | .fevRiWrite value => Sys2Proof.Machine.execFevRiWrite value s
  | .faultForce key => Sys2Proof.Machine.execFaultForce key s
  | .faultInject value => Sys2Proof.Machine.execFaultInject value s
  | .keepRequest => Sys2Proof.Machine.execKeepRequest s
  | .keepEntry => Sys2Proof.Machine.execKeepEntry s
  | .keepWaitExpiry => Sys2Proof.Machine.execKeepWaitExpiry s
  | .wakeRequest => Sys2Proof.Machine.execWakeRequest s
  | .idleGate => Sys2Proof.Machine.execIdleGate s
  | .pressUngate => Sys2Proof.Machine.execPressUngate s
  | .comparatorFire k => Sys2Proof.Machine.execComparatorFire k s
  | .instCreate ch => Sys2Proof.Machine.execInstCreate ch s
  | .instDestroy ch => Sys2Proof.Machine.execInstDestroy ch s
  | .instReset ch => Sys2Proof.Machine.execInstReset ch s
  | .instQuery ch => Sys2Proof.Machine.execInstQuery ch s
  | .instSet ch => Sys2Proof.Machine.execInstSet ch s
  | .keepList ch => Sys2Proof.Machine.execKeepList ch s
  | .keepClaim ch => Sys2Proof.Machine.execKeepClaim ch s
  | .keepDiscard ch => Sys2Proof.Machine.execKeepDiscard ch s
  | .resetClearing inst => Sys2Proof.Machine.execResetClearing inst s
  | .functionLevelReset f => Sys2Proof.Machine.execFunctionLevelReset f s
  | .vfEnableClear hatch pf => Sys2Proof.Machine.execVfEnableClear hatch pf s
  | .d3hotEntry f => Sys2Proof.Machine.execD3hotEntry f s
  | .d0Return f => Sys2Proof.Machine.execD0Return f s
  | .perstAssert hatch nanoseconds => Sys2Proof.Machine.execPerstAssert hatch nanoseconds s
  | .perstDeassert hatch => Sys2Proof.Machine.execPerstDeassert hatch s
  | .hotReset hatch => Sys2Proof.Machine.execHotReset hatch s
  | .hatchLinkUp hatch gen width => Sys2Proof.Machine.execHatchLinkUp hatch gen width s
  | .hatchLinkDown hatch => Sys2Proof.Machine.execHatchLinkDown hatch s
  | .heldDocketEnd d interrupted => Sys2Proof.Machine.execHeldDocketEnd d interrupted s
  | .holdLimitExpiry hatch => Sys2Proof.Machine.execHoldLimitExpiry hatch s
  | .l0pRequest hatch width => Sys2Proof.Machine.execL0pRequest hatch width s
  | .l1Wake hatch => Sys2Proof.Machine.execL1Wake hatch s
  | .atsInvalidate f page count => Sys2Proof.Machine.execAtsInvalidate f page count s
  | .cellarLinkDown hatch => Sys2Proof.Machine.execCellarLinkDown hatch s
  | .cellarLinkUp hatch => Sys2Proof.Machine.execCellarLinkUp hatch s
  | .partLoss tier part => Sys2Proof.Machine.execPartLoss tier part s
  | .scrubPass tier line primary copy => Sys2Proof.Machine.execScrubPass tier line primary copy s
  | .backgroundClear tier granule => Sys2Proof.Machine.execBackgroundClear tier granule s
  | .galleyTest word lane found column holder => Sys2Proof.Machine.execGalleyTest word lane found column holder s
  | .laneFault lane cause => Sys2Proof.Machine.execLaneFault lane cause s
  | .spareReq port lane => Sys2Proof.Machine.execSpareReq port lane s
  | .spareAck port lane => Sys2Proof.Machine.execSpareAck port lane s
  | .spareReqRepeat port => Sys2Proof.Machine.execSpareReqRepeat port s
  | .spareAckTimeout port => Sys2Proof.Machine.execSpareAckTimeout port s
  | .portRetrain port => Sys2Proof.Machine.execPortRetrain port s
  | .peerId port peerDev peerPort => Sys2Proof.Machine.execPeerId port peerDev peerPort s
  | .cellReceive port c => Sys2Proof.Machine.execCellReceive port c s
  | .retry port e => Sys2Proof.Machine.execRetry port e s
  | .retryRepeat port => Sys2Proof.Machine.execRetryRepeat port s
  | .packetRoute input vc half hopClass => Sys2Proof.Machine.execPacketRoute input vc half hopClass s
  | .staleDiscard input vc hopClass => Sys2Proof.Machine.execStaleDiscard input vc hopClass s
  | .writePacket p => Sys2Proof.Machine.execWritePacket p s
  | .sendPacket p => Sys2Proof.Machine.execSendPacket p s
  | .readReq p => Sys2Proof.Machine.execReadReq p s
  | .atomicPacket p => Sys2Proof.Machine.execAtomicPacket p s
  | .readResp p => Sys2Proof.Machine.execReadResp p s
  | .atomicResp p => Sys2Proof.Machine.execAtomicResp p s
  | .ack p => Sys2Proof.Machine.execAck p s
  | .nak p => Sys2Proof.Machine.execNak p s
  | .ackDelayExpiry c => Sys2Proof.Machine.execAckDelayExpiry c s
  | .rtoExpiry c psn => Sys2Proof.Machine.execRtoExpiry c psn s
  | .rnrResend c psn => Sys2Proof.Machine.execRnrResend c psn s
  | .connectionFail c => Sys2Proof.Machine.execConnectionFail c s
  | .rxContextExpiry c => Sys2Proof.Machine.execRxContextExpiry c s
  | .txContextExpiry c => Sys2Proof.Machine.execTxContextExpiry c s
  | .collStep p => Sys2Proof.Machine.execCollStep p s
  | .collFold p => Sys2Proof.Machine.execCollFold p s
  | .collResult p => Sys2Proof.Machine.execCollResult p s
  | .collPiece p => Sys2Proof.Machine.execCollPiece p s
  | .smallRun p => Sys2Proof.Machine.execSmallRun p s
  | .tallyAddPacket p => Sys2Proof.Machine.execTallyAddPacket p s
  | .tallyDone p => Sys2Proof.Machine.execTallyDone p s
  | .join p => Sys2Proof.Machine.execJoin p s
  | .decide p => Sys2Proof.Machine.execDecide p s
  | .ready p => Sys2Proof.Machine.execReady p s
  | .end_ p => Sys2Proof.Machine.execEnd p s
  | .close p => Sys2Proof.Machine.execClose p s
  | .queryPacket p => Sys2Proof.Machine.execQueryPacket p s
  | .queryAnswer p => Sys2Proof.Machine.execQueryAnswer p s
  | .syncAck p => Sys2Proof.Machine.execSyncAck p s
  | .joinHoldExpiry ep key srcDev srcEp => Sys2Proof.Machine.execJoinHoldExpiry ep key srcDev srcEp s
  | .coordinatorGatherTimeout inst handle => Sys2Proof.Machine.execCoordinatorGatherTimeout inst handle s
  | .collOpenTimeout inst handle => Sys2Proof.Machine.execCollOpenTimeout inst handle s
  | .collRunPatience inst handle => Sys2Proof.Machine.execCollRunPatience inst handle s
  | .laggardQueryTimeout inst handle => Sys2Proof.Machine.execLaggardQueryTimeout inst handle s
  | .frameReceive port f => Sys2Proof.Machine.execFrameReceive port f s
  | .roceSendRx port f => Sys2Proof.Machine.execRoceSendRx port f s
  | .roceWriteRx port f => Sys2Proof.Machine.execRoceWriteRx port f s
  | .roceReadRx port f => Sys2Proof.Machine.execRoceReadRx port f s
  | .roceAtomicRx port f => Sys2Proof.Machine.execRoceAtomicRx port f s
  | .roceAckRx port f => Sys2Proof.Machine.execRoceAckRx port f s
  | .roceNakRx port f => Sys2Proof.Machine.execRoceNakRx port f s
  | .roceAckTimeout index => Sys2Proof.Machine.execRoceAckTimeout index s
  | .cnpRx port f => Sys2Proof.Machine.execCnpRx port f s
  | .rawFrameRx port f => Sys2Proof.Machine.execRawFrameRx port f s
  | .pfcFrameRx port quanta => Sys2Proof.Machine.execPfcFrameRx port quanta s
  | .pfcRepeat port priority => Sys2Proof.Machine.execPfcRepeat port priority s
  | .pfcWatchdog port priority => Sys2Proof.Machine.execPfcWatchdog port priority s
  | .mgmtFrameRx f => Sys2Proof.Machine.execMgmtFrameRx f s
  | .arpRequest targetIp senderMac senderIp => Sys2Proof.Machine.execArpRequest targetIp senderMac senderIp s
  | .getVersion session => Sys2Proof.Machine.execGetVersion session s
  | .getCapabilities session request => Sys2Proof.Machine.execGetCapabilities session request s
  | .negotiateAlgorithms session request => Sys2Proof.Machine.execNegotiateAlgorithms session request s
  | .getDigests session => Sys2Proof.Machine.execGetDigests session s
  | .getCertificate session slot offset length => Sys2Proof.Machine.execGetCertificate session slot offset length s
  | .challenge session slot nonce => Sys2Proof.Machine.execChallenge session slot nonce s
  | .getMeasurements session index signed nonce => Sys2Proof.Machine.execGetMeasurements session index signed nonce s
  | .keyExchange request => Sys2Proof.Machine.execKeyExchange request s
  | .finish session requesterKey request => Sys2Proof.Machine.execFinish session requesterKey request s
  | .heartbeat session => Sys2Proof.Machine.execHeartbeat session s
  | .keyUpdate session operation => Sys2Proof.Machine.execKeyUpdate session operation s
  | .endSession session => Sys2Proof.Machine.execEndSession session s
  | .bootFirmware => Sys2Proof.Machine.execBootFirmware s
  | .bootForme => Sys2Proof.Machine.execBootForme s
  | .bootCertChain => Sys2Proof.Machine.execBootCertChain s
  | .bootPlates => Sys2Proof.Machine.execBootPlates s
  | .bootDiscard => Sys2Proof.Machine.execBootDiscard s
  | .railsValid => Sys2Proof.Machine.execRailsValid s
  | .powerOff => Sys2Proof.Machine.execPowerOff s
  | .railFault rail millivolts => Sys2Proof.Machine.execRailFault rail millivolts s
  | .tempSample celsius => Sys2Proof.Machine.execTempSample celsius s
  | .aliveToggle => Sys2Proof.Machine.execAliveToggle s
  | .watchdogServe spineOk clockOk => Sys2Proof.Machine.execWatchdogServe spineOk clockOk s
  | .watchdogExpiry => Sys2Proof.Machine.execWatchdogExpiry s
  | .watchSelfcheckFail => Sys2Proof.Machine.execWatchSelfcheckFail s
  | .ruzelMismatch pair => Sys2Proof.Machine.execRuzelMismatch pair s
  | .ruzelHeartbeatMiss pair => Sys2Proof.Machine.execRuzelHeartbeatMiss pair s
  | .pressUnitFault unit => Sys2Proof.Machine.execPressUnitFault unit s
  | .spineFlitError stop link kind => Sys2Proof.Machine.execSpineFlitError stop link kind s
  | .cipherSelfcheckFail engine => Sys2Proof.Machine.execCipherSelfcheckFail engine s
  | .registerWrite target value => Sys2Proof.Machine.execRegisterWrite target value s
  | .unimplementedOpcode d => Sys2Proof.Machine.execUnimplementedOpcode d s
  | .portTrainingDone port lanes => Sys2Proof.Machine.execPortTrainingDone port lanes s
  | .l1Entry hatch substate => Sys2Proof.Machine.execL1Entry hatch substate s
  | .hatchRecovery hatch => Sys2Proof.Machine.execHatchRecovery hatch s
  | .cellarTrainingDone hatch gtps cxlMem mebibytes => Sys2Proof.Machine.execCellarTrainingDone hatch gtps cxlMem mebibytes s
  | .tierTrainingDone moduleGib rateMts channelsMatch => Sys2Proof.Machine.execTierTrainingDone moduleGib rateMts channelsMatch s
  | .deviceKeyDerived => Sys2Proof.Machine.execDeviceKeyDerived s
  | .twinResync line => Sys2Proof.Machine.execTwinResync line s
  | .pfcPauseExpiry port priority => Sys2Proof.Machine.execPfcPauseExpiry port priority s
  | .roceReadResponseRx port f => Sys2Proof.Machine.execRoceReadResponseRx port f s
  | .roceRnrRetry index => Sys2Proof.Machine.execRoceRnrRetry index s
  | .responseRecordExpiry c entry => Sys2Proof.Machine.execResponseRecordExpiry c entry s
  | .ptpMessageSend port => Sys2Proof.Machine.execPtpMessageSend port s
  | .plcaBeaconLoss => Sys2Proof.Machine.execPlcaBeaconLoss s
  | .mgmtCollision => Sys2Proof.Machine.execMgmtCollision s

end Sys2Proof.Machine
end

