-- ==== Sys2Proof/Machine/View.lean ====
section
/-! DEFINITION. What reads return: every register of BAR0 and of an instance page, with the shadowed fields at their own
offset and their live values in the live view (03_tick.md R80; 22_register_summary.md R498 to R503), the capability pages, and
all ones where the device does not answer (R459, R476). Reads are no commands of the table, but for GALLEY_WIN_READ, which
alone has an effect. -/
namespace Sys2Proof.Machine

/-! ### Codes of states -/

def bootStateCode (s : State) : Nat :=
  match s.startup with
  | .off => 0
  | .powerOn => 0
  | .bare => 1
  | .loading => 2
  | .configuring => 3
  | .running => 4
  | .safe => 5

def servoCode : Servo → Nat
  | .free => 0
  | .acquiring => 1
  | .locked => 2
  | .holdover => 3

def genCode : Gen → Nat
  | .stopped => 0
  | .armed => 1
  | .running => 2

def bankCode : BankState → Nat
  | .idle => 0
  | .loading => 1
  | .ready => 2
  | .inForce => 3
  | .draining => 4

def portCode : PortState → Nat
  | .down => 0
  | .training => 1
  | .up => 2
  | .upSpared => 3
  | .wrongPeer => 4
  | .unused => 5

def linkCode : Link → Nat
  | .down => 0
  | .training => 1
  | .up => 2
  | .recovery => 3
  | .l1 => 4
  | .l12 => 5

def instCode : InstState → Nat
  | .absent => 0
  | .active => 1
  | .resetting => 2

/-- STATE of POWER_STS; a request that waits for quiescence is entering keeping (R475). -/
def powerCode (p : Power) : Nat :=
  match p.st with
  | .active => if p.keepSince.isSome then 2 else 0
  | .idle => if p.keepSince.isSome then 2 else 1
  | .entering => 2
  | .keeping => 3
  | .leaving => 4

/-! ### Instance page (R502) -/

def readInstInfo (i : Nat) (s : State) : Word :=
  let x := getInst s i
  place i 0 12 ||| place (instCode x.st) 12 2 |||
    placeBit (match slotOf s i with | some p => p.pfPage | none => false) 14 ||| place x.resets 32 32

/-- Words of the device copy of entry SEL (R197). -/
def readCopy (x : Inst) : List Word :=
  let sel := fld x.regs.tblRdSel 0 17
  if sel < 16 then wordsOfSeg (x.segs.getD sel Seg.empty)
  else if sel < 65536 then [0, 0, 0, 0]
  else wordsOfWin ((tget x.wins (sel - 65536)).getD Win.empty)

/-- QS_STAT (R376, R375): the selected queue's pause, its place on a wheel, its unfinished pieces and its charge. -/
def readQsStat (x : Inst) (q : Queue) : Word :=
  let paused := decide (shRate q.share = 0) || decide (shRate (ceilingOf x (shClass q.share)) = 0)
  let wheel := match q.place with | .timing _ => true | .overflow _ _ => true | _ => false
  placeBit paused 0 ||| placeBit wheel 1 ||| placeBit (decide (2 ≤ q.unfinished.length)) 2 |||
    place (min q.charged (2 ^ 40 - 1)) 8 40

/-- MOD_STAT (R409, R410); HELD_D3 only while the queue's function is in D3hot. -/
def readModStat (s : State) (i : Nat) (q : Queue) : Word :=
  place (min q.counted 65535) 0 16 ||| placeBit q.modDue.isSome 16 |||
    placeBit (q.dueWaits && (getFn s { fnOf s i with hatch := q.home }).d3) 17

/-- COLL_INFO0 to 2 show the values of the handle's last receipt (R289). -/
def readCollInfo (c : Coll) (k : Nat) : Word := wd c.info k

/-- What a register of an instance's page reads; `live` tells the live view. Write-only fields read 0. -/
def readPageReg (i : Nat) (live : Bool) (r : PageReg) (s : State) : Word :=
  let x := getInst s i
  let q := getQueue s i (fld x.regs.qsSel 0 20)
  let m := getQueue s i (fld x.regs.modSel 0 20)
  match r with
  | .instInfo => readInstInfo i s
  | .instCnt => place x.missed 0 32 ||| place x.late 32 32
  | .tickNowCopy => BitVec.ofNat 64 s.time.tick
  | .subtickCopy => place (subtick s) 0 32
  | .qcDescAddr => x.regs.qcDesc
  | .qcStatus => x.regs.qcStatus
  | .qcResult0 => x.regs.qcRes0
  | .qcResult1 => x.regs.qcRes1
  | .tblAddr => x.regs.tblAddr
  | .tblWinAddr => x.regs.tblWinAddr
  | .tblStatus => place x.regs.tblResult 4 4 ||| place x.regs.tblEntry 8 18 ||| place x.devGen 32 32
  | .tblRdSel => x.regs.tblRdSel
  | .tblRdData k => wd (readCopy x) k.val
  | .ligAddr => x.regs.ligAddr
  | .ligStatus => x.regs.ligStatus
  | .ligRead => x.regs.ligRead
  | .qsSel => x.regs.qsSel
  | .qsShare => match q with | some y => (if live then y.share else y.shadow) &&& maskShare | none => 0
  | .qsLive => match q with | some y => y.share | none => 0
  | .qsStat => match q with | some y => readQsStat x y | none => 0
  | .qsStatus => x.regs.qsStatus
  | .modSel => x.regs.modSel
  | .modCfg => match m with | some y => y.modCfg | none => 0
  | .modStat => match m with | some y => readModStat s i y | none => 0
  | .tallyValue => x.regs.tallyValue
  | .tallyStatus => x.regs.tallyStatus
  | .collSel => x.regs.collSel
  | .collInfo k => match tget x.colls (fld x.regs.collSel 0 16) with | some c => readCollInfo c k.val | none => 0
  | .keyParam => x.regs.keyParam
  | .keyCtr => x.regs.keyCtr
  | .keyStatus => x.regs.keyStatus
  | .qcOp | .tblSync | .ligOp | .qsCommit | .tallyOp | .keyData _ | .keyOp => 0

/-! ### BAR0 (R501) -/

def readBootStatus (s : State) : Word :=
  let b := s.boot
  place (bootStateCode s) 0 3 ||| placeBit b.busy 3 ||| placeBit b.firmware.isSome 4 ||| placeBit b.chain.isSome 5 |||
    placeBit b.staged.isSome 6 ||| placeBit b.stageBad 7 ||| place b.result 8 4 ||| place b.plate 12 4 |||
    place b.reason 16 8 ||| placeBit b.keptLost 24 ||| place b.starts 32 32

def readTimeStatus (t : TimeSt) : Word :=
  place (servoCode t.servo) 0 2 ||| place (genCode t.gen) 2 2 ||| place (intCode 32 t.offset) 16 32

/-- D of the running program: one that overruns its tick runs until its last entry has started (R68). -/
def runningDelay (s : State) : Nat :=
  match s.runs.head? with
  | some r => r.delay
  | none => 0

def readTickSlip (s : State) : Word :=
  place (slipOf (runningDelay s)) 0 24 ||| place s.time.maxSlip 24 24 ||| place s.time.overruns 48 16

def readQuoinStatus (q : Quoin) : Word :=
  placeBit q.commit.isSome 0 ||| place q.result 4 4 ||| place q.field 8 16 ||| place q.seq 24 8 ||| place q.appliedTick 32 32

/-- SPARES_LEFT: spare rows in the bank with the fewest (R148, R150). -/
def sparesLeast (x : TierSt) (t : Tier) : Nat :=
  if t = .cellar then 0
  else Config.fusedSpareRows (tierCode t) - x.sparesUsed.foldl (fun m p => max m p.2) 0

def readMemErr (t : Tier) (s : State) : Word :=
  let x := getTier s t
  place x.ceCount 0 24 ||| place x.ueCount 24 16 ||| place x.twinCount 40 8 ||| place (sparesLeast x t) 48 8 |||
    place x.copiesLost 56 8

/-- Granules of a range of a tier that are neither touched nor zeroed. -/
def granulesLeft (x : TierSt) (a n : Nat) : Nat :=
  n / 65536 - (x.touched.filter fun g => decide (a ≤ g * 65536) && decide (g * 65536 < a + n)).length

/-- CLEAR_STATUS (R166); nothing is done before the tiers are trained. -/
def readClearStatus (s : State) : Word :=
  let left (t : Tier) : Nat := granulesLeft (getTier s t) 0 (tierBytes s t)
  let done (h : Nat) : Bool :=
    decide (0 < (expanderAt s h).2) && granulesLeft s.cellar (expanderAt s h).1 (expanderAt s h).2 == 0
  placeBit (s.boot.tiersTrained && left .shelf == 0) 0 ||| placeBit (s.boot.tiersTrained && left .store == 0) 1 ||| placeBit (done 1) 2 ||| placeBit (done 2) 3 |||
    placeBit (done 3) 4 ||| place (ceilDiv (left .shelf + left .store + left .cellar) 16384) 16 32

def readGalleyCfl (g : Galley) (m : Nat) : Word :=
  match tget g.conflicts m with
  | some (l, n) => place l 0 40 ||| place n 40 16
  | none => 0

def readRouteStatus (f : Fabric) : Word :=
  place (bankCode f.bank0) 0 3 ||| place (bankCode f.bank1) 4 3 ||| place f.result 8 4 ||| place f.badEntry 12 16

def readDlvConn (d : Delivery) : Word :=
  place (d.tx.filter fun c => c.key.vc != 16).length 0 17 ||| place d.rx.length 17 17 ||| place d.mapsFree 34 14 |||
    place d.rnrSent 48 16

def readMgmtSts (e : Ether) : Word :=
  placeBit e.mgmtLink 0 ||| placeBit e.plcaActive 1 ||| place e.mgmtExcess 16 16 ||| place e.mgmtDrop 32 16

/-- RATE of a port in service: 1 for 100 Gb/s lanes, 2 for 200 Gb/s. -/
def portRateCode (s : State) (k : Nat) : Nat :=
  match (getPort s k).st with
  | .up | .upSpared => (match portPlate s k with | some x => if x.rate = 100 then 1 else 2 | none => 0)
  | _ => 0

def readPortSts (s : State) (k : Nat) : Word :=
  let p := getPort s k
  place (portCode p.st) 0 3 ||| place (portRateCode s k) 3 2 ||| place p.lanesUp.length 8 4 ||| place p.peerDev 16 16 |||
    place p.peerPort 32 6

/-- HELD: queues HELD on a hatch (R399). -/
def heldQueues (s : State) (h : Nat) : Nat := ((allQueues s).filter fun q => q.2.2.home == h && decide (q.2.2.st = .held)).length

def readHatchSts (s : State) (h : Nat) : Word :=
  let x := getHatch s h
  place (role s h) 0 2 ||| place (linkCode x.link) 2 3 ||| place x.gen 5 3 ||| place x.width 8 5 ||| place x.downs 16 16 |||
    place (heldQueues s h) 32 20

def readFevStatus (f : Faults) : Word :=
  place f.wi 0 9 ||| placeBit f.overflow 16 ||| place f.suppressed 17 15 ||| place f.lost 32 32

def readLedgerSum (s : State) (k : Nat) : Word :=
  let c := s.faults.ledger.getD k LedgerClass.reset
  place c.top 0 3 ||| placeBit (recovering s k) 3 ||| place c.events 8 24 ||| place c.escalations 32 16

def readPermitSts (s : State) : Word :=
  place (ceilDiv (heldMw s) 1000) 0 10 ||| place (s.power.base / 1000) 10 10 ||| place (ceilingMw s / 1000) 20 10 |||
    placeBit s.power.hot 30 ||| place s.power.tempMax 32 8

def readStwStatus (t : Steward) : Word := placeBit t.busy 0 ||| place t.seq 16 16 ||| place t.result 32 8

def readEpStatus (s : State) : Word :=
  place s.misc.epResult 4 4 ||| place (((tget s.endpoints s.misc.epLast).map (·.gen)).getD 0) 32 32

/-- What a register of BAR0 reads; `live` tells the live view. Write-only fields read 0. -/
def readBarReg (live : Bool) (r : BarReg) (s : State) : Word :=
  let t := if live then s.quoin.tick else s.quoin.tickShadow
  let n := if live then s.quoin.now else s.quoin.nowShadow
  match r with
  | .bootAddr => s.boot.addr
  | .bootLen => s.boot.len
  | .bootStatus => readBootStatus s
  | .tickCtrl => s.time.tickCtrl
  | .timeCtrl => n.timeCtrl
  | .tickPeriod => t.period
  | .tickEpochS => t.epochS
  | .tickEpochNs => t.epochNs
  | .tickNow => BitVec.ofNat 64 s.time.tick
  | .tickSubtick => place (subtick s) 0 32
  | .timeStatus => readTimeStatus s.time
  | .tickSlip => readTickSlip s
  | .tickSkipped => BitVec.ofNat 64 s.time.skipped
  | .quoinStatus => readQuoinStatus s.quoin
  | .sweepCtrl => n.sweepCtrl
  | .schedClass => t.schedClass
  | .schedSel => t.schedSel
  | .cmpCtrl k => (comparator s k.val).ctrl
  | .cmpValue k => (comparator s k.val).value
  | .cmpPeriod k => (comparator s k.val).period
  | .scrubCtrl => s.misc.scrubCtrl
  | .memErrShelf => readMemErr .shelf s
  | .memErrStore => readMemErr .store s
  | .memErrCellar => readMemErr .cellar s
  | .clearStatus => readClearStatus s
  | .galleyCtrl => s.galley.ctrl
  | .galleyWinAddr => s.galley.winAddr
  | .galleyWinData => (winFind s (winGa s)).1
  | .galleyWinSts => s.galley.winSts
  | .galleyCflCtrl => placeBit s.galley.cflFreeze 1
  | .galleyCfl m => readGalleyCfl s.galley m.val
  | .epDescAddr => s.misc.epDesc
  | .epStatus => readEpStatus s
  | .lagLast => s.collDev.lagLast
  | .lagCount => BitVec.ofNat 64 s.collDev.lagCount
  | .binStatus => place s.collDev.binsFree 0 11 ||| place s.collDev.binsDenied 16 32
  | .routeCtrl => t.routeCtrl
  | .routeLoad => s.fabric.load
  | .routeData0 => s.fabric.data0
  | .routeData1 => s.fabric.data1
  | .routeStatus => readRouteStatus s.fabric
  | .fabNonmin => BitVec.ofNat 64 s.fabric.nonMin
  | .dlvCtrl => s.dlv.dlvCtrl
  | .ccCtrl => s.dlv.ccCtrl
  | .dlvRetx => place s.dlv.retxPkts 0 32 ||| place s.dlv.timeouts 32 16 ||| place s.dlv.failed 48 16
  | .dlvDrop => place s.dlv.dup 0 24 ||| place s.dlv.outOfWindow 24 16 ||| place s.dlv.stale 40 16
  | .dlvConn => readDlvConn s.dlv
  | .roceConnAddr => s.ether.roceAddr
  | .roceConnStatus => place s.ether.roceResult 4 4
  | .mgmtCtrl => s.ether.mgmtCtrl
  | .mgmtSts => readMgmtSts s.ether
  | .cipherCnt => place s.misc.authFails 0 24 ||| place s.misc.exhausted 24 16 ||| place s.misc.alarmErases 40 8
  | .portSts p => readPortSts s p.val
  | .portErr p => place (getPort s p.val).replayed 0 32 ||| place (getPort s p.val).ucw 32 16 |||
      place (getPort s p.val).laneFaults 48 8
  | .portDrop p => place (getPort s p.val).epochDrop 0 24 ||| place (getPort s p.val).noRoute 24 20 |||
      place (getPort s p.val).hopLimit 44 16
  | .ethCtrl p => (getPort s p.val).ethCtrl
  | .ethAddr p => place (getPort s p.val).ipv4 0 32
  | .ethErr p => place (getPort s p.val).fcsErr 0 16 ||| place (getPort s p.val).csumErr 16 16 |||
      place (getPort s p.val).flawedDrop 32 16 ||| place (getPort s p.val).rawFull 48 16
  | .ethDrop p => place (getPort s p.val).notMine 0 16 ||| place (getPort s p.val).roceDrop 16 16 |||
      place (getPort s p.val).pfcWd 32 16
  | .hatchCtrl h => (getHatch s h.val).ctrl
  | .hatchSts h => readHatchSts s h.val
  | .hatchErr h => place (getHatch s h.val).cplTimeout 0 16 ||| place (getHatch s h.val).cplAbort 16 16 |||
      place (getHatch s h.val).poisoned 32 16 ||| place (getHatch s h.val).atsFault 48 16
  | .fevStatus => readFevStatus s.faults
  | .fevRi => place s.faults.ri 0 9
  | .faultResp => n.faultResp
  | .wdogCtrl => n.wdogCtrl
  | .safeStatus => s.faults.safeStatus
  | .faultInject => place s.faults.injResult 32 2
  | .permitCtrl => n.permitCtrl
  | .permitSts => readPermitSts s
  | .permitTick => permitTick s.power
  | .permitLast => s.power.last
  | .powerCtrl => setFld s.power.ctrl 0 8 0
  | .powerSts => place (powerCode s.power) 0 3 ||| place s.power.result 4 4
  | .ledgerFirst c => (s.faults.ledger.getD c.val LedgerClass.reset).first
  | .ledgerDetail c => (s.faults.ledger.getD c.val LedgerClass.reset).detail
  | .ledgerSum c => readLedgerSum s c.val
  | .fevEntry k => wd ((tget s.faults.ring (k.val / 4)).getD []) (k.val % 4)
  | .stwReq => s.steward.req
  | .stwResp => s.steward.resp
  | .stwStatus => readStwStatus s.steward
  | .instViewSel => s.steward.viewSel
  | .bootGo | .quoinCommit | .epSync | .roceConnOp | .ledgerAck | .faultForce | .stwGo => 0

/-! ### Capability pages (R25, R26, R503) -/

/-- The header of a page: its CAP_ID, version, length and the next page. -/
def capHeader (id words next : Nat) : Word :=
  place id 0 16 ||| place (Config.capVersion id) 16 8 ||| place words 24 8 ||| place next 32 32

/-- Identity page, words 1 to 3 (R1). -/
def identityPage (s : State) : List Word :=
  [place 0x0018 0 16 ||| place 0xA1 16 8 ||| place 2 24 8, 1,
   place s.plates.device 0 16 ||| place Config.macBase.toNat 16 48]

/-- ACTIVE and SPARES: as of the last edge while the generator runs, else as they are (R455, R503). -/
def shownUnits (s : State) : Nat × Nat :=
  if ticking s then s.faults.shownUnits else (unitsIn s .active, unitsIn s .spare)

/-- Device page, words 1 to 5. -/
def devicePage (s : State) : List Word :=
  [place (shownUnits s).1 0 8 ||| place (shownUnits s).2 8 8 ||| place (workingBytes s / 1048576) 16 16 |||
     place (queueCapacity s) 32 21 ||| place 1536 53 11,
   place s.plates.slots.length 0 13 ||| place 65536 13 17 ||| place 65536 30 17 ||| place 4096 47 16,
   place (tierBytes s .shelf / 1048576) 0 32, place (tierBytes s .store / 1048576) 0 32,
   place (tierBytes s .cellar / 1048576) 0 32]

/-- BAR2 offsets of an instance's doorbell and release areas (R497). -/
def doorbellBase (s : State) (i : Nat) : Nat :=
  match slotOf s i with
  | some x => if x.pfPage then 0x100000000 + x.page * 0x1000000 else 0x1000000
  | none => 0
def releaseBase (s : State) (i : Nat) : Nat := if (slotOf s i).isSome then doorbellBase s i + 0x800000 else 0

/-- Queue page of an instance, words 1 to 5. -/
def queuePage (i : Nat) (s : State) : List Word :=
  let r := if ticking s then (getInst s i).shown else (getInst s i).record
  [place (fld (wd r 0) 0 21) 0 21, BitVec.ofNat 64 (doorbellBase s i), BitVec.ofNat 64 (releaseBase s i),
   place (fld (wd r 0) 38 19) 0 19 ||| place (fld (wd r 1) 39 11) 19 11 ||| place (fld (wd r 1) 28 11) 30 11 |||
     place (fld (wd r 1) 0 17) 41 17,
   place (((slotOf s i).map (·.msixCount)).getD 0) 0 12]

/-- A register of a capability area, by its offset from a chain of pages: each page's offset and its words, header first. -/
def capRead (pages : List (Nat × List Word)) (off : Nat) : Word :=
  match pages.find? fun p => decide (p.1 ≤ off) && decide (off < p.1 + 8 * p.2.length) with
  | some p => wd p.2 ((off - p.1) / 8)
  | none => 0

/-- The chain of BAR0: the identity page, then the device page at the offset that the stepping chose. -/
def barCaps (s : State) : List (Nat × List Word) :=
  [(0, capHeader 1 3 (Config.capOffset 2) :: identityPage s), (Config.capOffset 2, capHeader 2 5 0 :: devicePage s)]

/-- The chain of an instance page: the identity page and the queue page. -/
def pageCaps (i : Nat) (s : State) : List (Nat × List Word) :=
  [(0, capHeader 1 3 (Config.capOffset 4) :: identityPage s), (Config.capOffset 4, capHeader 4 5 0 :: queuePage i s)]

/-! ### Reads by offset -/

/-- What a read returns where the device does not answer. -/
def noAnswer : Word := BitVec.allOnes 64

/-- A read of 8 bytes of an instance's page. -/
def readPageAt (i : Nat) (live : Bool) (off : Nat) (s : State) : Word :=
  if off < 0x1000 then capRead (pageCaps i s) off
  else match pageRegAt off with
    | some r => readPageReg i live r s
    | none => 0

def readPage (i off : Nat) (s : State) : Word := if pageOpen s i then readPageAt i false off s else noAnswer

/-- Registers that answer reads in safe state (R459). -/
def BarReg.safeReads : BarReg → Bool
  | .ledgerFirst _ | .ledgerDetail _ | .ledgerSum _ | .ledgerAck | .fevStatus | .fevRi | .fevEntry _ => true
  | .faultResp | .wdogCtrl | .safeStatus => true
  | _ => false

/-- Whether a read of a register of BAR0 is answered. -/
def barReads (r : BarReg) (s : State) : Bool :=
  if s.startup = .safe then r.safeReads else if r.wakes then wakeAnswers s else barAnswers s

/-- A read of 8 bytes at an offset of the registers of BAR0, live or not (R499). -/
def readBarAt (live : Bool) (off : Nat) (s : State) : Word :=
  if off < 0x10000 then (if barAnswers s then capRead (barCaps s) off else noAnswer)
  else if 0x1000000 ≤ off ∧ off < 0x1010000 then
    (if !running s then noAnswer
     else if bit s.steward.viewSel 12 && (slotOf s (fld s.steward.viewSel 0 12)).isSome then
       readPageAt (fld s.steward.viewSel 0 12) live (off - 0x1000000) s
     else 0)
  else match barRegAt off with
    | some r => if barReads r s then readBarReg live r s else noAnswer
    | none => if barAnswers s then 0 else noAnswer

/-- A read of 8 bytes of BAR0 by the manager's function: the registers, and the live view above them. -/
def readBar0 (off : Nat) (s : State) : Word :=
  if 0x2000000 ≤ off then readBarAt true (off - 0x2000000) s else readBarAt false off s

end Sys2Proof.Machine
end

