-- ==== Sys2Proof/WellFormed.lean ====
section
/-! DEFINITION. Well-formed commands: every number lies in the range that the manual gives its field. -/
namespace Sys2Proof

/-- A number below a bound. -/
def below (bound n : Nat) : Bool := decide (n < bound)

def instOk (i : Nat) : Bool := below 4096 i
def queueOk (q : Nat) : Bool := below 1048576 q
def portOk (p : Nat) : Bool := below 48 p
/-- A fabric port or the management port, 48. -/
def ptpPortOk (p : Nat) : Bool := below 49 p
def hatchOk (h : Nat) : Bool := below 4 h
def endpointOk (e : Nat) : Bool := below 64 e
def deviceOk (d : Nat) : Bool := below 65536 d

/-- A docket: ring slots have at most 16 bits (R87); positions in a program have no stated bound. -/
def DRef.wf (d : DRef) : Bool := instOk d.inst && queueOk d.queue

/-- Four physical functions at most, and 1,024 virtual functions of each (R413). -/
def Fn.wf (f : Fn) : Bool := hatchOk f.hatch && below 4 f.pf && below 1025 f.vf

/-- The request VC of a connection is 0 to 3, or 8 (R326); a RoCE connection stands under 16 (log entry 44). -/
def ConnKey.wf (c : ConnKey) : Bool :=
  deviceOk c.srcDev && endpointOk c.srcEp && deviceOk c.dstDev && endpointOk c.dstEp && (below 4 c.vc || c.vc == 8 || c.vc == 16)

/-- Field widths of R298, and a body that the largest packet holds (R299). -/
def Packet.wf (p : Packet) : Bool :=
  below 10 p.vc && below 8 p.hops && deviceOk p.dstDev && endpointOk p.dstEp && deviceOk p.srcDev && endpointOk p.srcEp &&
    below 256 p.ptype && below 4294967296 p.job && below 16777216 p.psn && below 256 p.load && below 2147483648 p.msgLen &&
    below 2097152 p.pidx && below 4 p.seg && below 4144 p.body.length

/-- A cell's body has 56 bytes (R296). -/
def Cell.wf (c : Cell) : Bool := c.body.length == 56 && below 54 c.lane

/-- A frame from its destination MAC to the end of the payload, without FCS: 9,212 bytes at most (R350); one that is too short
or too long for its port may arrive too, with its whole header. -/
def Frame.wf (f : Frame) : Bool := below 9213 f.bytes.length && !below 14 f.bytes.length

/-- A bus address of 64 bits. -/
def addrOk (a : Nat) : Bool := below (2 ^ 64) a

def StwChannel.wf : StwChannel → Bool
  | .mailbox => true
  | .mgmtPort _ frame => below 4097 frame.length

def CfgField.wf : CfgField → Bool
  | .msixEntryMask e => below 2048 e
  | .memorySpaceEnable | .busMasterEnable | .atsEnable | .relaxedOrdering | .pmeEnable | .pmeStatus => true
  | .vfEnable | .msixEnable | .msixFunctionMask | .maxReadRequest | .maxPayload => true

/-- BAR0 spans 64 MiB, an instance page 64 KiB (R497). -/
def WriteTarget.wf : WriteTarget → Bool
  | .bar0 off => below 67108864 off
  | .page i off => instOk i && below 65536 off
  | .config f field => f.wf && field.wf
  | .hostMemory h a => hatchOk h && below (2 ^ 64 - 7) a
  | .hostMap f p => f.wf && below (2 ^ 52) p

/-- An SPDM request and its session number. -/
def sessionOk (n : Nat) : Bool := below 4294967296 n
def sessionsOk : Option Nat → Bool
  | some n => sessionOk n
  | none => true

/-- Pause quanta by priority: each priority once. -/
def quantaOk (l : List (Nat × Nat)) : Bool :=
  l.all (fun q => below 8 q.1 && below 65536 q.2) && decide (l.map (·.1)).Nodup

/-- The check of each command. -/
def Instr.wf : Instr → Bool
  | .tickEdge | .programEntryStart | .ppsOutPulse | .ppsInEdge | .servoHoldover | .holdoverLimitExpiry => true
  | .tickArm | .tickDisarm | .quoinCommitTick _ _ | .quoinCommitNow | .quoinCancel | .commitNowApply => true
  | .gateWindowOpen p w | .gateWindowClose p w => portOk p && below 64 w
  | .deadlineExpiry d | .pieceFinish d | .copy d | .write d | .read d | .send d | .rawSend d | .atomic d => d.wf
  | .tileCopy d | .fence d | .invalidate d | .reduce d | .transcode d | .gatherReduce d | .attend d | .topk d => d.wf
  | .embedGather d | .collOpen d | .collRun d | .collClose d | .tallyAdd d | .tallyWait d | .tallyWaitPatience d => d.wf
  | .permitTimeout d | .permitRelease d | .docketComplete d | .drainAbort d | .heldDocketEnd d _ => d.wf
  | .unimplementedOpcode d => d.wf
  | .ptpMessageRx p _ | .ptpMessageSend p => ptpPortOk p
  | .qcCreate i q | .qcDrain i q | .qcResume i q | .qcDestroy i q | .qcArm i q | .qcQuery i q => instOk i && queueOk q
  | .doorbell i q | .scanContinue i q | .sweepRescan i q | .deferredScan i q | .queueFetchError i q => instOk i && queueOk q
  | .releaseWord i q _ | .pendingReceiptWrite i q | .moderationTimeout i q => instOk i && queueOk q
  | .schedulerGrant | .wheelSlotBegin | .overflowSlotMove | .galleyAllocGrant | .permitGrant => true
  | .packetEligible c | .ackDelayExpiry c | .connectionFail c | .rxContextExpiry c | .txContextExpiry c => c.wf
  | .rtoExpiry c psn | .rnrResend c psn => c.wf && below 16777216 psn
  | .responseRecordExpiry c e => c.wf && below 16 e
  | .qsCommit i | .resetClearing i => instOk i
  | .permitWindowEnd m => below 1048576 m
  | .pressBlockDispatch u | .pressBlockDone u | .pressUnitFault u => below 100 u
  | .msixUnmask f e => f.wf && (match e with | some k => below 2048 k | none => true)
  | .tblSync i _ => instOk i
  | .epSync _ | .epBind _ | .routeLoad _ | .routeReady _ | .routeData1Write _ | .routeDrainExpiry => true
  | .ligLoad i n | .ligClear i n | .keyLoad i n | .keyErase i n | .keyRead i n | .keySlotZeroise i n =>
    instOk i && below 65536 n
  | .tallyAlloc i n _ | .tallyFree i n | .tallySet i n | .tallyRead i n => instOk i && below 262144 n
  | .roceConnLoad n | .roceConnClear n | .roceAckTimeout n | .roceRnrRetry n => below 16384 n
  | .galleyWinRead _ | .galleyWinWrite _ _ | .galleyCflClear | .ledgerAck _ | .fevRiWrite _ | .faultForce _ => true
  | .faultInject _ | .keepRequest | .keepEntry | .keepWaitExpiry | .wakeRequest | .idleGate | .pressUngate => true
  | .comparatorFire k => below 8 k
  | .instCreate c | .instDestroy c | .instReset c | .instQuery c | .instSet c => c.wf
  | .keepList c | .keepClaim c | .keepDiscard c => c.wf
  | .functionLevelReset f | .d3hotEntry f | .d0Return f => f.wf
  | .vfEnableClear h pf => hatchOk h && below 4 pf
  | .perstAssert h _ | .perstDeassert h | .hotReset h | .hatchLinkDown h | .holdLimitExpiry h => hatchOk h
  | .l1Wake h | .cellarLinkDown h | .cellarLinkUp h | .hatchRecovery h => hatchOk h
  | .hatchLinkUp h gen width => hatchOk h && below 7 gen && below 17 width
  | .l0pRequest h width => hatchOk h && below 17 width
  | .l1Entry h sub => hatchOk h && below 3 sub
  | .atsInvalidate f page count => f.wf && below (2 ^ 52) page && below (2 ^ 52 + 1) count
  | .partLoss _ part => below 12 part
  | .scrubPass _ line _ _ | .twinResync line => below (2 ^ 40) line
  | .backgroundClear _ g => below (2 ^ 30) g
  | .galleyTest word lane _ column holder =>
    below 8388608 word && below 8 lane && (match column with | some c => below 65536 c | none => true) &&
      (match holder with | some d => d.wf | none => true)
  | .laneFault lane _ => below 54 lane
  | .spareReq p l | .spareAck p l => portOk p && portOk l
  | .spareReqRepeat p | .spareAckTimeout p | .portRetrain p | .retryRepeat p => portOk p
  | .peerId p dev k => portOk p && deviceOk dev && below 64 k
  | .cellReceive p c => portOk p && c.wf
  | .retry p e => portOk p && below 1024 e
  | .packetRoute i vc _ cls => ptpPortOk i && below 10 vc && below 7 cls
  | .staleDiscard i vc cls => ptpPortOk i && below 10 vc && below 7 cls
  | .writePacket p | .sendPacket p | .readReq p | .atomicPacket p | .readResp p | .atomicResp p | .ack p | .nak p => p.wf
  | .collStep p | .collFold p | .collResult p | .collPiece p | .smallRun p | .tallyAddPacket p | .tallyDone p => p.wf
  | .join p | .decide p | .ready p | .end_ p | .close p | .queryPacket p | .queryAnswer p | .syncAck p => p.wf
  | .joinHoldExpiry ep key dev srcEp => endpointOk ep && below 4294967296 key && deviceOk dev && endpointOk srcEp
  | .coordinatorGatherTimeout i h | .collOpenTimeout i h | .collRunPatience i h | .laggardQueryTimeout i h =>
    instOk i && below 65536 h
  | .frameReceive p f | .roceSendRx p f | .roceWriteRx p f | .roceReadRx p f | .roceAtomicRx p f | .roceAckRx p f =>
    portOk p && f.wf
  | .roceNakRx p f | .cnpRx p f | .rawFrameRx p f | .roceReadResponseRx p f => portOk p && f.wf
  | .pfcFrameRx p q => portOk p && quantaOk q
  | .pfcRepeat p v | .pfcWatchdog p v | .pfcPauseExpiry p v => portOk p && below 8 v
  | .mgmtFrameRx f => f.wf
  | .arpRequest t m a => below 4294967296 t && below (2 ^ 48) m && below 4294967296 a
  | .getVersion n | .getDigests n | .getCapabilities n _ | .negotiateAlgorithms n _ => sessionsOk n
  | .getCertificate n slot off len => sessionsOk n && below 8 slot && below 65536 off && below 65536 len
  | .challenge n slot nonce => sessionsOk n && below 8 slot && nonce.length == 32
  | .getMeasurements n idx signed nonce => sessionsOk n && below 256 idx && (!signed || nonce.length == 32)
  | .keyExchange _ => true
  | .finish n _ _ | .heartbeat n | .endSession n => sessionOk n
  | .keyUpdate n op => sessionOk n && below 256 op
  | .bootFirmware | .bootForme | .bootCertChain | .bootPlates | .bootDiscard | .railsValid | .powerOff => true
  | .railFault rail _ => below 16 rail
  | .tempSample c => c.length == 16 && c.all (below 256)
  | .aliveToggle | .watchdogServe _ _ | .watchdogExpiry | .watchSelfcheckFail => true
  | .ruzelMismatch pair | .ruzelHeartbeatMiss pair => below 10 pair
  | .spineFlitError stop link kind => below 256 stop && below 256 link && below 256 kind
  | .cipherSelfcheckFail e => below 24 e
  | .registerWrite t _ => t.wf
  | .portTrainingDone p lanes => portOk p && below 9 lanes
  | .cellarTrainingDone h _ _ mib => hatchOk h && below (2 ^ 22) mib
  | .tierTrainingDone gib rate _ => below 257 gib && below 65536 rate
  | .deviceKeyDerived | .plcaBeaconLoss | .mgmtCollision => true

/-- A well-formed command. -/
abbrev Instr.WellFormed (i : Instr) : Prop := i.wf = true

end Sys2Proof
end

