-- ==== Sys2Proof/Safety.lean ====
section
/-! DEFINITION. What claims about runs say of a state: its byte memories are in canonical form, its fixed sets of parts have
the number of members that the manual gives the device, and the commands that wait are well-formed. -/
namespace Sys2Proof.Machine

/-- Every byte memory is in canonical form: addresses strictly rising, no listed zero. -/
structure State.Canonical (s : State) : Prop where
  shelf : Memory.wf s.shelf.mem = true
  store : Memory.wf s.store.mem = true
  cellar : Memory.wf s.cellar.mem = true
  galley : Memory.wf s.galley.mem = true
  hosts : s.host.mems.all Memory.wf = true

/-- Four hatches and the memories of four hosts (R387), 48 ports by their lanes (R295), 16 ledger classes (R446), 100 press
units and 10 Ruzel pairs (R455), 8 comparators (R478). -/
structure State.Fixed (s : State) : Prop where
  hatches : s.hatches.length = 4
  hosts : s.host.mems.length = 4
  ports : s.fabric.ports.length = 48
  ledger : s.faults.ledger.length = 16
  units : s.faults.units.length = 100
  pairs : s.faults.pairs.length = 10
  comparators : s.power.comparators.length = 8

/-- Every command that waits is well-formed. -/
def State.QueueOk (s : State) : Prop := ∀ c ∈ s.pending, c.WellFormed

/-- The docket of a reference is granted, no finding of R108 stands against it, its home hatch carries, and every translation
it needs is given: its opcode has its effect. -/
abbrev DocketReady (s : State) (d : DRef) (op : Nat) (q : Queue) (r : Run) : Prop :=
  openRun s d = some (q, r) ∧ running s = true ∧ r.started = true ∧ dOp (runWords q r) = op ∧
    finding s d.inst d.queue q r = none ∧ hatchBlocks s d.inst q r = false ∧ atsRefused s d.inst q r = none

/-- The same up to the findings. -/
abbrev DocketGranted (s : State) (d : DRef) (op : Nat) (q : Queue) (r : Run) : Prop :=
  openRun s d = some (q, r) ∧ running s = true ∧ r.started = true ∧ dOp (runWords q r) = op

/-- The commands that start the dockets of an opcode whose operands are no press operands, with their opcodes (R119). -/
def docketCommands (d : DRef) : List (Nat × Instr) :=
  [(opCopy, .copy d), (opWrite, .write d), (opRead, .read d), (opSend, .send d), (opAtomic, .atomic d),
   (opTileCopy, .tileCopy d), (opFence, .fence d), (opCollOpen, .collOpen d), (opCollRun, .collRun d),
   (opCollClose, .collClose d), (opTallyAdd, .tallyAdd d), (opTallyWait, .tallyWait d)]

/-- The commands that start press dockets (R233). -/
def pressCommands (d : DRef) : List (Nat × Instr) :=
  [(opReduce, .reduce d), (opTranscode, .transcode d), (opGatherReduce, .gatherReduce d), (opAttend, .attend d),
   (opTopk, .topk d), (opEmbedGather, .embedGather d)]

/-- The commands of the boot mailbox with their KINDs (R483). -/
def bootCommands : List (Nat × Instr) :=
  [(1, .bootFirmware), (2, .bootForme), (3, .bootCertChain), (4, .bootPlates), (5, .bootDiscard)]

/-- The commands of the steward with their codes (R418). -/
def stewardCommands (ch : StwChannel) : List (Nat × Instr) :=
  [(1, .instCreate ch), (2, .instDestroy ch), (3, .instReset ch), (4, .instQuery ch), (5, .instSet ch), (0x10, .keepList ch),
   (0x11, .keepClaim ch), (0x12, .keepDiscard ch)]

/-- The commands of received RoCE requests, READ responses and CNPs: the opcodes each takes, and what it does with a packet of
a known connection (R355 to R359). -/
def roceCommands (p : Nat) (f : Frame) : List (List Nat × Instr × (Nat → RoceConn → List Byte → State → State)) :=
  [(sendOps, .roceSendRx p f, fun n c bs => sequenced n c bs (roceSendIn n c bs) (roceAgain n c bs)),
   ([6, 7, 8, 9, 0x0A, 0x0B], .roceWriteRx p f, fun n c bs => sequenced n c bs (roceWriteIn n c bs) (roceAgain n c bs)),
   ([0x0C], .roceReadRx p f, fun n c bs => sequenced n c bs (roceReadIn false n c bs) (roceReadIn true n c bs)),
   ([0x13, 0x14], .roceAtomicRx p f, fun n c bs => sequenced n c bs (roceAtomicIn n c bs) (roceAtomicAgain n c bs)),
   ([0x0D, 0x0E, 0x0F, 0x10], .roceReadResponseRx p f, roceReadBack),
   ([0x81], .cnpRx p f, fun _ c _ t => modTx (roceKey t c) (rateStep t true) t)]

/-- The connection that a received RoCE packet names (R356). -/
def roceOwner (s : State) (bs : List Byte) : Option (Nat × RoceConn) :=
  s.ether.roce.find? fun c => c.2.localQpn == rxQpn bs && c.2.peerIp == ipSource bs && (c.2.valid || roceBound s c.2)

/-- A request is new at its target (R327, R328, R331): its connection has a receive context, or room for one, and its PSN lies
in the window, not placed before, with an overflow map where it needs one. -/
def requestFresh (p : Packet) (s : State) : Bool :=
  match openContext p s with
  | some t => arrivalOf t p == .fresh
  | none => false

/-- The receive context of such a request, made or renewed (R328, R329, R332). -/
def requestContext (p : Packet) (s : State) : State := takeMap p ((openContext p s).getD s)

/-- The failure of a connection ends the docket of a message UNREACHABLE, naming its rank, with TWIN_SERVED where a twin served
it; what it had begun to write is undefined (R18, R139, R343). -/
def endOwner (m : TxMsg) (s : State) : State :=
  match m.owner with
  | .docket i qi ord =>
    settle i qi ord { settledAs stUnreachable 0 (m.rank % 65536) with twin := m.twin } (undefBegun i qi ord m s)
  | _ => s

end Sys2Proof.Machine
end

