-- ==== Sys2Proof/Certificates/Slice0/Obligations.lean ====
section
/-! DEFINITION. The statements for the provers, from the numbered rules of the spec, by the families of the command table:
step and reset, the tick and its servo, the quoin, queues and scheduler, dockets of each kind, the press, programs, delivery,
tallies and collectives, tables and keys, routing and galley, faults and the watch domain, power and start-up, the steward,
hatches and functions, memory tiers, lanes and ports, frames and RoCE, the management port and SPDM, registers. -/
open Sys2Proof Sys2Proof.Machine

/-- With a command at the front of the queue, step is exec of that command on the state with the queue's rest. On an empty
queue the step answers the state with 1 ns passed, the PTP time counter at its rate, while the device has power, and the
state itself while it is off: the table has no row for time that passes alone, so this is the model's choice (log entry
2). -/
def Obligations.StepRunsFrontCommand : Prop :=
  (∀ (c : Instr) (s : State) (rest : List Instr), s.pending = c :: rest →
    step s = exec c { s with pending := rest }) ∧
  (∀ (s : State), s.pending = [] →
    step s = .next (if s.startup = .off then s else { s with
        clk := { s.clk with
            mono := s.clk.mono + 1
            ptp := ((s.clk.ptp : Int) + 1 + (s.clk.frac + s.clk.rate) / 1000000000).toNat
            frac := (s.clk.frac + s.clk.rate) % 1000000000 } }))

/-- Right after reset the registers of BAR0 whose reset value is stated and not 0 read it: TICK_CTRL (HOLDOVER_LIMIT 10),
TICK_PERIOD 40,000, SWEEP_CTRL (3, 8), SCRUB_CTRL (24, 24, 16, 2), GALLEY_CTRL 60, BIN_STATUS (1,536 free), ROUTE_CTRL,
ROUTE_STATUS, DLV_CTRL, CC_CTRL, DLV_CONN (4,096 maps free), MGMT_CTRL, ETH_CTRL (MAX_FRAME 1,522), HATCH_CTRL (10, 1),
FAULT_RESP, WDOG_CTRL 100, PERMIT_CTRL, POWER_CTRL; others read 0. No instance, endpoint, queue of commands, event or
memory byte is held, and the state has its form. The device is off before its rails are valid (the model's choice of the
point, log entry 1). -/
def Obligations.ResetHolds : Prop :=
  (∀ (p : Fin 48) (h : Fin 4),
    (∀ x ∈ ([(.tickCtrl, 0xA00), (.tickPeriod, 40000), (.sweepCtrl, 0x80003), (.scrubCtrl, 0x2101818), (.galleyCtrl,
      60), (.binStatus, 1536), (.routeCtrl, 0x1AAAA060001400), (.routeStatus, 3), (.dlvCtrl, 0x140A0882072010), (.ccCtrl,
      0x104302810), (.dlvConn, 0x400000000000), (.mgmtCtrl, 0x2008FF00), (.ethCtrl p, 0x5F20000), (.hatchCtrl h, 0x10A),
      (.faultResp, 0x102FFFF), (.wdogCtrl, 100), (.permitCtrl, 0x19000C8029E0), (.powerCtrl, 0x3E86400)] : List (BarReg ×
      Word)), readBarReg false x.1 State.reset = x.2) ∧ (∀ r ∈ ([.bootAddr, .bootLen, .timeCtrl, .tickEpochS,
      .tickEpochNs, .tickNow, .tickSubtick, .timeStatus, .tickSlip, .tickSkipped, .quoinStatus, .schedClass, .schedSel,
      .cmpCtrl 0, .cmpValue 0, .cmpPeriod 0, .galleyWinAddr, .galleyWinSts, .epDescAddr, .epStatus, .lagLast, .lagCount,
      .fabNonmin, .dlvRetx, .dlvDrop, .roceConnAddr, .roceConnStatus, .mgmtSts, .cipherCnt, .portErr p, .portDrop p,
      .ethAddr p, .ethErr p, .ethDrop p, .hatchErr h, .ledgerFirst 0, .ledgerDetail 0, .ledgerSum 0, .fevStatus,
      .safeStatus, .permitTick, .permitLast, .powerSts, .stwReq, .stwResp, .stwStatus, .instViewSel] : List BarReg),
      readBarReg false r State.reset = 0)) ∧
  (State.reset.startup = .off ∧ State.reset.pending = [] ∧ State.reset.insts = [] ∧ State.reset.endpoints = [] ∧
      State.reset.time.gen = .stopped ∧ State.reset.time.servo = .free ∧ State.reset.shelf.mem = [] ∧
      State.reset.store.mem = [] ∧ State.reset.cellar.mem = [] ∧ State.reset.galley.mem = [] ∧ State.reset.dlv.tx = [] ∧
      State.reset.dlv.rx = [] ∧ unitsIn State.reset .active = 96 ∧ unitsIn State.reset .spare = 4) ∧
  (State.reset.Canonical ∧ State.reset.Fixed ∧ State.reset.QueueOk)

/-- While TICK_CTRL answers, TICK_ARM sets ARM; a STOPPED generator becomes ARMED, and it takes its first edge at once
where the servo is LOCKED or in HOLDOVER or SOURCE is FREE_RUN: the least n for which TICK_EPOCH + n P lies after the
counter, or tick 0 at TICK_EPOCH while the counter is earlier. A generator that is not STOPPED keeps its state, so ARM
written before the edge withdraws the stop. TICK_DISARM clears ARM; an ARMED generator is STOPPED, a RUNNING one stays
RUNNING; nothing else changes. With power, a RUNNING generator and no sealed commit, takeover and returning port or share,
TICK_EDGE advances TICK by one at the edge one PERIOD after the last, waits for that time, pulses TICK_OUT when it is
enabled, copies the permit counters of the tick to PERMIT_TICK and restarts them, closes the gate windows, and leaves the
generator RUNNING exactly while ARM reads 1. Memory, hosts, fabric apart from open windows, hatches, delivery and the
other registers are unchanged; of an instance only the shown record, ceilings, sealed shares and queue places change. -/
def Obligations.TicksStart : Prop :=
  (∀ (s : State),
    wakeAnswers s = true → s.time.gen = .stopped → (s.time.servo = .locked ∨ s.time.servo = .holdover ∨ fld
      s.quoin.now.timeCtrl 0 2 = 0) →
    exec .tickArm s = .next { s with
        time := { s.time with
            tickCtrl := s.time.tickCtrl ||| 1
            gen := .armed
            first := some (if s.clk.ptp < tickEpoch s then (0, tickEpoch s) else ((s.clk.ptp - tickEpoch s) / period s +
              1, tickEpoch s + ((s.clk.ptp - tickEpoch s) / period s + 1) * period s)) } }) ∧
  (∀ (s : State),
    wakeAnswers s = true → s.time.gen = .stopped → s.time.first = none → (¬ (s.time.servo = .locked ∨ s.time.servo =
      .holdover ∨ fld s.quoin.now.timeCtrl 0 2 = 0)) →
    exec .tickArm s = .next { s with time := { s.time with tickCtrl := s.time.tickCtrl ||| 1, gen := .armed } }) ∧
  (∀ (s : State), wakeAnswers s = true → s.time.gen ≠ .stopped →
    exec .tickArm s = .next { s with time := { s.time with tickCtrl := s.time.tickCtrl ||| 1 } }) ∧
  (∀ (s : State), wakeAnswers s = true → s.time.gen = .armed →
    exec .tickDisarm s = .next
      { s with time := { s.time with tickCtrl := setFld s.time.tickCtrl 0 1 0, gen := .stopped, first := none } }) ∧
  (∀ (s : State), wakeAnswers s = true → s.time.gen ≠ .armed →
    exec .tickDisarm s = .next { s with time := { s.time with tickCtrl := setFld s.time.tickCtrl 0 1 0 } }) ∧
  (∀ (s : State),
    powered s = true → s.time.gen = .running → s.quoin.commit = none → s.faults.recoveries = [] → (∀ x ∈
      s.fabric.ports, x.returns = false) → (∀ x ∈ s.insts, x.2.shareHeld = false) →
    ∃ t, exec .tickEdge s = .next t ∧ t.time = { s.time with
        tick := s.time.tick + 1
        edge := s.time.edge + fld s.quoin.tick.period 0 20 * 1000
        first := none
        gen := if bit s.time.tickCtrl 0 then .running else .stopped } ∧ t.clk = (waitPtp (s.time.edge + fld
      s.quoin.tick.period 0 20 * 1000) s).clk ∧ t.clk.ptp = max s.clk.ptp (s.time.edge + fld s.quoin.tick.period 0 20 *
      1000) ∧ t.out = s.out ++ (if bit s.time.tickCtrl 1 then [.tickOut (s.time.tick + 1)] else []) ∧ (t.power.last =
      permitTick s.power ∧ t.power.granted = 0 ∧ t.power.waited = 0 ∧ t.power.narrowed = 0 ∧ t.power.timeouts = 0) ∧
      t.fabric = { s.fabric with ports := s.fabric.ports.map fun p => { p with openWindows := [] } } ∧ (bit
      s.time.tickCtrl 0 = false → t.runs = []) ∧ (bit s.time.tickCtrl 0 = true → t.galley = s.galley ∧ t.power =
      { s.power with last := permitTick s.power, granted := 0, waited := 0, narrowed := 0, timeouts := 0 }) ∧ t =
      { s with
        time := t.time
        clk := t.clk
        out := t.out
        power := t.power
        fabric := t.fabric
        runs := t.runs
        insts := t.insts
        sched := t.sched
        galley := { s.galley with free := t.galley.free }
        faults := { s.faults with shownUnits := (activeUnits s, unitsIn s .spare) } })

/-- While the generator runs, GATE_WINDOW_OPEN of a window of the gate list in force waits for its offset from the edge
and adds it to the open windows of its port, and GATE_WINDOW_CLOSE waits for its end, at the latest the next edge, and
removes it. A window of LENGTH 0 never opens. Only the clocks and that port's open windows change (on a port with no frame
to send). -/
def Obligations.GateWindowsOpenAndClose : Prop :=
  (∀ (s : State) (p k : Nat) (w : GateWindow),
    running s = true → s.time.gen = .running → (gateList s p)[k]? = some w → w.length ≠ 0 → s.time.edge + w.start * 64
      < nextEdge s → s.clk.ptp < windowEnd s w → (getPort s p).frames = [] → p < s.fabric.ports.length →
    exec (.gateWindowOpen p k) s = .next { waitPtp (s.time.edge + w.start * 64) s with
        fabric :=
          { s.fabric with ports := modAt s.fabric.ports p fun y => { y with openWindows := addNew y.openWindows k } } }) ∧
  (∀ (s : State) (p k : Nat) (w : GateWindow),
    running s = true → s.time.gen = .running → (gateList s p)[k]? = some w → k ∈ (getPort s p).openWindows →
    exec (.gateWindowClose p k) s = .next { waitPtp (windowEnd s w) s with
        fabric := { s.fabric with
            ports := modAt s.fabric.ports p fun y => { y with openWindows := y.openWindows.filter (· != k) } } }) ∧
  (∀ (s : State) (p k : Nat) (w : GateWindow),
    running s = true → s.time.gen = .running → (gateList s p)[k]? = some w → w.length = 0 → (getPort s p).frames = []
      →
    exec (.gateWindowOpen p k) s = .next s)

/-- With the servo on, an accepted PPS_IN edge or a Sync on the slave port ends a sync interval: the measured offset lies
within the timestamp error of the counter's distance from the second, or from the master's time, it is kept in OFFSET_NS,
and inRange counts the consecutive intervals within 20 ns; HOLDOVER gives way to ACQUIRING, and ACQUIRING to LOCKED at 16.
While the generator is RUNNING the counter does not step: its rate changes, so that a master that keeps its rate is met
within 8 ns at the end of the next interval, and never beyond 10 ppm; a stopped generator with an offset above 1 µs in
ACQUIRING has the counter stepped once by the offset. Only the clock, the servo and the model's count of free values
change. The timestamp error and the aim of the correction are free values within these bounds (log entries 4 and 41). -/
def Obligations.ServoMeasuresAndSlews : Prop :=
  (∀ (s : State),
    servoOn s 2 = true → s.time.gen = .running → (s.time.lastSync = none ∨ ∃ t, s.time.lastSync = some t ∧ t +
      500000000 ≤ s.clk.mono) →
    ∃ t, ∃ off aim r : Int, exec .ppsInEdge s = .next t ∧ (r = s.clk.ptp % 1000000000 ∨ r = s.clk.ptp % 1000000000 -
      1000000000) ∧ -500000000 ≤ r ∧ r < 500000000 ∧ -2 ≤ off - r ∧ off - r ≤ 2 ∧ ((s.time.lastSync = none → t.clk.rate =
      s.clk.rate) ∧ (∀ u, s.time.lastSync = some u → u < s.clk.mono → t.clk.rate = within 10000 (s.clk.rate + (aim - 2 *
      off + s.time.residual) * 1000000000 / ((s.clk.mono - u : Nat) : Int))) ∧ -8 ≤ aim ∧ aim ≤ 8) ∧ t = { s with
        freeCount := s.freeCount + 2
        clk := { s.clk with rate := t.clk.rate }
        time := { s.time with
            offset := off
            residual := off
            lastSync := some s.clk.mono
            holdSince := none
            holdLatched := false
            inRange := t.time.inRange
            servo := t.time.servo } } ∧ t.time.inRange = (if -20 ≤ off ∧ off ≤ 20 then (if s.time.servo = .holdover then 1
      else s.time.inRange + 1) else 0) ∧ t.time.servo = (if s.time.servo ≠ .locked ∧ 16 ≤ t.time.inRange then .locked else
      if s.time.servo = .holdover then .acquiring else s.time.servo)) ∧
  (∀ (s : State),
    servoOn s 2 = true → s.time.servo = .acquiring → s.time.gen = .stopped → s.time.lastSync = none → 2000 < s.clk.ptp
      % 1000000000 → s.clk.ptp % 1000000000 < 400000000 →
    ∃ t off, exec .ppsInEdge s = .next t ∧ t.time.offset = off ∧ (s.clk.ptp % 1000000000 : Int) - 2 ≤ off ∧ off ≤
      (s.clk.ptp % 1000000000 : Int) + 2 ∧ t.clk = { s.clk with ptp := (s.clk.ptp - off).toNat } ∧ t.time.servo =
      .acquiring ∧ t.time.lastSync = some s.clk.mono ∧ t = { s with
        freeCount := t.freeCount
        clk := t.clk
        time := { s.time with
            offset := off
            residual := 0
            inRange := 0
            lastSync := some s.clk.mono
            holdSince := none
            holdLatched := false } }) ∧
  (∀ (s : State) (p origin : Nat) (corr : Int),
    servoOn s 1 = true → slavePort s p = true → s.time.gen = .running →
    ∃ t, ∃ rx : Nat, ∃ off aim : Int, exec (.ptpMessageRx p (.sync origin corr)) s = .next t ∧ (s.clk.ptp : Int) -
      stampBound s p ≤ rx ∧ (rx : Int) ≤ s.clk.ptp + stampBound s p ∧ off = rx - (origin + corr) - s.time.pathDelay ∧
      ((s.time.lastSync = none → t.clk.rate = s.clk.rate) ∧ (∀ u, s.time.lastSync = some u → u < s.clk.mono → t.clk.rate =
      within 10000 (s.clk.rate + (aim - 2 * off + s.time.residual) * 1000000000 / ((s.clk.mono - u : Nat) : Int))) ∧ -8 ≤
      aim ∧ aim ≤ 8) ∧ t.time.inRange = (if -20 ≤ off ∧ off ≤ 20 then (if s.time.servo = .holdover then 1 else
      s.time.inRange + 1) else 0) ∧ (t.time.servo = .locked ↔ s.time.servo = .locked ∨ 16 ≤ t.time.inRange) ∧ t =
      { s with
        freeCount := s.freeCount + 2
        clk := { s.clk with rate := t.clk.rate }
        time := { s.time with
            offset := off
            residual := off
            syncRx := some (rx, (origin + corr).toNat)
            lastSync := some s.clk.mono
            holdSince := none
            holdLatched := false
            inRange := t.time.inRange
            servo := t.time.servo } })

/-- A Delay_Req on a master port is answered with a Delay_Resp, a Pdelay_Req on a port with a role with a Pdelay_Resp,
each with a receive time within the bound of the port's timestamp error; a port that carries cells sends its messages in
packets of VC 9, PTYPE 0xF0, any other port in frames; a Delay_Resp on the slave port gives the mean path delay; a general
message changes nothing. PTP_MESSAGE_SEND sends a one-step Sync on a master port, and a Delay_Req on the slave port whose
send time is kept. Nothing else changes but the model's count of free values. -/
def Obligations.PtpMessagesAnswered : Prop :=
  (∀ (s : State) (p req : Nat), powered s = true → ptpRoleOf s p = 2 →
    ∃ t : Nat, (s.clk.ptp : Int) - stampBound s p ≤ t ∧ (t : Int) ≤ s.clk.ptp + stampBound s p ∧ exec (.ptpMessageRx p
      (.delayReq req)) s = .next (ptpOut p (.delayResp t) { s with freeCount := s.freeCount + 1 }) ∧ exec (.ptpMessageSend
      p) s = .next (ptpOut p (.sync t 0) { s with freeCount := s.freeCount + 1 })) ∧
  (∀ (s : State) (p req : Nat), powered s = true → ptpRoleOf s p ≠ 0 →
    ∃ t : Nat, (s.clk.ptp : Int) - stampBound s p ≤ t ∧ (t : Int) ≤ s.clk.ptp + stampBound s p ∧ exec (.ptpMessageRx p
      (.pdelayReq req)) s = .next (ptpOut p (.pdelayResp t) { s with freeCount := s.freeCount + 1 })) ∧
  (∀ (s : State) (p : Nat), powered s = true → slavePort s p = true → servoOn s 1 = true →
    ∃ t : Nat, (s.clk.ptp : Int) - stampBound s p ≤ t ∧ (t : Int) ≤ s.clk.ptp + stampBound s p ∧ exec (.ptpMessageSend
      p) s = .next (ptpOut p (.delayReq s.plates.device)
      { s with freeCount := s.freeCount + 1, time := { s.time with delayTx := some t } })) ∧
  (∀ (s : State) (p t1 t2 t3 t4 : Nat),
    powered s = true → slavePort s p = true → s.time.syncRx = some (t2, t1) → s.time.delayTx = some t3 →
    exec (.ptpMessageRx p (.delayResp t4)) s = .next
      { s with time := { s.time with delayTx := none, pathDelay := ((((t2 : Int) - t1) + ((t4 : Int) - t3)) / 2).toNat } }) ∧
  (∀ (s : State) (p : Nat) (m : PtpMsg), cellPort s p = false →
    ptpOut p m s = { s with out := s.out ++ [.ptp p m] }) ∧
  (∀ (s : State) (p : Nat) (m : PtpMsg),
    cellPort s p = true → (getPort s p).linkLocal = [] → (getPort s p).linked = false → inService (getPort s p) =
      false → p < s.fabric.ports.length →
    ptpOut p m s = { s with
        freeCount := s.freeCount + 1
        fabric := { s.fabric with
            ports := modAt s.fabric.ports p fun y =>
              { y with linkLocal := y.linkLocal ++ [localPacket s 0xF0 (ptpMessage s.freeCount m)] } } }) ∧
  (∀ (s : State) (p rx : Nat),
    exec (.ptpMessageRx p .general) s = .next s ∧ exec (.ptpMessageRx p (.pdelayResp rx)) s = .next s)

/-- SERVO_HOLDOVER of a LOCKED servo (with SOURCE PPS_IN 3 s after the last edge) enters HOLDOVER, keeps the rate of the
counter, and latches a level-0 note in class TIME with OFFSET_NS; with HOLDOVER_LIMIT 0 the level-3 event follows at once,
else nothing more. HOLDOVER_LIMIT_EXPIRY, HOLDOVER_LIMIT seconds after the entry, latches the level-3 event once.
PPS_OUT_PULSE, while PPS_OUT_EN, waits for the next whole second of the counter at which no pulse left, pulses there, and
changes nothing but the clocks and the second of the last pulse. Latching itself is stated in EventsAreRecorded. -/
def Obligations.HoldoverEntered : Prop :=
  (∀ (s w : State),
    powered s = true → s.time.servo = .locked → w = (if fld s.quoin.now.timeCtrl 0 2 = 2 ∧ s.time.lastSync.isSome =
      true then waitMono (s.time.lastSync.getD 0 + 3000000000) s else s) → holdoverLimit s ≠ 0 →
    ∃ t, exec .servoHoldover s = .next t ∧ t = latch (event 9 1 0 0 (intCode 64 s.time.offset)) { w with
        time := { s.time with servo := .holdover, inRange := 0, holdSince := some w.clk.mono, holdLatched := false } } ∧
      w.clk.rate = s.clk.rate ∧ (∀ u, s.time.lastSync = some u → fld s.quoin.now.timeCtrl 0 2 = 2 → u + 3000000000 ≤
      w.clk.mono)) ∧
  (∀ (s w : State),
    powered s = true → s.time.servo = .locked → w = (if fld s.quoin.now.timeCtrl 0 2 = 2 ∧ s.time.lastSync.isSome =
      true then waitMono (s.time.lastSync.getD 0 + 3000000000) s else s) → holdoverLimit s = 0 →
    ∃ t v, exec .servoHoldover s = .next t ∧ v = latch (event 9 1 0 0 (intCode 64 s.time.offset)) { w with
        time := { s.time with servo := .holdover, inRange := 0, holdSince := some w.clk.mono, holdLatched := false } } ∧ t
      = latch (event 9 2 3 0 (holdoverLimit v)) { v with time := { v.time with holdLatched := true } } ∧ w.clk.rate =
      s.clk.rate) ∧
  (∀ (s : State) (t : Nat), s.time.holdSince = some t → s.time.servo = .holdover → s.time.holdLatched = false →
    exec .holdoverLimitExpiry s = .next (latch (event 9 2 3 0 (holdoverLimit s))
      { waitMono (t + holdoverLimit s * 1000000000) s with time := { s.time with holdLatched := true } })) ∧
  (∀ (s : State), powered s = true → bit s.time.tickCtrl 2 = true →
    ∃ k, (k = s.clk.ptp / 1000000000 ∧ s.clk.ptp % 1000000000 = 0 ∧ s.time.ppsSecond ≠ k ∨ k = s.clk.ptp / 1000000000 +
      1) ∧ exec .ppsOutPulse s = .next
      { waitPtp (k * 1000000000) s with time := { s.time with ppsSecond := k }, out := s.out ++ [.ppsOut k] })

/-- QUOIN_COMMIT_TICK without a pending commit seals the shadows of both groups with its AT_TICK, and one received less
than 2 µs before the next edge of a running generator, or before the known first edge of an armed one, misses that edge;
while a commit is pending it is ignored and RESULT reads BUSY. QUOIN_COMMIT_NOW seals the commit-now shadows behind those
sealed before. QUOIN_CANCEL withdraws a pending commit: nothing is applied, RESULT reads CANCELLED, FIELD 0, SEQ advances,
and every sealed field not written since the seal returns its sealed value to its shadow; without a pending commit it has
no effect. Nothing else changes. -/
def Obligations.QuoinSealsAndWithdraws : Prop :=
  (∀ (s : State) (v : Bool) (a : BitVec 32), barAnswers s = true → s.quoin.commit = none →
    exec (.quoinCommitTick v a) s = .next { s with
        quoin := { s.quoin with
            commit := some {
                tick := s.quoin.tickShadow
                now := s.quoin.nowShadow
                atTick := (if v then some a.toNat else none)
                notAt := (if s.time.gen = .running then (if nextEdge s < s.clk.ptp + 2000 then some (s.time.tick + 1)
                  else none) else if s.time.gen = .armed then s.time.first.bind (fun e => if e.2 < s.clk.ptp + 2000 then
                  some e.1 else none) else none)
                since := [] } } }) ∧
  (∀ (s : State) (v : Bool) (a : BitVec 32) (c : SealedCommit), barAnswers s = true → s.quoin.commit = some c →
    exec (.quoinCommitTick v a) s = .next
      { s with quoin := { s.quoin with result := 4, field := 0, seq := (s.quoin.seq + 1) % 256 } }) ∧
  (∀ (s : State), barAnswers s = true →
    exec .quoinCommitNow s = .next
      { s with quoin := { s.quoin with commitNow := s.quoin.commitNow ++ [s.quoin.nowShadow] } }) ∧
  (∀ (s : State) (c : SealedCommit), barAnswers s = true → s.quoin.commit = some c →
    exec .quoinCancel s = .next { s with
        quoin := { s.quoin with
            commit := none
            tickShadow := {
                period := (if c.since.contains 0x20010 then s.quoin.tickShadow.period else c.tick.period)
                epochS := (if c.since.contains 0x20018 then s.quoin.tickShadow.epochS else c.tick.epochS)
                epochNs := (if c.since.contains 0x20020 then s.quoin.tickShadow.epochNs else c.tick.epochNs)
                schedSel := (if c.since.contains 0x20070 then s.quoin.tickShadow.schedSel else c.tick.schedSel)
                schedClass := (if c.since.contains 0x20068 then s.quoin.tickShadow.schedClass else c.tick.schedClass)
                routeCtrl := (if c.since.contains 0x50000 then s.quoin.tickShadow.routeCtrl else c.tick.routeCtrl) }
            nowShadow := {
                timeCtrl := (if c.since.contains 0x20008 then s.quoin.nowShadow.timeCtrl else c.now.timeCtrl)
                sweepCtrl := (if c.since.contains 0x20060 then s.quoin.nowShadow.sweepCtrl else c.now.sweepCtrl)
                permitCtrl := (if c.since.contains 0x70040 then s.quoin.nowShadow.permitCtrl else c.now.permitCtrl)
                wdogCtrl := (if c.since.contains 0x70020 then s.quoin.nowShadow.wdogCtrl else c.now.wdogCtrl)
                faultResp := (if c.since.contains 0x70018 then s.quoin.nowShadow.faultResp else c.now.faultResp) }
            result := 6
            field := 0
            seq := (s.quoin.seq + 1) % 256 } }) ∧
  (∀ (s : State), s.quoin.commit = none → exec .quoinCancel s = .next s)

/-- COMMIT_NOW_APPLY judges the oldest sealed commit-now group: with a field out of range it reports RANGE and that field
and applies nothing, otherwise its registers come into force and RESULT reads APPLIED; a changed PERMIT_CTRL governs every
docket held, and a changed SOURCE sets the servo free (SOURCE 0) or, from FREE_RUN, acquiring. While the generator is not
RUNNING it judges a pending tick-group commit without AT_VALID; one with a finding is refused as a whole: no register of
either group and no plate changes, the shadows keep their values, and staged plates are dropped. At an edge that it was
not sealed too late for, a commit without AT_VALID is judged; one with AT_VALID waits while AT_TICK lies ahead and is
refused with LATE, applying nothing, once it lies behind. -/
def Obligations.QuoinChecksThenApplies : Prop :=
  (∀ (s : State) (n : NowRegs) (rest : List NowRegs) (f : Nat),
    barAnswers s = true → s.quoin.commitNow = n :: rest → nowRange n = some f →
    exec .commitNowApply s = .next
      { s with quoin := { s.quoin with commitNow := rest, result := 1, field := f / 8, seq := (s.quoin.seq + 1) % 256 } }) ∧
  (∀ (s : State) (n : NowRegs) (rest : List NowRegs),
    barAnswers s = true → s.quoin.commitNow = n :: rest → nowRange n = none → fld n.timeCtrl 0 2 = fld
      s.quoin.now.timeCtrl 0 2 →
    exec .commitNowApply s = .next { s with
        insts := (if n.permitCtrl = s.quoin.now.permitCtrl then s.insts else (rulePress (fun _ => none) s).insts)
        quoin := { s.quoin with now := n, commitNow := rest, result := 0, field := 0, seq := (s.quoin.seq + 1) % 256 } }) ∧
  (∀ (s : State) (n : NowRegs) (rest : List NowRegs),
    barAnswers s = true → s.quoin.commitNow = n :: rest → nowRange n = none → fld n.timeCtrl 0 2 ≠ fld
      s.quoin.now.timeCtrl 0 2 →
    ∃ t, exec .commitNowApply s = .next t ∧ t.quoin =
      { s.quoin with now := n, commitNow := rest, result := 0, field := 0, seq := (s.quoin.seq + 1) % 256 } ∧ (fld
      n.timeCtrl 0 2 = 0 → t.time.servo = .free ∧ t.clk.rate = 0) ∧ (fld n.timeCtrl 0 2 ≠ 0 → s.time.servo = .free →
      t.time.servo = .acquiring ∧ t.time.lastSync = none) ∧ (fld n.timeCtrl 0 2 ≠ 0 → s.time.servo ≠ .free → t.time =
      s.time)) ∧
  (∀ (s : State) (c : SealedCommit) (r f : Nat),
    barAnswers s = true → s.quoin.commitNow = [] → s.quoin.commit = some c → s.time.gen ≠ .running → c.atTick = none →
      tickFinding s false (stagedTick s.boot.staged c.tick) (stagedNow s.boot.staged c.now) = some (r, f) →
    exec .commitNowApply s = .next { s with
        boot := { s.boot with staged := none }
        quoin := { s.quoin with
            commit := none
            appliedTick := s.time.tick % 2 ^ 32
            result := r
            field := f / 8
            seq := (s.quoin.seq + 1) % 256 } }) ∧
  (∀ (s : State) (c : SealedCommit), s.quoin.commit = some c → c.notAt ≠ some s.time.tick →
    (∀ a, c.atTick = some a → 0 < (s.time.tick % 2 ^ 32 + 2 ^ 32 - a) % 2 ^ 32 → (s.time.tick % 2 ^ 32 + 2 ^ 32 - a) % 2
      ^ 32 < 2 ^ 31 → (edgeCommit s).quoin = { s.quoin with
        commit := none
        appliedTick := s.time.tick % 2 ^ 32
        result := 3
        field := 0
        seq := (s.quoin.seq + 1) % 256 }) ∧ (∀ a, c.atTick = some a → 2 ^ 31 ≤ (s.time.tick % 2 ^ 32 + 2 ^ 32 - a) % 2 ^
      32 → edgeCommit s = s) ∧ (c.atTick = none → edgeCommit s = judgeCommit c s))

/-- Judging any sealed tick-group commit whose PERIOD_US, a whole number of microseconds, lies outside 250 to 1,000,000
refuses it in every state: RESULT reads RANGE and no register of the tick group or of the commit-now group changes. -/
def Obligations.PeriodOutOfRangeRefused : Prop :=
  ∀ (s : State) (c : SealedCommit), (fld c.tick.period 0 20 < 250 ∨ 1000000 < fld c.tick.period 0 20) →
    (judgeCommit c s).quoin.tick = s.quoin.tick ∧ (judgeCommit c s).quoin.now = s.quoin.now ∧ (judgeCommit c
      s).quoin.result = 1 ∧ (judgeCommit c s).plates = s.plates

/-- On a page that answers, CREATE of a descriptor without a finding makes the queue ACTIVE with all indices 0, its home
the hatch of its page, and answers OK; a finding is answered and creates nothing. DRAIN of an ACTIVE or ERROR queue stops
its fetching: DRAINING, or STOPPED at once when nothing is outstanding; in broadsheet it answers UNSUPPORTED. DESTROY
removes a STOPPED or an idle ACTIVE queue, answers BUSY for one that is not idle and STATE in the other states. QUERY
fills QC_RESULT0 and 1. DRAIN, DESTROY and QUERY of an absent queue are as R86 and R90 give. Only that queue and the QC
registers of its instance change, beside what the descriptor's read itself does. -/
def Obligations.QueueCommandsAnswer : Prop :=
  (∀ (s s1 : State) (i qi : Nat) (g : Seg) (r : MemRead),
    pageOpen s i = true → qi < 1048576 → (getInst s i).st ≠ .resetting → findSeg (getInst s i).segs ((getInst s
      i).regs.qcDesc.toNat / 64 * 64) 64 true false = some g → g.kind < 4 → readSeg i g ((getInst s i).regs.qcDesc.toNat
      / 64 * 64) 64 s = (r, s1) → r.fail = none → r.events = [] →
    (createFinding s1 i qi (wordsOf r.bytes 8) = none → exec (.qcCreate i qi) s = .next (qcAnswer i qi 0 (modInst i (fun
      y => { y with
        queues := tset y.queues qi (newQueue (descOf (wordsOf r.bytes 8)) (fnOf s i).hatch (wd (wordsOf r.bytes 8) 3)) })
      s1))) ∧ (∀ f, createFinding s1 i qi (wordsOf r.bytes 8) = some f → exec (.qcCreate i qi) s = .next (qcAnswer i qi f
      s1))) ∧
  (∀ (s : State) (i qi : Nat) (q : Queue),
    pageOpen s i = true → qi < 1048576 → getQueue s i qi = some q → (q.st = .active ∨ q.st = .error) →
    (tracks s = true → exec (.qcDrain i qi) s = .next (qcAnswer i qi 0 (settleDrain i qi (modQueue i qi (fun y =>
      { y with
        st := .draining
        sweep := none
        scanWaits := false
        fetchStop := none
        place := .none
        runs := y.runs.map (reopenFence y) }) s)))) ∧ (tracks s = false → exec (.qcDrain i qi) s = .next (qcAnswer i qi 7
      s))) ∧
  (∀ (s : State) (i qi : Nat) (q : Queue),
    pageOpen s i = true → qi < 1048576 → getQueue s i qi = some q → q.st ≠ .active → q.st ≠ .error →
    exec (.qcDrain i qi) s = .next (qcAnswer i qi 6 s) ∧ exec (.qcResume i qi) s = .next (placeAll (qcAnswer i qi 6 s))) ∧
  (∀ (s : State) (i qi : Nat) (q : Queue), pageOpen s i = true → qi < 1048576 → getQueue s i qi = some q →
    exec (.qcDestroy i qi) s = .next ( if q.st = .stopped ∨ q.st = .active ∧ idleQueue i q s = true then qcAnswer i qi 0
      (modInst i (fun x => { x with queues := tdel x.queues qi }) s) else qcAnswer i qi (if q.st = .active then 1 else 6)
      s)) ∧
  (∀ (s : State) (i qi : Nat), pageOpen s i = true → qi < 1048576 →
    exec (.qcQuery i qi) s = .next (qcAnswer i qi 0 (modRegs i (fun r =>
      { r with qcRes0 := ((getQueue s i qi).map qcResult0).getD 0, qcRes1 := ((getQueue s i qi).map qcResult1).getD 0 })
      s)) ∧ (getQueue s i qi = none → exec (.qcDrain i qi) s = .next (qcAnswer i qi 5 s) ∧ exec (.qcDestroy i qi) s =
      .next (qcAnswer i qi 5 s)))

/-- RESUME of an ERROR queue empties its prefetch, sets SI back to the retired count of ERR_INDEX with its wrap, or one
past it where the slot was read, makes it ACTIVE, answers OK and scans once its context is loaded. That count and
ERR_INDEX are latched when the queue enters ERROR: the count is the one of the slot at or behind CI in the ring. ARM of a
HELD queue whose hatch is in L0 and whose function is enabled, with nothing recorded, interrupted, due or rung, gives it
back the state it was held from and answers OK; on a queue that is not HELD it answers STATE. QUEUE_FETCH_ERROR makes an
ACTIVE queue whose fetched dockets have all started enter ERROR with FETCH_ERR and ERR_INDEX and raises its interrupt. -/
def Obligations.QueueResumesAndRearms : Prop :=
  (∀ (s : State) (i qi : Nat) (q : Queue),
    pageOpen s i = true → qi < 1048576 → getQueue s i qi = some q → q.st = .error →
    exec (.qcResume i qi) s = .next (placeAll ( let t := qcAnswer i qi 0 (modQueue i qi (fun y => { y with
        st := .active
        fetched := []
        si := (y.errCount + if y.fetchErr then 0 else 1) % (2 * ringSize y)
        fetchErr := false
        fetchStop := none }) s); if (loadContext i qi t).1 then scan i qi none (modQueue i qi (fun y =>
      { y with bell := false }) (loadContext i qi t).2) else (loadContext i qi t).2))) ∧
  (∀ (q : Queue) (slot : Nat) (fetch : Bool), slot < ringSize q →
    (latchError slot fetch q).errIndex = slot % 65536 ∧ (latchError slot fetch q).fetchErr = fetch ∧ (latchError slot
      fetch q).errCount % ringSize q = slot ∧ ((latchError slot fetch q).errCount + 2 * ringSize q - q.ci % (2 * ringSize
      q)) % (2 * ringSize q) < ringSize q) ∧
  (∀ (s : State) (i qi : Nat) (q : Queue),
    pageOpen s i = true → qi < 1048576 → getQueue s i qi = some q → q.st = .held → q.record = [] → (∀ r ∈ q.runs,
      r.interrupted = false) → q.dueWaits = false → q.bell = false → q.heldFrom ≠ .draining → (getHatch s q.home).link =
      .up → (getFn s { fnOf s i with hatch := q.home }).memSpace = true → (getFn s
      { fnOf s i with hatch := q.home }).busMaster = true →
    ∃ u, exec (.qcArm i qi) s = .next (placeAll u) ∧ getQueue u i qi = some { q with st := q.heldFrom } ∧ (getInst u
      i).regs.qcStatus = resultWord 0 qi 20 ∧ (∀ j k, j ≠ i ∨ k ≠ qi → getQueue u j k = getQueue s j k) ∧ ∃ v, v =
      { s with insts := v.insts, hatches := modAt s.hatches q.home fun h => { h with armed := true } } ∧ u =
      { reclaim v with insts := u.insts }) ∧
  (∀ (s : State) (i qi : Nat) (q : Queue),
    pageOpen s i = true → qi < 1048576 → getQueue s i qi = some q → q.st ≠ .held →
    exec (.qcArm i qi) s = .next (placeAll (qcAnswer i qi 6 s))) ∧
  (∀ (s : State) (i qi slot : Nat) (q : Queue),
    getQueue s i qi = some q → q.fetchStop = some slot → q.st = .active → q.fetched = [] → (∀ r ∈ q.runs, r.started =
      true) →
    exec (.queueFetchError i qi) s = .next (raiseQueue i qi (modQueue i qi (fun y => { y with
        st := .error
        fetchErr := true
        errIndex := slot % 65536
        errCount := (y.ci + ringKey y slot) % (2 * ringSize y)
        fetchStop := none
        place := .none }) s)))

/-- A DOORBELL on an ACTIVE posted queue whose slot at SI reads OWN 0 takes nothing and begins the late-write sweep when
COUNT is not 0; on a planned, ERROR, DRAINING, STOPPED or absent queue it has no effect; on a HELD queue it is recorded. A
scan takes a slot whose OWN is 1 into the prefetch with the current tick and goes on, and stops where PREFETCHED reaches
the depth or the ring is full. SCAN_CONTINUE scans a queue whose scan stopped so, SWEEP_RESCAN scans at the time of the
next re-scan, DEFERRED_SCAN a queue with a recorded doorbell once its context is loaded. -/
def Obligations.ScansTakeOwnedSlots : Prop :=
  (∀ (s : State) (i qi : Nat) (q : Queue),
    s.startup = .running → (slotOf s i).isSome = true → getQueue s i qi = some q → (q.desc.planned = true ∨ q.st =
      .error ∨ q.st = .draining ∨ q.st = .stopped) →
    exec (.doorbell i qi) s = .next s) ∧
  (∀ (s : State) (i qi : Nat), getQueue s i qi = none → exec (.doorbell i qi) s = .next s) ∧
  (∀ (s : State) (i qi : Nat) (q : Queue),
    s.startup = .running → (slotOf s i).isSome = true → getQueue s i qi = some q → q.st = .held → q.desc.planned =
      false →
    exec (.doorbell i qi) s = .next (modQueue i qi (fun y => { y with bell := true }) (modQueue i qi endHold s))) ∧
  (∀ (s s1 : State) (i qi : Nat) (q : Queue),
    running s = true → s.power.keepSince = none → (slotOf s i).isSome = true → getQueue s i qi = some q → q.st =
      .active → q.desc.planned = false → loadContext i qi (modQueue i qi endHold s) = (true, s1) →
    exec (.doorbell i qi) s = .next (placeAll (scan i qi none (modQueue i qi (fun y => { y with bell := false }) s1)))) ∧
  (∀ (s s1 : State) (i qi n fuel : Nat) (q : Queue) (ws : List Word),
    getQueue s i qi = some q → q.fetched.length < q.desc.depth → ringDiff q q.si q.ci ≠ ringSize q → q.hold = none →
      slotTaken q (q.si % ringSize q) = false → readSlot i q s = (.owned ws, s1) →
    scanLoop i qi (fuel + 1) n s = scanLoop i qi fuel (n + 1) (modQueue i qi (fun y => { y with
        fetched := insertRing y { slot := y.si % ringSize y, words := ws, tick := tickNow s, plate := none } y.fetched
        si := (y.si + 1) % (2 * ringSize y) }) s1)) ∧
  (∀ (s s1 : State) (i qi n fuel : Nat) (q : Queue),
    getQueue s i qi = some q → q.hold = none → slotTaken q (q.si % ringSize q) = false → readSlot i q s = (.notOwned,
      s1) →
    (q.desc.depth ≤ q.fetched.length ∨ ringDiff q q.si q.ci = ringSize q → scanLoop i qi (fuel + 1) n s = (.room, n, s))
      ∧ (q.fetched.length < q.desc.depth → ringDiff q q.si q.ci ≠ ringSize q → scanLoop i qi (fuel + 1) n s = (.clear, n,
      s1))) ∧
  (∀ (s : State) (i qi : Nat) (q : Queue), getQueue s i qi = some q →
    (q.scanWaits = true → exec (.scanContinue i qi) s = .next (placeAll (scan i qi none s))) ∧ (q.scanWaits = false →
      exec (.scanContinue i qi) s = .next s) ∧ (∀ w, q.sweep = some w → exec (.sweepRescan i qi) s = .next (placeAll (scan
      i qi (some w) (waitMono w.due s)))) ∧ (q.sweep = none → exec (.sweepRescan i qi) s = .next s) ∧ (∀ s1, q.bell = true
      → mayFetch s q = true → loadContext i qi s = (true, s1) → exec (.deferredScan i qi) s = .next (placeAll (scan i qi
      none (modQueue i qi (fun y => { y with bell := false }) s1)))) ∧ (q.bell = false → exec (.deferredScan i qi) s =
      .next s)) ∧
  (∀ (s : State) (i qi : Nat) (q : Queue) (s1 : State) (n : Nat),
    getQueue s i qi = some q → mayFetch s q = true → (scanLoop i qi (ringSize q + q.desc.depth + 1) 0 (modQueue i qi
      (fun y => { y with sweep := none, scanWaits := false }) s) = (.clear, n, s1)) →
    scan i qi none s = if (if q.desc.sweepSel then q.desc.sweepCount else fld s.quoin.now.sweepCtrl 0 4) = 0 then s1
      else modQueue i qi (fun y => { y with
        sweep := some {
            count := if q.desc.sweepSel then q.desc.sweepCount else fld s.quoin.now.sweepCtrl 0 4
            left := if q.desc.sweepSel then q.desc.sweepCount else fld s.quoin.now.sweepCtrl 0 4
            spacing := fld s.quoin.now.sweepCtrl 16 8 * 250
            due := s.clk.mono + fld s.quoin.now.sweepCtrl 16 8 * 250 } }) s1)

/-- A release word whose bits above the ring are 0 and that does not pass WI becomes RI, clears BAD_RELEASE and, once a
slot is free, RECEIPT_FULL; any other sets BAD_RELEASE and leaves RI. The first waiting receipt, of a docket that never
started, is written once a slot is free and receipts flow, its OWN cleared and its slot retired, and otherwise waits on.
MODERATION_TIMEOUT of a queue whose counted receipts have an interrupt due waits for that time and raises the interrupt.
MSIX_UNMASK of an entry clears its mask and pending bit and sends the message that was pending. -/
def Obligations.ReleasesAndWaitingReceipts : Prop :=
  (∀ (s : State) (i qi : Nat) (v : Word) (q : Queue), pageOpen s i = true → getQueue s i qi = some q →
    ∃ u, exec (.releaseWord i qi v) s = .next (placeAll u) ∧ u = { s with insts := u.insts } ∧ (∀ j k, j ≠ i ∨ k ≠ qi →
      getQueue u j k = getQueue s j k) ∧ (v.toNat < 2 * ringSize q ∧ ringDiff q v.toNat q.ri ≤ ringDiff q q.wi q.ri →
      getQueue u i qi = some { q with
        ri := v.toNat
        badRelease := false
        receiptFull := q.receiptFull && !receiptRoom { q with ri := v.toNat } }) ∧ (¬ (v.toNat < 2 * ringSize q ∧ ringDiff
      q v.toNat q.ri ≤ ringDiff q q.wi q.ri) → getQueue u i qi = some { q with badRelease := true })) ∧
  (∀ (s : State) (i qi : Nat) (q : Queue) (r : Receipt) (rest : List Receipt),
    getQueue s i qi = some q → q.waiting = r :: rest →
    exec (.pendingReceiptWrite i qi) s = .next (if receiptRoom q = true ∧ receiptsFlow s i q = true then placeAll
      (settleDrain i qi (modQueue i qi (fun y => retire r.index (if y.desc.planned then y else
      { y with neverStarted := addNew y.neverStarted r.index })) (writeReceipt i qi r (clearOwn i qi r.index (modQueue i
      qi (fun y => { y with waiting := rest }) s))))) else s)) ∧
  (∀ (s : State) (i qi t : Nat) (q : Queue), getQueue s i qi = some q → q.modDue = some t →
    exec (.moderationTimeout i qi) s = .next (raiseQueue i qi (waitMono t s))) ∧
  (∀ (s : State) (f : Fn) (e : Nat), (getFn s f).pendingBits.contains e = true →
    exec (.msixUnmask f (some e)) s = .next (sendMsix f e (modFn f (fun x =>
      { x with unmasked := addNew x.unmasked e, pendingBits := x.pendingBits.filter (· != e) }) s))) ∧
  (∀ (s : State) (f : Fn) (e : Nat),
    (getFn s f).msixEn = true → (getFn s f).msixMask = false → (getFn s f).unmasked.contains e = true → (getFn s f).d3
      = false → (getHatch s f.hatch).link = .up →
    sendMsix f e s = { s with out := s.out ++ [.msix f e] })

/-- After every next piece has been placed, SCHEDULER_GRANT grants the next piece of the queue its class serves: a queue
that can be granted now, whose start tag is least among those of weight above 0, and one of weight 0 only where no weight
above 0 can be granted. The piece's charge comes off the deficit of the class. The grant of a queue's first piece takes
the fetched docket into its runs with the bindings of that moment, and moves TT to the later of TT and the grant time less
the burst, plus the time of the charge at the queue's rate; without room for its receipt the start is held back with
RECEIPT_FULL and the interrupt raised. -/
def Obligations.SchedulerServesLeastStart : Prop :=
  (∀ (s u : State) (c i qi : Nat) (d : List Nat) (q : Queue) (p : Piece),
    u = placeAll s → classNext u = some (c, d) → classChoice u c = some (i, qi, q) → nextPiece u q = some p →
    exec .schedulerGrant s = .next (placeAll (grantPiece i qi q p
      { u with sched := { u.sched with cls := c, deficit := modAt d c fun x => x - charge u i q p } })) ∧ (i, qi, q) ∈
      grantable u c ∧ (∀ x ∈ grantable u c, 0 < shWeight x.2.2.share → 0 < shWeight q.share ∧ startTag u q ≤ startTag u
      x.2.2)) ∧
  (∀ (s : State) (i qi : Nat) (q : Queue) (f : Fetched), getQueue s i qi = some q → receiptRoom q = true →
    getQueue (grantPiece i qi q (.first f) s) i qi = some { q with
        fetched := q.fetched.filter (fun g => g.slot != f.slot)
        runs := q.runs ++
          [{ newRun s i qi q f.slot f.words f.tick false (!isPress (dOp (view q.desc.v1 f.words))) with
            plate := f.plate }]
        unfinished := (if holdsPlace (dOp (view q.desc.v1 f.words)) then q.unfinished ++ [f.slot] else q.unfinished)
        tt := max q.tt (s.clk.mono * 256 - byteTime (shRate q.share) (shBurst q.share)) + byteTime (shRate q.share)
          (charge s i q (.first f))
        tag := (if 0 < shWeight q.share then max q.tag (s.sched.virtual.getD (shClass q.share) 0) + charge s i q (.first
          f) * 256 / shWeight q.share else q.tag)
        charged := satAdd 40 q.charged (charge s i q (.first f))
        place := .none } ∧ (grantPiece i qi q (.first f) s).ord = s.ord + 1) ∧
  (∀ (s : State) (i qi : Nat) (q : Queue) (f : Fetched), getQueue s i qi = some q → receiptRoom q = false →
    grantPiece i qi q (.first f) s = raiseQueue i qi (modQueue i qi (fun y =>
      { y with receiptFull := true, place := .none }) s))

/-- WHEEL_SLOT_BEGIN waits for the start of the first occupied slot of the timing wheel and makes the queues of every slot
begun by then eligible, or takes a paused one off the wheel; OVERFLOW_SLOT_MOVE does the same for the overflow wheel and
places its entries by their time. No other queue field changes. PIECE_FINISH frees the place of one granted piece of a
docket whose packets of that piece have left the device, or, of one that sends none, whose opcode has been carried out, or
that has started and is a press docket, holds no place or has pieces still to be granted. -/
def Obligations.WheelsBringQueuesBack : Prop :=
  (∀ (s : State) (n : Nat), minBy id (timingSlots s) = some n →
    ∃ t, exec .wheelSlotBegin s = .next t ∧ t.clk.mono = max s.clk.mono (n * 64) ∧ t.clk = (waitMono (n * 64) s).clk ∧
      (∀ i qi q, getQueue s i qi = some q → (∀ k, q.place = .timing k → k ≤ max n (t.clk.mono / 64) → getQueue t i qi =
      some { q with place := (if paused (getInst s i) q then .none else .eligible) }) ∧ ((∀ k, q.place = .timing k → max n
      (t.clk.mono / 64) < k) → getQueue t i qi = some q)) ∧ t =
      { s with clk := t.clk, insts := t.insts, sched := { s.sched with rounds := t.sched.rounds } }) ∧
  (∀ (s : State) (n : Nat), minBy id (overflowSlots s) = some n →
    ∃ t, exec .overflowSlotMove s = .next t ∧ t.clk.mono = max s.clk.mono (n * 262144) ∧ t.clk = (waitMono (n * 262144)
      s).clk ∧ (∀ i qi q, getQueue s i qi = some q → (∀ k et, q.place = .overflow k et → k ≤ max n (t.clk.mono / 262144) →
      getQueue t i qi = some { q with place := wheelPlace (t.clk.mono * 256) et }) ∧ ((∀ k et, q.place = .overflow k et →
      max n (t.clk.mono / 262144) < k) → getQueue t i qi = some q)) ∧ t =
      { s with clk := t.clk, insts := t.insts, sched := { s.sched with rounds := t.sched.rounds } }) ∧
  (∀ (s : State) (d : DRef) (q : Queue), getQueue s d.inst d.queue = some q →
    ∃ u, exec (.pieceFinish d) s = .next (placeAll u) ∧ u = { s with insts := u.insts } ∧ (∀ j k, j ≠ d.inst ∨ k ≠
      d.queue → getQueue u j k = getQueue s j k) ∧ getQueue u d.inst d.queue = some (if q.runs.any (fun r => r.slot ==
      d.slot && pieceDone s d.inst d.queue q r) then { q with unfinished := delFirst q.unfinished (· == d.slot) } else q))

/-- QS_COMMIT seals the shares whose shadow differs from the share in force and shows PENDING; while the generator runs
they wait for an edge, which a seal less than 2 µs before it misses. A second COMMIT while one is pending answers BUSY and
changes nothing else. At the edge, an instance whose share a reset holds has its pending change discarded; otherwise,
without a reserved bit, every sealed share comes into force together, and with one none does. -/
def Obligations.SharesCommit : Prop :=
  (∀ (s : State) (i : Nat),
    running s = true → (slotOf s i).isSome = true → (getInst s i).sealedShares = none → s.time.gen = .running →
    exec (.qsCommit i) s = .next (modInst i (fun y => { y with
        sealedShares := some {
            shares := (getInst s i).queues.filterMap (fun p => if p.2.shadow ≠ p.2.share then some (p.1, p.2.shadow)
              else none)
            notAt := (if nextEdge s < s.clk.ptp + 2000 then some (s.time.tick + 1) else none) }
        regs := { y.regs with qsStatus := y.regs.qsStatus ||| 1 } }) s)) ∧
  (∀ (s : State) (i : Nat),
    running s = true → (slotOf s i).isSome = true → (getInst s i).sealedShares.isSome = true →
    exec (.qsCommit i) s = .next (modRegs i (fun r => { r with qsStatus := setFld r.qsStatus 4 4 4 }) s)) ∧
  (∀ (x : Inst) (n : Nat) (sh : SealedShares), x.sealedShares = some sh →
    (x.shareHeld = true → (edgeShares n x).sealedShares = none ∧ (edgeShares n x).queues = x.queues ∧ (edgeShares n
      x).regs.qsStatus = (place 6 4 4 ||| place 0 8 20 ||| place (n % 2 ^ 32) 32 32)) ∧ (x.shareHeld = false → sh.notAt ≠
      some n → (edgeShares n x).sealedShares = none ∧ ((∀ p ∈ sh.shares, fld p.2 2 6 = 0 ∧ fld p.2 56 8 = 0) → ∀ k, tget
      (edgeShares n x).queues k = (tget x.queues k).map fun q => { q with share := (tget sh.shares k).getD q.share }) ∧
      ((∃ p ∈ sh.shares, fld p.2 2 6 ≠ 0 ∨ fld p.2 56 8 ≠ 0) → (edgeShares n x).queues = x.queues)))

/-- A granted docket without a finding, whose home hatch carries and whose translations are given, has the effect of its
opcode. A COPY between two local operands reads the source, writes the destination and settles OK with its length. WRITE
and SEND launch a message from their source to the window of a rank, READ one that fetches; ATOMIC one of 8 bytes with its
operands, while fewer than 16 are outstanding on its connection. TILE_COPY moves its rows and settles with the bytes
moved. FENCE settles OK with no byte. A raw SEND reads its frame and queues it, completed, at the port of its rank. -/
def Obligations.DocketsAreMoved : Prop :=
  (∀ (s s1 s2 : State) (d : DRef) (q : Queue) (r : Run) (g h : Seg) (rd : MemRead) (wr : MemWrite),
    DocketReady s d opCopy q r → r.pieces ≤ r.granted → moveEnds r (runWords q r) = (.near g (dSrc (runWords q r)),
      .near h (dDst (runWords q r))) → r.lig = none → r.key = none → 0 < dLen (runWords q r) → overlapPart (dSrc
      (runWords q r)) (dDst (runWords q r)) (dLen (runWords q r)) = (0, 0) → readSeg d.inst g (dSrc (runWords q r))
      (dLen (runWords q r)) (obtainAts d.inst q r s) = (rd, s1) → rd.fail = none → rd.events = [] → writeSeg d.inst h
      (dDst (runWords q r)) rd.bytes s1 = (wr, s2) → wr.fail = none → wr.events = [] →
    exec (.copy d) s = .next (settle d.inst d.queue r.ord { settledOk (dLen (runWords q r)) with twin := rd.twin } s2)) ∧
  (∀ (s : State) (d : DRef) (q : Queue) (r : Run) (op rank window off a k e : Nat) (g : Seg),
    (op = opWrite ∧ isRaw (runWords q r) = false ∨ op = opSend ∧ isRaw (runWords q r) = false) → DocketReady s d op q
      r → moveEnds r (runWords q r) = (.near g a, .far rank window off) → runRank r rank = some (k, e) →
    exec (if op = opWrite then .write d else .send d) s = .next (launch d.inst d.queue q r off (writeMessage (obtainAts
      d.inst q r s) d.inst d.queue r (runWords q r) rank window off) (obtainAts d.inst q r s))) ∧
  (∀ (s : State) (d : DRef) (q : Queue) (r : Run) (rank window off a k e : Nat) (h : Seg),
    DocketReady s d opRead q r → moveEnds r (runWords q r) = (.far rank window off, .near h a) → runRank r rank = some
      (k, e) →
    exec (.read d) s = .next (launch d.inst d.queue q r off (readMessage (obtainAts d.inst q r s) d.inst d.queue r
      (runWords q r) rank window off (.near h a)) (obtainAts d.inst q r s))) ∧
  (∀ (s : State) (d : DRef) (q : Queue) (r : Run) (t : Nat × Nat),
    DocketReady s d opAtomic q r → runRank r (dRank (runWords q r)) = some t → atomicsFull (obtainAts d.inst q r s)
      (connTo (obtainAts d.inst q r s) q r.cls t) = false →
    exec (.atomic d) s = .next (launch d.inst d.queue q r (dDst (runWords q r) % 2 ^ 48)
      { docketMessage (obtainAts d.inst q r s) d.inst d.queue r 4 (dRank (runWords q r)) (dWindow (runWords q r)) (dDst (runWords q r) % 2 ^ 48) 8 none with
        notify := dNotify (runWords q r)
        body := wordBytes (wd (runWords q r) 5) ++ wordBytes (wd (runWords q r) 6) ++ leBytes 1 (dFlags (runWords q r) %
          16) ++ List.replicate 7 0 } (obtainAts d.inst q r s))) ∧
  (∀ (s s1 : State) (d : DRef) (q : Queue) (r : Run) (t : Tiles),
    DocketReady s d opTileCopy q r → r.pieces ≤ r.granted → tileLoop d.inst r (runWords q r) (tlTiles (runWords q r))
      0 { good := 0, fail := none, twin := false } (obtainAts d.inst q r s) = (none, t, s1) → t.fail = none →
    exec (.tileCopy d) s = .next (settle d.inst d.queue r.ord { settledOk t.good with twin := t.twin } (tileOverlap r
      (runWords q r) (tlTiles (runWords q r)) s1))) ∧
  (∀ (s : State) (d : DRef) (q : Queue) (r : Run), DocketReady s d opFence q r →
    exec (.fence d) s = .next (settle d.inst d.queue r.ord (settledOk 0) (obtainAts d.inst q r s))) ∧
  (∀ (s s1 : State) (d : DRef) (q : Queue) (r : Run) (g : Seg) (rd : MemRead),
    DocketReady s d opSend q r → isRaw (runWords q r) = true → findSeg r.segs (dSrc (runWords q r)) (dLen (runWords q
      r)) true false = some g → g.kind < 4 → readSeg d.inst g (dSrc (runWords q r)) (dLen (runWords q r)) (obtainAts
      d.inst q r s) = (rd, s1) → rd.fail = none → rd.events = [] → r.lig = none → rawLacks (runWords q r) rd.bytes =
      false →
    exec (.rawSend d) s = .next (queueFrame (dRank (runWords q r)) r.cls (rawFrame (runWords q r) r.cls rd.bytes) (some
      (d.inst, d.queue, r.ord)) (markExecuted d.inst d.queue r.ord s1)))

/-- A message of a docket goes behind the last message of its connection, its packets numbered from the connection's next
PSN modulo 2^24; a connection without a context gets one, and while none is free the message waits for one. A rank that
resolves to no destination with a route ends the docket UNREACHABLE, naming the rank; a window offset beyond 48 bits ends
it WINDOW_FAULT; without a free context, or on a connection that has failed, the docket waits. Settling an outcome changes
nothing but that outcome in the run of the docket, where no translation was refused. -/
def Obligations.MessagesAreLaunched : Prop :=
  (∀ (s : State) (i qi off : Nat) (q : Queue) (r : Run) (m : TxMsg) (t : Nat × Nat),
    runRank r m.rank = some t → hasRoute s t.1 r.cls = true → off + max m.msgLen 1 ≤ 2 ^ 48 → framePort s t.1 = none →
    (txReady s (connTo s q r.cls t) = true → launch i qi q r off m s = markExecuted i qi r.ord (addMessage (connTo s q
      r.cls t) (packetCount m.ptype m.msgLen m.segBytes) m s)) ∧ (txReady s (connTo s q r.cls t) = false → launch i qi q r
      off m s = s)) ∧
  (∀ (s : State) (i qi off : Nat) (q : Queue) (r : Run) (m : TxMsg) (t : Nat × Nat), runRank r m.rank = some t →
    (hasRoute s t.1 r.cls = false → launch i qi q r off m s = settle i qi r.ord (settledAs 8 0 (m.rank % 65536)) s) ∧
      (hasRoute s t.1 r.cls = true → 2 ^ 48 < off + max m.msgLen 1 → launch i qi q r off m s = settle i qi r.ord
      (settledAs 0x04 0 0) s)) ∧
  (∀ (s : State) (k : ConnKey) (n : Nat) (m : TxMsg) (c : SendCtx), findTx s k = some c →
    ∃ l, findTx (addMessage k n m s) k = some { c with
        nextPsn := (c.nextPsn + n) % 2 ^ 24
        msgs := c.msgs ++ [{ m with packets := l }]
        expires := s.clk.mono + 2 * life s } ∧ l.map (·.psn) = (List.range n).map (fun j => (c.nextPsn + j) % 2 ^ 24) ∧
      l.map (·.pidx) = List.range n ∧ (∀ t ∈ l, t.sent = false ∧ t.settled = false) ∧ (∀ j, j ≠ k → findTx (addMessage k n
      m s) j = findTx s j) ∧ addMessage k n m s = { s with dlv := { s.dlv with tx := (addMessage k n m s).dlv.tx } }) ∧
  (∀ (s : State) (k : ConnKey) (n : Nat) (m : TxMsg), findTx s k = none →
    (txFree s k = true → ∃ l, (addMessage k n m s).dlv.tx = s.dlv.tx ++
      [{ newTx s k with nextPsn := n % 2 ^ 24, msgs := [{ m with packets := l }], expires := s.clk.mono + 2 * life s }] ∧
      l.map (·.psn) = (List.range n).map (fun j => j % 2 ^ 24) ∧ addMessage k n m s =
      { s with dlv := { s.dlv with tx := (addMessage k n m s).dlv.tx } }) ∧ (txFree s k = false → addMessage k n m s =
      { s with dlv := { s.dlv with txWaits := s.dlv.txWaits ++ [{ key := k, count := n, msg := m }] } })) ∧
  (∀ (s : State) (i qi ord : Nat) (q : Queue) (out : Settled), getQueue s i qi = some q → out.detail ≠ 9 →
    ∃ u, settle i qi ord out s = u ∧ getQueue u i qi = some
      { q with runs := q.runs.map fun x => if x.ord = ord then { x with executed := true, outcome := some out } else x } ∧
      (∀ j k, j ≠ i ∨ k ≠ qi → getQueue u j k = getQueue s j k) ∧ u = { s with insts := u.insts })

/-- A granted docket with a finding has no effect of its opcode: it ends MALFORMED, DETAIL naming the word, and its queue
enters ERROR with ERR_INDEX, its prefetch and its granted dockets that have not started discarded without receipts, and
its interrupt raised. The finding of a started docket is the one of its start, whatever happens afterwards to what it is
bound to. An opcode or VER that the device does not implement is such a finding with DETAIL 0. -/
def Obligations.FindingsEndDockets : Prop :=
  (∀ (s : State) (d : DRef) (q : Queue) (r : Run) (p : Nat × Instr) (k : Nat),
    p ∈ docketCommands d → DocketGranted s d p.1 q r → finding s d.inst d.queue q r = some k →
    exec p.2 s = .next (placeAll (malformed d.inst d.queue r k (countExhausted r s)))) ∧
  (∀ (s : State) (d : DRef) (q : Queue) (r : Run),
    openRun s d = some (q, r) → running s = true → r.started = true → opKnown q.desc.v1 (dOp (runWords q r)) = false →
    exec (.unimplementedOpcode d) s = .next (placeAll (malformed d.inst d.queue r 0 s))) ∧
  (∀ (s : State) (i qi : Nat) (q : Queue) (r : Run),
    (bindRun s i qi q r).started = true ∧ finding s i qi q (bindRun s i qi q r) = judge s i qi q r.planned (runWords q
      r) ∧ (∀ u : State, finding u i qi q (bindRun s i qi q r) = finding s i qi q (bindRun s i qi q r))) ∧
  (∀ (s : State) (i qi k : Nat) (q : Queue) (r : Run),
    getQueue s i qi = some q → q.st = .active → r.started = true →
    malformed i qi r k s = raiseQueue i qi (finishRun i qi r (settledAs 2 0 k) (modQueue i qi (discardUnstarted r.slot)
      (withdrawUnstarted i qi r.ord s))) ∧ discardUnstarted r.slot q = { q with
        st := .error
        errIndex := r.slot % 65536
        errCount := (q.ci + ringKey q r.slot) % (2 * ringSize q)
        fetchErr := false
        fetchStop := none
        unfinished := q.unfinished.filter (fun n => q.runs.any fun x => x.started && x.slot == n)
        runs := q.runs.filter (·.started)
        fetched := []
        sweep := none
        scanWaits := false
        place := .none })

/-- A granted or planned press docket without a finding, whose home hatch carries and whose translations are given,
obtains them and reaches the wait for shared galley with the next order of the device; where it then stands at the head it
is given room at once. A finding ends it MALFORMED. GALLEY_ALLOC_GRANT gives the docket at the head its room when enough
is free, and leaves it waiting otherwise. With room, the operands are checked in word order (the first that does not
resolve ends the docket SEGMENT_FAULT) and the lists read; then it asks for its permit. -/
def Obligations.PressDocketsBegin : Prop :=
  (∀ (s u : State) (d : DRef) (q : Queue) (r0 r : Run) (p : Nat × Instr),
    p ∈ pressCommands d → openRun s d = some (q, r0) → r = asBound s d.inst q r0 → running s = true → r.press = none →
      dOp (runWords q r) = p.1 → (r.planned = true ∨ ∀ x ∈ q.runs, x.planned = false → x.started = false → x.press =
      none → ringKey q x.slot < ringKey q r.slot → runMissed s q x = true) → finding s d.inst d.queue q r = none →
      hatchBlocks s d.inst q r = false → atsRefused s d.inst q r = none → (u = modRun d.inst d.queue r.ord (fun x =>
      { x with press := some (newPress (obtainAts d.inst q r s).ord) })
      { obtainAts d.inst q r s with ord := (obtainAts d.inst q r s).ord + 1 }) →
    exec p.2 s = .next (if ((galleyHead u).map fun x => x.2.2.1.ord) = some r.ord then allocHead u else u)) ∧
  (∀ (s : State) (d : DRef) (q : Queue) (r0 r : Run) (p : Nat × Instr) (k : Nat),
    p ∈ pressCommands d → openRun s d = some (q, r0) → r = asBound s d.inst q r0 → running s = true → r.press = none →
      dOp (runWords q r) = p.1 → (r.planned = true ∨ ∀ x ∈ q.runs, x.planned = false → x.started = false → x.press =
      none → ringKey q x.slot < ringKey q r.slot → runMissed s q x = true) → finding s d.inst d.queue q r = some k →
    exec p.2 s = .next (plannedBegan d (placeAll (malformed d.inst d.queue r k s)))) ∧
  (∀ (s : State) (d : DRef) (q : Queue) (r : Run) (p : PressRun),
    running s = true → galleyHead s = some (d, q, r, p) →
    exec .galleyAllocGrant s = .next (allocHead s) ∧ (s.galley.free < galleyNeed (runWords q r) → allocHead s = s) ∧
      (galleyNeed (runWords q r) ≤ s.galley.free → allocHead s = checkOperands d q
      { r with press := r.press.map fun x => { x with galley := galleyNeed (runWords q r) } } (modPressRun d r.ord (fun x
      => { x with galley := galleyNeed (runWords q r) }) (modGalley (fun g =>
      { g with free := g.free - galleyNeed (runWords q r) }) s)))) ∧
  (∀ (s s1 : State) (d : DRef) (q : Queue) (r : Run) (lists : List (List Nat)) (b : Bool),
    operandsOk r.segs (runWords q r) [] = true → readLists d.inst r.segs (firstLists (runWords q r)) s = (.ok lists,
      b, s1) → (dOp (runWords q r) = opEmbedGather → egPool (runWords q r) = 0) → badEntry r.segs (runWords q r) lists =
      none →
    checkOperands d q r s = askPermit d (if r.planned then 1 else 2) (modPressRun d r.ord (fun p =>
      { p with stage := .permit, lists := lists, twin := b }) s1)) ∧
  (∀ (s s1 s2 : State) (d : DRef) (q : Queue) (r : Run) (lists more : List (List Nat)) (b c : Bool),
    operandsOk r.segs (runWords q r) [] = true → readLists d.inst r.segs (firstLists (runWords q r)) s = (.ok lists,
      b, s1) → dOp (runWords q r) = opEmbedGather → egPool (runWords q r) ≠ 0 → operandsOk r.segs (runWords q r) lists =
      true → readLists d.inst r.segs [((wd (runWords q r) 5).toNat, 4, bagIndices (runWords q r) (lists.getD 0 []))] s1
      = (.ok more, c, s2) → badEntry r.segs (runWords q r) (lists ++ more) = none →
    checkOperands d q r s = askPermit d (if r.planned then 1 else 2) (modPressRun d r.ord (fun p =>
      { p with stage := .permit, lists := lists ++ more, twin := b || c }) s2)) ∧
  (∀ (s : State) (d : DRef) (q : Queue) (r : Run) (o : Operand),
    o ∈ pressOperands (runWords q r) → operandOk r.segs o = false →
    checkOperands d q r s = endPress d q r { settledAs 3 0 0 with twin := false } s)

/-- The governor decides the request at the head. A first slice of a posted docket against whose start nothing stands, and
that has a receipt slot, starts its docket with the units in service when its power fits what is available to the docket;
with permits held and no room it waits, counted once; with none held it starts narrowed. A later slice that fits is
granted and its docket runs up to the end of the slice. A granted slice holds its permit and leaves the requests. A docket
that starts is bound, takes the next order of the device, and its inputs are those of that moment. After TIMEOUT × 10 µs
of the PERMIT_CTRL that governs it a first slice ends PERMIT_TIMEOUT, counted. A window's end sets the base to the
measured power less the average of the permits held. With the last block of a slice its permit is released, and the docket
asks for its next slice, or ends where it has no block at all. -/
def Obligations.PermitsAreDecided : Prop :=
  (∀ (s : State) (x : PermitWait) (q : Queue) (r : Run) (p : PressRun),
    running s = true → headRequest s = some x → waitRun s x = some (q, r, p) → r.started = false → r.planned = false →
      p.slice = 0 → startBar s x.d q r p = none → receiptRoom q = true →
    ((askOf (runWords q r) r p (activeUnits s)).power ≤ availableMw s r → exec .permitGrant s = .next (placeAll
      (beginPress x.d q r (grantSlice x r p (activeUnits s) (askOf (runWords q r) r p (activeUnits s)) 0 false s)))) ∧
      (availableMw s r < (askOf (runWords q r) r p (activeUnits s)).power → s.power.permits ≠ [] → exec .permitGrant s =
      .next (modPower (fun y => { y with
        waited := satAdd 16 y.waited (s.power.waits.filter fun z => !z.noted).length
        waits := y.waits.map fun z => { z with noted := true } }) s)) ∧ (∀ k, k = narrowTo (runWords q r) r p (availableMw
      s r) (activeUnits s) → availableMw s r < (askOf (runWords q r) r p (activeUnits s)).power → s.power.permits = [] →
      exec .permitGrant s = .next (placeAll (beginPress x.d q r (grantSlice x r p k (askOf (runWords q r) r p k) k false
      s))))) ∧
  (∀ (s : State) (x : PermitWait) (q : Queue) (r : Run) (p : PressRun),
    running s = true → headRequest s = some x → waitRun s x = some (q, r, p) → r.started = true → p.slice ≠ 0 → (askOf
      (runWords q r) r p (activeUnits s)).power ≤ availableMw s r →
    exec .permitGrant s = .next (grantSlice x r p (activeUnits s) (askOf (runWords q r) r p (activeUnits s)) 0 false s)) ∧
  (∀ (s : State) (x : PermitWait) (r : Run) (p : PressRun) (n k : Nat) (a : Ask) (q : Queue),
    getQueue s x.d.inst x.d.queue = some q →
    getQueue (grantSlice x r p n a k false s) x.d.inst x.d.queue = some { q with
        runs := q.runs.map fun y => if y.ord = r.ord then { y with
            press := y.press.map fun z => { z with
                stage := .running
                n := (if p.slice = 0 then n else z.n)
                blocks := a.blocks
                slices := (if p.slice = 0 then a.slices else z.slices)
                sliceEnd := a.limit
                narrowed := k } } else y } ∧ (grantSlice x r p n a k false s).power = { s.power with
        permits := s.power.permits ++ [{ d := x.d, milliwatts := a.power }]
        waits := delFirst s.power.waits (· == x)
        granted := s.power.granted + a.draw
        narrowed := (if k ≠ 0 then satAdd 16 s.power.narrowed 1 else s.power.narrowed)
        windowHeld := s.power.windowHeld + heldMw s * (s.clk.mono - s.power.windowMark)
        windowMark := s.clk.mono }) ∧
  (∀ (s : State) (d : DRef) (r : Run) (q : Queue),
    getQueue s d.inst d.queue = some q → r.started = false → r ∈ q.runs →
    (beginPress d q r s).ord = s.ord + 1 ∧ ∃ t, t = openWatch s ∧ getQueue (beginPress d q r s) d.inst d.queue = some
      { q with
        runs := q.runs.map fun y => if y.ord = r.ord then
          { (if y.started then y else bindRun s d.inst d.queue q y) with
            press := y.press.map fun z => { z with
                stage := .running
                order := s.ord
                inputs := (pressIn (runWords q r) z.lists).flatMap (fun c => rawRange (if y.started then y else bindRun
                  s d.inst d.queue q y).segs c s)
                mark := (t.watch.getD []).length
                spoiled := overlaps (runWords q r) z.lists } } else y }) ∧
  (∀ (s : State) (d : DRef) (x : PermitWait) (q : Queue) (r : Run) (p : PressRun),
    running s = true → (s.power.waits.find? (fun y => y.d == d && decide (0 < y.group)) = some x) → waitRun s x = some
      (q, r, p) → runMissed s q r = false →
    exec (.permitTimeout d) s = .next (modPower (fun y => { y with timeouts := satAdd 12 y.timeouts 1 }) (endPress d q r
      (settledAs 10 0 0) (waitMono (x.since + fld (permitOf s r) 20 16 * 10000) s)))) ∧
  (∀ (s u : State) (mw : Nat),
    running s = true → u = waitMono (s.power.windowAt + fld s.quoin.now.permitCtrl 10 10 * 1000) s →
    exec (.permitWindowEnd mw) s = .next (modPower (fun p => { p with
        base := mw - (s.power.windowHeld + heldMw s * (u.clk.mono - s.power.windowMark)) / max 1 (u.clk.mono -
          s.power.windowAt)
        windowHeld := 0
        windowAt := u.clk.mono
        windowMark := u.clk.mono }) u)) ∧
  (∀ (s : State) (d : DRef) (q : Queue) (r : Run) (p : PressRun),
    (s.power.permits.any (fun x => x.d == d) = true) → ((pressRuns s).filter (fun y => y.1 == d) = [(d, q, r, p)]) →
      p.stage = .running → sliceBusy p = false →
    exec (.permitRelease d) s = .next (if p.sliceEnd < p.blocks then askPermit d 0 (modPressRun d r.ord (fun z =>
      { z with stage := .permit, slice := z.slice + 1 }) (modPower (fun y =>
      { y with permits := delFirst y.permits fun x => x.d == d }) (meter s))) else if p.blocks = 0 then finishPress d q r
      p (modPower (fun y => { y with permits := delFirst y.permits fun x => x.d == d }) (meter s)) else modPower (fun y =>
      { y with permits := delFirst y.permits fun x => x.d == d }) (meter s)))

/-- An active, ungated unit without a block in flight takes the block that unitChoice names, a replay before a fresh
block; the block is in flight on it and its chain is kept on it, and the galley accesses of the unit and of the masters
that bring its operands are made. A busy, gated or withdrawn unit takes none. A finished block leaves its unit and counts
as done; with the last block of the docket the operation ends, and recoveries that waited for it end. An operation whose
inputs nothing has written since its start writes its outputs and settles OK with its output bytes and the counts of
OVERFLOWED and NANS. -/
def Obligations.BlocksRunOnUnits : Prop :=
  (∀ (s : State) (u b : Nat) (d : DRef) (q : Queue) (r : Run) (again : Bool),
    running s = true → ((pressRuns s).any (fun x => x.2.2.2.flying.any fun y => y.unit == u) = false) → s.power.gated
      = false → s.faults.units[u]? = some .active → unitChoice s u = some (d, q, r, b, again) →
    exec (.pressBlockDispatch u) s = .next (modPower (fun p =>
      { p with lastBlock := s.clk.mono, st := if p.st = .idle then .active else p.st }) (each (u :: fillMasters r
      (runWords q r)) (fun m t => galleyAccess m none t) (modPressRun d r.ord (fun p => { p with
        flying := p.flying ++ [{ block := b, unit := u, replay := again }]
        replays := (if again then delFirst p.replays (fun x => x.block == b) else p.replays)
        chains := (match chainOf (runWords q r) p.n b with | some c => tset p.chains c u | none => p.chains) }) s)))) ∧
  (∀ (s : State) (u : Nat),
    running s = true → (s.power.gated = true ∨ s.faults.units[u]? ≠ some .active ∨ (pressRuns s).any (fun x =>
      x.2.2.2.flying.any fun y => y.unit == u) = true) →
    exec (.pressBlockDispatch u) s = .next s) ∧
  (∀ (s : State) (u : Nat) (d : DRef) (q : Queue) (r : Run) (p p1 : PressRun),
    running s = true → ((pressRuns s).find? (fun x => x.2.2.2.flying.any fun b => b.unit == u) = some (d, q, r, p)) →
      hatchBlocks s d.inst q r = false → (p1 = { p with
        flying := p.flying.filter (fun b => b.unit != u)
        doneBlocks := p.doneBlocks ++ (p.flying.filter fun b => b.unit == u).map (·.block) }) →
    (p1.doneBlocks.length < p1.blocks → exec (.pressBlockDone u) s = .next (endRecoveries (modPressRun d r.ord (fun _ =>
      p1) s))) ∧ (p1.blocks ≤ p1.doneBlocks.length → r.outcome = none → exec (.pressBlockDone u) s = .next (endRecoveries
      (finishPress d q r p1 (modPressRun d r.ord (fun _ => p1) s))))) ∧
  (∀ (s s1 s2 u : State) (d : DRef) (q : Queue) (r : Run) (p : PressRun) (rd : MemRead) (x : List (Nat × List Byte))
      (c : Nat × Nat),
    (u = closeWatch (modPressRun d r.ord (fun x => { x with stage := .done, galley := 0, inputs := [] }) (modGalley
      (fun g => { g with free := g.free + p.galley }) s))) → readRanges d.inst r.segs (pressIn (runWords q r) p.lists) u
      = (rd, s1) → rd.fail = none → r.lig = none → p.spoiled = false → dOp (runWords q r) ≠ opTopk → amaxOpen (runWords
      q r) = [] → touchedOut (runWords q r) p.lists (rangeWritten r.segs ((s.watch.getD []).drop p.mark)) = [] →
      pressWrites (runWords q r) none p (pieceInputs (runWords q r) p.lists (pieceTotal (runWords q r)) 0 p.inputs) []
      s1.freeCount = (x, c) → writeRanges d.inst r.segs x
      { s1 with freeCount := s1.freeCount + outElems (runWords q r) } = (none, s2) →
    finishPress d q r p s = settle d.inst d.queue r.ord
      { settledOk (rangesBytes ((pressOperands (runWords q r)).filterMap fun o => if o.write then some (o.addr, o.len) else none)) with
        extra := place (min c.1 (2 ^ 32 - 1)) 0 32 ||| place (min c.2 (2 ^ 32 - 1)) 32 32
        twin := rd.twin || p.twin } s2)

/-- A docket whose outcome is settled ends at DOCKET_COMPLETE, a FENCE once every earlier docket of its queue has its
receipt; while receipts do not flow to the ring it keeps waiting, and on a HELD queue its outcome goes to the record with
what its receipt will say. A receipt is written at slot WI mod N with the PHASE of WI, and WI advances modulo 2N.
DRAIN_ABORT ends one outstanding docket of a DRAINING queue ABORTED. A docket that has not started ends with its outcome,
or DEADLINE_MISSED once its deadline has passed. HELD_DOCKET_END records a completed docket, or stops one at an access to
its hatch, to be executed again, what it writes of host memory left undefined. -/
def Obligations.ReceiptsEndDockets : Prop :=
  (∀ (s : State) (d : DRef) (q : Queue) (r : Run) (o : Settled),
    running s = true → getQueue s d.inst d.queue = some q → settledRun q d.slot = some (r, o) → r.started = true →
      q.st ≠ .stopped → (dOp (runWords q r) = opFence → earlierDone q r = true) → (q.st = .held ∨ receiptsFlow s d.inst
      q = true) →
    exec (.docketComplete d) s = .next (placeAll (finishRun d.inst d.queue r o s)) ∧ (q.st = .held → exec
      (.heldDocketEnd d false) s = exec (.docketComplete d) s)) ∧
  (∀ (s : State) (d : DRef) (q : Queue) (r : Run) (o : Settled),
    running s = true → getQueue s d.inst d.queue = some q → settledRun q d.slot = some (r, o) → r.started = false →
      q.st ≠ .stopped → dOp (runWords q r) ≠ opFence → (q.st = .held ∨ receiptsFlow s d.inst q = true) →
    exec (.docketComplete d) s = .next (placeAll (settleDrain d.inst d.queue (endUnstarted d.inst d.queue (receiptOf s
      r.slot r.words (flagged s d.inst d.queue q r (if runMissed s q r then
      { settledAs 9 0 (dDeadline (runWords q r)) with twin := o.twin } else o)) (r.planned && isLate s r q.desc.v1))
      (modQueue d.inst d.queue (fun y => { dropRun r.ord y with unfinished := y.unfinished.filter (· != r.slot) }) s))))) ∧
  (∀ (s : State) (d : DRef) (q : Queue) (r : Run) (o : Settled),
    running s = true → getQueue s d.inst d.queue = some q → settledRun q d.slot = some (r, o) → ((dOp (runWords q r) =
      opFence ∧ earlierDone q r = false) ∨ (q.st ≠ .held ∧ receiptsFlow s d.inst q = false)) →
    exec (.docketComplete d) s = .next s) ∧
  (∀ (s : State) (i qi : Nat) (q : Queue) (r : Run) (o : Settled),
    getQueue s i qi = some q → q.st = .held → r.resumed = false →
    getQueue (finishRun i qi r o s) i qi = some { q with
        runs := q.runs.filter (fun x => x.ord != r.ord)
        unfinished := q.unfinished.filter (· != r.slot)
        record := q.record ++ [{
            run := r
            out := flagged s i qi q r o
            late := isLate s r q.desc.v1
            tickLo := s.time.tick % 2 ^ 32
            subtick := subtick s }] } ∧ finishRun i qi r o s = { s with insts := (finishRun i qi r o s).insts }) ∧
  (∀ (s : State) (i qi : Nat) (q : Queue) (r : Receipt) (g : Seg),
    getQueue s i qi = some q → r.signal = false → findSeg (getInst s i).segs (q.desc.receiptBase + 32 * (q.wi %
      ringSize q)) 32 false true = some g →
    ∃ u, (writeSeg i g (q.desc.receiptBase + 32 * (q.wi % ringSize q)) (bytesOf (receiptWords (phase q.desc.ringCode
      q.wi) r)) s).2 = u ∧ u = { s with
        shelf := u.shelf
        store := u.store
        cellar := u.cellar
        hatches := u.hatches
        host := u.host
        watch := u.watch } ∧ writeReceipt i qi r s = { u with insts := (writeReceipt i qi r s).insts } ∧ getQueue
      (writeReceipt i qi r s) i qi = some { q with wi := (q.wi + 1) % (2 * ringSize q) } ∧ (∀ j k, j ≠ i ∨ k ≠ qi →
      getQueue (writeReceipt i qi r s) j k = getQueue s j k)) ∧
  (∀ (s : State) (d : DRef) (q : Queue),
    running s = true → getQueue s d.inst d.queue = some q → q.st = .draining →
    (∀ f, q.fetched.find? (fun f => f.slot == d.slot) = some f → exec (.drainAbort d) s = .next (placeAll (abortFetched
      d q f s))) ∧ (∀ r, q.fetched.find? (fun f => f.slot == d.slot) = none → q.runs.find? (fun r => r.slot == d.slot &&
      r.outcome.isNone) = some r → exec (.drainAbort d) s = .next (if receiptsFlow s d.inst q then placeAll (abortRun d q
      r s) else s))) ∧
  (∀ (s : State) (d : DRef) (q : Queue) (r : Run),
    running s = true → getQueue s d.inst d.queue = some q → q.st = .held → (q.runs.find? (fun r => r.slot == d.slot &&
      r.started && r.outcome.isNone && !r.interrupted) = some r) → needsHome q r = true → dOp (runWords q r) ≠ opCollRun
      → r.lig = none →
    exec (.heldDocketEnd d true) s = .next (modRun d.inst d.queue r.ord (fun x => { x with interrupted := true })
      (undefHost r (runWords q r) (modQueue d.inst d.queue (fun y =>
      { y with unfinished := y.unfinished.filter (· != r.slot) }) (stopDocket d.inst d.queue r s)))))

/-- At its turn, once its gating waits are done and no FENCE of its queue holds it, the next entry of the program in hand
starts on its ACTIVE planned queue at E + OFFSET × 64 ns + D, later by what posted work in its way takes to yield; a press
entry asks for its permit 200 ns before, and starts at its time once its gating waits are done with a permit in hand. An
entry whose queue is absent, not ACTIVE or not planned is skipped at that time, and so is one without receipt space. A
skipped entry counts and leaves D; a started one sets D to how late it was, and the largest D is kept. A posted docket not
started by the edge of tick F + d ends DEADLINE_MISSED, DETAIL its deadline, whether it is fetched or a press docket that
waits; that of a COLL_RUN is told to the other members. An INVALIDATE holds its slots and settles OK with the mask of
those that had started. -/
def Obligations.ProgramEntriesStart : Prop :=
  (∀ (s u v : State) (p : ProgRun) (e : Entry) (q : Queue),
    nextEntry s = some (p, e) → running s = true → ticking s = true → p.asked = false → p.gates.all (gateDone s p) =
      true → getQueue s e.inst e.queue = some q → q.st = .active → q.desc.planned = true → entryFenced q e = false →
      receiptRoom q = true → isPress (dOp e.words) = false → u = yieldWait (dOp e.words) (waitPtp (entryTime p e) s) →
      (v = (loadContext e.inst e.queue (modQueue e.inst e.queue (fun y =>
      { y with runs := y.runs ++ [newRun u e.inst e.queue q p.next e.words p.tick true true] })
      { u with ord := u.ord + 1 })).2) →
    exec .programEntryStart s = .next (entryBegan v.clk.ptp v)) ∧
  (∀ (s u v : State) (p : ProgRun) (e : Entry) (q : Queue),
    nextEntry s = some (p, e) → running s = true → ticking s = true → p.asked = false → getQueue s e.inst e.queue =
      some q → q.st = .active → q.desc.planned = true → entryFenced q e = false → receiptRoom q = true → isPress (dOp
      e.words) = true → u = waitPtp (entryTime p e - 200) s → (v = (loadContext e.inst e.queue (modQueue e.inst e.queue
      (fun y => { y with runs := y.runs ++ [newRun u e.inst e.queue q p.next e.words p.tick true false] })
      { u with ord := u.ord + 1 })).2) →
    exec .programEntryStart s = .next { v with runs := { p with asked := true } :: s.runs.tail }) ∧
  (∀ (s u : State) (p : ProgRun) (e : Entry) (d : DRef) (q : Queue) (r0 : Run),
    nextEntry s = some (p, e) → running s = true → ticking s = true → p.asked = true → d =
      { inst := e.inst, queue := e.queue, slot := p.next } → getQueue s e.inst e.queue = some q → u = waitPtp (entryTime
      p e) s →
    (askedRun s p e = none → exec .programEntryStart s = .next (entrySkipped u.clk.ptp u)) ∧ (askedRun s p e = some r0 →
      isGated r0 = true → p.gates.all (gateDone s p) = true → (asBound u e.inst q r0).press.bind (startBar u d q (asBound
      u e.inst q r0)) = none → receiptRoom q = true → exec .programEntryStart s = .next (plannedBegan d (beginPress d q
      (asBound u e.inst q r0) u))) ∧ (askedRun s p e = some r0 → isGated r0 = false ∨ p.gates.all (gateDone s p) = false →
      exec .programEntryStart s = .next s)) ∧
  (∀ (s u : State) (p : ProgRun) (e : Entry),
    nextEntry s = some (p, e) → running s = true → ticking s = true → p.asked = false → u = waitPtp (entryTime p e) s
      →
    ((∀ q, getQueue s e.inst e.queue = some q → q.st ≠ .active ∨ q.desc.planned = false) → exec .programEntryStart s =
      .next (entrySkipped u.clk.ptp u)) ∧ (∀ q, getQueue s e.inst e.queue = some q → q.st = .active → q.desc.planned =
      true → entryFenced q e = true ∨ isPress (dOp e.words) = false ∧ p.gates.all (gateDone s p) = false → exec
      .programEntryStart s = .next s) ∧ (∀ q, getQueue s e.inst e.queue = some q → q.st = .active → q.desc.planned = true
      → entryFenced q e = false → p.gates.all (gateDone s p) = true → receiptRoom q = false → exec .programEntryStart s =
      .next (holdReceiptFull e.inst e.queue (entrySkipped u.clk.ptp u)))) ∧
  (∀ (s : State) (t : Nat) (p : ProgRun) (l : List ProgRun) (e : Entry),
    s.runs = p :: l → p.entries[p.next]? = some e → p.next + 1 < p.entries.length →
    entryBegan t s = { s with
        runs := { p with
            next := p.next + 1
            asked := false
            delay := t - p.edge - e.offset * 64
            lastStart := some t
            gates := (if isGate e then [{ inst := e.inst, queue := e.queue, slot := p.next }] else []) } :: l
        time := { s.time with maxSlip := max s.time.maxSlip (min ((t - p.edge - e.offset * 64) / 64) 0xFFFFFF) } } ∧
      entrySkipped t s = { s with
        runs := { p with next := p.next + 1, asked := false, lastStart := some t, gates := [] } :: l
        time := { s.time with skipped := (s.time.skipped + 1) % 2 ^ 64 } }) ∧
  (∀ (s : State) (d : DRef) (q : Queue) (f : Fetched),
    running s = true → getQueue s d.inst d.queue = some q → (q.fetched.find? (fun f => f.slot == d.slot && missed s q
      f) = some f) →
    deadlineExpiry d s = placeAll (endUnstarted d.inst d.queue (receiptOf s d.slot f.words (settledAs 9 0 (dDeadline
      (view q.desc.v1 f.words))) false) (modQueue d.inst d.queue (fun y =>
      { y with fetched := y.fetched.filter fun g => g.slot != d.slot }) s)) ∧ (q.fetched.find? (fun f => f.slot == d.slot
      && missed s q f && dOp (view q.desc.v1 f.words) == opCollRun) = none → exec (.deadlineExpiry d) s = .next
      (deadlineExpiry d s)) ∧ (∀ g, q.fetched.find? (fun f => f.slot == d.slot && missed s q f && dOp (view q.desc.v1
      f.words) == opCollRun) = some g → exec (.deadlineExpiry d) s = .next (missedRun d.inst q d.slot (view q.desc.v1
      g.words) (deadlineExpiry d s)))) ∧
  (∀ (s : State) (d : DRef) (q : Queue) (r : Run),
    running s = true → getQueue s d.inst d.queue = some q → (q.fetched.find? (fun f => f.slot == d.slot && missed s q
      f) = none) → (q.fetched.find? (fun f => f.slot == d.slot && missed s q f && dOp (view q.desc.v1 f.words) ==
      opCollRun) = none) → (q.runs.find? (fun r => r.slot == d.slot && runMissed s q r) = some r) →
    exec (.deadlineExpiry d) s = .next (placeAll (endUnstarted d.inst d.queue (receiptOf s d.slot r.words
      (unstartedOutcome s d.inst d.queue q r aborted) false) (withdrawPress d.inst d.queue r (modQueue d.inst d.queue (fun
      y => { dropRun r.ord y with unfinished := y.unfinished.filter (· != r.slot) }) s)))) ∧ (unstartedOutcome s d.inst
      d.queue q r aborted).status = 9) ∧
  (∀ (s u : State) (d : DRef) (q t : Queue) (r : Run),
    DocketReady s d opInvalidate q r → u = obtainAts d.inst q r s → getQueue u d.inst (ivTarget (runWords q r)) = some
      t → (t.runs.filter (fun x => !x.planned && !x.started && (heldSlots t (runWords q r)).contains x.slot) = []) →
    exec (.invalidate d) s = .next (placeAll (settle d.inst d.queue r.ord (settledAs 0 0 (startedMask t (runWords q r)))
      (modQueue d.inst (ivTarget (runWords q r)) (placeHold (heldSlots t (runWords q r)) d) u))))

/-- A WRITE or SEND packet that is new, whose message is bound to a window, writes its data at the window's base plus
offset plus PIDX × SEG and counts; an aligned word of the range that two packets share is written once both have brought
it, so that a packet that shares none writes its data whole; the message's last byte releases it, with its notification
receipt where it asks for one and no part was VOID, and the packet is acknowledged. A READ_REQ whose checks pass and whose
bytes can be read is answered with READ_RESP packets and acknowledged. An ATOMIC reads 8 bytes, writes the value of its
operation, keeps the old value in its response record and answers it. A head check that fails is refused by its code. -/
def Obligations.RequestsAreServed : Prop :=
  (∀ (s u u1 u2 : State) (p : Packet) (m : RxMsg) (g : Seg) (ws : List (Nat × List Byte)) (held : List WordPart),
    (p.ptype = 1 ∨ p.ptype = 2) → arrives s p p.ptype = true → requestFresh p (consume p s) = true → u =
      requestContext p (consume p s) → bindMessage p u = (some m, u1) → m.seg = some g → m.key = none → p.void = false →
      packetWrites m.parts (m.win.base + m.offset) (m.win.base + m.offset + m.msgLen) (m.win.base + m.offset + p.pidx *
      segOf p) (p.body.take (payloadLen p.msgLen (segOf p) p.pidx)) = (ws, held) → writeParts m.inst g ws u1 = (none,
      u2) →
    ∃ t, exec (if p.ptype = 1 then .writePacket p else .sendPacket p) s = .next t ∧ (m.counted + payloadLen p.msgLen
      (segOf p) p.pidx = m.msgLen → m.notify = false → t = reclaim (acknowledge p true (dropRxMsg (keyOf p) m.psn
      (flushParts m.inst g held u2)))) ∧ (m.counted + payloadLen p.msgLen (segOf p) p.pidx = m.msgLen → m.notify = true →
      m.void = false → t = reclaim (acknowledge p true (notifyTarget p m.inst m.win m.msgLen (if p.last then wordAt
      (p.body.drop (payloadLen p.msgLen (segOf p) p.pidx)) 0 else m.imm) (dropRxMsg (keyOf p) m.psn (flushParts m.inst g
      held u2))))) ∧ (m.counted + payloadLen p.msgLen (segOf p) p.pidx = m.msgLen → m.notify = true → m.void = true → t =
      reclaim (acknowledge p true (unreserve m (dropRxMsg (keyOf p) m.psn (flushParts m.inst g held u2))))) ∧ (m.counted +
      payloadLen p.msgLen (segOf p) p.pidx ≠ m.msgLen → t = acknowledge p false (modRxMsg (keyOf p) m.psn (fun _ =>
      { m with
        counted := m.counted + payloadLen p.msgLen (segOf p) p.pidx
        pidxs := m.pidxs ++ [p.pidx]
        parts := held
        imm := (if p.last && m.notify then wordAt (p.body.drop (payloadLen p.msgLen (segOf p) p.pidx)) 0 else m.imm) })
      u2))) ∧
  (∀ (held : List WordPart) (a b x : Nat) (bs : List Byte),
    x % 8 = 0 → ((x + bs.length) % 8 = 0 ∨ x + bs.length = b) → bs ≠ [] →
    packetWrites held a b x bs = ([(x, bs)], held)) ∧
  (∀ (s u : State) (p : Packet) (code : Nat),
    (p.ptype = 1 ∨ p.ptype = 2 ∨ p.ptype = 3 ∨ p.ptype = 4) → arrives s p p.ptype = true → requestFresh p (consume p
      s) = true → u = requestContext p (consume p s) → ((findRx u (keyOf p)).bind (fun c => c.msgs.find? fun m => m.psn
      == firstPsn p && m.job == p.job) = none) → headCheck u p = .nak code → code ≠ 7 →
    exec (if p.ptype = 1 then .writePacket p else if p.ptype = 2 then .sendPacket p else if p.ptype = 3 then .readReq p
      else .atomicPacket p) s = .next (refuse p code 0 0 u)) ∧
  (∀ (s u u1 : State) (p : Packet) (i : Nat) (w : Win) (g : Seg) (key : Option BoundKey) (r : MemRead),
    arrives s p 3 = true → requestFresh p (consume p s) = true → u = requestContext p (consume p s) → headCheck u p =
      .ok i w g key → 0 < p.msgLen → readSeg i g (w.base + fld p.h3 0 48) p.msgLen u = (r, u1) → r.fail = none →
      r.events = [] →
    exec (.readReq p) s = .next (acknowledge p true (each (List.range (packetCount 0x43 p.msgLen (packetBytes u
      key.isSome))) (fun j t => respond (keyOf p) i key p.psn p.msgLen (packetBytes u key.isSome) j r.bytes t) u1))) ∧
  (∀ (s u u1 u2 t : State) (p : Packet) (i : Nat) (w : Win) (g : Seg) (key : Option BoundKey) (r : MemRead) (wr :
      MemWrite) (c : RecvCtx),
    arrives s p 4 = true → requestFresh p (consume p s) = true → u = requestContext p (consume p s) → headCheck u p =
      .ok i w g key → findRx u (keyOf p) = some c → c.record.length < 32 → p.notify = false → readSeg i g (w.base + fld
      p.h3 0 48) 8 u = (r, u1) → r.fail = none → r.events = [] → writeSeg i g (w.base + fld p.h3 0 48) (wordBytes
      (atomicValue (leNat ((p.body.drop 16).take 1)) (wordAt r.bytes 0) (wordAt p.body 0) (wordAt p.body 1))) u1 = (wr,
      u2) → wr.fail = none → wr.events = [] → (t = modRx (keyOf p) (fun c => { c with
        record := c.record ++ [{
            psn := p.psn
            count := 1
            expires := u.clk.mono + life u
            ptype := 0x44
            body := wordBytes (wordAt r.bytes 0) }] }) u2) →
    exec (.atomicPacket p) s = .next (acknowledge p true (inject (replyPacket t (keyOf p) 0x44 p.psn 8 0 true (wordBytes
      (wordAt r.bytes 0))) t))) ∧
  (∀ (old a b : Word),
    atomicValue 0 old a b = old + a ∧ atomicValue 1 old a b = (if old = a then b else old) ∧ atomicValue 2 old a b = a ∧
      atomicValue 3 old a b = old ||| a ∧ atomicValue 4 old a b = old &&& a ∧ atomicValue 5 old a b = (if old.ult a then a
      else old) ∧ atomicValue 6 old a b = (if a.ult old then a else old))

/-- An ACK settles what CUM_PSN and SACK cover and ends the messages that are whole; an ATOMIC_RESP keeps the old value
for the ATOMIC of its PSN. A NAK of an RNR holds its message back for RNR_WAIT; one of CODE 1 to 6 ends it with the status
its code names, and its messages leave the connection; of a READ, CODE 6 ends it once every packet before the failing one
is placed. A READ_RESP of an outstanding READ is placed at its destination, once, and counted. -/
def Obligations.AnswersAreTaken : Prop :=
  (∀ (s : State) (p : Packet), arrives s p 0x41 = true →
    exec (.ack p) s = .next (completeMessages (replyKey p) (modTx (replyKey p) (applyAck (consume p s) (leNat
      (p.body.take 3)) (leNat ((p.body.drop 4).take 8)) (leNat ((p.body.drop 12).take 1))) (consume p s)))) ∧
  (∀ (s : State) (cum sack load : Nat) (c : SendCtx), reorder s = 0 →
    (applyAck s cum sack load c).msgs = c.msgs.map (fun m => { m with
        packets := m.packets.map fun t => { t with
            settled := t.settled || (t.sent && coveredBy cum t.psn)
            sacked := t.sacked || sackCovers cum sack t.psn
            lost := t.lost && !coveredBy cum t.psn } }) ∧ (applyAck s cum sack load c).answered = true ∧ (applyAck s cum
      sack load c).nextPsn = c.nextPsn) ∧
  (∀ (s : State) (p : Packet) (m : TxMsg) (c : SendCtx),
    arrives s p 0x42 = true → findTx s (replyKey p) = some c → (c.msgs.find? (fun m => (m.packets.head?.map (·.psn))
      == some (leNat (p.body.take 3))) = some m) →
    (leNat ((p.body.drop 4).take 1) = 7 → exec (.nak p) s = .next (modTx (replyKey p) (fun c => { c with
        answered := true
        expires := s.clk.mono + 2 * life s
        msgs := c.msgs.map fun x => if (x.packets.head?.map (·.psn)) = some (leNat (p.body.take 3)) then
          { x with rnrAt := some (s.clk.mono + rnrWait s) } else x }) (consume p s))) ∧ (0 < leNat ((p.body.drop 4).take
      1) → leNat ((p.body.drop 4).take 1) < 7 → (leNat ((p.body.drop 4).take 1) = 6 → m.ptype ≠ 3) → exec (.nak p) s =
      .next (endMessage m (nakOutcome (leNat ((p.body.drop 4).take 1)) (leNat ((p.body.drop 5).take 2))) (modTx (replyKey
      p) (fun c => { c with
        answered := true
        expires := s.clk.mono + 2 * life s
        msgs := c.msgs.filter fun x => !((x.packets.head?.map (·.psn)) == some (leNat (p.body.take 3))) }) (consume p
      s)))) ∧ (leNat ((p.body.drop 4).take 1) = 6 → m.ptype = 3 → exec (.nak p) s = .next (checkRead (replyKey p) (leNat
      (p.body.take 3)) (modTx (replyKey p) (fun c => { c with
        answered := true
        expires := s.clk.mono + 2 * life s
        msgs := c.msgs.map fun x => if (x.packets.head?.map (·.psn)) = some (leNat (p.body.take 3)) then (if (x.cut.any
          fun c => decide (c ≤ leNat ((p.body.drop 8).take 4))) then x else { x with
            cut := some (leNat ((p.body.drop 8).take 4))
            cutAt := none
            failMem := leNat ((p.body.drop 5).take 2)
            packets := x.packets.map fun t => { t with settled := true } }) else x }) (consume p s))))) ∧
  (∀ (s u1 : State) (p : Packet) (c : SendCtx) (m : TxMsg) (i qi ord a : Nat) (q : Queue) (r : Run) (g : Seg) (ws :
      List (Nat × List Byte)) (held : List WordPart),
    arrives s p 0x43 = true → findTx s (replyKey p) = some c → (c.msgs.find? (fun m => m.ptype == 3 && m.packets.any
      fun t => t.psn == p.psn) = some m) → m.owner = .docket i qi ord → runOf s i qi ord = some (q, r) → (m.got.contains
      p.pidx || p.msgLen != m.msgLen || hatchBlocks (consume p s) i q r || decide (packetCount 0x43 m.msgLen m.segBytes
      ≤ p.pidx) || p.sealed != m.sealKey.isSome) = false → m.sealKey = none → m.dst = some a → findSeg r.segs a (dLen
      (runWords q r)) false true = some g → packetWrites m.parts a (a + m.msgLen) (a + p.pidx * m.segBytes) (p.body.take
      (payloadLen m.msgLen m.segBytes p.pidx)) = (ws, held) → (writeParts i g ws (modTx (replyKey p) (fun c =>
      { c with
        expires := s.clk.mono + 2 * life s
        msgs := c.msgs.map fun x => if x.owner = m.owner ∧ x.ptype = 3 then { x with got := x.got ++ [p.pidx] } else x })
      (consume p s)) = (none, u1)) →
    exec (.readResp p) s = .next (checkRead (replyKey p) p.psn (modTx (replyKey p) (fun c =>
      { c with msgs := c.msgs.map fun x => if x.owner = m.owner ∧ x.ptype = 3 then { x with parts := held } else x }) u1))) ∧
  (∀ (s : State) (p : Packet), arrives s p 0x44 = true →
    exec (.atomicResp p) s = .next (completeMessages (replyKey p) (modTx (replyKey p) (fun c => { c with
        msgs := c.msgs.map fun m => if m.ptype = 4 ∧ (m.packets.any fun t => t.psn == p.psn) = true then
          { m with response := some (wordAt p.body 0) } else m }) (consume p s)))) ∧
  (∀ (s : State) (k : ConnKey) (c : SendCtx) (m : TxMsg) (o : Settled),
    findTx s k = some c → c.msgs = [m] → allSettled m = true → messageOutcome m = some o →
    ∃ u, completeMessages k s = endMessage m o u ∧ (findTx u k).map (·.msgs) = some [] ∧ u = { s with dlv := u.dlv })

/-- PACKET_ELIGIBLE sends the next packet of a connection at its paced time; without a route its docket ends UNREACHABLE
and its messages leave the connection. ACK_DELAY_EXPIRY sends the ACK that is due. RTO_EXPIRY counts, marks the packet
lost and doubles the backoff up to 256, or starts the failure of the connection once its oldest packet has been sent
RETRY_LIMIT times. RNR_RESEND sends the message again. CONNECTION_FAIL ends every docket of the connection UNREACHABLE,
and its context is freed for the messages that wait for one; one on a connection that has not failed ends the docket whose
key slot ran out; receive contexts, idle send contexts and response record entries go after LIFE, twice LIFE and LIFE. -/
def Obligations.DeliveryTimersExpire : Prop :=
  (∀ (s u : State) (k : ConnKey) (c : SendCtx) (m : TxMsg) (t : TxPacket) (q : Queue) (r : Run),
    k.vc ≠ 16 → running s = true → findTx s k = some c → c.failAt = none → nextPacket s c = some (m, t) → (u = if k.vc
      = 8 then s else waitMono (paceTime c m t) s) →
    (hasRoute u k.dstDev k.vc = true → exec (.packetEligible k) s = .next (sendPacket k m t u)) ∧ (hasRoute u k.dstDev
      k.vc = false → exec (.packetEligible k) s = .next (noRouteEnds k m u)) ∧ (∀ i qi ord, m.owner = .docket i qi ord →
      m.packets.any (·.sent) = false → runOf u i qi ord = some (q, r) → noRouteEnds k m u = settle i qi ord
      { settledAs 8 0 (m.rank % 65536) with twin := m.twin } (modTx k (withdrawMessage m.owner) u))) ∧
  (∀ (s s1 : State) (k : ConnKey) (m : TxMsg) (t : TxPacket) (data : List Byte) (tw : Bool),
    packetData m t s = (data, none, tw, s1) → (m.sealKey = none ∨ m.ptype = 3) → t.sent = false →
    sendPacket k m t s = (let b := data ++ (if (packetFor s1 k m t).last && m.notify && m.ptype ≠ 4 then wordBytes m.imm
      else []); modTx k (fun c => { c with
        expires := s1.clk.mono + 2 * life s
        paceAt := s1.clk.mono
        msgs := c.msgs.map (noteSent t.psn s1.clk.mono (s1.clk.mono + rtoOf s c) none t.pidx tw) }) (inject
      { packetFor s1 k m t with void := false, body := b } s1))) ∧
  (∀ (s : State) (k : ConnKey) (c : RecvCtx) (t : Nat),
    running s = true → findRx s k = some c → c.ackDue = some t →
    exec (.ackDelayExpiry k) s = .next (sendAck k (waitMono t s))) ∧
  (∀ (s : State) (k : ConnKey) (c : RecvCtx), findRx s k = some c →
    sendAck k s = modRx k (fun x => { x with sinceAck := 0, maxLoad := 0, ackDue := none, lastSack := sackOf c })
      (inject (replyPacket s k 0x41 c.cum 16 0 true (leBytes 4 c.cum ++ leBytes 8 (sackOf c) ++ leBytes 1 c.maxLoad ++ [0,
      0, 0])) s)) ∧
  (∀ (s u : State) (k : ConnKey) (psn : Nat) (c : SendCtx) (m : TxMsg) (t : TxPacket),
    k.vc < 16 → running s = true → findTx s k = some c → c.failAt = none → ((ctxPackets c).find? (fun p => p.2.psn ==
      psn && p.2.sent && !p.2.lost && !stopped s p.1 && p.1.rnrAt.isNone && ((!p.2.settled && !p.2.sacked) || unanswered
      p.1)) = some (m, t)) → (u = modDlv (fun d => { d with timeouts := satAdd 16 d.timeouts 1 }) (waitMono t.due s)) →
    ((oldest c).map (fun o => o.2.psn) = some psn → retryLimit s ≤ t.resends → exec (.rtoExpiry k psn) s = .next
      (startFailure k u)) ∧ (t.resends < retryLimit s → exec (.rtoExpiry k psn) s = .next (modTx k (fun x => { x with
        backoff := min (2 * x.backoff) 256
        rate := (if k.vc = 8 then x.rate else max (rMin s) (x.rate / 2))
        tDec := u.clk.mono
        msgs := x.msgs.map fun m =>
          { m with packets := m.packets.map fun y => if y.psn = psn then { y with lost := true } else y } }) u))) ∧
  (∀ (s : State) (k : ConnKey) (psn t : Nat) (c : SendCtx) (m : TxMsg),
    findTx s k = some c → (c.msgs.find? (fun m => m.packets.any fun t => t.psn == psn) = some m) → m.rnrAt = some t →
    exec (.rnrResend k psn) s = .next (if m.packets.any (fun y => decide (retryLimit s ≤ y.resends)) then startFailure k
      (waitMono t s) else modTx k (fun c => { c with
        msgs := c.msgs.map fun x => if x.packets.any (fun y => y.psn == psn) then
          { x with rnrAt := none, packets := x.packets.map fun y => { y with lost := y.sent && !y.settled } } else x })
      (waitMono t s))) ∧
  (∀ (s : State) (k : ConnKey) (c : SendCtx) (t : Nat), findTx s k = some c → c.failAt = some t →
    exec (.connectionFail k) s = .next (admitWaits (each c.msgs endOwner (modDlv (fun d =>
      { d with tx := d.tx.filter fun x => x.key != k }) (waitMono t s))))) ∧
  (∀ (s : State) (k : ConnKey) (c : SendCtx) (m : TxMsg) (t : Nat),
    findTx s k = some c → c.failAt = none → (c.msgs.find? (fun m => m.wornAt.isSome) = some m) → m.wornAt = some t →
    exec (.connectionFail k) s = .next (admitWaits (noRouteEnds k m (waitMono t s)))) ∧
  (∀ (s : State) (k : ConnKey) (c : RecvCtx), findRx s k = some c →
    exec (.rxContextExpiry k) s = .next (reclaim (modDlv (fun d =>
      { d with rx := d.rx.filter (fun x => x.key != k), mapsFree := (if c.map then d.mapsFree + 1 else d.mapsFree) })
      (each c.msgs unreserve (waitMono c.expires s)))) ∧ (∀ n e, c.record[n]? = some e → coveredBy c.cum e.psn = false →
      exec (.responseRecordExpiry k n) s = .next (modRx k (fun x =>
      { x with record := x.record.take n ++ x.record.drop (n + 1) }) (waitMono e.expires s)))) ∧
  (∀ (s : State) (k : ConnKey) (c : SendCtx),
    k.vc < 16 → findTx s k = some c → (c.msgs.all (fun m => allSettled m && !unanswered m) = true) → c.failAt = none →
    exec (.txContextExpiry k) s = .next (admitWaits (modDlv (fun d => { d with tx := d.tx.filter fun x => x.key != k })
      (waitMono c.expires s))))

/-- TALLY_ADD adds its word to a tally of its instance, modulo 2^64, writing both copies, tests every started wait on it
and settles OK with the new value; with the remote flag it sends the word to a rank. TALLY_WAIT settles OK at once where V
− TARGET is at least 0 as a signed number, and waits otherwise; beyond 65,536 started waits it waits to start, and its
patience counts from when it starts. A change of the tally settles the waits whose condition then holds, and no others. A
wait not reached by the edge of tick S + p ends LAGGARD with the value, or with that a FREE found. A read is served by the
second copy where the first fails; where both do it finds 0 and ends the waits. ALLOC takes a free index below
TALLY_COUNT, FREE gives it back, SET writes it and tests the waits, READ shows it; ALLOC beyond the count answers RANGE,
of a taken index EXISTS, and the others of a free one ABSENT. -/
def Obligations.TalliesCount : Prop :=
  (∀ (s u u1 : State) (d : DRef) (q : Queue) (r : Run) (v : Word) (both : Bool),
    DocketReady s d opTallyAdd q r → bit (wd (runWords q r) 0) 16 = false → u = galleyAccess mQueue (some 1)
      (obtainAts d.inst q r s) → readTallyOf d.inst (dTally (runWords q r)) u = (both, v, u1) →
    exec (.tallyAdd d) s = .next (settle d.inst d.queue r.ord { settledAs 0 0 0 with extra := v + wd (runWords q r) 6 }
      (testWaits d.inst (dTally (runWords q r)) (v + wd (runWords q r) 6) (modGalley (fun g => { g with
        tallies := tset g.tallies (tallyNo u d.inst (dTally (runWords q r))) (v + wd (runWords q r) 6)
        tallyFailed := tdel g.tallyFailed (tallyNo u d.inst (dTally (runWords q r))) }) u1)))) ∧
  (∀ (s u : State) (d : DRef) (q : Queue) (r : Run) (t : Nat × Nat),
    DocketReady s d opTallyAdd q r → u = obtainAts d.inst q r s → bit (wd (runWords q r) 0) 16 = true → runRank r
      (dRank (runWords q r)) = some t → hasRoute u t.1 8 = true → framePort u t.1 = none → txReady u (connTo u q 8 t) =
      true →
    exec (.tallyAdd d) s = .next (markExecuted d.inst d.queue r.ord (addMessage (connTo u q 8 t) 1 (syncMessage u
      (.docket d.inst d.queue r.ord) (runJob r) 0x81 0 (leBytes 4 (dTally (runWords q r)) ++ wordBytes (wd (runWords q r)
      6)) (dRank (runWords q r))) u))) ∧
  (∀ (s u u1 : State) (d : DRef) (q : Queue) (r : Run) (v : Word),
    DocketReady s d opTallyWait q r → waitsStarted (obtainAts d.inst q r s) < 65536 → (u = (if r.heldBack then modRun
      d.inst d.queue r.ord (fun x => { x with heldBack := false, startTick := tickNow (obtainAts d.inst q r s) })
      (obtainAts d.inst q r s) else obtainAts d.inst q r s)) → readTallyOf d.inst (dTally (runWords q r)) (galleyAccess
      mQueue (some 1) u) = (false, v, u1) →
    exec (.tallyWait d) s = .next (if 0 ≤ (v - wd (runWords q r) 6).toInt then settle d.inst d.queue r.ord
      { settledAs 0 0 0 with extra := v } u1 else modRun d.inst d.queue r.ord (fun x => { x with executed := true }) u1)) ∧
  (∀ (s : State) (d : DRef) (q : Queue) (r : Run),
    DocketReady s d opTallyWait q r → 65536 ≤ waitsStarted (obtainAts d.inst q r s) →
    exec (.tallyWait d) s = .next (modRun d.inst d.queue r.ord (fun x => { x with heldBack := true }) (obtainAts d.inst
      q r s))) ∧
  (∀ (s : State) (i n qi : Nat) (v : Word) (q : Queue), getQueue s i qi = some q →
    getQueue (testWaits i n v s) i qi = some { q with
        runs := q.runs.map fun r => if waitsOn q n r && decide (0 ≤ (v - wd (runWords q r) 6).toInt) then
          { r with outcome := some { settledAs 0 0 0 with extra := v } } else r } ∧ testWaits i n v s =
      { s with insts := (testWaits i n v s).insts }) ∧
  (∀ (s : State) (d : DRef) (q : Queue) (r : Run),
    getQueue s d.inst d.queue = some q → (q.runs.find? (fun r => r.slot == d.slot && dOp (runWords q r) == opTallyWait
      && r.executed && r.outcome.isNone) = some r) →
    (ticking s = false ∨ tickNow s < r.startTick + dPatience (runWords q r) → exec (.tallyWaitPatience d) s = .next s) ∧
      (ticking s = true → r.startTick + dPatience (runWords q r) ≤ tickNow s → (∀ v, r.freedTally = some v → exec
      (.tallyWaitPatience d) s = .next (settle d.inst d.queue r.ord { settledAs 7 0 0 with extra := v } s)) ∧ (∀ v u,
      r.freedTally = none → readTallyOf d.inst (dTally (runWords q r)) (galleyAccess mQueue (some 1) s) = (false, v, u) →
      exec (.tallyWaitPatience d) s = .next (settle d.inst d.queue r.ord { settledAs 7 0 0 with extra := v } u)))) ∧
  (∀ (s : State) (i n : Nat) (b : Bool), pageOpen s i = true → n < 262144 → (getInst s i).st ≠ .resetting →
    exec (.tallyAlloc i n b) s = .next (if tallyCount (getInst s i) ≤ n then tallyAnswer i n 2 s else if (tget (getInst
      s i).tallies n).isSome then tallyAnswer i n 4 s else tallyAnswer i n 0 (putTally (tallyNo s i n) (getInst s
      i).regs.tallyValue (modInst i (fun y => { y with tallies := tset y.tallies n b }) s)))) ∧
  (∀ (s : State) (i n : Nat),
    pageOpen s i = true → n < 262144 → (getInst s i).st ≠ .resetting → (tget (getInst s i).tallies n).isSome = true →
    exec (.tallySet i n) s = .next (tallyAnswer i n 0 (testWaits i n (getInst s i).regs.tallyValue (putTally (tallyNo s
      i n) (getInst s i).regs.tallyValue s))) ∧ (∀ both v u, readTallyOf i n s = (both, v, u) → exec (.tallyRead i n) s =
      .next (tallyAnswer i n 0 (modRegs i (fun r => { r with tallyValue := v }) u))) ∧ (∀ both v u, readTallyOf i n s =
      (both, v, u) → exec (.tallyFree i n) s = .next (tallyAnswer i n 0 (modInst i (fun y => { y with
        tallies := tdel y.tallies n
        queues := tmap y.queues fun _ q =>
          { q with runs := q.runs.map fun r => if waitsOn q n r then { r with freedTally := some v } else r } }) u)))) ∧
  (∀ (s : State) (i n : Nat),
    ((tget s.galley.tallyFailed (tallyNo s i n)).getD 0 = 0 ∨ (tget s.galley.tallyFailed (tallyNo s i n)).getD 0 = 2 →
      readTallyOf i n s = (false, tallyValue s (tallyNo s i n), s)) ∧ ((tget s.galley.tallyFailed (tallyNo s i n)).getD 0
      = 1 → readTallyOf i n s = (false, tallyValue s (tallyNo s i n), latch (tallyEvent 5 1 (tallyNo s i n)) (modGalley
      (fun g => { g with tallyFailed := tdel g.tallyFailed (tallyNo s i n) }) s))) ∧ ((tget s.galley.tallyFailed (tallyNo
      s i n)).getD 0 = 3 → readTallyOf i n s = (true, 0, failWaits i n (latch (tallyEvent 6 3 (tallyNo s i n)) (modGalley
      (fun g => { g with tallies := tset g.tallies (tallyNo s i n) 0, tallyFailed := tdel g.tallyFailed (tallyNo s i n) })
      s))))) ∧
  (∀ (s : State) (i n : Nat),
    pageOpen s i = true → n < 262144 → (getInst s i).st ≠ .resetting → tget (getInst s i).tallies n = none →
    exec (.tallySet i n) s = .next (tallyAnswer i n 5 s) ∧ exec (.tallyRead i n) s = .next (tallyAnswer i n 5 s) ∧ exec
      (.tallyFree i n) s = .next (tallyAnswer i n 5 s))

/-- A new TALLY_ADD packet with room for its answer adds to the tally of the endpoint's instance where the job matches,
the instance is ACTIVE and the tally allows it; otherwise it is refused by code 1, 2 or 3 and the tally stays. Either way
the answer is kept and sent, with the value, and the request settled. TALLY_DONE ends the docket that sent the add: OK
with the value, REMOTE_REFUSED or WINDOW_FAULT. SYNC_ACK settles the message of its PSN, which leaves its connection. -/
def Obligations.TallyMessagesArrive : Prop :=
  (∀ (s u u1 : State) (p : Packet) (i : Nat) (v : Word) (both : Bool),
    arrives s p 0x81 = true → requestFresh p (consume p s) = true → u = requestContext p (consume p s) → recordRoom
      (keyOf p) u = true → tallyCheck u p = (0, i) → readTallyOf i (leNat (p.body.take 4) % 2 ^ 18) (galleyAccess
      mSwitch (some 1) u) = (both, v, u1) →
    ∃ t w n k, w = v + BitVec.ofNat 64 (leNat ((p.body.drop 4).take 8)) ∧ n = leNat (p.body.take 4) % 2 ^ 18 ∧ k =
      tallyNo u i n ∧ t = testWaits i n w (modGalley (fun g =>
      { g with tallies := tset g.tallies k w, tallyFailed := tdel g.tallyFailed k }) u1) ∧ exec (.tallyAddPacket p) s =
      .next (syncReply p 0xC1 (leBytes 1 0 ++ wordBytes w) (settleSync p (recordSync p 0xC1 (leBytes 1 0 ++ wordBytes w)
      t)))) ∧
  (∀ (s u : State) (p : Packet) (i code : Nat),
    arrives s p 0x81 = true → requestFresh p (consume p s) = true → u = requestContext p (consume p s) → recordRoom
      (keyOf p) u = true → tallyCheck u p = (code, i) → code ≠ 0 →
    exec (.tallyAddPacket p) s = .next (syncReply p 0xC1 (leBytes 1 code ++ wordBytes 0) (settleSync p (recordSync p
      0xC1 (leBytes 1 code ++ wordBytes 0) u)))) ∧
  (∀ (s : State) (p : Packet) (m : TxMsg),
    arrives s p 0xC1 = true → syncSent (consume p s) p = some m → m.ptype = 0x81 →
    exec (.tallyDone p) s = .next (endMessage m (if leNat (p.body.take 1) = 0 then
      { settledAs 0 0 0 with extra := BitVec.ofNat 64 (leNat ((p.body.drop 1).take 8)) } else if leNat (p.body.take 1) ≤ 2
      then settledAs 11 0 (leNat (p.body.take 1)) else settledAs 4 0 0) (endSync p (consume p s)))) ∧
  (∀ (s : State) (p : Packet) (c : SendCtx), arrives s p 0xC2 = true → findTx s (replyKey p) = some c →
    exec (.syncAck p) s = .next (endSync p (consume p s)) ∧ (findTx (endSync p (consume p s)) (replyKey p)).map (·.msgs)
      = some (c.msgs.filter fun m => !(m.packets.any fun t => t.psn == p.psn)))

/-- COLL_OPEN reads its list, reserves its bins in full or not at all and takes the lowest free handle: alone it is OPEN
at once, as coordinator it decides once all have joined, as another member it sends JOIN to member 0. COLL_RUN waits for
the open and for earlier runs, takes the handle's next run number, and begins unless an END has come for that number or
the handle is BROKEN; a run of no elements is OK at once. COLL_CLOSE, once no run is left, frees the handle with a CLOSE
to every member. All joined, the coordinator tells every member whether the handle folds. -/
def Obligations.HandlesOpenRunClose : Prop :=
  (∀ (s u u1 : State) (d : DRef) (q : Queue) (r : Run) (g : Seg) (rd : MemRead),
    DocketReady s d opCollOpen q r → u = obtainAts d.inst q r s → near (source r (dSrc (runWords q r)) (4 * coCount
      (runWords q r))) = some g → readSeg d.inst g (dSrc (runWords q r)) (4 * coCount (runWords q r)) u = (rd, u1) →
    (listRoom (coCount (runWords q r)) u = false → exec (.collOpen d) s = .next u) ∧ (∀ f, listRoom (coCount (runWords q
      r)) u = true → rd.fail = some f → exec (.collOpen d) s = .next (settle d.inst d.queue r.ord
      { settledAs 6 0 f.2 with twin := rd.twin } (latchAll rd.events u1)))) ∧
  (∀ (s u u1 : State) (d : DRef) (q : Queue) (r : Run) (g : Seg) (rd : MemRead) (e : Endpoint) (l : List Nat),
    DocketReady s d opCollOpen q r → u = obtainAts d.inst q r s → near (source r (dSrc (runWords q r)) (4 * coCount
      (runWords q r))) = some g → listRoom (coCount (runWords q r)) u = true → readSeg d.inst g (dSrc (runWords q r)) (4
      * coCount (runWords q r)) u = (rd, u1) → rd.fail = none → r.bound = some e → l = listRanks rd.bytes (coCount
      (runWords q r)) → (((l.any fun k => decide (2 ^ 18 ≤ k)) || decide (l.eraseDups.length < coCount (runWords q r))
      || l.count e.myRank != 1) = false) → (∀ k ∈ l, ((rankOf e k).map fun t => framePort (latchAll rd.events u1) t.1) =
      some none) → (((rankOf e (l.headD 0)).all fun t => l.headD 0 == e.myRank || txReady (latchAll rd.events u1)
      (connTo (latchAll rd.events u1) q 8 t)) = true) →
    ∃ v b, reserveBins d.inst (coBins (runWords q r)) (latchAll rd.events u1) = (b, v) ∧ exec (.collOpen d) s = .next
      (openHandle d.inst (newColl v q e d.queue r (runWords q r) (crc32 rd.bytes) b l) (modRun d.inst d.queue r.ord (fun x
      => { x with executed := true, twin := rd.twin }) v))) ∧
  (∀ (s : State) (i h : Nat) (c : Coll),
    ((List.range (fld (wd (getInst s i).record 1) 28 11)).find? (fun k => (tget (getInst s i).colls k).isNone) = some
      h) →
    ∃ t, t = modInst i (fun y => { y with colls := tset y.colls h c }) s ∧ (memberCount c = 1 → openHandle i c s =
      openDone i h (decide (c.granted ≠ 0)) t) ∧ (memberCount c ≠ 1 → c.index ≠ 0 → openHandle i c s = sendSync i h c 0
      0x82 0 (joinBody c) t) ∧ (memberCount c ≠ 1 → c.index = 0 → s.collDev.joins = [] → openHandle i c s = decideOpen i h
      (modColl i h (fun y => { y with joined := [(0, decide (c.granted ≠ 0))] }) t))) ∧
  (∀ (s : State) (i h : Nat) (c : Coll),
    getColl s i h = some c → c.st = .opening → c.index = 0 → memberCount c ≤ c.joined.length →
    ∃ f, f = (decide (c.bins ≠ 0) && c.joined.all (·.2)) ∧ decideOpen i h s = openDone i h f (toMembers i h c 0x83 0
      (leBytes 1 (if f then 1 else 0)) s)) ∧
  (∀ (s u v : State) (d : DRef) (q : Queue) (r : Run) (c : Coll) (k : Nat) (g h : Seg),
    DocketReady s d opCollRun q r → u = obtainAts d.inst q r s → getColl u d.inst (dHandle (runWords q r)) = some c →
      (¬ (c.st = .opening ∨ c.run.isSome = true ∨ earlierOn u d.inst (dHandle (runWords q r)) r.ord opCollRun = true ∨
      earlierOn u d.inst (dHandle (runWords q r)) r.ord opCollClose = true ∨ runWaits u c (runWords q r) = true)) → k =
      nextNumber c (c.skipped.length + 1) c.nextRun → near (source r (dSrc (runWords q r)) (dLen (runWords q r))) = some
      g → near (target r (dDst (runWords q r)) (dLen (runWords q r))) = some h → (v = modColl d.inst (dHandle (runWords
      q r)) (fun y => { y with
        nextRun := k + 1
        skipped := y.skipped.filter (fun x => decide (k < x))
        ends := y.ends.filter (fun x => x.1 != k % 2 ^ 32) }) u) → c.st = .open → (c.ends.find? (fun x => x.1 == k % 2 ^
      32) = none) →
    exec (.collRun d) s = .next (if (streamElems c.fmt (dLen (runWords q r))).getD 0 = 0 then settle d.inst d.queue
      r.ord { settledOk 0 with
        foldDenied := foldDenied c (fld (wd (runWords q r) 5) 16 2)
        extra := place (memberRank c c.index) 0 18 } v else activateRun d.inst (dHandle (runWords q r)) c r (runWords q r)
      (k % 2 ^ 32) g (markExecuted d.inst d.queue r.ord v))) ∧
  (∀ (s u : State) (d : DRef) (q : Queue) (r : Run) (c : Coll),
    DocketReady s d opCollRun q r → u = obtainAts d.inst q r s → getColl u d.inst (dHandle (runWords q r)) = some c →
      (¬ (¬ (c.st = .opening ∨ c.run.isSome = true ∨ earlierOn u d.inst (dHandle (runWords q r)) r.ord opCollRun = true
      ∨ earlierOn u d.inst (dHandle (runWords q r)) r.ord opCollClose = true ∨ runWaits u c (runWords q r) = true))) →
    exec (.collRun d) s = .next u) ∧
  (∀ (s u : State) (i h number : Nat) (c : Coll) (r : Run) (w : List Word) (g : Seg) (rd : MemRead) (n : CollRunSt),
    readRunSource i c (fld (wd w 5) 16 2) ((streamElems c.fmt (dLen w)).getD 0) g (dSrc w) (dLen w) s = (rd, u) →
      getColl (latchAll rd.events u) i h = some c → n = {
        number := number
        ord := r.ord
        mode := fld (wd w 5) 16 2
        elements := (streamElems c.fmt (dLen w)).getD 0
        folds := decide (fld (wd w 5) 16 2 ≤ 1) && decide (c.granted ≠ 0) && decide (1 < memberCount c)
        startTick := tickNow s
        patience := dPatience w
        srcBytes := rd.bytes
        got := []
        final := []
        sentTo := []
        granted := []
        waiting := []
        own := []
        latest := stampNow s
        latestBy := memberRank c c.index
        earliest := stampNow s
        twin := rd.twin } →
    ∃ v, getColl v i h = some { c with
        run := some n
        binChunks := c.binChunks.filter fun b => b.run != number || (b.mode == n.mode && b.elements == n.elements &&
          n.folds) } ∧ v = { latchAll rd.events u with insts := v.insts } ∧ (∀ f, rd.fail = some f → activateRun i h c r w
      number g s = ownDataError i h f.2 v) ∧ (rd.fail = none → activateRun i h c r w number g s = drainAll i h (pumpRun i
      h (deliverBins i h (pumpRun i h (loadRun i h (if memberCount c = 1 then v else firstReadies i h v))))))) ∧
  (∀ (s u : State) (d : DRef) (q : Queue) (r : Run) (c : Coll),
    DocketReady s d opCollClose q r → u = obtainAts d.inst q r s → getColl u d.inst (dHandle (runWords q r)) = some c
      →
    (c.st = .opening → exec (.collClose d) s = .next (markExecuted d.inst d.queue r.ord (modColl d.inst (dHandle
      (runWords q r)) (fun y => { y with closing := y.closing ++ [(d.queue, r.ord)] }) u))) ∧ (c.st ≠ .opening → c.run =
      none → earlierOn u d.inst (dHandle (runWords q r)) r.ord opCollRun = false → exec (.collClose d) s = .next (settle
      d.inst d.queue r.ord (settledOk 0) (dropColl d.inst (dHandle (runWords q r)) (toMembers d.inst (dHandle (runWords q
      r)) c 0x86 0 [] u)))))

/-- A new message of VC 8 is answered with SYNC_ACK and settled. A JOIN for no handle here is held; one that fits an
opening coordinator is counted. DECIDE of member 0 opens the handle. READY raises the rooms that its sender grants in a
run, and the run moves on. END ends the open, or the run in progress, or is kept for a later run of its number. CLOSE
withdraws the sender's held JOIN and breaks the handle. QUERY is answered with the rank that this member waits for;
QUERY_ANSWER passes the question on, or settles the name. -/
def Obligations.CollectiveMessagesArrive : Prop :=
  (∀ (s u : State) (p : Packet),
    arrives s p 0x82 = true → requestFresh p (consume p s) = true → u = requestContext p (consume p s) → collOf u p =
      none →
    exec (.join p) s = .next (syncReply p 0xC2 [] (settleSync p (modCollDev (fun d => { d with
        joins := d.joins ++ [{
            ep := p.dstEp
            srcDev := p.srcDev
            srcEp := p.srcEp
            key := fld p.h3 0 32
            count := leNat (p.body.take 4)
            crc := leNat ((p.body.drop 4).take 4)
            fmt := leNat ((p.body.drop 8).take 1)
            op := leNat ((p.body.drop 9).take 1)
            bins := leNat ((p.body.drop 10).take 1)
            grant := decide (leNat ((p.body.drop 11).take 1) = 1)
            tick := tickNow u }] }) u)))) ∧
  (∀ (s : State) (i h m : Nat) (c : Coll) (j : HeldJoin),
    getColl s i h = some c → joinFits c j = true → memberAt c j.srcDev j.srcEp = some m →
    countJoin i h j s = modCollDev (fun d => { d with joins := delFirst d.joins (· == j) }) (modColl i h (fun y =>
      { y with joined := y.joined ++ [(m, j.grant)] }) s)) ∧
  (∀ (s u : State) (p : Packet) (i h : Nat) (c : Coll),
    arrives s p 0x82 = true → requestFresh p (consume p s) = true → u = requestContext p (consume p s) → collOf u p =
      some (i, h, c) → c.st = .opening → c.index = 0 →
    ∃ j, j.key = fld p.h3 0 32 ∧ j.srcDev = p.srcDev ∧ j.srcEp = p.srcEp ∧ exec (.join p) s = .next (syncReply p 0xC2 []
      (settleSync p (decideOpen i h (countJoin i h j (modCollDev (fun d => { d with joins := d.joins ++ [j] }) u)))))) ∧
  (∀ (s u : State) (p : Packet) (i h : Nat) (c : Coll),
    arrives s p 0x83 = true → requestFresh p (consume p s) = true → u = requestContext p (consume p s) → collOf u p =
      some (i, h, c) → c.st = .opening → memberAt c p.srcDev p.srcEp = some 0 →
    exec (.decide p) s = .next (syncReply p 0xC2 [] (settleSync p (openDone i h (decide (leNat (p.body.take 1) = 1) &&
      decide (c.granted ≠ 0)) u)))) ∧
  (∀ (s u : State) (p : Packet) (i h j : Nat) (c : Coll),
    arrives s p 0x84 = true → requestFresh p (consume p s) = true → u = requestContext p (consume p s) → collOf u p =
      some (i, h, c) → memberAt c p.srcDev p.srcEp = some j → (runAhead c (runOfPacket p) = true ∨ (c.run.map
      (·.number)) = some (runOfPacket p) ∨ (c.binChunks.any fun b => b.run == runOfPacket p) = true) →
    exec (.ready p) s = .next (syncReply p 0xC2 [] (settleSync p (drainAll i h (pumpRun i h (deliverBins i h (modColl i
      h (fun y => { y with
        readies := (y.readies.filter fun x => !(x.1 == runOfPacket p && x.2.1 == j)) ++ [(runOfPacket p, j, max (leNat
          (p.body.take 4)) ((roomsFrom c (runOfPacket p) j).getD 0))] }) u))))))) ∧
  (∀ (s u : State) (p : Packet) (i h word : Nat) (c : Coll),
    arrives s p 0x85 = true → requestFresh p (consume p s) = true → u = requestContext p (consume p s) → collOf u p =
      some (i, h, c) → word = leNat (p.body.take 4) →
    (c.st = .opening → memberAt c p.srcDev p.srcEp = some 0 → exec (.end_ p) s = .next (syncReply p 0xC2 [] (settleSync
      p (openFail i h (word % 2 ^ 18) u)))) ∧ (c.st ≠ .opening → (c.run.map (·.number)) = some (runOfPacket p) → exec
      (.end_ p) s = .next (syncReply p 0xC2 [] (settleSync p (drainAll i h (endBy i h word u))))) ∧ (c.st ≠ .opening →
      (c.run.map (·.number)) ≠ some (runOfPacket p) → exec (.end_ p) s = .next (syncReply p 0xC2 [] (settleSync p
      (drainAll i h (if runAhead c (runOfPacket p) then modColl i h (fun y =>
      { y with ends := y.ends ++ [(runOfPacket p, word)] }) (dropFold i h (runOfPacket p) u) else dropFold i h
      (runOfPacket p) u)))))) ∧
  (∀ (s u : State) (p : Packet) (i h j : Nat) (c : Coll),
    arrives s p 0x86 = true → requestFresh p (consume p s) = true → u = requestContext p (consume p s) → collOf u p =
      some (i, h, c) → memberAt c p.srcDev p.srcEp = some j →
    (¬ (c.st = .opening ∧ c.index = 0) → exec (.close p) s = .next (syncReply p 0xC2 [] (settleSync p (peerGone i h
      (memberRank c j) u)))) ∧ (c.st = .opening → c.index = 0 → exec (.close p) s = .next (syncReply p 0xC2 [] (settleSync
      p (peerGone i h (memberRank c j) (modCollDev (fun d => { d with
        joins := d.joins.filter fun x => !(x.ep == p.dstEp && x.key == c.key && x.srcDev == p.srcDev && x.srcEp ==
          p.srcEp) }) (modColl i h (fun y => { y with joined := y.joined.filter (·.1 != j) }) u)))))) ∧ (∀ v, getColl v i
      h = some c → c.st = .open → peerGone i h (memberRank c j) v = endLaggard i h (memberRank c j) (modColl i h (fun y =>
      { y with st := .broken, brokenBy := some (memberRank c j) }) v)) ∧ (∀ v, getColl v i h = some c → c.st = .opening →
      peerGone i h (memberRank c j) v = modColl i h (fun y =>
      { y with brokenBy := some (y.brokenBy.getD (memberRank c j)) }) v) ∧ (∀ v, getColl v i h = some c → c.st = .broken →
      peerGone i h (memberRank c j) v = v)) ∧
  (∀ (s u : State) (p : Packet),
    arrives s p 0x87 = true → requestFresh p (consume p s) = true → u = requestContext p (consume p s) → recordRoom
      (keyOf p) u = true →
    ∃ x, x = (collOf u p).bind (fun y => y.2.2.run.bind fun r => if r.number = runOfPacket p then (waitedFor y.2.2
      r).map (memberRank y.2.2) else none) ∧ exec (.queryPacket p) s = .next (syncReply p 0xC7 (leBytes 1 (if x.isSome
      then 1 else 0) ++ leBytes 4 (x.getD 0)) (settleSync p (recordSync p 0xC7 (leBytes 1 (if x.isSome then 1 else 0) ++
      leBytes 4 (x.getD 0)) u)))) ∧
  (∀ (s : State) (p : Packet) (m : TxMsg) (i h j t : Nat) (seen : List Nat) (c : Coll) (r : CollRunSt),
    arrives s p 0xC7 = true → syncSent (consume p s) p = some m → m.owner = .coll i h → m.ptype = 0x87 → getColl s i h
      = some c → c.run = some r → c.query = some (j, t, seen) → memberRank c j = m.rank → fld m.h3 32 32 = r.number →
    exec (.queryAnswer p) s = .next (if leNat (p.body.take 1) = 0 then settleName i h (memberRank c j) (endSync p
      (consume p s)) else askMember i h (c.members.idxOf (leNat ((p.body.drop 1).take 4) % 2 ^ 18)) seen (endSync p
      (consume p s))))

/-- A held JOIN leaves at the edge of tick A + 3. A coordinator without every JOIN at the edge of tick S + 3 sends END
with the lowest rank missing and its open ends LAGGARD with it; a member without DECIDE 10 µs after that edge names the
coordinator. A run not complete by the edge of tick S + p asks the member it waits for, with QUERY; one asked before, or
itself, is named: END goes to every member and the run ends LAGGARD. A member that does not answer within 10 µs is named.
-/
def Obligations.CollectiveTimersExpire : Prop :=
  (∀ (s : State) (ep key dev sep : Nat),
    exec (.joinHoldExpiry ep key dev sep) s = .next (modCollDev (fun d => { d with
        joins := d.joins.filter fun j => !(j.ep == ep && j.key == key && j.srcDev == dev && j.srcEp == sep && ticking s
          && decide (j.tick + 3 ≤ tickNow s)) }) s)) ∧
  (∀ (s : State) (i h j : Nat) (c : Coll),
    getColl s i h = some c → c.st = .opening → ticking s = true → c.openTick + 3 ≤ tickNow s →
    (c.index = 0 → (List.range (memberCount c)).find? (fun j => !c.joined.any (·.1 == j)) = some j → exec
      (.coordinatorGatherTimeout i h) s = .next (openFail i h (memberRank c j) (toMembers i h c 0x85 0 (leBytes 4 (endWord
      (memberRank c j) 0)) s))) ∧ exec (.collOpenTimeout i h) s = .next (openFail i h (memberRank c 0) (waitPtp
      (s.time.edge - (tickNow s - (c.openTick + 3)).toNat * period s + 10000) s))) ∧
  (∀ (s : State) (i h : Nat) (c : Coll) (r : CollRunSt), getColl s i h = some c → c.run = some r →
    (ticking s = true → r.startTick + r.patience ≤ tickNow s → c.query = none → exec (.collRunPatience i h) s = .next
      (askMember i h ((waitedFor c r).getD (readyMissing c r)) [] s)) ∧ (∀ j t seen, running s = true → c.query = some (j,
      t, seen) → exec (.laggardQueryTimeout i h) s = .next (settleName i h (memberRank c j) (waitMono (t + 10000) s))) ∧
      (∀ j seen, askMember i h j seen s = if j = c.index ∨ j ∈ seen then settleName i h (memberRank c j) s else sendSync i
      h c j 0x87 r.number [] (modColl i h (fun y => { y with query := some (j, s.clk.mono, seen ++ [j]) }) s)) ∧ (∀ rank,
      settleName i h rank s = endLaggard i h rank (toMembers i h c 0x85 r.number (leBytes 4 (endWord rank 0)) s))) ∧
  (∀ (s : State) (i h rank : Nat) (c : Coll) (r : CollRunSt) (k : List Nat),
    getColl s i h = some c → c.run = some r → k = (if r.folds then [] else keptPieces c r (memberCount c) 0) →
    endLaggard i h rank s = noteLaggard i r.ord h rank (closeRun i h r.number false (settle i c.queue r.ord
      { settledAs 7 (sumOf (pieceBytes c r.elements) k) (rank % 65536) with
        foldDenied := foldDenied c r.mode
        twin := r.twin } (spoilRun i c r (if k = [] then undefRun i c r.ord s else each ((List.range (memberCount
      c)).filter fun x => !k.contains x) (undefPiece i c r) s)))))

/-- A new chunk packet that concerns no handle here is acknowledged and changes nothing else. A packet of a chunk is kept
until the chunk is whole; the whole chunk reaches its handle by its type and is acknowledged. SMALL_RUN is a contribution,
or with STEP 1 a result. A contribution goes to its bin; other chunks wait in their rooms while the hatch of the
destination takes no writes. A ring chunk is added to this member's own part while the reduction goes on, is written where
its piece is final, and is forwarded while steps are left; a contribution is added to its bin by OP, and the last member's
makes the result. -/
def Obligations.ChunksAreTaken : Prop :=
  (∀ (s u : State) (p : Packet),
    (p.ptype = 0x10 ∨ p.ptype = 0x11 ∨ p.ptype = 0x12 ∨ p.ptype = 0x13) → arrives s p p.ptype = true → requestFresh p
      (consume p s) = true → u = requestContext p (consume p s) → collOf u p = none →
    exec (if p.ptype = 0x10 then .collStep p else if p.ptype = 0x11 then .collFold p else if p.ptype = 0x12 then
      .collResult p else .collPiece p) s = .next (acknowledge p p.last u)) ∧
  (∀ (s u : State) (p : Packet) (i h n : Nat) (c : Coll) (m : RxMsg) (bytes : List Byte),
    (p.ptype = 0x10 ∨ p.ptype = 0x11 ∨ p.ptype = 0x12 ∨ p.ptype = 0x13) → arrives s p p.ptype = true → requestFresh p
      (consume p s) = true → u = requestContext p (consume p s) → collOf u p = some (i, h, c) → n = payloadLen p.msgLen
      (segOf p - 16) p.pidx → (m = (fun (m0 : RxMsg) => { m0 with
        seg := none
        imm := p.h3
        counted := m0.counted + n
        pidxs := m0.pidxs ++ [p.pidx]
        data := m0.data ++ [(p.pidx, (p.body.drop 16).take n)] }) (((findRx u (keyOf p)).bind fun y => y.msgs.find? fun
      z => z.psn == firstPsn p).getD (newMessage p i Win.empty Seg.empty none))) → (bytes = (List.range (max 1 (ceilDiv
      p.msgLen (segOf p - 16)))).flatMap fun j => ((m.data.find? fun d => d.1 == j).map (·.2)).getD []) →
    (m.counted < p.msgLen → exec (if p.ptype = 0x10 then .collStep p else if p.ptype = 0x11 then .collFold p else if
      p.ptype = 0x12 then .collResult p else .collPiece p) s = .next (acknowledge p false (modRx (keyOf p) (fun x =>
      { x with msgs := (x.msgs.filter fun y => y.psn != m.psn) ++ [m] }) u))) ∧ (p.msgLen ≤ m.counted → exec (if p.ptype =
      0x10 then .collStep p else if p.ptype = 0x11 then .collFold p else if p.ptype = 0x12 then .collResult p else
      .collPiece p) s = .next (acknowledge p true (chunkArrives i h (chunkOf p (p.body.take 16) bytes ((memberAt c
      p.srcDev p.srcEp).getD 0)) (dropRxMsg (keyOf p) m.psn u))))) ∧
  (∀ (s u : State) (p : Packet) (i h : Nat) (c : Coll) (x : ChunkIn),
    arrives s p 0x88 = true → requestFresh p (consume p s) = true → u = requestContext p (consume p s) → collOf u p =
      some (i, h, c) → x = chunkOf p (p.body.take 16) (p.body.drop 16) ((memberAt c p.srcDev p.srcEp).getD 0) →
    exec (.smallRun p) s = .next (syncReply p 0xC2 [] (settleSync p (chunkArrives i h
      { x with ptype := if x.step = 1 then 0x12 else 0x11 } u)))) ∧
  (∀ (s : State) (i h : Nat) (c : Coll) (x : ChunkIn), getColl s i h = some c →
    (x.ptype = 0x11 → chunkArrives i h x s = drainAll i h (foldChunk i h x s)) ∧ (x.ptype ≠ 0x11 → runBlocked s i c =
      true → chunkArrives i h x s = drainAll i h (modColl i h (fun y => { y with rooms := y.rooms ++ [x] }) s)) ∧ (x.ptype
      ≠ 0x11 → runBlocked s i c = false → chunkArrives i h x s = drainAll i h (if x.ptype = 0x10 then ringChunk i h x s
      else if x.ptype = 0x12 then resultChunk i h x s else pieceChunk i h x s))) ∧
  (∀ (s : State) (i h : Nat) (c : Coll) (r : CollRunSt) (x : ChunkIn) (data : List Byte),
    getColl s i h = some c → c.run = some r → chunkFits r x = true → r.folds = false → r.mode ≠ 3 → x.sender =
      prevMember c → x.step < ringSteps c r.mode → x.piece = ringPiece c r.mode x.step → x.chunk < chunksOf false c.fmt
      (pieceUnits c.fmt r.elements (memberCount c) x.piece) → r.got.contains (x.step, x.chunk) = false → x.data.length =
      unitsAt false c.fmt (pieceUnits c.fmt r.elements (memberCount c) x.piece) x.chunk * unitBytes c.fmt → data = (if
      r.mode ≠ 2 ∧ x.step + 2 ≤ memberCount c then accBytes c.fmt (accAdd c.op (accOf c.fmt x.data) (accOf c.fmt
      (sourceChunk c r x.piece x.chunk))) else x.data) →
    ∃ t v, t = modCollRun i h (fun y => noteStamps x.stamps { y with got := y.got ++ [(x.step, x.chunk)] }) s ∧ v = (if
      r.mode = 2 ∨ memberCount c ≤ x.step + 2 then placeFinal i h x.piece x.chunk data t else t) ∧ ringChunk i h x s =
      pumpRun i h (if x.step + 1 < ringSteps c r.mode then modCollRun i h (fun y => { y with
        waiting := y.waiting ++
          [{ dst := nextMember c, ptype := 0x10, step := x.step + 1, piece := x.piece, chunk := x.chunk, data := data }] })
      v else grantRoom i h (prevMember c) v)) ∧
  (∀ (s : State) (i h : Nat) (c : Coll) (x : ChunkIn) (b : BinChunk),
    getColl s i h = some c → (c.binChunks.find? (fun b => b.run == x.run && b.chunk == x.chunk) = some b) →
      b.from_.contains x.sender = false → b.mode = x.mode → b.elements = x.elements →
    ∃ f : BinChunk → BinChunk, foldIn i h x s = deliverBin i h x.run x.chunk (modBin i h x.run x.chunk f s) ∧ (f
      b).from_ = b.from_ ++ [x.sender] ∧ (f b).acc = accAdd c.op b.acc (accOf c.fmt x.data) ∧ (f b).result = (if
      b.from_.length + 1 = memberCount c then some (accBytes c.fmt (f b).acc) else b.result))

/-- While the instance resets the answer is BUSY, ENTRY 3FFFFH. A table that cannot be read gives FETCH; a generation that
is not the device's plus one STALE. The masked segments and named windows are then read and checked against the resulting
tables; a finding is answered with its entry and nothing changes, and so are an entry that cannot be read and one beyond
its quota or without room. Without one, and within the quotas, the segments, their storage, the windows and the generation
are all replaced, the storage freed waits for what is bound to it, the generation is written to the host copy, and the
answer is OK, ENTRY 3FFFFH. -/
def Obligations.TablesAreSynced : Prop :=
  (∀ (s : State) (i : Nat) (v : Word), pageOpen s i = true → (getInst s i).st = .resetting →
    exec (.tblSync i v) s = .next (tblAnswer i tbBusy 0x3FFFF s)) ∧
  (∀ (s s1 : State) (i : Nat) (v : Word) (h : MemRead),
    pageOpen s i = true → (getInst s i).st ≠ .resetting → readHost (fnOf s i) ((getInst s i).regs.tblAddr.toNat / 64 *
      64) 64 s = (h, s1) →
    (h.fail.isSome = true → exec (.tblSync i v) s = .next (tblAnswer i tbFetch 0x3FFFF s1)) ∧ (h.fail = none → fld
      (wordAt h.bytes 0) 0 32 ≠ ((getInst s i).devGen + 1) % 2 ^ 32 → exec (.tblSync i v) s = .next (tblAnswer i tbStale
      0x3FFFF s1))) ∧
  (∀ (s s1 s2 s3 : State) (i : Nat) (v : Word) (h : MemRead) (segw winw : Table (List Word)) (segs : List Seg) (wins
      : Table Win) (e : Nat × Nat),
    pageOpen s i = true → (getInst s i).st ≠ .resetting → readHost (fnOf s i) ((getInst s i).regs.tblAddr.toNat / 64 *
      64) 64 s = (h, s1) → h.fail = none → fld (wordAt h.bytes 0) 0 32 = ((getInst s i).devGen + 1) % 2 ^ 32 →
      (readEntries (fnOf s i) ((getInst s i).regs.tblAddr.toNat / 64 * 64 + 64) ((List.range 16).filter fun k => bit v
      k) s1 = (.ok segw, s2)) → (readEntries (fnOf s i) ((getInst s i).regs.tblWinAddr.toNat / 4096 * 4096)
      (((List.range (fld v 32 17)).map (fun k => k + fld v 16 16)).filter (· < 65536)) s2 = (.ok winw, s3)) → (segs =
      (List.range 16).map fun k => (tget segw k).elim ((getInst s i).segs.getD k Seg.empty) segOfWords) → (wins =
      winw.foldl (fun t p => if (winOfWords p.2).valid then tset t p.1 (winOfWords p.2) else tdel t p.1) (getInst s
      i).wins) → tblFinding s3 i v segw winw segs wins = some e →
    exec (.tblSync i v) s = .next (tblAnswer i e.1 e.2 s3)) ∧
  (∀ (s s1 s2 : State) (i : Nat) (v : Word) (h : MemRead),
    pageOpen s i = true → (getInst s i).st ≠ .resetting → readHost (fnOf s i) ((getInst s i).regs.tblAddr.toNat / 64 *
      64) 64 s = (h, s1) → h.fail = none → fld (wordAt h.bytes 0) 0 32 = ((getInst s i).devGen + 1) % 2 ^ 32 →
    (∀ k, readEntries (fnOf s i) ((getInst s i).regs.tblAddr.toNat / 64 * 64 + 64) ((List.range 16).filter fun k => bit
      v k) s1 = (.error k, s2) → exec (.tblSync i v) s = .next (tblAnswer i tbFetch k s2)) ∧ (∀ segw s3 k, readEntries
      (fnOf s i) ((getInst s i).regs.tblAddr.toNat / 64 * 64 + 64) ((List.range 16).filter fun k => bit v k) s1 = (.ok
      segw, s2) → readEntries (fnOf s i) ((getInst s i).regs.tblWinAddr.toNat / 4096 * 4096) (((List.range (fld v 32
      17)).map (fun k => k + fld v 16 16)).filter (· < 65536)) s2 = (.error k, s3) → exec (.tblSync i v) s = .next
      (tblAnswer i tbFetch (0x20000 + k) s3))) ∧
  (∀ (s s1 s2 s3 : State) (i : Nat) (v : Word) (h : MemRead) (segw winw : Table (List Word)) (segs : List Seg) (wins
      : Table Win),
    pageOpen s i = true → (getInst s i).st ≠ .resetting → readHost (fnOf s i) ((getInst s i).regs.tblAddr.toNat / 64 *
      64) 64 s = (h, s1) → h.fail = none → fld (wordAt h.bytes 0) 0 32 = ((getInst s i).devGen + 1) % 2 ^ 32 →
      (readEntries (fnOf s i) ((getInst s i).regs.tblAddr.toNat / 64 * 64 + 64) ((List.range 16).filter fun k => bit v
      k) s1 = (.ok segw, s2)) → (readEntries (fnOf s i) ((getInst s i).regs.tblWinAddr.toNat / 4096 * 4096)
      (((List.range (fld v 32 17)).map (fun k => k + fld v 16 16)).filter (· < 65536)) s2 = (.ok winw, s3)) → (segs =
      (List.range 16).map fun k => (tget segw k).elim ((getInst s i).segs.getD k Seg.empty) segOfWords) → (wins =
      winw.foldl (fun t p => if (winOfWords p.2).valid then tset t p.1 (winOfWords p.2) else tdel t p.1) (getInst s
      i).wins) → tblFinding s3 i v segw winw segs wins = none →
    (∀ k j, overQuota (getInst s i) (getInst s i).segs segs = some k → placeStorage s3 i (getInst s i).segs 16 0 segs =
      .error j → exec (.tblSync i v) s = .next (tblAnswer i tbQuota (min k j) s3)) ∧ (∀ k l, overQuota (getInst s i)
      (getInst s i).segs segs = some k → placeStorage s3 i (getInst s i).segs 16 0 segs = .ok l → exec (.tblSync i v) s =
      .next (tblAnswer i tbQuota k s3)) ∧ (∀ k, overQuota (getInst s i) (getInst s i).segs segs = none → placeStorage s3 i
      (getInst s i).segs 16 0 segs = .error k → exec (.tblSync i v) s = .next (tblAnswer i tbQuota k s3)) ∧ (∀ l k,
      overQuota (getInst s i) (getInst s i).segs segs = none → placeStorage s3 i (getInst s i).segs 16 0 segs = .ok l →
      fld (wd (getInst s i).record 0) 21 17 < wins.length → firstWin wins (fun p => (tget (getInst s i).wins p.1).isNone)
      = some k → exec (.tblSync i v) s = .next (tblAnswer i tbQuota (0x20000 + k) s3))) ∧
  (∀ (s s1 s2 s3 : State) (i : Nat) (v : Word) (h : MemRead) (segw winw : Table (List Word)) (segs placed : List Seg)
      (wins : Table Win),
    pageOpen s i = true → (getInst s i).st ≠ .resetting → readHost (fnOf s i) ((getInst s i).regs.tblAddr.toNat / 64 *
      64) 64 s = (h, s1) → h.fail = none → fld (wordAt h.bytes 0) 0 32 = ((getInst s i).devGen + 1) % 2 ^ 32 →
      (readEntries (fnOf s i) ((getInst s i).regs.tblAddr.toNat / 64 * 64 + 64) ((List.range 16).filter fun k => bit v
      k) s1 = (.ok segw, s2)) → (readEntries (fnOf s i) ((getInst s i).regs.tblWinAddr.toNat / 4096 * 4096)
      (((List.range (fld v 32 17)).map (fun k => k + fld v 16 16)).filter (· < 65536)) s2 = (.ok winw, s3)) → (segs =
      (List.range 16).map fun k => (tget segw k).elim ((getInst s i).segs.getD k Seg.empty) segOfWords) → (wins =
      winw.foldl (fun t p => if (winOfWords p.2).valid then tset t p.1 (winOfWords p.2) else tdel t p.1) (getInst s
      i).wins) → tblFinding s3 i v segw winw segs wins = none → wins.length ≤ fld (wd (getInst s i).record 0) 21 17 →
      overQuota (getInst s i) (getInst s i).segs segs = none → placeStorage s3 i (getInst s i).segs 16 0 segs = .ok
      placed →
    exec (.tblSync i v) s = .next (tblAnswer i tbOk 0x3FFFF (reclaim (writeHost (fnOf s i) ((getInst s
      i).regs.tblAddr.toNat / 64 * 64 + 8) (leBytes 4 (((getInst s i).devGen + 1) % 2 ^ 32)) (modInst i (fun y =>
      { y with
        segs := placed
        wins := wins
        devGen := ((getInst s i).devGen + 1) % 2 ^ 32
        refusing := y.refusing && wins.isEmpty }) (each ((List.range 16).filterMap fun k => freedBy ((getInst s
      i).segs.getD k Seg.empty) (placed.getD k Seg.empty)) freeStorage s3))).2))) ∧
  (∀ (s : State) (i code e : Nat),
    (getInst (tblAnswer i code e s) i).regs.tblResult = code ∧ (getInst (tblAnswer i code e s) i).regs.tblEntry = e ∧
      (getInst (tblAnswer i code e s) i).segs = (getInst s i).segs ∧ (getInst (tblAnswer i code e s) i).wins = (getInst s
      i).wins ∧ (getInst (tblAnswer i code e s) i).devGen = (getInst s i).devGen)

/-- The descriptor is read each time: unreadable gives FETCH, a generation that is not the endpoint's plus one STALE. The
ranks are read from the rank table of the binding (with BIND the new one); unreadable gives FETCH, a reserved field, a
wrong binding, ranks past the count or a reserved bit in an entry RANGE; an unbinding reads no ranks and leaves none.
Otherwise the endpoint takes the binding, the generation and the ranks, and the collectives of an endpoint that changes
hands lose it. -/
def Obligations.EndpointsAreSynced : Prop :=
  (∀ (s s1 : State) (v : Word) (b : Bool) (d : MemRead) (old : Endpoint),
    mgrOpen s = true → readHost (mgrFn s) (s.misc.epDesc.toNat / 32 * 32) 32 s = (d, s1) → old = (tget s.endpoints
      (fld v 0 6)).getD Endpoint.empty →
    (d.fail.isSome = true → exec (if b then .epBind v else .epSync v) s = .next (epAnswer (fld v 0 6) tbFetch s1)) ∧
      (d.fail = none → fld (wd (wordsOf d.bytes 4) 3) 0 32 ≠ (old.gen + 1) % 2 ^ 32 → exec (if b then .epBind v else
      .epSync v) s = .next (epAnswer (fld v 0 6) tbStale s1))) ∧
  (∀ (s s1 s2 : State) (v : Word) (b : Bool) (d r : MemRead) (old new : Endpoint) (nums : List Nat),
    mgrOpen s = true → readHost (mgrFn s) (s.misc.epDesc.toNat / 32 * 32) 32 s = (d, s1) → old = (tget s.endpoints
      (fld v 0 6)).getD Endpoint.empty → d.fail = none → fld (wd (wordsOf d.bytes 4) 3) 0 32 = (old.gen + 1) % 2 ^ 32 →
      (new = if b then bindOf (wordsOf d.bytes 4) old else old) → ((if fld v 26 19 = 0 ∨ (b && !new.valid) = true then
      ({ bytes := [], fail := none, twin := false, events := [] }, s1) else readHost (mgrFn s) (new.rtAddr + 4 * fld v 8
      18) (4 * fld v 26 19) s1) = (r, s2)) → (nums = (List.range (fld v 26 19)).map fun k => leNat ((r.bytes.drop (4 *
      k)).take 4)) →
    (r.fail.isSome = true → exec (if b then .epBind v else .epSync v) s = .next (epAnswer (fld v 0 6) tbFetch s2)) ∧
      (r.fail = none → (descBad (wordsOf d.bytes 4) || (b && bindBad s2 (fld v 0 6) (wordsOf d.bytes 4) old (fld v 26 19))
      || (!(b && !new.valid) && decide (new.rankCount < fld v 8 18 + fld v 26 19)) || nums.any (fun n => n / 2 ^ 22 % 2 ^
      9 != 0)) = true → exec (if b then .epBind v else .epSync v) s = .next (epAnswer (fld v 0 6) tbRange s2)) ∧ (r.fail =
      none → (descBad (wordsOf d.bytes 4) || (b && bindBad s2 (fld v 0 6) (wordsOf d.bytes 4) old (fld v 26 19)) || (!(b
      && !new.valid) && decide (new.rankCount < fld v 8 18 + fld v 26 19)) || nums.any (fun n => n / 2 ^ 22 % 2 ^ 9 != 0))
      = false → ∃ u, u = (if old.valid && (!new.valid || old.inst != new.inst || old.job != new.job) then unbindColls (fld
      v 0 6) s2 else s2) ∧ exec (if b then .epBind v else .epSync v) s = .next (epAnswer (fld v 0 6) tbOk { u with
        endpoints := tset u.endpoints (fld v 0 6) { new with
            gen := (old.gen + 1) % 2 ^ 32
            ranks := ((List.range (fld v 26 19)).zip nums).foldl (fun t p => tset t (fld v 8 18 + p.1) (rankEntry p.2))
              new.ranks } })))

/-- A ligature command answers BUSY while the instance resets and RANGE for an index it does not hold; LOAD reads 64 bytes
through a readable segment, checks them, and the entry holds them; CLEAR empties it. KEY LOAD fills an empty slot within
quota, and clears KEY_DATA whatever the result; ERASE frees a slot at once when nothing is bound to it, and otherwise
leaves its key to what is bound, until zeroised; READ shows everything but the key. -/
def Obligations.LigaturesAndKeysAreLoaded : Prop :=
  (∀ (s : State) (i n : Nat) (b : Bool), pageOpen s i = true → n < 65536 → (getInst s i).st = .resetting →
    exec (if b then .ligLoad i n else .ligClear i n) s = .next (ligAnswer i n lgBusy s)) ∧
  (∀ (s : State) (i n : Nat) (b : Bool),
    pageOpen s i = true → n < 65536 → (getInst s i).st ≠ .resetting → (n = 0 ∨ ligEntries (getInst s i) ≤ n) →
    exec (if b then .ligLoad i n else .ligClear i n) s = .next (ligAnswer i n lgRange s)) ∧
  (∀ (s s1 : State) (i n : Nat) (g : Seg) (r : MemRead),
    pageOpen s i = true → 0 < n → n < ligEntries (getInst s i) → (getInst s i).st ≠ .resetting → findSeg (getInst s
      i).segs ((getInst s i).regs.ligAddr.toNat / 64 * 64) 64 true false = some g → g.kind < 4 → readSeg i g ((getInst s
      i).regs.ligAddr.toNat / 64 * 64) 64 s = (r, s1) →
    (r.fail.isSome = true → exec (.ligLoad i n) s = .next (ligAnswer i n lgSegment (latchAll r.events s1))) ∧ (r.fail =
      none → ligOk (wordsOf r.bytes 8) = true → exec (.ligLoad i n) s = .next (ligAnswer i n lgOk (modInst i (fun y =>
      { y with ligs := tset y.ligs n (wordsOf r.bytes 8) }) (latchAll r.events s1)))) ∧ (r.fail = none → ligOk (wordsOf
      r.bytes 8) = false → exec (.ligLoad i n) s = .next (ligAnswer i n lgRange (latchAll r.events s1)))) ∧
  (∀ (s : State) (i n : Nat),
    pageOpen s i = true → 0 < n → n < ligEntries (getInst s i) → (getInst s i).st ≠ .resetting →
    exec (.ligClear i n) s = .next (ligAnswer i n lgOk (modInst i (fun y => { y with ligs := tdel y.ligs n }) s)) ∧
      ((findSeg (getInst s i).segs ((getInst s i).regs.ligAddr.toNat / 64 * 64) 64 true false).all (fun g => decide (4 ≤
      g.kind)) = true → exec (.ligLoad i n) s = .next (ligAnswer i n lgSegment s))) ∧
  (∀ (s : State) (i n : Nat) (x : Inst), pageOpen s i = true → n < 65536 → x = getInst s i →
    ∃ t, exec (.keyLoad i n) s = .next t ∧ (getInst t i).regs.keyData = [0, 0, 0, 0] ∧ (if (tget x.keys n).isSome then
      (getInst t i).keys = x.keys ∧ (getInst t i).regs.keyStatus = resultWord kyExists n 16 else if fld (wd x.record 1) 0
      17 ≤ keysLoaded x ∨ 65535 ≤ sumOf (fun p => p.2.keys.length) s.insts then (getInst t i).keys = x.keys ∧ (getInst t
      i).regs.keyStatus = resultWord kyQuota n 16 else if n = 0 ∨ fld x.regs.keyParam 32 2 = 0 ∨ fld x.regs.keyParam 32 2
      = 3 ∨ x.regs.keyCtr.toNat = 2 ^ 64 - 1 then (getInst t i).keys = x.keys ∧ (getInst t i).regs.keyStatus = resultWord
      kyRange n 16 else (getInst t i).keys = tset x.keys n {
        key := bytesOf x.regs.keyData
        salt := fld x.regs.keyParam 0 32
        mode := fld x.regs.keyParam 32 2
        counter := x.regs.keyCtr.toNat
        erased := false } ∧ (getInst t i).regs.keyStatus = resultWord kyOk n 16)) ∧
  (∀ (s : State) (i n : Nat) (k : KeySlot),
    pageOpen s i = true → n < 65536 → tget (getInst s i).keys n = some k → k.erased = false →
    (keyBound s i n = false → exec (.keyErase i n) s = .next (keyAnswer i n kyOk (modInst i (fun y =>
      { y with keys := tdel y.keys n }) s))) ∧ (keyBound s i n = true → exec (.keyErase i n) s = .next (keyAnswer i n kyOk
      (modInst i (fun y => { y with keys := tmod y.keys n fun z => { z with erased := true } }) s))) ∧ exec (.keyRead i n)
      s = .next (keyAnswer i n kyOk (modRegs i (fun r => { r with
        keyParam := place k.salt 0 32 ||| place k.mode 32 2 ||| placeBit true 34 ||| placeBit (k.counter == 2 ^ 64 - 1)
          35
        keyCtr := BitVec.ofNat 64 k.counter }) s))) ∧
  (∀ (s : State) (i n : Nat),
    pageOpen s i = true → n < 65536 → ((tget (getInst s i).keys n).map (·.erased)).getD true = true →
    exec (.keyErase i n) s = .next (keyAnswer i n kyAbsent s) ∧ exec (.keyRead i n) s = .next (keyAnswer i n kyOk
      (modRegs i (fun r => { r with keyParam := 0, keyCtr := 0 }) s)) ∧ (keyBound s i n = false → exec (.keySlotZeroise i
      n) s = .next (if (tget (getInst s i).keys n).isSome then modInst i (fun y => { y with keys := tdel y.keys n }) s
      else s)) ∧ (keyBound s i n = true → exec (.keySlotZeroise i n) s = .next s))

/-- LOAD puts the bank that BANK names in LOADING, unless it is in force or draining, which is a STATE finding and changes
no bank. DATA1 writes both words of the entry at INDEX of a LOADING bank, and INDEX advances with INC; of another bank it
is a STATE finding. READY of a LOADING bank checks every entry: the first illegal one is named with an ENTRY finding and
the bank stays LOADING, else it is READY. DRAIN_US after a commit the bank that drains is IDLE. -/
def Obligations.RouteBanksAreLoaded : Prop :=
  (∀ (s u : State) (v : Word), barAnswers s = true → u = writeRouteLoad v s →
    exec (.routeLoad v) s = .next (if (bankOf u (bit v 16)).2 = .inForce ∨ (bankOf u (bit v 16)).2 = .draining then
      routeAnswer rtState u else routeAnswer rtOk (modBank (bit v 16) (fun _ => .loading) u))) ∧
  (∀ (s u : State) (v : Word) (t : Table RouteEntry) (b : BankState),
    barAnswers s = true → u = writeRouteLoad v s → bankOf u (bit v 16) = (t, b) →
    (b ≠ .loading → exec (.routeReady v) s = .next (routeAnswer rtState u)) ∧ (b = .loading → firstIllegal u t = none →
      exec (.routeReady v) s = .next (routeAnswer rtOk (modBank (bit v 16) (fun _ => .ready) u))) ∧ (∀ k, b = .loading →
      firstIllegal u t = some k → exec (.routeReady v) s = .next (routeAnswer rtEntry (modFabric (fun f =>
      { f with badEntry := k }) u)))) ∧
  (∀ (s u : State) (v : Word),
    barAnswers s = true → (u = modFabric (fun f => { f with
        data1 := v
        load := if bit f.load 17 then setFld f.load 0 16 ((fld s.fabric.load 0 16 + 1) % 65536) else f.load }) s) →
    ((bankOf s (loadBank s)).2 ≠ .loading → exec (.routeData1Write v) s = .next (routeAnswer rtState u)) ∧ ((bankOf s
      (loadBank s)).2 = .loading → exec (.routeData1Write v) s = .next (routeAnswer rtOk (modFabric (fun f => if loadBank
      s then { f with route1 := tset f.route1 (fld s.fabric.load 0 16) { w0 := s.fabric.data0, w1 := v } } else
      { f with route0 := tset f.route0 (fld s.fabric.load 0 16) { w0 := s.fabric.data0, w1 := v } }) u)))) ∧
  (∀ (s : State) (e : Bool),
    running s = true → (e = true → s.fabric.bank0 ≠ .draining) → (if e then s.fabric.bank1 else s.fabric.bank0) =
      .draining →
    exec .routeDrainExpiry s = .next (modBank e (fun _ => .idle) (waitMono s.fabric.drainAt s)))

/-- A read answers the word that stands at the address (at an alias, of the word it stands for; of a tally, its value), 0
with RANGE outside every region or in a retired unit's galley, and 0 with ECC and an event of class 1 for a tally copy or
a lane with an uncorrectable error; a corrected one latches its event. A read of a shared bank that collides answers BUSY
and an undefined word. A write replaces the word, sets or clears the bits of 1 at an alias, spoils the press operations on
a unit written, and writes no tally (RANGE). Each access advances GA by 8 with INC. CFL_CLEAR zeroes the conflict
counters. Where BAR0 does not answer, a read gives ones and the others change nothing. (KIND 05H of a window read is the
model's choice, log entry 117.) -/
def Obligations.GalleyWindowReachesIt : Prop :=
  (∀ (s u : State) (c : Bool) (f : Upset) (ga : Nat) (v : Word) (range known ecc : Bool),
    mgrOpen s = true → ga = winGa s → winFind s ga = (v, range, known) → ecc = (known || (!range && (f == .soft || f
      == .hard))) → (u = if range then s else galleyAccess mWindow (some 1) s) →
    ((c && (regionOf s ga).shared) = false → exec (.galleyWinRead ⟨c, f⟩) s = .next (winDone false range (some ecc)
      (emit (.data (if ecc then 0 else v)) (if ecc then latch (event 1 5 1 (galleySource ga) ga) u else if !range && f ==
      .correctable then latch (event 1 1 1 (galleySource ga) ga) u else u)))) ∧ ((c && (regionOf s ga).shared) = true →
      exec (.galleyWinRead ⟨c, f⟩) s = .next (winDone true range (some ecc) (emit (.data (freeWord u).1) (if ecc then
      latch (event 1 5 1 (galleySource ga) ga) (freeWord u).2 else if !range && f == .correctable then latch (event 1 1 1
      (galleySource ga) ga) (freeWord u).2 else (freeWord u).2))))) ∧
  (∀ (s : State) (c : Bool) (f : Upset) (v : Word), mgrOpen s = false →
    exec (.galleyWinRead ⟨c, f⟩) s = .next (emit (.data (BitVec.allOnes 64)) s) ∧ exec (.galleyWinWrite v c) s = .next s
      ∧ exec .galleyCflClear s = .next s) ∧
  (∀ (s : State) (ga : Nat),
    winFind s ga = (if ga < 0x0C800000 then (if inPool s (ga / 0x200000) then (galleyWord s ga, false, false) else (0,
      true, false)) else if 0x10000000 ≤ ga ∧ ga < 0x10000000 + workingBytes s then (if laneBad s ga then (0, false, true)
      else (galleyWord s ga, false, false)) else if 0x13C00000 ≤ ga ∧ ga < 0x13E00000 then (if copyFailed s ((ga -
      0x13C00000) / 8) 0 then (0, false, true) else (tallyValue s ((ga - 0x13C00000) / 8), false, false)) else if
      0x13E00000 ≤ ga ∧ ga < 0x14000000 then (if copyFailed s ((ga - 0x13E00000) / 8) 1 then (0, false, true) else
      (tallyValue s ((ga - 0x13E00000) / 8), false, false)) else if 0x14000000 ≤ ga ∧ ga < 0x14000000 + workingBytes s
      then (if laneBad s (ga - 0x04000000) then (0, false, true) else (galleyWord s (ga - 0x04000000), false, false)) else
      if 0x18000000 ≤ ga ∧ ga < 0x18000000 + workingBytes s then (if laneBad s (ga - 0x08000000) then (0, false, true)
      else (galleyWord s (ga - 0x08000000), false, false)) else (0, true, false))) ∧
  (∀ (s : State) (v : Word) (c : Bool) (ga u : Nat), mgrOpen s = true → ga = winGa s → regionOf s ga = .unit u →
    exec (.galleyWinWrite v c) s = .next (if inPool s u then winDone false false none (galleyAccess mWindow (some 1)
      (spoilUnit u (putGalley ga v s))) else winDone false true none s)) ∧
  (∀ (s : State) (v : Word) (c : Bool) (ga a : Nat),
    mgrOpen s = true → ga = winGa s → (regionOf s ga = .working ∨ regionOf s ga = .setAlias a ∨ regionOf s ga =
      .clearAlias a) →
    exec (.galleyWinWrite v c) s = .next (winDone c false none (galleyAccess mWindow (some 1) (if regionOf s ga =
      .working then writeLane ga v s else if regionOf s ga = .setAlias a then writeLane a (galleyWord s a ||| v) s else
      writeLane a (galleyWord s a &&& ~~~v) s)))) ∧
  (∀ (s : State) (v : Word) (c : Bool) (n : Nat),
    mgrOpen s = true → (regionOf s (winGa s) = .tally n ∨ regionOf s (winGa s) = .tallyCopy n ∨ regionOf s (winGa s) =
      .none) →
    exec (.galleyWinWrite v c) s = .next (winDone false true none s)) ∧
  (∀ (s : State) (b r : Bool) (e : Option Bool), bit s.galley.winAddr 29 = true →
    fld (winDone b r e s).galley.winAddr 3 26 = (fld s.galley.winAddr 3 26 + 1) % 2 ^ 26 ∧ (winDone b r e s).galley.mem
      = s.galley.mem) ∧
  (∀ (s : State), mgrOpen s = true →
    exec .galleyCflClear s = .next { s with galley := { s.galley with conflicts := [] } })

/-- With the tester on, or when the work that a word holds reads it (a failing column is found by the tester alone), a
failing column is latched and joins the soft-repair list up to 64. A clean word changes nothing more; a correctable one
latches a level 1 event of class 1. An uncorrectable lane retires the press unit whose galley it is; withdraws a word of
the shared working area, whose docket runs again from its start, once, and ends DATA_ERROR the second time; of a tally's
first copy it is served by the second; of both, the tally is lost and reads 0. -/
def Obligations.GalleyTesterFinds : Prop :=
  (∀ (s : State) (w l : Nat) (col : Option Nat) (hold : Option DRef) (f : Upset),
    running s = true → (fld s.galley.ctrl 0 8 ≠ 0 ∨ hold.isSome = true) → w * 64 < 0x14000000 → regionOf s (w * 64) ≠
      .none →
    (f = .clean → exec (.galleyTest w l f col hold) s = .next ((if fld s.galley.ctrl 0 8 = 0 then none else col).elim s
      fun c => noteColumn (w * 64) c s)) ∧ (f = .correctable → exec (.galleyTest w l f col hold) s = .next (latch (event 1
      1 1 (galleySource (w * 64)) (w * 64)) ((if fld s.galley.ctrl 0 8 = 0 then none else col).elim s fun c => noteColumn
      (w * 64) c s))) ∧ (f = .soft → exec (.galleyTest w l f col hold) s = .next (laneUncorrectable w l false hold ((if
      fld s.galley.ctrl 0 8 = 0 then none else col).elim s fun c => noteColumn (w * 64) c s))) ∧ (f = .hard → exec
      (.galleyTest w l f col hold) s = .next (laneUncorrectable w l true hold ((if fld s.galley.ctrl 0 8 = 0 then none
      else col).elim s fun c => noteColumn (w * 64) c s)))) ∧
  (∀ (s : State) (ga c : Nat),
    ∃ t, t = latch (event 1 7 1 (galleySource ga) c) s ∧ noteColumn ga c s = { t with
        galley := { t.galley with
            softRepair := if t.galley.softRepair.length < 64 then addNew t.galley.softRepair (bankNumber ga, c) else
              t.galley.softRepair } }) ∧
  (∀ (s : State) (w l u : Nat) (hard : Bool) (hold : Option DRef),
    regionOf s (w * 64) = .unit u → inPool s u = true →
    laneUncorrectable w l hard hold s = retireUnit 1 u (latch (event 1 2 2 u (w * 64)) s)) ∧
  (∀ (s t u : State) (w l : Nat) (hard : Bool) (hold : Option DRef),
    regionOf s (w * 64) = .working → (t = modGalley (fun g =>
      { g with badLanes := tset g.badLanes (w * 64 / 8 + l) (if hard then .hard else .soft) }) s) → (u = if
      s.galley.withdrawn.contains w then t else modGalley (fun g =>
      { g with withdrawn := g.withdrawn ++ [w], free := g.free - 64 }) t) →
    (hold = none → laneUncorrectable w l hard hold s = latch (event 1 3 2 (galleySource (w * 64)) (w * 64)) u) ∧ (∀ d,
      hold = some d → laneUncorrectable w l hard hold s = rerunPress d (w * 64) u)) ∧
  (∀ (s : State) (n copy : Nat) (hard : Bool), copyFailed s n (1 - copy) = true →
    ∃ u, u = latch (tallyEvent 6 3 n) (putTally n 0 s) ∧ tallyCopyFails n copy hard s = ((tallyOwner s n).elim u fun p
      => failWaits p.1 p.2 u)) ∧
  (∀ (s : State) (n copy : Nat) (hard : Bool), copyFailed s n (1 - copy) = false → copyFailed s n copy = false →
    ∃ u, u = (if copy = 0 then latch (tallyEvent 5 1 n) s else s) ∧ tallyCopyFails n copy hard s = (if hard then
      modGalley (fun g =>
      { g with tallyFailed := tset g.tallyFailed n ((tget s.galley.tallyFailed n).getD 0 + 2 ^ copy) }) u else u)) ∧
  (∀ (s u : State) (d : DRef) (ga : Nat) (q : Queue) (r : Run) (p : PressRun),
    ((pressRuns s).find? (fun x => x.1 == d && decide (0 < x.2.2.2.galley)) = some (d, q, r, p)) → (u = modPower (fun
      y => { y with permits := delFirst y.permits (fun x => x.d == d), waits := y.waits.filter fun x => x.d != d })
      (meter s)) →
    (p.rerun = false → rerunPress d ga s = checkOperands d q
      { r with press := some { newPress p.order with galley := p.galley, twin := p.twin, rerun := true } } (modPressRun d
      r.ord (fun _ => { newPress p.order with galley := p.galley, twin := p.twin, rerun := true }) (latch (event 1 3 2
      (galleySource ga) ga) u))) ∧ (p.rerun = true → rerunPress d ga s = endPress d q r (settledAs 6 0 5) (latch (event 1
      4 3 (galleySource ga) ga) (if r.started then undefRanges r.segs (outRanges (runWords q r)) u else u))))

/-- Every event takes the next SEQ and updates its class of the ledger: where VALID reads 0 it is written with its level
after escalation, kind, source, SEQ and detail, and VALID set; where VALID reads 1 these keep their values; TOP, EVENTS
and ESCALATIONS follow in either case. With room, an event not held back is written to entry WI mod 256, and WI advances
modulo 512; on a full ring LOST counts and OVERFLOW is set; a level 1 event that L1_LIMIT events of its class within the
last 10 ms hold back counts in SUPPRESSED alone. A level 2 event whose class has REPEAT_ESC, VALID and the same SOURCE has
cause 1. -/
def Obligations.EventsAreRecorded : Prop :=
  (∀ (s : State) (e : Event), e.cls < s.faults.ledger.length →
    (record e s).1 = escLevel e s ∧ (record e s).2.faults.seq = (s.faults.seq + 1) % 2 ^ 32 ∧ (record e
      s).2.faults.ledger[e.cls]? = (s.faults.ledger[e.cls]?).map (ledgerLatch e (escLevel e s) (escCause e s)
      s.faults.seq) ∧ (∀ c, c ≠ e.cls → (record e s).2.faults.ledger[c]? = s.faults.ledger[c]?) ∧ (record e
      s).2.faults.safeStatus = s.faults.safeStatus ∧ (record e s).2.insts = s.insts ∧ (record e s).2.quoin = s.quoin) ∧
  (∀ (e : Event) (level cause seq : Nat) (c : LedgerClass),
    (bit c.first 0 = false → (ledgerLatch e level cause seq c).first = placeBit true 0 ||| place level 1 3 ||| place
      e.kind 4 8 ||| place e.source 12 16 ||| place seq 32 32 ∧ (ledgerLatch e level cause seq c).detail = BitVec.ofNat 64
      e.detail) ∧ (bit c.first 0 = true → (ledgerLatch e level cause seq c).first = c.first ∧ (ledgerLatch e level cause
      seq c).detail = c.detail) ∧ (ledgerLatch e level cause seq c).top = max c.top level ∧ (ledgerLatch e level cause seq
      c).events = min (c.events + 1) (2 ^ 24 - 1) ∧ (ledgerLatch e level cause seq c).escalations = (if cause = 0 then
      c.escalations else min (c.escalations + 1) (2 ^ 16 - 1))) ∧
  (∀ (s : State) (e : Event), escLevel e s ≠ 1 → (s.faults.wi + 512 - s.faults.ri) % 512 ≠ 256 →
    (record e s).2.faults.wi = (s.faults.wi + 1) % 512 ∧ (record e s).2.faults.ring = tset s.faults.ring (s.faults.wi %
      256) [ringWord0 e (escLevel e s) (escCause e s), BitVec.ofNat 64 e.detail, BitVec.ofNat 64 s.time.tick, place
      (subtick s) 0 32 ||| place s.faults.seq 32 32] ∧ (record e s).2.faults.lost = s.faults.lost ∧ (record e
      s).2.faults.overflow = s.faults.overflow ∧ (record e s).2.faults.suppressed = s.faults.suppressed) ∧
  (∀ (s : State) (e : Event), escLevel e s ≠ 1 → (s.faults.wi + 512 - s.faults.ri) % 512 = 256 →
    (record e s).2.faults.wi = s.faults.wi ∧ (record e s).2.faults.ring = s.faults.ring ∧ (record e s).2.faults.lost =
      min (s.faults.lost + 1) (2 ^ 32 - 1) ∧ (record e s).2.faults.overflow = true) ∧
  (∀ (s : State) (e : Event),
    escLevel e s = 1 → (fld s.quoin.now.faultResp 20 8 ≤ ((s.faults.l1Times.getD e.cls []).filter fun t => decide
      (s.clk.ptp < t + 10000000)).length) →
    (record e s).2.faults.wi = s.faults.wi ∧ (record e s).2.faults.ring = s.faults.ring ∧ (record e s).2.faults.lost =
      s.faults.lost ∧ (record e s).2.faults.suppressed = min (s.faults.suppressed + 1) (2 ^ 15 - 1)) ∧
  (∀ (s : State) (e : Event) (c : LedgerClass), c = s.faults.ledger.getD e.cls LedgerClass.reset →
    (escCause e s = 1 ↔ (e.level = 2 ∧ bit s.quoin.now.faultResp e.cls = true ∧ bit c.first 0 = true ∧ fld c.first 12 16
      = e.source % 65536)) ∧ (pairsExhausted e s = false → escLevel e s = (if escCause e s = 0 then e.level else e.level +
      1)) ∧ (e.level = 0 ∨ e.level = 1 → escCause e s = 0))

/-- An event latched below level 4 changes what recording it changes and no more. At level 4, or on FAULT_FORCE with its
KEY, expiry of the watchdog, a failed self-check of the watch domain or an uncorrectable spine flit, the device is in safe
state: no key is left, the tick generator stopped, its programs gone, every port in use DOWN and nothing of it returns at
an edge, SAFE_N low, ALIVE and the watchdog stopped, and SAFE_STATUS names class, kind, source and SEQ. In safe state a
further event changes none of this. -/
def Obligations.SafeStateIsEntered : Prop :=
  (∀ (s : State) (e : Event), escLevel e s ≠ 4 → latch e s = (record e s).2) ∧
  (∀ (s t : State) (e : Event), s.startup ≠ .safe → escLevel e s = 4 → t = latch e s →
    t.startup = .safe ∧ (∀ x ∈ t.insts, x.2.keys = []) ∧ t.time.gen = .stopped ∧ t.runs = [] ∧ (∀ p ∈ t.fabric.ports,
      p.st = .unused ∨ (p.st = .down ∧ p.returns = false)) ∧ t.faults.safeN = false ∧ t.faults.aliveOn = false ∧
      t.faults.wdogOn = false ∧ bit t.faults.safeStatus 0 = true ∧ fld t.faults.safeStatus 4 4 = e.cls % 16 ∧ fld
      t.faults.safeStatus 8 8 = e.kind % 256 ∧ fld t.faults.safeStatus 16 16 = e.source % 65536 ∧ fld t.faults.safeStatus
      32 32 = s.faults.seq % 2 ^ 32 ∧ .safeN false ∈ t.out) ∧
  (∀ (s : State) (k : Word), barAnswers s = true →
    exec (.faultForce 0x5AFE) s = .next (placeAll (latch (event 15 1 4 0 0) s)) ∧ (k.setWidth 16 ≠ 0x5AFE → exec
      (.faultForce (k.setWidth 16)) s = .next s) ∧ escLevel (event 15 1 4 0 0) s = 4) ∧
  (∀ (s : State), powered s = true →
    exec .watchSelfcheckFail s = .next (placeAll (latch (event 14 2 4 0 0) s)) ∧ escLevel (event 14 2 4 0 0) s = 4 ∧
      (wdogRuns s = true → exec .watchdogExpiry s = .next (placeAll (latch (event 14 1 4 0 0) (waitMono
      (s.faults.wdogServed + wdogPeriod s) s))))) ∧
  (∀ (s : State) (a b : Nat), awake s = true → a < 64 →
    exec (.spineFlitError a b 1) s = .next (latch (event 7 1 1 a b) s) ∧ exec (.spineFlitError a b 2) s = .next (latch
      (event 7 2 2 a b) s) ∧ exec (.spineFlitError a b 3) s = .next (placeAll (latch (event 7 3 4 a b) s)))

/-- A failed press unit, or a Ruzel pair with a lockstep mismatch or a missed heartbeat, is latched and, outside safe
state, replaced: the part is retired, the lowest spare is reserved for it, and of a press unit the blocks in flight are
withheld; with no spare left none is reserved. A reserved spare that fails before its edge is itself replaced for the
recovery that waits for it; a spare that fails leaves its pool; a retired part nothing. A failed cipher engine is
withdrawn. FAULT_INJECT answers STATE unless the identity plate permits it, RANGE for what is no event below level 4, and
else latches the event as injected, with its response. -/
def Obligations.FaultyUnitsAreReplaced : Prop :=
  (∀ (s : State) (u : Nat) (x : DRef × Queue × Run × PressRun),
    running s = true → ((pressRuns s).find? (fun x => x.2.2.2.flying.any fun b => b.unit == u) = some x) →
    exec (.pressUnitFault u) s = .next (if (latch (event 0 1 2 u x.1.queue) s).startup = .safe then latch (event 0 1 2 u
      x.1.queue) s else placeAll (retireUnit 0 u (latch (event 0 1 2 u x.1.queue) s)))) ∧
  (∀ (s : State) (p : Nat) (x : UnitState) (b : Bool),
    awake s = true → s.faults.pairs[p]? = some x → x ≠ .retired →
    exec (if b then .ruzelMismatch p else .ruzelHeartbeatMiss p) s = .next (if (latch (event 8 (if b then 1 else 2) 2 p
      0) s).startup = .safe then latch (event 8 (if b then 1 else 2) 2 p 0) s else retirePair p (latch (event 8 (if b then
      1 else 2) 2 p 0) s))) ∧
  (∀ (s : State) (k u : Nat) (x : UnitState), s.faults.units[u]? = some x →
    (x = .active → retireUnit k u s = startRecovery k 0 u s) ∧ (x = .reserved → retireUnit k u s = replaceSpare k 0 u s)
      ∧ (x = .spare → retireUnit k u s = modFaults (fun f => { f with units := modAt f.units u fun _ => .retired }) s) ∧
      (x = .retired → retireUnit k u s = s)) ∧
  (∀ (s : State) (k u : Nat) (r : Recovery),
    ticking s = true → findState s.faults.units .spare ≠ some u → r ∈ s.faults.recoveries → r.cls = 0 → r.entered =
      false → r.spare = some u →
    { r with spare := findState s.faults.units .spare } ∈ (replaceSpare k 0 u s).faults.recoveries ∧
      { cls := 0, latchedIn := k, part := u, spare := none, entered := false } ∈ (replaceSpare k 0 u s).faults.recoveries) ∧
  (∀ (s : State) (k u v : Nat), ticking s = true → findState s.faults.units .spare = some v → v ≠ u →
    (startRecovery k 0 u s).faults.units = modAt (modAt s.faults.units u fun _ => .retired) v (fun _ => .reserved) ∧
      (startRecovery k 0 u s).faults.recoveries = s.faults.recoveries ++
      [{ cls := 0, latchedIn := k, part := u, spare := some v, entered := false }] ∧ (startRecovery k 0 u s).insts = tmap
      s.insts (fun _ x => { x with
        queues := tmap x.queues fun _ q =>
          { q with runs := q.runs.map fun r => { r with press := r.press.map (withhold u) } } })) ∧
  (∀ (s : State) (k u : Nat), ticking s = true → findState s.faults.units .spare = none →
    (startRecovery k 0 u s).faults.units = modAt s.faults.units u (fun _ => .retired) ∧ (startRecovery k 0 u
      s).faults.recoveries = s.faults.recoveries ++
      [{ cls := 0, latchedIn := k, part := u, spare := none, entered := false }]) ∧
  (∀ (s : State) (e : Nat), awake s = true → e < 24 → s.faults.engines.contains e = false →
    exec (.cipherSelfcheckFail e) s = .next (modFaults (fun f => { f with engines := addNew f.engines e }) (latch (event
      11 1 3 e 0) s))) ∧
  (∀ (s : State) (v : Word), barAnswers s = true →
    (s.plates.injectOk = false → exec (.faultInject v) s = .next (modFaults (fun f => { f with injResult := 3 }) s)) ∧
      (s.plates.injectOk = true → injectable.contains (fld v 0 4, fld v 8 8, fld v 4 3) = false → exec (.faultInject v) s
      = .next (modFaults (fun f => { f with injResult := 2 }) s)) ∧ (∀ d u t, s.plates.injectOk = true →
      injectable.contains (fld v 0 4, fld v 8 8, fld v 4 3) = true → (d, u) = injectDetail (fld v 0 4) (fld v 16 16) s → t
      = latch
      { cls := fld v 0 4, kind := fld v 8 8, level := fld v 4 3, source := fld v 16 16, detail := d, injected := true }
      (modFaults (fun f => { f with injResult := 0 }) u) → exec (.faultInject v) s = .next (if t.startup = .safe then t
      else placeAll (injectResponse (fld v 0 4) (fld v 8 8) (fld v 16 16) d t)))) ∧
  (∀ (s : State) (k p : Nat), (s.faults.units.length = 100) → (s.faults.pairs.length = 10) →
    (injectResponse 0 k p 0 s) = retireUnit 0 p s ∧ (injectResponse 8 k p 0 s) = retirePair p s ∧ (injectResponse 10 k p
      0 s).power.hot = true ∧ (p < 24 → (injectResponse 11 1 p 0 s).faults.engines = addNew s.faults.engines p))

/-- An acknowledged class has VALID, TOP, EVENTS and DETAIL 0, the others keep their values, and so do its level, kind,
source and counts of escalations. A release index not beyond WI is taken, another ignored. ALIVE toggles 500 µs after its
last edge while it runs. The watchdog is served only when its checks passed and at least 4 pairs are active. A comparator
sets FIRED when its base has reached VALUE; then VALUE advances by PERIOD or EN clears, its interrupt is sent, and with
WAKE keeping is left; in safe state it sets FIRED alone. -/
def Obligations.WatchDomainActs : Prop :=
  (∀ (s : State) (m : BitVec 16) (c : Nat), ledgerAnswers s = true → c < 16 → s.faults.ledger.length = 16 →
    ∃ t, exec (.ledgerAck m) s = .next t ∧ t = { s with faults := { s.faults with ledger := t.faults.ledger } } ∧
      t.faults.ledger[c]? = (s.faults.ledger[c]?).map fun x => if m.toNat / 2 ^ c % 2 = 1 then
      { x with first := setFld x.first 0 1 0, detail := 0, top := 0, events := 0 } else x) ∧
  (∀ (s : State) (v : Word), ledgerAnswers s = true →
    exec (.fevRiWrite v) s = .next (if (fld v 0 9 + 512 - s.faults.ri) % 512 ≤ (s.faults.wi + 512 - s.faults.ri) % 512
      then { s with faults := { s.faults with ri := fld v 0 9 } } else s)) ∧
  (∀ (s : State), powered s = true → s.faults.aliveOn = true →
    ∃ u, u = waitMono (s.faults.aliveAt + 500000) s ∧ exec .aliveToggle s = .next { u with
        faults := { s.faults with alive := !s.faults.alive, aliveAt := u.clk.mono }
        out := s.out ++ [.alive (!s.faults.alive)] }) ∧
  (∀ (s : State) (a b : Bool), wdogRuns s = true →
    exec (.watchdogServe a b) s = .next (if a = true ∧ b = true ∧ 4 ≤ (s.faults.pairs.filter (· == .active)).length then
      { s with faults := { s.faults with wdogServed := s.clk.mono } } else s)) ∧
  (∀ (s : State) (k : Nat) (c : Comparator),
    powered s = true → k < 8 → c = comparator s k → bit c.ctrl 0 = true → (bit c.ctrl 1 = true → c.value.toNat ≤
      s.time.tick) →
    ∃ u, u = modComparator k (fun x => { x with ctrl := x.ctrl ||| 0x10 }) (if bit c.ctrl 1 then s else waitPtp
      (s.clk.ptp + (valueTime c.value - counterTime s)) s) ∧ (s.startup = .safe → exec (.comparatorFire k) s = .next u) ∧
      (s.startup ≠ .safe → bit c.ctrl 2 = false → bit c.ctrl 3 = false → exec (.comparatorFire k) s = .next (modComparator
      k rearm u)) ∧ (s.startup ≠ .safe → bit c.ctrl 2 = true → bit c.ctrl 3 = false → exec (.comparatorFire k) s = .next
      (sendMsix (mgrFn s) (fld c.ctrl 32 11) (modComparator k rearm u))) ∧ (s.startup ≠ .safe → bit c.ctrl 2 = false → bit
      c.ctrl 3 = true → exec (.comparatorFire k) s = .next (if inKeeping s then leaveKeeping (modComparator k rearm u)
      else modComparator k rearm u))) ∧
  (∀ (c : Comparator),
    (c.period = 0 → rearm c = { c with ctrl := setFld c.ctrl 0 1 0 }) ∧ (c.period ≠ 0 → rearm c =
      { c with value := if bit c.ctrl 1 then c.value + c.period else timeValue (valueTime c.value + c.period.toNat) }))

/-- A sample above 95 °C is latched once per rise and sets HOT, which ends when all read below 90 °C; above 105 °C it is a
level 4 event. The press units are gated after IDLE_US without a block when none runs or is due, and ungated when a block
is due or 2 µs before the next planned entry. KEEP waits for quiescence, or without KEEP_WAIT is answered BUSY at once; in
keeping STATE. Entry erases every key, silences the ports, puts shelf and store room in self-refresh and leaves keeping as
the state; a wait that runs out is BUSY and fetching resumes. WAKE leaves keeping, and is STATE otherwise. A rail outside
its limits is a level 4 event; without VWATCH the device is off. -/
def Obligations.PowerStatesChange : Prop :=
  (∀ (s : State) (l : List Nat), powered s = true → l.length = 16 → (∀ c ∈ l, c ≤ 95) →
    ∃ t, exec (.tempSample l) s = .next t ∧ t.power.warned = false ∧ t.power.tempMax = l.foldl max 0 % 256 ∧ t.power.hot
      = (if l.all (fun c => decide (c < 90)) then false else s.power.hot) ∧ t = { s with power := t.power }) ∧
  (∀ (s : State) (l : List Nat) (k c : Nat),
    powered s = true → l.length = 16 → hotSensor l 95 = some (k, c) → hotSensor l 105 = none →
    ∃ u, u = (if s.power.warned then s else latch (event 10 1 3 k c) s) ∧ exec (.tempSample l) s = .next
      { u with power := { u.power with tempMax := l.foldl max 0 % 256, warned := true, hot := true } }) ∧
  (∀ (s : State) (l : List Nat) (k c j d : Nat),
    powered s = true → l.length = 16 → hotSensor l 95 = some (k, c) → hotSensor l 105 = some (j, d) →
    ∃ u, u = (if s.power.warned then s else latch (event 10 1 3 k c) s) ∧ exec (.tempSample l) s = .next (placeAll
      (latch (event 10 2 4 j d)
      { u with power := { u.power with tempMax := l.foldl max 0 % 256, warned := true, hot := true } }))) ∧
  (∀ (s u : State),
    running s = true → u = waitMono (s.power.lastBlock + idleTime s) s → s.power.st = .active → (∀ x ∈ pressRuns s,
      x.2.2.2.flying = []) → blockDue s = false → (∀ t, ungateTime u = some t → u.clk.ptp < t) →
    exec .idleGate s = .next (modPower (fun p => { p with st := .idle, gated := true }) u)) ∧
  (∀ (s : State), running s = true → s.power.st = .idle →
    (blockDue s = true → exec .pressUngate s = .next (ungate s)) ∧ (∀ t, blockDue s = false → ungateTime s = some t →
      exec .pressUngate s = .next (ungate (waitPtp t s))) ∧ (ungate s).power =
      { s.power with st := .active, gated := false }) ∧
  (∀ (s : State), running s = true →
    (keepTime s = 0 → quiescent s = false → exec .keepRequest s = .next (powerAnswer pwBusy s)) ∧ (keepTime s ≠ 0 ∨
      quiescent s = true → s.power.keepSince = none → exec .keepRequest s = .next
      { s with power := { s.power with keepSince := some s.clk.mono } }) ∧ exec .wakeRequest s = .next (powerAnswer
      pwState s)) ∧
  (∀ (s : State), inKeeping s = true →
    exec .keepRequest s = .next (powerAnswer pwState s) ∧ exec .wakeRequest s = .next (leaveKeeping s)) ∧
  (∀ (s : State), running s = true → s.power.keepSince.isSome = true → quiescent s = true →
    ∃ t, exec .keepEntry s = .next (holdServo t) ∧ t.power.st = .keeping ∧ t.power.result = 0 ∧ t.power.keepSince = none
      ∧ t.runs = [] ∧ t.insts = tmap s.insts (fun _ x => { x with keys := [] }) ∧ t.fabric.ports = s.fabric.ports.map
      silencePort ∧ t.shelf = { s.shelf with ready := false } ∧ t.store = { s.store with ready := false } ∧ t.time =
      s.time ∧ (¬ (timeSource s = 1 ∧ ptpPort s < 48 ∧ (s.time.servo = .locked ∨ s.time.servo = .acquiring)) → holdServo t
      = t)) ∧
  (∀ (s : State), timeSource s = 1 → ptpPort s < 48 → (s.time.servo = .locked ∨ s.time.servo = .acquiring) →
    ∃ u, u = latch (event 9 1 0 0 (intCode 64 s.time.offset)) { s with
        time := { s.time with servo := .holdover, inRange := 0, holdSince := some s.clk.mono, holdLatched := false } } ∧
      holdServo s = (if holdoverLimit s = 0 then latchHoldover u else u)) ∧
  (∀ (s : State) (t : Nat), running s = true → quiescent s = false → s.power.keepSince = some t →
    exec .keepWaitExpiry s = .next (placeAll (scanBells (modPower (fun p =>
      { p with result := pwBusy, keepSince := none }) (waitMono (t + keepTime s) s))))) ∧
  (∀ (s : State) (r m : Nat), powered s = true → railBad r m = true →
    exec (.railFault r m) s = .next (if r = 0 ∧ m = 0 then powerDown s else placeAll (latch (event 10 3 4 r m) s)) ∧
      (powerDown s).startup = .off) ∧
  (∀ (r m v p : Nat), railLimits[r]? = some (v, p) →
    (railBad r m = true ↔ (m * 100 < v * (100 - p) ∨ v * (100 + p) < m * 100)))

/-- RAILS_VALID begins the sequence in a device that is off: POWERON, SAFE_N low. POWER_OFF leaves it off with nothing
kept. A GO is answered BUSY while another is in progress or, for plates, while a commit is sealed; STATE where its KIND is
not accepted; RANGE beyond its largest LEN. An image that cannot be read is refused with REASON 10. A read image is
checked: a finding refuses it, with PLATE and REASON, and a firmware or forme image then leaves the device in BARE with
every plate withdrawn and CONFIG latched; without one it is installed, applied or staged. DISCARD drops the staged plates.
-/
def Obligations.BootMailboxWorks : Prop :=
  (∀ (s : State), s.startup = .off →
    exec .railsValid s = .next (emit (.safeN false) (beginStart s)) ∧ (s.galley.softRepair = [] → Config.fuseCrcOk =
      true → (beginStart s).startup = .powerOn ∧ (beginStart s).boot.starts = satAdd 32 s.boot.starts 1 ∧ (beginStart
      s).boot.startedAt = s.clk.mono ∧ (beginStart s).faults.safeN = false ∧ (beginStart s).faults.wdogOn = true ∧
      (beginStart s).pending = s.pending ∧ (beginStart s).faults.ledger = s.faults.ledger)) ∧
  (∀ (s : State),
    exec .powerOff s = .next { State.reset with
        pending := s.pending
        out := s.out
        freeCount := s.freeCount
        ord := s.ord
        host := s.host
        pins := s.pins
        hatches := s.hatches.map fun h => { Hatch.reset with perst := h.perst, sris := h.sris } }) ∧
  (∀ (s : State), powered s = true → s.startup ≠ .safe →
    exec .deviceKeyDerived s = .next { s with boot := { s.boot with keyDerived := true } }) ∧
  (∀ (s : State) (c : Nat × Instr) (r : Nat), barAnswers s = true → c ∈ bootCommands → goRefused c.1 s = some r →
    exec c.2 s = .next { s with boot := { s.boot with result := r } }) ∧
  (∀ (s : State) (k : Nat),
    goRefused k s = (if s.boot.busy then some 1 else if kindAccepted k s = false then some 6 else if 4 ≤ k ∧
      s.quoin.commit.isSome then some 1 else if k ≠ 5 ∧ (if k = 1 then 8388608 else if k = 3 then 16384 else 67108864) <
      s.boot.len.toNat then some 2 else none)) ∧
  (∀ (s u : State) (img : List Byte) (f : Option (Nat × Nat)),
    barAnswers s = true → goRefused 1 s = none → readImage s = (some img, u) → imageFinding 1 img u = f →
    exec .bootFirmware s = .next (placeAll (f.elim (bootAnswer btOk 0 0 (modBoot (fun b =>
      { b with firmware := some img, firmwareSvn := imgField img 32 4 }) u)) fun p => refuseForme p.1 p.2 u))) ∧
  (∀ (s u : State) (img : List Byte) (f : Option (Nat × Nat)),
    barAnswers s = true → goRefused 2 s = none → readImage s = (some img, u) → imageFinding 2 img u = f →
    exec .bootForme s = .next (placeAll (f.elim (configure img u) fun p => refuseForme p.1 p.2 u))) ∧
  (∀ (s u v : State) (bs : List Byte),
    barAnswers s = true → goRefused 3 s = none → readImage s = (some bs, u) → (v = (if u.boot.keyDerived then u else
      modBoot (fun b => { b with keyDerived := true }) (waitMono (u.boot.startedAt + 3000000000) u))) →
    (Config.leafModulus bs = Config.deviceModulus → exec .bootCertChain s = .next (placeAll (bootAnswer btOk 0 0
      (modBoot (fun b => { b with chain := some bs }) v)))) ∧ (Config.leafModulus bs ≠ Config.deviceModulus → exec
      .bootCertChain s = .next (placeAll (bootAnswer btRefused 0 3 v)))) ∧
  (∀ (s u : State) (img : List Byte), barAnswers s = true → goRefused 4 s = none → readImage s = (some img, u) →
    (∀ p r, imageFinding 3 img u = some (p, r) → exec .bootPlates s = .next (placeAll (stageRefused p r u))) ∧
      (imageFinding 3 img u = none → exec .bootPlates s = .next (placeAll (goPlates img u)))) ∧
  (∀ (s u : State) (k : Nat × Instr),
    barAnswers s = true → k ∈ bootCommands → k.1 < 5 → goRefused k.1 s = none → readImage s = (none, u) →
    exec k.2 s = .next (if k.1 ≤ 2 then refuseForme 0 10 u else bootAnswer btRefused 0 10 u)) ∧
  (∀ (s : State), barAnswers s = true → goRefused 5 s = none →
    exec .bootDiscard s = .next (bootAnswer btOk 0 0 (modBoot (fun b => { b with staged := none, stageBad := false })
      s))) ∧
  (∀ (s : State) (p r : Nat), escLevel (event 13 1 3 p r) s = 3 →
    ∃ u, refuseForme p r s = (record (event 13 1 3 p r) u).2 ∧ u.startup = .bare ∧ u.plates = Plates.empty ∧
      u.boot.result = btRefused ∧ u.boot.plate = p ∧ u.boot.reason = r ∧ u.boot.forme = none ∧ u.fabric.ports =
      s.fabric.ports.map (fun x => { silencePort x with st := .down }))

/-- A frame of the mailbox is taken while no command is in progress, one of the management port in a session of the
manager's key; another is discarded and counted. A mailbox frame that cannot be read is answered with an open result (the
spec gives none, log entry 93). A malformed frame is answered RANGE, one while a command for the instance is in progress
BUSY. CREATE stores the record in an ABSENT instance whose tables are empty; RANGE, EXISTS and QUOTA come before. QUERY
answers record and usage; SET puts the record and its ceilings in force unless RANGE, ABSENT, STATE, QUOTA or IN_USE.
RESET and DESTROY begin the reset and are answered when it is cleared. KEEP_LIST, CLAIM and DISCARD act on the oldest set
parked under the token. -/
def Obligations.StewardAnswers : Prop :=
  (∀ (s u : State) (bs : List Byte) (c : Nat × Instr),
    running s = true → c ∈ stewardCommands .mailbox → readFrame s = (some bs, u) → stwCmd (wordsOf bs 4) = c.1 →
    exec c.2 s = .next (if s.steward.busy then s else stwRun .mailbox bs u)) ∧
  (∀ (s u : State) (c : Nat × Instr), running s = true → c ∈ stewardCommands .mailbox → readFrame s = (none, u) →
    exec c.2 s = .next (if s.steward.busy then s else { (freeWord u).2 with
        steward :=
          { (freeWord u).2.steward with result := (freeWord u).1.toNat % 10, seq := (freeWord u).1.toNat / 16 % 65536 } })) ∧
  (∀ (s : State) (n : Nat) (bs : List Byte) (c : Nat × Instr),
    running s = true → c ∈ stewardCommands (.mgmtPort n bs) → stwCmd (wordsOf bs 4) = c.1 →
    exec c.2 s = .next (if managerSession s n then stwRun (.mgmtPort n bs) bs s else mgmtDiscard s)) ∧
  (∀ (s : State) (ch : StwChannel) (bs : List Byte) (w : List Word),
    w = wordsOf bs 4 → (stwCmd w = 1 ∨ stwCmd w = 2 ∨ stwCmd w = 3 ∨ stwCmd w = 4 ∨ stwCmd w = 5 ∨ stwCmd w = 0x10 ∨
      stwCmd w = 0x11 ∨ stwCmd w = 0x12) →
    (stwBad s w = true → stwRun ch bs s = stwReply ch w swRange [] s) ∧ (stwBad s w = false → stwBusy s ch w = true →
      stwRun ch bs s = stwReply ch w swBusy [] s) ∧ (stwBad s w = false → stwBusy s ch w = false → stwRun ch bs s = (if
      stwCmd w = 1 then createInst ch w (wordsOf (bs.drop 32) 16) s else if stwCmd w = 2 then resetByFrame true ch w s
      else if stwCmd w = 3 then resetByFrame false ch w s else if stwCmd w = 4 then queryInst ch w s else if stwCmd w = 5
      then setInst ch w (wordsOf (bs.drop 32) 16) s else if stwCmd w = 0x10 then listSet ch w s else if stwCmd w = 0x11
      then claimSet ch w s else discardSet ch w s))) ∧
  (∀ (s : State) (ch : StwChannel) (w r : List Word),
    createInst ch w r s = (if recordBad s (stwInst w) r = true then stwReply ch w swRange [] s else if (getInst s
      (stwInst w)).st ≠ .absent then stwReply ch w swExists [] s else if overReserved s (stwInst w) r = true then stwReply
      ch w swQuota [] s else stwReply ch w swOk [] { s with
        insts := tset s.insts (stwInst w) { Inst.empty with
            st := .active
            record := r
            shown := (getInst s (stwInst w)).shown
            ceil := [wd r 5, wd r 6, wd r 7, wd r 8]
            resets := (getInst s (stwInst w)).resets } })) ∧
  (∀ (s : State) (ch : StwChannel) (w r : List Word) (x : Inst), x = getInst s (stwInst w) →
    setInst ch w r s = (if recordBad s (stwInst w) r = true then stwReply ch w swRange [] s else if x.st = .absent then
      stwReply ch w swAbsent [] s else if x.st = .resetting then stwReply ch w swState [] s else if overReserved s
      (stwInst w) r = true then stwReply ch w swQuota [] s else if lowersInUse x r = true then stwReply ch w swInUse [] s
      else stwReply ch w swOk [] (setCeilings (stwInst w) r (modInst (stwInst w) (fun y => { y with record := r }) s))) ∧
      queryInst ch w s = (if x.st = .absent then stwReply ch w swAbsent [] s else stwReply ch w swOk (bytesOf (x.record ++
      usageWords x)) s)) ∧
  (∀ (s : State) (ch : StwChannel) (w : List Word) (x : Inst) (b : Bool), x = getInst s (stwInst w) →
    (x.st = .absent → resetByFrame b ch w s = stwReply ch w swAbsent [] s) ∧ (x.st = .resetting → x.clearing = true →
      resetByFrame b ch w s = stwReply ch w swOk [] (resetInst (stwInst w) b s)) ∧ (x.st ≠ .absent → x.st = .active ∨
      x.clearing = false → resetByFrame b ch w s = modSteward (fun t =>
      { t with busy := t.busy || decide (ch = .mailbox) }) (modInst (stwInst w) (fun y =>
      { y with answers := y.answers ++ [(ch, stwCmd w, stwSeq w)] }) (resetInst (stwInst w) b s)))) ∧
  (∀ (s : State) (ch : StwChannel) (w : List Word) (p : ParkedSet), oldestSet s (stwToken w) = some p →
    listSet ch w s = stwReply ch w swOk (bytesOf (p.segs.flatMap listEntry)) s ∧ discardSet ch w s = stwReply ch w swOk
      [] (reclaim (each (p.segs.filterMap fun y => freedBy y.seg Seg.empty) freeStorage
      { s with steward := { s.steward with parked := delFirst s.steward.parked (fun y => y.token == stwToken w) } }))) ∧
  (∀ (s : State) (ch : StwChannel) (w : List Word), oldestSet s (stwToken w) = none →
    listSet ch w s = stwReply ch w swAbsent [] s ∧ claimSet ch w s = stwReply ch w swAbsent [] s ∧ discardSet ch w s =
      stwReply ch w swAbsent [] s) ∧
  (∀ (s : State) (ch : StwChannel) (w : List Word) (p : ParkedSet) (x : Inst),
    oldestSet s (stwToken w) = some p → x = getInst s (stwTarget w) → x.st = .active →
    (((p.segs.any fun y => (x.segs.getD y.index Seg.empty).en) || (List.range 16).any (overlapAt (enterSet p x.segs))) =
      true → claimSet ch w s = stwReply ch w swOccupied [] s) ∧ (((p.segs.any fun y => (x.segs.getD y.index Seg.empty).en)
      || (List.range 16).any (overlapAt (enterSet p x.segs))) = false → (∀ y ∈ p.segs, tierUnits (tierOfKind y.seg.kind)
      (enterSet p x.segs) ≤ tierQuota x (tierOfKind y.seg.kind)) → claimSet ch w s = stwReply ch w swOk [] (modInst
      (stwTarget w) (fun y => { y with segs := enterSet p x.segs, devGen := (y.devGen + 1) % 2 ^ 32 }) (each
      (p.segs.filter (·.lost)) (fun y => untouch y.seg)
      { s with steward := { s.steward with parked := delFirst s.steward.parked (fun y => y.token == stwToken w) } })))) ∧
  (∀ (s : State) (w : List Word) (b : Nat) (l : List Byte),
    ∃ u, u = (writeHost (mgrFn s) (s.steward.resp.toNat / 4096 * 4096) (stwFrame w b l) s).2 ∧ stwReply .mailbox w b l s
      = { u with steward := { u.steward with busy := false, seq := fld (wd w 0) 16 16, result := b } } ∧ ∀ n bs, stwReply
      (.mgmtPort n bs) w b l s = emit (.steward n (stwFrame w b l)) s)

/-- A reset makes an ACTIVE instance RESETTING, holds its share, counts it and stops or drains its queues; one that
arrives in a reset merges into it, with its DESTROY. RESET_CLEARING ends what is left, empties every table of the instance
but its page registers, erases its keys with KEY_DATA, withdraws its permits, parks or frees its segments, and answers the
commands that wait; at the edge, or at once while no tick runs, the share returns: the instance is ACTIVE with its record,
or ABSENT after DESTROY, RESETS kept. A clearing done once is not done again. -/
def Obligations.InstancesResetAndClear : Prop :=
  (∀ (s : State) (i : Nat) (b : Bool),
    ((getInst s i).st = .absent → resetInst i b s = s) ∧ ((getInst s i).st = .resetting → resetInst i b s = modInst i
      (fun y => { y with destroy := y.destroy || b }) s) ∧ ((getInst s i).st = .active → resetInst i b s = placeAll
      (resetColls i (each (getInst s i).queues (resetQueue i (getInst s i)) (modInst i (fun y => { y with
        st := .resetting
        shareHeld := true
        clearing := false
        destroy := b
        refusing := true
        resets := satAdd 32 y.resets 1
        missed := 0
        late := 0 }) s))))) ∧
  (∀ (s : State) (i : Nat), running s = true → ((getInst s i).st ≠ .resetting ∨ (getInst s i).clearing = true) →
    exec (.resetClearing i) s = .next s) ∧
  (∀ (s u : State) (i : Nat) (x : Inst),
    running s = true → x = getInst s i → x.st = .resetting → x.clearing = false → (u = clearSegs i (dropInbound i
      (modPower (fun p =>
      { p with waits := p.waits.filter (fun y => y.d.inst != i), permits := p.permits.filter fun y => y.d.inst != i })
      (meter (each x.queues (clearQueue i) s))))) →
    ∃ v, v = each x.answers (answerReset i) (reclaim { modInst i (fun y => { y with
        queues := []
        wins := []
        ligs := []
        tallies := []
        keys := []
        colls := []
        devGen := 0
        clearing := true
        regs := { y.regs with keyData := [0, 0, 0, 0] }
        answers := [] }) u with collDev := { u.collDev with ended := u.collDev.ended.filter fun e => e.1 != i } }) ∧ exec
      (.resetClearing i) s = .next (if ticking v then v else returnShare i v)) ∧
  (∀ (s : State) (i : Nat) (x : Inst), x = getInst s i →
    getInst (returnShare i s) i = (if x.destroy then { Inst.empty with resets := x.resets, shown := x.shown } else
      { x with
        st := .active
        shareHeld := false
        clearing := false
        ceil := recCeil x.record
        ceilNext := none
        ceilTT := [0, 0, 0, 0]
        sealedShares := none }) ∧ (∀ j, j ≠ i → getInst (returnShare i s) j = getInst s j)) ∧
  (∀ (s : State) (i : Nat), (wd (getInst s i).record 4 = 0 ∨ ∀ g ∈ (getInst s i).segs, parks g = false) →
    (clearSegs i s).steward = s.steward ∧ (getInst (clearSegs i s) i).segs = List.replicate 16 Seg.empty)

/-- A hatch whose PERST_N is deasserted trains to a rate and width its plate allows: L0 with that width; below the plate
it is latched, and the pending interrupts go out. Recovery ends in L0 without an event. A link-down counts, empties the
ATC, makes the ACTIVE, ERROR and DRAINING queues homed on it HELD, and is latched with their number. HOLD_LIMIT seconds
after it, with the link still down or back without an ARM, every instance presented on it is reset. L0p takes a narrower
width not below L0P_MIN, or the full trained width again; L1 is entered while nothing is outstanding, and left with the
messages that waited for it. -/
def Obligations.HatchLinksChange : Prop :=
  (∀ (s v : State) (h g w : Nat),
    mayTrain s h = true → linkLegal s h g w = true → v = (if (getHatch s h).sris then waitMono ((getHatch s
      h).released + 1000000) s else s) → ((getHatch s h).link = .down ∨ (getHatch s h).link = .training) → s.startup ≠
      .powerOn →
    ∃ u, u = modHatch h (fun x => { x with link := .up, gen := g, width := w, trained := w }) v ∧ exec (.hatchLinkUp h g
      w) s = .next (placeAll (linkTrained h g w v)) ∧ linkTrained h g w v = (if g < (hatchPlate v h).maxGen ∨ w <
      (hatchPlate v h).maxWidth then each ((latch (event 6 1 1 h (Config.linkDetail g w)) u).fns.filter fun f => f.1.hatch
      == h) (fun f => flushPending f.1) (latch (event 6 1 1 h (Config.linkDetail g w)) u) else each (u.fns.filter fun f =>
      f.1.hatch == h) (fun f => flushPending f.1) u)) ∧
  (∀ (s v : State) (g w : Nat),
    mayTrain s 0 = true → linkLegal s 0 g w = true → v = (if (getHatch s 0).sris then waitMono ((getHatch s
      0).released + 1000000) s else s) → ((getHatch s 0).link = .down ∨ (getHatch s 0).link = .training) → s.startup =
      .powerOn →
    exec (.hatchLinkUp 0 g w) s = .next (placeAll (linkTrained 0 g w
      { waitMono (s.boot.startedAt + 20000000) v with startup := .bare }))) ∧
  (∀ (s v : State) (h g w : Nat),
    mayTrain s h = true → linkLegal s h g w = true → v = (if (getHatch s h).sris then waitMono ((getHatch s
      h).released + 1000000) s else s) → (getHatch s h).link = .recovery →
    exec (.hatchLinkUp h g w) s = .next (placeAll (modHatch h (fun x =>
      { x with link := .up, gen := g, width := w, trained := w }) v))) ∧
  (∀ (s u : State) (h : Nat),
    powered s = true → linkLive s h = true → (u = modHatch h (fun y => { y with
        link := .down
        gen := 0
        width := 0
        trained := 0
        downs := satAdd 16 y.downs 1
        atc := []
        wakeMsgs := []
        downSince := some s.clk.mono
        armed := false }) s) →
    exec (.hatchLinkDown h) s = .next (placeAll (latch (event 6 2 0 h (heldCount s h)) (each (getHatch s h).wakeMsgs
      unwake { u with insts := tmap u.insts fun _ y => { y with queues := tmap y.queues fun _ q => holdQueue h q } })))) ∧
  (∀ (h : Nat) (q : Queue),
    holdQueue h q = (if q.home = h ∧ (q.st = .active ∨ q.st = .error ∨ q.st = .draining) then
      { q with st := .held, heldFrom := q.st, place := .none } else q)) ∧
  (∀ (s : State) (h t : Nat),
    running s = true → upstream s h = true → (getHatch s h).downSince = some t → holdLimit s h ≠ 0 → (hatchUp s h =
      false ∨ (getHatch s h).armed = false) →
    exec (.holdLimitExpiry h) s = .next (each (onHatch s h) instReset (modHatch h (fun y =>
      { y with downSince := none }) (waitMono (t + holdLimit s h * 1000000000) s)))) ∧
  (∀ (s : State) (h w : Nat),
    running s = true → upstream s h = true → (getHatch s h).link = .up → l0pEn s h = true → w ∈ [1, 2, 4, 8, 16] → (w
      < (getHatch s h).width ∧ (hatchPlate s h).l0pMin ≤ w ∨ (getHatch s h).width < w ∧ w = (getHatch s h).trained) →
    exec (.l0pRequest h w) s = .next (emit (.l0p h w) (modHatch h (fun x => { x with width := w }) s))) ∧
  (∀ (s : State) (h k : Nat),
    powered s = true → upstream s h = true → k ≤ 2 → hatchBusy s h = false → ((getHatch s h).link = .up ∨ (getHatch s
      h).link = .l1) →
    exec (.l1Entry h k) s = .next (modHatch h (fun x => { x with link := if k = 2 then .l12 else .l1 }) s)) ∧
  (∀ (s : State) (h : Nat),
    powered s = true → upstream s h = true → ((getHatch s h).link = .l1 ∨ (getHatch s h).link = .l12) →
    exec (.l1Wake h) s = .next (each (getHatch s h).wakeMsgs (fun m => sendMsix m.1 m.2) (modHatch h (fun y =>
      { y with link := .up, wakeMsgs := [] }) s))) ∧
  (∀ (s : State) (h : Nat), powered s = true → upstream s h = true → (getHatch s h).link = .up →
    exec (.hatchRecovery h) s = .next (modHatch h (fun x => { x with link := .recovery }) s))

/-- A function-level reset returns the function's configuration to its reset values, but for VF Enable of a physical
function, discards its translations, and resets every instance it presents; VF_ENABLE_CLEAR does so for every virtual
function of the PF. A hot reset does it for every function of the hatch, and so does PERST_N of an upstream hatch after
its link went down; while a forme is applied PERST_N of hatch 0 discards it, and the device is BARE when the pin is
deasserted; whether the hatch then trains in common-clock or in SRIS mode follows the edge on HREFI, which is not the
device's; in safe state 100 ms of it on hatch 0 restart the device. In D3hot a function's queues start nothing; back in D0
each due interrupt is sent. ATS_INVALIDATE drops the named pages and completes. -/
def Obligations.FunctionsAreReset : Prop :=
  (∀ (s : State) (f : Fn), configReaches s f = true →
    exec (.functionLevelReset f) s = .next (each (presented s f) instReset (clearFn f s)) ∧ exec (.d3hotEntry f) s =
      .next (placeAll (modFn f (fun c => { c with d3 := true }) s))) ∧
  (∀ (s : State) (f : Fn), (f.vf ≠ 0 ∨ (getFn s f).vfEnable = false) →
    getFn (clearFn f s) f = FnCfg.reset ∧ (f.hatch < s.hatches.length → ∀ t ∈ (getHatch (clearFn f s) f.hatch).atc, t.1
      ≠ f) ∧ (∀ g, g ≠ f → getFn (clearFn f s) g = getFn s g)) ∧
  (∀ (s : State) (f : Fn), f.vf = 0 → (getFn s f).vfEnable = true →
    getFn (clearFn f s) f = { FnCfg.reset with vfEnable := true } ∧ (∀ g, g ≠ f → getFn (clearFn f s) g = getFn s g)) ∧
  (∀ (s : State) (h p : Nat),
    configReaches s { hatch := h, pf := p, vf := 0 } = true → (getFn s { hatch := h, pf := p, vf := 0 }).vfEnable =
      true →
    exec (.vfEnableClear h p) s = .next (each (vfsOf s h p) functionReset (modFn { hatch := h, pf := p, vf := 0 } (fun c
      => { c with vfEnable := false }) s))) ∧
  (∀ (s : State) (h : Nat), s.startup ≠ .off → s.startup ≠ .powerOn → linkLive s h = true →
    exec (.hotReset h) s = .next (resetHatch h s) ∧ resetHatch h s = each ((s.plates.slots.filter fun x => x.hatch ==
      h).map (·.inst)) instReset (modHatch h (fun x => { x with atc := [], wakeMsgs := [] })
      { s with fns := s.fns.filter fun p => p.1.hatch != h })) ∧
  (∀ (s : State) (i : Nat),
    (running s = true → instReset i s = resetInst i false s) ∧ (inKeeping s = true → (getInst s i).st = .active →
      instReset i s = modPower (fun p => { p with recordedResets := addNew p.recordedResets i }) (modInst i (fun x =>
      { x with st := .resetting }) s))) ∧
  (∀ (s u : State) (h n : Nat),
    h < 4 → 1000 ≤ n → role s h = 0 → (u = modHatch h (fun x => { x with perst := true, perstAt := s.clk.mono }) s) →
    exec (.perstAssert h n) s = .next (placeAll (perstEffect h n u)) ∧ (s.startup = .running ∨ s.startup = .bare →
      perstEffect h n u = resetHatch h (dropLink h u)) ∧ (s.startup = .safe → perstEffect h n u = (if h = 0 ∧ 100000000 ≤
      n then beginStart (pass 100000000 u) else u)) ∧ (s.startup = .loading ∨ s.startup = .configuring → perstEffect h n u
      = (if h = 0 then modBoot (fun b => { b with waitPerst := true, busy := false }) (withdrawForme (resetHatch h
      (dropLink h u))) else resetHatch h (dropLink h u))) ∧ (s.startup = .off ∨ s.startup = .powerOn → perstEffect h n u =
      u)) ∧
  (∀ (s u : State) (h n : Nat),
    h < 4 → (u = modHatch h (fun x =>
      { x with perst := false, released := s.clk.mono, sris := !Config.hrefEdge h s.freeCount })
      { s with freeCount := s.freeCount + 1 }) →
    (n < 1000 → exec (.perstAssert h n) s = .next s) ∧ exec (.perstDeassert h) s = .next (if h = 0 ∧ s.boot.waitPerst =
      true then modBoot (fun b => { b with waitPerst := false }) { u with startup := .bare } else u)) ∧
  (∀ (s u : State) (f : Fn),
    configReaches s f = true → (getFn s f).d3 = true → (u = modFn f (fun c => { c with d3 := false }) s) →
    exec (.d0Return f) s = .next (placeAll (wakeRuns (flushPending f (each (waitingQueues u f) (fun q t => raiseQueue
      q.1 q.2.1 (modQueue q.1 q.2.1 (fun y => { y with dueWaits := false }) t)) u))))) ∧
  (∀ (s : State) (f : Fn) (p n : Nat), configReaches s f = true → f.hatch < s.hatches.length →
    ∃ t, exec (.atsInvalidate f p n) s = .next t ∧ t.out = s.out ++ [.atsDone f] ∧ (getHatch t f.hatch).atc = (getHatch
      s f.hatch).atc.filter (fun x => !(x.1 == f && decide (p ≤ x.2 / 2) && decide (x.2 / 2 < p + n))) ∧ t =
      { s with hatches := t.hatches, out := t.out })

/-- Scrubbing reads one touched line, repairs what it can, and latches what the read found. Background clearing zeroes an
untouched granule and marks it, and leaves a touched one. A lost part is marked, counted and latched once, and what is
parked there without a copy is LOST; so it is for an expander whose link goes down. When the link returns, plain storage
on the expander is untouched and reads zeros, primaries of twin storage are to be rewritten from the pair, copies fail
until then; TWIN_RESYNC rewrites one line. Training gives the tiers their capacity, a store room without one and an
expander that does not train are latched. -/
def Obligations.TiersActByThemselves : Prop :=
  (∀ (s : State) (t : Tier) (k : Nat), clearsTier s t k = true → k * 65536 < tierBytes s t →
    (isTouched (getTier s t) (k * 65536) = true → exec (.backgroundClear t k) s = .next s) ∧ (isTouched (getTier s t) (k
      * 65536) = false → ∃ r : List Event × State, r = ((getTier s t).bad.filter fun b => b.line / 1024 == k).foldl (fun
      (r : List Event × State) b => (r.1 ++ (clearedLine t b r.2).1, (clearedLine t b r.2).2)) ([], s) ∧ exec
      (.backgroundClear t k) s = .next (latchAll r.1 (modTier t (touch (k * 65536)) r.2)))) ∧
  (∀ (s u v : State) (t : Tier) (l : Nat) (a b : Upset) (r : LineRead) (e : List Event),
    tierActive s t = true → scrubHours s t ≠ 0 → isTouched (getTier s t) (l * 64) = true → l * 64 < tierBytes s t →
      readLine t (inTwinPool s t (l * 64)) l (modTier t (scrubNote (inTwinPool s t (l * 64)) l a b) s) = (r, u) → (if
      inTwinPool s t (l * 64) && !upsetFails (badLine (getTier u t) l).primary && !partLost u t (twinPart u t (partOf u
      t (l * 64))) then repairCopy t l u else ([], u)) = (e, v) →
    exec (.scrubPass t l a b) s = .next (latchAll e (latchAll r.events v))) ∧
  (∀ (s : State) (t : Tier) (p : Nat),
    powered s = true → isPart s t p = true → (getTier s t).lost.contains p = false →
    ∃ u, u = loseParked t p (modTier t (fun x =>
      { x with lost := addNew x.lost p, copiesLost := satAdd 8 x.copiesLost 1 }) s) ∧ exec (.partLoss t p) s = .next
      (latch (event (2 + tierCode t) 6 3 (if t = .shelf then p * 32 else p) (partOffset s t p)) u)) ∧
  (∀ (s u : State) (h : Nat),
    powered s = true → role s h = 1 → hatchUp s h = true → (u = modHatch h (fun x =>
      { x with link := .down, gen := 0, width := 0, downs := satAdd 16 x.downs 1, downSince := some s.clk.mono }) s) →
    exec (.cellarLinkDown h) s = .next (if (getHatch s h).expander = 0 ∨ s.cellar.lost.contains h = true then u else
      losePart .cellar h u)) ∧
  (∀ (s : State) (h : Nat),
    powered s = true → role s h = 1 → (getHatch s h).link = .down → 0 < (getHatch s h).expander → (∀ x, cellarPair s =
      some x → h ≠ x.1 ∧ h ≠ x.2) →
    ∃ t, exec (.cellarLinkUp h) s = .next t ∧ t.cellar.lost = s.cellar.lost.filter (· != h) ∧ t.cellar.mem = clearBytes
      s.cellar.mem (expanderAt s h).1 (expanderAt s h).2 ∧ t.cellar.touched = s.cellar.touched.filter (fun g => decide (g
      * 65536 < (expanderAt s h).1) || decide ((expanderAt s h).1 + (expanderAt s h).2 ≤ g * 65536)) ∧ t.insts = s.insts) ∧
  (∀ (s u : State) (h a b : Nat),
    powered s = true → role s h = 1 → (getHatch s h).link = .down → 0 < (getHatch s h).expander → cellarPair s = some
      (a, b) → (h = a ∨ h = b) → (u = modHatch h (fun x => { x with link := .up, downSince := none }) s) →
    (partLost s .cellar (if h = a then b else a) = false → exec (.cellarLinkUp h) s = .next { u with
        cellar := (linesIn (granulesOn s a)).foldl (fun y l => cellarLinkUp.twinBack (decide (h = a)) l y)
          { s.cellar with lost := s.cellar.lost.filter (· != h) } }) ∧ (partLost s .cellar (if h = a then b else a) = true
      → exec (.cellarLinkUp h) s = .next { u with
        cellar := cellarLinkUp.clearPlain (expanderAt s a).1 (expanderAt s a).2
          { s.cellar with lost := s.cellar.lost.filter (· != h) } }) ∧ (∀ (x : TierSt) (l : Nat), (h = a → upsetFails
      (badLine x l).copy = false → cellarLinkUp.twinBack true l x = { x with resync := addNew x.resync l }) ∧ (h = b →
      x.resync.contains l = false → upsetFails (badLine x l).primary = false → cellarLinkUp.twinBack false l x = setBad
      { badLine x l with copy := .soft } x))) ∧
  (∀ (s : State) (l : Nat), running s = true → resyncReady s = true →
    ∃ t, exec (.twinResync l) s = .next t ∧ t = { s with cellar := t.cellar } ∧ (s.cellar.resync.contains l = true →
      upsetFails (badLine s.cellar l).copy = false → t.cellar.resync = s.cellar.resync.filter (· != l) ∧ (badLine t.cellar
      l).primary = .clean) ∧ (s.cellar.resync.contains l = true → upsetFails (badLine s.cellar l).copy = true → t = s) ∧
      (s.cellar.resync.contains l = false → upsetFails (badLine s.cellar l).copy = true → upsetFails (badLine s.cellar
      l).primary = false → t.cellar.resync = s.cellar.resync ∧ (badLine t.cellar l).copy = .clean)) ∧
  (∀ (s : State) (g r : Nat) (m : Bool),
    starting s = true → s.boot.tiersTrained = false → (keptTiers s = false ∨ s.boot.formePending.isSome = true) →
    ∃ u v, u = modBoot (fun b => { b with tiersTrained := true, storeRate := r }) { s with
        shelf := { s.shelf with capacity := 618475290624, ready := true }
        store := { s.store with capacity := storeBytes g m, ready := decide (0 < storeBytes g m) } } ∧ v = (if storeBytes
      g m = 0 then latch (event 3 8 3 0 0) u else u) ∧ exec (.tierTrainingDone g r m) s = .next (placeAll (continueForme
      (if keptTiers s && !(s.boot.formePending.any fun p => p.digests.getD 3 [] == s.boot.keptTier) then loseKept v else
      v)))) ∧
  (∀ (s : State) (h g n : Nat) (c : Bool),
    s.startup = .configuring → role s h = 1 → (getHatch s h).link = .training →
    exec (.cellarTrainingDone h g c n) s = .next (placeAll (continueForme (if 0 < (if c = true ∧ 32 ≤ g then
      expanderBytes n else 0) then modHatch h (fun x => { x with
        link := .up
        gen := if 64 ≤ g then 6 else 5
        width := (hatchPlate s h).maxWidth
        expander := expanderBytes n }) { s with cellar := { s.cellar with lost := s.cellar.lost.filter (· != h) } } else
      latch (event 4 8 3 h 0) (modHatch h (fun x => { x with link := .down, expander := 0 }) s)))))

/-- A lane faults that lost lock for 1 µs, had more uncorrectable codewords than UCW_LIMIT within 1 ms, or is blamed by
eight retries. A faulty lane in service leaves the lanes and a SPARE_REQ is sent for it, where the spare of the bay is
free and trained for that port; otherwise it is lost: the port goes on with its other lanes, or goes DOWN with its event
when none is left. A faulty spare loses the lane it carries. The far end moves the lane to the spare, latches the takeover
and answers SPARE_ACK; on that the sender moves too, latches it, and replays from the oldest cell held. SPARE_REQ is
repeated every 1 µs, and after 8 µs the lane is lost. A DOWN port trains again every 100 ms; a trained link begins its
LSNs and credits anew, PEER_ID goes out, and once the peer is the route plate's (or none is recorded) a port that was DOWN
returns at the next tick edge, another at once. A peer other than the route plate's is latched, keeps the port out of
service and packets routed to it are routed again. -/
def Obligations.LanesAndPortsRecover : Prop :=
  (∀ (s u : State) (l p n : Nat), running s = true → faultPort s l = some p → u = noteWords p l n s →
    exec (.laneFault l (.lostLock n)) s = .next (if 1000 ≤ n then laneFault p l s else s) ∧ exec (.laneFault l
      (.codewords n)) s = .next (if u.plates.ucwLimit < recentWords (getPort u p) u.clk.mono l then laneFault p l u else
      u) ∧ (8 ≤ (getPort s p).retryCount → worstLane s p = some l → exec (.laneFault l .blamed) s = .next (laneFault p l
      s)) ∧ ((getPort s p).retryCount < 8 ∨ worstLane s p ≠ some l → exec (.laneFault l .blamed) s = .next s)) ∧
  (∀ (s u : State) (l p : Nat),
    l < 48 → inService (getPort s p) = true → (getPort s p).lanesUp.contains l = true → (u = modPort p (fun y =>
      { y with laneFaults := satAdd 8 y.laneFaults 1, retryCount := 0 }) s) →
    (spareFree p s = true → laneFault p l s = sendControl p 2 l (modPort p (fun y =>
      { y with lanesUp := y.lanesUp.filter (· != l), spareReq := some (l, s.clk.mono, s.clk.mono) }) u)) ∧ (spareFree p s
      = false → laneFault p l s = loseLane p l u)) ∧
  (∀ (s u : State) (l p : Nat), 48 ≤ l → (u = modPort p (fun x => { x with spareBad := true }) s) →
    (∀ k, (getPort s p).spareUsed = some k → laneFault p l s = loseLane p k u) ∧ (∀ k a, (getPort s p).spareUsed = none
      → (getPort s p).spareReq = some (k, a) → laneFault p l s = loseLane p k u) ∧ ((getPort s p).spareUsed = none →
      (getPort s p).spareReq = none → laneFault p l s = u)) ∧
  (∀ (s u : State) (l p : Nat) (x : PortPlate),
    portPlate s p = some x → (u = modPort p (fun y =>
      { y with lanesUp := if x.frame then [] else y.lanesUp.filter (· != l), spareReq := none }) s) →
    ((getPort u p).lanesUp ≠ [] → loseLane p l s = u) ∧ ((getPort u p).lanesUp = [] → loseLane p l s = latch (event 5 2
      3 p (getPort u p).peerDev) (takeDown p u))) ∧
  (∀ (s : State) (p l : Nat) (x : PortPlate),
    running s = true → portPlate s p = some x → inService (getPort s p) = true → x.protect = true → x.lanes.contains l
      = true → (getPort s p).spareBad = false → (getPort s p).spareUsed = none →
    exec (.spareReq p l) s = .next (sendControl p 3 l (latch (event 5 1 2 l p) (modPort p (fun x =>
      { x with st := .upSpared, spareUsed := some l, spareReq := none, lanesUp := addNew x.lanesUp l }) s)))) ∧
  (∀ (s : State) (p l k : Nat) (x : PortPlate), running s = true → portPlate s p = some x →
    ((getPort s p).spareUsed = some k → k ≠ l → exec (.spareReq p l) s = .next s) ∧ ((getPort s p).spareUsed = some l →
      inService (getPort s p) = true → x.protect = true → x.lanes.contains l = true → (getPort s p).spareBad = false →
      exec (.spareReq p l) s = .next (sendControl p 3 l s)) ∧ (inService (getPort s p) = false ∨ x.protect = false ∨
      x.lanes.contains l = false ∨ (getPort s p).spareBad = true → exec (.spareReq p l) s = .next s)) ∧
  (∀ (s u : State) (p l a b : Nat),
    running s = true → (getPort s p).spareReq = some (l, a, b) → (u = latch (event 5 1 2 l p) (modPort p (fun x =>
      { x with st := .upSpared, spareUsed := some l, spareReq := none, lanesUp := addNew x.lanesUp l }) s)) →
    exec (.spareAck p l) s = .next (((getPort u p).replay.head?).elim u fun c => replayFrom p c.lsn u) ∧ exec
      (.spareAckTimeout p) s = .next (loseLane p l (waitMono (a + 8000) s)) ∧ (max s.clk.mono (b + 1000) < a + 8000 → exec
      (.spareReqRepeat p) s = .next (sendControl p 2 l (modPort p (fun x =>
      { x with spareReq := some (l, a, max s.clk.mono (b + 1000)) }) (waitMono (b + 1000) s))))) ∧
  (∀ (s u : State) (p : Nat) (x : PortPlate),
    running s = true → p < 48 → (getPort s p).st = .down → portPlate s p = some x → x.lanes ≠ [] → u = waitMono
      (getPort s p).retrainAt s →
    exec (.portRetrain p) s = .next (emit (.train p) (modPort p (fun y =>
      { y with st := .training, retrainAt := u.clk.mono + 100000000 }) u))) ∧
  (∀ (s u : State) (p n : Nat) (x : PortPlate),
    running s = true → p < 48 → (getPort s p).st = .training → portPlate s p = some x → 0 < n → n ≤ x.lanes.length → u
      = (if x.frame then startLink p n x s else sendLocal p 0xF1 (leBytes 2 s.plates.device ++ leBytes 1 p) (startLink p
      n x s)) →
    exec (.portTrainingDone p n) s = .next (if peerAccepted x (getPort s p) then admitPort p u else u) ∧ exec
      (.portTrainingDone p 0) s = .next (modPort p (fun z => { z with st := .down, wasDown := true }) s)) ∧
  (∀ (s : State) (p n : Nat) (x : PortPlate), p < s.fabric.ports.length →
    (getPort (startLink p n x s) p).lanesUp = x.lanes.take n ∧ (getPort (startLink p n x s) p).txLsn = 0 ∧ (getPort
      (startLink p n x s) p).rxLsn = 0 ∧ (getPort (startLink p n x s) p).replay = [] ∧ (getPort (startLink p n x s)
      p).credits = startCredits x ∧ ((getPort s p).wasDown = true → ticking s = true → admitPort p s = modPort p (fun z =>
      { z with returns := true }) s) ∧ ((getPort s p).wasDown = false ∨ ticking s = false → admitPort p s = modPort p (fun
      y => { y with st := .up, returns := false, wasDown := false }) s)) ∧
  (∀ (s u : State) (p d q : Nat) (x : PortPlate),
    running s = true → cellPort s p = true → (inService (getPort s p) = true ∨ (getPort s p).st = .training) →
      portPlate s p = some x → (u = modPort p (fun x => { x with peerDev := d, peerPort := q, peerSeen := true }) s) →
    (peerAccepted x (getPort u p) = true → exec (.peerId p d q) s = .next (if (getPort u p).linked && !inService
      (getPort u p) && !(getPort u p).returns then admitPort p u else u)) ∧ (peerAccepted x (getPort u p) = false → exec
      (.peerId p d q) s = .next (latch (event 5 3 3 p d) (unrouteAll p (modPort p (fun x =>
      { x with st := .wrongPeer, returns := false }) u)))) ∧ (x.frame = false → p < s.fabric.ports.length → (peerAccepted
      x (getPort u p) = true ↔ 65536 ≤ x.peerDev ∨ (d = x.peerDev ∧ q = x.peerPort))))

/-- A cell whose FEC, CRC or form is bad makes the receiver enter recovery, which asks once for the LSN it expects and
again every 1 µs; a bad codeword is counted on its lane. A good cell acknowledges what it names; the cell of the expected
LSN is taken, ends recovery and advances the LSN, and cells of other lanes that waited for it follow; one ahead by fewer
than the port's lanes waits for them (log entry 111), another up to 511 ahead enters recovery; one behind is dropped; a
pure idle cell leaves the LSN as it is, and a control cell acts as its code says. RETRY naming E replays the cells held
from E on in order, each with a new ACK_LSN and CRC, and the eighth for one E without progress faults the lane with most
uncorrectable codewords. -/
def Obligations.CellsAreAccepted : Prop :=
  (∀ (s u : State) (p : Nat) (c : Cell),
    running s = true → takesCells s p = true → c.fecOk = true → cellCrcOk c = true → cellLegal c = true → u = takeAck
      p (cellAck c.tag) s →
    (cellKind c.tag ≠ 3 → cellKind c.tag ≠ 0 ∨ cellCrCode c.tag ≠ 15 → exec (.cellReceive p c) s = .next (numberedCell p
      c u)) ∧ (cellKind c.tag = 0 → cellCrCode c.tag = 15 → exec (.cellReceive p c) s = .next u) ∧ (∀ a, cellKind c.tag =
      3 → a = leNat ((c.body.drop 1).take 2) → exec (.cellReceive p c) s = .next (if leNat (c.body.take 1) = 1 then
      retryAsked p a u else if leNat (c.body.take 1) = 2 then spareAsked p a u else if leNat (c.body.take 1) = 3 then
      spareAnswered p a u else u))) ∧
  (∀ (u : State) (p : Nat) (c : Cell),
    ((cellLsn c.tag + 1024 - (getPort u p).rxLsn) % 1024 = 0 → numberedCell p c u = acceptAhead p (getPort u
      p).ahead.length (takeCell p c (modPort p (fun y => { y with rxLsn := (y.rxLsn + 1) % 1024, recovery := false }) u)))
      ∧ (512 ≤ (cellLsn c.tag + 1024 - (getPort u p).rxLsn) % 1024 → numberedCell p c u = u) ∧ (0 < (cellLsn c.tag + 1024
      - (getPort u p).rxLsn) % 1024 → (cellLsn c.tag + 1024 - (getPort u p).rxLsn) % 1024 < 512 → (getPort u p).recovery =
      false → (getPort u p).lanesUp.length ≤ (cellLsn c.tag + 1024 - (getPort u p).rxLsn) % 1024 → numberedCell p c u =
      enterRecovery p u) ∧ (0 < (cellLsn c.tag + 1024 - (getPort u p).rxLsn) % 1024 → (cellLsn c.tag + 1024 - (getPort u
      p).rxLsn) % 1024 < 512 → (getPort u p).recovery = false → (cellLsn c.tag + 1024 - (getPort u p).rxLsn) % 1024 <
      (getPort u p).lanesUp.length → ((getPort u p).ahead.any fun y => cellLsn y.tag == cellLsn c.tag) = false →
      numberedCell p c u = modPort p (fun y => { y with ahead := y.ahead ++ [c] }) u)) ∧
  (∀ (s u v : State) (p : Nat) (c : Cell),
    running s = true → takesCells s p = true → (c.fecOk = false ∨ cellCrcOk c = false ∨ cellLegal c = false) → (u =
      (if c.fecOk then s else if atFault (noteWords p c.lane 1 s) p c.lane (.codewords 1) && faultPort (noteWords p
      c.lane 1 s) c.lane == some p then laneFault p c.lane (noteWords p c.lane 1 s) else noteWords p c.lane 1 s)) → v =
      (if cellCrcOk c then takeAck p (cellAck c.tag) u else u) →
    exec (.cellReceive p c) s = .next (if takesCells v p then enterRecovery p v else v)) ∧
  (∀ (s : State) (p : Nat), running s = true →
    ((getPort s p).recovery = true → enterRecovery p s = s ∧ exec (.retryRepeat p) s = .next (sendControl p 1 (getPort s
      p).rxLsn (modPort p (fun y => { y with recoverAt := (waitMono ((getPort s p).recoverAt + 1000) s).clk.mono })
      (waitMono ((getPort s p).recoverAt + 1000) s)))) ∧ ((getPort s p).recovery = false → enterRecovery p s = sendControl
      p 1 (getPort s p).rxLsn (modPort p (fun y => { y with recovery := true, recoverAt := s.clk.mono, ahead := [] }) s) ∧
      exec (.retryRepeat p) s = .next s)) ∧
  (∀ (s u : State) (p e n : Nat),
    running s = true → cellPort s p = true → takesCells s p = true → n = (if (getPort s p).retryE = e ∧ (getPort s
      p).retryCount ≠ 0 then (getPort s p).retryCount + 1 else 1) → (u = replayFrom p e (modPort p (fun y =>
      { y with retryE := e, retryCount := n }) s)) →
    (n < 8 → exec (.retry p e) s = .next u) ∧ (∀ l, 8 ≤ n → worstLane u p = some l → exec (.retry p e) s = .next
      (laneFault p l { u with freeCount := u.freeCount + 1 })) ∧ (8 ≤ n → worstLane u p = none → exec (.retry p e) s =
      .next u)) ∧
  (∀ (s : State) (p e : Nat),
    ∃ l o, (∀ x ∈ o, (∃ n, x = Out.blocks p n) ∨ ∃ n, x = Out.onLanes p n) ∧ l = ((getPort s p).replay.dropWhile fun c
      => c.lsn != e).map (fun c =>
      { c with tag := withCrc (setFld c.tag 22 10 (((getPort s p).rxLsn + 1023) % 1024)) c.body }) ∧ (replayFrom p e
      s).out = s.out ++ o ++ l.map fun c => .replayed p c)

/-- The head of a buffer without an output is discarded and counted where its bank is not valid, where it has no route, or
where it arrived with HOPS 6 elsewhere; it is ejected where it is this device's and its type fits its VC; otherwise it is
given its output once, a request head takes LOAD, and it leaves when it is that output's next, behind the link-local
packets of VC 9. A packet of this device without a route that belongs to no docket is discarded and counted at port 0. A
discarded or ejected head gives its cells back to the input. A head of VC 0 to 7 that waited HOLD_MAX in one input buffer
is discarded and counted. -/
def Obligations.PacketsAreRouted : Prop :=
  (∀ (s : State) (i v c : Nat) (b : Bool) (w : Waiting) (l : List Waiting),
    running s = true → i ≤ 48 → bufferAt s i (codeOf v b) c = w :: l → w.output = none → ((bankOf s w.p.epoch).2 =
      .idle ∨ (bankOf s w.p.epoch).2 = .loading) →
    exec (.packetRoute i v b c) s = .next (discardHead i (codeOf v b) c w dropEpoch s)) ∧
  (∀ (s : State) (i v c : Nat) (b : Bool) (w : Waiting) (l : List Waiting),
    running s = true → i ≤ 48 → bufferAt s i (codeOf v b) c = w :: l → w.output = none → (bankOf s w.p.epoch).2 ≠
      .idle → (bankOf s w.p.epoch).2 ≠ .loading → isLocal (routeOf s w.p.epoch w.p.dstDev) = true →
    exec (.packetRoute i v b c) s = .next (if typeFits w.p then freeCells i (codeOf v b) c (cellsOf w.p.body.length)
      (modFabric (fun f => { f with ejected := f.ejected ++ [w.p] }) (setBuffer i (codeOf v b) c l s)) else discardHead i
      (codeOf v b) c w dropNoRoute s)) ∧
  (∀ (s : State) (i v c : Nat) (b : Bool) (w : Waiting) (l : List Waiting),
    running s = true → i ≤ 48 → bufferAt s i (codeOf v b) c = w :: l → w.output = none → (bankOf s w.p.epoch).2 ≠
      .idle → (bankOf s w.p.epoch).2 ≠ .loading → isLocal (routeOf s w.p.epoch w.p.dstDev) = false →
    (i < 48 → 6 ≤ w.p.hops → exec (.packetRoute i v b c) s = .next (discardHead i (codeOf v b) c w dropHops s)) ∧ (i =
      48 ∨ w.p.hops < 6 → chooseOutput s w.p (if i < 48 then w.p.hops else 0) = none → exec (.packetRoute i v b c) s =
      .next (if i < 48 then discardHead i (codeOf v b) c w dropNoRoute s else ownUnroutable (codeOf v b) c w s)) ∧ (∀ p
      far, i = 48 ∨ w.p.hops < 6 → chooseOutput s w.p (if i < 48 then w.p.hops else 0) = some (p, far) → exec
      (.packetRoute i v b c) s = .next (tryLeave i (codeOf v b) c p (setBuffer i (codeOf v b) c
      ({ w with output := some p, p := withLoad s p w.p } :: l) (modFabric (fun f => { f with
        rotate := tset f.rotate w.p.dstDev ((tget f.rotate w.p.dstDev).getD 0 + 1)
        nonMin := if far then satAdd 64 f.nonMin 1 else f.nonMin }) s))))) ∧
  (∀ (s u : State) (i v c p : Nat), u = sendWaitingLocal p s →
    (∀ h, nextLeaving u p = some h → h.input = i → h.code = v → h.cls = c → tryLeave i v c p s = sendWaitingLocal p
      (leave p h u)) ∧ (∀ h, nextLeaving u p = some h → ¬ (h.input = i ∧ h.code = v ∧ h.cls = c) → tryLeave i v c p s =
      noteShut i v c p u) ∧ (nextLeaving u p = none → tryLeave i v c p s = noteShut i v c p u)) ∧
  (∀ (s u : State) (v c : Nat) (w : Waiting),
    u = setBuffer 48 v c ((bufferAt s 48 v c).drop 1) s → (isRequest w.p = false ∨ ownMessage s w.p = none) →
    ownUnroutable v c w s = modPort 0 (fun q => { q with noRoute := satAdd 20 q.noRoute 1 }) u) ∧
  (∀ (s : State) (i v c p : Nat) (b : Bool) (w : Waiting) (l : List Waiting),
    running s = true → i ≤ 48 → bufferAt s i (codeOf v b) c = w :: l → w.output = some p →
    exec (.packetRoute i v b c) s = .next (tryLeave i (codeOf v b) c p s)) ∧
  (∀ (s : State) (i v c : Nat) (w : Waiting) (l : List Waiting),
    running s = true → i < 48 → v ≤ 7 → bufferAt s i v c = w :: l →
    exec (.staleDiscard i v c) s = .next (modDlv (fun d => { d with stale := satAdd 16 d.stale 1 }) (discardHead i v c w
      (fun p => p) (waitMono w.staleAt s))))

/-- On a frame-mode port in service, every frame has its FCS and checksum errors counted; a PFC frame without flaws
pauses; any other frame to no accepted address is counted as not mine. A flawed one is dropped and counted unless flawed
frames are delivered raw; a PTP frame goes to the boundary clock, a RoCE frame to the port's IPv4 address and a frame for
the raw path wait, with the time they came, in the receive buffer of their priority while it has room; a RoCE packet of
another transport is dropped, and counted where no connection holds its queue pair. A raw frame goes to the next slot of
its instance's window, with a notification that carries length, the time the frame came and flaws; without instance, room
or window it is discarded and counted. PFC pauses an enabled priority for the quanta it names, quanta of 0 let it go on,
and so does the expiry. PAUSE is sent again after half its quanta. A priority paused for 10 ms loses its queued frames,
counted and latched. -/
def Obligations.FramesTakeTheirPath : Prop :=
  (∀ (s u : State) (p : Nat) (f : Frame), frameComes s p = true → u = countFlaws p (flawsOf s p f) s →
    (isPfc f.bytes = true → (flawsOf s p f).any = false → exec (.frameReceive p f) s = .next (pfcArrives p (pfcQuanta
      f.bytes) u)) ∧ (isPfc f.bytes = false → acceptsFrame p f.bytes = false → exec (.frameReceive p f) s = .next (modPort
      p (fun x => { x with notMine := satAdd 16 x.notMine 1 }) u)) ∧ ((flawsOf s p f).any = true → isPfc f.bytes = true ∨
      (acceptsFrame p f.bytes = true ∧ (deliverFlawed s p && rawEn s p) = false) → exec (.frameReceive p f) s = .next
      (modPort p (fun x => { x with flawedDrop := satAdd 16 x.flawedDrop 1 }) u)) ∧ (isPfc f.bytes = false → acceptsFrame
      p f.bytes = true → (flawsOf s p f).any = true → (deliverFlawed s p && rawEn s p) = true → exec (.frameReceive p f) s
      = .next (holdFrame p f u))) ∧
  (∀ (s u : State) (p : Nat) (f : Frame),
    frameComes s p = true → isPfc f.bytes = false → acceptsFrame p f.bytes = true → (flawsOf s p f).any = false → u =
      countFlaws p (flawsOf s p f) s →
    (isPtpFrame f.bytes = true → exec (.frameReceive p f) s = .next (ptpArrives p (ptpOf (ptpBytes f.bytes)) u)) ∧
      (isPtpFrame f.bytes = false → (isRoce f.bytes && ipDest f.bytes == (getPort s p).ipv4) = true → exec (.frameReceive
      p f) s = .next (if roceKnown (netAt f.bytes (l4At f.bytes + 8) 1) then holdFrame p f u else if (roceHolder u
      f.bytes).isSome then u else roceStray p u)) ∧ (isPtpFrame f.bytes = false → (isRoce f.bytes && ipDest f.bytes ==
      (getPort s p).ipv4) = false → exec (.frameReceive p f) s = .next (if rawEn s p then holdFrame p f u else modPort p
      (fun x => { x with notMine := satAdd 16 x.notMine 1 }) u))) ∧
  (∀ (s : State) (p v : Nat) (f : Frame) (x : PortPlate), portPlate s p = some x → v = framePcp f.bytes →
    (occupancy s p v + frameCells f ≤ x.buf.getD v 0 → holdFrame p f s = pauseCheck p v (modPort p (fun y =>
      { y with received := y.received ++ [(v, f, (stamp p s).1)] }) (stamp p s).2)) ∧ (x.buf.getD v 0 < occupancy s p v +
      frameCells f → holdFrame p f s = s)) ∧
  (∀ (s u v : State) (p i k off : Nat) (f : Frame) (x : PortPlate) (w : Win) (g : Seg) (wr : MemWrite),
    frameComes s p = true → pathOf s p f = .raw → u = takeFrame p f (frameStamp p f s).2 → portPlate u p = some x →
      x.rawInst = some i → tget (getInst u i).wins x.rawWindow = some w → w.valid = true → notifyReady u i w = true → k
      = (getPort u p).rawCount % max 1 x.rawSlots → off = w.base + k * 16384 → k * 16384 + max (f.bytes.take
      16384).length 1 ≤ w.length → findSeg (getInst u i).segs off (max (f.bytes.take 16384).length 1) false false = some
      g → writeSeg i g off (f.bytes.take 16384) u = (wr, v) →
    (wr.fail.isSome = true → exec (.rawFrameRx p f) s = .next (modPort p (fun x =>
      { x with rawFull := satAdd 16 x.rawFull 1 }) (latchAll wr.events v))) ∧ (wr.fail = none → exec (.rawFrameRx p f) s =
      .next (writeReceipt i w.notifyQueue {
        kind := 1
        index := x.rawWindow
        tag := k
        late := false
        tickLo := u.time.tick % 2 ^ 32
        subtick := subtick u
        signal := true
        out :=
          { settledAs stOk (f.bytes.take 16384).length (rawDetail (flawsOf u p f) (decide (16384 < f.bytes.length)) f.bytes) with
            extra := rawWord p ((frameStamp p f s).1 % 1000000000) f.bytes } } (flushWindow i w (modPort p (fun y =>
      { y with rawCount := (y.rawCount + 1) % max 1 x.rawSlots }) (latchAll wr.events v)))))) ∧
  (∀ (s u : State) (p : Nat) (f : Frame) (x : PortPlate),
    frameComes s p = true → pathOf s p f = .raw → u = takeFrame p f (frameStamp p f s).2 → portPlate u p = some x →
      (x.rawInst = none ∨ (∃ i w, x.rawInst = some i ∧ tget (getInst u i).wins x.rawWindow = some w ∧ (w.valid = false ∨
      notifyReady u i w = false ∨ w.length < (getPort u p).rawCount % max 1 x.rawSlots * 16384 + max (f.bytes.take
      16384).length 1 ∨ findSeg (getInst u i).segs (w.base + (getPort u p).rawCount % max 1 x.rawSlots * 16384) (max
      (f.bytes.take 16384).length 1) false false = none)) ∨ (∃ i, x.rawInst = some i ∧ tget (getInst u i).wins
      x.rawWindow = none)) →
    exec (.rawFrameRx p f) s = .next (modPort p (fun x => { x with rawFull := satAdd 16 x.rawFull 1 }) u)) ∧
  (∀ (s : State) (p v n : Nat), frameComes s p = true → v < 8 → pfcEn s p v = true → 0 < n →
    exec (.pfcFrameRx p [(v, n)]) s = .next (drainPort p (modPort p (fun y => { y with
        pauseUntil := tset y.pauseUntil v (s.clk.mono + quantaTime s p n)
        pausedSince := tset y.pausedSince v ((tget y.pausedSince v).getD s.clk.mono) }) s)) ∧ exec (.pfcFrameRx p [(v,
      0)]) s = .next (drainPort p (modPort p (fun y =>
      { y with pauseUntil := tdel y.pauseUntil v, pausedSince := tdel y.pausedSince v }) s))) ∧
  (∀ (s u : State) (p v t : Nat),
    frameComes s p = true → tget (getPort s p).pausing v = some t → u = waitMono t s →
    exec (.pfcRepeat p v) s = .next (emit (.pfc p [(v, 0xFFFF)]) (modPort p (fun y =>
      { y with pausing := tset y.pausing v (u.clk.mono + quantaTime s p 0xFFFF / 2) }) u))) ∧
  (∀ (s : State) (p v t : Nat), frameComes s p = true → tget (getPort s p).pauseUntil v = some t →
    exec (.pfcPauseExpiry p v) s = .next (drainPort p (modPort p (fun y =>
      { y with pauseUntil := tdel y.pauseUntil v, pausedSince := tdel y.pausedSince v }) (waitMono t s)))) ∧
  (∀ (s u : State) (p v t t2 : Nat) (gone : List (Nat × List Byte × Option (Nat × Nat × Nat))),
    frameComes s p = true → tget (getPort s p).pausedSince v = some t → tget (getPort s p).pauseUntil v = some t2 → t
      + 10000000 < t2 → u = waitMono (t + 10000000) s → (gone = (getPort u p).frames.filter fun f => f.1 == v) →
    exec (.pfcWatchdog p v) s = .next (latch (fabricEvent 4 1 p v) (each gone (fun f x => endRaw (discardedRaw x).1
      f.2.2 (discardedRaw x).2) (modPort p (fun y => { y with
        frames := y.frames.filter (fun f => f.1 != v)
        pfcWd := satAdd 16 y.pfcWd gone.length
        pausedSince := tset y.pausedSince v u.clk.mono }) u)))) ∧
  (∀ (s : State) (p n : Nat) (f : Nat × List Byte × Option (Nat × Nat × Nat)),
    inService (getPort s p) = true → nextFrame s p = some f →
    drainFrames p (n + 1) s = drainFrames p n (endRaw (settledOk (rawLength s f.2.2)) f.2.2 (emit (.frame p f.2.1)
      (modPort p (fun x => { x with frames := delFirst x.frames (· == f) }) s))))

/-- A RoCE packet is taken from the receive buffer; one that names no connection is dropped and counted, one in the error
state has no effect, every other first has its CE mark answered. A request in PSN order has its effect; one ahead of a gap
gets one sequence NAK of the expected PSN; one behind is answered again. An RDMA WRITE in one packet that the window
admits is stored and acknowledged, an atomic stores the new value and answers the old; a refused request gets a NAK. An
RNR NAK starts the timer, a sequence NAK has everything not acknowledged sent again, and so does a timeout, RETRY times:
then the connection is in the error state and every docket on it ends UNREACHABLE. LOAD installs a valid entry that is not
taken; CLEAR withdraws it. -/
def Obligations.RocePacketsAreServed : Prop :=
  (∀ (s u : State) (p : Nat) (f : Frame) (x : List Nat × Instr × (Nat → RoceConn → List Byte → State → State)),
    frameComes s p = true → pathOf s p f = .roce → x ∈ roceCommands p f → x.1.contains (rxOp f.bytes) = true → u =
      takeFrame p f s →
    (roceOwner u f.bytes = none → exec x.2.1 s = .next (modPort p (fun y =>
      { y with roceDrop := satAdd 16 y.roceDrop 1 }) u)) ∧ (∀ n c, roceOwner u f.bytes = some (n, c) → exec x.2.1 s =
      .next (if c.error then u else tidyRoce (x.2.2 n c f.bytes (answerCe n c f.bytes u))))) ∧
  (∀ (s u : State) (p n : Nat) (f : Frame) (c : RoceConn),
    frameComes s p = true → pathOf s p f = .roce → u = takeFrame p f s → roceOwner u f.bytes = some (n, c) → c.error =
      false →
    (rxOp f.bytes = 0x12 ∨ (rxOp f.bytes = 0x11 ∧ netAt (rxRest f.bytes) 0 1 / 32 % 4 = 0) → exec (.roceAckRx p f) s =
      .next (tidyRoce (roceAckIn n c f.bytes (answerCe n c f.bytes u)))) ∧ (rxOp f.bytes = 0x11 ∧ netAt (rxRest f.bytes) 0
      1 / 32 % 4 ≠ 0 → exec (.roceNakRx p f) s = .next (tidyRoce (roceNakIn n c f.bytes (answerCe n c f.bytes u))))) ∧
  (∀ (s : State) (n e : Nat) (c : RoceConn) (bs : List Byte) (fresh behind : State → State), c.expPsn = some e →
    ((rxPsn bs + 2 ^ 24 - e) % 2 ^ 24 = 0 → sequenced n c bs fresh behind s = fresh s) ∧ (0 < (rxPsn bs + 2 ^ 24 - e) %
      2 ^ 24 ∧ (rxPsn bs + 2 ^ 24 - e) % 2 ^ 24 < 2 ^ 23 → sequenced n c bs fresh behind s = (if c.nakSent then s else
      sendAeth n bs e 0x60 (modRoce n (fun y => { y with nakSent := true }) s))) ∧ (2 ^ 23 ≤ (rxPsn bs + 2 ^ 24 - e) % 2 ^
      24 → sequenced n c bs fresh behind s = behind s)) ∧
  (∀ (s u : State) (n i : Nat) (c : RoceConn) (bs : List Byte) (w : Win) (g : Seg) (wr : MemWrite),
    rxOp bs = 0x0A → c.rx = none → roceCheck s c 1 (netAt (rxRest bs) 8 4) (netAt (rxRest bs) 0 8) (netAt (rxRest bs)
      12 4) false = .ok (i, w, g) → ((rxRest bs).drop 16).length = netAt (rxRest bs) 12 4 → writeSeg i g (w.base + netAt
      (rxRest bs) 0 8) ((rxRest bs).drop 16) s = (wr, u) → wr.fail = none →
    roceWriteIn n c bs s = sendAeth n bs (rxPsn bs) 0x1F (passPsn n (rxPsn bs) 1 (modRoce n (fun c =>
      { c with rx := none, msn := c.msn + 1 }) (latchAll wr.events u)))) ∧
  (∀ (s u : State) (n i : Nat) (c : RoceConn) (bs : List Byte) (w : Win) (g : Seg) (r : MemRead) (wr : MemWrite) (new
      : Word),
    netAt (rxRest bs) 0 8 % 8 = 0 → roceCheck s c 4 (netAt (rxRest bs) 8 4) (netAt (rxRest bs) 0 8) 8 false = .ok (i,
      w, g) → r = (readSeg i g (w.base + netAt (rxRest bs) 0 8) 8 s).1 → r.fail = none → new = (if rxOp bs = 0x14 then
      atomicValue 0 (wordAt r.bytes 0) (BitVec.ofNat 64 (netAt (rxRest bs) 12 8)) 0 else atomicValue 1 (wordAt r.bytes
      0) (BitVec.ofNat 64 (netAt (rxRest bs) 20 8)) (BitVec.ofNat 64 (netAt (rxRest bs) 12 8))) → writeSeg i g (w.base +
      netAt (rxRest bs) 0 8) (wordBytes new) (latchAll r.events (readSeg i g (w.base + netAt (rxRest bs) 0 8) 8 s).2) =
      (wr, u) → wr.fail = none →
    roceAtomicIn n c bs s = atomicReply n bs (wordAt r.bytes 0) (passPsn n (rxPsn bs) 1 (modRoce n (fun z =>
      { z with msn := z.msn + 1, atomics := ((rxPsn bs, wordAt r.bytes 0) :: z.atomics).take 16 }) (latchAll wr.events
      u)))) ∧
  (∀ (s : State) (n e : Nat) (c : RoceConn) (bs : List Byte),
    roceCheck s c 1 (netAt (rxRest bs) 8 4) (netAt (rxRest bs) 0 8) (netAt (rxRest bs) 12 4) false = .error e → rxOp
      bs = 0x0A → c.rx = none →
    roceWriteIn n c bs s = (if e = 0x20 then sendAeth n bs (rxPsn bs) (0x20 + Config.rnrTimer % 32) s else sendAeth n bs
      (rxPsn bs) e (passPsn n (rxPsn bs) 1 (modRoce n (fun c => { c with rx := none }) s)))) ∧
  (∀ (s : State) (n : Nat) (c : RoceConn) (bs : List Byte) (u : State),
    u = roceCovered n c ((rxPsn bs + 2 ^ 24 - 1) % 2 ^ 24) s →
    (netAt (rxRest bs) 0 1 / 32 = 1 → roceNakIn n c bs s = modRoce n (fun y =>
      { y with rnrAt := some (s.clk.mono + rnrTime (netAt (rxRest bs) 0 1)) }) u) ∧ (netAt (rxRest bs) 0 1 = 0x60 →
      roceNakIn n c bs s = resendRoce (roceKey s c) u)) ∧
  (∀ (s u : State) (n : Nat) (c : RoceConn) (x : SendCtx) (m : TxMsg) (t : TxPacket),
    running s = true → tget s.ether.roce n = some c → c.error = false → c.rnrAt = none → findTx s (roceKey s c) = some
      x → (((ctxPackets x).find? fun p => p.2.sent && !p.2.settled && !p.2.lost) = some (m, t)) → u = waitMono t.due s →
    exec (.roceAckTimeout n) s = .next (if c.retry ≤ c.retries then failRoce n c (settledAs stUnreachable 0 0) u else
      resendRoce (roceKey s c) (modRoce n (fun y => { y with retries := y.retries + 1 }) u))) ∧
  (∀ (s u : State) (n t : Nat) (c : RoceConn),
    tget s.ether.roce n = some c → c.rnrAt = some t → u = waitMono t s →
    exec (.roceRnrRetry n) s = .next (if c.rnrRetry ≠ 7 ∧ c.rnrRetry ≤ c.rnrRetries then failRoce n c (settledAs
      stRemoteRefused 0 3) u else resendRoce (roceKey s c) (modRoce n (fun y =>
      { y with rnrAt := none, rnrRetries := y.rnrRetries + 1 }) u))) ∧
  (∀ (s : State) (n : Nat) (c : RoceConn) (out : Settled) (x : SendCtx), findTx s (roceKey s c) = some x →
    failRoce n c out s = tidyRoce (each x.msgs (fun m t => endRoce m out t) (modTx (roceKey s c) (fun x =>
      { x with msgs := [] }) (modRoce n (fun y => { y with error := true, rnrAt := none }) s)))) ∧
  (∀ (s u v : State) (n : Nat) (w : List Word) (r : MemRead) (k : ConnKey),
    running s = true → n < 16384 → u = tidyRoce s → readHost (mgrFn u) (fld u.ether.roceAddr 6 58 * 64) 64 u = (r, v)
      → r.fail = none → w = wordsOf r.bytes 8 → bit (wd w 0) 30 = true → roceBad w = false → ((v.ether.roce.any fun x =>
      x.1 == n || x.2.localQpn == (newRoce w).localQpn || (x.2.endpoint == (newRoce w).endpoint && x.2.peerDev ==
      (newRoce w).peerDev && x.2.peerEp == (newRoce w).peerEp)) = false) → k = roceKey v (newRoce w) →
    exec (.roceConnLoad n) s = .next (modEther (fun e => { e with roceResult := 0 }) (modDlv (fun d =>
      { d with tx := d.tx ++ [{ newTx v k with nextPsn := (newRoce w).startPsn, answered := true }] }) (modEther (fun e =>
      { e with roce := tset e.roce n (newRoce w) }) v)))) ∧
  (∀ (s : State) (n : Nat), running s = true → n < 16384 →
    exec (.roceConnClear n) s = .next (modEther (fun e => { e with roceResult := 0 }) (tidyRoce (modRoce n (fun c =>
      { c with valid := false }) s))))

/-- With the management link up, an ARP request for the device's own address is answered with its MAC address; a frame
with a bad FCS or PCS error is discarded and counted, an ARP request to the device or to all is answered, a PTP message
over IPv4 to the device or a group reaches its PTP clock, a UDP frame to port 0x4C43 reaches SPDM and one to 0x4C42 the
steward. A collision sends the frame again after a back-off, or abandons and counts it at the 16th; the loss of the PLCA
beacon returns to CSMA/CD. SPDM: GET_VERSION begins anew; capabilities need the version and algorithms the capabilities;
every other request before the negotiation is answered UnexpectedRequest. Digest and portions of the installed chain, the
signed CHALLENGE, the measurement blocks, KEY_EXCHANGE, FINISH, HEARTBEAT, KEY_UPDATE and END_SESSION are answered, and
each session is opened, established and ended so. -/
def Obligations.ManagementPortAndSpdmAnswer : Prop :=
  (∀ (s : State) (ip mac sip : Nat), mgmtOn s = true →
    exec (.arpRequest Config.mgmtIp mac sip) s = .next (emit (.mgmt (arpReply Config.mgmtIp mac sip)) (modEther (fun e
      => { e with mgmtQueue := [arpReply Config.mgmtIp mac sip], collisions := 0 }) s)) ∧ (ip ≠ Config.mgmtIp → exec
      (.arpRequest ip mac sip) s = .next s)) ∧
  (∀ (s : State) (f : Frame), mgmtOn s = true → (crc32 f.bytes ≠ f.fcs.toNat ∨ f.pcsError = true) →
    exec (.mgmtFrameRx f) s = .next (placeAll (modEther (fun e => { e with mgmtDrop := satAdd 16 e.mgmtDrop 1 }) s))) ∧
  (∀ (s : State) (f : Frame),
    mgmtOn s = true → crc32 f.bytes = f.fcs.toNat → f.pcsError = false → isArpRequest f.bytes = true → (destMac
      f.bytes = 0xFFFFFFFFFFFF ∨ destMac f.bytes = ownMac 48) →
    exec (.mgmtFrameRx f) s = .next (placeAll (answerArp (netAt f.bytes (l3At f.bytes + 24) 4) (netAt f.bytes (l3At
      f.bytes + 8) 6) (netAt f.bytes (l3At f.bytes + 14) 4) s))) ∧
  (∀ (s : State) (f : Frame),
    mgmtOn s = true → crc32 f.bytes = f.fcs.toNat → f.pcsError = false → isArpRequest f.bytes = false →
    exec (.mgmtFrameRx f) s = .next (placeAll (if isPtpFrame f.bytes && isV4 f.bytes && (destMac f.bytes == ownMac 48 ||
      netAt f.bytes 0 1 % 2 == 1) then ptpArrives 48 (ptpOf (ptpBytes f.bytes)) s else if destMac f.bytes == ownMac 48 &&
      udpTo f.bytes 0x4C43 then mgmtSpdm f.bytes s else if destMac f.bytes == ownMac 48 && udpTo f.bytes 0x4C42 &&
      !inKeeping s then mgmtSteward f.bytes s else mgmtDiscard s))) ∧
  (∀ (s : State) (bs : List Byte) (r : List (List Byte)),
    mgmtOn s = true → s.ether.plcaActive = false → s.ether.mgmtQueue = bs :: r →
    (15 ≤ s.ether.collisions → exec .mgmtCollision s = .next (modEther (fun e =>
      { e with mgmtQueue := [], collisions := 0, mgmtExcess := satAdd 16 e.mgmtExcess 1 }) s)) ∧ (s.ether.collisions < 15
      → ∃ slots, slots < 2 ^ min (s.ether.collisions + 1) 10 ∧ exec .mgmtCollision s = .next (emit (.mgmt bs) (pass (slots
      * 51200) (modEther (fun e => { e with collisions := s.ether.collisions + 1 })
      { s with freeCount := s.freeCount + 1 }))))) ∧
  (∀ (s : State), mgmtOn s = true → s.ether.plcaActive = true → fld s.ether.mgmtCtrl 8 8 ≠ 0 →
    exec .plcaBeaconLoss s = .next (modEther (fun e => { e with plcaActive := false }) s)) ∧
  (∀ (s : State) (session : Option Nat) (c : Instr),
    spdmOn s = true → inSession s session = true → s.spdm.negotiated = false → (c = .getDigests session ∨ (∃ a b d, c
      = .getCertificate session a b d) ∨ (∃ a n, c = .challenge session a n) ∨ (∃ k g n, c = .getMeasurements session k
      g n) ∨ (∃ q, c = .keyExchange q) ∨ (∃ n k q, c = .finish n k q)) →
    exec c s = .next (emit (.spdm (spdmBytes 0x7F erUnexpected 0 [])) s)) ∧
  (∀ (s : State) (session : Option Nat), spdmOn s = true → inSession s session = true →
    exec (.getVersion session) s = .next (emit (.spdm (leBytes 4 0x0410 ++ [0, 1, 0x00, 0x12])) { s with
        spdm := { Spdm.reset with
            versioned := true
            nextSession := s.spdm.nextSession
            transcript := leBytes 4 0x8410 ++ (leBytes 4 0x0410 ++ [0, 1, 0x00, 0x12]) } })) ∧
  (∀ (s : State) (session : Option Nat) (request : List Byte), spdmOn s = true → inSession s session = true →
    exec (.getCapabilities session request) s = .next (if s.spdm.versioned then spdmReply request (spdmBytes 0x61 0 0
      Config.spdmCapabilities) (modSpdm (fun x => { x with capable := true }) s) else spdmError erUnexpected s) ∧ exec
      (.negotiateAlgorithms session request) s = .next (if s.spdm.capable = false then spdmError erUnexpected s else if
      Config.spdmAlgorithmsOk request then spdmReply request (spdmBytes 0x63 0 0 (Config.spdmAlgorithms request)) (modSpdm
      (fun x => { x with negotiated := true }) s) else spdmError erInvalid s)) ∧
  (∀ (s : State) (session : Option Nat) (c : List Byte),
    spdmOn s = true → inSession s session = true → s.spdm.negotiated = true → s.boot.chain = some c →
    exec (.getDigests session) s = .next (spdmReply (spdmBytes 0x81 0 0 []) (spdmBytes 0x01 0 1 (sha256 c)) s) ∧ (∀ a n
      part, a < c.length → part = (c.drop a).take n → exec (.getCertificate session 0 a n) s = .next (spdmReply (spdmBytes
      0x82 0 0 (leBytes 2 a ++ leBytes 2 n)) (spdmBytes 0x02 0 0 (leBytes 2 part.length ++ leBytes 2 (c.length - a -
      part.length) ++ part)) s)) ∧ (∀ nonce, nonce.length = 32 → exec (.challenge session 0 nonce) s = .next (spdmSigned
      (spdmBytes 0x83 0 0 nonce) (spdmBytes 0x03 0 1 (sha256 c ++ (freeBytes 32 s).1 ++ [0, 0])) (freeBytes 32 s).2))) ∧
  (∀ (s : State) (session : Option Nat),
    spdmOn s = true → inSession s session = true → s.spdm.negotiated = true → s.boot.chain = none →
    exec (.getDigests session) s = .next (spdmReply (spdmBytes 0x81 0 0 []) (spdmBytes 0x01 0 0 []) s) ∧ (∀ a nonce,
      exec (.challenge session a nonce) s = .next (spdmError erUnexpected s)) ∧ (∀ k nonce, exec (.getMeasurements session
      k true nonce) s = .next (spdmError erUnexpected s))) ∧
  (∀ (s : State) (session : Option Nat) (k : Nat),
    spdmOn s = true → inSession s session = true → s.spdm.negotiated = true → 1 ≤ k → k ≤ 15 →
    exec (.getMeasurements session k false []) s = .next (spdmReply (spdmBytes 0xE0 0 k []) (spdmBytes 0x60 0 0 ([1] ++
      leBytes 3 (measurementBlock s k).length ++ measurementBlock s k ++ (freeBytes 32 s).1 ++ [0, 0])) (freeBytes 32
      s).2)) ∧
  (∀ (s u : State) (n : Nat) (request response sign : List Byte),
    spdmOn s = true → s.spdm.negotiated = true → s.boot.chain.isSome = true → n = s.spdm.nextSession → u = (freeBytes
      32 s).2 → response = spdmBytes 0x64 0 0 (leBytes 2 n ++ [1, 0] ++ (freeBytes 32 s).1 ++ Config.dheResponse n
      request ++ [0, 0]) → sign = Config.deviceSign (s.spdm.transcript ++ request ++ response) →
    exec (.keyExchange request) s = .next (spdmReply request (response ++ sign ++ Config.spdmVerify n (s.spdm.transcript
      ++ request ++ response ++ sign)) (modSpdm (fun x => { x with
        sessions := tset x.sessions n { established := false, requester := [], manager := false, updates := 0 }
        nextSession := (n + 1) % 65536 }) u))) ∧
  (∀ (s : State) (n : Nat) (key request : List Byte) (x : Session),
    spdmOn s = true → s.spdm.negotiated = true → tget s.spdm.sessions n = some x → x.established = false →
    exec (.finish n key request) s = .next (if Config.spdmFinishOk n request then spdmReply request (spdmBytes 0x65 0 0
      []) (modSpdm (fun z => { z with
        sessions := tset z.sessions n
          { x with established := true, requester := key, manager := sha256 key == s.plates.mgrKeyHash } }) s) else
      spdmError erDecrypt (modSpdm (fun z => { z with sessions := tdel z.sessions n }) s))) ∧
  (∀ (s : State) (n : Nat), spdmOn s = true → inSession s (some n) = true →
    exec (.heartbeat n) s = .next (emit (.spdm (spdmBytes 0x68 0 0 [])) s) ∧ (∀ k, k ∈ [1, 2, 3] → exec (.keyUpdate n k)
      s = .next (emit (.spdm (spdmBytes 0x69 k 0 [])) (modSpdm (fun z =>
      { z with sessions := tmod z.sessions n fun x => { x with updates := if k = 3 then x.updates else x.updates + 1 } })
      s))) ∧ exec (.endSession n) s = .next (emit (.spdm (spdmBytes 0x6C 0 0 [])) (modSpdm (fun z =>
      { z with sessions := tdel z.sessions n }) s)))

/-- Every register of BAR0 and of a page lies at its offset, and an offset names no other. A write to an offset of BAR0
reaches the register there while it answers; elsewhere it is discarded, and so is one to the live view; the instance view
reaches the selected instance's page. A tick-group write lands in its shadow, which its own offset reads, while the live
view reads the value in force. An RW register reads as written; a 1 written to a W1C counter clears that bit. QC_OP,
BOOT_GO, LEDGER_ACK and FAULT_FORCE run their commands. A page register is written while the page answers. A cleared VF
Enable resets the virtual functions, PME Status is cleared by 1. Bytes that a host writes are read back and every other
byte stays; a changed translation answers for its page alone. -/
def Obligations.RegistersTakeWrites : Prop :=
  (∀ (r : BarReg), barRegAt r.offset = some r ∧ ∀ off q, barRegAt off = some q → q.offset = off) ∧
  (∀ (r : PageReg), pageRegAt r.offset = some r ∧ ∀ off q, pageRegAt off = some q → q.offset = off) ∧
  (∀ (s : State) (off : Nat) (r : BarReg) (v : Word), barRegAt off = some r → off < 0x1000000 →
    exec (.registerWrite (.bar0 off) v) s = .next (if barTakes r s then writeBarReg r v s else s)) ∧
  (∀ (s : State) (off : Nat) (v : Word), barRegAt off = none → (off < 0x1000000 ∨ 0x1010000 ≤ off) →
    exec (.registerWrite (.bar0 off) v) s = .next s) ∧
  (∀ (s : State) (i off : Nat) (r : PageReg) (v : Word),
    pageRegAt off = some r → off < 0x10000 → pageOpen s i = true →
    exec (.registerWrite (.page i off) v) s = .next (writePage i false r v s) ∧ (bit s.steward.viewSel 12 = true → fld
      s.steward.viewSel 0 12 = i → exec (.registerWrite (.bar0 (0x1000000 + off)) v) s = .next (writePage i true r v s)) ∧
      (bit s.steward.viewSel 12 = false → exec (.registerWrite (.bar0 (0x1000000 + off)) v) s = .next s)) ∧
  (∀ (s : State) (v : Word), barAnswers s = true →
    ∃ t, exec (.registerWrite (.bar0 0x20010) v) s = .next t ∧ t.quoin.tick = s.quoin.tick ∧ readBar0 0x20010 t = v &&&
      maskPeriod ∧ readBar0 0x2020010 t = s.quoin.tick.period ∧ (∃ u, exec (.registerWrite (.bar0 0x20008) v) s = .next u
      ∧ u.quoin.now = s.quoin.now ∧ readBar0 0x20008 u = v &&& maskTimeCtrl ∧ readBar0 0x2020008 u = s.quoin.now.timeCtrl)) ∧
  (∀ (s : State) (k : Fin 8) (p : Fin 48) (v : Word),
    barAnswers s = true → s.power.comparators.length = 8 → s.fabric.ports.length = 48 →
    ∃ t, exec (.registerWrite (.bar0 (0x20108 + 0x20 * k.val)) v) s = .next t ∧ readBarReg false (.cmpValue k) t = v ∧
      (∀ j, j ≠ k → readBarReg false (.cmpValue j) t = readBarReg false (.cmpValue j) s) ∧ (∃ u, exec (.registerWrite
      (.bar0 (0x51008 + 0x40 * p.val)) v) s = .next u ∧ (∀ n, n < 32 → (getPort u p.val).replayed.testBit n = ((getPort s
      p.val).replayed.testBit n && !v.getLsbD n)) ∧ ∀ q, q ≠ p.val → getPort u q = getPort s q)) ∧
  (∀ (s : State) (i : Nat) (v : Word), pageOpen s i = true →
    ∃ t, exec (.registerWrite (.page i 0x1600) v) s = .next t ∧ readPage i 0x1600 t = v ∧ (∃ u, exec (.registerWrite
      (.page i 0x1100) v) s = .next u ∧ readPage i 0x1100 u = setFld v 0 6 0)) ∧
  (∀ (s : State) (i : Nat) (v : Word) (c : Nat × Instr),
    pageOpen s i = true → c ∈ [(1, Instr.qcCreate i (fld v 32 20)), (2, .qcDrain i (fld v 32 20)), (3, .qcResume i
      (fld v 32 20)), (4, .qcDestroy i (fld v 32 20)), (5, .qcArm i (fld v 32 20)), (6, .qcQuery i (fld v 32 20))] → fld
      v 0 4 = c.1 →
    exec (.registerWrite (.page i 0x1108) v) s = exec c.2 s) ∧
  (∀ (s : State) (v : Word) (c : Nat × Instr), barAnswers s = true → c ∈ bootCommands → fld v 0 3 = c.1 →
    exec (.registerWrite (.bar0 0x10010) v) s = exec c.2 s ∧ exec (.registerWrite (.bar0 0x70000) v) s = exec
      (.ledgerAck (v.setWidth 16)) s ∧ exec (.registerWrite (.bar0 0x70030) v) s = exec (.faultForce (v.setWidth 16)) s) ∧
  (∀ (s : State) (f : Fn) (field : CfgField) (v : Word), configReaches s f = true →
    exec (.registerWrite (.config f field) v) s = .next (writeConfig f field v s) ∧ (bit v 0 = false → exec
      (.registerWrite (.config f .vfEnable) v) s = exec (.vfEnableClear f.hatch f.pf) s) ∧ (bit v 0 = true → exec
      (.registerWrite (.config f .pmeStatus) v) s = .next (modFn f (fun c => { c with pmeStatus := false }) s)) ∧ exec
      (.registerWrite (.config f .memorySpaceEnable) v) s = .next (modFn f (fun c => { c with memSpace := bit v 0 }) s)) ∧
  (∀ (s : State) (h a : Nat) (v : Word), h < s.host.mems.length → Memory.wf (hostMem s h) = true →
    ∃ t, exec (.registerWrite (.hostMemory h a) v) s = .next t ∧ rdBytes (hostMem t h) a 8 = wordBytes v ∧ (∀ x, x < a ∨
      a + 8 ≤ x → rdByte (hostMem t h) x = rdByte (hostMem s h) x) ∧ (∀ g, g ≠ h → hostMem t g = hostMem s g) ∧ Memory.wf
      (hostMem t h) = true ∧ t.watch = s.watch.map (· ++ [(3 + h, a, 8)]) ∧ t =
      { s with host := { s.host with mems := t.host.mems }, watch := t.watch }) ∧
  (∀ (s : State) (f : Fn) (page : Nat) (v : Word),
    ∃ t, exec (.registerWrite (.hostMap f page) v) s = .next t ∧ pageMap t f page = fld v 0 4 ∧ (∀ g p, g ≠ f ∨ p ≠ page
      → pageMap t g p = pageMap s g p) ∧ t = { s with host := { s.host with map := t.host.map } })

/-- A doorbell written to a queue that is ABSENT, ERROR, DRAINING, STOPPED or planned has no effect, whatever the rest of
the state. One written to a HELD queue is recorded, and a second one is recorded no further; ARM of that queue, with its
link in L0 and its function enabled, performs one scan for it, of the queue with the record cleared (once its context is
cached, R115), and where no doorbell was recorded it performs none. -/
def Obligations.DoorbellsOfIdleQueues : Prop :=
  (∀ (s : State) (i qi : Nat), getQueue s i qi = none → exec (.doorbell i qi) s = .next s) ∧
  (∀ (s : State) (i qi : Nat) (q : Queue),
    getQueue s i qi = some q → (q.desc.planned = true ∨ q.st = .error ∨ q.st = .draining ∨ q.st = .stopped) →
    exec (.doorbell i qi) s = .next s) ∧
  (∀ (s : State) (i qi : Nat) (q : Queue),
    s.startup = .running → (slotOf s i).isSome = true → getQueue s i qi = some q → q.st = .held → q.desc.planned =
      false →
    ∃ t, exec (.doorbell i qi) s = .next t ∧ getQueue t i qi = some { endHold q with bell := true } ∧ (∀ j k, j ≠ i ∨ k
      ≠ qi → getQueue t j k = getQueue s j k) ∧ t = { s with insts := t.insts }) ∧
  (∀ (s u v : State) (i qi : Nat) (q : Queue),
    pageOpen s i = true → qi < 1048576 → getQueue s i qi = some q → q.st = .held → (getHatch s q.home).link = .up →
      (getFn s { fnOf s i with hatch := q.home }).memSpace = true → (getFn s
      { fnOf s i with hatch := q.home }).busMaster = true → (u = each q.record (replayRecord i qi) (modQueue i qi (fun y
      => { y with st := y.heldFrom }) (modHatch q.home (fun h => { h with armed := true }) s))) → (v = (if q.dueWaits
      then raiseQueue i qi (modQueue i qi (fun y => { y with dueWaits := false }) (settleDrain i qi (modQueue i qi
      (reexecute u) u))) else settleDrain i qi (modQueue i qi (reexecute u) u))) →
    (∀ w, q.bell = true → loadContext i qi v = (true, w) → exec (.qcArm i qi) s = .next (placeAll (qcAnswer i qi qcOk
      (reclaim (scan i qi none (modQueue i qi (fun y => { y with bell := false }) w)))))) ∧ (∀ w, q.bell = true →
      loadContext i qi v = (false, w) → exec (.qcArm i qi) s = .next (placeAll (qcAnswer i qi qcOk (reclaim w)))) ∧
      (q.bell = false → exec (.qcArm i qi) s = .next (placeAll (qcAnswer i qi qcOk (reclaim v)))))

/-- Every command, on every state and operands, answers a next state and leaves the queue as it is: no form stops the
device. From every state, reached or not, the step answers a next state and leaves exactly the queue's rest: no command
adds to the queue, none stops the device. Where the byte memories are in canonical form and the fixed sets of parts have
their numbers of members, they do after the step too; and a queue of well-formed commands stays one. That the block takes
commands from a queue is the form of this model (log entry 2). -/
def Obligations.StepKeepsForm : Prop :=
  (∀ (c : Instr) (s : State), ∃ t, exec c s = .next t ∧ t.pending = s.pending) ∧
  (∀ (s : State), ∃ t, step s = .next t ∧ t.pending = s.pending.tail) ∧
  (∀ (s t : State), s.Canonical → s.Fixed → step s = .next t → t.Canonical ∧ t.Fixed) ∧
  (∀ (s t : State), s.QueueOk → step s = .next t → t.QueueOk)
end

