-- ==== Sys2Proof/Laws/Table.lean ====
section
/-! SUPPORT. Tables and lists changed in one place: what is found there and elsewhere afterwards. -/
namespace Sys2Proof.Machine

@[simp] theorem length_modAt {α : Type} (l : List α) (i : Nat) (f : α → α) : (modAt l i f).length = l.length := by
  induction l generalizing i with
  | nil => cases i <;> rfl
  | cons a l ih => cases i <;> simp [modAt, ih]

theorem getElem?_modAt {α : Type} (l : List α) (i j : Nat) (f : α → α) :
    (modAt l i f)[j]? = if j = i then l[j]?.map f else l[j]? := by
  induction l generalizing i j with
  | nil => cases i <;> simp [modAt]
  | cons a l ih =>
    cases i with
    | zero => cases j <;> simp [modAt]
    | succ i => cases j with
      | zero => simp [modAt]
      | succ j => simp [modAt, ih]

theorem getD_modAt {α : Type} (l : List α) (i j : Nat) (f : α → α) (d : α) :
    (modAt l i f).getD j d = if j = i then (if j < l.length then f (l.getD j d) else d) else l.getD j d := by
  simp only [List.getD_eq_getElem?_getD, getElem?_modAt]
  by_cases h : j = i
  · by_cases hl : j < l.length
    · simp [h, h ▸ hl]
    · simp [h, h ▸ hl]
  · simp [h]

theorem tget_tset {α : Type} (t : Table α) (i j : Nat) (a : α) : tget (tset t i a) j = if j = i then some a else tget t j := by
  induction t with
  | nil => simp only [tset, tget]; by_cases h : i = j <;> simp [h, eq_comm]
  | cons c t ih =>
    obtain ⟨k, v⟩ := c
    simp only [tset]
    by_cases h1 : i < k
    · simp only [h1, if_true, tget]
      by_cases h : i = j <;> simp [h, eq_comm]
    · by_cases h2 : i = k
      · subst h2
        simp only [Nat.lt_irrefl, if_false, if_true, tget]
        by_cases h : i = j <;> simp [h, eq_comm]
      · simp only [h1, h2, if_false, tget, ih]
        by_cases hk : k = j
        · subst hk; simp [Ne.symm h2]
        · simp [hk]

theorem tget_tmod {α : Type} (t : Table α) (i j : Nat) (f : α → α) :
    tget (tmod t i f) j = if j = i then (tget t j).map f else tget t j := by
  induction t with
  | nil => simp [tmod, tget]
  | cons c t ih =>
    obtain ⟨k, v⟩ := c
    simp only [tmod, List.map_cons] at ih ⊢
    by_cases h1 : k = i
    · subst h1
      simp only [if_true, tget]
      by_cases hk : k = j
      · subst hk; simp
      · simp only [hk, if_false, ih]
    · simp only [h1, if_false, tget]
      by_cases hk : k = j
      · subst hk; simp [h1]
      · simp only [hk, if_false, ih]

end Sys2Proof.Machine
end

