-- ==== Sys2Proof/Laws/Access.lean ====
section
/-! SUPPORT. What a change through the access operations of Machine/Clock.lean leaves to be read: the changed part is the
image, and every other part is as before. -/
namespace Sys2Proof.Machine

theorem getInst_modInst (i : Nat) (f : Inst → Inst) (s : State) : getInst (modInst i f s) i = f (getInst s i) := by
  simp only [getInst, modInst, tget_tset, if_true, Option.getD_some]

theorem getInst_modInst_ne {i j : Nat} (h : j ≠ i) (f : Inst → Inst) (s : State) :
    getInst (modInst i f s) j = getInst s j := by
  simp only [getInst, modInst, tget_tset, h, if_false]

theorem getInst_modQueue_ne {i j : Nat} (h : j ≠ i) (k : Nat) (f : Queue → Queue) (s : State) :
    getInst (modQueue i k f s) j = getInst s j := by
  simp only [getInst, modQueue, tget_tmod, h, if_false]

theorem getInst_modQueue (i k : Nat) (f : Queue → Queue) (s : State) :
    getInst (modQueue i k f s) i = { getInst s i with queues := tmod (getInst s i).queues k f } := by
  simp only [getInst, modQueue, tget_tmod, if_true]
  cases tget s.insts i <;> rfl

theorem getQueue_modQueue (i k : Nat) (f : Queue → Queue) (s : State) :
    getQueue (modQueue i k f s) i k = (getQueue s i k).map f := by
  simp only [getQueue, getInst_modQueue, tget_tmod, if_true]

theorem getQueue_modQueue_ne {i j k l : Nat} (h : j ≠ i ∨ l ≠ k) (f : Queue → Queue) (s : State) :
    getQueue (modQueue i k f s) j l = getQueue s j l := by
  by_cases e : j = i
  · subst e
    have hk : l ≠ k := h.resolve_left (fun c => c rfl)
    simp only [getQueue, getInst_modQueue, tget_tmod, hk, if_false]
  · simp only [getQueue, getInst_modQueue_ne e]

theorem getQueue_modRegs (i j k : Nat) (f : PageRegs → PageRegs) (s : State) :
    getQueue (modRegs i f s) j k = getQueue s j k := by
  by_cases e : j = i
  · subst e; simp only [getQueue, modRegs, getInst_modInst]
  · simp only [getQueue, modRegs, getInst_modInst_ne e]

theorem tget_tmap {α : Type} (t : Table α) (f : Nat → α → α) (i : Nat) : tget (tmap t f) i = (tget t i).map (f i) := by
  induction t with
  | nil => rfl
  | cons c t ih =>
    obtain ⟨k, v⟩ := c
    simp only [tmap, List.map_cons, tget] at ih ⊢
    by_cases h : k = i
    · subst h; simp only [if_true, Option.map_some]
    · simp only [h, if_false, ih]

/-- A queue where each queue of each instance takes its image. -/
theorem getQueue_tmap (f : Nat → Inst → Inst) (g : Nat → Inst → Queue → Queue) (s : State)
    (h : ∀ i x, (f i x).queues = tmap x.queues fun _ q => g i x q) (i k : Nat) :
    getQueue { s with insts := tmap s.insts f } i k = (getQueue s i k).map (g i (getInst s i)) := by
  simp only [getQueue, getInst, tget_tmap]
  cases tget s.insts i with
  | none => rfl
  | some x => simp only [Option.map_some, Option.getD_some, h, tget_tmap]

theorem getQueue_modInst (i j k : Nat) (f : Inst → Inst) (hf : ∀ x, (f x).queues = x.queues) (s : State) :
    getQueue (modInst i f s) j k = getQueue s j k := by
  by_cases e : j = i
  · subst e; simp only [getQueue, getInst_modInst, hf]
  · simp only [getQueue, getInst_modInst_ne e]

theorem getHatch_modHatch (h : Nat) (f : Hatch → Hatch) (s : State) (hl : h < s.hatches.length) :
    getHatch (modHatch h f s) h = f (getHatch s h) := by
  simp only [getHatch, modHatch, getD_modAt, if_true, hl]

theorem getHatch_modHatch_ne {h g : Nat} (e : g ≠ h) (f : Hatch → Hatch) (s : State) :
    getHatch (modHatch h f s) g = getHatch s g := by
  simp only [getHatch, modHatch, getD_modAt, e, if_false]

theorem getPort_modPort (p : Nat) (f : Port → Port) (s : State) (hl : p < s.fabric.ports.length) :
    getPort (modPort p f s) p = f (getPort s p) := by
  simp only [getPort, modPort, getD_modAt, if_true, hl]

theorem getPort_modPort_ne {p q : Nat} (e : q ≠ p) (f : Port → Port) (s : State) :
    getPort (modPort p f s) q = getPort s q := by
  simp only [getPort, modPort, getD_modAt, e, if_false]

end Sys2Proof.Machine
end

