-- ==== Sys2Proof/Laws/Bits.lean ====
section
/-! SUPPORT. Fields of a word, bit by bit, and the least member of a list. -/
namespace Sys2Proof.Machine

/-- A bit of a field. -/
theorem testBit_fld (w : Word) (lo len i : Nat) : (fld w lo len).testBit i = (decide (i < len) && w.getLsbD (lo + i)) := by
  simp only [fld, Nat.testBit_mod_two_pow, Nat.testBit_shiftRight, BitVec.getLsbD]

/-- A bit of a value placed in a field. -/
theorem getLsbD_place (v lo len i : Nat) : (place v lo len).getLsbD i = (decide (i < 64) && (decide (lo ≤ i) && (decide
    (i - lo < len) && v.testBit (i - lo)))) := by
  simp only [place, BitVec.getLsbD_ofNat, Nat.testBit_shiftLeft, Nat.testBit_mod_two_pow, ge_iff_le]

/-- A field reads as it was set, in its width. -/
theorem fld_setFld (w : Word) (lo len v : Nat) (h : lo + len ≤ 64) : fld (setFld w lo len v) lo len = v % 2 ^ len := by
  apply Nat.eq_of_testBit_eq
  intro i
  rw [testBit_fld, Nat.testBit_mod_two_pow, setFld, BitVec.getLsbD_or, BitVec.getLsbD_and, BitVec.getLsbD_not, getLsbD_place]
  by_cases hi : i < len
  · have h1 : lo + i < 64 := by omega
    have h2 : lo + i - lo = i := by omega
    have h3 : (BitVec.ofNat 64 ((2 ^ len - 1) <<< lo)).getLsbD (lo + i) = true := by
      rw [BitVec.getLsbD_ofNat, Nat.testBit_shiftLeft, h2, Nat.testBit_two_pow_sub_one]; simp [h1, hi]
    rw [h3, h2]; simp [hi, h1]
  · simp [hi]

/-- The fields of a word made of two flags and four fields at 4, 8, 16 and 32. -/
theorem fld_or3 (a b c d : Nat) (x y : Bool) :
    let w := placeBit x 0 ||| placeBit y 1 ||| place a 4 4 ||| place b 8 8 ||| place c 16 16 ||| place d 32 32
    bit w 0 = x ∧ fld w 4 4 = a % 16 ∧ fld w 8 8 = b % 256 ∧ fld w 16 16 = c % 65536 ∧ fld w 32 32 = d % 2 ^ 32 := by
  have hb : ∀ (z : Bool) (i j : Nat), i < 64 → j < 64 → (placeBit z i).getLsbD j = (z && decide (i = j)) := by
    intro z i j hi hj
    cases z
    · simp [placeBit]
    · simp only [placeBit, if_true, BitVec.getLsbD_ofNat, Nat.testBit_two_pow, Bool.true_and]; simp [hj]
  have hp : ∀ (v lo len i : Nat), (place v lo len).getLsbD i = (decide (i < 64) && (decide (lo ≤ i) && (decide (i - lo < len) && v.testBit (i - lo)))) := by
    intro v lo len i
    simp only [place, BitVec.getLsbD_ofNat, Nat.testBit_shiftLeft, Nat.testBit_mod_two_pow, ge_iff_le]
  have hf : ∀ (w : Word) lo len i, (fld w lo len).testBit i = (decide (i < len) && w.getLsbD (lo + i)) := by
    intro w lo len i; simp only [fld, Nat.testBit_mod_two_pow, Nat.testBit_shiftRight, BitVec.getLsbD]
  have key : ∀ (v lo len : Nat) (w : Word), lo + len ≤ 64 → (∀ i, i < len → w.getLsbD (lo + i) = v.testBit i) → fld w lo len = v % 2 ^ len := by
    intro v lo len w h h1
    apply Nat.eq_of_testBit_eq; intro i
    rw [hf, Nat.testBit_mod_two_pow]
    by_cases hi : i < len
    · rw [h1 i hi]
    · simp [hi]
  refine ⟨?_, ?_, ?_, ?_, ?_⟩
  · simp only [bit, BitVec.getLsbD_or, hp]
    rw [hb _ _ _ (by decide) (by decide), hb _ _ _ (by decide) (by decide)]
    simp
  all_goals
    refine key _ _ _ _ (by decide) fun i hi => ?_
    simp only [BitVec.getLsbD_or, hp]
    rw [hb _ _ _ (by decide) (by omega), hb _ _ _ (by decide) (by omega)]
    grind

/-- A W1C counter after a write: a bit stays where it was 1 and the written bit is 0. -/
theorem w1c_testBit (x : Nat) (v : Word) (n : Nat) (hn : n < 32) : (w1c 32 x (fld v 0 32)).testBit n =
    (x.testBit n && !v.getLsbD n) := by
  have e : fld v 0 32 = v.toNat % 2 ^ 32 := by simp [fld]
  have e3 : (v.toNat % 2 ^ 32).testBit n = v.getLsbD n := by rw [Nat.testBit_mod_two_pow]; simp [hn, BitVec.getLsbD]
  have h1 := Nat.mod_lt v.toNat (Nat.two_pow_pos 32)
  have e2 : (2 ^ 32 - 1 - v.toNat % 2 ^ 32).testBit n = !(v.toNat % 2 ^ 32).testBit n := by
    have := Nat.testBit_two_pow_sub_succ h1 n
    rw [show 2 ^ 32 - 1 - v.toNat % 2 ^ 32 = 2 ^ 32 - (v.toNat % 2 ^ 32 + 1) by omega, this]
    simp [hn]
  simp only [w1c, e, Nat.mod_mod, Nat.testBit_and, e2, e3]

/-- minBy answers a member whose key none is below. -/
theorem minBy_spec {α : Type} (key : α → Nat) (l : List α) (a : α) (h : minBy key l = some a) : a ∈ l ∧
    ∀ b ∈ l, key a ≤ key b := by
  induction l generalizing a with
  | nil => simp [minBy] at h
  | cons x l ih =>
    simp only [minBy] at h
    cases hm : minBy key l with
    | none =>
      have hl : l = [] := by
        cases l with
        | nil => rfl
        | cons y l => simp only [minBy] at hm; split at hm; simp at hm; split at hm <;> simp at hm
      simp only [hm, Option.some.injEq] at h
      subst h; subst hl; simp
    | some b =>
      obtain ⟨hb1, hb2⟩ := ih b hm
      simp only [hm] at h
      split at h <;> simp only [Option.some.injEq] at h <;> subst h
      · exact ⟨List.mem_cons_self .., fun y hy => by rcases List.mem_cons.mp hy with rfl | hy; exact Nat.le_refl _; have := hb2 y hy; omega⟩
      · exact ⟨List.mem_cons_of_mem _ hb1, fun y hy => by rcases List.mem_cons.mp hy with rfl | hy; omega; exact hb2 y hy⟩

/-- minBy answers nothing for the empty list alone. -/
theorem minBy_none {α : Type} (key : α → Nat) (l : List α) (h : minBy key l = none) : l = [] := by
  cases l with
  | nil => rfl
  | cons y l => simp only [minBy] at h; split at h; simp at h; split at h <;> simp at h

end Sys2Proof.Machine
end

