-- ==== Sys2Proof/Laws/Dockets.lean ====
section
/-! SUPPORT. The starts of dockets and the connections of messages: what each shared operation answers on its regular path. -/
namespace Sys2Proof.Machine

/-- A docket that is ready has the effect of its opcode. -/
theorem start_ready {d : DRef} {op : Nat} {body : Queue → Run → State → State} {s : State} {q : Queue} {r : Run}
    (h : DocketReady s d op q r) : startDocket d op body s = body q r (obtainAts d.inst q r s) := by
  obtain ⟨h1, h2, h3, h4, h5, h6, h7⟩ := h
  simp only [startDocket, h1, h2, h3, h4, h5, h6, h7, Bool.not_true, bne_self_eq_false, Bool.or_self, Bool.false_eq_true, if_false]

/-- A send context after a change of it. -/
theorem findTx_modTx (s : State) (k : ConnKey) {g : SendCtx → SendCtx} (hg : ∀ c, (g c).key = c.key) :
    findTx (modTx k g s) k = (findTx s k).map g := by
  simp only [findTx, modTx, modDlv]
  induction s.dlv.tx with
  | nil => rfl
  | cons c l ih =>
    simp only [List.map_cons, List.find?_cons]
    cases h : (c.key == k) with
    | true => simp only [if_true, hg, h, Option.map]
    | false => simp only [Bool.false_eq_true, if_false, h]; exact ih

/-- Another send context. -/
theorem findTx_modTx_ne (s : State) {j k : ConnKey} (hj : j ≠ k) {g : SendCtx → SendCtx} (hg : ∀ c, (g c).key = c.key) :
    findTx (modTx k g s) j = findTx s j := by
  simp only [findTx, modTx, modDlv]
  induction s.dlv.tx with
  | nil => rfl
  | cons c l ih =>
    simp only [List.map_cons, List.find?_cons]
    cases h : (c.key == k) with
    | true =>
      have : (c.key == j) = false := by simp only [beq_iff_eq] at h; simp [h]; exact fun e => hj e.symm
      simp only [if_true, hg, this]; exact ih
    | false =>
      simp only [Bool.false_eq_true, if_false]; split
      · rfl
      · exact ih

/-- A handle after a change of it. -/
theorem getColl_modColl (i h : Nat) (f : Coll → Coll) (s : State) : getColl (modColl i h f s) i h = (getColl s i h).map f :=
    by
  simp only [getColl, modColl, getInst_modInst, tget_tmod, if_true]

/-- A new request packet reaches its meaning, with its receive context made or renewed. -/
theorem admitted {p : Packet} {f b a : State → State} {s : State} (h : requestFresh p s = true) :
    admitTo p f b a s = f (requestContext p s) := by
  unfold requestFresh at h
  unfold requestContext admitTo
  cases hc : openContext p s with
  | none => simp [hc] at h
  | some t =>
    simp only [hc, beq_iff_eq] at h
    simp only [Option.getD_some]
    have hd : ∀ g : Delivery → Delivery, (modDlv g t).clk = t.clk := fun _ => rfl
    rw [h]

/-- The same for a request of VC 0 to 3. -/
theorem request_fresh {p : Packet} {f b : State → State} {s : State} (h : requestFresh p s = true) :
    admitRequest p f b s = f (requestContext p s) := admitted h

/-- The same for a request of VC 8. -/
theorem sync_fresh {p : Packet} {f : State → State} {s : State} (h : requestFresh p s = true) :
    admitSync p f s = f (requestContext p s) := admitted h

end Sys2Proof.Machine
end

