-- ==== Sys2Proof/Laws/State.lean ====
section
/-! SUPPORT. One lemma per field of State per named update: what each update leaves and what it puts. -/
namespace Sys2Proof.Machine

/-! ### modInst -/

@[simp] theorem modInst_pending (i : Nat) (f : Inst → Inst) (s : State) : (modInst i f s).pending = s.pending := rfl
@[simp] theorem modInst_startup (i : Nat) (f : Inst → Inst) (s : State) : (modInst i f s).startup = s.startup := rfl
@[simp] theorem modInst_clk (i : Nat) (f : Inst → Inst) (s : State) : (modInst i f s).clk = s.clk := rfl
@[simp] theorem modInst_time (i : Nat) (f : Inst → Inst) (s : State) : (modInst i f s).time = s.time := rfl
@[simp] theorem modInst_quoin (i : Nat) (f : Inst → Inst) (s : State) : (modInst i f s).quoin = s.quoin := rfl
@[simp] theorem modInst_runs (i : Nat) (f : Inst → Inst) (s : State) : (modInst i f s).runs = s.runs := rfl
@[simp] theorem modInst_plates (i : Nat) (f : Inst → Inst) (s : State) : (modInst i f s).plates = s.plates := rfl
@[simp] theorem modInst_shelf (i : Nat) (f : Inst → Inst) (s : State) : (modInst i f s).shelf = s.shelf := rfl
@[simp] theorem modInst_store (i : Nat) (f : Inst → Inst) (s : State) : (modInst i f s).store = s.store := rfl
@[simp] theorem modInst_cellar (i : Nat) (f : Inst → Inst) (s : State) : (modInst i f s).cellar = s.cellar := rfl
@[simp] theorem modInst_galley (i : Nat) (f : Inst → Inst) (s : State) : (modInst i f s).galley = s.galley := rfl
@[simp] theorem modInst_host (i : Nat) (f : Inst → Inst) (s : State) : (modInst i f s).host = s.host := rfl
@[simp] theorem modInst_insts (i : Nat) (f : Inst → Inst) (s : State) : (modInst i f s).insts = tset s.insts i (f (getInst s i)) := rfl
@[simp] theorem modInst_endpoints (i : Nat) (f : Inst → Inst) (s : State) : (modInst i f s).endpoints = s.endpoints := rfl
@[simp] theorem modInst_sched (i : Nat) (f : Inst → Inst) (s : State) : (modInst i f s).sched = s.sched := rfl
@[simp] theorem modInst_fabric (i : Nat) (f : Inst → Inst) (s : State) : (modInst i f s).fabric = s.fabric := rfl
@[simp] theorem modInst_dlv (i : Nat) (f : Inst → Inst) (s : State) : (modInst i f s).dlv = s.dlv := rfl
@[simp] theorem modInst_ether (i : Nat) (f : Inst → Inst) (s : State) : (modInst i f s).ether = s.ether := rfl
@[simp] theorem modInst_collDev (i : Nat) (f : Inst → Inst) (s : State) : (modInst i f s).collDev = s.collDev := rfl
@[simp] theorem modInst_misc (i : Nat) (f : Inst → Inst) (s : State) : (modInst i f s).misc = s.misc := rfl
@[simp] theorem modInst_hatches (i : Nat) (f : Inst → Inst) (s : State) : (modInst i f s).hatches = s.hatches := rfl
@[simp] theorem modInst_fns (i : Nat) (f : Inst → Inst) (s : State) : (modInst i f s).fns = s.fns := rfl
@[simp] theorem modInst_steward (i : Nat) (f : Inst → Inst) (s : State) : (modInst i f s).steward = s.steward := rfl
@[simp] theorem modInst_faults (i : Nat) (f : Inst → Inst) (s : State) : (modInst i f s).faults = s.faults := rfl
@[simp] theorem modInst_power (i : Nat) (f : Inst → Inst) (s : State) : (modInst i f s).power = s.power := rfl
@[simp] theorem modInst_boot (i : Nat) (f : Inst → Inst) (s : State) : (modInst i f s).boot = s.boot := rfl
@[simp] theorem modInst_spdm (i : Nat) (f : Inst → Inst) (s : State) : (modInst i f s).spdm = s.spdm := rfl
@[simp] theorem modInst_out (i : Nat) (f : Inst → Inst) (s : State) : (modInst i f s).out = s.out := rfl
@[simp] theorem modInst_freeCount (i : Nat) (f : Inst → Inst) (s : State) : (modInst i f s).freeCount = s.freeCount := rfl
@[simp] theorem modInst_ord (i : Nat) (f : Inst → Inst) (s : State) : (modInst i f s).ord = s.ord := rfl
@[simp] theorem modInst_pins (i : Nat) (f : Inst → Inst) (s : State) : (modInst i f s).pins = s.pins := rfl
@[simp] theorem modInst_watch (i : Nat) (f : Inst → Inst) (s : State) : (modInst i f s).watch = s.watch := rfl

/-! ### modTime -/

@[simp] theorem modTime_pending (f : TimeSt → TimeSt) (s : State) : (modTime f s).pending = s.pending := rfl
@[simp] theorem modTime_startup (f : TimeSt → TimeSt) (s : State) : (modTime f s).startup = s.startup := rfl
@[simp] theorem modTime_clk (f : TimeSt → TimeSt) (s : State) : (modTime f s).clk = s.clk := rfl
@[simp] theorem modTime_time (f : TimeSt → TimeSt) (s : State) : (modTime f s).time = f s.time := rfl
@[simp] theorem modTime_quoin (f : TimeSt → TimeSt) (s : State) : (modTime f s).quoin = s.quoin := rfl
@[simp] theorem modTime_runs (f : TimeSt → TimeSt) (s : State) : (modTime f s).runs = s.runs := rfl
@[simp] theorem modTime_plates (f : TimeSt → TimeSt) (s : State) : (modTime f s).plates = s.plates := rfl
@[simp] theorem modTime_shelf (f : TimeSt → TimeSt) (s : State) : (modTime f s).shelf = s.shelf := rfl
@[simp] theorem modTime_store (f : TimeSt → TimeSt) (s : State) : (modTime f s).store = s.store := rfl
@[simp] theorem modTime_cellar (f : TimeSt → TimeSt) (s : State) : (modTime f s).cellar = s.cellar := rfl
@[simp] theorem modTime_galley (f : TimeSt → TimeSt) (s : State) : (modTime f s).galley = s.galley := rfl
@[simp] theorem modTime_host (f : TimeSt → TimeSt) (s : State) : (modTime f s).host = s.host := rfl
@[simp] theorem modTime_insts (f : TimeSt → TimeSt) (s : State) : (modTime f s).insts = s.insts := rfl
@[simp] theorem modTime_endpoints (f : TimeSt → TimeSt) (s : State) : (modTime f s).endpoints = s.endpoints := rfl
@[simp] theorem modTime_sched (f : TimeSt → TimeSt) (s : State) : (modTime f s).sched = s.sched := rfl
@[simp] theorem modTime_fabric (f : TimeSt → TimeSt) (s : State) : (modTime f s).fabric = s.fabric := rfl
@[simp] theorem modTime_dlv (f : TimeSt → TimeSt) (s : State) : (modTime f s).dlv = s.dlv := rfl
@[simp] theorem modTime_ether (f : TimeSt → TimeSt) (s : State) : (modTime f s).ether = s.ether := rfl
@[simp] theorem modTime_collDev (f : TimeSt → TimeSt) (s : State) : (modTime f s).collDev = s.collDev := rfl
@[simp] theorem modTime_misc (f : TimeSt → TimeSt) (s : State) : (modTime f s).misc = s.misc := rfl
@[simp] theorem modTime_hatches (f : TimeSt → TimeSt) (s : State) : (modTime f s).hatches = s.hatches := rfl
@[simp] theorem modTime_fns (f : TimeSt → TimeSt) (s : State) : (modTime f s).fns = s.fns := rfl
@[simp] theorem modTime_steward (f : TimeSt → TimeSt) (s : State) : (modTime f s).steward = s.steward := rfl
@[simp] theorem modTime_faults (f : TimeSt → TimeSt) (s : State) : (modTime f s).faults = s.faults := rfl
@[simp] theorem modTime_power (f : TimeSt → TimeSt) (s : State) : (modTime f s).power = s.power := rfl
@[simp] theorem modTime_boot (f : TimeSt → TimeSt) (s : State) : (modTime f s).boot = s.boot := rfl
@[simp] theorem modTime_spdm (f : TimeSt → TimeSt) (s : State) : (modTime f s).spdm = s.spdm := rfl
@[simp] theorem modTime_out (f : TimeSt → TimeSt) (s : State) : (modTime f s).out = s.out := rfl
@[simp] theorem modTime_freeCount (f : TimeSt → TimeSt) (s : State) : (modTime f s).freeCount = s.freeCount := rfl
@[simp] theorem modTime_ord (f : TimeSt → TimeSt) (s : State) : (modTime f s).ord = s.ord := rfl
@[simp] theorem modTime_pins (f : TimeSt → TimeSt) (s : State) : (modTime f s).pins = s.pins := rfl
@[simp] theorem modTime_watch (f : TimeSt → TimeSt) (s : State) : (modTime f s).watch = s.watch := rfl

/-! ### modQuoin -/

@[simp] theorem modQuoin_pending (f : Quoin → Quoin) (s : State) : (modQuoin f s).pending = s.pending := rfl
@[simp] theorem modQuoin_startup (f : Quoin → Quoin) (s : State) : (modQuoin f s).startup = s.startup := rfl
@[simp] theorem modQuoin_clk (f : Quoin → Quoin) (s : State) : (modQuoin f s).clk = s.clk := rfl
@[simp] theorem modQuoin_time (f : Quoin → Quoin) (s : State) : (modQuoin f s).time = s.time := rfl
@[simp] theorem modQuoin_quoin (f : Quoin → Quoin) (s : State) : (modQuoin f s).quoin = f s.quoin := rfl
@[simp] theorem modQuoin_runs (f : Quoin → Quoin) (s : State) : (modQuoin f s).runs = s.runs := rfl
@[simp] theorem modQuoin_plates (f : Quoin → Quoin) (s : State) : (modQuoin f s).plates = s.plates := rfl
@[simp] theorem modQuoin_shelf (f : Quoin → Quoin) (s : State) : (modQuoin f s).shelf = s.shelf := rfl
@[simp] theorem modQuoin_store (f : Quoin → Quoin) (s : State) : (modQuoin f s).store = s.store := rfl
@[simp] theorem modQuoin_cellar (f : Quoin → Quoin) (s : State) : (modQuoin f s).cellar = s.cellar := rfl
@[simp] theorem modQuoin_galley (f : Quoin → Quoin) (s : State) : (modQuoin f s).galley = s.galley := rfl
@[simp] theorem modQuoin_host (f : Quoin → Quoin) (s : State) : (modQuoin f s).host = s.host := rfl
@[simp] theorem modQuoin_insts (f : Quoin → Quoin) (s : State) : (modQuoin f s).insts = s.insts := rfl
@[simp] theorem modQuoin_endpoints (f : Quoin → Quoin) (s : State) : (modQuoin f s).endpoints = s.endpoints := rfl
@[simp] theorem modQuoin_sched (f : Quoin → Quoin) (s : State) : (modQuoin f s).sched = s.sched := rfl
@[simp] theorem modQuoin_fabric (f : Quoin → Quoin) (s : State) : (modQuoin f s).fabric = s.fabric := rfl
@[simp] theorem modQuoin_dlv (f : Quoin → Quoin) (s : State) : (modQuoin f s).dlv = s.dlv := rfl
@[simp] theorem modQuoin_ether (f : Quoin → Quoin) (s : State) : (modQuoin f s).ether = s.ether := rfl
@[simp] theorem modQuoin_collDev (f : Quoin → Quoin) (s : State) : (modQuoin f s).collDev = s.collDev := rfl
@[simp] theorem modQuoin_misc (f : Quoin → Quoin) (s : State) : (modQuoin f s).misc = s.misc := rfl
@[simp] theorem modQuoin_hatches (f : Quoin → Quoin) (s : State) : (modQuoin f s).hatches = s.hatches := rfl
@[simp] theorem modQuoin_fns (f : Quoin → Quoin) (s : State) : (modQuoin f s).fns = s.fns := rfl
@[simp] theorem modQuoin_steward (f : Quoin → Quoin) (s : State) : (modQuoin f s).steward = s.steward := rfl
@[simp] theorem modQuoin_faults (f : Quoin → Quoin) (s : State) : (modQuoin f s).faults = s.faults := rfl
@[simp] theorem modQuoin_power (f : Quoin → Quoin) (s : State) : (modQuoin f s).power = s.power := rfl
@[simp] theorem modQuoin_boot (f : Quoin → Quoin) (s : State) : (modQuoin f s).boot = s.boot := rfl
@[simp] theorem modQuoin_spdm (f : Quoin → Quoin) (s : State) : (modQuoin f s).spdm = s.spdm := rfl
@[simp] theorem modQuoin_out (f : Quoin → Quoin) (s : State) : (modQuoin f s).out = s.out := rfl
@[simp] theorem modQuoin_freeCount (f : Quoin → Quoin) (s : State) : (modQuoin f s).freeCount = s.freeCount := rfl
@[simp] theorem modQuoin_ord (f : Quoin → Quoin) (s : State) : (modQuoin f s).ord = s.ord := rfl
@[simp] theorem modQuoin_pins (f : Quoin → Quoin) (s : State) : (modQuoin f s).pins = s.pins := rfl
@[simp] theorem modQuoin_watch (f : Quoin → Quoin) (s : State) : (modQuoin f s).watch = s.watch := rfl

/-! ### modFaults -/

@[simp] theorem modFaults_pending (f : Faults → Faults) (s : State) : (modFaults f s).pending = s.pending := rfl
@[simp] theorem modFaults_startup (f : Faults → Faults) (s : State) : (modFaults f s).startup = s.startup := rfl
@[simp] theorem modFaults_clk (f : Faults → Faults) (s : State) : (modFaults f s).clk = s.clk := rfl
@[simp] theorem modFaults_time (f : Faults → Faults) (s : State) : (modFaults f s).time = s.time := rfl
@[simp] theorem modFaults_quoin (f : Faults → Faults) (s : State) : (modFaults f s).quoin = s.quoin := rfl
@[simp] theorem modFaults_runs (f : Faults → Faults) (s : State) : (modFaults f s).runs = s.runs := rfl
@[simp] theorem modFaults_plates (f : Faults → Faults) (s : State) : (modFaults f s).plates = s.plates := rfl
@[simp] theorem modFaults_shelf (f : Faults → Faults) (s : State) : (modFaults f s).shelf = s.shelf := rfl
@[simp] theorem modFaults_store (f : Faults → Faults) (s : State) : (modFaults f s).store = s.store := rfl
@[simp] theorem modFaults_cellar (f : Faults → Faults) (s : State) : (modFaults f s).cellar = s.cellar := rfl
@[simp] theorem modFaults_galley (f : Faults → Faults) (s : State) : (modFaults f s).galley = s.galley := rfl
@[simp] theorem modFaults_host (f : Faults → Faults) (s : State) : (modFaults f s).host = s.host := rfl
@[simp] theorem modFaults_insts (f : Faults → Faults) (s : State) : (modFaults f s).insts = s.insts := rfl
@[simp] theorem modFaults_endpoints (f : Faults → Faults) (s : State) : (modFaults f s).endpoints = s.endpoints := rfl
@[simp] theorem modFaults_sched (f : Faults → Faults) (s : State) : (modFaults f s).sched = s.sched := rfl
@[simp] theorem modFaults_fabric (f : Faults → Faults) (s : State) : (modFaults f s).fabric = s.fabric := rfl
@[simp] theorem modFaults_dlv (f : Faults → Faults) (s : State) : (modFaults f s).dlv = s.dlv := rfl
@[simp] theorem modFaults_ether (f : Faults → Faults) (s : State) : (modFaults f s).ether = s.ether := rfl
@[simp] theorem modFaults_collDev (f : Faults → Faults) (s : State) : (modFaults f s).collDev = s.collDev := rfl
@[simp] theorem modFaults_misc (f : Faults → Faults) (s : State) : (modFaults f s).misc = s.misc := rfl
@[simp] theorem modFaults_hatches (f : Faults → Faults) (s : State) : (modFaults f s).hatches = s.hatches := rfl
@[simp] theorem modFaults_fns (f : Faults → Faults) (s : State) : (modFaults f s).fns = s.fns := rfl
@[simp] theorem modFaults_steward (f : Faults → Faults) (s : State) : (modFaults f s).steward = s.steward := rfl
@[simp] theorem modFaults_faults (f : Faults → Faults) (s : State) : (modFaults f s).faults = f s.faults := rfl
@[simp] theorem modFaults_power (f : Faults → Faults) (s : State) : (modFaults f s).power = s.power := rfl
@[simp] theorem modFaults_boot (f : Faults → Faults) (s : State) : (modFaults f s).boot = s.boot := rfl
@[simp] theorem modFaults_spdm (f : Faults → Faults) (s : State) : (modFaults f s).spdm = s.spdm := rfl
@[simp] theorem modFaults_out (f : Faults → Faults) (s : State) : (modFaults f s).out = s.out := rfl
@[simp] theorem modFaults_freeCount (f : Faults → Faults) (s : State) : (modFaults f s).freeCount = s.freeCount := rfl
@[simp] theorem modFaults_ord (f : Faults → Faults) (s : State) : (modFaults f s).ord = s.ord := rfl
@[simp] theorem modFaults_pins (f : Faults → Faults) (s : State) : (modFaults f s).pins = s.pins := rfl
@[simp] theorem modFaults_watch (f : Faults → Faults) (s : State) : (modFaults f s).watch = s.watch := rfl

/-! ### modPower -/

@[simp] theorem modPower_pending (f : Power → Power) (s : State) : (modPower f s).pending = s.pending := rfl
@[simp] theorem modPower_startup (f : Power → Power) (s : State) : (modPower f s).startup = s.startup := rfl
@[simp] theorem modPower_clk (f : Power → Power) (s : State) : (modPower f s).clk = s.clk := rfl
@[simp] theorem modPower_time (f : Power → Power) (s : State) : (modPower f s).time = s.time := rfl
@[simp] theorem modPower_quoin (f : Power → Power) (s : State) : (modPower f s).quoin = s.quoin := rfl
@[simp] theorem modPower_runs (f : Power → Power) (s : State) : (modPower f s).runs = s.runs := rfl
@[simp] theorem modPower_plates (f : Power → Power) (s : State) : (modPower f s).plates = s.plates := rfl
@[simp] theorem modPower_shelf (f : Power → Power) (s : State) : (modPower f s).shelf = s.shelf := rfl
@[simp] theorem modPower_store (f : Power → Power) (s : State) : (modPower f s).store = s.store := rfl
@[simp] theorem modPower_cellar (f : Power → Power) (s : State) : (modPower f s).cellar = s.cellar := rfl
@[simp] theorem modPower_galley (f : Power → Power) (s : State) : (modPower f s).galley = s.galley := rfl
@[simp] theorem modPower_host (f : Power → Power) (s : State) : (modPower f s).host = s.host := rfl
@[simp] theorem modPower_insts (f : Power → Power) (s : State) : (modPower f s).insts = s.insts := rfl
@[simp] theorem modPower_endpoints (f : Power → Power) (s : State) : (modPower f s).endpoints = s.endpoints := rfl
@[simp] theorem modPower_sched (f : Power → Power) (s : State) : (modPower f s).sched = s.sched := rfl
@[simp] theorem modPower_fabric (f : Power → Power) (s : State) : (modPower f s).fabric = s.fabric := rfl
@[simp] theorem modPower_dlv (f : Power → Power) (s : State) : (modPower f s).dlv = s.dlv := rfl
@[simp] theorem modPower_ether (f : Power → Power) (s : State) : (modPower f s).ether = s.ether := rfl
@[simp] theorem modPower_collDev (f : Power → Power) (s : State) : (modPower f s).collDev = s.collDev := rfl
@[simp] theorem modPower_misc (f : Power → Power) (s : State) : (modPower f s).misc = s.misc := rfl
@[simp] theorem modPower_hatches (f : Power → Power) (s : State) : (modPower f s).hatches = s.hatches := rfl
@[simp] theorem modPower_fns (f : Power → Power) (s : State) : (modPower f s).fns = s.fns := rfl
@[simp] theorem modPower_steward (f : Power → Power) (s : State) : (modPower f s).steward = s.steward := rfl
@[simp] theorem modPower_faults (f : Power → Power) (s : State) : (modPower f s).faults = s.faults := rfl
@[simp] theorem modPower_power (f : Power → Power) (s : State) : (modPower f s).power = f s.power := rfl
@[simp] theorem modPower_boot (f : Power → Power) (s : State) : (modPower f s).boot = s.boot := rfl
@[simp] theorem modPower_spdm (f : Power → Power) (s : State) : (modPower f s).spdm = s.spdm := rfl
@[simp] theorem modPower_out (f : Power → Power) (s : State) : (modPower f s).out = s.out := rfl
@[simp] theorem modPower_freeCount (f : Power → Power) (s : State) : (modPower f s).freeCount = s.freeCount := rfl
@[simp] theorem modPower_ord (f : Power → Power) (s : State) : (modPower f s).ord = s.ord := rfl
@[simp] theorem modPower_pins (f : Power → Power) (s : State) : (modPower f s).pins = s.pins := rfl
@[simp] theorem modPower_watch (f : Power → Power) (s : State) : (modPower f s).watch = s.watch := rfl

/-! ### modGalley -/

@[simp] theorem modGalley_pending (f : Galley → Galley) (s : State) : (modGalley f s).pending = s.pending := rfl
@[simp] theorem modGalley_startup (f : Galley → Galley) (s : State) : (modGalley f s).startup = s.startup := rfl
@[simp] theorem modGalley_clk (f : Galley → Galley) (s : State) : (modGalley f s).clk = s.clk := rfl
@[simp] theorem modGalley_time (f : Galley → Galley) (s : State) : (modGalley f s).time = s.time := rfl
@[simp] theorem modGalley_quoin (f : Galley → Galley) (s : State) : (modGalley f s).quoin = s.quoin := rfl
@[simp] theorem modGalley_runs (f : Galley → Galley) (s : State) : (modGalley f s).runs = s.runs := rfl
@[simp] theorem modGalley_plates (f : Galley → Galley) (s : State) : (modGalley f s).plates = s.plates := rfl
@[simp] theorem modGalley_shelf (f : Galley → Galley) (s : State) : (modGalley f s).shelf = s.shelf := rfl
@[simp] theorem modGalley_store (f : Galley → Galley) (s : State) : (modGalley f s).store = s.store := rfl
@[simp] theorem modGalley_cellar (f : Galley → Galley) (s : State) : (modGalley f s).cellar = s.cellar := rfl
@[simp] theorem modGalley_galley (f : Galley → Galley) (s : State) : (modGalley f s).galley = f s.galley := rfl
@[simp] theorem modGalley_host (f : Galley → Galley) (s : State) : (modGalley f s).host = s.host := rfl
@[simp] theorem modGalley_insts (f : Galley → Galley) (s : State) : (modGalley f s).insts = s.insts := rfl
@[simp] theorem modGalley_endpoints (f : Galley → Galley) (s : State) : (modGalley f s).endpoints = s.endpoints := rfl
@[simp] theorem modGalley_sched (f : Galley → Galley) (s : State) : (modGalley f s).sched = s.sched := rfl
@[simp] theorem modGalley_fabric (f : Galley → Galley) (s : State) : (modGalley f s).fabric = s.fabric := rfl
@[simp] theorem modGalley_dlv (f : Galley → Galley) (s : State) : (modGalley f s).dlv = s.dlv := rfl
@[simp] theorem modGalley_ether (f : Galley → Galley) (s : State) : (modGalley f s).ether = s.ether := rfl
@[simp] theorem modGalley_collDev (f : Galley → Galley) (s : State) : (modGalley f s).collDev = s.collDev := rfl
@[simp] theorem modGalley_misc (f : Galley → Galley) (s : State) : (modGalley f s).misc = s.misc := rfl
@[simp] theorem modGalley_hatches (f : Galley → Galley) (s : State) : (modGalley f s).hatches = s.hatches := rfl
@[simp] theorem modGalley_fns (f : Galley → Galley) (s : State) : (modGalley f s).fns = s.fns := rfl
@[simp] theorem modGalley_steward (f : Galley → Galley) (s : State) : (modGalley f s).steward = s.steward := rfl
@[simp] theorem modGalley_faults (f : Galley → Galley) (s : State) : (modGalley f s).faults = s.faults := rfl
@[simp] theorem modGalley_power (f : Galley → Galley) (s : State) : (modGalley f s).power = s.power := rfl
@[simp] theorem modGalley_boot (f : Galley → Galley) (s : State) : (modGalley f s).boot = s.boot := rfl
@[simp] theorem modGalley_spdm (f : Galley → Galley) (s : State) : (modGalley f s).spdm = s.spdm := rfl
@[simp] theorem modGalley_out (f : Galley → Galley) (s : State) : (modGalley f s).out = s.out := rfl
@[simp] theorem modGalley_freeCount (f : Galley → Galley) (s : State) : (modGalley f s).freeCount = s.freeCount := rfl
@[simp] theorem modGalley_ord (f : Galley → Galley) (s : State) : (modGalley f s).ord = s.ord := rfl
@[simp] theorem modGalley_pins (f : Galley → Galley) (s : State) : (modGalley f s).pins = s.pins := rfl
@[simp] theorem modGalley_watch (f : Galley → Galley) (s : State) : (modGalley f s).watch = s.watch := rfl

/-! ### modBoot -/

@[simp] theorem modBoot_pending (f : Boot → Boot) (s : State) : (modBoot f s).pending = s.pending := rfl
@[simp] theorem modBoot_startup (f : Boot → Boot) (s : State) : (modBoot f s).startup = s.startup := rfl
@[simp] theorem modBoot_clk (f : Boot → Boot) (s : State) : (modBoot f s).clk = s.clk := rfl
@[simp] theorem modBoot_time (f : Boot → Boot) (s : State) : (modBoot f s).time = s.time := rfl
@[simp] theorem modBoot_quoin (f : Boot → Boot) (s : State) : (modBoot f s).quoin = s.quoin := rfl
@[simp] theorem modBoot_runs (f : Boot → Boot) (s : State) : (modBoot f s).runs = s.runs := rfl
@[simp] theorem modBoot_plates (f : Boot → Boot) (s : State) : (modBoot f s).plates = s.plates := rfl
@[simp] theorem modBoot_shelf (f : Boot → Boot) (s : State) : (modBoot f s).shelf = s.shelf := rfl
@[simp] theorem modBoot_store (f : Boot → Boot) (s : State) : (modBoot f s).store = s.store := rfl
@[simp] theorem modBoot_cellar (f : Boot → Boot) (s : State) : (modBoot f s).cellar = s.cellar := rfl
@[simp] theorem modBoot_galley (f : Boot → Boot) (s : State) : (modBoot f s).galley = s.galley := rfl
@[simp] theorem modBoot_host (f : Boot → Boot) (s : State) : (modBoot f s).host = s.host := rfl
@[simp] theorem modBoot_insts (f : Boot → Boot) (s : State) : (modBoot f s).insts = s.insts := rfl
@[simp] theorem modBoot_endpoints (f : Boot → Boot) (s : State) : (modBoot f s).endpoints = s.endpoints := rfl
@[simp] theorem modBoot_sched (f : Boot → Boot) (s : State) : (modBoot f s).sched = s.sched := rfl
@[simp] theorem modBoot_fabric (f : Boot → Boot) (s : State) : (modBoot f s).fabric = s.fabric := rfl
@[simp] theorem modBoot_dlv (f : Boot → Boot) (s : State) : (modBoot f s).dlv = s.dlv := rfl
@[simp] theorem modBoot_ether (f : Boot → Boot) (s : State) : (modBoot f s).ether = s.ether := rfl
@[simp] theorem modBoot_collDev (f : Boot → Boot) (s : State) : (modBoot f s).collDev = s.collDev := rfl
@[simp] theorem modBoot_misc (f : Boot → Boot) (s : State) : (modBoot f s).misc = s.misc := rfl
@[simp] theorem modBoot_hatches (f : Boot → Boot) (s : State) : (modBoot f s).hatches = s.hatches := rfl
@[simp] theorem modBoot_fns (f : Boot → Boot) (s : State) : (modBoot f s).fns = s.fns := rfl
@[simp] theorem modBoot_steward (f : Boot → Boot) (s : State) : (modBoot f s).steward = s.steward := rfl
@[simp] theorem modBoot_faults (f : Boot → Boot) (s : State) : (modBoot f s).faults = s.faults := rfl
@[simp] theorem modBoot_power (f : Boot → Boot) (s : State) : (modBoot f s).power = s.power := rfl
@[simp] theorem modBoot_boot (f : Boot → Boot) (s : State) : (modBoot f s).boot = f s.boot := rfl
@[simp] theorem modBoot_spdm (f : Boot → Boot) (s : State) : (modBoot f s).spdm = s.spdm := rfl
@[simp] theorem modBoot_out (f : Boot → Boot) (s : State) : (modBoot f s).out = s.out := rfl
@[simp] theorem modBoot_freeCount (f : Boot → Boot) (s : State) : (modBoot f s).freeCount = s.freeCount := rfl
@[simp] theorem modBoot_ord (f : Boot → Boot) (s : State) : (modBoot f s).ord = s.ord := rfl
@[simp] theorem modBoot_pins (f : Boot → Boot) (s : State) : (modBoot f s).pins = s.pins := rfl
@[simp] theorem modBoot_watch (f : Boot → Boot) (s : State) : (modBoot f s).watch = s.watch := rfl

/-! ### modFabric -/

@[simp] theorem modFabric_pending (f : Fabric → Fabric) (s : State) : (modFabric f s).pending = s.pending := rfl
@[simp] theorem modFabric_startup (f : Fabric → Fabric) (s : State) : (modFabric f s).startup = s.startup := rfl
@[simp] theorem modFabric_clk (f : Fabric → Fabric) (s : State) : (modFabric f s).clk = s.clk := rfl
@[simp] theorem modFabric_time (f : Fabric → Fabric) (s : State) : (modFabric f s).time = s.time := rfl
@[simp] theorem modFabric_quoin (f : Fabric → Fabric) (s : State) : (modFabric f s).quoin = s.quoin := rfl
@[simp] theorem modFabric_runs (f : Fabric → Fabric) (s : State) : (modFabric f s).runs = s.runs := rfl
@[simp] theorem modFabric_plates (f : Fabric → Fabric) (s : State) : (modFabric f s).plates = s.plates := rfl
@[simp] theorem modFabric_shelf (f : Fabric → Fabric) (s : State) : (modFabric f s).shelf = s.shelf := rfl
@[simp] theorem modFabric_store (f : Fabric → Fabric) (s : State) : (modFabric f s).store = s.store := rfl
@[simp] theorem modFabric_cellar (f : Fabric → Fabric) (s : State) : (modFabric f s).cellar = s.cellar := rfl
@[simp] theorem modFabric_galley (f : Fabric → Fabric) (s : State) : (modFabric f s).galley = s.galley := rfl
@[simp] theorem modFabric_host (f : Fabric → Fabric) (s : State) : (modFabric f s).host = s.host := rfl
@[simp] theorem modFabric_insts (f : Fabric → Fabric) (s : State) : (modFabric f s).insts = s.insts := rfl
@[simp] theorem modFabric_endpoints (f : Fabric → Fabric) (s : State) : (modFabric f s).endpoints = s.endpoints := rfl
@[simp] theorem modFabric_sched (f : Fabric → Fabric) (s : State) : (modFabric f s).sched = s.sched := rfl
@[simp] theorem modFabric_fabric (f : Fabric → Fabric) (s : State) : (modFabric f s).fabric = f s.fabric := rfl
@[simp] theorem modFabric_dlv (f : Fabric → Fabric) (s : State) : (modFabric f s).dlv = s.dlv := rfl
@[simp] theorem modFabric_ether (f : Fabric → Fabric) (s : State) : (modFabric f s).ether = s.ether := rfl
@[simp] theorem modFabric_collDev (f : Fabric → Fabric) (s : State) : (modFabric f s).collDev = s.collDev := rfl
@[simp] theorem modFabric_misc (f : Fabric → Fabric) (s : State) : (modFabric f s).misc = s.misc := rfl
@[simp] theorem modFabric_hatches (f : Fabric → Fabric) (s : State) : (modFabric f s).hatches = s.hatches := rfl
@[simp] theorem modFabric_fns (f : Fabric → Fabric) (s : State) : (modFabric f s).fns = s.fns := rfl
@[simp] theorem modFabric_steward (f : Fabric → Fabric) (s : State) : (modFabric f s).steward = s.steward := rfl
@[simp] theorem modFabric_faults (f : Fabric → Fabric) (s : State) : (modFabric f s).faults = s.faults := rfl
@[simp] theorem modFabric_power (f : Fabric → Fabric) (s : State) : (modFabric f s).power = s.power := rfl
@[simp] theorem modFabric_boot (f : Fabric → Fabric) (s : State) : (modFabric f s).boot = s.boot := rfl
@[simp] theorem modFabric_spdm (f : Fabric → Fabric) (s : State) : (modFabric f s).spdm = s.spdm := rfl
@[simp] theorem modFabric_out (f : Fabric → Fabric) (s : State) : (modFabric f s).out = s.out := rfl
@[simp] theorem modFabric_freeCount (f : Fabric → Fabric) (s : State) : (modFabric f s).freeCount = s.freeCount := rfl
@[simp] theorem modFabric_ord (f : Fabric → Fabric) (s : State) : (modFabric f s).ord = s.ord := rfl
@[simp] theorem modFabric_pins (f : Fabric → Fabric) (s : State) : (modFabric f s).pins = s.pins := rfl
@[simp] theorem modFabric_watch (f : Fabric → Fabric) (s : State) : (modFabric f s).watch = s.watch := rfl

/-! ### modDlv -/

@[simp] theorem modDlv_pending (f : Delivery → Delivery) (s : State) : (modDlv f s).pending = s.pending := rfl
@[simp] theorem modDlv_startup (f : Delivery → Delivery) (s : State) : (modDlv f s).startup = s.startup := rfl
@[simp] theorem modDlv_clk (f : Delivery → Delivery) (s : State) : (modDlv f s).clk = s.clk := rfl
@[simp] theorem modDlv_time (f : Delivery → Delivery) (s : State) : (modDlv f s).time = s.time := rfl
@[simp] theorem modDlv_quoin (f : Delivery → Delivery) (s : State) : (modDlv f s).quoin = s.quoin := rfl
@[simp] theorem modDlv_runs (f : Delivery → Delivery) (s : State) : (modDlv f s).runs = s.runs := rfl
@[simp] theorem modDlv_plates (f : Delivery → Delivery) (s : State) : (modDlv f s).plates = s.plates := rfl
@[simp] theorem modDlv_shelf (f : Delivery → Delivery) (s : State) : (modDlv f s).shelf = s.shelf := rfl
@[simp] theorem modDlv_store (f : Delivery → Delivery) (s : State) : (modDlv f s).store = s.store := rfl
@[simp] theorem modDlv_cellar (f : Delivery → Delivery) (s : State) : (modDlv f s).cellar = s.cellar := rfl
@[simp] theorem modDlv_galley (f : Delivery → Delivery) (s : State) : (modDlv f s).galley = s.galley := rfl
@[simp] theorem modDlv_host (f : Delivery → Delivery) (s : State) : (modDlv f s).host = s.host := rfl
@[simp] theorem modDlv_insts (f : Delivery → Delivery) (s : State) : (modDlv f s).insts = s.insts := rfl
@[simp] theorem modDlv_endpoints (f : Delivery → Delivery) (s : State) : (modDlv f s).endpoints = s.endpoints := rfl
@[simp] theorem modDlv_sched (f : Delivery → Delivery) (s : State) : (modDlv f s).sched = s.sched := rfl
@[simp] theorem modDlv_fabric (f : Delivery → Delivery) (s : State) : (modDlv f s).fabric = s.fabric := rfl
@[simp] theorem modDlv_dlv (f : Delivery → Delivery) (s : State) : (modDlv f s).dlv = f s.dlv := rfl
@[simp] theorem modDlv_ether (f : Delivery → Delivery) (s : State) : (modDlv f s).ether = s.ether := rfl
@[simp] theorem modDlv_collDev (f : Delivery → Delivery) (s : State) : (modDlv f s).collDev = s.collDev := rfl
@[simp] theorem modDlv_misc (f : Delivery → Delivery) (s : State) : (modDlv f s).misc = s.misc := rfl
@[simp] theorem modDlv_hatches (f : Delivery → Delivery) (s : State) : (modDlv f s).hatches = s.hatches := rfl
@[simp] theorem modDlv_fns (f : Delivery → Delivery) (s : State) : (modDlv f s).fns = s.fns := rfl
@[simp] theorem modDlv_steward (f : Delivery → Delivery) (s : State) : (modDlv f s).steward = s.steward := rfl
@[simp] theorem modDlv_faults (f : Delivery → Delivery) (s : State) : (modDlv f s).faults = s.faults := rfl
@[simp] theorem modDlv_power (f : Delivery → Delivery) (s : State) : (modDlv f s).power = s.power := rfl
@[simp] theorem modDlv_boot (f : Delivery → Delivery) (s : State) : (modDlv f s).boot = s.boot := rfl
@[simp] theorem modDlv_spdm (f : Delivery → Delivery) (s : State) : (modDlv f s).spdm = s.spdm := rfl
@[simp] theorem modDlv_out (f : Delivery → Delivery) (s : State) : (modDlv f s).out = s.out := rfl
@[simp] theorem modDlv_freeCount (f : Delivery → Delivery) (s : State) : (modDlv f s).freeCount = s.freeCount := rfl
@[simp] theorem modDlv_ord (f : Delivery → Delivery) (s : State) : (modDlv f s).ord = s.ord := rfl
@[simp] theorem modDlv_pins (f : Delivery → Delivery) (s : State) : (modDlv f s).pins = s.pins := rfl
@[simp] theorem modDlv_watch (f : Delivery → Delivery) (s : State) : (modDlv f s).watch = s.watch := rfl

/-! ### modEther -/

@[simp] theorem modEther_pending (f : Ether → Ether) (s : State) : (modEther f s).pending = s.pending := rfl
@[simp] theorem modEther_startup (f : Ether → Ether) (s : State) : (modEther f s).startup = s.startup := rfl
@[simp] theorem modEther_clk (f : Ether → Ether) (s : State) : (modEther f s).clk = s.clk := rfl
@[simp] theorem modEther_time (f : Ether → Ether) (s : State) : (modEther f s).time = s.time := rfl
@[simp] theorem modEther_quoin (f : Ether → Ether) (s : State) : (modEther f s).quoin = s.quoin := rfl
@[simp] theorem modEther_runs (f : Ether → Ether) (s : State) : (modEther f s).runs = s.runs := rfl
@[simp] theorem modEther_plates (f : Ether → Ether) (s : State) : (modEther f s).plates = s.plates := rfl
@[simp] theorem modEther_shelf (f : Ether → Ether) (s : State) : (modEther f s).shelf = s.shelf := rfl
@[simp] theorem modEther_store (f : Ether → Ether) (s : State) : (modEther f s).store = s.store := rfl
@[simp] theorem modEther_cellar (f : Ether → Ether) (s : State) : (modEther f s).cellar = s.cellar := rfl
@[simp] theorem modEther_galley (f : Ether → Ether) (s : State) : (modEther f s).galley = s.galley := rfl
@[simp] theorem modEther_host (f : Ether → Ether) (s : State) : (modEther f s).host = s.host := rfl
@[simp] theorem modEther_insts (f : Ether → Ether) (s : State) : (modEther f s).insts = s.insts := rfl
@[simp] theorem modEther_endpoints (f : Ether → Ether) (s : State) : (modEther f s).endpoints = s.endpoints := rfl
@[simp] theorem modEther_sched (f : Ether → Ether) (s : State) : (modEther f s).sched = s.sched := rfl
@[simp] theorem modEther_fabric (f : Ether → Ether) (s : State) : (modEther f s).fabric = s.fabric := rfl
@[simp] theorem modEther_dlv (f : Ether → Ether) (s : State) : (modEther f s).dlv = s.dlv := rfl
@[simp] theorem modEther_ether (f : Ether → Ether) (s : State) : (modEther f s).ether = f s.ether := rfl
@[simp] theorem modEther_collDev (f : Ether → Ether) (s : State) : (modEther f s).collDev = s.collDev := rfl
@[simp] theorem modEther_misc (f : Ether → Ether) (s : State) : (modEther f s).misc = s.misc := rfl
@[simp] theorem modEther_hatches (f : Ether → Ether) (s : State) : (modEther f s).hatches = s.hatches := rfl
@[simp] theorem modEther_fns (f : Ether → Ether) (s : State) : (modEther f s).fns = s.fns := rfl
@[simp] theorem modEther_steward (f : Ether → Ether) (s : State) : (modEther f s).steward = s.steward := rfl
@[simp] theorem modEther_faults (f : Ether → Ether) (s : State) : (modEther f s).faults = s.faults := rfl
@[simp] theorem modEther_power (f : Ether → Ether) (s : State) : (modEther f s).power = s.power := rfl
@[simp] theorem modEther_boot (f : Ether → Ether) (s : State) : (modEther f s).boot = s.boot := rfl
@[simp] theorem modEther_spdm (f : Ether → Ether) (s : State) : (modEther f s).spdm = s.spdm := rfl
@[simp] theorem modEther_out (f : Ether → Ether) (s : State) : (modEther f s).out = s.out := rfl
@[simp] theorem modEther_freeCount (f : Ether → Ether) (s : State) : (modEther f s).freeCount = s.freeCount := rfl
@[simp] theorem modEther_ord (f : Ether → Ether) (s : State) : (modEther f s).ord = s.ord := rfl
@[simp] theorem modEther_pins (f : Ether → Ether) (s : State) : (modEther f s).pins = s.pins := rfl
@[simp] theorem modEther_watch (f : Ether → Ether) (s : State) : (modEther f s).watch = s.watch := rfl

/-! ### modCollDev -/

@[simp] theorem modCollDev_pending (f : CollDev → CollDev) (s : State) : (modCollDev f s).pending = s.pending := rfl
@[simp] theorem modCollDev_startup (f : CollDev → CollDev) (s : State) : (modCollDev f s).startup = s.startup := rfl
@[simp] theorem modCollDev_clk (f : CollDev → CollDev) (s : State) : (modCollDev f s).clk = s.clk := rfl
@[simp] theorem modCollDev_time (f : CollDev → CollDev) (s : State) : (modCollDev f s).time = s.time := rfl
@[simp] theorem modCollDev_quoin (f : CollDev → CollDev) (s : State) : (modCollDev f s).quoin = s.quoin := rfl
@[simp] theorem modCollDev_runs (f : CollDev → CollDev) (s : State) : (modCollDev f s).runs = s.runs := rfl
@[simp] theorem modCollDev_plates (f : CollDev → CollDev) (s : State) : (modCollDev f s).plates = s.plates := rfl
@[simp] theorem modCollDev_shelf (f : CollDev → CollDev) (s : State) : (modCollDev f s).shelf = s.shelf := rfl
@[simp] theorem modCollDev_store (f : CollDev → CollDev) (s : State) : (modCollDev f s).store = s.store := rfl
@[simp] theorem modCollDev_cellar (f : CollDev → CollDev) (s : State) : (modCollDev f s).cellar = s.cellar := rfl
@[simp] theorem modCollDev_galley (f : CollDev → CollDev) (s : State) : (modCollDev f s).galley = s.galley := rfl
@[simp] theorem modCollDev_host (f : CollDev → CollDev) (s : State) : (modCollDev f s).host = s.host := rfl
@[simp] theorem modCollDev_insts (f : CollDev → CollDev) (s : State) : (modCollDev f s).insts = s.insts := rfl
@[simp] theorem modCollDev_endpoints (f : CollDev → CollDev) (s : State) : (modCollDev f s).endpoints = s.endpoints := rfl
@[simp] theorem modCollDev_sched (f : CollDev → CollDev) (s : State) : (modCollDev f s).sched = s.sched := rfl
@[simp] theorem modCollDev_fabric (f : CollDev → CollDev) (s : State) : (modCollDev f s).fabric = s.fabric := rfl
@[simp] theorem modCollDev_dlv (f : CollDev → CollDev) (s : State) : (modCollDev f s).dlv = s.dlv := rfl
@[simp] theorem modCollDev_ether (f : CollDev → CollDev) (s : State) : (modCollDev f s).ether = s.ether := rfl
@[simp] theorem modCollDev_collDev (f : CollDev → CollDev) (s : State) : (modCollDev f s).collDev = f s.collDev := rfl
@[simp] theorem modCollDev_misc (f : CollDev → CollDev) (s : State) : (modCollDev f s).misc = s.misc := rfl
@[simp] theorem modCollDev_hatches (f : CollDev → CollDev) (s : State) : (modCollDev f s).hatches = s.hatches := rfl
@[simp] theorem modCollDev_fns (f : CollDev → CollDev) (s : State) : (modCollDev f s).fns = s.fns := rfl
@[simp] theorem modCollDev_steward (f : CollDev → CollDev) (s : State) : (modCollDev f s).steward = s.steward := rfl
@[simp] theorem modCollDev_faults (f : CollDev → CollDev) (s : State) : (modCollDev f s).faults = s.faults := rfl
@[simp] theorem modCollDev_power (f : CollDev → CollDev) (s : State) : (modCollDev f s).power = s.power := rfl
@[simp] theorem modCollDev_boot (f : CollDev → CollDev) (s : State) : (modCollDev f s).boot = s.boot := rfl
@[simp] theorem modCollDev_spdm (f : CollDev → CollDev) (s : State) : (modCollDev f s).spdm = s.spdm := rfl
@[simp] theorem modCollDev_out (f : CollDev → CollDev) (s : State) : (modCollDev f s).out = s.out := rfl
@[simp] theorem modCollDev_freeCount (f : CollDev → CollDev) (s : State) : (modCollDev f s).freeCount = s.freeCount := rfl
@[simp] theorem modCollDev_ord (f : CollDev → CollDev) (s : State) : (modCollDev f s).ord = s.ord := rfl
@[simp] theorem modCollDev_pins (f : CollDev → CollDev) (s : State) : (modCollDev f s).pins = s.pins := rfl
@[simp] theorem modCollDev_watch (f : CollDev → CollDev) (s : State) : (modCollDev f s).watch = s.watch := rfl

/-! ### modSteward -/

@[simp] theorem modSteward_pending (f : Steward → Steward) (s : State) : (modSteward f s).pending = s.pending := rfl
@[simp] theorem modSteward_startup (f : Steward → Steward) (s : State) : (modSteward f s).startup = s.startup := rfl
@[simp] theorem modSteward_clk (f : Steward → Steward) (s : State) : (modSteward f s).clk = s.clk := rfl
@[simp] theorem modSteward_time (f : Steward → Steward) (s : State) : (modSteward f s).time = s.time := rfl
@[simp] theorem modSteward_quoin (f : Steward → Steward) (s : State) : (modSteward f s).quoin = s.quoin := rfl
@[simp] theorem modSteward_runs (f : Steward → Steward) (s : State) : (modSteward f s).runs = s.runs := rfl
@[simp] theorem modSteward_plates (f : Steward → Steward) (s : State) : (modSteward f s).plates = s.plates := rfl
@[simp] theorem modSteward_shelf (f : Steward → Steward) (s : State) : (modSteward f s).shelf = s.shelf := rfl
@[simp] theorem modSteward_store (f : Steward → Steward) (s : State) : (modSteward f s).store = s.store := rfl
@[simp] theorem modSteward_cellar (f : Steward → Steward) (s : State) : (modSteward f s).cellar = s.cellar := rfl
@[simp] theorem modSteward_galley (f : Steward → Steward) (s : State) : (modSteward f s).galley = s.galley := rfl
@[simp] theorem modSteward_host (f : Steward → Steward) (s : State) : (modSteward f s).host = s.host := rfl
@[simp] theorem modSteward_insts (f : Steward → Steward) (s : State) : (modSteward f s).insts = s.insts := rfl
@[simp] theorem modSteward_endpoints (f : Steward → Steward) (s : State) : (modSteward f s).endpoints = s.endpoints := rfl
@[simp] theorem modSteward_sched (f : Steward → Steward) (s : State) : (modSteward f s).sched = s.sched := rfl
@[simp] theorem modSteward_fabric (f : Steward → Steward) (s : State) : (modSteward f s).fabric = s.fabric := rfl
@[simp] theorem modSteward_dlv (f : Steward → Steward) (s : State) : (modSteward f s).dlv = s.dlv := rfl
@[simp] theorem modSteward_ether (f : Steward → Steward) (s : State) : (modSteward f s).ether = s.ether := rfl
@[simp] theorem modSteward_collDev (f : Steward → Steward) (s : State) : (modSteward f s).collDev = s.collDev := rfl
@[simp] theorem modSteward_misc (f : Steward → Steward) (s : State) : (modSteward f s).misc = s.misc := rfl
@[simp] theorem modSteward_hatches (f : Steward → Steward) (s : State) : (modSteward f s).hatches = s.hatches := rfl
@[simp] theorem modSteward_fns (f : Steward → Steward) (s : State) : (modSteward f s).fns = s.fns := rfl
@[simp] theorem modSteward_steward (f : Steward → Steward) (s : State) : (modSteward f s).steward = f s.steward := rfl
@[simp] theorem modSteward_faults (f : Steward → Steward) (s : State) : (modSteward f s).faults = s.faults := rfl
@[simp] theorem modSteward_power (f : Steward → Steward) (s : State) : (modSteward f s).power = s.power := rfl
@[simp] theorem modSteward_boot (f : Steward → Steward) (s : State) : (modSteward f s).boot = s.boot := rfl
@[simp] theorem modSteward_spdm (f : Steward → Steward) (s : State) : (modSteward f s).spdm = s.spdm := rfl
@[simp] theorem modSteward_out (f : Steward → Steward) (s : State) : (modSteward f s).out = s.out := rfl
@[simp] theorem modSteward_freeCount (f : Steward → Steward) (s : State) : (modSteward f s).freeCount = s.freeCount := rfl
@[simp] theorem modSteward_ord (f : Steward → Steward) (s : State) : (modSteward f s).ord = s.ord := rfl
@[simp] theorem modSteward_pins (f : Steward → Steward) (s : State) : (modSteward f s).pins = s.pins := rfl
@[simp] theorem modSteward_watch (f : Steward → Steward) (s : State) : (modSteward f s).watch = s.watch := rfl

/-! ### modMisc -/

@[simp] theorem modMisc_pending (f : Misc → Misc) (s : State) : (modMisc f s).pending = s.pending := rfl
@[simp] theorem modMisc_startup (f : Misc → Misc) (s : State) : (modMisc f s).startup = s.startup := rfl
@[simp] theorem modMisc_clk (f : Misc → Misc) (s : State) : (modMisc f s).clk = s.clk := rfl
@[simp] theorem modMisc_time (f : Misc → Misc) (s : State) : (modMisc f s).time = s.time := rfl
@[simp] theorem modMisc_quoin (f : Misc → Misc) (s : State) : (modMisc f s).quoin = s.quoin := rfl
@[simp] theorem modMisc_runs (f : Misc → Misc) (s : State) : (modMisc f s).runs = s.runs := rfl
@[simp] theorem modMisc_plates (f : Misc → Misc) (s : State) : (modMisc f s).plates = s.plates := rfl
@[simp] theorem modMisc_shelf (f : Misc → Misc) (s : State) : (modMisc f s).shelf = s.shelf := rfl
@[simp] theorem modMisc_store (f : Misc → Misc) (s : State) : (modMisc f s).store = s.store := rfl
@[simp] theorem modMisc_cellar (f : Misc → Misc) (s : State) : (modMisc f s).cellar = s.cellar := rfl
@[simp] theorem modMisc_galley (f : Misc → Misc) (s : State) : (modMisc f s).galley = s.galley := rfl
@[simp] theorem modMisc_host (f : Misc → Misc) (s : State) : (modMisc f s).host = s.host := rfl
@[simp] theorem modMisc_insts (f : Misc → Misc) (s : State) : (modMisc f s).insts = s.insts := rfl
@[simp] theorem modMisc_endpoints (f : Misc → Misc) (s : State) : (modMisc f s).endpoints = s.endpoints := rfl
@[simp] theorem modMisc_sched (f : Misc → Misc) (s : State) : (modMisc f s).sched = s.sched := rfl
@[simp] theorem modMisc_fabric (f : Misc → Misc) (s : State) : (modMisc f s).fabric = s.fabric := rfl
@[simp] theorem modMisc_dlv (f : Misc → Misc) (s : State) : (modMisc f s).dlv = s.dlv := rfl
@[simp] theorem modMisc_ether (f : Misc → Misc) (s : State) : (modMisc f s).ether = s.ether := rfl
@[simp] theorem modMisc_collDev (f : Misc → Misc) (s : State) : (modMisc f s).collDev = s.collDev := rfl
@[simp] theorem modMisc_misc (f : Misc → Misc) (s : State) : (modMisc f s).misc = f s.misc := rfl
@[simp] theorem modMisc_hatches (f : Misc → Misc) (s : State) : (modMisc f s).hatches = s.hatches := rfl
@[simp] theorem modMisc_fns (f : Misc → Misc) (s : State) : (modMisc f s).fns = s.fns := rfl
@[simp] theorem modMisc_steward (f : Misc → Misc) (s : State) : (modMisc f s).steward = s.steward := rfl
@[simp] theorem modMisc_faults (f : Misc → Misc) (s : State) : (modMisc f s).faults = s.faults := rfl
@[simp] theorem modMisc_power (f : Misc → Misc) (s : State) : (modMisc f s).power = s.power := rfl
@[simp] theorem modMisc_boot (f : Misc → Misc) (s : State) : (modMisc f s).boot = s.boot := rfl
@[simp] theorem modMisc_spdm (f : Misc → Misc) (s : State) : (modMisc f s).spdm = s.spdm := rfl
@[simp] theorem modMisc_out (f : Misc → Misc) (s : State) : (modMisc f s).out = s.out := rfl
@[simp] theorem modMisc_freeCount (f : Misc → Misc) (s : State) : (modMisc f s).freeCount = s.freeCount := rfl
@[simp] theorem modMisc_ord (f : Misc → Misc) (s : State) : (modMisc f s).ord = s.ord := rfl
@[simp] theorem modMisc_pins (f : Misc → Misc) (s : State) : (modMisc f s).pins = s.pins := rfl
@[simp] theorem modMisc_watch (f : Misc → Misc) (s : State) : (modMisc f s).watch = s.watch := rfl

/-! ### modSpdm -/

@[simp] theorem modSpdm_pending (f : Spdm → Spdm) (s : State) : (modSpdm f s).pending = s.pending := rfl
@[simp] theorem modSpdm_startup (f : Spdm → Spdm) (s : State) : (modSpdm f s).startup = s.startup := rfl
@[simp] theorem modSpdm_clk (f : Spdm → Spdm) (s : State) : (modSpdm f s).clk = s.clk := rfl
@[simp] theorem modSpdm_time (f : Spdm → Spdm) (s : State) : (modSpdm f s).time = s.time := rfl
@[simp] theorem modSpdm_quoin (f : Spdm → Spdm) (s : State) : (modSpdm f s).quoin = s.quoin := rfl
@[simp] theorem modSpdm_runs (f : Spdm → Spdm) (s : State) : (modSpdm f s).runs = s.runs := rfl
@[simp] theorem modSpdm_plates (f : Spdm → Spdm) (s : State) : (modSpdm f s).plates = s.plates := rfl
@[simp] theorem modSpdm_shelf (f : Spdm → Spdm) (s : State) : (modSpdm f s).shelf = s.shelf := rfl
@[simp] theorem modSpdm_store (f : Spdm → Spdm) (s : State) : (modSpdm f s).store = s.store := rfl
@[simp] theorem modSpdm_cellar (f : Spdm → Spdm) (s : State) : (modSpdm f s).cellar = s.cellar := rfl
@[simp] theorem modSpdm_galley (f : Spdm → Spdm) (s : State) : (modSpdm f s).galley = s.galley := rfl
@[simp] theorem modSpdm_host (f : Spdm → Spdm) (s : State) : (modSpdm f s).host = s.host := rfl
@[simp] theorem modSpdm_insts (f : Spdm → Spdm) (s : State) : (modSpdm f s).insts = s.insts := rfl
@[simp] theorem modSpdm_endpoints (f : Spdm → Spdm) (s : State) : (modSpdm f s).endpoints = s.endpoints := rfl
@[simp] theorem modSpdm_sched (f : Spdm → Spdm) (s : State) : (modSpdm f s).sched = s.sched := rfl
@[simp] theorem modSpdm_fabric (f : Spdm → Spdm) (s : State) : (modSpdm f s).fabric = s.fabric := rfl
@[simp] theorem modSpdm_dlv (f : Spdm → Spdm) (s : State) : (modSpdm f s).dlv = s.dlv := rfl
@[simp] theorem modSpdm_ether (f : Spdm → Spdm) (s : State) : (modSpdm f s).ether = s.ether := rfl
@[simp] theorem modSpdm_collDev (f : Spdm → Spdm) (s : State) : (modSpdm f s).collDev = s.collDev := rfl
@[simp] theorem modSpdm_misc (f : Spdm → Spdm) (s : State) : (modSpdm f s).misc = s.misc := rfl
@[simp] theorem modSpdm_hatches (f : Spdm → Spdm) (s : State) : (modSpdm f s).hatches = s.hatches := rfl
@[simp] theorem modSpdm_fns (f : Spdm → Spdm) (s : State) : (modSpdm f s).fns = s.fns := rfl
@[simp] theorem modSpdm_steward (f : Spdm → Spdm) (s : State) : (modSpdm f s).steward = s.steward := rfl
@[simp] theorem modSpdm_faults (f : Spdm → Spdm) (s : State) : (modSpdm f s).faults = s.faults := rfl
@[simp] theorem modSpdm_power (f : Spdm → Spdm) (s : State) : (modSpdm f s).power = s.power := rfl
@[simp] theorem modSpdm_boot (f : Spdm → Spdm) (s : State) : (modSpdm f s).boot = s.boot := rfl
@[simp] theorem modSpdm_spdm (f : Spdm → Spdm) (s : State) : (modSpdm f s).spdm = f s.spdm := rfl
@[simp] theorem modSpdm_out (f : Spdm → Spdm) (s : State) : (modSpdm f s).out = s.out := rfl
@[simp] theorem modSpdm_freeCount (f : Spdm → Spdm) (s : State) : (modSpdm f s).freeCount = s.freeCount := rfl
@[simp] theorem modSpdm_ord (f : Spdm → Spdm) (s : State) : (modSpdm f s).ord = s.ord := rfl
@[simp] theorem modSpdm_pins (f : Spdm → Spdm) (s : State) : (modSpdm f s).pins = s.pins := rfl
@[simp] theorem modSpdm_watch (f : Spdm → Spdm) (s : State) : (modSpdm f s).watch = s.watch := rfl

/-! ### modHatch -/

@[simp] theorem modHatch_pending (h : Nat) (f : Hatch → Hatch) (s : State) : (modHatch h f s).pending = s.pending := rfl
@[simp] theorem modHatch_startup (h : Nat) (f : Hatch → Hatch) (s : State) : (modHatch h f s).startup = s.startup := rfl
@[simp] theorem modHatch_clk (h : Nat) (f : Hatch → Hatch) (s : State) : (modHatch h f s).clk = s.clk := rfl
@[simp] theorem modHatch_time (h : Nat) (f : Hatch → Hatch) (s : State) : (modHatch h f s).time = s.time := rfl
@[simp] theorem modHatch_quoin (h : Nat) (f : Hatch → Hatch) (s : State) : (modHatch h f s).quoin = s.quoin := rfl
@[simp] theorem modHatch_runs (h : Nat) (f : Hatch → Hatch) (s : State) : (modHatch h f s).runs = s.runs := rfl
@[simp] theorem modHatch_plates (h : Nat) (f : Hatch → Hatch) (s : State) : (modHatch h f s).plates = s.plates := rfl
@[simp] theorem modHatch_shelf (h : Nat) (f : Hatch → Hatch) (s : State) : (modHatch h f s).shelf = s.shelf := rfl
@[simp] theorem modHatch_store (h : Nat) (f : Hatch → Hatch) (s : State) : (modHatch h f s).store = s.store := rfl
@[simp] theorem modHatch_cellar (h : Nat) (f : Hatch → Hatch) (s : State) : (modHatch h f s).cellar = s.cellar := rfl
@[simp] theorem modHatch_galley (h : Nat) (f : Hatch → Hatch) (s : State) : (modHatch h f s).galley = s.galley := rfl
@[simp] theorem modHatch_host (h : Nat) (f : Hatch → Hatch) (s : State) : (modHatch h f s).host = s.host := rfl
@[simp] theorem modHatch_insts (h : Nat) (f : Hatch → Hatch) (s : State) : (modHatch h f s).insts = s.insts := rfl
@[simp] theorem modHatch_endpoints (h : Nat) (f : Hatch → Hatch) (s : State) : (modHatch h f s).endpoints = s.endpoints := rfl
@[simp] theorem modHatch_sched (h : Nat) (f : Hatch → Hatch) (s : State) : (modHatch h f s).sched = s.sched := rfl
@[simp] theorem modHatch_fabric (h : Nat) (f : Hatch → Hatch) (s : State) : (modHatch h f s).fabric = s.fabric := rfl
@[simp] theorem modHatch_dlv (h : Nat) (f : Hatch → Hatch) (s : State) : (modHatch h f s).dlv = s.dlv := rfl
@[simp] theorem modHatch_ether (h : Nat) (f : Hatch → Hatch) (s : State) : (modHatch h f s).ether = s.ether := rfl
@[simp] theorem modHatch_collDev (h : Nat) (f : Hatch → Hatch) (s : State) : (modHatch h f s).collDev = s.collDev := rfl
@[simp] theorem modHatch_misc (h : Nat) (f : Hatch → Hatch) (s : State) : (modHatch h f s).misc = s.misc := rfl
@[simp] theorem modHatch_hatches (h : Nat) (f : Hatch → Hatch) (s : State) : (modHatch h f s).hatches = modAt s.hatches h f := rfl
@[simp] theorem modHatch_fns (h : Nat) (f : Hatch → Hatch) (s : State) : (modHatch h f s).fns = s.fns := rfl
@[simp] theorem modHatch_steward (h : Nat) (f : Hatch → Hatch) (s : State) : (modHatch h f s).steward = s.steward := rfl
@[simp] theorem modHatch_faults (h : Nat) (f : Hatch → Hatch) (s : State) : (modHatch h f s).faults = s.faults := rfl
@[simp] theorem modHatch_power (h : Nat) (f : Hatch → Hatch) (s : State) : (modHatch h f s).power = s.power := rfl
@[simp] theorem modHatch_boot (h : Nat) (f : Hatch → Hatch) (s : State) : (modHatch h f s).boot = s.boot := rfl
@[simp] theorem modHatch_spdm (h : Nat) (f : Hatch → Hatch) (s : State) : (modHatch h f s).spdm = s.spdm := rfl
@[simp] theorem modHatch_out (h : Nat) (f : Hatch → Hatch) (s : State) : (modHatch h f s).out = s.out := rfl
@[simp] theorem modHatch_freeCount (h : Nat) (f : Hatch → Hatch) (s : State) : (modHatch h f s).freeCount = s.freeCount := rfl
@[simp] theorem modHatch_ord (h : Nat) (f : Hatch → Hatch) (s : State) : (modHatch h f s).ord = s.ord := rfl
@[simp] theorem modHatch_pins (h : Nat) (f : Hatch → Hatch) (s : State) : (modHatch h f s).pins = s.pins := rfl
@[simp] theorem modHatch_watch (h : Nat) (f : Hatch → Hatch) (s : State) : (modHatch h f s).watch = s.watch := rfl

/-! ### modFn -/

@[simp] theorem modFn_pending (n : Fn) (f : FnCfg → FnCfg) (s : State) : (modFn n f s).pending = s.pending := rfl
@[simp] theorem modFn_startup (n : Fn) (f : FnCfg → FnCfg) (s : State) : (modFn n f s).startup = s.startup := rfl
@[simp] theorem modFn_clk (n : Fn) (f : FnCfg → FnCfg) (s : State) : (modFn n f s).clk = s.clk := rfl
@[simp] theorem modFn_time (n : Fn) (f : FnCfg → FnCfg) (s : State) : (modFn n f s).time = s.time := rfl
@[simp] theorem modFn_quoin (n : Fn) (f : FnCfg → FnCfg) (s : State) : (modFn n f s).quoin = s.quoin := rfl
@[simp] theorem modFn_runs (n : Fn) (f : FnCfg → FnCfg) (s : State) : (modFn n f s).runs = s.runs := rfl
@[simp] theorem modFn_plates (n : Fn) (f : FnCfg → FnCfg) (s : State) : (modFn n f s).plates = s.plates := rfl
@[simp] theorem modFn_shelf (n : Fn) (f : FnCfg → FnCfg) (s : State) : (modFn n f s).shelf = s.shelf := rfl
@[simp] theorem modFn_store (n : Fn) (f : FnCfg → FnCfg) (s : State) : (modFn n f s).store = s.store := rfl
@[simp] theorem modFn_cellar (n : Fn) (f : FnCfg → FnCfg) (s : State) : (modFn n f s).cellar = s.cellar := rfl
@[simp] theorem modFn_galley (n : Fn) (f : FnCfg → FnCfg) (s : State) : (modFn n f s).galley = s.galley := rfl
@[simp] theorem modFn_host (n : Fn) (f : FnCfg → FnCfg) (s : State) : (modFn n f s).host = s.host := rfl
@[simp] theorem modFn_insts (n : Fn) (f : FnCfg → FnCfg) (s : State) : (modFn n f s).insts = s.insts := rfl
@[simp] theorem modFn_endpoints (n : Fn) (f : FnCfg → FnCfg) (s : State) : (modFn n f s).endpoints = s.endpoints := rfl
@[simp] theorem modFn_sched (n : Fn) (f : FnCfg → FnCfg) (s : State) : (modFn n f s).sched = s.sched := rfl
@[simp] theorem modFn_fabric (n : Fn) (f : FnCfg → FnCfg) (s : State) : (modFn n f s).fabric = s.fabric := rfl
@[simp] theorem modFn_dlv (n : Fn) (f : FnCfg → FnCfg) (s : State) : (modFn n f s).dlv = s.dlv := rfl
@[simp] theorem modFn_ether (n : Fn) (f : FnCfg → FnCfg) (s : State) : (modFn n f s).ether = s.ether := rfl
@[simp] theorem modFn_collDev (n : Fn) (f : FnCfg → FnCfg) (s : State) : (modFn n f s).collDev = s.collDev := rfl
@[simp] theorem modFn_misc (n : Fn) (f : FnCfg → FnCfg) (s : State) : (modFn n f s).misc = s.misc := rfl
@[simp] theorem modFn_hatches (n : Fn) (f : FnCfg → FnCfg) (s : State) : (modFn n f s).hatches = s.hatches := rfl
@[simp] theorem modFn_steward (n : Fn) (f : FnCfg → FnCfg) (s : State) : (modFn n f s).steward = s.steward := rfl
@[simp] theorem modFn_faults (n : Fn) (f : FnCfg → FnCfg) (s : State) : (modFn n f s).faults = s.faults := rfl
@[simp] theorem modFn_power (n : Fn) (f : FnCfg → FnCfg) (s : State) : (modFn n f s).power = s.power := rfl
@[simp] theorem modFn_boot (n : Fn) (f : FnCfg → FnCfg) (s : State) : (modFn n f s).boot = s.boot := rfl
@[simp] theorem modFn_spdm (n : Fn) (f : FnCfg → FnCfg) (s : State) : (modFn n f s).spdm = s.spdm := rfl
@[simp] theorem modFn_out (n : Fn) (f : FnCfg → FnCfg) (s : State) : (modFn n f s).out = s.out := rfl
@[simp] theorem modFn_freeCount (n : Fn) (f : FnCfg → FnCfg) (s : State) : (modFn n f s).freeCount = s.freeCount := rfl
@[simp] theorem modFn_ord (n : Fn) (f : FnCfg → FnCfg) (s : State) : (modFn n f s).ord = s.ord := rfl
@[simp] theorem modFn_pins (n : Fn) (f : FnCfg → FnCfg) (s : State) : (modFn n f s).pins = s.pins := rfl
@[simp] theorem modFn_watch (n : Fn) (f : FnCfg → FnCfg) (s : State) : (modFn n f s).watch = s.watch := rfl

/-! ### modPort -/

@[simp] theorem modPort_pending (p : Nat) (f : Port → Port) (s : State) : (modPort p f s).pending = s.pending := rfl
@[simp] theorem modPort_startup (p : Nat) (f : Port → Port) (s : State) : (modPort p f s).startup = s.startup := rfl
@[simp] theorem modPort_clk (p : Nat) (f : Port → Port) (s : State) : (modPort p f s).clk = s.clk := rfl
@[simp] theorem modPort_time (p : Nat) (f : Port → Port) (s : State) : (modPort p f s).time = s.time := rfl
@[simp] theorem modPort_quoin (p : Nat) (f : Port → Port) (s : State) : (modPort p f s).quoin = s.quoin := rfl
@[simp] theorem modPort_runs (p : Nat) (f : Port → Port) (s : State) : (modPort p f s).runs = s.runs := rfl
@[simp] theorem modPort_plates (p : Nat) (f : Port → Port) (s : State) : (modPort p f s).plates = s.plates := rfl
@[simp] theorem modPort_shelf (p : Nat) (f : Port → Port) (s : State) : (modPort p f s).shelf = s.shelf := rfl
@[simp] theorem modPort_store (p : Nat) (f : Port → Port) (s : State) : (modPort p f s).store = s.store := rfl
@[simp] theorem modPort_cellar (p : Nat) (f : Port → Port) (s : State) : (modPort p f s).cellar = s.cellar := rfl
@[simp] theorem modPort_galley (p : Nat) (f : Port → Port) (s : State) : (modPort p f s).galley = s.galley := rfl
@[simp] theorem modPort_host (p : Nat) (f : Port → Port) (s : State) : (modPort p f s).host = s.host := rfl
@[simp] theorem modPort_insts (p : Nat) (f : Port → Port) (s : State) : (modPort p f s).insts = s.insts := rfl
@[simp] theorem modPort_endpoints (p : Nat) (f : Port → Port) (s : State) : (modPort p f s).endpoints = s.endpoints := rfl
@[simp] theorem modPort_sched (p : Nat) (f : Port → Port) (s : State) : (modPort p f s).sched = s.sched := rfl
@[simp] theorem modPort_dlv (p : Nat) (f : Port → Port) (s : State) : (modPort p f s).dlv = s.dlv := rfl
@[simp] theorem modPort_ether (p : Nat) (f : Port → Port) (s : State) : (modPort p f s).ether = s.ether := rfl
@[simp] theorem modPort_collDev (p : Nat) (f : Port → Port) (s : State) : (modPort p f s).collDev = s.collDev := rfl
@[simp] theorem modPort_misc (p : Nat) (f : Port → Port) (s : State) : (modPort p f s).misc = s.misc := rfl
@[simp] theorem modPort_hatches (p : Nat) (f : Port → Port) (s : State) : (modPort p f s).hatches = s.hatches := rfl
@[simp] theorem modPort_fns (p : Nat) (f : Port → Port) (s : State) : (modPort p f s).fns = s.fns := rfl
@[simp] theorem modPort_steward (p : Nat) (f : Port → Port) (s : State) : (modPort p f s).steward = s.steward := rfl
@[simp] theorem modPort_faults (p : Nat) (f : Port → Port) (s : State) : (modPort p f s).faults = s.faults := rfl
@[simp] theorem modPort_power (p : Nat) (f : Port → Port) (s : State) : (modPort p f s).power = s.power := rfl
@[simp] theorem modPort_boot (p : Nat) (f : Port → Port) (s : State) : (modPort p f s).boot = s.boot := rfl
@[simp] theorem modPort_spdm (p : Nat) (f : Port → Port) (s : State) : (modPort p f s).spdm = s.spdm := rfl
@[simp] theorem modPort_out (p : Nat) (f : Port → Port) (s : State) : (modPort p f s).out = s.out := rfl
@[simp] theorem modPort_freeCount (p : Nat) (f : Port → Port) (s : State) : (modPort p f s).freeCount = s.freeCount := rfl
@[simp] theorem modPort_ord (p : Nat) (f : Port → Port) (s : State) : (modPort p f s).ord = s.ord := rfl
@[simp] theorem modPort_pins (p : Nat) (f : Port → Port) (s : State) : (modPort p f s).pins = s.pins := rfl
@[simp] theorem modPort_watch (p : Nat) (f : Port → Port) (s : State) : (modPort p f s).watch = s.watch := rfl

/-! ### modTier -/

@[simp] theorem modTier_pending (t : Tier) (f : TierSt → TierSt) (s : State) : (modTier t f s).pending = s.pending := by cases t <;> rfl
@[simp] theorem modTier_startup (t : Tier) (f : TierSt → TierSt) (s : State) : (modTier t f s).startup = s.startup := by cases t <;> rfl
@[simp] theorem modTier_clk (t : Tier) (f : TierSt → TierSt) (s : State) : (modTier t f s).clk = s.clk := by cases t <;> rfl
@[simp] theorem modTier_time (t : Tier) (f : TierSt → TierSt) (s : State) : (modTier t f s).time = s.time := by cases t <;> rfl
@[simp] theorem modTier_quoin (t : Tier) (f : TierSt → TierSt) (s : State) : (modTier t f s).quoin = s.quoin := by cases t <;> rfl
@[simp] theorem modTier_runs (t : Tier) (f : TierSt → TierSt) (s : State) : (modTier t f s).runs = s.runs := by cases t <;> rfl
@[simp] theorem modTier_plates (t : Tier) (f : TierSt → TierSt) (s : State) : (modTier t f s).plates = s.plates := by cases t <;> rfl
@[simp] theorem modTier_galley (t : Tier) (f : TierSt → TierSt) (s : State) : (modTier t f s).galley = s.galley := by cases t <;> rfl
@[simp] theorem modTier_host (t : Tier) (f : TierSt → TierSt) (s : State) : (modTier t f s).host = s.host := by cases t <;> rfl
@[simp] theorem modTier_insts (t : Tier) (f : TierSt → TierSt) (s : State) : (modTier t f s).insts = s.insts := by cases t <;> rfl
@[simp] theorem modTier_endpoints (t : Tier) (f : TierSt → TierSt) (s : State) : (modTier t f s).endpoints = s.endpoints := by cases t <;> rfl
@[simp] theorem modTier_sched (t : Tier) (f : TierSt → TierSt) (s : State) : (modTier t f s).sched = s.sched := by cases t <;> rfl
@[simp] theorem modTier_fabric (t : Tier) (f : TierSt → TierSt) (s : State) : (modTier t f s).fabric = s.fabric := by cases t <;> rfl
@[simp] theorem modTier_dlv (t : Tier) (f : TierSt → TierSt) (s : State) : (modTier t f s).dlv = s.dlv := by cases t <;> rfl
@[simp] theorem modTier_ether (t : Tier) (f : TierSt → TierSt) (s : State) : (modTier t f s).ether = s.ether := by cases t <;> rfl
@[simp] theorem modTier_collDev (t : Tier) (f : TierSt → TierSt) (s : State) : (modTier t f s).collDev = s.collDev := by cases t <;> rfl
@[simp] theorem modTier_misc (t : Tier) (f : TierSt → TierSt) (s : State) : (modTier t f s).misc = s.misc := by cases t <;> rfl
@[simp] theorem modTier_hatches (t : Tier) (f : TierSt → TierSt) (s : State) : (modTier t f s).hatches = s.hatches := by cases t <;> rfl
@[simp] theorem modTier_fns (t : Tier) (f : TierSt → TierSt) (s : State) : (modTier t f s).fns = s.fns := by cases t <;> rfl
@[simp] theorem modTier_steward (t : Tier) (f : TierSt → TierSt) (s : State) : (modTier t f s).steward = s.steward := by cases t <;> rfl
@[simp] theorem modTier_faults (t : Tier) (f : TierSt → TierSt) (s : State) : (modTier t f s).faults = s.faults := by cases t <;> rfl
@[simp] theorem modTier_power (t : Tier) (f : TierSt → TierSt) (s : State) : (modTier t f s).power = s.power := by cases t <;> rfl
@[simp] theorem modTier_boot (t : Tier) (f : TierSt → TierSt) (s : State) : (modTier t f s).boot = s.boot := by cases t <;> rfl
@[simp] theorem modTier_spdm (t : Tier) (f : TierSt → TierSt) (s : State) : (modTier t f s).spdm = s.spdm := by cases t <;> rfl
@[simp] theorem modTier_out (t : Tier) (f : TierSt → TierSt) (s : State) : (modTier t f s).out = s.out := by cases t <;> rfl
@[simp] theorem modTier_freeCount (t : Tier) (f : TierSt → TierSt) (s : State) : (modTier t f s).freeCount = s.freeCount := by cases t <;> rfl
@[simp] theorem modTier_ord (t : Tier) (f : TierSt → TierSt) (s : State) : (modTier t f s).ord = s.ord := by cases t <;> rfl
@[simp] theorem modTier_pins (t : Tier) (f : TierSt → TierSt) (s : State) : (modTier t f s).pins = s.pins := by cases t <;> rfl
@[simp] theorem modTier_watch (t : Tier) (f : TierSt → TierSt) (s : State) : (modTier t f s).watch = s.watch := by cases t <;> rfl

end Sys2Proof.Machine
end

