-- ==== Sys2Proof/Laws/Faults.lean ====
section
/-! SUPPORT. What recording and latching an event leaves (18_faults.md R446 to R451). -/
namespace Sys2Proof.Machine

/-- The interrupt of an event leaves faults, instances and quoin. -/
theorem interrupt_keeps (u : State) : (faultInterrupt u).faults = u.faults ∧ (faultInterrupt u).insts = u.insts ∧
    (faultInterrupt u).quoin = u.quoin := by
  simp only [faultInterrupt, sendMsix, modFn, modHatch, emit]
  repeat' split
  all_goals simp

/-- A recorded event: its level, its number and its ledger class; instances, quoin and SAFE_STATUS stay. -/
theorem record_keeps (e : Event) (s : State) : (record e s).1 = escLevel e s ∧ (record e s).2.insts = s.insts ∧
    (record e s).2.quoin = s.quoin ∧ (record e s).2.faults.safeStatus = s.faults.safeStatus ∧
    (record e s).2.faults.seq = (s.faults.seq + 1) % 2 ^ 32 ∧ (record e s).2.faults.ledger = modAt s.faults.ledger e.cls
    (ledgerLatch e (escLevel e s) (escCause e s) s.faults.seq) := by
  refine ⟨?_, ?_, ?_, ?_, ?_, ?_⟩
  all_goals (simp only [record]; repeat' split)
  all_goals simp [interrupt_keeps]

/-- Latching: the event recorded, and safe state at level 4. -/
theorem latch_eq (e : Event) (s : State) : latch e s = if (record e s).1 = 4 then enterSafe e s.faults.seq
    (record e s).2 else (record e s).2 := by
  unfold latch
  generalize record e s = r
  obtain ⟨a, b⟩ := r
  rfl

/-- A change that clears the keys of an instance leaves none with a key. -/
theorem mem_tmap_keys (l : Table Inst) (f : Nat → Inst → Inst) (h : ∀ i x, (f i x).keys = []) :
    ∀ x ∈ tmap l f, x.2.keys = [] := by
  intro x hx
  simp only [tmap, List.mem_map] at hx
  obtain ⟨y, -, rfl⟩ := hx
  exact h _ _

/-- The same after an event. -/
theorem keys_record (e : Event) (l : Table Inst) (f : Nat → Inst → Inst) (h : ∀ i x, (f i x).keys = []) (u : State)
    (hu : u.insts = tmap l f) : ∀ x ∈ (record e u).2.insts, x.2.keys = [] := by
  rw [(record_keeps e u).2.1, hu]; exact mem_tmap_keys l f h

/-- A silenced port is unused, or DOWN and does not return. -/
theorem silence_ok (l : List Port) : ∀ p ∈ l.map silencePort, p.st = .unused ∨ (p.st = .down ∧ p.returns = false) := by
  intro p hp
  obtain ⟨y, -, rfl⟩ := List.mem_map.mp hp
  simp only [silencePort]
  split
  · left; assumption
  · right; exact ⟨rfl, rfl⟩

end Sys2Proof.Machine
end

