-- ==== Sys2Proof/Laws/Memory.lean ====
section
/-! SUPPORT. Byte memories: every operation keeps the canonical form, and a byte reads as it was last written. -/
namespace Sys2Proof.Machine

theorem wfFrom_mono {m : Mem} {lo hi : Nat} (hle : lo ≤ hi) (h : wfFrom hi m = true) : wfFrom lo m = true := by
  cases m with
  | nil => rfl
  | cons c m =>
    simp only [wfFrom, Bool.and_eq_true, decide_eq_true_eq] at h ⊢
    exact ⟨⟨by omega, h.1.2⟩, h.2⟩

theorem wfFrom_wrByte {m : Mem} {lo a : Nat} {b : Byte} (hlo : lo ≤ a) (h : wfFrom lo m = true) :
    wfFrom lo (wrByte m a b) = true := by
  induction m generalizing lo with
  | nil => simp only [wrByte]; split <;> simp_all [wfFrom]
  | cons c m ih =>
    obtain ⟨k, v⟩ := c
    simp only [wfFrom, Bool.and_eq_true, decide_eq_true_eq] at h
    simp only [wrByte]
    by_cases h1 : a < k
    · by_cases hb : b = 0
      · simp only [h1, hb, if_true, wfFrom, Bool.and_eq_true, decide_eq_true_eq]
        exact h
      · simp only [h1, hb, if_true, if_false, wfFrom, Bool.and_eq_true, decide_eq_true_eq]
        exact ⟨⟨hlo, hb⟩, ⟨by omega, h.1.2⟩, h.2⟩
    · by_cases h2 : a = k
      · subst h2
        by_cases hb : b = 0
        · simp only [Nat.lt_irrefl, hb, if_true, if_false]
          exact wfFrom_mono (by omega) h.2
        · simp only [Nat.lt_irrefl, hb, if_true, if_false, wfFrom, Bool.and_eq_true, decide_eq_true_eq]
          exact ⟨⟨hlo, hb⟩, h.2⟩
      · simp only [h1, h2, if_false, wfFrom, Bool.and_eq_true, decide_eq_true_eq]
        exact ⟨h.1, ih (by omega) h.2⟩

theorem wf_wrByte {m : Mem} (a : Nat) (b : Byte) (h : Memory.wf m = true) : Memory.wf (wrByte m a b) = true :=
  wfFrom_wrByte (Nat.zero_le a) h

theorem wf_wrBytes {m : Mem} (a : Nat) (bs : List Byte) (h : Memory.wf m = true) : Memory.wf (wrBytes m a bs) = true := by
  induction bs generalizing m a with
  | nil => exact h
  | cons b bs ih => exact ih (a + 1) (wf_wrByte a b h)

theorem wfFrom_filter {m : Mem} {lo : Nat} (p : Host.Cell → Bool) (h : wfFrom lo m = true) : wfFrom lo (m.filter p) = true := by
  induction m generalizing lo with
  | nil => rfl
  | cons c m ih =>
    obtain ⟨k, v⟩ := c
    simp only [wfFrom, Bool.and_eq_true, decide_eq_true_eq] at h
    simp only [List.filter]
    split
    · simp only [wfFrom, Bool.and_eq_true, decide_eq_true_eq]
      exact ⟨h.1, ih h.2⟩
    · exact wfFrom_mono (by omega) (ih h.2)

theorem wf_clearBytes {m : Mem} (a n : Nat) (h : Memory.wf m = true) : Memory.wf (clearBytes m a n) = true :=
  wfFrom_filter _ h

theorem rdByte_below {m : Mem} {lo a : Nat} (h : wfFrom lo m = true) (ha : a < lo) : rdByte m a = 0 := by
  induction m generalizing lo with
  | nil => rfl
  | cons c m ih =>
    obtain ⟨k, v⟩ := c
    simp only [wfFrom, Bool.and_eq_true, decide_eq_true_eq] at h
    simp only [rdByte]
    rw [if_neg (by omega)]
    exact ih h.2 (by omega)

theorem rdByte_wrByte {m : Mem} {lo : Nat} (a x : Nat) (b : Byte) (h : wfFrom lo m = true) :
    rdByte (wrByte m a b) x = if x = a then b else rdByte m x := by
  induction m generalizing lo with
  | nil =>
    simp only [wrByte]
    by_cases hb : b = 0
    · subst hb
      rw [if_pos rfl]
      exact (ite_self _).symm
    · rw [if_neg hb]
      simp only [rdByte]
      by_cases hx : x = a
      · rw [if_pos hx, if_pos hx.symm]
      · rw [if_neg hx, if_neg (fun e => hx e.symm)]
  | cons c m ih =>
    obtain ⟨k, v⟩ := c
    have h' := h
    simp only [wfFrom, Bool.and_eq_true, decide_eq_true_eq] at h
    simp only [wrByte]
    by_cases h1 : a < k
    · by_cases hb : b = 0
      · by_cases hx : x = a
        · subst hx
          simp only [h1, hb, if_true, rdByte]
          rw [if_neg (by omega)]
          exact rdByte_below h.2 (by omega)
        · simp [h1, hb, hx]
      · by_cases hx : x = a
        · subst hx
          rw [if_pos h1, if_neg hb, if_pos rfl]
          simp only [rdByte, if_true]
        · simp only [h1, hb, hx, if_true, if_false, rdByte]
          rw [if_neg (fun e => hx e.symm)]
    · by_cases h2 : a = k
      · subst h2
        by_cases hb : b = 0
        · by_cases hx : x = a
          · subst hx
            simp only [Nat.lt_irrefl, hb, if_true, if_false]
            exact rdByte_below h.2 (by omega)
          · simp only [Nat.lt_irrefl, hb, hx, if_true, if_false, rdByte]
            rw [if_neg (fun e => hx e.symm)]
        · by_cases hx : x = a
          · subst hx
            rw [if_neg (Nat.lt_irrefl _), if_pos rfl, if_neg hb, if_pos rfl]
            simp only [rdByte, if_true]
          · simp only [Nat.lt_irrefl, hb, hx, if_true, if_false, rdByte]
            rw [if_neg (fun e => hx e.symm), if_neg (fun e => hx e.symm)]
      · simp only [h1, h2, if_false, rdByte]
        by_cases hk : k = x
        · subst hk; simp [Ne.symm h2]
        · simp only [hk, if_false]; exact ih h.2

/-- A byte reads as it was written; every other byte reads as before. -/
theorem read_write {m : Mem} (a x : Nat) (b : Byte) (h : Memory.wf m = true) :
    rdByte (wrByte m a b) x = if x = a then b else rdByte m x := rdByte_wrByte a x b h

/-- A write of bytes leaves every byte outside its range. -/
theorem read_wrBytes_out {m : Mem} (a x : Nat) (bs : List Byte) (h : Memory.wf m = true)
    (hx : x < a ∨ a + bs.length ≤ x) : rdByte (wrBytes m a bs) x = rdByte m x := by
  induction bs generalizing m a with
  | nil => rfl
  | cons b bs ih =>
    simp only [List.length_cons] at hx
    simp only [wrBytes]
    rw [ih (a + 1) (wf_wrByte a b h) (by omega), read_write a x b h, if_neg (by omega)]

/-- The bytes written are read back. -/
theorem read_wrBytes {m : Mem} (a : Nat) (bs : List Byte) (h : Memory.wf m = true) :
    rdBytes (wrBytes m a bs) a bs.length = bs := by
  induction bs generalizing m a with
  | nil => rfl
  | cons b bs ih =>
    simp only [wrBytes, List.length_cons, rdBytes]
    rw [ih (a + 1) (wf_wrByte a b h), read_wrBytes_out (a + 1) a bs (wf_wrByte a b h) (by omega), read_write a a b h, if_pos rfl]

end Sys2Proof.Machine
end

