-- ==== Sys2Proof/Laws/Host.lean ====
section
/-! SUPPORT. The host's memories and translations after a change of one of them. -/
namespace Sys2Proof.Machine

/-- A member of a list after a change of one member, with a default for those beyond its end. -/
theorem getD_modAt_lt {α : Type} (l : List α) (k j : Nat) (f : α → α) (d : α) (h : k < l.length) :
    (modAt l k f).getD j d = if j = k then f (l.getD k d) else l.getD j d := by
  induction l generalizing k j with
  | nil => simp at h
  | cons a l ih =>
    cases k with
    | zero => cases j <;> simp [modAt]
    | succ k =>
      cases j with
      | zero => simp [modAt]
      | succ j =>
        simp only [modAt, List.getD_cons_succ, Nat.add_right_cancel_iff]
        exact ih k j (by simpa using h)

/-- A change beyond the end changes nothing. -/
theorem modAt_ge {α : Type} (l : List α) (k : Nat) (f : α → α) (h : l.length ≤ k) : modAt l k f = l := by
  induction l generalizing k with
  | nil => cases k <;> rfl
  | cons a l ih => cases k with
    | zero => simp at h
    | succ k => simp only [modAt, ih k (by simpa using h)]

/-- The memory of the host that is written. -/
theorem host_same (s : State) (h : Nat) (f : Mem → Mem) (hl : h < s.host.mems.length) :
    (modAt s.host.mems h f).getD h [] = f (hostMem s h) := by
  rw [getD_modAt_lt _ _ _ _ _ hl, if_pos rfl]; rfl

/-- The memory of another host. -/
theorem host_other (s : State) (h g : Nat) (f : Mem → Mem) (hg : g ≠ h) : (modAt s.host.mems h f).getD g [] = hostMem s g :=
    by
  by_cases hl : h < s.host.mems.length
  · rw [getD_modAt_lt _ _ _ _ _ hl, if_neg hg]; rfl
  · rw [modAt_ge _ _ _ (by omega)]; rfl

/-- The page whose translation changes. -/
theorem map_same (s : State) (f : Fn) (page : Nat) (v : Word) : pageMap (writeHostMap f page v s) f page = fld v 0 4 := by
  have e : (s.host.map.filter fun e => !(e.1 == f && e.2.1 == page)).find? (fun e => e.1 == f && e.2.1 == page) = none := by
    rw [List.find?_eq_none]; intro x hx; have h := (List.mem_filter.mp hx).2; cases hb : (x.1 == f && x.2.1 == page) <;> simp_all
  simp only [pageMap, writeHostMap]
  split
  · rename_i h; rw [e, h]; rfl
  · rw [List.find?_append, e]; simp

/-- Another page, or another function. -/
theorem map_other (s : State) (f : Fn) (page : Nat) (v : Word) (g : Fn) (p : Nat) (hg : g ≠ f ∨ p ≠ page) : pageMap
    (writeHostMap f page v s) g p = pageMap s g p := by
  have e (l : List (Fn × Nat × Nat)) : (l.filter fun e => !(e.1 == f && e.2.1 == page)).find? (fun e => e.1 == g && e.2.1 == p) = l.find? (fun e => e.1 == g && e.2.1 == p) := by
    rw [List.find?_filter]
    congr 1; funext x
    by_cases h1 : x.1 = g <;> by_cases h2 : x.2.1 = p <;> simp [h1, h2]
    exact hg
  have e2 : (f == g && page == p) = false := by
    rcases hg with hg | hg
    · simp [Ne.symm hg]
    · simp [Ne.symm hg]
  simp only [pageMap, writeHostMap]
  split
  · rw [e]
  · rw [List.find?_append, e, List.find?_cons, e2]; simp

/-- The comparators after a change of one. -/
theorem comparator_mod (s : State) (k : Fin 8) (h : s.power.comparators.length = 8) (f : Comparator → Comparator) (j : Nat) :
    comparator (modComparator k.val f s) j = if j = k.val then f (comparator s k.val) else comparator s j :=
  getD_modAt_lt _ _ _ _ _ (by omega)

end Sys2Proof.Machine
end

