-- ==== Sys2Proof/Laws/Keeps.lean ====
section
/-! SUPPORT. What every operation of the model keeps: the queue of waiting commands, the fixed numbers of parts, and the
canonical form of the byte memories. One lemma per operation follows in the other files of this folder. -/
namespace Sys2Proof.Machine

/-- From `s` to `t` the queue stays, and the invariants of Safety.lean carry over. -/
structure Keeps (s t : State) : Prop where
  queue : t.pending = s.pending
  fixed : s.Fixed → t.Fixed
  canonical : s.Canonical → t.Canonical

theorem Keeps.refl (s : State) : Keeps s s := ⟨rfl, id, id⟩

theorem Keeps.trans {s t u : State} (h : Keeps s t) (k : Keeps t u) : Keeps s u :=
  ⟨k.queue.trans h.queue, fun x => k.fixed (h.fixed x), fun x => k.canonical (h.canonical x)⟩

/-- The second part of a pair that an operation answers. -/
theorem Keeps.snd {α : Type} {s t : State} {p : α × State} {a : α} (e : p = (a, t)) (h : Keeps s p.2) : Keeps s t := by
  subst e; exact h

theorem Keeps.snd₂ {α β : Type} {s t : State} {p : α × β × State} {a : α} {b : β} (e : p = (a, b, t)) (h : Keeps s p.2.2) :
    Keeps s t := by
  subst e; exact h

theorem Keeps.snd₃ {α β γ : Type} {s t : State} {p : α × β × γ × State} {a : α} {b : β} {c : γ} (e : p = (a, b, c, t))
    (h : Keeps s p.2.2.2) : Keeps s t := by
  subst e; exact h

theorem Keeps.ite {c : Prop} [Decidable c] {s t u : State} (h : Keeps s t) (k : Keeps s u) : Keeps s (if c then t else u) := by
  split <;> assumption

/-- A new value of a part keeps what its old value kept. -/
structure PartKeeps (s t : State) : Prop where
  hatches : s.hatches.length = 4 → t.hatches.length = 4
  hosts : s.host.mems.length = 4 → t.host.mems.length = 4
  ports : s.fabric.ports.length = 48 → t.fabric.ports.length = 48
  ledger : s.faults.ledger.length = 16 → t.faults.ledger.length = 16
  units : s.faults.units.length = 100 → t.faults.units.length = 100
  pairs : s.faults.pairs.length = 10 → t.faults.pairs.length = 10
  comparators : s.power.comparators.length = 8 → t.power.comparators.length = 8
  shelf : Memory.wf s.shelf.mem = true → Memory.wf t.shelf.mem = true
  store : Memory.wf s.store.mem = true → Memory.wf t.store.mem = true
  cellar : Memory.wf s.cellar.mem = true → Memory.wf t.cellar.mem = true
  galley : Memory.wf s.galley.mem = true → Memory.wf t.galley.mem = true
  hostMems : s.host.mems.all Memory.wf = true → t.host.mems.all Memory.wf = true

theorem Keeps.of_parts {s t u : State} (h : Keeps s t) (hq : u.pending = t.pending) (p : PartKeeps t u) : Keeps s u where
  queue := hq.trans h.queue
  fixed := fun x =>
    let y := h.fixed x
    ⟨p.hatches y.hatches, p.hosts y.hosts, p.ports y.ports, p.ledger y.ledger, p.units y.units, p.pairs y.pairs,
      p.comparators y.comparators⟩
  canonical := fun x =>
    let y := h.canonical x
    ⟨p.shelf y.shelf, p.store y.store, p.cellar y.cellar, p.galley y.galley, p.hostMems y.hosts⟩

/-- An update of the parts of which the invariants say nothing. -/
theorem Keeps.upd {s t : State} (h : Keeps s t) (startup : Startup) (clk : Clock) (time : TimeSt) (quoin : Quoin)
    (runs : List ProgRun) (plates : Plates) (insts : Table Inst) (endpoints : Table Endpoint) (sched : Sched) (dlv : Delivery)
    (ether : Ether) (collDev : CollDev) (misc : Misc) (fns : List (Fn × FnCfg)) (steward : Steward) (boot : Boot) (spdm : Spdm)
    (pins : BoardPins) (out : List Out) (freeCount ord : Nat) (watch : Option (List (Nat × Nat × Nat))) :
    Keeps s { t with
      startup := startup, clk := clk, time := time, quoin := quoin, runs := runs, plates := plates, insts := insts,
      endpoints := endpoints, sched := sched, dlv := dlv, ether := ether, collDev := collDev, misc := misc, fns := fns,
      steward := steward, boot := boot, spdm := spdm, pins := pins, out := out,
      freeCount := freeCount, ord := ord, watch := watch } :=
  h.of_parts rfl ⟨id, id, id, id, id, id, id, id, id, id, id, id⟩

/-- An update of parts with invariants, each of which is kept. -/
theorem Keeps.updAll {s t : State} {startup : Startup} {clk : Clock} {time : TimeSt} {quoin : Quoin} {runs : List ProgRun}
    {plates : Plates} {shelf store cellar : TierSt} {galley : Galley} {host : HostSide} {insts : Table Inst}
    {endpoints : Table Endpoint} {sched : Sched} {fabric : Fabric} {dlv : Delivery} {ether : Ether} {collDev : CollDev}
    {misc : Misc} {hatches : List Hatch} {fns : List (Fn × FnCfg)} {steward : Steward} {faults : Faults} {power : Power}
    {boot : Boot} {spdm : Spdm} {pins : BoardPins} {out : List Out} {freeCount ord : Nat}
    {watch : Option (List (Nat × Nat × Nat))} (h : Keeps s t)
    (p1 : t.hatches.length = 4 → hatches.length = 4) (p2 : t.host.mems.length = 4 → host.mems.length = 4)
    (p3 : t.fabric.ports.length = 48 → fabric.ports.length = 48) (p4 : t.faults.ledger.length = 16 → faults.ledger.length = 16)
    (p5 : t.faults.units.length = 100 → faults.units.length = 100) (p6 : t.faults.pairs.length = 10 → faults.pairs.length = 10)
    (p7 : t.power.comparators.length = 8 → power.comparators.length = 8)
    (p8 : Memory.wf t.shelf.mem = true → Memory.wf shelf.mem = true)
    (p9 : Memory.wf t.store.mem = true → Memory.wf store.mem = true)
    (p10 : Memory.wf t.cellar.mem = true → Memory.wf cellar.mem = true)
    (p11 : Memory.wf t.galley.mem = true → Memory.wf galley.mem = true)
    (p12 : t.host.mems.all Memory.wf = true → host.mems.all Memory.wf = true) :
    Keeps s { t with
      startup := startup, clk := clk, time := time, quoin := quoin, runs := runs, plates := plates, shelf := shelf,
      store := store, cellar := cellar, galley := galley, host := host, insts := insts, endpoints := endpoints,
      sched := sched, fabric := fabric, dlv := dlv, ether := ether, collDev := collDev, misc := misc, hatches := hatches,
      fns := fns, steward := steward, faults := faults, power := power, boot := boot, spdm := spdm, pins := pins, out := out,
      freeCount := freeCount, ord := ord, watch := watch } :=
  h.of_parts rfl ⟨p1, p2, p3, p4, p5, p6, p7, p8, p9, p10, p11, p12⟩

/-! ### The named updates -/

theorem keeps_modInst {s t : State} (h : Keeps s t) (i : Nat) (f : Inst → Inst) : Keeps s (modInst i f t) := h.upd ..
theorem keeps_modRegs {s t : State} (h : Keeps s t) (i : Nat) (f : PageRegs → PageRegs) : Keeps s (modRegs i f t) := h.upd ..
theorem keeps_modQueue {s t : State} (h : Keeps s t) (i q : Nat) (f : Queue → Queue) : Keeps s (modQueue i q f t) := h.upd ..
theorem keeps_modFn {s t : State} (h : Keeps s t) (n : Fn) (f : FnCfg → FnCfg) : Keeps s (modFn n f t) := h.upd ..
theorem keeps_modTime {s t : State} (h : Keeps s t) (f : TimeSt → TimeSt) : Keeps s (modTime f t) := h.upd ..
theorem keeps_modQuoin {s t : State} (h : Keeps s t) (f : Quoin → Quoin) : Keeps s (modQuoin f t) := h.upd ..
theorem keeps_modBoot {s t : State} (h : Keeps s t) (f : Boot → Boot) : Keeps s (modBoot f t) := h.upd ..
theorem keeps_modDlv {s t : State} (h : Keeps s t) (f : Delivery → Delivery) : Keeps s (modDlv f t) := h.upd ..
theorem keeps_modEther {s t : State} (h : Keeps s t) (f : Ether → Ether) : Keeps s (modEther f t) := h.upd ..
theorem keeps_modCollDev {s t : State} (h : Keeps s t) (f : CollDev → CollDev) : Keeps s (modCollDev f t) := h.upd ..
theorem keeps_modSteward {s t : State} (h : Keeps s t) (f : Steward → Steward) : Keeps s (modSteward f t) := h.upd ..
theorem keeps_modMisc {s t : State} (h : Keeps s t) (f : Misc → Misc) : Keeps s (modMisc f t) := h.upd ..
theorem keeps_modSpdm {s t : State} (h : Keeps s t) (f : Spdm → Spdm) : Keeps s (modSpdm f t) := h.upd ..

theorem keeps_modHatch {s t : State} (h : Keeps s t) (k : Nat) (f : Hatch → Hatch) : Keeps s (modHatch k f t) :=
  h.of_parts rfl ⟨by simp, id, id, id, id, id, id, id, id, id, id, id⟩

theorem keeps_modPort {s t : State} (h : Keeps s t) (p : Nat) (f : Port → Port) : Keeps s (modPort p f t) :=
  h.of_parts rfl ⟨id, id, by simp [modPort], id, id, id, id, id, id, id, id, id⟩

theorem keeps_modFabric {s t : State} (h : Keeps s t) {f : Fabric → Fabric}
    (hf : t.fabric.ports.length = 48 → (f t.fabric).ports.length = 48) : Keeps s (modFabric f t) :=
  h.of_parts rfl ⟨id, id, hf, id, id, id, id, id, id, id, id, id⟩

theorem keeps_modFaults {s t : State} (h : Keeps s t) {f : Faults → Faults}
    (h1 : t.faults.ledger.length = 16 → (f t.faults).ledger.length = 16)
    (h2 : t.faults.units.length = 100 → (f t.faults).units.length = 100)
    (h3 : t.faults.pairs.length = 10 → (f t.faults).pairs.length = 10) : Keeps s (modFaults f t) :=
  h.of_parts rfl ⟨id, id, id, h1, h2, h3, id, id, id, id, id, id⟩

theorem keeps_modPower {s t : State} (h : Keeps s t) {f : Power → Power}
    (hf : t.power.comparators.length = 8 → (f t.power).comparators.length = 8) : Keeps s (modPower f t) :=
  h.of_parts rfl ⟨id, id, id, id, id, id, hf, id, id, id, id, id⟩

theorem keeps_modGalley {s t : State} (h : Keeps s t) {f : Galley → Galley}
    (hf : Memory.wf t.galley.mem = true → Memory.wf (f t.galley).mem = true) : Keeps s (modGalley f t) :=
  h.of_parts rfl ⟨id, id, id, id, id, id, id, id, id, id, hf, id⟩

theorem keeps_modTier {s t : State} (h : Keeps s t) (k : Tier) {f : TierSt → TierSt}
    (hf : Memory.wf (getTier t k).mem = true → Memory.wf (f (getTier t k)).mem = true) : Keeps s (modTier k f t) := by
  cases k
  · exact h.of_parts rfl ⟨id, id, id, id, id, id, id, hf, id, id, id, id⟩
  · exact h.of_parts rfl ⟨id, id, id, id, id, id, id, id, hf, id, id, id⟩
  · exact h.of_parts rfl ⟨id, id, id, id, id, id, id, id, id, hf, id, id⟩

@[simp] theorem setBad_mem (b : BadLine) (x : TierSt) : (setBad b x).mem = x.mem := by
  unfold setBad; dsimp only; split <;> rfl

@[simp] theorem replaceRow_mem (s : State) (t : Tier) (line : Nat) (x : TierSt) : (replaceRow s t line x).mem = x.mem := rfl

theorem wf_touch (off : Nat) {x : TierSt} (h : Memory.wf x.mem = true) : Memory.wf (touch off x).mem = true := by
  unfold touch
  split
  · exact h
  · exact wf_clearBytes _ _ h

theorem wf_touches (l : List Nat) {x : TierSt} (h : Memory.wf x.mem = true) :
    Memory.wf (l.foldl (fun z k => touch (k * 64) z) x).mem = true := by
  induction l generalizing x with
  | nil => exact h
  | cons k l ih => exact ih (wf_touch _ h)

theorem wf_setBads (l : List Nat) (f : TierSt → Nat → BadLine) {x : TierSt} (h : Memory.wf x.mem = true) :
    Memory.wf (l.foldl (fun y k => setBad (f y k) y) x).mem = true := by
  induction l generalizing x with
  | nil => exact h
  | cons k l ih => exact ih (by rw [setBad_mem]; exact h)

/-! ### Repetition -/

theorem Keeps.foldl {α : Type} {s t : State} (h : Keeps s t) (l : List α) (f : State → α → State)
    (hf : ∀ a u, Keeps s u → Keeps s (f u a)) : Keeps s (l.foldl f t) := by
  induction l generalizing t with
  | nil => exact h
  | cons a l ih => exact ih (hf a t h)

theorem Keeps.foldl_snd {α β : Type} {s : State} {p : β × State} (h : Keeps s p.2) (l : List α) (f : β × State → α → β × State)
    (hf : ∀ a q, Keeps s q.2 → Keeps s (f q a).2) : Keeps s (l.foldl f p).2 := by
  induction l generalizing p with
  | nil => exact h
  | cons a l ih => exact ih (hf a p h)

theorem Keeps.foldl_snd₂ {α β γ : Type} {s : State} {p : β × γ × State} (h : Keeps s p.2.2) (l : List α)
    (f : β × γ × State → α → β × γ × State) (hf : ∀ a q, Keeps s q.2.2 → Keeps s (f q a).2.2) : Keeps s (l.foldl f p).2.2 := by
  induction l generalizing p with
  | nil => exact h
  | cons a l ih => exact ih (hf a p h)

theorem Keeps.each {α : Type} {s t : State} (h : Keeps s t) (l : List α) {f : α → State → State}
    (hf : ∀ a u, Keeps s u → Keeps s (f a u)) : Keeps s (each l f t) := h.foldl l _ hf

theorem Keeps.when_ {s t : State} (h : Keeps s t) (b : Bool) {f : State → State} (hf : ∀ u, Keeps s u → Keeps s (f u)) :
    Keeps s (when_ b f t) := by
  unfold Machine.when_; split
  · exact hf t h
  · exact h

/-- Host memory after a change of one host's bytes. -/
theorem all_wf_modAt {l : List Mem} (k : Nat) {f : Mem → Mem} (hf : ∀ m, Memory.wf m = true → Memory.wf (f m) = true)
    (h : l.all Memory.wf = true) : (modAt l k f).all Memory.wf = true := by
  induction l generalizing k with
  | nil => cases k <;> rfl
  | cons m l ih =>
    simp only [List.all_cons, Bool.and_eq_true] at h
    cases k with
    | zero => simp only [modAt, List.all_cons, Bool.and_eq_true]; exact ⟨hf m h.1, h.2⟩
    | succ k => simp only [modAt, List.all_cons, Bool.and_eq_true]; exact ⟨h.1, ih k h.2⟩

end Sys2Proof.Machine
end

