-- ==== Sys2Proof/Laws/KeepClock.lean ====
section
/-! SUPPORT. What the operations of Machine/Clock.lean keep (Laws/Keeps.lean). -/
namespace Sys2Proof.Machine

theorem keeps_pass {s t : State} (h : Keeps s t) (a0) : Keeps s (pass a0 t) := by
  unfold pass
  iterate 40 try any_goals first
    | with_reducible assumption
    | with_reducible refine Keeps.snd (by with_reducible assumption) ?_
    | (intro _)
    | split
    | dsimp only
    | with_reducible refine Keeps.upd ?_ ..

theorem keeps_waitMono {s t : State} (h : Keeps s t) (a0) : Keeps s (waitMono a0 t) := by
  unfold waitMono
  iterate 40 try any_goals first
    | with_reducible assumption
    | with_reducible refine keeps_pass ?_ ..
    | with_reducible refine Keeps.snd (by with_reducible assumption) ?_
    | (intro _)
    | split
    | dsimp only

theorem keeps_waitPtp {s t : State} (h : Keeps s t) (a0) : Keeps s (waitPtp a0 t) := by
  unfold waitPtp
  iterate 40 try any_goals first
    | with_reducible assumption
    | with_reducible refine Keeps.snd (by with_reducible assumption) ?_
    | (intro _)
    | split
    | dsimp only
    | with_reducible refine Keeps.upd ?_ ..

theorem keeps_idle {s t : State} (h : Keeps s t) : Keeps s (idle t) := by
  unfold idle
  iterate 40 try any_goals first
    | with_reducible assumption
    | with_reducible refine keeps_pass ?_ ..
    | with_reducible refine Keeps.snd (by with_reducible assumption) ?_
    | (intro _)
    | split
    | dsimp only

theorem keeps_emit {s t : State} (h : Keeps s t) (a0) : Keeps s (emit a0 t) := by
  unfold emit
  iterate 40 try any_goals first
    | with_reducible assumption
    | with_reducible refine Keeps.snd (by with_reducible assumption) ?_
    | (intro _)
    | split
    | dsimp only
    | with_reducible refine Keeps.upd ?_ ..

theorem keeps_freeBytes {s t : State} (h : Keeps s t) (a0) : Keeps s (freeBytes a0 t).2 := by
  unfold freeBytes
  iterate 40 try any_goals first
    | with_reducible assumption
    | with_reducible refine Keeps.snd (by with_reducible assumption) ?_
    | (intro _)
    | split
    | dsimp only
    | with_reducible refine Keeps.upd ?_ ..

theorem keeps_freeWord {s t : State} (h : Keeps s t) : Keeps s (freeWord t).2 := by
  unfold freeWord
  iterate 40 try any_goals first
    | with_reducible assumption
    | with_reducible refine Keeps.snd (by with_reducible assumption) ?_
    | (intro _)
    | split
    | dsimp only
    | with_reducible refine Keeps.upd ?_ ..

theorem keeps_takeOrd {s t : State} (h : Keeps s t) : Keeps s (takeOrd t).2 := by
  unfold takeOrd
  iterate 40 try any_goals first
    | with_reducible assumption
    | with_reducible refine Keeps.snd (by with_reducible assumption) ?_
    | (intro _)
    | split
    | dsimp only
    | with_reducible refine Keeps.upd ?_ ..

end Sys2Proof.Machine
end

