-- ==== Sys2Proof/Laws/KeepMemory.lean ====
section
/-! SUPPORT. What the operations of Machine/Memory.lean keep (Laws/Keeps.lean). -/
namespace Sys2Proof.Machine

theorem keeps_countCorrection {s t : State} (h : Keeps s t) (a0 : Tier) (a1 a2 : Nat) (a3 : TierSt)
    (hx : Memory.wf (getTier t a0).mem = true → Memory.wf a3.mem = true) : Keeps s (countCorrection a0 a1 a2 a3 t).2 := by
  unfold countCorrection
  dsimp only
  split <;> dsimp only <;> refine keeps_modTier h _ ?_
  · exact fun x => (congrArg Memory.wf (replaceRow_mem ..)).trans (hx x)
  · exact fun x => hx x

theorem keeps_correctLine {s t : State} (h : Keeps s t) (a0) (a1) : Keeps s (correctLine a0 a1 t).2 := by
  unfold correctLine
  iterate 40 try any_goals first
    | with_reducible assumption
    | with_reducible refine keeps_countCorrection ?_ _ _ _ _ ?_
    | with_reducible refine Keeps.snd (by with_reducible assumption) ?_
    | with_reducible refine wf_wrBytes _ _ ?_
    | with_reducible refine wf_clearBytes _ _ ?_
    | with_reducible refine wf_touch _ ?_
    | with_reducible refine wf_touches _ ?_
    | rw [setBad_mem]
    | (intro _; simp_all; done)
    | (intro _)
    | split
    | dsimp only

theorem keeps_repairTwin {s t : State} (h : Keeps s t) (a0) (a1) : Keeps s (repairTwin a0 a1 t).2 := by
  unfold repairTwin
  iterate 40 try any_goals first
    | with_reducible assumption
    | with_reducible refine keeps_modTier ?_ _ ?_
    | with_reducible refine Keeps.snd (by with_reducible assumption) ?_
    | with_reducible refine wf_wrBytes _ _ ?_
    | with_reducible refine wf_clearBytes _ _ ?_
    | with_reducible refine wf_touch _ ?_
    | with_reducible refine wf_touches _ ?_
    | rw [setBad_mem]
    | (intro _; simp_all; done)
    | (intro _)
    | split
    | dsimp only

theorem keeps_readLine {s t : State} (h : Keeps s t) (a0) (a1) (a2) : Keeps s (readLine a0 a1 a2 t).2 := by
  unfold readLine
  iterate 40 try any_goals first
    | with_reducible assumption
    | with_reducible refine keeps_modTier ?_ _ ?_
    | with_reducible refine keeps_correctLine ?_ ..
    | with_reducible refine keeps_repairTwin ?_ ..
    | with_reducible refine Keeps.snd (by with_reducible assumption) ?_
    | with_reducible refine wf_wrBytes _ _ ?_
    | with_reducible refine wf_clearBytes _ _ ?_
    | with_reducible refine wf_touch _ ?_
    | with_reducible refine wf_touches _ ?_
    | rw [setBad_mem]
    | (intro _; simp_all; done)
    | (intro _)
    | split
    | dsimp only

theorem keeps_readTier {s t : State} (h : Keeps s t) (a0) (a1) (a2) (a3) : Keeps s (readTier a0 a1 a2 a3 t).2 := by
  unfold readTier
  iterate 40 try any_goals first
    | with_reducible assumption
    | with_reducible refine keeps_readLine ?_ ..
    | with_reducible refine Keeps.snd (by with_reducible assumption) ?_
    | with_reducible refine Keeps.foldl_snd ?_ _ _ (fun _ _ _ => ?_)
    | with_reducible refine Keeps.foldl ?_ _ _ (fun _ _ _ => ?_)
    | (intro _)
    | split
    | dsimp only

theorem keeps_clearedLine {s t : State} (h : Keeps s t) (a0) (a1) : Keeps s (clearedLine a0 a1 t).2 := by
  unfold clearedLine
  iterate 40 try any_goals first
    | with_reducible assumption
    | with_reducible refine keeps_correctLine ?_ ..
    | with_reducible refine keeps_modTier ?_ _ ?_
    | with_reducible refine Keeps.snd (by with_reducible assumption) ?_
    | with_reducible refine wf_wrBytes _ _ ?_
    | with_reducible refine wf_clearBytes _ _ ?_
    | with_reducible refine wf_touch _ ?_
    | with_reducible refine wf_touches _ ?_
    | rw [setBad_mem]
    | (intro _; simp_all; done)
    | (intro _)
    | split
    | dsimp only

theorem keeps_clearGranule {s t : State} (h : Keeps s t) (a0) (a1) : Keeps s (clearGranule a0 a1 t).2 := by
  unfold clearGranule
  iterate 40 try any_goals first
    | with_reducible assumption
    | with_reducible refine keeps_clearedLine ?_ ..
    | with_reducible refine keeps_modTier ?_ _ ?_
    | with_reducible refine Keeps.snd (by with_reducible assumption) ?_
    | with_reducible refine Keeps.foldl_snd ?_ _ _ (fun _ _ _ => ?_)
    | with_reducible refine Keeps.foldl ?_ _ _ (fun _ _ _ => ?_)
    | with_reducible refine wf_wrBytes _ _ ?_
    | with_reducible refine wf_clearBytes _ _ ?_
    | with_reducible refine wf_touch _ ?_
    | with_reducible refine wf_touches _ ?_
    | rw [setBad_mem]
    | (intro _; simp_all; done)
    | (intro _)
    | split
    | dsimp only

theorem keeps_freedRow {s t : State} (h : Keeps s t) (a0) (a1) : Keeps s (freedRow a0 a1 t).2 := by
  unfold freedRow
  iterate 40 try any_goals first
    | with_reducible assumption
    | with_reducible refine keeps_modTier ?_ _ ?_
    | with_reducible refine Keeps.snd (by with_reducible assumption) ?_
    | with_reducible refine wf_wrBytes _ _ ?_
    | with_reducible refine wf_clearBytes _ _ ?_
    | with_reducible refine wf_touch _ ?_
    | with_reducible refine wf_touches _ ?_
    | rw [setBad_mem]
    | (intro _; simp_all; done)
    | (intro _)
    | split
    | dsimp only

theorem keeps_writeLine {s t : State} (h : Keeps s t) (a0) (a1) (a2) (a3) : Keeps s (writeLine a0 a1 a2 a3 t).2 := by
  unfold writeLine
  iterate 40 try any_goals first
    | with_reducible assumption
    | with_reducible refine keeps_modTier ?_ _ ?_
    | with_reducible refine keeps_correctLine ?_ ..
    | with_reducible refine keeps_freedRow ?_ ..
    | with_reducible refine Keeps.snd (by with_reducible assumption) ?_
    | with_reducible refine wf_wrBytes _ _ ?_
    | with_reducible refine wf_clearBytes _ _ ?_
    | with_reducible refine wf_touch _ ?_
    | with_reducible refine wf_touches _ ?_
    | rw [setBad_mem]
    | (intro _; simp_all; done)
    | (intro _)
    | split
    | dsimp only

theorem keeps_noteWrite {s t : State} (h : Keeps s t) (a0) (a1) (a2) : Keeps s (noteWrite a0 a1 a2 t) := by
  unfold noteWrite
  iterate 40 try any_goals first
    | with_reducible assumption
    | with_reducible refine Keeps.snd (by with_reducible assumption) ?_
    | (intro _)
    | split
    | dsimp only
    | with_reducible refine Keeps.upd ?_ ..

theorem keeps_writeTier {s t : State} (h : Keeps s t) (a0) (a1) (a2) (a3) : Keeps s (writeTier a0 a1 a2 a3 t).2 := by
  unfold writeTier
  iterate 40 try any_goals first
    | with_reducible assumption
    | with_reducible refine keeps_writeLine ?_ ..
    | with_reducible refine keeps_noteWrite ?_ ..
    | with_reducible refine Keeps.snd (by with_reducible assumption) ?_
    | with_reducible refine Keeps.foldl_snd ?_ _ _ (fun _ _ _ => ?_)
    | with_reducible refine Keeps.foldl ?_ _ _ (fun _ _ _ => ?_)
    | (intro _)
    | split
    | dsimp only

theorem keeps_cacheAts {s t : State} (h : Keeps s t) (a0) (a1) (a2) (a3) : Keeps s (cacheAts a0 a1 a2 a3 t) := by
  unfold cacheAts
  iterate 40 try any_goals first
    | with_reducible assumption
    | with_reducible refine keeps_modHatch ?_ ..
    | with_reducible refine Keeps.snd (by with_reducible assumption) ?_
    | with_reducible refine Keeps.foldl_snd ?_ _ _ (fun _ _ _ => ?_)
    | with_reducible refine Keeps.foldl ?_ _ _ (fun _ _ _ => ?_)
    | (intro _)
    | split
    | dsimp only

theorem keeps_countAts {s t : State} (h : Keeps s t) (a0) : Keeps s (countAts a0 t) := by
  unfold countAts
  iterate 40 try any_goals first
    | with_reducible assumption
    | with_reducible refine keeps_modHatch ?_ ..
    | with_reducible refine Keeps.snd (by with_reducible assumption) ?_
    | (intro _)
    | split
    | dsimp only

theorem keeps_countHatchErr {s t : State} (h : Keeps s t) (a0) (a1) : Keeps s (countHatchErr a0 a1 t) := by
  unfold countHatchErr
  iterate 40 try any_goals first
    | with_reducible assumption
    | with_reducible refine keeps_modHatch ?_ ..
    | with_reducible refine Keeps.snd (by with_reducible assumption) ?_
    | (intro _)
    | split
    | dsimp only

theorem keeps_readHost {s t : State} (h : Keeps s t) (a0) (a1) (a2) : Keeps s (readHost a0 a1 a2 t).2 := by
  unfold readHost
  iterate 40 try any_goals first
    | with_reducible assumption
    | with_reducible refine keeps_countAts ?_ ..
    | with_reducible refine keeps_countHatchErr ?_ ..
    | with_reducible refine keeps_cacheAts ?_ ..
    | with_reducible refine Keeps.snd (by with_reducible assumption) ?_
    | (intro _)
    | split
    | dsimp only

theorem keeps_putHost {s t : State} (h : Keeps s t) (a0 a1 : Nat) (bs : List Byte) : Keeps s (putHost a0 a1 bs t) := by
  unfold putHost
  refine keeps_noteWrite ?_ _ _ _
  refine h.of_parts rfl ?_
  exact ⟨id, by simp, id, id, id, id, id, id, id, id, id, all_wf_modAt _ fun _ => wf_wrBytes _ _⟩

theorem keeps_putAllowed {s t : State} (h : Keeps s t) (a0) (a1) (a2) : Keeps s (putAllowed a0 a1 a2 t) := by
  unfold putAllowed
  iterate 40 try any_goals first
    | with_reducible assumption
    | with_reducible refine keeps_putHost ?_ ..
    | with_reducible refine Keeps.snd (by with_reducible assumption) ?_
    | with_reducible refine Keeps.foldl_snd ?_ _ _ (fun _ _ _ => ?_)
    | with_reducible refine Keeps.foldl ?_ _ _ (fun _ _ _ => ?_)
    | (intro _)
    | split
    | dsimp only

theorem keeps_writeHost {s t : State} (h : Keeps s t) (a0) (a1) (a2) : Keeps s (writeHost a0 a1 a2 t).2 := by
  unfold writeHost
  iterate 40 try any_goals first
    | with_reducible assumption
    | with_reducible refine keeps_countAts ?_ ..
    | with_reducible refine keeps_putAllowed ?_ ..
    | with_reducible refine keeps_cacheAts ?_ ..
    | with_reducible refine Keeps.snd (by with_reducible assumption) ?_
    | (intro _)
    | split
    | dsimp only

theorem keeps_readSeg {s t : State} (h : Keeps s t) (a0) (a1) (a2) (a3) : Keeps s (readSeg a0 a1 a2 a3 t).2 := by
  unfold readSeg
  iterate 40 try any_goals first
    | with_reducible assumption
    | with_reducible refine keeps_readTier ?_ ..
    | with_reducible refine keeps_readHost ?_ ..
    | with_reducible refine Keeps.snd (by with_reducible assumption) ?_
    | (intro _)
    | split
    | dsimp only

theorem keeps_writeSeg {s t : State} (h : Keeps s t) (a0) (a1) (a2) (a3) : Keeps s (writeSeg a0 a1 a2 a3 t).2 := by
  unfold writeSeg
  iterate 40 try any_goals first
    | with_reducible assumption
    | with_reducible refine keeps_writeTier ?_ ..
    | with_reducible refine keeps_writeHost ?_ ..
    | with_reducible refine Keeps.snd (by with_reducible assumption) ?_
    | (intro _)
    | split
    | dsimp only

theorem keeps_undefSeg {s t : State} (h : Keeps s t) (a0) (a1) (a2) : Keeps s (undefSeg a0 a1 a2 t) := by
  unfold undefSeg
  iterate 40 try any_goals first
    | with_reducible assumption
    | with_reducible refine keeps_freeBytes ?_ ..
    | with_reducible refine keeps_modTier ?_ _ ?_
    | with_reducible refine keeps_noteWrite ?_ ..
    | with_reducible refine keeps_putHost ?_ ..
    | with_reducible refine Keeps.snd (by with_reducible assumption) ?_
    | with_reducible refine Keeps.foldl_snd ?_ _ _ (fun _ _ _ => ?_)
    | with_reducible refine Keeps.foldl ?_ _ _ (fun _ _ _ => ?_)
    | with_reducible refine wf_wrBytes _ _ ?_
    | with_reducible refine wf_clearBytes _ _ ?_
    | with_reducible refine wf_touch _ ?_
    | with_reducible refine wf_touches _ ?_
    | rw [setBad_mem]
    | (intro _; simp_all; done)
    | (intro _)
    | split
    | dsimp only

end Sys2Proof.Machine
end

