-- ==== Sys2Proof/Laws/KeepFaults.lean ====
section
/-! SUPPORT. What the operations of Machine/Faults.lean keep (Laws/Keeps.lean). -/
namespace Sys2Proof.Machine

theorem keeps_sendMsix {s t : State} (h : Keeps s t) (a0) (a1) : Keeps s (sendMsix a0 a1 t) := by
  unfold sendMsix
  iterate 40 try any_goals first
    | with_reducible assumption
    | with_reducible refine keeps_modFn ?_ ..
    | with_reducible refine keeps_modHatch ?_ ..
    | with_reducible refine keeps_emit ?_ ..
    | with_reducible refine Keeps.snd (by with_reducible assumption) ?_
    | (intro _)
    | split
    | dsimp only

theorem keeps_faultInterrupt {s t : State} (h : Keeps s t) : Keeps s (faultInterrupt t) := by
  unfold faultInterrupt
  iterate 40 try any_goals first
    | with_reducible assumption
    | with_reducible refine keeps_sendMsix ?_ ..
    | with_reducible refine Keeps.snd (by with_reducible assumption) ?_
    | (intro _)
    | split
    | dsimp only

theorem keeps_record {s t : State} (h : Keeps s t) (a0) : Keeps s (record a0 t).2 := by
  unfold record
  iterate 40 try any_goals first
    | with_reducible assumption
    | with_reducible exact id
    | with_reducible refine keeps_faultInterrupt ?_ ..
    | with_reducible refine Keeps.snd (by with_reducible assumption) ?_
    | (intro _)
    | split
    | dsimp only
    | with_reducible refine Keeps.updAll ?_ ?_ ?_ ?_ ?_ ?_ ?_ ?_ ?_ ?_ ?_ ?_ ?_
    | (simp; done)
    | (simp_all; done)

theorem keeps_undefDocket {s t : State} (h : Keeps s t) (a0) (a1) (a2) : Keeps s (undefDocket a0 a1 a2 t) := by
  unfold undefDocket
  iterate 40 try any_goals first
    | with_reducible assumption
    | with_reducible refine Keeps.each ?_ _ (fun _ _ _ => ?_)
    | with_reducible refine keeps_undefSeg ?_ ..
    | with_reducible refine Keeps.snd (by with_reducible assumption) ?_
    | (intro _)
    | split
    | dsimp only

theorem keeps_undefTarget {s t : State} (h : Keeps s t) (a0) (a1) (a2) (a3) : Keeps s (undefTarget a0 a1 a2 a3 t) := by
  unfold undefTarget
  iterate 40 try any_goals first
    | with_reducible assumption
    | with_reducible refine keeps_undefSeg ?_ ..
    | with_reducible refine Keeps.snd (by with_reducible assumption) ?_
    | (intro _)
    | split
    | dsimp only

theorem keeps_undefFar {s t : State} (h : Keeps s t) (a0) (a1) : Keeps s (undefFar a0 a1 t) := by
  unfold undefFar
  iterate 40 try any_goals first
    | with_reducible assumption
    | with_reducible refine keeps_undefTarget ?_ ..
    | with_reducible refine Keeps.snd (by with_reducible assumption) ?_
    | (intro _)
    | split
    | dsimp only

theorem keeps_undefQueue {s t : State} (h : Keeps s t) (a0) (a1) : Keeps s (undefQueue a0 a1 t) := by
  unfold undefQueue
  iterate 40 try any_goals first
    | with_reducible assumption
    | with_reducible refine Keeps.each ?_ _ (fun _ _ _ => ?_)
    | with_reducible refine keeps_undefFar ?_ ..
    | with_reducible refine keeps_undefDocket ?_ ..
    | with_reducible refine keeps_undefTarget ?_ ..
    | with_reducible refine Keeps.snd (by with_reducible assumption) ?_
    | (intro _)
    | split
    | dsimp only

theorem keeps_eraseAllKeys {s t : State} (h : Keeps s t) : Keeps s (eraseAllKeys t).2 := by
  unfold eraseAllKeys
  iterate 40 try any_goals first
    | with_reducible assumption
    | with_reducible refine Keeps.snd (by with_reducible assumption) ?_
    | (intro _)
    | split
    | dsimp only
    | with_reducible refine Keeps.upd ?_ ..

theorem keeps_enterSafe {s t : State} (h : Keeps s t) (a0) (a1) : Keeps s (enterSafe a0 a1 t) := by
  unfold enterSafe
  iterate 40 try any_goals first
    | with_reducible assumption
    | with_reducible exact id
    | with_reducible refine Keeps.each ?_ _ (fun _ _ _ => ?_)
    | with_reducible refine keeps_undefQueue ?_ ..
    | with_reducible refine keeps_eraseAllKeys ?_ ..
    | with_reducible refine keeps_record ?_ ..
    | with_reducible refine keeps_emit ?_ ..
    | with_reducible refine keeps_sendMsix ?_ ..
    | with_reducible refine Keeps.snd (by with_reducible assumption) ?_
    | with_reducible refine Keeps.foldl_snd ?_ _ _ (fun _ _ _ => ?_)
    | with_reducible refine Keeps.foldl ?_ _ _ (fun _ _ _ => ?_)
    | (intro _)
    | split
    | dsimp only
    | with_reducible refine Keeps.updAll ?_ ?_ ?_ ?_ ?_ ?_ ?_ ?_ ?_ ?_ ?_ ?_ ?_
    | (simp; done)
    | (simp_all; done)

theorem keeps_latch {s t : State} (h : Keeps s t) (a0) : Keeps s (latch a0 t) := by
  unfold latch
  iterate 40 try any_goals first
    | with_reducible assumption
    | with_reducible refine keeps_record ?_ ..
    | with_reducible refine keeps_enterSafe ?_ ..
    | with_reducible refine Keeps.snd (by with_reducible assumption) ?_
    | (intro _)
    | split
    | dsimp only

theorem keeps_latchAll {s t : State} (h : Keeps s t) (a0) : Keeps s (latchAll a0 t) := by
  unfold latchAll
  iterate 40 try any_goals first
    | with_reducible assumption
    | with_reducible refine Keeps.each ?_ _ (fun _ _ _ => ?_)
    | with_reducible refine keeps_latch ?_ ..
    | with_reducible refine Keeps.snd (by with_reducible assumption) ?_
    | (intro _)
    | split
    | dsimp only

theorem keeps_showPages {s t : State} (h : Keeps s t) : Keeps s (showPages t) := by
  unfold showPages
  iterate 40 try any_goals first
    | with_reducible assumption
    | with_reducible exact id
    | with_reducible refine keeps_modFaults ?_ ?_ ?_ ?_
    | with_reducible refine Keeps.snd (by with_reducible assumption) ?_
    | (simp; done)
    | (intro _; simp_all; done)
    | (simp_all; done)
    | (intro _)
    | split
    | dsimp only
    | with_reducible refine Keeps.updAll ?_ ?_ ?_ ?_ ?_ ?_ ?_ ?_ ?_ ?_ ?_ ?_ ?_
    | (simp; done)
    | (simp_all; done)

theorem keeps_modPress {s t : State} (h : Keeps s t) (a0) : Keeps s (modPress a0 t) := by
  unfold modPress
  iterate 40 try any_goals first
    | with_reducible assumption
    | with_reducible refine Keeps.snd (by with_reducible assumption) ?_
    | (intro _)
    | split
    | dsimp only
    | with_reducible refine Keeps.upd ?_ ..

theorem keeps_completeTakeover {s t : State} (h : Keeps s t) (a0) : Keeps s (completeTakeover a0 t) := by
  unfold completeTakeover
  iterate 40 try any_goals first
    | with_reducible assumption
    | with_reducible refine keeps_modPress ?_ ..
    | with_reducible refine keeps_modFaults ?_ ?_ ?_ ?_
    | with_reducible refine Keeps.snd (by with_reducible assumption) ?_
    | (simp; done)
    | (intro _; simp_all; done)
    | (simp_all; done)
    | (intro _)
    | split
    | dsimp only

theorem keeps_completeTakeovers {s t : State} (h : Keeps s t) : Keeps s (completeTakeovers t) := by
  unfold completeTakeovers
  iterate 40 try any_goals first
    | with_reducible assumption
    | with_reducible refine Keeps.each ?_ _ (fun _ _ _ => ?_)
    | with_reducible refine keeps_completeTakeover ?_ ..
    | with_reducible refine keeps_modFaults ?_ ?_ ?_ ?_
    | with_reducible refine Keeps.snd (by with_reducible assumption) ?_
    | (simp; done)
    | (intro _; simp_all; done)
    | (simp_all; done)
    | (intro _)
    | split
    | dsimp only

theorem keeps_startRecovery {s t : State} (h : Keeps s t) (a0) (a1) (a2) : Keeps s (startRecovery a0 a1 a2 t) := by
  unfold startRecovery
  iterate 40 try any_goals first
    | with_reducible assumption
    | with_reducible refine keeps_modFaults ?_ ?_ ?_ ?_
    | with_reducible refine keeps_modPress ?_ ..
    | with_reducible refine keeps_completeTakeovers ?_ ..
    | with_reducible refine Keeps.snd (by with_reducible assumption) ?_
    | (simp; done)
    | (intro _; simp_all; done)
    | (simp_all; done)
    | (intro _)
    | split
    | dsimp only

theorem keeps_endRecoveries {s t : State} (h : Keeps s t) : Keeps s (endRecoveries t) := by
  unfold endRecoveries
  iterate 40 try any_goals first
    | with_reducible assumption
    | with_reducible refine keeps_modFaults ?_ ?_ ?_ ?_
    | with_reducible refine Keeps.snd (by with_reducible assumption) ?_
    | (simp; done)
    | (intro _; simp_all; done)
    | (simp_all; done)
    | (intro _)
    | split
    | dsimp only

theorem keeps_replaceSpare {s t : State} (h : Keeps s t) (a0) (a1) (a2) : Keeps s (replaceSpare a0 a1 a2 t) := by
  unfold replaceSpare
  iterate 40 try any_goals first
    | with_reducible assumption
    | with_reducible refine keeps_startRecovery ?_ ..
    | with_reducible refine keeps_modFaults ?_ ?_ ?_ ?_
    | with_reducible refine Keeps.snd (by with_reducible assumption) ?_
    | (simp; done)
    | (intro _; simp_all; done)
    | (simp_all; done)
    | (intro _)
    | split
    | dsimp only

theorem keeps_retireUnit {s t : State} (h : Keeps s t) (a0) (a1) : Keeps s (retireUnit a0 a1 t) := by
  unfold retireUnit
  iterate 40 try any_goals first
    | with_reducible assumption
    | with_reducible refine keeps_startRecovery ?_ ..
    | with_reducible refine keeps_replaceSpare ?_ ..
    | with_reducible refine keeps_modFaults ?_ ?_ ?_ ?_
    | with_reducible refine Keeps.snd (by with_reducible assumption) ?_
    | (simp; done)
    | (intro _; simp_all; done)
    | (simp_all; done)
    | (intro _)
    | split
    | dsimp only

end Sys2Proof.Machine
end

