-- ==== Sys2Proof/Laws/KeepServo.lean ====
section
/-! SUPPORT. What the operations of Machine/Servo.lean keep (Laws/Keeps.lean). -/
namespace Sys2Proof.Machine

theorem keeps_letRun {s t : State} (h : Keeps s t) : Keeps s (letRun t) := by
  unfold letRun
  iterate 40 try any_goals first
    | with_reducible assumption
    | with_reducible refine keeps_modTime ?_ ..
    | with_reducible refine Keeps.snd (by with_reducible assumption) ?_
    | (intro _)
    | split
    | dsimp only

theorem keeps_tickArm {s t : State} (h : Keeps s t) : Keeps s (tickArm t) := by
  unfold tickArm
  iterate 40 try any_goals first
    | with_reducible assumption
    | with_reducible refine keeps_modTime ?_ ..
    | with_reducible refine keeps_letRun ?_ ..
    | with_reducible refine Keeps.snd (by with_reducible assumption) ?_
    | (intro _)
    | split
    | dsimp only

theorem keeps_tickDisarm {s t : State} (h : Keeps s t) : Keeps s (tickDisarm t) := by
  unfold tickDisarm
  iterate 40 try any_goals first
    | with_reducible assumption
    | with_reducible refine keeps_modTime ?_ ..
    | with_reducible refine Keeps.snd (by with_reducible assumption) ?_
    | (intro _)
    | split
    | dsimp only

theorem keeps_execTickArm {s t u : State} (h : Keeps s t) (he : execTickArm t = .next u) : Keeps s u := by
  unfold execTickArm at he
  · injection he with he
    subst he
    iterate 40 try any_goals first
      | with_reducible assumption
      | with_reducible refine keeps_tickArm ?_ ..
      | with_reducible refine Keeps.snd (by with_reducible assumption) ?_
      | (intro _)
      | split
      | dsimp only

theorem keeps_execTickDisarm {s t u : State} (h : Keeps s t) (he : execTickDisarm t = .next u) : Keeps s u := by
  unfold execTickDisarm at he
  · injection he with he
    subst he
    iterate 40 try any_goals first
      | with_reducible assumption
      | with_reducible refine keeps_tickDisarm ?_ ..
      | with_reducible refine Keeps.snd (by with_reducible assumption) ?_
      | (intro _)
      | split
      | dsimp only

theorem keeps_moveCounter {s t : State} (h : Keeps s t) (a0) : Keeps s (moveCounter a0 t) := by
  unfold moveCounter
  iterate 40 try any_goals first
    | with_reducible assumption
    | with_reducible refine Keeps.snd (by with_reducible assumption) ?_
    | (intro _)
    | split
    | dsimp only
    | with_reducible refine Keeps.upd ?_ ..

theorem keeps_measure {s t : State} (h : Keeps s t) (a0) : Keeps s (measure a0 t) := by
  unfold measure
  iterate 40 try any_goals first
    | with_reducible assumption
    | with_reducible refine keeps_modTime ?_ ..
    | with_reducible refine keeps_letRun ?_ ..
    | with_reducible refine keeps_moveCounter ?_ ..
    | with_reducible refine Keeps.snd (by with_reducible assumption) ?_
    | (intro _)
    | split
    | dsimp only
    | with_reducible refine Keeps.upd ?_ ..

theorem keeps_sourceChanged {s t : State} (h : Keeps s t) : Keeps s (sourceChanged t) := by
  unfold sourceChanged
  iterate 40 try any_goals first
    | with_reducible assumption
    | with_reducible refine keeps_letRun ?_ ..
    | with_reducible refine keeps_modTime ?_ ..
    | with_reducible refine Keeps.snd (by with_reducible assumption) ?_
    | (intro _)
    | split
    | dsimp only
    | with_reducible refine Keeps.upd ?_ ..

theorem keeps_stamp {s t : State} (h : Keeps s t) (a0) : Keeps s (stamp a0 t).2 := by
  unfold stamp
  iterate 40 try any_goals first
    | with_reducible assumption
    | with_reducible refine Keeps.snd (by with_reducible assumption) ?_
    | (intro _)
    | split
    | dsimp only
    | with_reducible refine Keeps.upd ?_ ..

theorem keeps_ppsIn {s t : State} (h : Keeps s t) : Keeps s (ppsIn t) := by
  unfold ppsIn
  iterate 40 try any_goals first
    | with_reducible assumption
    | with_reducible refine keeps_measure ?_ ..
    | with_reducible refine Keeps.snd (by with_reducible assumption) ?_
    | (intro _)
    | split
    | dsimp only
    | with_reducible refine Keeps.upd ?_ ..

theorem keeps_execPpsInEdge {s t u : State} (h : Keeps s t) (he : execPpsInEdge t = .next u) : Keeps s u := by
  unfold execPpsInEdge at he
  · injection he with he
    subst he
    iterate 40 try any_goals first
      | with_reducible assumption
      | with_reducible refine keeps_ppsIn ?_ ..
      | with_reducible refine Keeps.snd (by with_reducible assumption) ?_
      | (intro _)
      | split
      | dsimp only

theorem keeps_ppsOut {s t : State} (h : Keeps s t) : Keeps s (ppsOut t) := by
  unfold ppsOut
  iterate 40 try any_goals first
    | with_reducible assumption
    | with_reducible refine keeps_emit ?_ ..
    | with_reducible refine keeps_modTime ?_ ..
    | with_reducible refine keeps_waitPtp ?_ ..
    | with_reducible refine Keeps.snd (by with_reducible assumption) ?_
    | (intro _)
    | split
    | dsimp only

theorem keeps_execPpsOutPulse {s t u : State} (h : Keeps s t) (he : execPpsOutPulse t = .next u) : Keeps s u := by
  unfold execPpsOutPulse at he
  · injection he with he
    subst he
    iterate 40 try any_goals first
      | with_reducible assumption
      | with_reducible refine keeps_ppsOut ?_ ..
      | with_reducible refine Keeps.snd (by with_reducible assumption) ?_
      | (intro _)
      | split
      | dsimp only

theorem keeps_latchHoldover {s t : State} (h : Keeps s t) : Keeps s (latchHoldover t) := by
  unfold latchHoldover
  iterate 40 try any_goals first
    | with_reducible assumption
    | with_reducible refine keeps_latch ?_ ..
    | with_reducible refine keeps_modTime ?_ ..
    | with_reducible refine Keeps.snd (by with_reducible assumption) ?_
    | (intro _)
    | split
    | dsimp only

theorem keeps_servoHoldover {s t : State} (h : Keeps s t) : Keeps s (servoHoldover t) := by
  unfold servoHoldover
  iterate 40 try any_goals first
    | with_reducible assumption
    | with_reducible refine keeps_waitMono ?_ ..
    | with_reducible refine keeps_latch ?_ ..
    | with_reducible refine keeps_modTime ?_ ..
    | with_reducible refine keeps_latchHoldover ?_ ..
    | with_reducible refine Keeps.snd (by with_reducible assumption) ?_
    | (intro _)
    | split
    | dsimp only

theorem keeps_execServoHoldover {s t u : State} (h : Keeps s t) (he : execServoHoldover t = .next u) : Keeps s u := by
  unfold execServoHoldover at he
  · injection he with he
    subst he
    iterate 40 try any_goals first
      | with_reducible assumption
      | with_reducible refine keeps_servoHoldover ?_ ..
      | with_reducible refine Keeps.snd (by with_reducible assumption) ?_
      | (intro _)
      | split
      | dsimp only

theorem keeps_holdoverExpiry {s t : State} (h : Keeps s t) : Keeps s (holdoverExpiry t) := by
  unfold holdoverExpiry
  iterate 40 try any_goals first
    | with_reducible assumption
    | with_reducible refine keeps_latchHoldover ?_ ..
    | with_reducible refine keeps_waitMono ?_ ..
    | with_reducible refine Keeps.snd (by with_reducible assumption) ?_
    | (intro _)
    | split
    | dsimp only

theorem keeps_execHoldoverLimitExpiry {s t u : State} (h : Keeps s t) (he : execHoldoverLimitExpiry t = .next u) : Keeps s u := by
  unfold execHoldoverLimitExpiry at he
  · injection he with he
    subst he
    iterate 40 try any_goals first
      | with_reducible assumption
      | with_reducible refine keeps_holdoverExpiry ?_ ..
      | with_reducible refine Keeps.snd (by with_reducible assumption) ?_
      | (intro _)
      | split
      | dsimp only

end Sys2Proof.Machine
end

