-- ==== Sys2Proof/Laws/KeepOps.lean ====
section
/-! SUPPORT. What the operations of Machine/Ops.lean keep (Laws/Keeps.lean). -/
namespace Sys2Proof.Machine

theorem keeps_sendPme {s t : State} (h : Keeps s t) (a0) : Keeps s (sendPme a0 t) := by
  unfold sendPme
  iterate 40 try any_goals first
    | with_reducible assumption
    | with_reducible refine keeps_emit ?_ ..
    | with_reducible refine keeps_modHatch ?_ ..
    | with_reducible refine Keeps.snd (by with_reducible assumption) ?_
    | (intro _)
    | split
    | dsimp only

theorem keeps_flushOther {s t : State} (h : Keeps s t) (a0) (a1) : Keeps s (flushOther a0 a1 t) := by
  unfold flushOther
  iterate 40 try any_goals first
    | with_reducible assumption
    | with_reducible refine Keeps.each ?_ _ (fun _ _ _ => ?_)
    | with_reducible refine keeps_emit ?_ ..
    | with_reducible refine Keeps.snd (by with_reducible assumption) ?_
    | with_reducible refine Keeps.foldl_snd ?_ _ _ (fun _ _ _ => ?_)
    | with_reducible refine Keeps.foldl ?_ _ _ (fun _ _ _ => ?_)
    | (intro _)
    | split
    | dsimp only

theorem keeps_raiseQueue {s t : State} (h : Keeps s t) (a0) (a1) : Keeps s (raiseQueue a0 a1 t) := by
  unfold raiseQueue
  iterate 40 try any_goals first
    | with_reducible assumption
    | with_reducible refine keeps_modQueue ?_ ..
    | with_reducible refine keeps_sendPme ?_ ..
    | with_reducible refine keeps_modFn ?_ ..
    | with_reducible refine keeps_sendMsix ?_ ..
    | with_reducible refine keeps_flushOther ?_ ..
    | with_reducible refine Keeps.snd (by with_reducible assumption) ?_
    | (intro _)
    | split
    | dsimp only

theorem keeps_countReceipt {s t : State} (h : Keeps s t) (a0) (a1) : Keeps s (countReceipt a0 a1 t) := by
  unfold countReceipt
  iterate 40 try any_goals first
    | with_reducible assumption
    | with_reducible refine keeps_modQueue ?_ ..
    | with_reducible refine keeps_raiseQueue ?_ ..
    | with_reducible refine Keeps.snd (by with_reducible assumption) ?_
    | (intro _)
    | split
    | dsimp only

theorem keeps_writeReceipt {s t : State} (h : Keeps s t) (a0) (a1) (a2) : Keeps s (writeReceipt a0 a1 a2 t) := by
  unfold writeReceipt
  iterate 40 try any_goals first
    | with_reducible assumption
    | with_reducible refine keeps_writeSeg ?_ ..
    | with_reducible refine keeps_modQueue ?_ ..
    | with_reducible refine keeps_modInst ?_ ..
    | with_reducible refine keeps_countReceipt ?_ ..
    | with_reducible refine Keeps.snd (by with_reducible assumption) ?_
    | (intro _)
    | split
    | dsimp only

theorem keeps_clearOwn {s t : State} (h : Keeps s t) (a0) (a1) (a2) : Keeps s (clearOwn a0 a1 a2 t) := by
  unfold clearOwn
  iterate 40 try any_goals first
    | with_reducible assumption
    | with_reducible refine keeps_readSeg ?_ ..
    | with_reducible refine keeps_writeSeg ?_ ..
    | with_reducible refine Keeps.snd (by with_reducible assumption) ?_
    | (intro _)
    | split
    | dsimp only

theorem keeps_writeEnd {s t : State} (h : Keeps s t) (a0) (a1) (a2) : Keeps s (writeEnd a0 a1 a2 t) := by
  unfold writeEnd
  iterate 40 try any_goals first
    | with_reducible assumption
    | with_reducible refine keeps_modQueue ?_ ..
    | with_reducible refine keeps_writeReceipt ?_ ..
    | with_reducible refine keeps_clearOwn ?_ ..
    | with_reducible refine Keeps.snd (by with_reducible assumption) ?_
    | (intro _)
    | split
    | dsimp only

theorem keeps_endUnstarted {s t : State} (h : Keeps s t) (a0) (a1) (a2) : Keeps s (endUnstarted a0 a1 a2 t) := by
  unfold endUnstarted
  iterate 40 try any_goals first
    | with_reducible assumption
    | with_reducible refine keeps_writeEnd ?_ ..
    | with_reducible refine keeps_modQueue ?_ ..
    | with_reducible refine Keeps.snd (by with_reducible assumption) ?_
    | (intro _)
    | split
    | dsimp only

theorem keeps_settleDrain {s t : State} (h : Keeps s t) (a0) (a1) : Keeps s (settleDrain a0 a1 t) := by
  unfold settleDrain
  iterate 40 try any_goals first
    | with_reducible assumption
    | with_reducible refine keeps_modQueue ?_ ..
    | with_reducible refine Keeps.snd (by with_reducible assumption) ?_
    | (intro _)
    | split
    | dsimp only

theorem wf_clears (l : List FreeWait) (f : TierSt → FreeWait → TierSt)
    (hf : ∀ x k, (f x k).mem = clearBytes x.mem k.start k.length) {x : TierSt} (h : Memory.wf x.mem = true) :
    Memory.wf (l.foldl f x).mem = true := by
  induction l generalizing x with
  | nil => exact h
  | cons k l ih => refine ih ?_; rw [hf]; exact wf_clearBytes _ _ h

theorem wf_reclaimTier (bound : FreeWait → Bool) {x : TierSt} (h : Memory.wf x.mem = true) : Memory.wf (reclaimTier bound x).mem = true :=
  wf_clears _ _ (fun _ _ => rfl) h

theorem keeps_reclaim {s t : State} (h : Keeps s t) : Keeps s (reclaim t) :=
  h.of_parts rfl ⟨id, id, id, id, id, id, id, wf_reclaimTier _, wf_reclaimTier _, wf_reclaimTier _, id, id⟩

theorem keeps_galleyAccess {s t : State} (h : Keeps s t) (a0) (a1) : Keeps s (galleyAccess a0 a1 t) := by
  unfold galleyAccess
  iterate 40 try any_goals first
    | with_reducible assumption
    | with_reducible exact id
    | with_reducible refine keeps_modGalley ?_ ?_
    | with_reducible refine Keeps.snd (by with_reducible assumption) ?_
    | with_reducible refine wf_wrBytes _ _ ?_
    | with_reducible refine wf_clearBytes _ _ ?_
    | with_reducible refine wf_touch _ ?_
    | with_reducible refine wf_touches _ ?_
    | rw [setBad_mem]
    | (intro _; simp_all; done)
    | (intro _)
    | split
    | dsimp only
    | with_reducible refine Keeps.updAll ?_ ?_ ?_ ?_ ?_ ?_ ?_ ?_ ?_ ?_ ?_ ?_ ?_
    | (simp; done)
    | (simp_all; done)

theorem keeps_markHolds {s t : State} (h : Keeps s t) (a0) (a1) (a2) : Keeps s (markHolds a0 a1 a2 t) := by
  unfold markHolds
  iterate 40 try any_goals first
    | with_reducible assumption
    | with_reducible refine Keeps.snd (by with_reducible assumption) ?_
    | (intro _)
    | split
    | dsimp only
    | with_reducible refine Keeps.upd ?_ ..

theorem keeps_clearAfter {s t : State} (h : Keeps s t) (a0) (a1) (a2) (a3) : Keeps s (clearAfter a0 a1 a2 a3 t) := by
  unfold clearAfter
  iterate 40 try any_goals first
    | with_reducible assumption
    | with_reducible refine keeps_clearOwn ?_ ..
    | with_reducible refine keeps_flushOther ?_ ..
    | with_reducible refine Keeps.snd (by with_reducible assumption) ?_
    | (intro _)
    | split
    | dsimp only

theorem keeps_collReceipt {s t : State} (h : Keeps s t) (a0) (a1) (a2) (a3) : Keeps s (collReceipt a0 a1 a2 a3 t) := by
  unfold collReceipt
  iterate 40 try any_goals first
    | with_reducible assumption
    | with_reducible refine keeps_modInst ?_ ..
    | with_reducible refine Keeps.snd (by with_reducible assumption) ?_
    | (intro _)
    | split
    | dsimp only
    | with_reducible refine Keeps.upd ?_ ..

theorem keeps_spoilResumed {s t : State} (h : Keeps s t) (a0) (a1) : Keeps s (spoilResumed a0 a1 t) := by
  unfold spoilResumed
  iterate 40 try any_goals first
    | with_reducible assumption
    | with_reducible refine keeps_undefDocket ?_ ..
    | with_reducible refine Keeps.snd (by with_reducible assumption) ?_
    | (intro _)
    | split
    | dsimp only

theorem keeps_finishRun {s t : State} (h : Keeps s t) (a0) (a1) (a2) (a3) : Keeps s (finishRun a0 a1 a2 a3 t) := by
  unfold finishRun
  iterate 40 try any_goals first
    | with_reducible assumption
    | with_reducible refine keeps_spoilResumed ?_ ..
    | with_reducible refine keeps_modQueue ?_ ..
    | with_reducible refine keeps_clearAfter ?_ ..
    | with_reducible refine keeps_collReceipt ?_ ..
    | with_reducible refine keeps_writeReceipt ?_ ..
    | with_reducible refine keeps_endRecoveries ?_ ..
    | with_reducible refine keeps_reclaim ?_ ..
    | with_reducible refine keeps_settleDrain ?_ ..
    | with_reducible refine keeps_markHolds ?_ ..
    | with_reducible refine Keeps.snd (by with_reducible assumption) ?_
    | (intro _)
    | split
    | dsimp only

theorem keeps_meter {s t : State} (h : Keeps s t) : Keeps s (meter t) := by
  unfold meter
  iterate 40 try any_goals first
    | with_reducible assumption
    | with_reducible refine keeps_modPower ?_ ?_
    | with_reducible refine Keeps.snd (by with_reducible assumption) ?_
    | (simp; done)
    | (intro _; simp_all; done)
    | (simp_all; done)
    | (intro _)
    | split
    | dsimp only

theorem keeps_withdrawPress {s t : State} (h : Keeps s t) (a0) (a1) (a2) : Keeps s (withdrawPress a0 a1 a2 t) := by
  unfold withdrawPress
  iterate 40 try any_goals first
    | with_reducible assumption
    | with_reducible refine keeps_modPower ?_ ?_
    | with_reducible refine keeps_modGalley ?_ ?_
    | with_reducible refine keeps_meter ?_ ..
    | with_reducible refine Keeps.snd (by with_reducible assumption) ?_
    | with_reducible refine wf_wrBytes _ _ ?_
    | with_reducible refine wf_clearBytes _ _ ?_
    | with_reducible refine wf_touch _ ?_
    | with_reducible refine wf_touches _ ?_
    | rw [setBad_mem]
    | (intro _; simp_all; done)
    | (simp; done)
    | (intro _; simp_all; done)
    | (simp_all; done)
    | (intro _)
    | split
    | dsimp only

theorem keeps_withdrawUnstarted {s t : State} (h : Keeps s t) (a0) (a1) (a2) : Keeps s (withdrawUnstarted a0 a1 a2 t) := by
  unfold withdrawUnstarted
  iterate 40 try any_goals first
    | with_reducible assumption
    | with_reducible refine Keeps.each ?_ _ (fun _ _ _ => ?_)
    | with_reducible refine keeps_withdrawPress ?_ ..
    | with_reducible refine Keeps.snd (by with_reducible assumption) ?_
    | (intro _)
    | split
    | dsimp only

theorem keeps_malformed {s t : State} (h : Keeps s t) (a0) (a1) (a2) (a3) : Keeps s (malformed a0 a1 a2 a3 t) := by
  unfold malformed
  iterate 40 try any_goals first
    | with_reducible assumption
    | with_reducible refine keeps_modQueue ?_ ..
    | with_reducible refine keeps_withdrawUnstarted ?_ ..
    | with_reducible refine keeps_finishRun ?_ ..
    | with_reducible refine keeps_endUnstarted ?_ ..
    | with_reducible refine keeps_raiseQueue ?_ ..
    | with_reducible refine Keeps.snd (by with_reducible assumption) ?_
    | (intro _)
    | split
    | dsimp only

theorem keeps_readSlot {s t : State} (h : Keeps s t) (a0) (a1) : Keeps s (readSlot a0 a1 t).2 := by
  unfold readSlot
  iterate 40 try any_goals first
    | with_reducible assumption
    | with_reducible refine keeps_readSeg ?_ ..
    | with_reducible refine keeps_latchAll ?_ ..
    | with_reducible refine Keeps.snd (by with_reducible assumption) ?_
    | (intro _)
    | split
    | dsimp only

theorem keeps_scanLoop {s t : State} (h : Keeps s t) (a0) (a1) (a2) (a3) : Keeps s (scanLoop a0 a1 a2 a3 t).2.2 := by
  induction a2 generalizing t a3 with
  | zero =>
    unfold scanLoop
    iterate 40 try any_goals first
      | with_reducible assumption
      | with_reducible refine keeps_modQueue ?_ ..
      | with_reducible refine keeps_modInst ?_ ..
      | with_reducible refine keeps_modDlv ?_ ..
      | with_reducible refine keeps_readSlot ?_ ..
      | with_reducible refine Keeps.snd (by with_reducible assumption) ?_
      | with_reducible refine Keeps.snd₂ (by with_reducible assumption) ?_
      | with_reducible refine Keeps.snd₃ (by with_reducible assumption) ?_
      | (intro _)
      | split
      | dsimp only
  | succ n ih =>
    unfold scanLoop
    iterate 40 try any_goals first
      | with_reducible assumption
      | with_reducible refine ih ?_ ..
      | with_reducible refine keeps_modQueue ?_ ..
      | with_reducible refine keeps_modInst ?_ ..
      | with_reducible refine keeps_modDlv ?_ ..
      | with_reducible refine keeps_readSlot ?_ ..
      | with_reducible refine Keeps.snd (by with_reducible assumption) ?_
      | with_reducible refine Keeps.snd₂ (by with_reducible assumption) ?_
      | with_reducible refine Keeps.snd₃ (by with_reducible assumption) ?_
      | (intro _)
      | split
      | dsimp only

theorem keeps_scan {s t : State} (h : Keeps s t) (a0) (a1) (a2) : Keeps s (scan a0 a1 a2 t) := by
  unfold scan
  iterate 40 try any_goals first
    | with_reducible assumption
    | with_reducible refine keeps_scanLoop ?_ ..
    | with_reducible refine keeps_modQueue ?_ ..
    | with_reducible refine Keeps.snd (by with_reducible assumption) ?_
    | with_reducible refine Keeps.snd₂ (by with_reducible assumption) ?_
    | with_reducible refine Keeps.snd₃ (by with_reducible assumption) ?_
    | (intro _)
    | split
    | dsimp only

theorem keeps_loadContext {s t : State} (h : Keeps s t) (a0) (a1) : Keeps s (loadContext a0 a1 t).2 := by
  unfold loadContext
  iterate 40 try any_goals first
    | with_reducible assumption
    | with_reducible refine keeps_modQueue ?_ ..
    | with_reducible refine Keeps.snd (by with_reducible assumption) ?_
    | (intro _)
    | split
    | dsimp only

end Sys2Proof.Machine
end

