-- ==== Sys2Proof/Laws/KeepSched.lean ====
section
/-! SUPPORT. What the operations of Machine/Sched.lean keep (Laws/Keeps.lean). -/
namespace Sys2Proof.Machine

theorem keeps_joinRounds {s t : State} (h : Keeps s t) : Keeps s (joinRounds t) := by
  unfold joinRounds
  iterate 40 try any_goals first
    | with_reducible assumption
    | with_reducible refine Keeps.snd (by with_reducible assumption) ?_
    | (intro _)
    | split
    | dsimp only
    | with_reducible refine Keeps.upd ?_ ..

theorem keeps_placeAll {s t : State} (h : Keeps s t) : Keeps s (placeAll t) := by
  unfold placeAll
  iterate 40 try any_goals first
    | with_reducible assumption
    | with_reducible refine keeps_joinRounds ?_ ..
    | with_reducible refine Keeps.snd (by with_reducible assumption) ?_
    | (intro _)
    | split
    | dsimp only
    | with_reducible refine Keeps.upd ?_ ..

theorem keeps_chargeGrant {s t : State} (h : Keeps s t) (a0) (a1) (a2) (a3) : Keeps s (chargeGrant a0 a1 a2 a3 t) := by
  unfold chargeGrant
  iterate 40 try any_goals first
    | with_reducible assumption
    | with_reducible refine keeps_modQueue ?_ ..
    | with_reducible refine keeps_modInst ?_ ..
    | with_reducible refine Keeps.snd (by with_reducible assumption) ?_
    | (intro _)
    | split
    | dsimp only
    | with_reducible refine Keeps.upd ?_ ..

theorem keeps_holdReceiptFull {s t : State} (h : Keeps s t) (a0) (a1) : Keeps s (holdReceiptFull a0 a1 t) := by
  unfold holdReceiptFull
  iterate 40 try any_goals first
    | with_reducible assumption
    | with_reducible refine keeps_raiseQueue ?_ ..
    | with_reducible refine keeps_modQueue ?_ ..
    | with_reducible refine Keeps.snd (by with_reducible assumption) ?_
    | (intro _)
    | split
    | dsimp only

theorem keeps_grantPiece {s t : State} (h : Keeps s t) (a0) (a1) (a2) (a3) : Keeps s (grantPiece a0 a1 a2 a3 t) := by
  unfold grantPiece
  iterate 40 try any_goals first
    | with_reducible assumption
    | with_reducible refine keeps_modQueue ?_ ..
    | with_reducible refine keeps_chargeGrant ?_ ..
    | with_reducible refine keeps_holdReceiptFull ?_ ..
    | with_reducible refine Keeps.snd (by with_reducible assumption) ?_
    | (intro _)
    | split
    | dsimp only
    | with_reducible refine Keeps.upd ?_ ..

theorem keeps_schedulerGrant {s t : State} (h : Keeps s t) : Keeps s (schedulerGrant t) := by
  unfold schedulerGrant
  iterate 40 try any_goals first
    | with_reducible assumption
    | with_reducible refine keeps_placeAll ?_ ..
    | with_reducible refine keeps_grantPiece ?_ ..
    | with_reducible refine Keeps.snd (by with_reducible assumption) ?_
    | (intro _)
    | split
    | dsimp only
    | with_reducible refine Keeps.upd ?_ ..

theorem keeps_execSchedulerGrant {s t u : State} (h : Keeps s t) (he : execSchedulerGrant t = .next u) : Keeps s u := by
  unfold execSchedulerGrant at he
  · injection he with he
    subst he
    iterate 40 try any_goals first
      | with_reducible assumption
      | with_reducible refine keeps_schedulerGrant ?_ ..
      | with_reducible refine Keeps.snd (by with_reducible assumption) ?_
      | (intro _)
      | split
      | dsimp only

theorem keeps_wheelSlotBegin {s t : State} (h : Keeps s t) : Keeps s (wheelSlotBegin t) := by
  unfold wheelSlotBegin
  iterate 40 try any_goals first
    | with_reducible assumption
    | with_reducible refine keeps_waitMono ?_ ..
    | with_reducible refine keeps_joinRounds ?_ ..
    | with_reducible refine Keeps.snd (by with_reducible assumption) ?_
    | (intro _)
    | split
    | dsimp only
    | with_reducible refine Keeps.upd ?_ ..

theorem keeps_execWheelSlotBegin {s t u : State} (h : Keeps s t) (he : execWheelSlotBegin t = .next u) : Keeps s u := by
  unfold execWheelSlotBegin at he
  · injection he with he
    subst he
    iterate 40 try any_goals first
      | with_reducible assumption
      | with_reducible refine keeps_wheelSlotBegin ?_ ..
      | with_reducible refine Keeps.snd (by with_reducible assumption) ?_
      | (intro _)
      | split
      | dsimp only

theorem keeps_overflowSlotMove {s t : State} (h : Keeps s t) : Keeps s (overflowSlotMove t) := by
  unfold overflowSlotMove
  iterate 40 try any_goals first
    | with_reducible assumption
    | with_reducible refine keeps_waitMono ?_ ..
    | with_reducible refine keeps_joinRounds ?_ ..
    | with_reducible refine Keeps.snd (by with_reducible assumption) ?_
    | (intro _)
    | split
    | dsimp only
    | with_reducible refine Keeps.upd ?_ ..

theorem keeps_execOverflowSlotMove {s t u : State} (h : Keeps s t) (he : execOverflowSlotMove t = .next u) : Keeps s u := by
  unfold execOverflowSlotMove at he
  · injection he with he
    subst he
    iterate 40 try any_goals first
      | with_reducible assumption
      | with_reducible refine keeps_overflowSlotMove ?_ ..
      | with_reducible refine Keeps.snd (by with_reducible assumption) ?_
      | (intro _)
      | split
      | dsimp only

theorem keeps_qsCommit {s t : State} (h : Keeps s t) (a0) : Keeps s (qsCommit a0 t) := by
  unfold qsCommit
  iterate 40 try any_goals first
    | with_reducible assumption
    | with_reducible refine keeps_modRegs ?_ ..
    | with_reducible refine keeps_modInst ?_ ..
    | with_reducible refine keeps_placeAll ?_ ..
    | with_reducible refine Keeps.snd (by with_reducible assumption) ?_
    | (intro _)
    | split
    | dsimp only

theorem keeps_execQsCommit {s t u : State} (h : Keeps s t) (a0) (he : execQsCommit a0 t = .next u) : Keeps s u := by
  unfold execQsCommit at he
  · injection he with he
    subst he
    iterate 40 try any_goals first
      | with_reducible assumption
      | with_reducible refine keeps_qsCommit ?_ ..
      | with_reducible refine Keeps.snd (by with_reducible assumption) ?_
      | (intro _)
      | split
      | dsimp only

end Sys2Proof.Machine
end

