-- ==== Sys2Proof/Laws/KeepQueues.lean ====
section
/-! SUPPORT. What the operations of Machine/Queues.lean keep (Laws/Keeps.lean). -/
namespace Sys2Proof.Machine

theorem keeps_qcAnswer {s t : State} (h : Keeps s t) (a0) (a1) (a2) : Keeps s (qcAnswer a0 a1 a2 t) := by
  unfold qcAnswer
  iterate 40 try any_goals first
    | with_reducible assumption
    | with_reducible refine keeps_modRegs ?_ ..
    | with_reducible refine Keeps.snd (by with_reducible assumption) ?_
    | (intro _)
    | split
    | dsimp only

theorem keeps_qcCommand {s t u : State} (h : Keeps s t) (a0) (a1) (a2) (hf0 : ∀  u, Keeps s u → Keeps s (a2  u)) (he : qcCommand a0 a1 a2 t = .next u) : Keeps s u := by
  unfold qcCommand at he
  · injection he with he
    subst he
    iterate 40 try any_goals first
      | with_reducible assumption
      | with_reducible refine hf0 _ ?_
      | with_reducible refine Keeps.snd (by with_reducible assumption) ?_
      | (intro _)
      | split
      | dsimp only

theorem keeps_createQueue {s t : State} (h : Keeps s t) (a0) (a1) : Keeps s (createQueue a0 a1 t) := by
  unfold createQueue
  iterate 40 try any_goals first
    | with_reducible assumption
    | with_reducible refine keeps_qcAnswer ?_ ..
    | with_reducible refine keeps_readSeg ?_ ..
    | with_reducible refine keeps_latchAll ?_ ..
    | with_reducible refine keeps_modInst ?_ ..
    | with_reducible refine Keeps.snd (by with_reducible assumption) ?_
    | (intro _)
    | split
    | dsimp only

theorem keeps_execQcCreate {s t u : State} (h : Keeps s t) (a0) (a1) (he : execQcCreate a0 a1 t = .next u) : Keeps s u := by
  unfold execQcCreate at he
  · refine keeps_qcCommand h _ _ _ (fun _ _ => ?_) he
    iterate 40 try any_goals first
      | with_reducible assumption
      | with_reducible refine keeps_createQueue ?_ ..
      | with_reducible refine Keeps.snd (by with_reducible assumption) ?_
      | (intro _)
      | split
      | dsimp only

theorem keeps_drainQueue {s t : State} (h : Keeps s t) (a0) (a1) : Keeps s (drainQueue a0 a1 t) := by
  unfold drainQueue
  iterate 40 try any_goals first
    | with_reducible assumption
    | with_reducible refine keeps_qcAnswer ?_ ..
    | with_reducible refine keeps_settleDrain ?_ ..
    | with_reducible refine keeps_modQueue ?_ ..
    | with_reducible refine Keeps.snd (by with_reducible assumption) ?_
    | (intro _)
    | split
    | dsimp only

theorem keeps_execQcDrain {s t u : State} (h : Keeps s t) (a0) (a1) (he : execQcDrain a0 a1 t = .next u) : Keeps s u := by
  unfold execQcDrain at he
  · refine keeps_qcCommand h _ _ _ (fun _ _ => ?_) he
    iterate 40 try any_goals first
      | with_reducible assumption
      | with_reducible refine keeps_drainQueue ?_ ..
      | with_reducible refine Keeps.snd (by with_reducible assumption) ?_
      | (intro _)
      | split
      | dsimp only

theorem keeps_scanLoaded {s t : State} (h : Keeps s t) (a0) (a1) : Keeps s (scanLoaded a0 a1 t) := by
  unfold scanLoaded
  iterate 40 try any_goals first
    | with_reducible assumption
    | with_reducible refine keeps_loadContext ?_ ..
    | with_reducible refine keeps_scan ?_ ..
    | with_reducible refine keeps_modQueue ?_ ..
    | with_reducible refine Keeps.snd (by with_reducible assumption) ?_
    | (intro _)
    | split
    | dsimp only

theorem keeps_resumeQueue {s t : State} (h : Keeps s t) (a0) (a1) : Keeps s (resumeQueue a0 a1 t) := by
  unfold resumeQueue
  iterate 40 try any_goals first
    | with_reducible assumption
    | with_reducible refine keeps_qcAnswer ?_ ..
    | with_reducible refine keeps_scanLoaded ?_ ..
    | with_reducible refine keeps_modQueue ?_ ..
    | with_reducible refine Keeps.snd (by with_reducible assumption) ?_
    | (intro _)
    | split
    | dsimp only

theorem keeps_execQcResume {s t u : State} (h : Keeps s t) (a0) (a1) (he : execQcResume a0 a1 t = .next u) : Keeps s u := by
  unfold execQcResume at he
  · refine keeps_qcCommand h _ _ _ (fun _ _ => ?_) he
    iterate 40 try any_goals first
      | with_reducible assumption
      | with_reducible refine keeps_placeAll ?_ ..
      | with_reducible refine keeps_resumeQueue ?_ ..
      | with_reducible refine Keeps.snd (by with_reducible assumption) ?_
      | (intro _)
      | split
      | dsimp only

theorem keeps_destroyQueue {s t : State} (h : Keeps s t) (a0) (a1) : Keeps s (destroyQueue a0 a1 t) := by
  unfold destroyQueue
  iterate 40 try any_goals first
    | with_reducible assumption
    | with_reducible refine keeps_qcAnswer ?_ ..
    | with_reducible refine keeps_modInst ?_ ..
    | with_reducible refine Keeps.snd (by with_reducible assumption) ?_
    | (intro _)
    | split
    | dsimp only

theorem keeps_execQcDestroy {s t u : State} (h : Keeps s t) (a0) (a1) (he : execQcDestroy a0 a1 t = .next u) : Keeps s u := by
  unfold execQcDestroy at he
  · refine keeps_qcCommand h _ _ _ (fun _ _ => ?_) he
    iterate 40 try any_goals first
      | with_reducible assumption
      | with_reducible refine keeps_destroyQueue ?_ ..
      | with_reducible refine Keeps.snd (by with_reducible assumption) ?_
      | (intro _)
      | split
      | dsimp only

theorem keeps_replayRecord {s t : State} (h : Keeps s t) (a0) (a1) (a2) : Keeps s (replayRecord a0 a1 a2 t) := by
  unfold replayRecord
  iterate 40 try any_goals first
    | with_reducible assumption
    | with_reducible refine keeps_clearAfter ?_ ..
    | with_reducible refine keeps_collReceipt ?_ ..
    | with_reducible refine keeps_writeReceipt ?_ ..
    | with_reducible refine keeps_modQueue ?_ ..
    | with_reducible refine keeps_markHolds ?_ ..
    | with_reducible refine Keeps.snd (by with_reducible assumption) ?_
    | (intro _)
    | split
    | dsimp only

theorem keeps_armQueue {s t : State} (h : Keeps s t) (a0) (a1) : Keeps s (armQueue a0 a1 t) := by
  unfold armQueue
  iterate 40 try any_goals first
    | with_reducible assumption
    | with_reducible refine keeps_qcAnswer ?_ ..
    | with_reducible refine keeps_modHatch ?_ ..
    | with_reducible refine keeps_modQueue ?_ ..
    | with_reducible refine Keeps.each ?_ _ (fun _ _ _ => ?_)
    | with_reducible refine keeps_replayRecord ?_ ..
    | with_reducible refine keeps_settleDrain ?_ ..
    | with_reducible refine keeps_raiseQueue ?_ ..
    | with_reducible refine keeps_scanLoaded ?_ ..
    | with_reducible refine keeps_reclaim ?_ ..
    | with_reducible refine Keeps.snd (by with_reducible assumption) ?_
    | (intro _)
    | split
    | dsimp only

theorem keeps_execQcArm {s t u : State} (h : Keeps s t) (a0) (a1) (he : execQcArm a0 a1 t = .next u) : Keeps s u := by
  unfold execQcArm at he
  · refine keeps_qcCommand h _ _ _ (fun _ _ => ?_) he
    iterate 40 try any_goals first
      | with_reducible assumption
      | with_reducible refine keeps_placeAll ?_ ..
      | with_reducible refine keeps_armQueue ?_ ..
      | with_reducible refine Keeps.snd (by with_reducible assumption) ?_
      | (intro _)
      | split
      | dsimp only

theorem keeps_queryQueue {s t : State} (h : Keeps s t) (a0) (a1) : Keeps s (queryQueue a0 a1 t) := by
  unfold queryQueue
  iterate 40 try any_goals first
    | with_reducible assumption
    | with_reducible refine keeps_qcAnswer ?_ ..
    | with_reducible refine keeps_modRegs ?_ ..
    | with_reducible refine Keeps.snd (by with_reducible assumption) ?_
    | (intro _)
    | split
    | dsimp only

theorem keeps_execQcQuery {s t u : State} (h : Keeps s t) (a0) (a1) (he : execQcQuery a0 a1 t = .next u) : Keeps s u := by
  unfold execQcQuery at he
  · refine keeps_qcCommand h _ _ _ (fun _ _ => ?_) he
    iterate 40 try any_goals first
      | with_reducible assumption
      | with_reducible refine keeps_queryQueue ?_ ..
      | with_reducible refine Keeps.snd (by with_reducible assumption) ?_
      | (intro _)
      | split
      | dsimp only

theorem keeps_scanAgain {s t : State} (h : Keeps s t) (a0) (a1) : Keeps s (scanAgain a0 a1 t) := by
  unfold scanAgain
  iterate 40 try any_goals first
    | with_reducible assumption
    | with_reducible refine keeps_placeAll ?_ ..
    | with_reducible refine keeps_scan ?_ ..
    | with_reducible refine Keeps.snd (by with_reducible assumption) ?_
    | (intro _)
    | split
    | dsimp only

theorem keeps_execScanContinue {s t u : State} (h : Keeps s t) (a0) (a1) (he : execScanContinue a0 a1 t = .next u) : Keeps s u := by
  unfold execScanContinue at he
  · injection he with he
    subst he
    iterate 40 try any_goals first
      | with_reducible assumption
      | with_reducible refine keeps_scanAgain ?_ ..
      | with_reducible refine Keeps.snd (by with_reducible assumption) ?_
      | (intro _)
      | split
      | dsimp only

theorem keeps_sweepAgain {s t : State} (h : Keeps s t) (a0) (a1) : Keeps s (sweepAgain a0 a1 t) := by
  unfold sweepAgain
  iterate 40 try any_goals first
    | with_reducible assumption
    | with_reducible refine keeps_placeAll ?_ ..
    | with_reducible refine keeps_scan ?_ ..
    | with_reducible refine keeps_waitMono ?_ ..
    | with_reducible refine Keeps.snd (by with_reducible assumption) ?_
    | (intro _)
    | split
    | dsimp only

theorem keeps_execSweepRescan {s t u : State} (h : Keeps s t) (a0) (a1) (he : execSweepRescan a0 a1 t = .next u) : Keeps s u := by
  unfold execSweepRescan at he
  · injection he with he
    subst he
    iterate 40 try any_goals first
      | with_reducible assumption
      | with_reducible refine keeps_sweepAgain ?_ ..
      | with_reducible refine Keeps.snd (by with_reducible assumption) ?_
      | (intro _)
      | split
      | dsimp only

theorem keeps_scanDeferred {s t : State} (h : Keeps s t) (a0) (a1) : Keeps s (scanDeferred a0 a1 t) := by
  unfold scanDeferred
  iterate 40 try any_goals first
    | with_reducible assumption
    | with_reducible refine keeps_loadContext ?_ ..
    | with_reducible refine keeps_placeAll ?_ ..
    | with_reducible refine keeps_scan ?_ ..
    | with_reducible refine keeps_modQueue ?_ ..
    | with_reducible refine Keeps.snd (by with_reducible assumption) ?_
    | (intro _)
    | split
    | dsimp only

theorem keeps_execDeferredScan {s t u : State} (h : Keeps s t) (a0) (a1) (he : execDeferredScan a0 a1 t = .next u) : Keeps s u := by
  unfold execDeferredScan at he
  · injection he with he
    subst he
    iterate 40 try any_goals first
      | with_reducible assumption
      | with_reducible refine keeps_scanDeferred ?_ ..
      | with_reducible refine Keeps.snd (by with_reducible assumption) ?_
      | (intro _)
      | split
      | dsimp only

theorem keeps_fetchError {s t : State} (h : Keeps s t) (a0) (a1) : Keeps s (fetchError a0 a1 t) := by
  unfold fetchError
  iterate 40 try any_goals first
    | with_reducible assumption
    | with_reducible refine keeps_raiseQueue ?_ ..
    | with_reducible refine keeps_modQueue ?_ ..
    | with_reducible refine Keeps.snd (by with_reducible assumption) ?_
    | (intro _)
    | split
    | dsimp only

theorem keeps_execQueueFetchError {s t u : State} (h : Keeps s t) (a0) (a1) (he : execQueueFetchError a0 a1 t = .next u) : Keeps s u := by
  unfold execQueueFetchError at he
  · injection he with he
    subst he
    iterate 40 try any_goals first
      | with_reducible assumption
      | with_reducible refine keeps_fetchError ?_ ..
      | with_reducible refine Keeps.snd (by with_reducible assumption) ?_
      | (intro _)
      | split
      | dsimp only

theorem keeps_release {s t : State} (h : Keeps s t) (a0) (a1) (a2) : Keeps s (release a0 a1 a2 t) := by
  unfold release
  iterate 40 try any_goals first
    | with_reducible assumption
    | with_reducible refine keeps_placeAll ?_ ..
    | with_reducible refine keeps_modQueue ?_ ..
    | with_reducible refine Keeps.snd (by with_reducible assumption) ?_
    | (intro _)
    | split
    | dsimp only

theorem keeps_execReleaseWord {s t u : State} (h : Keeps s t) (a0) (a1) (a2) (he : execReleaseWord a0 a1 a2 t = .next u) : Keeps s u := by
  unfold execReleaseWord at he
  · injection he with he
    subst he
    iterate 40 try any_goals first
      | with_reducible assumption
      | with_reducible refine keeps_release ?_ ..
      | with_reducible refine Keeps.snd (by with_reducible assumption) ?_
      | (intro _)
      | split
      | dsimp only

theorem keeps_writeWaiting {s t : State} (h : Keeps s t) (a0) (a1) : Keeps s (writeWaiting a0 a1 t) := by
  unfold writeWaiting
  iterate 40 try any_goals first
    | with_reducible assumption
    | with_reducible refine keeps_placeAll ?_ ..
    | with_reducible refine keeps_settleDrain ?_ ..
    | with_reducible refine keeps_writeEnd ?_ ..
    | with_reducible refine keeps_modQueue ?_ ..
    | with_reducible refine Keeps.snd (by with_reducible assumption) ?_
    | (intro _)
    | split
    | dsimp only

theorem keeps_execPendingReceiptWrite {s t u : State} (h : Keeps s t) (a0) (a1) (he : execPendingReceiptWrite a0 a1 t = .next u) : Keeps s u := by
  unfold execPendingReceiptWrite at he
  · injection he with he
    subst he
    iterate 40 try any_goals first
      | with_reducible assumption
      | with_reducible refine keeps_writeWaiting ?_ ..
      | with_reducible refine Keeps.snd (by with_reducible assumption) ?_
      | (intro _)
      | split
      | dsimp only

theorem keeps_moderationDue {s t : State} (h : Keeps s t) (a0) (a1) : Keeps s (moderationDue a0 a1 t) := by
  unfold moderationDue
  iterate 40 try any_goals first
    | with_reducible assumption
    | with_reducible refine keeps_raiseQueue ?_ ..
    | with_reducible refine keeps_waitMono ?_ ..
    | with_reducible refine Keeps.snd (by with_reducible assumption) ?_
    | (intro _)
    | split
    | dsimp only

theorem keeps_execModerationTimeout {s t u : State} (h : Keeps s t) (a0) (a1) (he : execModerationTimeout a0 a1 t = .next u) : Keeps s u := by
  unfold execModerationTimeout at he
  · injection he with he
    subst he
    iterate 40 try any_goals first
      | with_reducible assumption
      | with_reducible refine keeps_moderationDue ?_ ..
      | with_reducible refine Keeps.snd (by with_reducible assumption) ?_
      | (intro _)
      | split
      | dsimp only

theorem keeps_unmask {s t : State} (h : Keeps s t) (a0) (a1) : Keeps s (unmask a0 a1 t) := by
  unfold unmask
  iterate 40 try any_goals first
    | with_reducible assumption
    | with_reducible refine keeps_modFn ?_ ..
    | with_reducible refine keeps_sendMsix ?_ ..
    | with_reducible refine Keeps.each ?_ _ (fun _ _ _ => ?_)
    | with_reducible refine Keeps.snd (by with_reducible assumption) ?_
    | (intro _)
    | split
    | dsimp only

theorem keeps_execMsixUnmask {s t u : State} (h : Keeps s t) (a0) (a1) (he : execMsixUnmask a0 a1 t = .next u) : Keeps s u := by
  unfold execMsixUnmask at he
  · injection he with he
    subst he
    iterate 40 try any_goals first
      | with_reducible assumption
      | with_reducible refine keeps_unmask ?_ ..
      | with_reducible refine Keeps.snd (by with_reducible assumption) ?_
      | (intro _)
      | split
      | dsimp only

end Sys2Proof.Machine
end

