-- ==== Sys2Proof/Laws/KeepLocal.lean ====
section
/-! SUPPORT. What the operations of Machine/Local.lean keep (Laws/Keeps.lean). -/
namespace Sys2Proof.Machine

theorem keeps_modRun {s t : State} (h : Keeps s t) (a0) (a1) (a2) (a3) : Keeps s (modRun a0 a1 a2 a3 t) := by
  unfold modRun
  iterate 40 try any_goals first
    | with_reducible assumption
    | with_reducible refine keeps_modQueue ?_ ..
    | with_reducible refine Keeps.snd (by with_reducible assumption) ?_
    | (intro _)
    | split
    | dsimp only

theorem keeps_settle {s t : State} (h : Keeps s t) (a0) (a1) (a2) (a3) : Keeps s (settle a0 a1 a2 a3 t) := by
  unfold settle
  iterate 40 try any_goals first
    | with_reducible assumption
    | with_reducible refine keeps_undefDocket ?_ ..
    | with_reducible refine keeps_modRun ?_ ..
    | with_reducible refine Keeps.snd (by with_reducible assumption) ?_
    | (intro _)
    | split
    | dsimp only

theorem keeps_countExhausted {s t : State} (h : Keeps s t) (a0) : Keeps s (countExhausted a0 t) := by
  unfold countExhausted
  iterate 40 try any_goals first
    | with_reducible assumption
    | with_reducible refine Keeps.snd (by with_reducible assumption) ?_
    | (intro _)
    | split
    | dsimp only
    | with_reducible refine Keeps.upd ?_ ..

theorem keeps_obtainAts {s t : State} (h : Keeps s t) (a0) (a1) (a2) : Keeps s (obtainAts a0 a1 a2 t) := by
  unfold obtainAts
  iterate 40 try any_goals first
    | with_reducible assumption
    | with_reducible refine Keeps.each ?_ _ (fun _ _ _ => ?_)
    | with_reducible refine keeps_cacheAts ?_ ..
    | with_reducible refine Keeps.snd (by with_reducible assumption) ?_
    | (intro _)
    | split
    | dsimp only

theorem keeps_startDocket {s t : State} (h : Keeps s t) (a0) (a1) (a2) (hf0 : ∀ x0 x1 u, Keeps s u → Keeps s (a2 x0 x1 u)) : Keeps s (startDocket a0 a1 a2 t) := by
  unfold startDocket
  iterate 40 try any_goals first
    | with_reducible assumption
    | with_reducible refine hf0 _ _ _ ?_
    | with_reducible refine keeps_placeAll ?_ ..
    | with_reducible refine keeps_malformed ?_ ..
    | with_reducible refine keeps_countExhausted ?_ ..
    | with_reducible refine keeps_settle ?_ ..
    | with_reducible refine keeps_countAts ?_ ..
    | with_reducible refine keeps_obtainAts ?_ ..
    | with_reducible refine Keeps.snd (by with_reducible assumption) ?_
    | (intro _)
    | split
    | dsimp only

theorem keeps_transform {s t : State} (h : Keeps s t) (a0) (a1) (a2) (a3) (a4) : Keeps s (transform a0 a1 a2 a3 a4 t).2 := by
  unfold transform
  iterate 40 try any_goals first
    | with_reducible assumption
    | with_reducible refine keeps_readSeg ?_ ..
    | with_reducible refine Keeps.snd (by with_reducible assumption) ?_
    | (intro _)
    | split
    | dsimp only
    | with_reducible refine Keeps.upd ?_ ..

theorem keeps_moveRange {s t : State} (h : Keeps s t) (a0) (a1) (a2) (a3) (a4) (a5) (a6) : Keeps s (moveRange a0 a1 a2 a3 a4 a5 a6 t).2 := by
  unfold moveRange
  iterate 40 try any_goals first
    | with_reducible assumption
    | with_reducible refine keeps_readSeg ?_ ..
    | with_reducible refine keeps_latchAll ?_ ..
    | with_reducible refine keeps_transform ?_ ..
    | with_reducible refine keeps_writeSeg ?_ ..
    | with_reducible refine keeps_undefSeg ?_ ..
    | with_reducible refine Keeps.snd (by with_reducible assumption) ?_
    | (intro _)
    | split
    | dsimp only

theorem keeps_copyLocal {s t : State} (h : Keeps s t) (a0) (a1) (a2) (a3) (a4) (a5) : Keeps s (copyLocal a0 a1 a2 a3 a4 a5 t) := by
  unfold copyLocal
  iterate 40 try any_goals first
    | with_reducible assumption
    | with_reducible refine keeps_moveRange ?_ ..
    | with_reducible refine keeps_undefSeg ?_ ..
    | with_reducible refine keeps_settle ?_ ..
    | with_reducible refine Keeps.snd (by with_reducible assumption) ?_
    | (intro _)
    | split
    | dsimp only

theorem keeps_tileRow {s t : State} (h : Keeps s t) (a0) (a1) (a2) (a3) (a4) (a5) (a6) (a7) : Keeps s (tileRow a0 a1 a2 a3 a4 a5 a6 a7 t).2 := by
  unfold tileRow
  iterate 40 try any_goals first
    | with_reducible assumption
    | with_reducible refine keeps_undefSeg ?_ ..
    | with_reducible refine keeps_moveRange ?_ ..
    | with_reducible refine Keeps.snd (by with_reducible assumption) ?_
    | (intro _)
    | split
    | dsimp only

theorem keeps_tileRows {s t : State} (h : Keeps s t) (a0) (a1) (a2) (a3) (a4) (a5) (a6) (a7) (a8) (a9) : Keeps s (tileRows a0 a1 a2 a3 a4 a5 a6 a7 a8 a9 t).2 := by
  induction a7 generalizing t a8 a9 with
  | zero =>
    unfold tileRows
    iterate 40 try any_goals first
      | with_reducible assumption
      | with_reducible refine keeps_modQueue ?_ ..
      | with_reducible refine keeps_modInst ?_ ..
      | with_reducible refine keeps_modDlv ?_ ..
      | with_reducible refine keeps_tileRow ?_ ..
      | with_reducible refine Keeps.snd (by with_reducible assumption) ?_
      | with_reducible refine Keeps.snd₂ (by with_reducible assumption) ?_
      | with_reducible refine Keeps.snd₃ (by with_reducible assumption) ?_
      | (intro _)
      | split
      | dsimp only
  | succ n ih =>
    unfold tileRows
    iterate 40 try any_goals first
      | with_reducible assumption
      | with_reducible refine ih ?_ ..
      | with_reducible refine keeps_modQueue ?_ ..
      | with_reducible refine keeps_modInst ?_ ..
      | with_reducible refine keeps_modDlv ?_ ..
      | with_reducible refine keeps_tileRow ?_ ..
      | with_reducible refine Keeps.snd (by with_reducible assumption) ?_
      | with_reducible refine Keeps.snd₂ (by with_reducible assumption) ?_
      | with_reducible refine Keeps.snd₃ (by with_reducible assumption) ?_
      | (intro _)
      | split
      | dsimp only

theorem keeps_tileLoop {s t : State} (h : Keeps s t) (a0) (a1) (a2) (a3) (a4) (a5) : Keeps s (tileLoop a0 a1 a2 a3 a4 a5 t).2.2 := by
  induction a3 generalizing t a4 a5 with
  | zero =>
    unfold tileLoop
    iterate 40 try any_goals first
      | with_reducible assumption
      | with_reducible refine keeps_modQueue ?_ ..
      | with_reducible refine keeps_modInst ?_ ..
      | with_reducible refine keeps_modDlv ?_ ..
      | with_reducible refine keeps_tileRows ?_ ..
      | with_reducible refine Keeps.snd (by with_reducible assumption) ?_
      | with_reducible refine Keeps.snd₂ (by with_reducible assumption) ?_
      | with_reducible refine Keeps.snd₃ (by with_reducible assumption) ?_
      | (intro _)
      | split
      | dsimp only
  | succ n ih =>
    unfold tileLoop
    iterate 40 try any_goals first
      | with_reducible assumption
      | with_reducible refine ih ?_ ..
      | with_reducible refine keeps_modQueue ?_ ..
      | with_reducible refine keeps_modInst ?_ ..
      | with_reducible refine keeps_modDlv ?_ ..
      | with_reducible refine keeps_tileRows ?_ ..
      | with_reducible refine Keeps.snd (by with_reducible assumption) ?_
      | with_reducible refine Keeps.snd₂ (by with_reducible assumption) ?_
      | with_reducible refine Keeps.snd₃ (by with_reducible assumption) ?_
      | (intro _)
      | split
      | dsimp only

theorem keeps_tileOverlap {s t : State} (h : Keeps s t) (a0) (a1) (a2) : Keeps s (tileOverlap a0 a1 a2 t) := by
  unfold tileOverlap
  iterate 40 try any_goals first
    | with_reducible assumption
    | with_reducible refine Keeps.each ?_ _ (fun _ _ _ => ?_)
    | with_reducible refine keeps_undefSeg ?_ ..
    | with_reducible refine Keeps.snd (by with_reducible assumption) ?_
    | (intro _)
    | split
    | dsimp only

theorem keeps_tileCopy {s t : State} (h : Keeps s t) (a0) (a1) (a2) (a3) : Keeps s (tileCopy a0 a1 a2 a3 t) := by
  unfold tileCopy
  iterate 40 try any_goals first
    | with_reducible assumption
    | with_reducible refine keeps_tileLoop ?_ ..
    | with_reducible refine keeps_settle ?_ ..
    | with_reducible refine keeps_tileOverlap ?_ ..
    | with_reducible refine Keeps.snd (by with_reducible assumption) ?_
    | with_reducible refine Keeps.snd₂ (by with_reducible assumption) ?_
    | with_reducible refine Keeps.snd₃ (by with_reducible assumption) ?_
    | (intro _)
    | split
    | dsimp only

theorem keeps_execTileCopy {s t u : State} (h : Keeps s t) (a0) (he : execTileCopy a0 t = .next u) : Keeps s u := by
  unfold execTileCopy at he
  · injection he with he
    subst he
    iterate 40 try any_goals first
      | with_reducible assumption
      | with_reducible refine keeps_startDocket ?_ _ _ _ (fun _ _ _ _ => ?_)
      | with_reducible refine keeps_tileCopy ?_ ..
      | with_reducible refine Keeps.snd (by with_reducible assumption) ?_
      | (intro _)
      | split
      | dsimp only

theorem keeps_fence {s t : State} (h : Keeps s t) (a0) (a1) (a2) (a3) : Keeps s (fence a0 a1 a2 a3 t) := by
  unfold fence
  iterate 40 try any_goals first
    | with_reducible assumption
    | with_reducible refine keeps_settle ?_ ..
    | with_reducible refine Keeps.snd (by with_reducible assumption) ?_
    | (intro _)
    | split
    | dsimp only

theorem keeps_execFence {s t u : State} (h : Keeps s t) (a0) (he : execFence a0 t = .next u) : Keeps s u := by
  unfold execFence at he
  · injection he with he
    subst he
    iterate 40 try any_goals first
      | with_reducible assumption
      | with_reducible refine keeps_startDocket ?_ _ _ _ (fun _ _ _ _ => ?_)
      | with_reducible refine keeps_fence ?_ ..
      | with_reducible refine Keeps.snd (by with_reducible assumption) ?_
      | (intro _)
      | split
      | dsimp only

theorem keeps_invalidate {s t : State} (h : Keeps s t) (a0) (a1) (a2) : Keeps s (invalidate a0 a1 a2 t) := by
  unfold invalidate
  iterate 40 try any_goals first
    | with_reducible assumption
    | with_reducible refine Keeps.each ?_ _ (fun _ _ _ => ?_)
    | with_reducible refine keeps_withdrawPress ?_ ..
    | with_reducible refine keeps_settle ?_ ..
    | with_reducible refine keeps_modQueue ?_ ..
    | with_reducible refine Keeps.snd (by with_reducible assumption) ?_
    | (intro _)
    | split
    | dsimp only

theorem keeps_execInvalidate {s t u : State} (h : Keeps s t) (a0) (he : execInvalidate a0 t = .next u) : Keeps s u := by
  unfold execInvalidate at he
  · injection he with he
    subst he
    iterate 40 try any_goals first
      | with_reducible assumption
      | with_reducible refine keeps_placeAll ?_ ..
      | with_reducible refine keeps_startDocket ?_ _ _ _ (fun _ _ _ _ => ?_)
      | with_reducible refine keeps_invalidate ?_ ..
      | with_reducible refine Keeps.snd (by with_reducible assumption) ?_
      | (intro _)
      | split
      | dsimp only

theorem keeps_deadlineExpiry {s t : State} (h : Keeps s t) (a0) : Keeps s (deadlineExpiry a0 t) := by
  unfold deadlineExpiry
  iterate 40 try any_goals first
    | with_reducible assumption
    | with_reducible refine keeps_modQueue ?_ ..
    | with_reducible refine keeps_placeAll ?_ ..
    | with_reducible refine keeps_endUnstarted ?_ ..
    | with_reducible refine keeps_withdrawPress ?_ ..
    | with_reducible refine Keeps.snd (by with_reducible assumption) ?_
    | (intro _)
    | split
    | dsimp only

end Sys2Proof.Machine
end

