-- ==== Sys2Proof/Laws/KeepProgram.lean ====
section
/-! SUPPORT. What the operations of Machine/Program.lean keep (Laws/Keeps.lean). -/
namespace Sys2Proof.Machine

theorem keeps_passEntry {s t : State} (h : Keeps s t) (a0) : Keeps s (passEntry a0 t) := by
  unfold passEntry
  iterate 40 try any_goals first
    | with_reducible assumption
    | with_reducible refine Keeps.snd (by with_reducible assumption) ?_
    | (intro _)
    | split
    | dsimp only
    | with_reducible refine Keeps.upd ?_ ..

theorem keeps_countOverrun {s t : State} (h : Keeps s t) (a0) (a1) : Keeps s (countOverrun a0 a1 t) := by
  unfold countOverrun
  iterate 40 try any_goals first
    | with_reducible assumption
    | with_reducible refine keeps_modTime ?_ ..
    | with_reducible refine keeps_latch ?_ ..
    | with_reducible refine Keeps.snd (by with_reducible assumption) ?_
    | (intro _)
    | split
    | dsimp only

theorem keeps_entryBegan {s t : State} (h : Keeps s t) (a0) : Keeps s (entryBegan a0 t) := by
  unfold entryBegan
  iterate 40 try any_goals first
    | with_reducible assumption
    | with_reducible refine keeps_countOverrun ?_ ..
    | with_reducible refine keeps_passEntry ?_ ..
    | with_reducible refine keeps_modTime ?_ ..
    | with_reducible refine Keeps.snd (by with_reducible assumption) ?_
    | (intro _)
    | split
    | dsimp only

theorem keeps_entrySkipped {s t : State} (h : Keeps s t) (a0) : Keeps s (entrySkipped a0 t) := by
  unfold entrySkipped
  iterate 40 try any_goals first
    | with_reducible assumption
    | with_reducible refine keeps_passEntry ?_ ..
    | with_reducible refine keeps_modTime ?_ ..
    | with_reducible refine Keeps.snd (by with_reducible assumption) ?_
    | (intro _)
    | split
    | dsimp only

theorem keeps_plannedBegan {s t : State} (h : Keeps s t) (a0) : Keeps s (plannedBegan a0 t) := by
  unfold plannedBegan
  iterate 40 try any_goals first
    | with_reducible assumption
    | with_reducible refine keeps_entryBegan ?_ ..
    | with_reducible refine Keeps.snd (by with_reducible assumption) ?_
    | (intro _)
    | split
    | dsimp only

theorem keeps_plannedSkipped {s t : State} (h : Keeps s t) (a0) : Keeps s (plannedSkipped a0 t) := by
  unfold plannedSkipped
  iterate 40 try any_goals first
    | with_reducible assumption
    | with_reducible refine keeps_entrySkipped ?_ ..
    | with_reducible refine Keeps.snd (by with_reducible assumption) ?_
    | (intro _)
    | split
    | dsimp only

theorem keeps_yieldWait {s t : State} (h : Keeps s t) (a0) : Keeps s (yieldWait a0 t) := by
  unfold yieldWait
  iterate 40 try any_goals first
    | with_reducible assumption
    | with_reducible refine keeps_pass ?_ ..
    | with_reducible refine Keeps.snd (by with_reducible assumption) ?_
    | (intro _)
    | split
    | dsimp only
    | with_reducible refine Keeps.upd ?_ ..

end Sys2Proof.Machine
end

