-- ==== Sys2Proof/Laws/KeepPress.lean ====
section
/-! SUPPORT. What the operations of Machine/Press.lean keep (Laws/Keeps.lean). -/
namespace Sys2Proof.Machine

theorem keeps_modPressRun {s t : State} (h : Keeps s t) (a0) (a1) (a2) : Keeps s (modPressRun a0 a1 a2 t) := by
  unfold modPressRun
  iterate 40 try any_goals first
    | with_reducible assumption
    | with_reducible refine keeps_modRun ?_ ..
    | with_reducible refine Keeps.snd (by with_reducible assumption) ?_
    | (intro _)
    | split
    | dsimp only

theorem keeps_endPress {s t : State} (h : Keeps s t) (a0) (a1) (a2) (a3) : Keeps s (endPress a0 a1 a2 a3 t) := by
  unfold endPress
  iterate 40 try any_goals first
    | with_reducible assumption
    | with_reducible refine keeps_withdrawPress ?_ ..
    | with_reducible refine keeps_settle ?_ ..
    | with_reducible refine keeps_modRun ?_ ..
    | with_reducible refine keeps_modQueue ?_ ..
    | with_reducible refine keeps_endUnstarted ?_ ..
    | with_reducible refine keeps_plannedBegan ?_ ..
    | with_reducible refine keeps_placeAll ?_ ..
    | with_reducible refine keeps_settleDrain ?_ ..
    | with_reducible refine Keeps.snd (by with_reducible assumption) ?_
    | (intro _)
    | split
    | dsimp only

theorem keeps_malformedPress {s t : State} (h : Keeps s t) (a0) (a1) (a2) : Keeps s (malformedPress a0 a1 a2 t) := by
  unfold malformedPress
  iterate 40 try any_goals first
    | with_reducible assumption
    | with_reducible refine keeps_plannedBegan ?_ ..
    | with_reducible refine keeps_placeAll ?_ ..
    | with_reducible refine keeps_malformed ?_ ..
    | with_reducible refine Keeps.snd (by with_reducible assumption) ?_
    | (intro _)
    | split
    | dsimp only

theorem keeps_askPermit {s t : State} (h : Keeps s t) (a0) (a1) : Keeps s (askPermit a0 a1 t) := by
  unfold askPermit
  iterate 40 try any_goals first
    | with_reducible assumption
    | with_reducible refine keeps_modPower ?_ ?_
    | with_reducible refine Keeps.snd (by with_reducible assumption) ?_
    | (simp; done)
    | (intro _; simp_all; done)
    | (simp_all; done)
    | (intro _)
    | split
    | dsimp only

theorem keeps_readLists {s t : State} (h : Keeps s t) (a0) (a1) (a2) : Keeps s (readLists a0 a1 a2 t).2.2 := by
  induction a2 generalizing t with
  | nil =>
    unfold readLists
    iterate 40 try any_goals first
      | with_reducible assumption
      | with_reducible refine keeps_modQueue ?_ ..
      | with_reducible refine keeps_modInst ?_ ..
      | with_reducible refine keeps_modDlv ?_ ..
      | with_reducible refine keeps_readSeg ?_ ..
      | with_reducible refine keeps_latchAll ?_ ..
      | with_reducible refine Keeps.snd (by with_reducible assumption) ?_
      | with_reducible refine Keeps.snd₂ (by with_reducible assumption) ?_
      | with_reducible refine Keeps.snd₃ (by with_reducible assumption) ?_
      | (intro _)
      | split
      | dsimp only
  | cons x l ih =>
    unfold readLists
    iterate 40 try any_goals first
      | with_reducible assumption
      | with_reducible refine ih ?_ ..
      | with_reducible refine keeps_modQueue ?_ ..
      | with_reducible refine keeps_modInst ?_ ..
      | with_reducible refine keeps_modDlv ?_ ..
      | with_reducible refine keeps_readSeg ?_ ..
      | with_reducible refine keeps_latchAll ?_ ..
      | with_reducible refine Keeps.snd (by with_reducible assumption) ?_
      | with_reducible refine Keeps.snd₂ (by with_reducible assumption) ?_
      | with_reducible refine Keeps.snd₃ (by with_reducible assumption) ?_
      | (intro _)
      | split
      | dsimp only

theorem keeps_listsReady {s t : State} (h : Keeps s t) (a0) (a1) (a2) (a3) : Keeps s (listsReady a0 a1 a2 a3 t) := by
  unfold listsReady
  iterate 40 try any_goals first
    | with_reducible assumption
    | with_reducible refine keeps_askPermit ?_ ..
    | with_reducible refine keeps_modPressRun ?_ ..
    | with_reducible refine Keeps.snd (by with_reducible assumption) ?_
    | (intro _)
    | split
    | dsimp only

theorem keeps_listsRead {s t : State} (h : Keeps s t) (a0) (a1) (a2) (a3) (a4) : Keeps s (listsRead a0 a1 a2 a3 a4 t) := by
  unfold listsRead
  iterate 40 try any_goals first
    | with_reducible assumption
    | with_reducible refine keeps_endPress ?_ ..
    | with_reducible refine keeps_listsReady ?_ ..
    | with_reducible refine Keeps.snd (by with_reducible assumption) ?_
    | (intro _)
    | split
    | dsimp only

theorem keeps_checkOperands {s t : State} (h : Keeps s t) (a0) (a1) (a2) : Keeps s (checkOperands a0 a1 a2 t) := by
  unfold checkOperands
  iterate 40 try any_goals first
    | with_reducible assumption
    | with_reducible refine keeps_endPress ?_ ..
    | with_reducible refine keeps_readLists ?_ ..
    | with_reducible refine keeps_listsRead ?_ ..
    | with_reducible refine Keeps.snd (by with_reducible assumption) ?_
    | with_reducible refine Keeps.snd₂ (by with_reducible assumption) ?_
    | with_reducible refine Keeps.snd₃ (by with_reducible assumption) ?_
    | (intro _)
    | split
    | dsimp only

theorem keeps_allocHead {s t : State} (h : Keeps s t) : Keeps s (allocHead t) := by
  unfold allocHead
  iterate 40 try any_goals first
    | with_reducible assumption
    | with_reducible refine keeps_modPressRun ?_ ..
    | with_reducible refine keeps_modGalley ?_ ?_
    | with_reducible refine keeps_checkOperands ?_ ..
    | with_reducible refine Keeps.snd (by with_reducible assumption) ?_
    | with_reducible refine wf_wrBytes _ _ ?_
    | with_reducible refine wf_clearBytes _ _ ?_
    | with_reducible refine wf_touch _ ?_
    | with_reducible refine wf_touches _ ?_
    | rw [setBad_mem]
    | (intro _; simp_all; done)
    | (intro _)
    | split
    | dsimp only

theorem keeps_execGalleyAllocGrant {s t u : State} (h : Keeps s t) (he : execGalleyAllocGrant t = .next u) : Keeps s u := by
  unfold execGalleyAllocGrant at he
  · injection he with he
    subst he
    iterate 40 try any_goals first
      | with_reducible assumption
      | with_reducible refine keeps_allocHead ?_ ..
      | with_reducible refine Keeps.snd (by with_reducible assumption) ?_
      | (intro _)
      | split
      | dsimp only

theorem keeps_startPress {s t : State} (h : Keeps s t) (a0) (a1) : Keeps s (startPress a0 a1 t) := by
  unfold startPress
  iterate 40 try any_goals first
    | with_reducible assumption
    | with_reducible refine keeps_malformedPress ?_ ..
    | with_reducible refine keeps_endPress ?_ ..
    | with_reducible refine keeps_countAts ?_ ..
    | with_reducible refine keeps_obtainAts ?_ ..
    | with_reducible refine keeps_modRun ?_ ..
    | with_reducible refine keeps_allocHead ?_ ..
    | with_reducible refine Keeps.snd (by with_reducible assumption) ?_
    | (intro _)
    | split
    | dsimp only
    | with_reducible refine Keeps.upd ?_ ..

theorem keeps_execReduce {s t u : State} (h : Keeps s t) (a0) (he : execReduce a0 t = .next u) : Keeps s u := by
  unfold execReduce at he
  · injection he with he
    subst he
    iterate 40 try any_goals first
      | with_reducible assumption
      | with_reducible refine keeps_startPress ?_ ..
      | with_reducible refine Keeps.snd (by with_reducible assumption) ?_
      | (intro _)
      | split
      | dsimp only

theorem keeps_execTranscode {s t u : State} (h : Keeps s t) (a0) (he : execTranscode a0 t = .next u) : Keeps s u := by
  unfold execTranscode at he
  · injection he with he
    subst he
    iterate 40 try any_goals first
      | with_reducible assumption
      | with_reducible refine keeps_startPress ?_ ..
      | with_reducible refine Keeps.snd (by with_reducible assumption) ?_
      | (intro _)
      | split
      | dsimp only

theorem keeps_execGatherReduce {s t u : State} (h : Keeps s t) (a0) (he : execGatherReduce a0 t = .next u) : Keeps s u := by
  unfold execGatherReduce at he
  · injection he with he
    subst he
    iterate 40 try any_goals first
      | with_reducible assumption
      | with_reducible refine keeps_startPress ?_ ..
      | with_reducible refine Keeps.snd (by with_reducible assumption) ?_
      | (intro _)
      | split
      | dsimp only

theorem keeps_execAttend {s t u : State} (h : Keeps s t) (a0) (he : execAttend a0 t = .next u) : Keeps s u := by
  unfold execAttend at he
  · injection he with he
    subst he
    iterate 40 try any_goals first
      | with_reducible assumption
      | with_reducible refine keeps_startPress ?_ ..
      | with_reducible refine Keeps.snd (by with_reducible assumption) ?_
      | (intro _)
      | split
      | dsimp only

theorem keeps_execTopk {s t u : State} (h : Keeps s t) (a0) (he : execTopk a0 t = .next u) : Keeps s u := by
  unfold execTopk at he
  · injection he with he
    subst he
    iterate 40 try any_goals first
      | with_reducible assumption
      | with_reducible refine keeps_startPress ?_ ..
      | with_reducible refine Keeps.snd (by with_reducible assumption) ?_
      | (intro _)
      | split
      | dsimp only

theorem keeps_execEmbedGather {s t u : State} (h : Keeps s t) (a0) (he : execEmbedGather a0 t = .next u) : Keeps s u := by
  unfold execEmbedGather at he
  · injection he with he
    subst he
    iterate 40 try any_goals first
      | with_reducible assumption
      | with_reducible refine keeps_startPress ?_ ..
      | with_reducible refine Keeps.snd (by with_reducible assumption) ?_
      | (intro _)
      | split
      | dsimp only

theorem keeps_holdPermit {s t : State} (h : Keeps s t) (a0) (a1) (a2) (a3) : Keeps s (holdPermit a0 a1 a2 a3 t) := by
  unfold holdPermit
  iterate 40 try any_goals first
    | with_reducible assumption
    | with_reducible refine keeps_modPower ?_ ?_
    | with_reducible refine keeps_meter ?_ ..
    | with_reducible refine Keeps.snd (by with_reducible assumption) ?_
    | (simp; done)
    | (intro _; simp_all; done)
    | (simp_all; done)
    | (intro _)
    | split
    | dsimp only

theorem keeps_grantSlice {s t : State} (h : Keeps s t) (a0) (a1) (a2) (a3) (a4) (a5) (a6) : Keeps s (grantSlice a0 a1 a2 a3 a4 a5 a6 t) := by
  unfold grantSlice
  iterate 40 try any_goals first
    | with_reducible assumption
    | with_reducible refine keeps_modPressRun ?_ ..
    | with_reducible refine keeps_holdPermit ?_ ..
    | with_reducible refine Keeps.snd (by with_reducible assumption) ?_
    | (intro _)
    | split
    | dsimp only

theorem keeps_endBarred {s t : State} (h : Keeps s t) (a0) (a1) (a2) (a3) : Keeps s (endBarred a0 a1 a2 a3 t) := by
  unfold endBarred
  iterate 40 try any_goals first
    | with_reducible assumption
    | with_reducible refine keeps_malformedPress ?_ ..
    | with_reducible refine keeps_endPress ?_ ..
    | with_reducible refine Keeps.snd (by with_reducible assumption) ?_
    | (intro _)
    | split
    | dsimp only

theorem keeps_openWatch {s t : State} (h : Keeps s t) : Keeps s (openWatch t) := by
  unfold openWatch
  iterate 40 try any_goals first
    | with_reducible assumption
    | with_reducible refine Keeps.snd (by with_reducible assumption) ?_
    | (intro _)
    | split
    | dsimp only
    | with_reducible refine Keeps.upd ?_ ..

theorem keeps_closeWatch {s t : State} (h : Keeps s t) : Keeps s (closeWatch t) := by
  unfold closeWatch
  iterate 40 try any_goals first
    | with_reducible assumption
    | with_reducible refine Keeps.snd (by with_reducible assumption) ?_
    | (intro _)
    | split
    | dsimp only
    | with_reducible refine Keeps.upd ?_ ..

theorem keeps_beginPress {s t : State} (h : Keeps s t) (a0) (a1) (a2) : Keeps s (beginPress a0 a1 a2 t) := by
  unfold beginPress
  iterate 40 try any_goals first
    | with_reducible assumption
    | with_reducible refine keeps_openWatch ?_ ..
    | with_reducible refine keeps_modRun ?_ ..
    | with_reducible refine Keeps.snd (by with_reducible assumption) ?_
    | (intro _)
    | split
    | dsimp only
    | with_reducible refine Keeps.upd ?_ ..

theorem keeps_waitEntry {s t : State} (h : Keeps s t) (a0) : Keeps s (waitEntry a0 t) := by
  unfold waitEntry
  iterate 40 try any_goals first
    | with_reducible assumption
    | with_reducible refine keeps_waitPtp ?_ ..
    | with_reducible refine Keeps.snd (by with_reducible assumption) ?_
    | (intro _)
    | split
    | dsimp only

theorem keeps_skipAsked {s t : State} (h : Keeps s t) (a0) (a1) : Keeps s (skipAsked a0 a1 t) := by
  unfold skipAsked
  iterate 40 try any_goals first
    | with_reducible assumption
    | with_reducible refine keeps_holdReceiptFull ?_ ..
    | with_reducible refine keeps_plannedSkipped ?_ ..
    | with_reducible refine keeps_modQueue ?_ ..
    | with_reducible refine keeps_withdrawPress ?_ ..
    | with_reducible refine Keeps.snd (by with_reducible assumption) ?_
    | (intro _)
    | split
    | dsimp only

theorem keeps_grantAsked {s t : State} (h : Keeps s t) (a0) (a1) (a2) (a3) (a4) (a5) : Keeps s (grantAsked a0 a1 a2 a3 a4 a5 t) := by
  unfold grantAsked
  iterate 40 try any_goals first
    | with_reducible assumption
    | with_reducible refine keeps_waitEntry ?_ ..
    | with_reducible refine keeps_grantSlice ?_ ..
    | with_reducible refine keeps_beginPress ?_ ..
    | with_reducible refine keeps_plannedBegan ?_ ..
    | with_reducible refine keeps_placeAll ?_ ..
    | with_reducible refine Keeps.snd (by with_reducible assumption) ?_
    | (intro _)
    | split
    | dsimp only

theorem keeps_decideSlice {s t : State} (h : Keeps s t) (a0) (a1) (a2) (a3) : Keeps s (decideSlice a0 a1 a2 a3 t) := by
  unfold decideSlice
  iterate 40 try any_goals first
    | with_reducible assumption
    | with_reducible refine keeps_endBarred ?_ ..
    | with_reducible refine keeps_skipAsked ?_ ..
    | with_reducible refine keeps_holdReceiptFull ?_ ..
    | with_reducible refine keeps_grantAsked ?_ ..
    | with_reducible refine keeps_modPower ?_ ?_
    | with_reducible refine Keeps.snd (by with_reducible assumption) ?_
    | (simp; done)
    | (intro _; simp_all; done)
    | (simp_all; done)
    | (intro _)
    | split
    | dsimp only

theorem keeps_permitGrant {s t : State} (h : Keeps s t) : Keeps s (permitGrant t) := by
  unfold permitGrant
  iterate 40 try any_goals first
    | with_reducible assumption
    | with_reducible refine keeps_modPower ?_ ?_
    | with_reducible refine keeps_decideSlice ?_ ..
    | with_reducible refine Keeps.snd (by with_reducible assumption) ?_
    | (simp; done)
    | (intro _; simp_all; done)
    | (simp_all; done)
    | (intro _)
    | split
    | dsimp only

theorem keeps_execPermitGrant {s t u : State} (h : Keeps s t) (he : execPermitGrant t = .next u) : Keeps s u := by
  unfold execPermitGrant at he
  · injection he with he
    subst he
    iterate 40 try any_goals first
      | with_reducible assumption
      | with_reducible refine keeps_permitGrant ?_ ..
      | with_reducible refine Keeps.snd (by with_reducible assumption) ?_
      | (intro _)
      | split
      | dsimp only

theorem keeps_permitTimeout {s t : State} (h : Keeps s t) (a0) : Keeps s (permitTimeout a0 t) := by
  unfold permitTimeout
  iterate 40 try any_goals first
    | with_reducible assumption
    | with_reducible refine keeps_waitMono ?_ ..
    | with_reducible refine keeps_modPower ?_ ?_
    | with_reducible refine keeps_endPress ?_ ..
    | with_reducible refine Keeps.snd (by with_reducible assumption) ?_
    | (simp; done)
    | (intro _; simp_all; done)
    | (simp_all; done)
    | (intro _)
    | split
    | dsimp only

theorem keeps_execPermitTimeout {s t u : State} (h : Keeps s t) (a0) (he : execPermitTimeout a0 t = .next u) : Keeps s u := by
  unfold execPermitTimeout at he
  · injection he with he
    subst he
    iterate 40 try any_goals first
      | with_reducible assumption
      | with_reducible refine keeps_permitTimeout ?_ ..
      | with_reducible refine Keeps.snd (by with_reducible assumption) ?_
      | (intro _)
      | split
      | dsimp only

theorem keeps_permitWindowEnd {s t : State} (h : Keeps s t) (a0) : Keeps s (permitWindowEnd a0 t) := by
  unfold permitWindowEnd
  iterate 40 try any_goals first
    | with_reducible assumption
    | with_reducible refine keeps_meter ?_ ..
    | with_reducible refine keeps_waitMono ?_ ..
    | with_reducible refine keeps_modPower ?_ ?_
    | with_reducible refine Keeps.snd (by with_reducible assumption) ?_
    | (simp; done)
    | (intro _; simp_all; done)
    | (simp_all; done)
    | (intro _)
    | split
    | dsimp only

theorem keeps_execPermitWindowEnd {s t u : State} (h : Keeps s t) (a0) (he : execPermitWindowEnd a0 t = .next u) : Keeps s u := by
  unfold execPermitWindowEnd at he
  · injection he with he
    subst he
    iterate 40 try any_goals first
      | with_reducible assumption
      | with_reducible refine keeps_permitWindowEnd ?_ ..
      | with_reducible refine Keeps.snd (by with_reducible assumption) ?_
      | (intro _)
      | split
      | dsimp only

theorem keeps_blockDispatch {s t : State} (h : Keeps s t) (a0) : Keeps s (blockDispatch a0 t) := by
  unfold blockDispatch
  iterate 40 try any_goals first
    | with_reducible assumption
    | with_reducible refine keeps_modPower ?_ ?_
    | with_reducible refine Keeps.each ?_ _ (fun _ _ _ => ?_)
    | with_reducible refine keeps_galleyAccess ?_ ..
    | with_reducible refine keeps_modPressRun ?_ ..
    | with_reducible refine Keeps.snd (by with_reducible assumption) ?_
    | (simp; done)
    | (intro _; simp_all; done)
    | (simp_all; done)
    | (intro _)
    | split
    | dsimp only

theorem keeps_execPressBlockDispatch {s t u : State} (h : Keeps s t) (a0) (he : execPressBlockDispatch a0 t = .next u) : Keeps s u := by
  unfold execPressBlockDispatch at he
  · injection he with he
    subst he
    iterate 40 try any_goals first
      | with_reducible assumption
      | with_reducible refine keeps_blockDispatch ?_ ..
      | with_reducible refine Keeps.snd (by with_reducible assumption) ?_
      | (intro _)
      | split
      | dsimp only

theorem keeps_readRanges {s t : State} (h : Keeps s t) (a0) (a1) (a2) : Keeps s (readRanges a0 a1 a2 t).2 := by
  unfold readRanges
  iterate 40 try any_goals first
    | with_reducible assumption
    | with_reducible refine keeps_readSeg ?_ ..
    | with_reducible refine keeps_latchAll ?_ ..
    | with_reducible refine Keeps.snd (by with_reducible assumption) ?_
    | with_reducible refine Keeps.foldl_snd ?_ _ _ (fun _ _ _ => ?_)
    | with_reducible refine Keeps.foldl ?_ _ _ (fun _ _ _ => ?_)
    | (intro _)
    | split
    | dsimp only

theorem keeps_undefRanges {s t : State} (h : Keeps s t) (a0) (a1) : Keeps s (undefRanges a0 a1 t) := by
  unfold undefRanges
  iterate 40 try any_goals first
    | with_reducible assumption
    | with_reducible refine Keeps.each ?_ _ (fun _ _ _ => ?_)
    | with_reducible refine keeps_undefSeg ?_ ..
    | with_reducible refine Keeps.snd (by with_reducible assumption) ?_
    | (intro _)
    | split
    | dsimp only

theorem keeps_writeRanges {s t : State} (h : Keeps s t) (a0) (a1) (a2) : Keeps s (writeRanges a0 a1 a2 t).2 := by
  unfold writeRanges
  iterate 40 try any_goals first
    | with_reducible assumption
    | with_reducible refine keeps_writeSeg ?_ ..
    | with_reducible refine keeps_latchAll ?_ ..
    | with_reducible refine Keeps.snd (by with_reducible assumption) ?_
    | with_reducible refine Keeps.foldl_snd ?_ _ _ (fun _ _ _ => ?_)
    | with_reducible refine Keeps.foldl ?_ _ _ (fun _ _ _ => ?_)
    | (intro _)
    | split
    | dsimp only

theorem keeps_finishPress {s t : State} (h : Keeps s t) (a0) (a1) (a2) (a3) : Keeps s (finishPress a0 a1 a2 a3 t) := by
  unfold finishPress
  iterate 40 try any_goals first
    | with_reducible assumption
    | with_reducible exact id
    | with_reducible refine keeps_closeWatch ?_ ..
    | with_reducible refine keeps_modPressRun ?_ ..
    | with_reducible refine keeps_modGalley ?_ ?_
    | with_reducible refine keeps_readRanges ?_ ..
    | with_reducible refine keeps_settle ?_ ..
    | with_reducible refine keeps_undefRanges ?_ ..
    | with_reducible refine keeps_writeRanges ?_ ..
    | with_reducible refine keeps_freeWord ?_ ..
    | with_reducible refine Keeps.snd (by with_reducible assumption) ?_
    | with_reducible refine wf_wrBytes _ _ ?_
    | with_reducible refine wf_clearBytes _ _ ?_
    | with_reducible refine wf_touch _ ?_
    | with_reducible refine wf_touches _ ?_
    | rw [setBad_mem]
    | (intro _; simp_all; done)
    | (intro _)
    | split
    | dsimp only
    | with_reducible refine Keeps.updAll ?_ ?_ ?_ ?_ ?_ ?_ ?_ ?_ ?_ ?_ ?_ ?_ ?_
    | (simp; done)
    | (simp_all; done)

theorem keeps_blockDone {s t : State} (h : Keeps s t) (a0) : Keeps s (blockDone a0 t) := by
  unfold blockDone
  iterate 40 try any_goals first
    | with_reducible assumption
    | with_reducible refine keeps_modPressRun ?_ ..
    | with_reducible refine keeps_endRecoveries ?_ ..
    | with_reducible refine keeps_finishPress ?_ ..
    | with_reducible refine Keeps.snd (by with_reducible assumption) ?_
    | (intro _)
    | split
    | dsimp only

theorem keeps_execPressBlockDone {s t u : State} (h : Keeps s t) (a0) (he : execPressBlockDone a0 t = .next u) : Keeps s u := by
  unfold execPressBlockDone at he
  · injection he with he
    subst he
    iterate 40 try any_goals first
      | with_reducible assumption
      | with_reducible refine keeps_blockDone ?_ ..
      | with_reducible refine Keeps.snd (by with_reducible assumption) ?_
      | (intro _)
      | split
      | dsimp only

theorem keeps_permitRelease {s t : State} (h : Keeps s t) (a0) : Keeps s (permitRelease a0 t) := by
  unfold permitRelease
  iterate 40 try any_goals first
    | with_reducible assumption
    | with_reducible refine keeps_modPower ?_ ?_
    | with_reducible refine keeps_meter ?_ ..
    | with_reducible refine keeps_askPermit ?_ ..
    | with_reducible refine keeps_modPressRun ?_ ..
    | with_reducible refine keeps_finishPress ?_ ..
    | with_reducible refine Keeps.snd (by with_reducible assumption) ?_
    | (simp; done)
    | (intro _; simp_all; done)
    | (simp_all; done)
    | (intro _)
    | split
    | dsimp only

theorem keeps_execPermitRelease {s t u : State} (h : Keeps s t) (a0) (he : execPermitRelease a0 t = .next u) : Keeps s u := by
  unfold execPermitRelease at he
  · injection he with he
    subst he
    iterate 40 try any_goals first
      | with_reducible assumption
      | with_reducible refine keeps_permitRelease ?_ ..
      | with_reducible refine Keeps.snd (by with_reducible assumption) ?_
      | (intro _)
      | split
      | dsimp only

theorem keeps_startEntry {s t : State} (h : Keeps s t) (a0) (a1) (a2) : Keeps s (startEntry a0 a1 a2 t) := by
  unfold startEntry
  iterate 40 try any_goals first
    | with_reducible assumption
    | with_reducible refine keeps_waitPtp ?_ ..
    | with_reducible refine keeps_yieldWait ?_ ..
    | with_reducible refine keeps_modQueue ?_ ..
    | with_reducible refine keeps_loadContext ?_ ..
    | with_reducible refine keeps_entryBegan ?_ ..
    | with_reducible refine Keeps.snd (by with_reducible assumption) ?_
    | (intro _)
    | split
    | dsimp only
    | with_reducible refine Keeps.upd ?_ ..

theorem keeps_askedEntry {s t : State} (h : Keeps s t) (a0) (a1) : Keeps s (askedEntry a0 a1 t) := by
  unfold askedEntry
  iterate 40 try any_goals first
    | with_reducible assumption
    | with_reducible refine keeps_waitPtp ?_ ..
    | with_reducible refine keeps_endBarred ?_ ..
    | with_reducible refine keeps_plannedBegan ?_ ..
    | with_reducible refine keeps_beginPress ?_ ..
    | with_reducible refine keeps_skipAsked ?_ ..
    | with_reducible refine keeps_entrySkipped ?_ ..
    | with_reducible refine Keeps.snd (by with_reducible assumption) ?_
    | (intro _)
    | split
    | dsimp only

theorem keeps_programEntryStart {s t : State} (h : Keeps s t) : Keeps s (programEntryStart t) := by
  unfold programEntryStart
  iterate 40 try any_goals first
    | with_reducible assumption
    | with_reducible refine keeps_askedEntry ?_ ..
    | with_reducible refine keeps_waitPtp ?_ ..
    | with_reducible refine keeps_entrySkipped ?_ ..
    | with_reducible refine keeps_holdReceiptFull ?_ ..
    | with_reducible refine keeps_startEntry ?_ ..
    | with_reducible refine Keeps.snd (by with_reducible assumption) ?_
    | (intro _)
    | split
    | dsimp only

theorem keeps_execProgramEntryStart {s t u : State} (h : Keeps s t) (he : execProgramEntryStart t = .next u) : Keeps s u := by
  unfold execProgramEntryStart at he
  · injection he with he
    subst he
    iterate 40 try any_goals first
      | with_reducible assumption
      | with_reducible refine keeps_programEntryStart ?_ ..
      | with_reducible refine Keeps.snd (by with_reducible assumption) ?_
      | (intro _)
      | split
      | dsimp only

end Sys2Proof.Machine
end

