-- ==== Sys2Proof/Laws/KeepSend.lean ====
section
/-! SUPPORT. What the operations of Machine/Send.lean keep (Laws/Keeps.lean). -/
namespace Sys2Proof.Machine

theorem keeps_modTx {s t : State} (h : Keeps s t) (a0) (a1) : Keeps s (modTx a0 a1 t) := by
  unfold modTx
  iterate 40 try any_goals first
    | with_reducible assumption
    | with_reducible refine keeps_modDlv ?_ ..
    | with_reducible refine Keeps.snd (by with_reducible assumption) ?_
    | (intro _)
    | split
    | dsimp only

theorem keeps_addMessage {s t : State} (h : Keeps s t) (a0) (a1) (a2) : Keeps s (addMessage a0 a1 a2 t) := by
  unfold addMessage
  iterate 40 try any_goals first
    | with_reducible assumption
    | with_reducible refine keeps_modDlv ?_ ..
    | with_reducible refine keeps_modTx ?_ ..
    | with_reducible refine Keeps.snd (by with_reducible assumption) ?_
    | (intro _)
    | split
    | dsimp only

theorem keeps_admitWaits {s t : State} (h : Keeps s t) : Keeps s (admitWaits t) := by
  unfold admitWaits
  iterate 40 try any_goals first
    | with_reducible assumption
    | with_reducible refine Keeps.each ?_ _ (fun _ _ _ => ?_)
    | with_reducible refine keeps_addMessage ?_ ..
    | with_reducible refine keeps_modDlv ?_ ..
    | with_reducible refine Keeps.snd (by with_reducible assumption) ?_
    | (intro _)
    | split
    | dsimp only

theorem keeps_modOwned {s t : State} (h : Keeps s t) (a0) (a1) : Keeps s (modOwned a0 a1 t) := by
  unfold modOwned
  iterate 40 try any_goals first
    | with_reducible assumption
    | with_reducible refine keeps_modDlv ?_ ..
    | with_reducible refine Keeps.snd (by with_reducible assumption) ?_
    | (intro _)
    | split
    | dsimp only

theorem keeps_markExecuted {s t : State} (h : Keeps s t) (a0) (a1) (a2) : Keeps s (markExecuted a0 a1 a2 t) := by
  unfold markExecuted
  iterate 40 try any_goals first
    | with_reducible assumption
    | with_reducible refine keeps_modRun ?_ ..
    | with_reducible refine Keeps.snd (by with_reducible assumption) ?_
    | (intro _)
    | split
    | dsimp only

theorem keeps_launchRoce {s t : State} (h : Keeps s t) (a0) (a1) (a2) (a3) (a4) (a5) : Keeps s (launchRoce a0 a1 a2 a3 a4 a5 t) := by
  unfold launchRoce
  iterate 40 try any_goals first
    | with_reducible assumption
    | with_reducible refine keeps_settle ?_ ..
    | with_reducible refine keeps_addMessage ?_ ..
    | with_reducible refine keeps_markExecuted ?_ ..
    | with_reducible refine keeps_modTx ?_ ..
    | with_reducible refine Keeps.snd (by with_reducible assumption) ?_
    | (intro _)
    | split
    | dsimp only

theorem keeps_launch {s t : State} (h : Keeps s t) (a0) (a1) (a2) (a3) (a4) (a5) : Keeps s (launch a0 a1 a2 a3 a4 a5 t) := by
  unfold launch
  iterate 40 try any_goals first
    | with_reducible assumption
    | with_reducible refine keeps_settle ?_ ..
    | with_reducible refine keeps_launchRoce ?_ ..
    | with_reducible refine keeps_markExecuted ?_ ..
    | with_reducible refine keeps_addMessage ?_ ..
    | with_reducible refine Keeps.snd (by with_reducible assumption) ?_
    | (intro _)
    | split
    | dsimp only

theorem keeps_takeCounter {s t : State} (h : Keeps s t) (a0) (a1) : Keeps s (takeCounter a0 a1 t).2 := by
  unfold takeCounter
  iterate 40 try any_goals first
    | with_reducible assumption
    | with_reducible refine keeps_modInst ?_ ..
    | with_reducible refine Keeps.snd (by with_reducible assumption) ?_
    | (intro _)
    | split
    | dsimp only

theorem keeps_sealRecords {s t : State} (h : Keeps s t) (a0) (a1) (a2) (a3) (a4) (a5) : Keeps s (sealRecords a0 a1 a2 a3 a4 a5 t).2 := by
  induction a3 generalizing t a4 a5 with
  | zero =>
    unfold sealRecords
    iterate 40 try any_goals first
      | with_reducible assumption
      | with_reducible refine keeps_modQueue ?_ ..
      | with_reducible refine keeps_modInst ?_ ..
      | with_reducible refine keeps_modDlv ?_ ..
      | with_reducible refine keeps_takeCounter ?_ ..
      | with_reducible refine Keeps.snd (by with_reducible assumption) ?_
      | with_reducible refine Keeps.snd₂ (by with_reducible assumption) ?_
      | with_reducible refine Keeps.snd₃ (by with_reducible assumption) ?_
      | (intro _)
      | split
      | dsimp only
  | succ n ih =>
    unfold sealRecords
    iterate 40 try any_goals first
      | with_reducible assumption
      | with_reducible refine ih ?_ ..
      | with_reducible refine keeps_modQueue ?_ ..
      | with_reducible refine keeps_modInst ?_ ..
      | with_reducible refine keeps_modDlv ?_ ..
      | with_reducible refine keeps_takeCounter ?_ ..
      | with_reducible refine Keeps.snd (by with_reducible assumption) ?_
      | with_reducible refine Keeps.snd₂ (by with_reducible assumption) ?_
      | with_reducible refine Keeps.snd₃ (by with_reducible assumption) ?_
      | (intro _)
      | split
      | dsimp only

theorem keeps_copySealed {s t : State} (h : Keeps s t) (a0) (a1) (a2) (a3) (a4) (a5) (a6) : Keeps s (copySealed a0 a1 a2 a3 a4 a5 a6 t) := by
  unfold copySealed
  iterate 40 try any_goals first
    | with_reducible assumption
    | with_reducible refine keeps_readSeg ?_ ..
    | with_reducible refine keeps_latchAll ?_ ..
    | with_reducible refine keeps_settle ?_ ..
    | with_reducible refine keeps_undefSeg ?_ ..
    | with_reducible refine keeps_writeSeg ?_ ..
    | with_reducible refine keeps_transform ?_ ..
    | with_reducible refine keeps_sealRecords ?_ ..
    | with_reducible refine Keeps.snd (by with_reducible assumption) ?_
    | (intro _)
    | split
    | dsimp only
    | with_reducible refine Keeps.upd ?_ ..

theorem keeps_moveDocket {s t : State} (h : Keeps s t) (a0) (a1) (a2) (a3) : Keeps s (moveDocket a0 a1 a2 a3 t) := by
  unfold moveDocket
  iterate 40 try any_goals first
    | with_reducible assumption
    | with_reducible refine keeps_settle ?_ ..
    | with_reducible refine keeps_copySealed ?_ ..
    | with_reducible refine keeps_copyLocal ?_ ..
    | with_reducible refine keeps_launch ?_ ..
    | with_reducible refine Keeps.snd (by with_reducible assumption) ?_
    | (intro _)
    | split
    | dsimp only

theorem keeps_execCopy {s t u : State} (h : Keeps s t) (a0) (he : execCopy a0 t = .next u) : Keeps s u := by
  unfold execCopy at he
  · injection he with he
    subst he
    iterate 40 try any_goals first
      | with_reducible assumption
      | with_reducible refine keeps_startDocket ?_ _ _ _ (fun _ _ _ _ => ?_)
      | with_reducible refine keeps_moveDocket ?_ ..
      | with_reducible refine Keeps.snd (by with_reducible assumption) ?_
      | (intro _)
      | split
      | dsimp only

theorem keeps_execWrite {s t u : State} (h : Keeps s t) (a0) (he : execWrite a0 t = .next u) : Keeps s u := by
  unfold execWrite at he
  · injection he with he
    subst he
    iterate 40 try any_goals first
      | with_reducible assumption
      | with_reducible refine keeps_startDocket ?_ _ _ _ (fun _ _ _ _ => ?_)
      | with_reducible refine keeps_moveDocket ?_ ..
      | with_reducible refine Keeps.snd (by with_reducible assumption) ?_
      | (intro _)
      | split
      | dsimp only

theorem keeps_execSend {s t u : State} (h : Keeps s t) (a0) (he : execSend a0 t = .next u) : Keeps s u := by
  unfold execSend at he
  · injection he with he
    subst he
    iterate 40 try any_goals first
      | with_reducible assumption
      | with_reducible refine keeps_startDocket ?_ _ _ _ (fun _ _ _ _ => ?_)
      | with_reducible refine keeps_moveDocket ?_ ..
      | with_reducible refine Keeps.snd (by with_reducible assumption) ?_
      | (intro _)
      | split
      | dsimp only

theorem keeps_execRead {s t u : State} (h : Keeps s t) (a0) (he : execRead a0 t = .next u) : Keeps s u := by
  unfold execRead at he
  · injection he with he
    subst he
    iterate 40 try any_goals first
      | with_reducible assumption
      | with_reducible refine keeps_startDocket ?_ _ _ _ (fun _ _ _ _ => ?_)
      | with_reducible refine keeps_moveDocket ?_ ..
      | with_reducible refine Keeps.snd (by with_reducible assumption) ?_
      | (intro _)
      | split
      | dsimp only

theorem keeps_atomicDocket {s t : State} (h : Keeps s t) (a0) (a1) (a2) (a3) : Keeps s (atomicDocket a0 a1 a2 a3 t) := by
  unfold atomicDocket
  iterate 40 try any_goals first
    | with_reducible assumption
    | with_reducible refine keeps_launch ?_ ..
    | with_reducible refine Keeps.snd (by with_reducible assumption) ?_
    | (intro _)
    | split
    | dsimp only

theorem keeps_execAtomic {s t u : State} (h : Keeps s t) (a0) (he : execAtomic a0 t = .next u) : Keeps s u := by
  unfold execAtomic at he
  · injection he with he
    subst he
    iterate 40 try any_goals first
      | with_reducible assumption
      | with_reducible refine keeps_startDocket ?_ _ _ _ (fun _ _ _ _ => ?_)
      | with_reducible refine keeps_atomicDocket ?_ ..
      | with_reducible refine Keeps.snd (by with_reducible assumption) ?_
      | (intro _)
      | split
      | dsimp only

theorem keeps_execUnimplementedOpcode {s t u : State} (h : Keeps s t) (a0) (he : execUnimplementedOpcode a0 t = .next u) : Keeps s u := by
  unfold execUnimplementedOpcode at he
  · injection he with he
    subst he
    iterate 40 try any_goals first
      | with_reducible assumption
      | with_reducible refine keeps_placeAll ?_ ..
      | with_reducible refine keeps_malformed ?_ ..
      | with_reducible refine Keeps.snd (by with_reducible assumption) ?_
      | (intro _)
      | split
      | dsimp only

theorem keeps_inject {s t : State} (h : Keeps s t) (a0) : Keeps s (inject a0 t) := by
  unfold inject
  iterate 40 try any_goals first
    | with_reducible assumption
    | with_reducible refine keeps_modFabric ?_ ?_
    | with_reducible refine Keeps.snd (by with_reducible assumption) ?_
    | (simp; done)
    | (intro _; simp_all; done)
    | (simp_all; done)
    | (intro _)
    | split
    | dsimp only

theorem keeps_readSource {s t : State} (h : Keeps s t) (a0) (a1) (a2) (a3) (a4) (a5) : Keeps s (readSource a0 a1 a2 a3 a4 a5 t).2 := by
  unfold readSource
  iterate 40 try any_goals first
    | with_reducible assumption
    | with_reducible refine keeps_readSeg ?_ ..
    | with_reducible refine Keeps.snd (by with_reducible assumption) ?_
    | (intro _)
    | split
    | dsimp only
    | with_reducible refine Keeps.upd ?_ ..

theorem keeps_sealBody {s t : State} (h : Keeps s t) (a0) (a1) (a2) (a3) : Keeps s (sealBody a0 a1 a2 a3 t).2 := by
  unfold sealBody
  iterate 40 try any_goals first
    | with_reducible assumption
    | with_reducible refine keeps_takeCounter ?_ ..
    | with_reducible refine Keeps.snd (by with_reducible assumption) ?_
    | (intro _)
    | split
    | dsimp only

theorem keeps_packetData {s t : State} (h : Keeps s t) (a0) (a1) : Keeps s (packetData a0 a1 t).2.2.2 := by
  unfold packetData
  iterate 40 try any_goals first
    | with_reducible assumption
    | with_reducible refine keeps_readSource ?_ ..
    | with_reducible refine keeps_latchAll ?_ ..
    | with_reducible refine Keeps.snd (by with_reducible assumption) ?_
    | (intro _)
    | split
    | dsimp only

theorem keeps_wornOut {s t : State} (h : Keeps s t) (a0) (a1) : Keeps s (wornOut a0 a1 t) := by
  unfold wornOut
  iterate 40 try any_goals first
    | with_reducible assumption
    | with_reducible refine keeps_modTx ?_ ..
    | with_reducible refine Keeps.snd (by with_reducible assumption) ?_
    | (intro _)
    | split
    | dsimp only
    | with_reducible refine Keeps.upd ?_ ..

theorem keeps_sendPacket {s t : State} (h : Keeps s t) (a0) (a1) (a2) : Keeps s (sendPacket a0 a1 a2 t) := by
  unfold sendPacket
  iterate 40 try any_goals first
    | with_reducible assumption
    | with_reducible refine keeps_packetData ?_ ..
    | with_reducible refine keeps_sealBody ?_ ..
    | with_reducible refine keeps_wornOut ?_ ..
    | with_reducible refine keeps_inject ?_ ..
    | with_reducible refine keeps_modTx ?_ ..
    | with_reducible refine keeps_modDlv ?_ ..
    | with_reducible refine Keeps.snd (by with_reducible assumption) ?_
    | with_reducible refine Keeps.snd₂ (by with_reducible assumption) ?_
    | with_reducible refine Keeps.snd₃ (by with_reducible assumption) ?_
    | (intro _)
    | split
    | dsimp only

theorem keeps_undefBegun {s t : State} (h : Keeps s t) (a0) (a1) (a2) (a3) : Keeps s (undefBegun a0 a1 a2 a3 t) := by
  unfold undefBegun
  iterate 40 try any_goals first
    | with_reducible assumption
    | with_reducible refine keeps_undefSeg ?_ ..
    | with_reducible refine keeps_undefFar ?_ ..
    | with_reducible refine Keeps.snd (by with_reducible assumption) ?_
    | (intro _)
    | split
    | dsimp only

theorem keeps_noRouteEnds {s t : State} (h : Keeps s t) (a0) (a1) : Keeps s (noRouteEnds a0 a1 t) := by
  unfold noRouteEnds
  iterate 40 try any_goals first
    | with_reducible assumption
    | with_reducible refine keeps_settle ?_ ..
    | with_reducible refine keeps_modTx ?_ ..
    | with_reducible refine keeps_undefBegun ?_ ..
    | with_reducible refine Keeps.snd (by with_reducible assumption) ?_
    | (intro _)
    | split
    | dsimp only

theorem keeps_packetEligible {s t : State} (h : Keeps s t) (a0) : Keeps s (packetEligible a0 t) := by
  unfold packetEligible
  iterate 40 try any_goals first
    | with_reducible assumption
    | with_reducible refine keeps_waitMono ?_ ..
    | with_reducible refine keeps_sendPacket ?_ ..
    | with_reducible refine keeps_noRouteEnds ?_ ..
    | with_reducible refine Keeps.snd (by with_reducible assumption) ?_
    | (intro _)
    | split
    | dsimp only

end Sys2Proof.Machine
end

