-- ==== Sys2Proof/Laws/KeepLink.lean ====
section
/-! SUPPORT. What the operations of Machine/Link.lean keep (Laws/Keeps.lean). -/
namespace Sys2Proof.Machine

theorem keeps_stripe {s t : State} (h : Keeps s t) (a0) (a1) : Keeps s (stripe a0 a1 t) := by
  unfold stripe
  iterate 40 try any_goals first
    | with_reducible assumption
    | with_reducible refine keeps_emit ?_ ..
    | with_reducible refine keeps_modPort ?_ ..
    | with_reducible refine Keeps.snd (by with_reducible assumption) ?_
    | (intro _)
    | split
    | dsimp only

theorem keeps_sendControl {s t : State} (h : Keeps s t) (a0) (a1) (a2) : Keeps s (sendControl a0 a1 a2 t) := by
  unfold sendControl
  iterate 40 try any_goals first
    | with_reducible assumption
    | with_reducible refine keeps_emit ?_ ..
    | with_reducible refine keeps_stripe ?_ ..
    | with_reducible refine Keeps.snd (by with_reducible assumption) ?_
    | (intro _)
    | split
    | dsimp only

theorem keeps_replayFrom {s t : State} (h : Keeps s t) (a0) (a1) : Keeps s (replayFrom a0 a1 t) := by
  unfold replayFrom
  iterate 40 try any_goals first
    | with_reducible assumption
    | with_reducible refine Keeps.each ?_ _ (fun _ _ _ => ?_)
    | with_reducible refine keeps_emit ?_ ..
    | with_reducible refine keeps_stripe ?_ ..
    | with_reducible refine keeps_modPort ?_ ..
    | with_reducible refine Keeps.snd (by with_reducible assumption) ?_
    | (intro _)
    | split
    | dsimp only

theorem keeps_returnCredits {s t : State} (h : Keeps s t) (a0) (a1) : Keeps s (returnCredits a0 a1 t) := by
  induction a1 generalizing t with
  | zero =>
    unfold returnCredits
    iterate 40 try any_goals first
      | with_reducible assumption
      | with_reducible refine keeps_modQueue ?_ ..
      | with_reducible refine keeps_modInst ?_ ..
      | with_reducible refine keeps_modDlv ?_ ..
      | with_reducible refine keeps_emit ?_ ..
      | with_reducible refine keeps_modPort ?_ ..
      | with_reducible refine keeps_stripe ?_ ..
      | with_reducible refine keeps_sendCells ?_ ..
      | with_reducible refine Keeps.snd (by with_reducible assumption) ?_
      | with_reducible refine Keeps.snd₂ (by with_reducible assumption) ?_
      | with_reducible refine Keeps.snd₃ (by with_reducible assumption) ?_
      | (intro _)
      | split
      | dsimp only
  | succ n ih =>
    unfold returnCredits
    iterate 40 try any_goals first
      | with_reducible assumption
      | with_reducible refine ih ?_ ..
      | with_reducible refine keeps_modQueue ?_ ..
      | with_reducible refine keeps_modInst ?_ ..
      | with_reducible refine keeps_modDlv ?_ ..
      | with_reducible refine keeps_emit ?_ ..
      | with_reducible refine keeps_modPort ?_ ..
      | with_reducible refine keeps_stripe ?_ ..
      | with_reducible refine keeps_sendCells ?_ ..
      | with_reducible refine Keeps.snd (by with_reducible assumption) ?_
      | with_reducible refine Keeps.snd₂ (by with_reducible assumption) ?_
      | with_reducible refine Keeps.snd₃ (by with_reducible assumption) ?_
      | (intro _)
      | split
      | dsimp only

theorem keeps_freeCells {s t : State} (h : Keeps s t) (a0) (a1) (a2) (a3) : Keeps s (freeCells a0 a1 a2 a3 t) := by
  unfold freeCells
  iterate 40 try any_goals first
    | with_reducible assumption
    | with_reducible refine keeps_returnCredits ?_ ..
    | with_reducible refine keeps_modPort ?_ ..
    | with_reducible refine Keeps.snd (by with_reducible assumption) ?_
    | (intro _)
    | split
    | dsimp only

theorem keeps_sendCells {s t : State} (h : Keeps s t) (a0) (a1) : Keeps s (sendCells a0 a1 t) := by
  unfold sendCells
  iterate 40 try any_goals first
    | with_reducible assumption
    | with_reducible refine keeps_emit ?_ ..
    | with_reducible refine keeps_stripe ?_ ..
    | with_reducible refine keeps_modPort ?_ ..
    | with_reducible refine Keeps.snd (by with_reducible assumption) ?_
    | (intro _)
    | split
    | dsimp only

theorem keeps_setBuffer {s t : State} (h : Keeps s t) (a0) (a1) (a2) (a3) : Keeps s (setBuffer a0 a1 a2 a3 t) := by
  unfold setBuffer
  iterate 40 try any_goals first
    | with_reducible assumption
    | with_reducible refine keeps_modPort ?_ ..
    | with_reducible refine keeps_modFabric ?_ ?_
    | with_reducible refine Keeps.snd (by with_reducible assumption) ?_
    | (simp; done)
    | (intro _; simp_all; done)
    | (simp_all; done)
    | (intro _)
    | split
    | dsimp only

theorem keeps_drainLocal {s t : State} (h : Keeps s t) (a0) (a1) : Keeps s (drainLocal a0 a1 t) := by
  induction a1 generalizing t with
  | zero =>
    unfold drainLocal
    iterate 40 try any_goals first
      | with_reducible assumption
      | with_reducible refine keeps_modQueue ?_ ..
      | with_reducible refine keeps_modInst ?_ ..
      | with_reducible refine keeps_modDlv ?_ ..
      | with_reducible refine keeps_emit ?_ ..
      | with_reducible refine keeps_modPort ?_ ..
      | with_reducible refine keeps_stripe ?_ ..
      | with_reducible refine keeps_sendCells ?_ ..
      | with_reducible refine Keeps.snd (by with_reducible assumption) ?_
      | with_reducible refine Keeps.snd₂ (by with_reducible assumption) ?_
      | with_reducible refine Keeps.snd₃ (by with_reducible assumption) ?_
      | (intro _)
      | split
      | dsimp only
  | succ n ih =>
    unfold drainLocal
    iterate 40 try any_goals first
      | with_reducible assumption
      | with_reducible refine ih ?_ ..
      | with_reducible refine keeps_modQueue ?_ ..
      | with_reducible refine keeps_modInst ?_ ..
      | with_reducible refine keeps_modDlv ?_ ..
      | with_reducible refine keeps_emit ?_ ..
      | with_reducible refine keeps_modPort ?_ ..
      | with_reducible refine keeps_stripe ?_ ..
      | with_reducible refine keeps_sendCells ?_ ..
      | with_reducible refine Keeps.snd (by with_reducible assumption) ?_
      | with_reducible refine Keeps.snd₂ (by with_reducible assumption) ?_
      | with_reducible refine Keeps.snd₃ (by with_reducible assumption) ?_
      | (intro _)
      | split
      | dsimp only

theorem keeps_sendWaitingLocal {s t : State} (h : Keeps s t) (a0) : Keeps s (sendWaitingLocal a0 t) := by
  unfold sendWaitingLocal
  iterate 40 try any_goals first
    | with_reducible assumption
    | with_reducible refine keeps_drainLocal ?_ ..
    | with_reducible refine Keeps.snd (by with_reducible assumption) ?_
    | (intro _)
    | split
    | dsimp only

theorem keeps_sendLocal {s t : State} (h : Keeps s t) (a0) (a1) (a2) : Keeps s (sendLocal a0 a1 a2 t) := by
  unfold sendLocal
  iterate 40 try any_goals first
    | with_reducible assumption
    | with_reducible refine keeps_sendWaitingLocal ?_ ..
    | with_reducible refine keeps_modPort ?_ ..
    | with_reducible refine Keeps.snd (by with_reducible assumption) ?_
    | (intro _)
    | split
    | dsimp only
    | with_reducible refine Keeps.upd ?_ ..

end Sys2Proof.Machine
end

