-- ==== Sys2Proof/Laws/KeepPtp.lean ====
section
/-! SUPPORT. What the operations of Machine/Ptp.lean keep (Laws/Keeps.lean). -/
namespace Sys2Proof.Machine

theorem keeps_ptpOut {s t : State} (h : Keeps s t) (a0) (a1) : Keeps s (ptpOut a0 a1 t) := by
  unfold ptpOut
  iterate 40 try any_goals first
    | with_reducible assumption
    | with_reducible refine keeps_sendLocal ?_ ..
    | with_reducible refine keeps_emit ?_ ..
    | with_reducible refine Keeps.snd (by with_reducible assumption) ?_
    | (intro _)
    | split
    | dsimp only

theorem keeps_ptpArrives {s t : State} (h : Keeps s t) (a0) (a1) : Keeps s (ptpArrives a0 a1 t) := by
  unfold ptpArrives
  iterate 40 try any_goals first
    | with_reducible assumption
    | with_reducible refine keeps_stamp ?_ ..
    | with_reducible refine keeps_measure ?_ ..
    | with_reducible refine keeps_modTime ?_ ..
    | with_reducible refine keeps_ptpOut ?_ ..
    | with_reducible refine Keeps.snd (by with_reducible assumption) ?_
    | (intro _)
    | split
    | dsimp only

theorem keeps_execPtpMessageRx {s t u : State} (h : Keeps s t) (a0) (a1) (he : execPtpMessageRx a0 a1 t = .next u) : Keeps s u := by
  unfold execPtpMessageRx at he
  · injection he with he
    subst he
    iterate 40 try any_goals first
      | with_reducible assumption
      | with_reducible refine keeps_ptpArrives ?_ ..
      | with_reducible refine Keeps.snd (by with_reducible assumption) ?_
      | (intro _)
      | split
      | dsimp only

theorem keeps_ptpSend {s t : State} (h : Keeps s t) (a0) : Keeps s (ptpSend a0 t) := by
  unfold ptpSend
  iterate 40 try any_goals first
    | with_reducible assumption
    | with_reducible refine keeps_stamp ?_ ..
    | with_reducible refine keeps_ptpOut ?_ ..
    | with_reducible refine keeps_modTime ?_ ..
    | with_reducible refine Keeps.snd (by with_reducible assumption) ?_
    | (intro _)
    | split
    | dsimp only

theorem keeps_execPtpMessageSend {s t u : State} (h : Keeps s t) (a0) (he : execPtpMessageSend a0 t = .next u) : Keeps s u := by
  unfold execPtpMessageSend at he
  · injection he with he
    subst he
    iterate 40 try any_goals first
      | with_reducible assumption
      | with_reducible refine keeps_ptpSend ?_ ..
      | with_reducible refine Keeps.snd (by with_reducible assumption) ?_
      | (intro _)
      | split
      | dsimp only

end Sys2Proof.Machine
end

