-- ==== Sys2Proof/Laws/KeepDeliver.lean ====
section
/-! SUPPORT. What the operations of Machine/Deliver.lean keep (Laws/Keeps.lean). -/
namespace Sys2Proof.Machine

theorem keeps_consume {s t : State} (h : Keeps s t) (a0) : Keeps s (consume a0 t) := by
  unfold consume
  iterate 40 try any_goals first
    | with_reducible assumption
    | with_reducible refine keeps_modFabric ?_ ?_
    | with_reducible refine Keeps.snd (by with_reducible assumption) ?_
    | (simp; done)
    | (intro _; simp_all; done)
    | (simp_all; done)
    | (intro _)
    | split
    | dsimp only

theorem keeps_modRx {s t : State} (h : Keeps s t) (a0) (a1) : Keeps s (modRx a0 a1 t) := by
  unfold modRx
  iterate 40 try any_goals first
    | with_reducible assumption
    | with_reducible refine keeps_modDlv ?_ ..
    | with_reducible refine Keeps.snd (by with_reducible assumption) ?_
    | (intro _)
    | split
    | dsimp only

theorem keeps_settlePsns {s t : State} (h : Keeps s t) (a0) (a1) : Keeps s (settlePsns a0 a1 t) := by
  unfold settlePsns
  iterate 40 try any_goals first
    | with_reducible assumption
    | with_reducible refine keeps_modRx ?_ ..
    | with_reducible refine keeps_modDlv ?_ ..
    | with_reducible refine Keeps.snd (by with_reducible assumption) ?_
    | with_reducible refine Keeps.foldl_snd ?_ _ _ (fun _ _ _ => ?_)
    | with_reducible refine Keeps.foldl ?_ _ _ (fun _ _ _ => ?_)
    | (intro _)
    | split
    | dsimp only

theorem keeps_sendAck {s t : State} (h : Keeps s t) (a0) : Keeps s (sendAck a0 t) := by
  unfold sendAck
  iterate 40 try any_goals first
    | with_reducible assumption
    | with_reducible refine keeps_modRx ?_ ..
    | with_reducible refine keeps_inject ?_ ..
    | with_reducible refine Keeps.snd (by with_reducible assumption) ?_
    | (intro _)
    | split
    | dsimp only

theorem keeps_sendNak {s t : State} (h : Keeps s t) (a0) (a1) (a2) (a3) (a4) : Keeps s (sendNak a0 a1 a2 a3 a4 t) := by
  unfold sendNak
  iterate 40 try any_goals first
    | with_reducible assumption
    | with_reducible refine keeps_inject ?_ ..
    | with_reducible refine keeps_modDlv ?_ ..
    | with_reducible refine Keeps.snd (by with_reducible assumption) ?_
    | (intro _)
    | split
    | dsimp only

theorem keeps_unreserve {s t : State} (h : Keeps s t) (a0) : Keeps s (unreserve a0 t) := by
  unfold unreserve
  iterate 40 try any_goals first
    | with_reducible assumption
    | with_reducible refine keeps_modQueue ?_ ..
    | with_reducible refine Keeps.snd (by with_reducible assumption) ?_
    | (intro _)
    | split
    | dsimp only

theorem keeps_refuse {s t : State} (h : Keeps s t) (a0) (a1) (a2) (a3) : Keeps s (refuse a0 a1 a2 a3 t) := by
  unfold refuse
  iterate 40 try any_goals first
    | with_reducible assumption
    | with_reducible refine keeps_sendNak ?_ ..
    | with_reducible refine keeps_unreserve ?_ ..
    | with_reducible refine keeps_modRx ?_ ..
    | with_reducible refine keeps_settlePsns ?_ ..
    | with_reducible refine Keeps.snd (by with_reducible assumption) ?_
    | (intro _)
    | split
    | dsimp only

theorem keeps_senderTag {s t : State} (h : Keeps s t) (a0) : Keeps s (senderTag t a0).2 := by
  unfold senderTag
  iterate 40 try any_goals first
    | with_reducible assumption
    | with_reducible refine Keeps.snd (by with_reducible assumption) ?_
    | (intro _)
    | split
    | dsimp only
    | with_reducible refine Keeps.upd ?_ ..

theorem keeps_flushWindow {s t : State} (h : Keeps s t) (a0) (a1) : Keeps s (flushWindow a0 a1 t) := by
  unfold flushWindow
  iterate 40 try any_goals first
    | with_reducible assumption
    | with_reducible refine keeps_flushOther ?_ ..
    | with_reducible refine Keeps.snd (by with_reducible assumption) ?_
    | (intro _)
    | split
    | dsimp only

theorem keeps_notifyTarget {s t : State} (h : Keeps s t) (a0) (a1) (a2) (a3) (a4) : Keeps s (notifyTarget a0 a1 a2 a3 a4 t) := by
  unfold notifyTarget
  iterate 40 try any_goals first
    | with_reducible assumption
    | with_reducible refine keeps_senderTag ?_ ..
    | with_reducible refine keeps_writeReceipt ?_ ..
    | with_reducible refine keeps_flushWindow ?_ ..
    | with_reducible refine keeps_modQueue ?_ ..
    | with_reducible refine Keeps.snd (by with_reducible assumption) ?_
    | (intro _)
    | split
    | dsimp only

theorem keeps_takeMap {s t : State} (h : Keeps s t) (a0) : Keeps s (takeMap a0 t) := by
  unfold takeMap
  iterate 40 try any_goals first
    | with_reducible assumption
    | with_reducible refine keeps_modRx ?_ ..
    | with_reducible refine keeps_modDlv ?_ ..
    | with_reducible refine Keeps.snd (by with_reducible assumption) ?_
    | (intro _)
    | split
    | dsimp only

theorem keeps_openContext {s t u : State} (h : Keeps s t) (p : Packet) (e : openContext p t = some u) : Keeps s u := by
  unfold openContext at e
  dsimp only at e
  repeat' split at e
  all_goals cases e
  · exact keeps_modRx h _ _
  · exact keeps_modDlv h _

theorem keeps_admitTo {s t : State} (h : Keeps s t) (a0) (a1) (a2) (a3) (hf0 : ∀  u, Keeps s u → Keeps s (a1  u)) (hf1 : ∀  u, Keeps s u → Keeps s (a2  u)) (hf2 : ∀  u, Keeps s u → Keeps s (a3  u)) : Keeps s (admitTo a0 a1 a2 a3 t) := by
  unfold admitTo
  iterate 40 try any_goals first
    | with_reducible assumption
    | with_reducible refine hf2 _ ?_
    | with_reducible refine hf1 _ ?_
    | with_reducible refine hf0 _ ?_
    | with_reducible refine keeps_sendNak ?_ ..
    | with_reducible refine keeps_modDlv ?_ ..
    | with_reducible refine keeps_takeMap ?_ ..
    | with_reducible refine keeps_openContext (by with_reducible assumption) _ (by with_reducible assumption)
    | with_reducible refine Keeps.snd (by with_reducible assumption) ?_
    | (intro _)
    | split
    | dsimp only

theorem keeps_admitRequest {s t : State} (h : Keeps s t) (a0) (a1) (a2) (hf0 : ∀  u, Keeps s u → Keeps s (a1  u)) (hf1 : ∀  u, Keeps s u → Keeps s (a2  u)) : Keeps s (admitRequest a0 a1 a2 t) := by
  unfold admitRequest
  iterate 40 try any_goals first
    | with_reducible assumption
    | with_reducible refine hf1 _ ?_
    | with_reducible refine hf0 _ ?_
    | with_reducible refine keeps_admitTo ?_ _ _ _ _ (fun _ _ => ?_) (fun _ _ => ?_) (fun _ _ => ?_)
    | with_reducible refine keeps_sendAck ?_ ..
    | with_reducible refine Keeps.snd (by with_reducible assumption) ?_
    | (intro _)
    | split
    | dsimp only

theorem keeps_answerBehind {s t : State} (h : Keeps s t) (a0) : Keeps s (answerBehind a0 t) := by
  unfold answerBehind
  iterate 40 try any_goals first
    | with_reducible assumption
    | with_reducible refine keeps_inject ?_ ..
    | with_reducible refine keeps_sendAck ?_ ..
    | with_reducible refine Keeps.snd (by with_reducible assumption) ?_
    | (intro _)
    | split
    | dsimp only

theorem keeps_acknowledge {s t : State} (h : Keeps s t) (a0) (a1) : Keeps s (acknowledge a0 a1 t) := by
  unfold acknowledge
  iterate 40 try any_goals first
    | with_reducible assumption
    | with_reducible refine keeps_modRx ?_ ..
    | with_reducible refine keeps_settlePsns ?_ ..
    | with_reducible refine keeps_sendAck ?_ ..
    | with_reducible refine Keeps.snd (by with_reducible assumption) ?_
    | (intro _)
    | split
    | dsimp only

theorem keeps_bindMessage {s t : State} (h : Keeps s t) (a0) : Keeps s (bindMessage a0 t).2 := by
  unfold bindMessage
  iterate 40 try any_goals first
    | with_reducible assumption
    | with_reducible refine keeps_refuse ?_ ..
    | with_reducible refine keeps_sendNak ?_ ..
    | with_reducible refine keeps_modRx ?_ ..
    | with_reducible refine keeps_modQueue ?_ ..
    | with_reducible refine Keeps.snd (by with_reducible assumption) ?_
    | (intro _)
    | split
    | dsimp only

theorem keeps_modRxMsg {s t : State} (h : Keeps s t) (a0) (a1) (a2) : Keeps s (modRxMsg a0 a1 a2 t) := by
  unfold modRxMsg
  iterate 40 try any_goals first
    | with_reducible assumption
    | with_reducible refine keeps_modRx ?_ ..
    | with_reducible refine Keeps.snd (by with_reducible assumption) ?_
    | (intro _)
    | split
    | dsimp only

theorem keeps_dropRxMsg {s t : State} (h : Keeps s t) (a0) (a1) : Keeps s (dropRxMsg a0 a1 t) := by
  unfold dropRxMsg
  iterate 40 try any_goals first
    | with_reducible assumption
    | with_reducible refine keeps_modRx ?_ ..
    | with_reducible refine Keeps.snd (by with_reducible assumption) ?_
    | (intro _)
    | split
    | dsimp only

theorem keeps_writeParts {s t : State} (h : Keeps s t) (a0) (a1) (a2) : Keeps s (writeParts a0 a1 a2 t).2 := by
  induction a2 generalizing t with
  | nil =>
    unfold writeParts
    iterate 40 try any_goals first
      | with_reducible assumption
      | with_reducible refine keeps_modQueue ?_ ..
      | with_reducible refine keeps_modInst ?_ ..
      | with_reducible refine keeps_modDlv ?_ ..
      | with_reducible refine keeps_writeSeg ?_ ..
      | with_reducible refine keeps_latchAll ?_ ..
      | with_reducible refine Keeps.snd (by with_reducible assumption) ?_
      | with_reducible refine Keeps.snd₂ (by with_reducible assumption) ?_
      | with_reducible refine Keeps.snd₃ (by with_reducible assumption) ?_
      | (intro _)
      | split
      | dsimp only
  | cons x l ih =>
    unfold writeParts
    iterate 40 try any_goals first
      | with_reducible assumption
      | with_reducible refine ih ?_ ..
      | with_reducible refine keeps_modQueue ?_ ..
      | with_reducible refine keeps_modInst ?_ ..
      | with_reducible refine keeps_modDlv ?_ ..
      | with_reducible refine keeps_writeSeg ?_ ..
      | with_reducible refine keeps_latchAll ?_ ..
      | with_reducible refine Keeps.snd (by with_reducible assumption) ?_
      | with_reducible refine Keeps.snd₂ (by with_reducible assumption) ?_
      | with_reducible refine Keeps.snd₃ (by with_reducible assumption) ?_
      | (intro _)
      | split
      | dsimp only

theorem keeps_flushParts {s t : State} (h : Keeps s t) (a0) (a1) (a2) : Keeps s (flushParts a0 a1 a2 t) := by
  unfold flushParts
  iterate 40 try any_goals first
    | with_reducible assumption
    | with_reducible refine keeps_writeParts ?_ ..
    | with_reducible refine Keeps.snd (by with_reducible assumption) ?_
    | (intro _)
    | split
    | dsimp only

theorem keeps_placePacket {s t : State} (h : Keeps s t) (a0) : Keeps s (placePacket a0 t) := by
  unfold placePacket
  iterate 40 try any_goals first
    | with_reducible assumption
    | with_reducible refine keeps_bindMessage ?_ ..
    | with_reducible refine keeps_writeSeg ?_ ..
    | with_reducible refine keeps_refuse ?_ ..
    | with_reducible refine keeps_latchAll ?_ ..
    | with_reducible refine keeps_writeParts ?_ ..
    | with_reducible refine keeps_flushParts ?_ ..
    | with_reducible refine keeps_dropRxMsg ?_ ..
    | with_reducible refine keeps_unreserve ?_ ..
    | with_reducible refine keeps_notifyTarget ?_ ..
    | with_reducible refine keeps_reclaim ?_ ..
    | with_reducible refine keeps_acknowledge ?_ ..
    | with_reducible refine keeps_modRxMsg ?_ ..
    | with_reducible refine Keeps.snd (by with_reducible assumption) ?_
    | (intro _)
    | split
    | dsimp only
    | with_reducible refine Keeps.upd ?_ ..

theorem keeps_execWritePacket {s t u : State} (h : Keeps s t) (a0) (he : execWritePacket a0 t = .next u) : Keeps s u := by
  unfold execWritePacket at he
  · injection he with he
    subst he
    iterate 40 try any_goals first
      | with_reducible assumption
      | with_reducible refine keeps_admitRequest ?_ _ _ _ (fun _ _ => ?_) (fun _ _ => ?_)
      | with_reducible refine keeps_placePacket ?_ ..
      | with_reducible refine keeps_answerBehind ?_ ..
      | with_reducible refine keeps_consume ?_ ..
      | with_reducible refine Keeps.snd (by with_reducible assumption) ?_
      | (intro _)
      | split
      | dsimp only

theorem keeps_execSendPacket {s t u : State} (h : Keeps s t) (a0) (he : execSendPacket a0 t = .next u) : Keeps s u := by
  unfold execSendPacket at he
  · injection he with he
    subst he
    iterate 40 try any_goals first
      | with_reducible assumption
      | with_reducible refine keeps_admitRequest ?_ _ _ _ (fun _ _ => ?_) (fun _ _ => ?_)
      | with_reducible refine keeps_placePacket ?_ ..
      | with_reducible refine keeps_answerBehind ?_ ..
      | with_reducible refine keeps_consume ?_ ..
      | with_reducible refine Keeps.snd (by with_reducible assumption) ?_
      | (intro _)
      | split
      | dsimp only

theorem keeps_respond {s t : State} (h : Keeps s t) (a0) (a1) (a2) (a3) (a4) (a5) (a6) (a7) : Keeps s (respond a0 a1 a2 a3 a4 a5 a6 a7 t) := by
  unfold respond
  iterate 40 try any_goals first
    | with_reducible assumption
    | with_reducible refine keeps_inject ?_ ..
    | with_reducible refine keeps_sealBody ?_ ..
    | with_reducible refine Keeps.snd (by with_reducible assumption) ?_
    | (intro _)
    | split
    | dsimp only

theorem keeps_serveRead {s t : State} (h : Keeps s t) (a0) (a1) : Keeps s (serveRead a0 a1 t) := by
  unfold serveRead
  iterate 40 try any_goals first
    | with_reducible assumption
    | with_reducible refine keeps_sendNak ?_ ..
    | with_reducible refine keeps_refuse ?_ ..
    | with_reducible refine keeps_readSeg ?_ ..
    | with_reducible refine keeps_latchAll ?_ ..
    | with_reducible refine Keeps.each ?_ _ (fun _ _ _ => ?_)
    | with_reducible refine keeps_respond ?_ ..
    | with_reducible refine keeps_acknowledge ?_ ..
    | with_reducible refine Keeps.snd (by with_reducible assumption) ?_
    | (intro _)
    | split
    | dsimp only

theorem keeps_execReadReq {s t u : State} (h : Keeps s t) (a0) (he : execReadReq a0 t = .next u) : Keeps s u := by
  unfold execReadReq at he
  · injection he with he
    subst he
    iterate 40 try any_goals first
      | with_reducible assumption
      | with_reducible refine keeps_admitRequest ?_ _ _ _ (fun _ _ => ?_) (fun _ _ => ?_)
      | with_reducible refine keeps_serveRead ?_ ..
      | with_reducible refine keeps_answerBehind ?_ ..
      | with_reducible refine keeps_consume ?_ ..
      | with_reducible refine Keeps.snd (by with_reducible assumption) ?_
      | (intro _)
      | split
      | dsimp only

theorem keeps_serveAtomic {s t : State} (h : Keeps s t) (a0) : Keeps s (serveAtomic a0 t) := by
  unfold serveAtomic
  iterate 40 try any_goals first
    | with_reducible assumption
    | with_reducible refine keeps_sendNak ?_ ..
    | with_reducible refine keeps_refuse ?_ ..
    | with_reducible refine keeps_readSeg ?_ ..
    | with_reducible refine keeps_latchAll ?_ ..
    | with_reducible refine keeps_writeSeg ?_ ..
    | with_reducible refine keeps_notifyTarget ?_ ..
    | with_reducible refine keeps_modQueue ?_ ..
    | with_reducible refine keeps_modRx ?_ ..
    | with_reducible refine keeps_acknowledge ?_ ..
    | with_reducible refine keeps_inject ?_ ..
    | with_reducible refine Keeps.snd (by with_reducible assumption) ?_
    | (intro _)
    | split
    | dsimp only

theorem keeps_execAtomicPacket {s t u : State} (h : Keeps s t) (a0) (he : execAtomicPacket a0 t = .next u) : Keeps s u := by
  unfold execAtomicPacket at he
  · injection he with he
    subst he
    iterate 40 try any_goals first
      | with_reducible assumption
      | with_reducible refine keeps_admitRequest ?_ _ _ _ (fun _ _ => ?_) (fun _ _ => ?_)
      | with_reducible refine keeps_serveAtomic ?_ ..
      | with_reducible refine keeps_answerBehind ?_ ..
      | with_reducible refine keeps_consume ?_ ..
      | with_reducible refine Keeps.snd (by with_reducible assumption) ?_
      | (intro _)
      | split
      | dsimp only

theorem keeps_endMessage {s t : State} (h : Keeps s t) (a0) (a1) : Keeps s (endMessage a0 a1 t) := by
  unfold endMessage
  iterate 40 try any_goals first
    | with_reducible assumption
    | with_reducible refine keeps_settle ?_ ..
    | with_reducible refine Keeps.snd (by with_reducible assumption) ?_
    | (intro _)
    | split
    | dsimp only

theorem keeps_completeMessages {s t : State} (h : Keeps s t) (a0) : Keeps s (completeMessages a0 t) := by
  unfold completeMessages
  iterate 40 try any_goals first
    | with_reducible assumption
    | with_reducible refine keeps_modTx ?_ ..
    | with_reducible refine Keeps.each ?_ _ (fun _ _ _ => ?_)
    | with_reducible refine keeps_endMessage ?_ ..
    | with_reducible refine Keeps.snd (by with_reducible assumption) ?_
    | (intro _)
    | split
    | dsimp only

theorem keeps_ackArrives {s t : State} (h : Keeps s t) (a0) : Keeps s (ackArrives a0 t) := by
  unfold ackArrives
  iterate 40 try any_goals first
    | with_reducible assumption
    | with_reducible refine keeps_completeMessages ?_ ..
    | with_reducible refine keeps_modTx ?_ ..
    | with_reducible refine Keeps.snd (by with_reducible assumption) ?_
    | (intro _)
    | split
    | dsimp only

theorem keeps_execAck {s t u : State} (h : Keeps s t) (a0) (he : execAck a0 t = .next u) : Keeps s u := by
  unfold execAck at he
  · injection he with he
    subst he
    iterate 40 try any_goals first
      | with_reducible assumption
      | with_reducible refine keeps_ackArrives ?_ ..
      | with_reducible refine keeps_consume ?_ ..
      | with_reducible refine Keeps.snd (by with_reducible assumption) ?_
      | (intro _)
      | split
      | dsimp only

theorem keeps_undefRead {s t : State} (h : Keeps s t) (a0) (a1) (a2) (a3) : Keeps s (undefRead a0 a1 a2 a3 t) := by
  unfold undefRead
  iterate 40 try any_goals first
    | with_reducible assumption
    | with_reducible refine keeps_undefSeg ?_ ..
    | with_reducible refine Keeps.snd (by with_reducible assumption) ?_
    | (intro _)
    | split
    | dsimp only

theorem keeps_flushRead {s t : State} (h : Keeps s t) (a0) (a1) (a2) (a3) : Keeps s (flushRead a0 a1 a2 a3 t) := by
  unfold flushRead
  iterate 40 try any_goals first
    | with_reducible assumption
    | with_reducible refine keeps_flushParts ?_ ..
    | with_reducible refine Keeps.snd (by with_reducible assumption) ?_
    | (intro _)
    | split
    | dsimp only

theorem keeps_finishRead {s t : State} (h : Keeps s t) (a0) (a1) : Keeps s (finishRead a0 a1 t) := by
  unfold finishRead
  iterate 40 try any_goals first
    | with_reducible assumption
    | with_reducible refine keeps_modTx ?_ ..
    | with_reducible refine keeps_settle ?_ ..
    | with_reducible refine keeps_transform ?_ ..
    | with_reducible refine keeps_writeSeg ?_ ..
    | with_reducible refine keeps_latchAll ?_ ..
    | with_reducible refine keeps_launch ?_ ..
    | with_reducible refine Keeps.snd (by with_reducible assumption) ?_
    | (intro _)
    | split
    | dsimp only
    | with_reducible refine Keeps.upd ?_ ..

theorem keeps_checkRead {s t : State} (h : Keeps s t) (a0) (a1) : Keeps s (checkRead a0 a1 t) := by
  unfold checkRead
  iterate 40 try any_goals first
    | with_reducible assumption
    | with_reducible refine keeps_modTx ?_ ..
    | with_reducible refine keeps_endMessage ?_ ..
    | with_reducible refine keeps_undefRead ?_ ..
    | with_reducible refine keeps_flushRead ?_ ..
    | with_reducible refine keeps_finishRead ?_ ..
    | with_reducible refine Keeps.snd (by with_reducible assumption) ?_
    | (intro _)
    | split
    | dsimp only

theorem keeps_nakArrives {s t : State} (h : Keeps s t) (a0) : Keeps s (nakArrives a0 t) := by
  unfold nakArrives
  iterate 40 try any_goals first
    | with_reducible assumption
    | with_reducible refine keeps_modTx ?_ ..
    | with_reducible refine keeps_checkRead ?_ ..
    | with_reducible refine keeps_endMessage ?_ ..
    | with_reducible refine Keeps.snd (by with_reducible assumption) ?_
    | (intro _)
    | split
    | dsimp only

theorem keeps_execNak {s t u : State} (h : Keeps s t) (a0) (he : execNak a0 t = .next u) : Keeps s u := by
  unfold execNak at he
  · injection he with he
    subst he
    iterate 40 try any_goals first
      | with_reducible assumption
      | with_reducible refine keeps_nakArrives ?_ ..
      | with_reducible refine keeps_consume ?_ ..
      | with_reducible refine Keeps.snd (by with_reducible assumption) ?_
      | (intro _)
      | split
      | dsimp only

theorem keeps_readRespArrives {s t : State} (h : Keeps s t) (a0) : Keeps s (readRespArrives a0 t) := by
  unfold readRespArrives
  iterate 40 try any_goals first
    | with_reducible assumption
    | with_reducible refine keeps_latchAll ?_ ..
    | with_reducible refine keeps_writeSeg ?_ ..
    | with_reducible refine keeps_settle ?_ ..
    | with_reducible refine keeps_modTx ?_ ..
    | with_reducible refine keeps_checkRead ?_ ..
    | with_reducible refine keeps_writeParts ?_ ..
    | with_reducible refine Keeps.snd (by with_reducible assumption) ?_
    | (intro _)
    | split
    | dsimp only
    | with_reducible refine Keeps.upd ?_ ..

theorem keeps_execReadResp {s t u : State} (h : Keeps s t) (a0) (he : execReadResp a0 t = .next u) : Keeps s u := by
  unfold execReadResp at he
  · injection he with he
    subst he
    iterate 40 try any_goals first
      | with_reducible assumption
      | with_reducible refine keeps_readRespArrives ?_ ..
      | with_reducible refine keeps_consume ?_ ..
      | with_reducible refine Keeps.snd (by with_reducible assumption) ?_
      | (intro _)
      | split
      | dsimp only

theorem keeps_atomicRespArrives {s t : State} (h : Keeps s t) (a0) : Keeps s (atomicRespArrives a0 t) := by
  unfold atomicRespArrives
  iterate 40 try any_goals first
    | with_reducible assumption
    | with_reducible refine keeps_completeMessages ?_ ..
    | with_reducible refine keeps_modTx ?_ ..
    | with_reducible refine Keeps.snd (by with_reducible assumption) ?_
    | (intro _)
    | split
    | dsimp only

theorem keeps_execAtomicResp {s t u : State} (h : Keeps s t) (a0) (he : execAtomicResp a0 t = .next u) : Keeps s u := by
  unfold execAtomicResp at he
  · injection he with he
    subst he
    iterate 40 try any_goals first
      | with_reducible assumption
      | with_reducible refine keeps_atomicRespArrives ?_ ..
      | with_reducible refine keeps_consume ?_ ..
      | with_reducible refine Keeps.snd (by with_reducible assumption) ?_
      | (intro _)
      | split
      | dsimp only

theorem keeps_ackDelayExpiry {s t : State} (h : Keeps s t) (a0) : Keeps s (ackDelayExpiry a0 t) := by
  unfold ackDelayExpiry
  iterate 40 try any_goals first
    | with_reducible assumption
    | with_reducible refine keeps_sendAck ?_ ..
    | with_reducible refine keeps_waitMono ?_ ..
    | with_reducible refine Keeps.snd (by with_reducible assumption) ?_
    | (intro _)
    | split
    | dsimp only

theorem keeps_execAckDelayExpiry {s t u : State} (h : Keeps s t) (a0) (he : execAckDelayExpiry a0 t = .next u) : Keeps s u := by
  unfold execAckDelayExpiry at he
  · injection he with he
    subst he
    iterate 40 try any_goals first
      | with_reducible assumption
      | with_reducible refine keeps_ackDelayExpiry ?_ ..
      | with_reducible refine Keeps.snd (by with_reducible assumption) ?_
      | (intro _)
      | split
      | dsimp only

theorem keeps_startFailure {s t : State} (h : Keeps s t) (a0) : Keeps s (startFailure a0 t) := by
  unfold startFailure
  iterate 40 try any_goals first
    | with_reducible assumption
    | with_reducible refine keeps_modDlv ?_ ..
    | with_reducible refine keeps_modTx ?_ ..
    | with_reducible refine Keeps.snd (by with_reducible assumption) ?_
    | (intro _)
    | split
    | dsimp only

theorem keeps_rtoExpiry {s t : State} (h : Keeps s t) (a0) (a1) : Keeps s (rtoExpiry a0 a1 t) := by
  unfold rtoExpiry
  iterate 40 try any_goals first
    | with_reducible assumption
    | with_reducible refine keeps_waitMono ?_ ..
    | with_reducible refine keeps_modDlv ?_ ..
    | with_reducible refine keeps_startFailure ?_ ..
    | with_reducible refine keeps_modTx ?_ ..
    | with_reducible refine Keeps.snd (by with_reducible assumption) ?_
    | (intro _)
    | split
    | dsimp only

theorem keeps_execRtoExpiry {s t u : State} (h : Keeps s t) (a0) (a1) (he : execRtoExpiry a0 a1 t = .next u) : Keeps s u := by
  unfold execRtoExpiry at he
  · injection he with he
    subst he
    iterate 40 try any_goals first
      | with_reducible assumption
      | with_reducible refine keeps_rtoExpiry ?_ ..
      | with_reducible refine Keeps.snd (by with_reducible assumption) ?_
      | (intro _)
      | split
      | dsimp only

theorem keeps_rnrResend {s t : State} (h : Keeps s t) (a0) (a1) : Keeps s (rnrResend a0 a1 t) := by
  unfold rnrResend
  iterate 40 try any_goals first
    | with_reducible assumption
    | with_reducible refine keeps_waitMono ?_ ..
    | with_reducible refine keeps_startFailure ?_ ..
    | with_reducible refine keeps_modTx ?_ ..
    | with_reducible refine Keeps.snd (by with_reducible assumption) ?_
    | (intro _)
    | split
    | dsimp only

theorem keeps_execRnrResend {s t u : State} (h : Keeps s t) (a0) (a1) (he : execRnrResend a0 a1 t = .next u) : Keeps s u := by
  unfold execRnrResend at he
  · injection he with he
    subst he
    iterate 40 try any_goals first
      | with_reducible assumption
      | with_reducible refine keeps_rnrResend ?_ ..
      | with_reducible refine Keeps.snd (by with_reducible assumption) ?_
      | (intro _)
      | split
      | dsimp only

theorem keeps_connectionFail {s t : State} (h : Keeps s t) (a0) : Keeps s (connectionFail a0 t) := by
  unfold connectionFail
  iterate 40 try any_goals first
    | with_reducible assumption
    | with_reducible refine keeps_admitWaits ?_ ..
    | with_reducible refine keeps_noRouteEnds ?_ ..
    | with_reducible refine keeps_waitMono ?_ ..
    | with_reducible refine keeps_modDlv ?_ ..
    | with_reducible refine Keeps.each ?_ _ (fun _ _ _ => ?_)
    | with_reducible refine keeps_settle ?_ ..
    | with_reducible refine keeps_undefBegun ?_ ..
    | with_reducible refine Keeps.snd (by with_reducible assumption) ?_
    | (intro _)
    | split
    | dsimp only

theorem keeps_execConnectionFail {s t u : State} (h : Keeps s t) (a0) (he : execConnectionFail a0 t = .next u) : Keeps s u := by
  unfold execConnectionFail at he
  · injection he with he
    subst he
    iterate 40 try any_goals first
      | with_reducible assumption
      | with_reducible refine keeps_connectionFail ?_ ..
      | with_reducible refine Keeps.snd (by with_reducible assumption) ?_
      | (intro _)
      | split
      | dsimp only

theorem keeps_rxContextExpiry {s t : State} (h : Keeps s t) (a0) : Keeps s (rxContextExpiry a0 t) := by
  unfold rxContextExpiry
  iterate 40 try any_goals first
    | with_reducible assumption
    | with_reducible refine keeps_waitMono ?_ ..
    | with_reducible refine Keeps.each ?_ _ (fun _ _ _ => ?_)
    | with_reducible refine keeps_unreserve ?_ ..
    | with_reducible refine keeps_reclaim ?_ ..
    | with_reducible refine keeps_modDlv ?_ ..
    | with_reducible refine Keeps.snd (by with_reducible assumption) ?_
    | (intro _)
    | split
    | dsimp only

theorem keeps_execRxContextExpiry {s t u : State} (h : Keeps s t) (a0) (he : execRxContextExpiry a0 t = .next u) : Keeps s u := by
  unfold execRxContextExpiry at he
  · injection he with he
    subst he
    iterate 40 try any_goals first
      | with_reducible assumption
      | with_reducible refine keeps_rxContextExpiry ?_ ..
      | with_reducible refine Keeps.snd (by with_reducible assumption) ?_
      | (intro _)
      | split
      | dsimp only

theorem keeps_txContextExpiry {s t : State} (h : Keeps s t) (a0) : Keeps s (txContextExpiry a0 t) := by
  unfold txContextExpiry
  iterate 40 try any_goals first
    | with_reducible assumption
    | with_reducible refine keeps_admitWaits ?_ ..
    | with_reducible refine keeps_modDlv ?_ ..
    | with_reducible refine keeps_waitMono ?_ ..
    | with_reducible refine Keeps.snd (by with_reducible assumption) ?_
    | (intro _)
    | split
    | dsimp only

theorem keeps_execTxContextExpiry {s t u : State} (h : Keeps s t) (a0) (he : execTxContextExpiry a0 t = .next u) : Keeps s u := by
  unfold execTxContextExpiry at he
  · injection he with he
    subst he
    iterate 40 try any_goals first
      | with_reducible assumption
      | with_reducible refine keeps_txContextExpiry ?_ ..
      | with_reducible refine Keeps.snd (by with_reducible assumption) ?_
      | (intro _)
      | split
      | dsimp only

theorem keeps_responseRecordExpiry {s t : State} (h : Keeps s t) (a0) (a1) : Keeps s (responseRecordExpiry a0 a1 t) := by
  unfold responseRecordExpiry
  iterate 40 try any_goals first
    | with_reducible assumption
    | with_reducible refine keeps_waitMono ?_ ..
    | with_reducible refine keeps_modRx ?_ ..
    | with_reducible refine Keeps.snd (by with_reducible assumption) ?_
    | (intro _)
    | split
    | dsimp only

theorem keeps_execResponseRecordExpiry {s t u : State} (h : Keeps s t) (a0) (a1) (he : execResponseRecordExpiry a0 a1 t = .next u) : Keeps s u := by
  unfold execResponseRecordExpiry at he
  · injection he with he
    subst he
    iterate 40 try any_goals first
      | with_reducible assumption
      | with_reducible refine keeps_responseRecordExpiry ?_ ..
      | with_reducible refine Keeps.snd (by with_reducible assumption) ?_
      | (intro _)
      | split
      | dsimp only

end Sys2Proof.Machine
end

