-- ==== Sys2Proof/Laws/KeepTally.lean ====
section
/-! SUPPORT. What the operations of Machine/Tally.lean keep (Laws/Keeps.lean). -/
namespace Sys2Proof.Machine

theorem keeps_putTally {s t : State} (h : Keeps s t) (a0) (a1) : Keeps s (putTally a0 a1 t) := by
  unfold putTally
  iterate 40 try any_goals first
    | with_reducible assumption
    | with_reducible refine keeps_modGalley ?_ ?_
    | with_reducible refine Keeps.snd (by with_reducible assumption) ?_
    | with_reducible refine wf_wrBytes _ _ ?_
    | with_reducible refine wf_clearBytes _ _ ?_
    | with_reducible refine wf_touch _ ?_
    | with_reducible refine wf_touches _ ?_
    | rw [setBad_mem]
    | (intro _; simp_all; done)
    | (intro _)
    | split
    | dsimp only

theorem keeps_readTally {s t : State} (h : Keeps s t) (a0) : Keeps s (readTally a0 t).2.2 := by
  unfold readTally
  iterate 40 try any_goals first
    | with_reducible assumption
    | with_reducible refine keeps_latch ?_ ..
    | with_reducible refine keeps_modGalley ?_ ?_
    | with_reducible refine keeps_putTally ?_ ..
    | with_reducible refine Keeps.snd (by with_reducible assumption) ?_
    | with_reducible refine wf_wrBytes _ _ ?_
    | with_reducible refine wf_clearBytes _ _ ?_
    | with_reducible refine wf_touch _ ?_
    | with_reducible refine wf_touches _ ?_
    | rw [setBad_mem]
    | (intro _; simp_all; done)
    | (intro _)
    | split
    | dsimp only

theorem keeps_endWaits {s t : State} (h : Keeps s t) (a0) (a1) (a2) (a3) : Keeps s (endWaits a0 a1 a2 a3 t) := by
  unfold endWaits
  iterate 40 try any_goals first
    | with_reducible assumption
    | with_reducible refine keeps_modInst ?_ ..
    | with_reducible refine Keeps.snd (by with_reducible assumption) ?_
    | (intro _)
    | split
    | dsimp only

theorem keeps_testWaits {s t : State} (h : Keeps s t) (a0) (a1) (a2) : Keeps s (testWaits a0 a1 a2 t) := by
  unfold testWaits
  iterate 40 try any_goals first
    | with_reducible assumption
    | with_reducible refine keeps_endWaits ?_ ..
    | with_reducible refine Keeps.snd (by with_reducible assumption) ?_
    | (intro _)
    | split
    | dsimp only

theorem keeps_failWaits {s t : State} (h : Keeps s t) (a0) (a1) : Keeps s (failWaits a0 a1 t) := by
  unfold failWaits
  iterate 40 try any_goals first
    | with_reducible assumption
    | with_reducible refine keeps_endWaits ?_ ..
    | with_reducible refine Keeps.snd (by with_reducible assumption) ?_
    | (intro _)
    | split
    | dsimp only

theorem keeps_readTallyOf {s t : State} (h : Keeps s t) (a0) (a1) : Keeps s (readTallyOf a0 a1 t).2.2 := by
  unfold readTallyOf
  iterate 40 try any_goals first
    | with_reducible assumption
    | with_reducible refine keeps_readTally ?_ ..
    | with_reducible refine keeps_failWaits ?_ ..
    | with_reducible refine Keeps.snd (by with_reducible assumption) ?_
    | with_reducible refine Keeps.snd₂ (by with_reducible assumption) ?_
    | with_reducible refine Keeps.snd₃ (by with_reducible assumption) ?_
    | (intro _)
    | split
    | dsimp only

theorem keeps_addTally {s t : State} (h : Keeps s t) (a0) (a1) (a2) : Keeps s (addTally a0 a1 a2 t).2 := by
  unfold addTally
  iterate 40 try any_goals first
    | with_reducible assumption
    | with_reducible refine keeps_readTallyOf ?_ ..
    | with_reducible refine keeps_testWaits ?_ ..
    | with_reducible refine keeps_putTally ?_ ..
    | with_reducible refine Keeps.snd (by with_reducible assumption) ?_
    | with_reducible refine Keeps.snd₂ (by with_reducible assumption) ?_
    | with_reducible refine Keeps.snd₃ (by with_reducible assumption) ?_
    | (intro _)
    | split
    | dsimp only

theorem keeps_tallyAdd {s t : State} (h : Keeps s t) (a0) (a1) (a2) (a3) : Keeps s (tallyAdd a0 a1 a2 a3 t) := by
  unfold tallyAdd
  iterate 40 try any_goals first
    | with_reducible assumption
    | with_reducible refine keeps_settle ?_ ..
    | with_reducible refine keeps_markExecuted ?_ ..
    | with_reducible refine keeps_addMessage ?_ ..
    | with_reducible refine keeps_addTally ?_ ..
    | with_reducible refine keeps_galleyAccess ?_ ..
    | with_reducible refine Keeps.snd (by with_reducible assumption) ?_
    | (intro _)
    | split
    | dsimp only

theorem keeps_execTallyAdd {s t u : State} (h : Keeps s t) (a0) (he : execTallyAdd a0 t = .next u) : Keeps s u := by
  unfold execTallyAdd at he
  · injection he with he
    subst he
    iterate 40 try any_goals first
      | with_reducible assumption
      | with_reducible refine keeps_startDocket ?_ _ _ _ (fun _ _ _ _ => ?_)
      | with_reducible refine keeps_tallyAdd ?_ ..
      | with_reducible refine Keeps.snd (by with_reducible assumption) ?_
      | (intro _)
      | split
      | dsimp only

theorem keeps_tallyWait {s t : State} (h : Keeps s t) (a0) (a1) (a2) (a3) : Keeps s (tallyWait a0 a1 a2 a3 t) := by
  unfold tallyWait
  iterate 40 try any_goals first
    | with_reducible assumption
    | with_reducible refine keeps_modRun ?_ ..
    | with_reducible refine keeps_readTallyOf ?_ ..
    | with_reducible refine keeps_galleyAccess ?_ ..
    | with_reducible refine keeps_settle ?_ ..
    | with_reducible refine keeps_markExecuted ?_ ..
    | with_reducible refine Keeps.snd (by with_reducible assumption) ?_
    | with_reducible refine Keeps.snd₂ (by with_reducible assumption) ?_
    | with_reducible refine Keeps.snd₃ (by with_reducible assumption) ?_
    | (intro _)
    | split
    | dsimp only

theorem keeps_execTallyWait {s t u : State} (h : Keeps s t) (a0) (he : execTallyWait a0 t = .next u) : Keeps s u := by
  unfold execTallyWait at he
  · injection he with he
    subst he
    iterate 40 try any_goals first
      | with_reducible assumption
      | with_reducible refine keeps_startDocket ?_ _ _ _ (fun _ _ _ _ => ?_)
      | with_reducible refine keeps_tallyWait ?_ ..
      | with_reducible refine Keeps.snd (by with_reducible assumption) ?_
      | (intro _)
      | split
      | dsimp only

theorem keeps_tallyPatience {s t : State} (h : Keeps s t) (a0) : Keeps s (tallyPatience a0 t) := by
  unfold tallyPatience
  iterate 40 try any_goals first
    | with_reducible assumption
    | with_reducible refine keeps_settle ?_ ..
    | with_reducible refine keeps_readTallyOf ?_ ..
    | with_reducible refine keeps_galleyAccess ?_ ..
    | with_reducible refine Keeps.snd (by with_reducible assumption) ?_
    | with_reducible refine Keeps.snd₂ (by with_reducible assumption) ?_
    | with_reducible refine Keeps.snd₃ (by with_reducible assumption) ?_
    | (intro _)
    | split
    | dsimp only

theorem keeps_execTallyWaitPatience {s t u : State} (h : Keeps s t) (a0) (he : execTallyWaitPatience a0 t = .next u) : Keeps s u := by
  unfold execTallyWaitPatience at he
  · injection he with he
    subst he
    iterate 40 try any_goals first
      | with_reducible assumption
      | with_reducible refine keeps_tallyPatience ?_ ..
      | with_reducible refine Keeps.snd (by with_reducible assumption) ?_
      | (intro _)
      | split
      | dsimp only

theorem keeps_tallyAnswer {s t : State} (h : Keeps s t) (a0) (a1) (a2) : Keeps s (tallyAnswer a0 a1 a2 t) := by
  unfold tallyAnswer
  iterate 40 try any_goals first
    | with_reducible assumption
    | with_reducible refine keeps_modRegs ?_ ..
    | with_reducible refine Keeps.snd (by with_reducible assumption) ?_
    | (intro _)
    | split
    | dsimp only

theorem keeps_tallyCommand {s t u : State} (h : Keeps s t) (a0) (a1) (a2) (hf0 : ∀  u, Keeps s u → Keeps s (a2  u)) (he : tallyCommand a0 a1 a2 t = .next u) : Keeps s u := by
  unfold tallyCommand at he
  · injection he with he
    subst he
    iterate 40 try any_goals first
      | with_reducible assumption
      | with_reducible refine hf0 _ ?_
      | with_reducible refine keeps_tallyAnswer ?_ ..
      | with_reducible refine Keeps.snd (by with_reducible assumption) ?_
      | (intro _)
      | split
      | dsimp only

theorem keeps_tallyAlloc {s t : State} (h : Keeps s t) (a0) (a1) (a2) : Keeps s (tallyAlloc a0 a1 a2 t) := by
  unfold tallyAlloc
  iterate 40 try any_goals first
    | with_reducible assumption
    | with_reducible refine keeps_tallyAnswer ?_ ..
    | with_reducible refine keeps_putTally ?_ ..
    | with_reducible refine keeps_modInst ?_ ..
    | with_reducible refine Keeps.snd (by with_reducible assumption) ?_
    | (intro _)
    | split
    | dsimp only

theorem keeps_execTallyAlloc {s t u : State} (h : Keeps s t) (a0) (a1) (a2) (he : execTallyAlloc a0 a1 a2 t = .next u) : Keeps s u := by
  unfold execTallyAlloc at he
  · refine keeps_tallyCommand h _ _ _ (fun _ _ => ?_) he
    iterate 40 try any_goals first
      | with_reducible assumption
      | with_reducible refine keeps_tallyAlloc ?_ ..
      | with_reducible refine Keeps.snd (by with_reducible assumption) ?_
      | (intro _)
      | split
      | dsimp only

theorem keeps_tallyFree {s t : State} (h : Keeps s t) (a0) (a1) : Keeps s (tallyFree a0 a1 t) := by
  unfold tallyFree
  iterate 40 try any_goals first
    | with_reducible assumption
    | with_reducible refine keeps_tallyAnswer ?_ ..
    | with_reducible refine keeps_readTallyOf ?_ ..
    | with_reducible refine keeps_modInst ?_ ..
    | with_reducible refine Keeps.snd (by with_reducible assumption) ?_
    | with_reducible refine Keeps.snd₂ (by with_reducible assumption) ?_
    | with_reducible refine Keeps.snd₃ (by with_reducible assumption) ?_
    | (intro _)
    | split
    | dsimp only

theorem keeps_execTallyFree {s t u : State} (h : Keeps s t) (a0) (a1) (he : execTallyFree a0 a1 t = .next u) : Keeps s u := by
  unfold execTallyFree at he
  · refine keeps_tallyCommand h _ _ _ (fun _ _ => ?_) he
    iterate 40 try any_goals first
      | with_reducible assumption
      | with_reducible refine keeps_tallyFree ?_ ..
      | with_reducible refine Keeps.snd (by with_reducible assumption) ?_
      | (intro _)
      | split
      | dsimp only

theorem keeps_tallySet {s t : State} (h : Keeps s t) (a0) (a1) : Keeps s (tallySet a0 a1 t) := by
  unfold tallySet
  iterate 40 try any_goals first
    | with_reducible assumption
    | with_reducible refine keeps_tallyAnswer ?_ ..
    | with_reducible refine keeps_testWaits ?_ ..
    | with_reducible refine keeps_putTally ?_ ..
    | with_reducible refine Keeps.snd (by with_reducible assumption) ?_
    | (intro _)
    | split
    | dsimp only

theorem keeps_execTallySet {s t u : State} (h : Keeps s t) (a0) (a1) (he : execTallySet a0 a1 t = .next u) : Keeps s u := by
  unfold execTallySet at he
  · refine keeps_tallyCommand h _ _ _ (fun _ _ => ?_) he
    iterate 40 try any_goals first
      | with_reducible assumption
      | with_reducible refine keeps_tallySet ?_ ..
      | with_reducible refine Keeps.snd (by with_reducible assumption) ?_
      | (intro _)
      | split
      | dsimp only

theorem keeps_tallyRead {s t : State} (h : Keeps s t) (a0) (a1) : Keeps s (tallyRead a0 a1 t) := by
  unfold tallyRead
  iterate 40 try any_goals first
    | with_reducible assumption
    | with_reducible refine keeps_tallyAnswer ?_ ..
    | with_reducible refine keeps_readTallyOf ?_ ..
    | with_reducible refine keeps_modRegs ?_ ..
    | with_reducible refine Keeps.snd (by with_reducible assumption) ?_
    | with_reducible refine Keeps.snd₂ (by with_reducible assumption) ?_
    | with_reducible refine Keeps.snd₃ (by with_reducible assumption) ?_
    | (intro _)
    | split
    | dsimp only

theorem keeps_execTallyRead {s t u : State} (h : Keeps s t) (a0) (a1) (he : execTallyRead a0 a1 t = .next u) : Keeps s u := by
  unfold execTallyRead at he
  · refine keeps_tallyCommand h _ _ _ (fun _ _ => ?_) he
    iterate 40 try any_goals first
      | with_reducible assumption
      | with_reducible refine keeps_tallyRead ?_ ..
      | with_reducible refine Keeps.snd (by with_reducible assumption) ?_
      | (intro _)
      | split
      | dsimp only

theorem keeps_syncReply {s t : State} (h : Keeps s t) (a0) (a1) (a2) : Keeps s (syncReply a0 a1 a2 t) := by
  unfold syncReply
  iterate 40 try any_goals first
    | with_reducible assumption
    | with_reducible refine keeps_inject ?_ ..
    | with_reducible refine Keeps.snd (by with_reducible assumption) ?_
    | (intro _)
    | split
    | dsimp only

theorem keeps_answerSync {s t : State} (h : Keeps s t) (a0) : Keeps s (answerSync a0 t) := by
  unfold answerSync
  iterate 40 try any_goals first
    | with_reducible assumption
    | with_reducible refine keeps_syncReply ?_ ..
    | with_reducible refine Keeps.snd (by with_reducible assumption) ?_
    | (intro _)
    | split
    | dsimp only

theorem keeps_recordSync {s t : State} (h : Keeps s t) (a0) (a1) (a2) : Keeps s (recordSync a0 a1 a2 t) := by
  unfold recordSync
  iterate 40 try any_goals first
    | with_reducible assumption
    | with_reducible refine keeps_modRx ?_ ..
    | with_reducible refine Keeps.snd (by with_reducible assumption) ?_
    | (intro _)
    | split
    | dsimp only

theorem keeps_settleSync {s t : State} (h : Keeps s t) (a0) : Keeps s (settleSync a0 t) := by
  unfold settleSync
  iterate 40 try any_goals first
    | with_reducible assumption
    | with_reducible refine keeps_settlePsns ?_ ..
    | with_reducible refine keeps_modRx ?_ ..
    | with_reducible refine Keeps.snd (by with_reducible assumption) ?_
    | (intro _)
    | split
    | dsimp only

theorem keeps_admitSync {s t : State} (h : Keeps s t) (a0) (a1) (hf0 : ∀  u, Keeps s u → Keeps s (a1  u)) : Keeps s (admitSync a0 a1 t) := by
  unfold admitSync
  iterate 40 try any_goals first
    | with_reducible assumption
    | with_reducible refine hf0 _ ?_
    | with_reducible refine keeps_admitTo ?_ _ _ _ _ (fun _ _ => ?_) (fun _ _ => ?_) (fun _ _ => ?_)
    | with_reducible refine keeps_answerSync ?_ ..
    | with_reducible refine Keeps.snd (by with_reducible assumption) ?_
    | (intro _)
    | split
    | dsimp only

theorem keeps_tallyAddArrives {s t : State} (h : Keeps s t) (a0) : Keeps s (tallyAddArrives a0 t) := by
  unfold tallyAddArrives
  iterate 40 try any_goals first
    | with_reducible assumption
    | with_reducible refine keeps_sendNak ?_ ..
    | with_reducible refine keeps_addTally ?_ ..
    | with_reducible refine keeps_galleyAccess ?_ ..
    | with_reducible refine keeps_syncReply ?_ ..
    | with_reducible refine keeps_settleSync ?_ ..
    | with_reducible refine keeps_recordSync ?_ ..
    | with_reducible refine Keeps.snd (by with_reducible assumption) ?_
    | (intro _)
    | split
    | dsimp only

theorem keeps_execTallyAddPacket {s t u : State} (h : Keeps s t) (a0) (he : execTallyAddPacket a0 t = .next u) : Keeps s u := by
  unfold execTallyAddPacket at he
  · injection he with he
    subst he
    iterate 40 try any_goals first
      | with_reducible assumption
      | with_reducible refine keeps_admitSync ?_ _ _ (fun _ _ => ?_)
      | with_reducible refine keeps_tallyAddArrives ?_ ..
      | with_reducible refine keeps_consume ?_ ..
      | with_reducible refine Keeps.snd (by with_reducible assumption) ?_
      | (intro _)
      | split
      | dsimp only

theorem keeps_endSync {s t : State} (h : Keeps s t) (a0) : Keeps s (endSync a0 t) := by
  unfold endSync
  iterate 40 try any_goals first
    | with_reducible assumption
    | with_reducible refine keeps_modTx ?_ ..
    | with_reducible refine Keeps.snd (by with_reducible assumption) ?_
    | with_reducible refine Keeps.foldl_snd ?_ _ _ (fun _ _ _ => ?_)
    | with_reducible refine Keeps.foldl ?_ _ _ (fun _ _ _ => ?_)
    | (intro _)
    | split
    | dsimp only

theorem keeps_tallyDoneArrives {s t : State} (h : Keeps s t) (a0) : Keeps s (tallyDoneArrives a0 t) := by
  unfold tallyDoneArrives
  iterate 40 try any_goals first
    | with_reducible assumption
    | with_reducible refine keeps_endMessage ?_ ..
    | with_reducible refine keeps_endSync ?_ ..
    | with_reducible refine Keeps.snd (by with_reducible assumption) ?_
    | (intro _)
    | split
    | dsimp only

theorem keeps_execTallyDone {s t u : State} (h : Keeps s t) (a0) (he : execTallyDone a0 t = .next u) : Keeps s u := by
  unfold execTallyDone at he
  · injection he with he
    subst he
    iterate 40 try any_goals first
      | with_reducible assumption
      | with_reducible refine keeps_tallyDoneArrives ?_ ..
      | with_reducible refine keeps_consume ?_ ..
      | with_reducible refine Keeps.snd (by with_reducible assumption) ?_
      | (intro _)
      | split
      | dsimp only

theorem keeps_execSyncAck {s t u : State} (h : Keeps s t) (a0) (he : execSyncAck a0 t = .next u) : Keeps s u := by
  unfold execSyncAck at he
  · injection he with he
    subst he
    iterate 40 try any_goals first
      | with_reducible assumption
      | with_reducible refine keeps_endSync ?_ ..
      | with_reducible refine keeps_consume ?_ ..
      | with_reducible refine Keeps.snd (by with_reducible assumption) ?_
      | (intro _)
      | split
      | dsimp only

end Sys2Proof.Machine
end

