-- ==== Sys2Proof/Laws/KeepColl.lean ====
section
/-! SUPPORT. What the operations of Machine/Coll.lean keep (Laws/Keeps.lean). -/
namespace Sys2Proof.Machine

theorem keeps_modColl {s t : State} (h : Keeps s t) (a0) (a1) (a2) : Keeps s (modColl a0 a1 a2 t) := by
  unfold modColl
  iterate 40 try any_goals first
    | with_reducible assumption
    | with_reducible refine keeps_modInst ?_ ..
    | with_reducible refine Keeps.snd (by with_reducible assumption) ?_
    | (intro _)
    | split
    | dsimp only

theorem keeps_modCollRun {s t : State} (h : Keeps s t) (a0) (a1) (a2) : Keeps s (modCollRun a0 a1 a2 t) := by
  unfold modCollRun
  iterate 40 try any_goals first
    | with_reducible assumption
    | with_reducible refine keeps_modColl ?_ ..
    | with_reducible refine Keeps.snd (by with_reducible assumption) ?_
    | (intro _)
    | split
    | dsimp only

theorem keeps_withRun {s t : State} (h : Keeps s t) (a0) (a1) (a2) (hf0 : ∀ x0 x1 u, Keeps s u → Keeps s (a2 x0 x1 u)) : Keeps s (withRun a0 a1 a2 t) := by
  unfold withRun
  iterate 40 try any_goals first
    | with_reducible assumption
    | with_reducible refine hf0 _ _ _ ?_
    | with_reducible refine Keeps.snd (by with_reducible assumption) ?_
    | (intro _)
    | split
    | dsimp only

theorem keeps_sendSync {s t : State} (h : Keeps s t) (a0) (a1) (a2) (a3) (a4) (a5) (a6) : Keeps s (sendSync a0 a1 a2 a3 a4 a5 a6 t) := by
  unfold sendSync
  iterate 40 try any_goals first
    | with_reducible assumption
    | with_reducible refine keeps_addMessage ?_ ..
    | with_reducible refine Keeps.snd (by with_reducible assumption) ?_
    | (intro _)
    | split
    | dsimp only

theorem keeps_toMembers {s t : State} (h : Keeps s t) (a0) (a1) (a2) (a3) (a4) (a5) : Keeps s (toMembers a0 a1 a2 a3 a4 a5 t) := by
  unfold toMembers
  iterate 40 try any_goals first
    | with_reducible assumption
    | with_reducible refine Keeps.each ?_ _ (fun _ _ _ => ?_)
    | with_reducible refine keeps_sendSync ?_ ..
    | with_reducible refine Keeps.snd (by with_reducible assumption) ?_
    | (intro _)
    | split
    | dsimp only

theorem keeps_sendChunk {s t : State} (h : Keeps s t) (a0) (a1) (a2) (a3) (a4) : Keeps s (sendChunk a0 a1 a2 a3 a4 t) := by
  unfold sendChunk
  iterate 40 try any_goals first
    | with_reducible assumption
    | with_reducible refine keeps_sendSync ?_ ..
    | with_reducible refine keeps_addMessage ?_ ..
    | with_reducible refine Keeps.snd (by with_reducible assumption) ?_
    | (intro _)
    | split
    | dsimp only

theorem keeps_sendReady {s t : State} (h : Keeps s t) (a0) (a1) (a2) (a3) (a4) (a5) : Keeps s (sendReady a0 a1 a2 a3 a4 a5 t) := by
  unfold sendReady
  iterate 40 try any_goals first
    | with_reducible assumption
    | with_reducible refine keeps_sendSync ?_ ..
    | with_reducible refine Keeps.snd (by with_reducible assumption) ?_
    | (intro _)
    | split
    | dsimp only

theorem keeps_reserveBins {s t : State} (h : Keeps s t) (a0) (a1) : Keeps s (reserveBins a0 a1 t).2 := by
  unfold reserveBins
  iterate 40 try any_goals first
    | with_reducible assumption
    | with_reducible refine keeps_modCollDev ?_ ..
    | with_reducible refine Keeps.snd (by with_reducible assumption) ?_
    | (intro _)
    | split
    | dsimp only

theorem keeps_freeBins {s t : State} (h : Keeps s t) (a0) : Keeps s (freeBins a0 t) := by
  unfold freeBins
  iterate 40 try any_goals first
    | with_reducible assumption
    | with_reducible refine keeps_modCollDev ?_ ..
    | with_reducible refine Keeps.snd (by with_reducible assumption) ?_
    | (intro _)
    | split
    | dsimp only

theorem keeps_dropColl {s t : State} (h : Keeps s t) (a0) (a1) : Keeps s (dropColl a0 a1 t) := by
  unfold dropColl
  iterate 40 try any_goals first
    | with_reducible assumption
    | with_reducible refine keeps_modInst ?_ ..
    | with_reducible refine keeps_freeBins ?_ ..
    | with_reducible refine Keeps.snd (by with_reducible assumption) ?_
    | (intro _)
    | split
    | dsimp only

theorem keeps_noteLaggard {s t : State} (h : Keeps s t) (a0) (a1) (a2) (a3) : Keeps s (noteLaggard a0 a1 a2 a3 t) := by
  unfold noteLaggard
  iterate 40 try any_goals first
    | with_reducible assumption
    | with_reducible refine keeps_modCollDev ?_ ..
    | with_reducible refine Keeps.snd (by with_reducible assumption) ?_
    | (intro _)
    | split
    | dsimp only

theorem keeps_closeRun {s t : State} (h : Keeps s t) (a0) (a1) (a2) (a3) : Keeps s (closeRun a0 a1 a2 a3 t) := by
  unfold closeRun
  iterate 40 try any_goals first
    | with_reducible assumption
    | with_reducible refine keeps_modColl ?_ ..
    | with_reducible refine Keeps.snd (by with_reducible assumption) ?_
    | (intro _)
    | split
    | dsimp only

theorem keeps_dropFold {s t : State} (h : Keeps s t) (a0) (a1) (a2) : Keeps s (dropFold a0 a1 a2 t) := by
  unfold dropFold
  iterate 40 try any_goals first
    | with_reducible assumption
    | with_reducible refine keeps_modColl ?_ ..
    | with_reducible refine Keeps.snd (by with_reducible assumption) ?_
    | (intro _)
    | split
    | dsimp only

theorem keeps_undefRun {s t : State} (h : Keeps s t) (a0) (a1) (a2) : Keeps s (undefRun a0 a1 a2 t) := by
  unfold undefRun
  iterate 40 try any_goals first
    | with_reducible assumption
    | with_reducible refine keeps_undefSeg ?_ ..
    | with_reducible refine Keeps.snd (by with_reducible assumption) ?_
    | (intro _)
    | split
    | dsimp only

theorem keeps_undefPiece {s t : State} (h : Keeps s t) (a0) (a1) (a2) (a3) : Keeps s (undefPiece a0 a1 a2 a3 t) := by
  unfold undefPiece
  iterate 40 try any_goals first
    | with_reducible assumption
    | with_reducible refine Keeps.each ?_ _ (fun _ _ _ => ?_)
    | with_reducible refine keeps_undefSeg ?_ ..
    | with_reducible refine Keeps.snd (by with_reducible assumption) ?_
    | (intro _)
    | split
    | dsimp only

theorem keeps_spoilRun {s t : State} (h : Keeps s t) (a0) (a1) (a2) : Keeps s (spoilRun a0 a1 a2 t) := by
  unfold spoilRun
  iterate 40 try any_goals first
    | with_reducible assumption
    | with_reducible refine keeps_undefSeg ?_ ..
    | with_reducible refine Keeps.snd (by with_reducible assumption) ?_
    | (intro _)
    | split
    | dsimp only

theorem keeps_endLaggard {s t : State} (h : Keeps s t) (a0) (a1) (a2) : Keeps s (endLaggard a0 a1 a2 t) := by
  unfold endLaggard
  iterate 40 try any_goals first
    | with_reducible assumption
    | with_reducible refine keeps_withRun ?_ _ _ _ (fun _ _ _ _ => ?_)
    | with_reducible refine keeps_undefRun ?_ ..
    | with_reducible refine Keeps.each ?_ _ (fun _ _ _ => ?_)
    | with_reducible refine keeps_undefPiece ?_ ..
    | with_reducible refine keeps_noteLaggard ?_ ..
    | with_reducible refine keeps_closeRun ?_ ..
    | with_reducible refine keeps_settle ?_ ..
    | with_reducible refine keeps_spoilRun ?_ ..
    | with_reducible refine Keeps.snd (by with_reducible assumption) ?_
    | (intro _)
    | split
    | dsimp only

theorem keeps_endDataError {s t : State} (h : Keeps s t) (a0) (a1) (a2) : Keeps s (endDataError a0 a1 a2 t) := by
  unfold endDataError
  iterate 40 try any_goals first
    | with_reducible assumption
    | with_reducible refine keeps_withRun ?_ _ _ _ (fun _ _ _ _ => ?_)
    | with_reducible refine keeps_closeRun ?_ ..
    | with_reducible refine keeps_settle ?_ ..
    | with_reducible refine keeps_undefRun ?_ ..
    | with_reducible refine Keeps.snd (by with_reducible assumption) ?_
    | (intro _)
    | split
    | dsimp only

theorem keeps_endBy {s t : State} (h : Keeps s t) (a0) (a1) (a2) : Keeps s (endBy a0 a1 a2 t) := by
  unfold endBy
  iterate 40 try any_goals first
    | with_reducible assumption
    | with_reducible refine keeps_endLaggard ?_ ..
    | with_reducible refine keeps_endDataError ?_ ..
    | with_reducible refine Keeps.snd (by with_reducible assumption) ?_
    | (intro _)
    | split
    | dsimp only

theorem keeps_ownDataError {s t : State} (h : Keeps s t) (a0) (a1) (a2) : Keeps s (ownDataError a0 a1 a2 t) := by
  unfold ownDataError
  iterate 40 try any_goals first
    | with_reducible assumption
    | with_reducible refine keeps_withRun ?_ _ _ _ (fun _ _ _ _ => ?_)
    | with_reducible refine keeps_toMembers ?_ ..
    | with_reducible refine keeps_endDataError ?_ ..
    | with_reducible refine Keeps.snd (by with_reducible assumption) ?_
    | (intro _)
    | split
    | dsimp only

theorem keeps_endOk {s t : State} (h : Keeps s t) (a0) (a1) : Keeps s (endOk a0 a1 t) := by
  unfold endOk
  iterate 40 try any_goals first
    | with_reducible assumption
    | with_reducible refine keeps_withRun ?_ _ _ _ (fun _ _ _ _ => ?_)
    | with_reducible refine keeps_closeRun ?_ ..
    | with_reducible refine keeps_settle ?_ ..
    | with_reducible refine keeps_spoilRun ?_ ..
    | with_reducible refine Keeps.snd (by with_reducible assumption) ?_
    | (intro _)
    | split
    | dsimp only

theorem keeps_readUnits {s t : State} (h : Keeps s t) (a0) (a1) (a2) (a3) (a4) (a5) (a6) : Keeps s (readUnits a0 a1 a2 a3 a4 a5 a6 t).2 := by
  unfold readUnits
  iterate 40 try any_goals first
    | with_reducible assumption
    | with_reducible refine keeps_readSeg ?_ ..
    | with_reducible refine Keeps.foldl_snd₂ ?_ _ _ (fun _ _ _ => ?_)
    | with_reducible refine Keeps.snd (by with_reducible assumption) ?_
    | with_reducible refine Keeps.foldl_snd ?_ _ _ (fun _ _ _ => ?_)
    | with_reducible refine Keeps.foldl ?_ _ _ (fun _ _ _ => ?_)
    | (intro _)
    | split
    | dsimp only

theorem keeps_placeUnits {s t : State} (h : Keeps s t) (a0) (a1) (a2) (a3) (a4) (a5) (a6) : Keeps s (placeUnits a0 a1 a2 a3 a4 a5 a6 t) := by
  unfold placeUnits
  iterate 40 try any_goals first
    | with_reducible assumption
    | with_reducible refine keeps_withRun ?_ _ _ _ (fun _ _ _ _ => ?_)
    | with_reducible refine keeps_readUnits ?_ ..
    | with_reducible refine keeps_latchAll ?_ ..
    | with_reducible refine keeps_ownDataError ?_ ..
    | with_reducible refine keeps_writeSeg ?_ ..
    | with_reducible refine keeps_modCollRun ?_ ..
    | with_reducible refine Keeps.snd (by with_reducible assumption) ?_
    | with_reducible refine Keeps.foldl_snd ?_ _ _ (fun _ _ _ => ?_)
    | with_reducible refine Keeps.foldl ?_ _ _ (fun _ _ _ => ?_)
    | (intro _)
    | split
    | dsimp only
    | with_reducible refine Keeps.upd ?_ ..

theorem keeps_placeFinal {s t : State} (h : Keeps s t) (a0) (a1) (a2) (a3) (a4) : Keeps s (placeFinal a0 a1 a2 a3 a4 t) := by
  unfold placeFinal
  iterate 40 try any_goals first
    | with_reducible assumption
    | with_reducible refine keeps_withRun ?_ _ _ _ (fun _ _ _ _ => ?_)
    | with_reducible refine keeps_placeUnits ?_ ..
    | with_reducible refine Keeps.snd (by with_reducible assumption) ?_
    | (intro _)
    | split
    | dsimp only

theorem keeps_modBin {s t : State} (h : Keeps s t) (a0) (a1) (a2) (a3) (a4) : Keeps s (modBin a0 a1 a2 a3 a4 t) := by
  unfold modBin
  iterate 40 try any_goals first
    | with_reducible assumption
    | with_reducible refine keeps_modColl ?_ ..
    | with_reducible refine Keeps.snd (by with_reducible assumption) ?_
    | (intro _)
    | split
    | dsimp only

theorem keeps_grantFold {s t : State} (h : Keeps s t) (a0) (a1) : Keeps s (grantFold a0 a1 t) := by
  unfold grantFold
  iterate 40 try any_goals first
    | with_reducible assumption
    | with_reducible refine keeps_withRun ?_ _ _ _ (fun _ _ _ _ => ?_)
    | with_reducible refine Keeps.each ?_ _ (fun _ _ _ => ?_)
    | with_reducible refine keeps_sendReady ?_ ..
    | with_reducible refine keeps_modCollRun ?_ ..
    | with_reducible refine Keeps.snd (by with_reducible assumption) ?_
    | (intro _)
    | split
    | dsimp only

theorem keeps_freeBin {s t : State} (h : Keeps s t) (a0) (a1) (a2) (a3) : Keeps s (freeBin a0 a1 a2 a3 t) := by
  unfold freeBin
  iterate 40 try any_goals first
    | with_reducible assumption
    | with_reducible refine keeps_grantFold ?_ ..
    | with_reducible refine keeps_modColl ?_ ..
    | with_reducible refine Keeps.snd (by with_reducible assumption) ?_
    | (intro _)
    | split
    | dsimp only

theorem keeps_deliverBin {s t : State} (h : Keeps s t) (a0) (a1) (a2) (a3) : Keeps s (deliverBin a0 a1 a2 a3 t) := by
  unfold deliverBin
  iterate 40 try any_goals first
    | with_reducible assumption
    | with_reducible refine Keeps.each ?_ _ (fun _ _ _ => ?_)
    | with_reducible refine keeps_placeFinal ?_ ..
    | with_reducible refine keeps_modCollRun ?_ ..
    | with_reducible refine keeps_sendChunk ?_ ..
    | with_reducible refine keeps_modBin ?_ ..
    | with_reducible refine keeps_freeBin ?_ ..
    | with_reducible refine Keeps.snd (by with_reducible assumption) ?_
    | (intro _)
    | split
    | dsimp only

theorem keeps_deliverBins {s t : State} (h : Keeps s t) (a0) (a1) : Keeps s (deliverBins a0 a1 t) := by
  unfold deliverBins
  iterate 40 try any_goals first
    | with_reducible assumption
    | with_reducible refine Keeps.each ?_ _ (fun _ _ _ => ?_)
    | with_reducible refine keeps_deliverBin ?_ ..
    | with_reducible refine Keeps.snd (by with_reducible assumption) ?_
    | (intro _)
    | split
    | dsimp only

theorem keeps_foldIn {s t : State} (h : Keeps s t) (a0) (a1) (a2) : Keeps s (foldIn a0 a1 a2 t) := by
  unfold foldIn
  iterate 40 try any_goals first
    | with_reducible assumption
    | with_reducible refine keeps_deliverBin ?_ ..
    | with_reducible refine keeps_modBin ?_ ..
    | with_reducible refine keeps_modColl ?_ ..
    | with_reducible refine Keeps.snd (by with_reducible assumption) ?_
    | (intro _)
    | split
    | dsimp only

theorem keeps_grantRoom {s t : State} (h : Keeps s t) (a0) (a1) (a2) : Keeps s (grantRoom a0 a1 a2 t) := by
  unfold grantRoom
  iterate 40 try any_goals first
    | with_reducible assumption
    | with_reducible refine keeps_withRun ?_ _ _ _ (fun _ _ _ _ => ?_)
    | with_reducible refine keeps_sendReady ?_ ..
    | with_reducible refine keeps_modCollRun ?_ ..
    | with_reducible refine Keeps.snd (by with_reducible assumption) ?_
    | (intro _)
    | split
    | dsimp only

theorem keeps_putOut {s t : State} (h : Keeps s t) (a0) (a1) (a2) (a3) (a4) : Keeps s (putOut a0 a1 a2 a3 a4 t) := by
  unfold putOut
  iterate 40 try any_goals first
    | with_reducible assumption
    | with_reducible refine keeps_sendChunk ?_ ..
    | with_reducible refine keeps_modCollRun ?_ ..
    | with_reducible refine Keeps.snd (by with_reducible assumption) ?_
    | (intro _)
    | split
    | dsimp only

theorem keeps_pumpRing {s t : State} (h : Keeps s t) (a0) (a1) (a2) : Keeps s (pumpRing a0 a1 a2 t) := by
  induction a2 generalizing t with
  | zero =>
    unfold pumpRing
    iterate 40 try any_goals first
      | with_reducible assumption
      | with_reducible refine keeps_modQueue ?_ ..
      | with_reducible refine keeps_modInst ?_ ..
      | with_reducible refine keeps_modDlv ?_ ..
      | with_reducible refine keeps_withRun ?_ _ _ _ (fun _ _ _ _ => ?_)
      | with_reducible refine keeps_grantRoom ?_ ..
      | with_reducible refine keeps_putOut ?_ ..
      | with_reducible refine keeps_modCollRun ?_ ..
      | with_reducible refine Keeps.snd (by with_reducible assumption) ?_
      | with_reducible refine Keeps.snd₂ (by with_reducible assumption) ?_
      | with_reducible refine Keeps.snd₃ (by with_reducible assumption) ?_
      | (intro _)
      | split
      | dsimp only
  | succ n ih =>
    unfold pumpRing
    iterate 40 try any_goals first
      | with_reducible assumption
      | with_reducible refine ih ?_ ..
      | with_reducible refine keeps_modQueue ?_ ..
      | with_reducible refine keeps_modInst ?_ ..
      | with_reducible refine keeps_modDlv ?_ ..
      | with_reducible refine keeps_withRun ?_ _ _ _ (fun _ _ _ _ => ?_)
      | with_reducible refine keeps_grantRoom ?_ ..
      | with_reducible refine keeps_putOut ?_ ..
      | with_reducible refine keeps_modCollRun ?_ ..
      | with_reducible refine Keeps.snd (by with_reducible assumption) ?_
      | with_reducible refine Keeps.snd₂ (by with_reducible assumption) ?_
      | with_reducible refine Keeps.snd₃ (by with_reducible assumption) ?_
      | (intro _)
      | split
      | dsimp only

theorem keeps_pumpPieces {s t : State} (h : Keeps s t) (a0) (a1) (a2) : Keeps s (pumpPieces a0 a1 a2 t) := by
  induction a2 generalizing t with
  | zero =>
    unfold pumpPieces
    iterate 40 try any_goals first
      | with_reducible assumption
      | with_reducible refine keeps_modQueue ?_ ..
      | with_reducible refine keeps_modInst ?_ ..
      | with_reducible refine keeps_modDlv ?_ ..
      | with_reducible refine keeps_withRun ?_ _ _ _ (fun _ _ _ _ => ?_)
      | with_reducible refine keeps_putOut ?_ ..
      | with_reducible refine keeps_modCollRun ?_ ..
      | with_reducible refine Keeps.snd (by with_reducible assumption) ?_
      | with_reducible refine Keeps.snd₂ (by with_reducible assumption) ?_
      | with_reducible refine Keeps.snd₃ (by with_reducible assumption) ?_
      | (intro _)
      | split
      | dsimp only
  | succ n ih =>
    unfold pumpPieces
    iterate 40 try any_goals first
      | with_reducible assumption
      | with_reducible refine ih ?_ ..
      | with_reducible refine keeps_modQueue ?_ ..
      | with_reducible refine keeps_modInst ?_ ..
      | with_reducible refine keeps_modDlv ?_ ..
      | with_reducible refine keeps_withRun ?_ _ _ _ (fun _ _ _ _ => ?_)
      | with_reducible refine keeps_putOut ?_ ..
      | with_reducible refine keeps_modCollRun ?_ ..
      | with_reducible refine Keeps.snd (by with_reducible assumption) ?_
      | with_reducible refine Keeps.snd₂ (by with_reducible assumption) ?_
      | with_reducible refine Keeps.snd₃ (by with_reducible assumption) ?_
      | (intro _)
      | split
      | dsimp only

theorem keeps_pumpFold {s t : State} (h : Keeps s t) (a0) (a1) : Keeps s (pumpFold a0 a1 t) := by
  unfold pumpFold
  iterate 40 try any_goals first
    | with_reducible assumption
    | with_reducible refine keeps_withRun ?_ _ _ _ (fun _ _ _ _ => ?_)
    | with_reducible refine Keeps.each ?_ _ (fun _ _ _ => ?_)
    | with_reducible refine keeps_modCollRun ?_ ..
    | with_reducible refine keeps_foldIn ?_ ..
    | with_reducible refine keeps_putOut ?_ ..
    | with_reducible refine Keeps.snd (by with_reducible assumption) ?_
    | (intro _)
    | split
    | dsimp only

theorem keeps_pumpRun {s t : State} (h : Keeps s t) (a0) (a1) : Keeps s (pumpRun a0 a1 t) := by
  unfold pumpRun
  iterate 40 try any_goals first
    | with_reducible assumption
    | with_reducible refine keeps_withRun ?_ _ _ _ (fun _ _ _ _ => ?_)
    | with_reducible refine keeps_pumpFold ?_ ..
    | with_reducible refine keeps_pumpPieces ?_ ..
    | with_reducible refine keeps_pumpRing ?_ ..
    | with_reducible refine keeps_endOk ?_ ..
    | with_reducible refine Keeps.snd (by with_reducible assumption) ?_
    | (intro _)
    | split
    | dsimp only

theorem keeps_ringChunk {s t : State} (h : Keeps s t) (a0) (a1) (a2) : Keeps s (ringChunk a0 a1 a2 t) := by
  unfold ringChunk
  iterate 40 try any_goals first
    | with_reducible assumption
    | with_reducible refine keeps_withRun ?_ _ _ _ (fun _ _ _ _ => ?_)
    | with_reducible refine keeps_modCollRun ?_ ..
    | with_reducible refine keeps_placeFinal ?_ ..
    | with_reducible refine keeps_grantRoom ?_ ..
    | with_reducible refine keeps_pumpRun ?_ ..
    | with_reducible refine Keeps.snd (by with_reducible assumption) ?_
    | (intro _)
    | split
    | dsimp only

theorem keeps_keepChunk {s t : State} (h : Keeps s t) (a0) (a1) (a2) : Keeps s (keepChunk a0 a1 a2 t) := by
  unfold keepChunk
  iterate 40 try any_goals first
    | with_reducible assumption
    | with_reducible refine keeps_modColl ?_ ..
    | with_reducible refine Keeps.snd (by with_reducible assumption) ?_
    | (intro _)
    | split
    | dsimp only

theorem keeps_foldChunk {s t : State} (h : Keeps s t) (a0) (a1) (a2) : Keeps s (foldChunk a0 a1 a2 t) := by
  unfold foldChunk
  iterate 40 try any_goals first
    | with_reducible assumption
    | with_reducible refine keeps_keepChunk ?_ ..
    | with_reducible refine keeps_pumpRun ?_ ..
    | with_reducible refine keeps_foldIn ?_ ..
    | with_reducible refine keeps_modCollRun ?_ ..
    | with_reducible refine Keeps.snd (by with_reducible assumption) ?_
    | (intro _)
    | split
    | dsimp only

theorem keeps_resultChunk {s t : State} (h : Keeps s t) (a0) (a1) (a2) : Keeps s (resultChunk a0 a1 a2 t) := by
  unfold resultChunk
  iterate 40 try any_goals first
    | with_reducible assumption
    | with_reducible refine keeps_withRun ?_ _ _ _ (fun _ _ _ _ => ?_)
    | with_reducible refine keeps_pumpRun ?_ ..
    | with_reducible refine keeps_grantFold ?_ ..
    | with_reducible refine keeps_placeFinal ?_ ..
    | with_reducible refine keeps_modCollRun ?_ ..
    | with_reducible refine Keeps.snd (by with_reducible assumption) ?_
    | (intro _)
    | split
    | dsimp only

theorem keeps_pieceChunk {s t : State} (h : Keeps s t) (a0) (a1) (a2) : Keeps s (pieceChunk a0 a1 a2 t) := by
  unfold pieceChunk
  iterate 40 try any_goals first
    | with_reducible assumption
    | with_reducible refine keeps_withRun ?_ _ _ _ (fun _ _ _ _ => ?_)
    | with_reducible refine keeps_modCollRun ?_ ..
    | with_reducible refine keeps_placeUnits ?_ ..
    | with_reducible refine Keeps.each ?_ _ (fun _ _ _ => ?_)
    | with_reducible refine keeps_undefSeg ?_ ..
    | with_reducible refine keeps_pumpRun ?_ ..
    | with_reducible refine keeps_grantRoom ?_ ..
    | with_reducible refine Keeps.snd (by with_reducible assumption) ?_
    | (intro _)
    | split
    | dsimp only

theorem keeps_takeChunk {s t : State} (h : Keeps s t) (a0) (a1) (a2) : Keeps s (takeChunk a0 a1 a2 t) := by
  unfold takeChunk
  iterate 40 try any_goals first
    | with_reducible assumption
    | with_reducible refine keeps_foldChunk ?_ ..
    | with_reducible refine keeps_keepChunk ?_ ..
    | with_reducible refine keeps_ringChunk ?_ ..
    | with_reducible refine keeps_resultChunk ?_ ..
    | with_reducible refine keeps_pieceChunk ?_ ..
    | with_reducible refine Keeps.snd (by with_reducible assumption) ?_
    | (intro _)
    | split
    | dsimp only

theorem keeps_drainRooms {s t : State} (h : Keeps s t) (a0) (a1) (a2) : Keeps s (drainRooms a0 a1 a2 t) := by
  induction a2 generalizing t with
  | zero =>
    unfold drainRooms
    iterate 40 try any_goals first
      | with_reducible assumption
      | with_reducible refine keeps_modQueue ?_ ..
      | with_reducible refine keeps_modInst ?_ ..
      | with_reducible refine keeps_modDlv ?_ ..
      | with_reducible refine Keeps.each ?_ _ (fun _ _ _ => ?_)
      | with_reducible refine keeps_takeChunk ?_ ..
      | with_reducible refine keeps_modColl ?_ ..
      | with_reducible refine Keeps.snd (by with_reducible assumption) ?_
      | with_reducible refine Keeps.snd₂ (by with_reducible assumption) ?_
      | with_reducible refine Keeps.snd₃ (by with_reducible assumption) ?_
      | (intro _)
      | split
      | dsimp only
  | succ n ih =>
    unfold drainRooms
    iterate 40 try any_goals first
      | with_reducible assumption
      | with_reducible refine ih ?_ ..
      | with_reducible refine keeps_modQueue ?_ ..
      | with_reducible refine keeps_modInst ?_ ..
      | with_reducible refine keeps_modDlv ?_ ..
      | with_reducible refine Keeps.each ?_ _ (fun _ _ _ => ?_)
      | with_reducible refine keeps_takeChunk ?_ ..
      | with_reducible refine keeps_modColl ?_ ..
      | with_reducible refine Keeps.snd (by with_reducible assumption) ?_
      | with_reducible refine Keeps.snd₂ (by with_reducible assumption) ?_
      | with_reducible refine Keeps.snd₃ (by with_reducible assumption) ?_
      | (intro _)
      | split
      | dsimp only

theorem keeps_drainAll {s t : State} (h : Keeps s t) (a0) (a1) : Keeps s (drainAll a0 a1 t) := by
  unfold drainAll
  iterate 40 try any_goals first
    | with_reducible assumption
    | with_reducible refine keeps_drainRooms ?_ ..
    | with_reducible refine Keeps.snd (by with_reducible assumption) ?_
    | (intro _)
    | split
    | dsimp only

theorem keeps_chunkArrives {s t : State} (h : Keeps s t) (a0) (a1) (a2) : Keeps s (chunkArrives a0 a1 a2 t) := by
  unfold chunkArrives
  iterate 40 try any_goals first
    | with_reducible assumption
    | with_reducible refine keeps_drainAll ?_ ..
    | with_reducible refine keeps_takeChunk ?_ ..
    | with_reducible refine Keeps.snd (by with_reducible assumption) ?_
    | (intro _)
    | split
    | dsimp only

theorem keeps_wakeRuns {s t : State} (h : Keeps s t) : Keeps s (wakeRuns t) := by
  unfold wakeRuns
  iterate 40 try any_goals first
    | with_reducible assumption
    | with_reducible refine Keeps.each ?_ _ (fun _ _ _ => ?_)
    | with_reducible refine keeps_drainAll ?_ ..
    | with_reducible refine keeps_pumpRun ?_ ..
    | with_reducible refine keeps_deliverBins ?_ ..
    | with_reducible refine Keeps.snd (by with_reducible assumption) ?_
    | (intro _)
    | split
    | dsimp only

theorem keeps_firstReadies {s t : State} (h : Keeps s t) (a0) (a1) : Keeps s (firstReadies a0 a1 t) := by
  unfold firstReadies
  iterate 40 try any_goals first
    | with_reducible assumption
    | with_reducible refine keeps_withRun ?_ _ _ _ (fun _ _ _ _ => ?_)
    | with_reducible refine Keeps.each ?_ _ (fun _ _ _ => ?_)
    | with_reducible refine keeps_sendReady ?_ ..
    | with_reducible refine keeps_modCollRun ?_ ..
    | with_reducible refine Keeps.snd (by with_reducible assumption) ?_
    | (intro _)
    | split
    | dsimp only

theorem keeps_loadRun {s t : State} (h : Keeps s t) (a0) (a1) : Keeps s (loadRun a0 a1 t) := by
  unfold loadRun
  iterate 40 try any_goals first
    | with_reducible assumption
    | with_reducible refine keeps_withRun ?_ _ _ _ (fun _ _ _ _ => ?_)
    | with_reducible refine Keeps.each ?_ _ (fun _ _ _ => ?_)
    | with_reducible refine keeps_placeFinal ?_ ..
    | with_reducible refine keeps_modCollRun ?_ ..
    | with_reducible refine Keeps.snd (by with_reducible assumption) ?_
    | (intro _)
    | split
    | dsimp only

theorem keeps_readRunSource {s t : State} (h : Keeps s t) (a0) (a1) (a2) (a3) (a4) (a5) (a6) : Keeps s (readRunSource a0 a1 a2 a3 a4 a5 a6 t).2 := by
  unfold readRunSource
  iterate 40 try any_goals first
    | with_reducible assumption
    | with_reducible refine keeps_readSeg ?_ ..
    | with_reducible refine keeps_readUnits ?_ ..
    | with_reducible refine Keeps.snd (by with_reducible assumption) ?_
    | (intro _)
    | split
    | dsimp only

theorem keeps_activateRun {s t : State} (h : Keeps s t) (a0) (a1) (a2) (a3) (a4) (a5) (a6) : Keeps s (activateRun a0 a1 a2 a3 a4 a5 a6 t) := by
  unfold activateRun
  iterate 40 try any_goals first
    | with_reducible assumption
    | with_reducible refine keeps_readRunSource ?_ ..
    | with_reducible refine keeps_latchAll ?_ ..
    | with_reducible refine keeps_modColl ?_ ..
    | with_reducible refine keeps_ownDataError ?_ ..
    | with_reducible refine keeps_drainAll ?_ ..
    | with_reducible refine keeps_pumpRun ?_ ..
    | with_reducible refine keeps_deliverBins ?_ ..
    | with_reducible refine keeps_loadRun ?_ ..
    | with_reducible refine keeps_firstReadies ?_ ..
    | with_reducible refine Keeps.snd (by with_reducible assumption) ?_
    | (intro _)
    | split
    | dsimp only

theorem keeps_collRun {s t : State} (h : Keeps s t) (a0) (a1) (a2) (a3) : Keeps s (collRun a0 a1 a2 a3 t) := by
  unfold collRun
  iterate 40 try any_goals first
    | with_reducible assumption
    | with_reducible refine keeps_modColl ?_ ..
    | with_reducible refine keeps_noteLaggard ?_ ..
    | with_reducible refine keeps_settle ?_ ..
    | with_reducible refine keeps_undefRun ?_ ..
    | with_reducible refine keeps_dropFold ?_ ..
    | with_reducible refine keeps_activateRun ?_ ..
    | with_reducible refine keeps_markExecuted ?_ ..
    | with_reducible refine Keeps.snd (by with_reducible assumption) ?_
    | (intro _)
    | split
    | dsimp only

theorem keeps_execCollRun {s t u : State} (h : Keeps s t) (a0) (he : execCollRun a0 t = .next u) : Keeps s u := by
  unfold execCollRun at he
  · injection he with he
    subst he
    iterate 40 try any_goals first
      | with_reducible assumption
      | with_reducible refine keeps_startDocket ?_ _ _ _ (fun _ _ _ _ => ?_)
      | with_reducible refine keeps_collRun ?_ ..
      | with_reducible refine Keeps.snd (by with_reducible assumption) ?_
      | (intro _)
      | split
      | dsimp only

theorem keeps_wakeClosings {s t : State} (h : Keeps s t) (a0) (a1) (a2) : Keeps s (wakeClosings a0 a1 a2 t) := by
  unfold wakeClosings
  iterate 40 try any_goals first
    | with_reducible assumption
    | with_reducible refine Keeps.each ?_ _ (fun _ _ _ => ?_)
    | with_reducible refine keeps_modRun ?_ ..
    | with_reducible refine keeps_settle ?_ ..
    | with_reducible refine Keeps.snd (by with_reducible assumption) ?_
    | (intro _)
    | split
    | dsimp only

theorem keeps_openDone {s t : State} (h : Keeps s t) (a0) (a1) (a2) : Keeps s (openDone a0 a1 a2 t) := by
  unfold openDone
  iterate 40 try any_goals first
    | with_reducible assumption
    | with_reducible refine keeps_freeBins ?_ ..
    | with_reducible refine keeps_modColl ?_ ..
    | with_reducible refine keeps_wakeClosings ?_ ..
    | with_reducible refine keeps_settle ?_ ..
    | with_reducible refine Keeps.snd (by with_reducible assumption) ?_
    | (intro _)
    | split
    | dsimp only

theorem keeps_openFail {s t : State} (h : Keeps s t) (a0) (a1) (a2) : Keeps s (openFail a0 a1 a2 t) := by
  unfold openFail
  iterate 40 try any_goals first
    | with_reducible assumption
    | with_reducible refine keeps_wakeClosings ?_ ..
    | with_reducible refine keeps_noteLaggard ?_ ..
    | with_reducible refine keeps_settle ?_ ..
    | with_reducible refine keeps_dropColl ?_ ..
    | with_reducible refine Keeps.snd (by with_reducible assumption) ?_
    | (intro _)
    | split
    | dsimp only

theorem keeps_decideOpen {s t : State} (h : Keeps s t) (a0) (a1) : Keeps s (decideOpen a0 a1 t) := by
  unfold decideOpen
  iterate 40 try any_goals first
    | with_reducible assumption
    | with_reducible refine keeps_openDone ?_ ..
    | with_reducible refine keeps_toMembers ?_ ..
    | with_reducible refine Keeps.snd (by with_reducible assumption) ?_
    | (intro _)
    | split
    | dsimp only

theorem keeps_countJoin {s t : State} (h : Keeps s t) (a0) (a1) (a2) : Keeps s (countJoin a0 a1 a2 t) := by
  unfold countJoin
  iterate 40 try any_goals first
    | with_reducible assumption
    | with_reducible refine keeps_modCollDev ?_ ..
    | with_reducible refine keeps_modColl ?_ ..
    | with_reducible refine Keeps.snd (by with_reducible assumption) ?_
    | (intro _)
    | split
    | dsimp only

theorem keeps_openHandle {s t : State} (h : Keeps s t) (a0) (a1) : Keeps s (openHandle a0 a1 t) := by
  unfold openHandle
  iterate 40 try any_goals first
    | with_reducible assumption
    | with_reducible refine keeps_modInst ?_ ..
    | with_reducible refine keeps_openDone ?_ ..
    | with_reducible refine keeps_decideOpen ?_ ..
    | with_reducible refine Keeps.each ?_ _ (fun _ _ _ => ?_)
    | with_reducible refine keeps_countJoin ?_ ..
    | with_reducible refine keeps_modColl ?_ ..
    | with_reducible refine keeps_sendSync ?_ ..
    | with_reducible refine Keeps.snd (by with_reducible assumption) ?_
    | (intro _)
    | split
    | dsimp only

theorem keeps_collOpen {s t : State} (h : Keeps s t) (a0) (a1) (a2) (a3) : Keeps s (collOpen a0 a1 a2 a3 t) := by
  unfold collOpen
  iterate 40 try any_goals first
    | with_reducible assumption
    | with_reducible refine keeps_settle ?_ ..
    | with_reducible refine keeps_readSeg ?_ ..
    | with_reducible refine keeps_latchAll ?_ ..
    | with_reducible refine keeps_malformed ?_ ..
    | with_reducible refine keeps_reserveBins ?_ ..
    | with_reducible refine keeps_openHandle ?_ ..
    | with_reducible refine keeps_modRun ?_ ..
    | with_reducible refine Keeps.snd (by with_reducible assumption) ?_
    | (intro _)
    | split
    | dsimp only

theorem keeps_execCollOpen {s t u : State} (h : Keeps s t) (a0) (he : execCollOpen a0 t = .next u) : Keeps s u := by
  unfold execCollOpen at he
  · injection he with he
    subst he
    iterate 40 try any_goals first
      | with_reducible assumption
      | with_reducible refine keeps_startDocket ?_ _ _ _ (fun _ _ _ _ => ?_)
      | with_reducible refine keeps_collOpen ?_ ..
      | with_reducible refine Keeps.snd (by with_reducible assumption) ?_
      | (intro _)
      | split
      | dsimp only

theorem keeps_collClose {s t : State} (h : Keeps s t) (a0) (a1) (a2) (a3) : Keeps s (collClose a0 a1 a2 a3 t) := by
  unfold collClose
  iterate 40 try any_goals first
    | with_reducible assumption
    | with_reducible refine keeps_markExecuted ?_ ..
    | with_reducible refine keeps_modColl ?_ ..
    | with_reducible refine keeps_settle ?_ ..
    | with_reducible refine keeps_dropColl ?_ ..
    | with_reducible refine keeps_toMembers ?_ ..
    | with_reducible refine Keeps.snd (by with_reducible assumption) ?_
    | (intro _)
    | split
    | dsimp only

theorem keeps_execCollClose {s t u : State} (h : Keeps s t) (a0) (he : execCollClose a0 t = .next u) : Keeps s u := by
  unfold execCollClose at he
  · injection he with he
    subst he
    iterate 40 try any_goals first
      | with_reducible assumption
      | with_reducible refine keeps_startDocket ?_ _ _ _ (fun _ _ _ _ => ?_)
      | with_reducible refine keeps_collClose ?_ ..
      | with_reducible refine Keeps.snd (by with_reducible assumption) ?_
      | (intro _)
      | split
      | dsimp only

theorem keeps_resetColls {s t : State} (h : Keeps s t) (a0) : Keeps s (resetColls a0 t) := by
  unfold resetColls
  iterate 40 try any_goals first
    | with_reducible assumption
    | with_reducible refine Keeps.each ?_ _ (fun _ _ _ => ?_)
    | with_reducible refine keeps_dropColl ?_ ..
    | with_reducible refine keeps_toMembers ?_ ..
    | with_reducible refine Keeps.snd (by with_reducible assumption) ?_
    | (intro _)
    | split
    | dsimp only

theorem keeps_unbindColls {s t : State} (h : Keeps s t) (a0) : Keeps s (unbindColls a0 t) := by
  unfold unbindColls
  iterate 40 try any_goals first
    | with_reducible assumption
    | with_reducible refine Keeps.each ?_ _ (fun _ _ _ => ?_)
    | with_reducible refine keeps_toMembers ?_ ..
    | with_reducible refine Keeps.snd (by with_reducible assumption) ?_
    | (intro _)
    | split
    | dsimp only

theorem keeps_abortColl {s t : State} (h : Keeps s t) (a0) (a1) (a2) : Keeps s (abortColl a0 a1 a2 t) := by
  unfold abortColl
  iterate 40 try any_goals first
    | with_reducible assumption
    | with_reducible refine Keeps.each ?_ _ (fun _ _ _ => ?_)
    | with_reducible refine keeps_modColl ?_ ..
    | with_reducible refine keeps_wakeClosings ?_ ..
    | with_reducible refine keeps_dropColl ?_ ..
    | with_reducible refine keeps_toMembers ?_ ..
    | with_reducible refine keeps_closeRun ?_ ..
    | with_reducible refine Keeps.snd (by with_reducible assumption) ?_
    | (intro _)
    | split
    | dsimp only

theorem keeps_peerGone {s t : State} (h : Keeps s t) (a0) (a1) (a2) : Keeps s (peerGone a0 a1 a2 t) := by
  unfold peerGone
  iterate 40 try any_goals first
    | with_reducible assumption
    | with_reducible refine keeps_modColl ?_ ..
    | with_reducible refine keeps_endLaggard ?_ ..
    | with_reducible refine Keeps.snd (by with_reducible assumption) ?_
    | (intro _)
    | split
    | dsimp only

theorem keeps_missedRun {s t : State} (h : Keeps s t) (a0) (a1) (a2) (a3) : Keeps s (missedRun a0 a1 a2 a3 t) := by
  unfold missedRun
  iterate 40 try any_goals first
    | with_reducible assumption
    | with_reducible refine keeps_toMembers ?_ ..
    | with_reducible refine keeps_modColl ?_ ..
    | with_reducible refine Keeps.snd (by with_reducible assumption) ?_
    | (intro _)
    | split
    | dsimp only

theorem keeps_missDeadline {s t : State} (h : Keeps s t) (a0) : Keeps s (missDeadline a0 t) := by
  unfold missDeadline
  iterate 40 try any_goals first
    | with_reducible assumption
    | with_reducible refine keeps_missedRun ?_ ..
    | with_reducible refine keeps_deadlineExpiry ?_ ..
    | with_reducible refine Keeps.snd (by with_reducible assumption) ?_
    | (intro _)
    | split
    | dsimp only

theorem keeps_execDeadlineExpiry {s t u : State} (h : Keeps s t) (a0) (he : execDeadlineExpiry a0 t = .next u) : Keeps s u := by
  unfold execDeadlineExpiry at he
  · injection he with he
    subst he
    iterate 40 try any_goals first
      | with_reducible assumption
      | with_reducible refine keeps_missDeadline ?_ ..
      | with_reducible refine Keeps.snd (by with_reducible assumption) ?_
      | (intro _)
      | split
      | dsimp only

theorem keeps_takeSync {s t : State} (h : Keeps s t) (a0) (a1) (hf0 : ∀  u, Keeps s u → Keeps s (a1  u)) : Keeps s (takeSync a0 a1 t) := by
  unfold takeSync
  iterate 40 try any_goals first
    | with_reducible assumption
    | with_reducible refine hf0 _ ?_
    | with_reducible refine keeps_admitSync ?_ _ _ (fun _ _ => ?_)
    | with_reducible refine keeps_syncReply ?_ ..
    | with_reducible refine keeps_settleSync ?_ ..
    | with_reducible refine Keeps.snd (by with_reducible assumption) ?_
    | (intro _)
    | split
    | dsimp only

theorem keeps_joinArrives {s t : State} (h : Keeps s t) (a0) : Keeps s (joinArrives a0 t) := by
  unfold joinArrives
  iterate 40 try any_goals first
    | with_reducible assumption
    | with_reducible refine keeps_modCollDev ?_ ..
    | with_reducible refine keeps_decideOpen ?_ ..
    | with_reducible refine keeps_countJoin ?_ ..
    | with_reducible refine Keeps.snd (by with_reducible assumption) ?_
    | (intro _)
    | split
    | dsimp only

theorem keeps_execJoin {s t u : State} (h : Keeps s t) (a0) (he : execJoin a0 t = .next u) : Keeps s u := by
  unfold execJoin at he
  · injection he with he
    subst he
    iterate 40 try any_goals first
      | with_reducible assumption
      | with_reducible refine keeps_takeSync ?_ _ _ (fun _ _ => ?_)
      | with_reducible refine keeps_joinArrives ?_ ..
      | with_reducible refine keeps_consume ?_ ..
      | with_reducible refine Keeps.snd (by with_reducible assumption) ?_
      | (intro _)
      | split
      | dsimp only

theorem keeps_decideArrives {s t : State} (h : Keeps s t) (a0) : Keeps s (decideArrives a0 t) := by
  unfold decideArrives
  iterate 40 try any_goals first
    | with_reducible assumption
    | with_reducible refine keeps_openDone ?_ ..
    | with_reducible refine Keeps.snd (by with_reducible assumption) ?_
    | (intro _)
    | split
    | dsimp only

theorem keeps_execDecide {s t u : State} (h : Keeps s t) (a0) (he : execDecide a0 t = .next u) : Keeps s u := by
  unfold execDecide at he
  · injection he with he
    subst he
    iterate 40 try any_goals first
      | with_reducible assumption
      | with_reducible refine keeps_takeSync ?_ _ _ (fun _ _ => ?_)
      | with_reducible refine keeps_decideArrives ?_ ..
      | with_reducible refine keeps_consume ?_ ..
      | with_reducible refine Keeps.snd (by with_reducible assumption) ?_
      | (intro _)
      | split
      | dsimp only

theorem keeps_readyArrives {s t : State} (h : Keeps s t) (a0) : Keeps s (readyArrives a0 t) := by
  unfold readyArrives
  iterate 40 try any_goals first
    | with_reducible assumption
    | with_reducible refine keeps_drainAll ?_ ..
    | with_reducible refine keeps_pumpRun ?_ ..
    | with_reducible refine keeps_deliverBins ?_ ..
    | with_reducible refine keeps_modColl ?_ ..
    | with_reducible refine Keeps.snd (by with_reducible assumption) ?_
    | (intro _)
    | split
    | dsimp only

theorem keeps_execReady {s t u : State} (h : Keeps s t) (a0) (he : execReady a0 t = .next u) : Keeps s u := by
  unfold execReady at he
  · injection he with he
    subst he
    iterate 40 try any_goals first
      | with_reducible assumption
      | with_reducible refine keeps_takeSync ?_ _ _ (fun _ _ => ?_)
      | with_reducible refine keeps_readyArrives ?_ ..
      | with_reducible refine keeps_consume ?_ ..
      | with_reducible refine Keeps.snd (by with_reducible assumption) ?_
      | (intro _)
      | split
      | dsimp only

theorem keeps_endArrives {s t : State} (h : Keeps s t) (a0) : Keeps s (endArrives a0 t) := by
  unfold endArrives
  iterate 40 try any_goals first
    | with_reducible assumption
    | with_reducible refine keeps_openFail ?_ ..
    | with_reducible refine keeps_drainAll ?_ ..
    | with_reducible refine keeps_endBy ?_ ..
    | with_reducible refine keeps_modColl ?_ ..
    | with_reducible refine keeps_dropFold ?_ ..
    | with_reducible refine Keeps.snd (by with_reducible assumption) ?_
    | (intro _)
    | split
    | dsimp only

theorem keeps_execEnd {s t u : State} (h : Keeps s t) (a0) (he : execEnd a0 t = .next u) : Keeps s u := by
  unfold execEnd at he
  · injection he with he
    subst he
    iterate 40 try any_goals first
      | with_reducible assumption
      | with_reducible refine keeps_takeSync ?_ _ _ (fun _ _ => ?_)
      | with_reducible refine keeps_endArrives ?_ ..
      | with_reducible refine keeps_consume ?_ ..
      | with_reducible refine Keeps.snd (by with_reducible assumption) ?_
      | (intro _)
      | split
      | dsimp only

theorem keeps_closeArrives {s t : State} (h : Keeps s t) (a0) : Keeps s (closeArrives a0 t) := by
  unfold closeArrives
  iterate 40 try any_goals first
    | with_reducible assumption
    | with_reducible refine keeps_peerGone ?_ ..
    | with_reducible refine keeps_modCollDev ?_ ..
    | with_reducible refine keeps_modColl ?_ ..
    | with_reducible refine Keeps.snd (by with_reducible assumption) ?_
    | (intro _)
    | split
    | dsimp only

theorem keeps_execClose {s t u : State} (h : Keeps s t) (a0) (he : execClose a0 t = .next u) : Keeps s u := by
  unfold execClose at he
  · injection he with he
    subst he
    iterate 40 try any_goals first
      | with_reducible assumption
      | with_reducible refine keeps_takeSync ?_ _ _ (fun _ _ => ?_)
      | with_reducible refine keeps_closeArrives ?_ ..
      | with_reducible refine keeps_consume ?_ ..
      | with_reducible refine Keeps.snd (by with_reducible assumption) ?_
      | (intro _)
      | split
      | dsimp only

theorem keeps_collPacket {s t : State} (h : Keeps s t) (a0) : Keeps s (collPacket a0 t) := by
  unfold collPacket
  iterate 40 try any_goals first
    | with_reducible assumption
    | with_reducible refine keeps_acknowledge ?_ ..
    | with_reducible refine keeps_modRx ?_ ..
    | with_reducible refine keeps_chunkArrives ?_ ..
    | with_reducible refine keeps_dropRxMsg ?_ ..
    | with_reducible refine Keeps.snd (by with_reducible assumption) ?_
    | (intro _)
    | split
    | dsimp only

theorem keeps_collData {s t : State} (h : Keeps s t) (a0) (a1) : Keeps s (collData a0 a1 t) := by
  unfold collData
  iterate 40 try any_goals first
    | with_reducible assumption
    | with_reducible refine keeps_admitRequest ?_ _ _ _ (fun _ _ => ?_) (fun _ _ => ?_)
    | with_reducible refine keeps_collPacket ?_ ..
    | with_reducible refine keeps_answerBehind ?_ ..
    | with_reducible refine keeps_consume ?_ ..
    | with_reducible refine Keeps.snd (by with_reducible assumption) ?_
    | (intro _)
    | split
    | dsimp only

theorem keeps_execCollStep {s t u : State} (h : Keeps s t) (a0) (he : execCollStep a0 t = .next u) : Keeps s u := by
  unfold execCollStep at he
  · injection he with he
    subst he
    iterate 40 try any_goals first
      | with_reducible assumption
      | with_reducible refine keeps_collData ?_ ..
      | with_reducible refine Keeps.snd (by with_reducible assumption) ?_
      | (intro _)
      | split
      | dsimp only

theorem keeps_execCollFold {s t u : State} (h : Keeps s t) (a0) (he : execCollFold a0 t = .next u) : Keeps s u := by
  unfold execCollFold at he
  · injection he with he
    subst he
    iterate 40 try any_goals first
      | with_reducible assumption
      | with_reducible refine keeps_collData ?_ ..
      | with_reducible refine Keeps.snd (by with_reducible assumption) ?_
      | (intro _)
      | split
      | dsimp only

theorem keeps_execCollResult {s t u : State} (h : Keeps s t) (a0) (he : execCollResult a0 t = .next u) : Keeps s u := by
  unfold execCollResult at he
  · injection he with he
    subst he
    iterate 40 try any_goals first
      | with_reducible assumption
      | with_reducible refine keeps_collData ?_ ..
      | with_reducible refine Keeps.snd (by with_reducible assumption) ?_
      | (intro _)
      | split
      | dsimp only

theorem keeps_execCollPiece {s t u : State} (h : Keeps s t) (a0) (he : execCollPiece a0 t = .next u) : Keeps s u := by
  unfold execCollPiece at he
  · injection he with he
    subst he
    iterate 40 try any_goals first
      | with_reducible assumption
      | with_reducible refine keeps_collData ?_ ..
      | with_reducible refine Keeps.snd (by with_reducible assumption) ?_
      | (intro _)
      | split
      | dsimp only

theorem keeps_smallArrives {s t : State} (h : Keeps s t) (a0) : Keeps s (smallArrives a0 t) := by
  unfold smallArrives
  iterate 40 try any_goals first
    | with_reducible assumption
    | with_reducible refine keeps_chunkArrives ?_ ..
    | with_reducible refine Keeps.snd (by with_reducible assumption) ?_
    | (intro _)
    | split
    | dsimp only

theorem keeps_execSmallRun {s t u : State} (h : Keeps s t) (a0) (he : execSmallRun a0 t = .next u) : Keeps s u := by
  unfold execSmallRun at he
  · injection he with he
    subst he
    iterate 40 try any_goals first
      | with_reducible assumption
      | with_reducible refine keeps_takeSync ?_ _ _ (fun _ _ => ?_)
      | with_reducible refine keeps_smallArrives ?_ ..
      | with_reducible refine keeps_consume ?_ ..
      | with_reducible refine Keeps.snd (by with_reducible assumption) ?_
      | (intro _)
      | split
      | dsimp only

theorem keeps_settleName {s t : State} (h : Keeps s t) (a0) (a1) (a2) : Keeps s (settleName a0 a1 a2 t) := by
  unfold settleName
  iterate 40 try any_goals first
    | with_reducible assumption
    | with_reducible refine keeps_withRun ?_ _ _ _ (fun _ _ _ _ => ?_)
    | with_reducible refine keeps_endLaggard ?_ ..
    | with_reducible refine keeps_toMembers ?_ ..
    | with_reducible refine Keeps.snd (by with_reducible assumption) ?_
    | (intro _)
    | split
    | dsimp only

theorem keeps_askMember {s t : State} (h : Keeps s t) (a0) (a1) (a2) (a3) : Keeps s (askMember a0 a1 a2 a3 t) := by
  unfold askMember
  iterate 40 try any_goals first
    | with_reducible assumption
    | with_reducible refine keeps_withRun ?_ _ _ _ (fun _ _ _ _ => ?_)
    | with_reducible refine keeps_settleName ?_ ..
    | with_reducible refine keeps_sendSync ?_ ..
    | with_reducible refine keeps_modColl ?_ ..
    | with_reducible refine Keeps.snd (by with_reducible assumption) ?_
    | (intro _)
    | split
    | dsimp only

theorem keeps_collPatience {s t : State} (h : Keeps s t) (a0) (a1) : Keeps s (collPatience a0 a1 t) := by
  unfold collPatience
  iterate 40 try any_goals first
    | with_reducible assumption
    | with_reducible refine keeps_withRun ?_ _ _ _ (fun _ _ _ _ => ?_)
    | with_reducible refine keeps_askMember ?_ ..
    | with_reducible refine Keeps.snd (by with_reducible assumption) ?_
    | (intro _)
    | split
    | dsimp only

theorem keeps_execCollRunPatience {s t u : State} (h : Keeps s t) (a0) (a1) (he : execCollRunPatience a0 a1 t = .next u) : Keeps s u := by
  unfold execCollRunPatience at he
  · injection he with he
    subst he
    iterate 40 try any_goals first
      | with_reducible assumption
      | with_reducible refine keeps_collPatience ?_ ..
      | with_reducible refine Keeps.snd (by with_reducible assumption) ?_
      | (intro _)
      | split
      | dsimp only

theorem keeps_queryArrives {s t : State} (h : Keeps s t) (a0) : Keeps s (queryArrives a0 t) := by
  unfold queryArrives
  iterate 40 try any_goals first
    | with_reducible assumption
    | with_reducible refine keeps_syncReply ?_ ..
    | with_reducible refine keeps_settleSync ?_ ..
    | with_reducible refine keeps_recordSync ?_ ..
    | with_reducible refine Keeps.snd (by with_reducible assumption) ?_
    | (intro _)
    | split
    | dsimp only

theorem keeps_execQueryPacket {s t u : State} (h : Keeps s t) (a0) (he : execQueryPacket a0 t = .next u) : Keeps s u := by
  unfold execQueryPacket at he
  · injection he with he
    subst he
    iterate 40 try any_goals first
      | with_reducible assumption
      | with_reducible refine keeps_admitSync ?_ _ _ (fun _ _ => ?_)
      | with_reducible refine keeps_queryArrives ?_ ..
      | with_reducible refine keeps_sendNak ?_ ..
      | with_reducible refine keeps_consume ?_ ..
      | with_reducible refine Keeps.snd (by with_reducible assumption) ?_
      | (intro _)
      | split
      | dsimp only

theorem keeps_answerArrives {s t : State} (h : Keeps s t) (a0) : Keeps s (answerArrives a0 t) := by
  unfold answerArrives
  iterate 40 try any_goals first
    | with_reducible assumption
    | with_reducible refine keeps_withRun ?_ _ _ _ (fun _ _ _ _ => ?_)
    | with_reducible refine keeps_settleName ?_ ..
    | with_reducible refine keeps_askMember ?_ ..
    | with_reducible refine keeps_endSync ?_ ..
    | with_reducible refine Keeps.snd (by with_reducible assumption) ?_
    | (intro _)
    | split
    | dsimp only

theorem keeps_execQueryAnswer {s t u : State} (h : Keeps s t) (a0) (he : execQueryAnswer a0 t = .next u) : Keeps s u := by
  unfold execQueryAnswer at he
  · injection he with he
    subst he
    iterate 40 try any_goals first
      | with_reducible assumption
      | with_reducible refine keeps_answerArrives ?_ ..
      | with_reducible refine keeps_consume ?_ ..
      | with_reducible refine Keeps.snd (by with_reducible assumption) ?_
      | (intro _)
      | split
      | dsimp only

theorem keeps_queryTimeout {s t : State} (h : Keeps s t) (a0) (a1) : Keeps s (queryTimeout a0 a1 t) := by
  unfold queryTimeout
  iterate 40 try any_goals first
    | with_reducible assumption
    | with_reducible refine keeps_withRun ?_ _ _ _ (fun _ _ _ _ => ?_)
    | with_reducible refine keeps_settleName ?_ ..
    | with_reducible refine keeps_waitMono ?_ ..
    | with_reducible refine Keeps.snd (by with_reducible assumption) ?_
    | (intro _)
    | split
    | dsimp only

theorem keeps_execLaggardQueryTimeout {s t u : State} (h : Keeps s t) (a0) (a1) (he : execLaggardQueryTimeout a0 a1 t = .next u) : Keeps s u := by
  unfold execLaggardQueryTimeout at he
  · injection he with he
    subst he
    iterate 40 try any_goals first
      | with_reducible assumption
      | with_reducible refine keeps_queryTimeout ?_ ..
      | with_reducible refine Keeps.snd (by with_reducible assumption) ?_
      | (intro _)
      | split
      | dsimp only

theorem keeps_joinExpiry {s t : State} (h : Keeps s t) (a0) (a1) (a2) (a3) : Keeps s (joinExpiry a0 a1 a2 a3 t) := by
  unfold joinExpiry
  iterate 40 try any_goals first
    | with_reducible assumption
    | with_reducible refine keeps_modCollDev ?_ ..
    | with_reducible refine Keeps.snd (by with_reducible assumption) ?_
    | (intro _)
    | split
    | dsimp only

theorem keeps_execJoinHoldExpiry {s t u : State} (h : Keeps s t) (a0) (a1) (a2) (a3) (he : execJoinHoldExpiry a0 a1 a2 a3 t = .next u) : Keeps s u := by
  unfold execJoinHoldExpiry at he
  · injection he with he
    subst he
    iterate 40 try any_goals first
      | with_reducible assumption
      | with_reducible refine keeps_joinExpiry ?_ ..
      | with_reducible refine Keeps.snd (by with_reducible assumption) ?_
      | (intro _)
      | split
      | dsimp only

theorem keeps_gatherTimeout {s t : State} (h : Keeps s t) (a0) (a1) : Keeps s (gatherTimeout a0 a1 t) := by
  unfold gatherTimeout
  iterate 40 try any_goals first
    | with_reducible assumption
    | with_reducible refine keeps_openFail ?_ ..
    | with_reducible refine keeps_toMembers ?_ ..
    | with_reducible refine Keeps.snd (by with_reducible assumption) ?_
    | (intro _)
    | split
    | dsimp only

theorem keeps_execCoordinatorGatherTimeout {s t u : State} (h : Keeps s t) (a0) (a1) (he : execCoordinatorGatherTimeout a0 a1 t = .next u) : Keeps s u := by
  unfold execCoordinatorGatherTimeout at he
  · injection he with he
    subst he
    iterate 40 try any_goals first
      | with_reducible assumption
      | with_reducible refine keeps_gatherTimeout ?_ ..
      | with_reducible refine Keeps.snd (by with_reducible assumption) ?_
      | (intro _)
      | split
      | dsimp only

theorem keeps_openTimeout {s t : State} (h : Keeps s t) (a0) (a1) : Keeps s (openTimeout a0 a1 t) := by
  unfold openTimeout
  iterate 40 try any_goals first
    | with_reducible assumption
    | with_reducible refine keeps_openFail ?_ ..
    | with_reducible refine keeps_waitPtp ?_ ..
    | with_reducible refine Keeps.snd (by with_reducible assumption) ?_
    | (intro _)
    | split
    | dsimp only

theorem keeps_execCollOpenTimeout {s t u : State} (h : Keeps s t) (a0) (a1) (he : execCollOpenTimeout a0 a1 t = .next u) : Keeps s u := by
  unfold execCollOpenTimeout at he
  · injection he with he
    subst he
    iterate 40 try any_goals first
      | with_reducible assumption
      | with_reducible refine keeps_openTimeout ?_ ..
      | with_reducible refine Keeps.snd (by with_reducible assumption) ?_
      | (intro _)
      | split
      | dsimp only

end Sys2Proof.Machine
end

