-- ==== Sys2Proof/Laws/KeepTables.lean ====
section
/-! SUPPORT. What the operations of Machine/Tables.lean keep (Laws/Keeps.lean). -/
namespace Sys2Proof.Machine

theorem keeps_freeStorage {s t : State} (h : Keeps s t) (a0) : Keeps s (freeStorage a0 t) := by
  unfold freeStorage
  iterate 40 try any_goals first
    | with_reducible assumption
    | with_reducible refine keeps_modTier ?_ _ ?_
    | with_reducible refine Keeps.snd (by with_reducible assumption) ?_
    | with_reducible refine wf_wrBytes _ _ ?_
    | with_reducible refine wf_clearBytes _ _ ?_
    | with_reducible refine wf_touch _ ?_
    | with_reducible refine wf_touches _ ?_
    | rw [setBad_mem]
    | (intro _; simp_all; done)
    | (intro _)
    | split
    | dsimp only

theorem keeps_tblAnswer {s t : State} (h : Keeps s t) (a0) (a1) (a2) : Keeps s (tblAnswer a0 a1 a2 t) := by
  unfold tblAnswer
  iterate 40 try any_goals first
    | with_reducible assumption
    | with_reducible refine keeps_modRegs ?_ ..
    | with_reducible refine Keeps.snd (by with_reducible assumption) ?_
    | (intro _)
    | split
    | dsimp only

theorem keeps_readEntries {s t : State} (h : Keeps s t) (a0) (a1) (a2) : Keeps s (readEntries a0 a1 a2 t).2 := by
  induction a2 generalizing t with
  | nil =>
    unfold readEntries
    iterate 40 try any_goals first
      | with_reducible assumption
      | with_reducible refine keeps_modQueue ?_ ..
      | with_reducible refine keeps_modInst ?_ ..
      | with_reducible refine keeps_modDlv ?_ ..
      | with_reducible refine keeps_readHost ?_ ..
      | with_reducible refine Keeps.snd (by with_reducible assumption) ?_
      | with_reducible refine Keeps.snd₂ (by with_reducible assumption) ?_
      | with_reducible refine Keeps.snd₃ (by with_reducible assumption) ?_
      | (intro _)
      | split
      | dsimp only
  | cons x l ih =>
    unfold readEntries
    iterate 40 try any_goals first
      | with_reducible assumption
      | with_reducible refine ih ?_ ..
      | with_reducible refine keeps_modQueue ?_ ..
      | with_reducible refine keeps_modInst ?_ ..
      | with_reducible refine keeps_modDlv ?_ ..
      | with_reducible refine keeps_readHost ?_ ..
      | with_reducible refine Keeps.snd (by with_reducible assumption) ?_
      | with_reducible refine Keeps.snd₂ (by with_reducible assumption) ?_
      | with_reducible refine Keeps.snd₃ (by with_reducible assumption) ?_
      | (intro _)
      | split
      | dsimp only

theorem keeps_tblSync {s t : State} (h : Keeps s t) (a0) (a1) : Keeps s (tblSync a0 a1 t) := by
  unfold tblSync
  iterate 40 try any_goals first
    | with_reducible assumption
    | with_reducible refine keeps_tblAnswer ?_ ..
    | with_reducible refine keeps_readHost ?_ ..
    | with_reducible refine keeps_readEntries ?_ ..
    | with_reducible refine Keeps.each ?_ _ (fun _ _ _ => ?_)
    | with_reducible refine keeps_freeStorage ?_ ..
    | with_reducible refine keeps_modInst ?_ ..
    | with_reducible refine keeps_writeHost ?_ ..
    | with_reducible refine keeps_reclaim ?_ ..
    | with_reducible refine Keeps.snd (by with_reducible assumption) ?_
    | with_reducible refine Keeps.foldl_snd ?_ _ _ (fun _ _ _ => ?_)
    | with_reducible refine Keeps.foldl ?_ _ _ (fun _ _ _ => ?_)
    | (intro _)
    | split
    | dsimp only

theorem keeps_execTblSync {s t u : State} (h : Keeps s t) (a0) (a1) (he : execTblSync a0 a1 t = .next u) : Keeps s u := by
  unfold execTblSync at he
  · injection he with he
    subst he
    iterate 40 try any_goals first
      | with_reducible assumption
      | with_reducible refine keeps_tblSync ?_ ..
      | with_reducible refine Keeps.snd (by with_reducible assumption) ?_
      | (intro _)
      | split
      | dsimp only

theorem keeps_epAnswer {s t : State} (h : Keeps s t) (a0) (a1) : Keeps s (epAnswer a0 a1 t) := by
  unfold epAnswer
  iterate 40 try any_goals first
    | with_reducible assumption
    | with_reducible refine Keeps.snd (by with_reducible assumption) ?_
    | (intro _)
    | split
    | dsimp only
    | with_reducible refine Keeps.upd ?_ ..

theorem keeps_epSync {s t : State} (h : Keeps s t) (a0) (a1) : Keeps s (epSync a0 a1 t) := by
  unfold epSync
  iterate 40 try any_goals first
    | with_reducible assumption
    | with_reducible refine keeps_readHost ?_ ..
    | with_reducible refine keeps_epAnswer ?_ ..
    | with_reducible refine keeps_unbindColls ?_ ..
    | with_reducible refine Keeps.snd (by with_reducible assumption) ?_
    | with_reducible refine Keeps.foldl_snd ?_ _ _ (fun _ _ _ => ?_)
    | with_reducible refine Keeps.foldl ?_ _ _ (fun _ _ _ => ?_)
    | (intro _)
    | split
    | dsimp only
    | with_reducible refine Keeps.upd ?_ ..

theorem keeps_execEpSync {s t u : State} (h : Keeps s t) (a0) (he : execEpSync a0 t = .next u) : Keeps s u := by
  unfold execEpSync at he
  · injection he with he
    subst he
    iterate 40 try any_goals first
      | with_reducible assumption
      | with_reducible refine keeps_epSync ?_ ..
      | with_reducible refine Keeps.snd (by with_reducible assumption) ?_
      | (intro _)
      | split
      | dsimp only

theorem keeps_execEpBind {s t u : State} (h : Keeps s t) (a0) (he : execEpBind a0 t = .next u) : Keeps s u := by
  unfold execEpBind at he
  · injection he with he
    subst he
    iterate 40 try any_goals first
      | with_reducible assumption
      | with_reducible refine keeps_epSync ?_ ..
      | with_reducible refine Keeps.snd (by with_reducible assumption) ?_
      | (intro _)
      | split
      | dsimp only

theorem keeps_ligAnswer {s t : State} (h : Keeps s t) (a0) (a1) (a2) : Keeps s (ligAnswer a0 a1 a2 t) := by
  unfold ligAnswer
  iterate 40 try any_goals first
    | with_reducible assumption
    | with_reducible refine keeps_modInst ?_ ..
    | with_reducible refine Keeps.snd (by with_reducible assumption) ?_
    | (intro _)
    | split
    | dsimp only

theorem keeps_ligCommand {s t u : State} (h : Keeps s t) (a0) (a1) (a2) (hf0 : ∀  u, Keeps s u → Keeps s (a2  u)) (he : ligCommand a0 a1 a2 t = .next u) : Keeps s u := by
  unfold ligCommand at he
  · injection he with he
    subst he
    iterate 40 try any_goals first
      | with_reducible assumption
      | with_reducible refine hf0 _ ?_
      | with_reducible refine keeps_ligAnswer ?_ ..
      | with_reducible refine Keeps.snd (by with_reducible assumption) ?_
      | (intro _)
      | split
      | dsimp only

theorem keeps_ligLoad {s t : State} (h : Keeps s t) (a0) (a1) : Keeps s (ligLoad a0 a1 t) := by
  unfold ligLoad
  iterate 40 try any_goals first
    | with_reducible assumption
    | with_reducible refine keeps_ligAnswer ?_ ..
    | with_reducible refine keeps_readSeg ?_ ..
    | with_reducible refine keeps_latchAll ?_ ..
    | with_reducible refine keeps_modInst ?_ ..
    | with_reducible refine Keeps.snd (by with_reducible assumption) ?_
    | (intro _)
    | split
    | dsimp only

theorem keeps_execLigLoad {s t u : State} (h : Keeps s t) (a0) (a1) (he : execLigLoad a0 a1 t = .next u) : Keeps s u := by
  unfold execLigLoad at he
  · refine keeps_ligCommand h _ _ _ (fun _ _ => ?_) he
    iterate 40 try any_goals first
      | with_reducible assumption
      | with_reducible refine keeps_ligLoad ?_ ..
      | with_reducible refine Keeps.snd (by with_reducible assumption) ?_
      | (intro _)
      | split
      | dsimp only

theorem keeps_ligClear {s t : State} (h : Keeps s t) (a0) (a1) : Keeps s (ligClear a0 a1 t) := by
  unfold ligClear
  iterate 40 try any_goals first
    | with_reducible assumption
    | with_reducible refine keeps_ligAnswer ?_ ..
    | with_reducible refine keeps_modInst ?_ ..
    | with_reducible refine Keeps.snd (by with_reducible assumption) ?_
    | (intro _)
    | split
    | dsimp only

theorem keeps_execLigClear {s t u : State} (h : Keeps s t) (a0) (a1) (he : execLigClear a0 a1 t = .next u) : Keeps s u := by
  unfold execLigClear at he
  · refine keeps_ligCommand h _ _ _ (fun _ _ => ?_) he
    iterate 40 try any_goals first
      | with_reducible assumption
      | with_reducible refine keeps_ligClear ?_ ..
      | with_reducible refine Keeps.snd (by with_reducible assumption) ?_
      | (intro _)
      | split
      | dsimp only

theorem keeps_keyAnswer {s t : State} (h : Keeps s t) (a0) (a1) (a2) : Keeps s (keyAnswer a0 a1 a2 t) := by
  unfold keyAnswer
  iterate 40 try any_goals first
    | with_reducible assumption
    | with_reducible refine keeps_modRegs ?_ ..
    | with_reducible refine Keeps.snd (by with_reducible assumption) ?_
    | (intro _)
    | split
    | dsimp only

theorem keeps_keyCommand {s t u : State} (h : Keeps s t) (a0) (a1) (a2) (hf0 : ∀  u, Keeps s u → Keeps s (a2  u)) (he : keyCommand a0 a1 a2 t = .next u) : Keeps s u := by
  unfold keyCommand at he
  · injection he with he
    subst he
    iterate 40 try any_goals first
      | with_reducible assumption
      | with_reducible refine hf0 _ ?_
      | with_reducible refine Keeps.snd (by with_reducible assumption) ?_
      | (intro _)
      | split
      | dsimp only

theorem keeps_keyLoad {s t : State} (h : Keeps s t) (a0) (a1) : Keeps s (keyLoad a0 a1 t) := by
  unfold keyLoad
  iterate 40 try any_goals first
    | with_reducible assumption
    | with_reducible refine keeps_modInst ?_ ..
    | with_reducible refine keeps_keyAnswer ?_ ..
    | with_reducible refine keeps_modRegs ?_ ..
    | with_reducible refine Keeps.snd (by with_reducible assumption) ?_
    | (intro _)
    | split
    | dsimp only

theorem keeps_execKeyLoad {s t u : State} (h : Keeps s t) (a0) (a1) (he : execKeyLoad a0 a1 t = .next u) : Keeps s u := by
  unfold execKeyLoad at he
  · refine keeps_keyCommand h _ _ _ (fun _ _ => ?_) he
    iterate 40 try any_goals first
      | with_reducible assumption
      | with_reducible refine keeps_keyLoad ?_ ..
      | with_reducible refine Keeps.snd (by with_reducible assumption) ?_
      | (intro _)
      | split
      | dsimp only

theorem keeps_keyErase {s t : State} (h : Keeps s t) (a0) (a1) : Keeps s (keyErase a0 a1 t) := by
  unfold keyErase
  iterate 40 try any_goals first
    | with_reducible assumption
    | with_reducible refine keeps_keyAnswer ?_ ..
    | with_reducible refine keeps_modInst ?_ ..
    | with_reducible refine Keeps.snd (by with_reducible assumption) ?_
    | (intro _)
    | split
    | dsimp only

theorem keeps_execKeyErase {s t u : State} (h : Keeps s t) (a0) (a1) (he : execKeyErase a0 a1 t = .next u) : Keeps s u := by
  unfold execKeyErase at he
  · refine keeps_keyCommand h _ _ _ (fun _ _ => ?_) he
    iterate 40 try any_goals first
      | with_reducible assumption
      | with_reducible refine keeps_keyErase ?_ ..
      | with_reducible refine Keeps.snd (by with_reducible assumption) ?_
      | (intro _)
      | split
      | dsimp only

theorem keeps_keyRead {s t : State} (h : Keeps s t) (a0) (a1) : Keeps s (keyRead a0 a1 t) := by
  unfold keyRead
  iterate 40 try any_goals first
    | with_reducible assumption
    | with_reducible refine keeps_keyAnswer ?_ ..
    | with_reducible refine keeps_modRegs ?_ ..
    | with_reducible refine Keeps.snd (by with_reducible assumption) ?_
    | (intro _)
    | split
    | dsimp only

theorem keeps_execKeyRead {s t u : State} (h : Keeps s t) (a0) (a1) (he : execKeyRead a0 a1 t = .next u) : Keeps s u := by
  unfold execKeyRead at he
  · refine keeps_keyCommand h _ _ _ (fun _ _ => ?_) he
    iterate 40 try any_goals first
      | with_reducible assumption
      | with_reducible refine keeps_keyRead ?_ ..
      | with_reducible refine Keeps.snd (by with_reducible assumption) ?_
      | (intro _)
      | split
      | dsimp only

theorem keeps_keyZeroise {s t : State} (h : Keeps s t) (a0) (a1) : Keeps s (keyZeroise a0 a1 t) := by
  unfold keyZeroise
  iterate 40 try any_goals first
    | with_reducible assumption
    | with_reducible refine keeps_modInst ?_ ..
    | with_reducible refine Keeps.snd (by with_reducible assumption) ?_
    | (intro _)
    | split
    | dsimp only

theorem keeps_execKeySlotZeroise {s t u : State} (h : Keeps s t) (a0) (a1) (he : execKeySlotZeroise a0 a1 t = .next u) : Keeps s u := by
  unfold execKeySlotZeroise at he
  · injection he with he
    subst he
    iterate 40 try any_goals first
      | with_reducible assumption
      | with_reducible refine keeps_keyZeroise ?_ ..
      | with_reducible refine Keeps.snd (by with_reducible assumption) ?_
      | (intro _)
      | split
      | dsimp only

end Sys2Proof.Machine
end

