-- ==== Sys2Proof/Laws/KeepGalley.lean ====
section
/-! SUPPORT. What the operations of Machine/Galley.lean keep (Laws/Keeps.lean). -/
namespace Sys2Proof.Machine

theorem keeps_putGalley {s t : State} (h : Keeps s t) (a0) (a1) : Keeps s (putGalley a0 a1 t) := by
  unfold putGalley
  iterate 40 try any_goals first
    | with_reducible assumption
    | with_reducible refine keeps_modGalley ?_ ?_
    | with_reducible refine Keeps.snd (by with_reducible assumption) ?_
    | with_reducible refine wf_wrBytes _ _ ?_
    | with_reducible refine wf_clearBytes _ _ ?_
    | with_reducible refine wf_touch _ ?_
    | with_reducible refine wf_touches _ ?_
    | rw [setBad_mem]
    | (intro _; simp_all; done)
    | (intro _)
    | split
    | dsimp only

theorem keeps_winDone {s t : State} (h : Keeps s t) (a0) (a1) (a2) : Keeps s (winDone a0 a1 a2 t) := by
  unfold winDone
  iterate 40 try any_goals first
    | with_reducible assumption
    | with_reducible refine keeps_modGalley ?_ ?_
    | with_reducible refine Keeps.snd (by with_reducible assumption) ?_
    | with_reducible refine wf_wrBytes _ _ ?_
    | with_reducible refine wf_clearBytes _ _ ?_
    | with_reducible refine wf_touch _ ?_
    | with_reducible refine wf_touches _ ?_
    | rw [setBad_mem]
    | (intro _; simp_all; done)
    | (intro _)
    | split
    | dsimp only

theorem keeps_winRead {s t : State} (h : Keeps s t) (a0) (a1) : Keeps s (winRead a0 a1 t) := by
  unfold winRead
  iterate 40 try any_goals first
    | with_reducible assumption
    | with_reducible refine keeps_galleyAccess ?_ ..
    | with_reducible refine keeps_freeWord ?_ ..
    | with_reducible refine keeps_latch ?_ ..
    | with_reducible refine keeps_winDone ?_ ..
    | with_reducible refine keeps_emit ?_ ..
    | with_reducible refine Keeps.snd (by with_reducible assumption) ?_
    | (intro _)
    | split
    | dsimp only

theorem keeps_execGalleyWinRead {s t u : State} (h : Keeps s t) (a0) (he : execGalleyWinRead a0 t = .next u) : Keeps s u := by
  unfold execGalleyWinRead at he
  · injection he with he
    subst he
    iterate 40 try any_goals first
      | with_reducible assumption
      | with_reducible refine keeps_winRead ?_ ..
      | with_reducible refine keeps_emit ?_ ..
      | with_reducible refine Keeps.snd (by with_reducible assumption) ?_
      | (intro _)
      | split
      | dsimp only

theorem keeps_spoilUnit {s t : State} (h : Keeps s t) (a0) : Keeps s (spoilUnit a0 t) := by
  unfold spoilUnit
  iterate 40 try any_goals first
    | with_reducible assumption
    | with_reducible refine keeps_modPress ?_ ..
    | with_reducible refine Keeps.snd (by with_reducible assumption) ?_
    | (intro _)
    | split
    | dsimp only

theorem keeps_writeLane {s t : State} (h : Keeps s t) (a0) (a1) : Keeps s (writeLane a0 a1 t) := by
  unfold writeLane
  iterate 40 try any_goals first
    | with_reducible assumption
    | with_reducible refine keeps_modGalley ?_ ?_
    | with_reducible refine keeps_putGalley ?_ ..
    | with_reducible refine Keeps.snd (by with_reducible assumption) ?_
    | with_reducible refine wf_wrBytes _ _ ?_
    | with_reducible refine wf_clearBytes _ _ ?_
    | with_reducible refine wf_touch _ ?_
    | with_reducible refine wf_touches _ ?_
    | rw [setBad_mem]
    | (intro _; simp_all; done)
    | (intro _)
    | split
    | dsimp only

theorem keeps_winWrite {s t : State} (h : Keeps s t) (a0) (a1) : Keeps s (winWrite a0 a1 t) := by
  unfold winWrite
  iterate 40 try any_goals first
    | with_reducible assumption
    | with_reducible refine keeps_winDone ?_ ..
    | with_reducible refine keeps_galleyAccess ?_ ..
    | with_reducible refine keeps_spoilUnit ?_ ..
    | with_reducible refine keeps_putGalley ?_ ..
    | with_reducible refine keeps_writeLane ?_ ..
    | with_reducible refine Keeps.snd (by with_reducible assumption) ?_
    | (intro _)
    | split
    | dsimp only

theorem keeps_execGalleyWinWrite {s t u : State} (h : Keeps s t) (a0) (a1) (he : execGalleyWinWrite a0 a1 t = .next u) : Keeps s u := by
  unfold execGalleyWinWrite at he
  · injection he with he
    subst he
    iterate 40 try any_goals first
      | with_reducible assumption
      | with_reducible refine keeps_winWrite ?_ ..
      | with_reducible refine Keeps.snd (by with_reducible assumption) ?_
      | (intro _)
      | split
      | dsimp only

theorem keeps_execGalleyCflClear {s t u : State} (h : Keeps s t) (he : execGalleyCflClear t = .next u) : Keeps s u := by
  unfold execGalleyCflClear at he
  · injection he with he
    subst he
    iterate 40 try any_goals first
      | with_reducible assumption
      | with_reducible refine keeps_modGalley ?_ ?_
      | with_reducible refine Keeps.snd (by with_reducible assumption) ?_
      | with_reducible refine wf_wrBytes _ _ ?_
      | with_reducible refine wf_clearBytes _ _ ?_
      | with_reducible refine wf_touch _ ?_
      | with_reducible refine wf_touches _ ?_
      | rw [setBad_mem]
      | (intro _; simp_all; done)
      | (intro _)
      | split
      | dsimp only

theorem keeps_listColumn {s t : State} (h : Keeps s t) (a0) (a1) : Keeps s (listColumn a0 a1 t) := by
  unfold listColumn
  iterate 40 try any_goals first
    | with_reducible assumption
    | with_reducible refine keeps_modGalley ?_ ?_
    | with_reducible refine Keeps.snd (by with_reducible assumption) ?_
    | with_reducible refine wf_wrBytes _ _ ?_
    | with_reducible refine wf_clearBytes _ _ ?_
    | with_reducible refine wf_touch _ ?_
    | with_reducible refine wf_touches _ ?_
    | rw [setBad_mem]
    | (intro _; simp_all; done)
    | (intro _)
    | split
    | dsimp only

theorem keeps_noteColumn {s t : State} (h : Keeps s t) (a0) (a1) : Keeps s (noteColumn a0 a1 t) := by
  unfold noteColumn
  iterate 40 try any_goals first
    | with_reducible assumption
    | with_reducible refine keeps_listColumn ?_ ..
    | with_reducible refine keeps_latch ?_ ..
    | with_reducible refine Keeps.snd (by with_reducible assumption) ?_
    | (intro _)
    | split
    | dsimp only

theorem keeps_tallyCopyFails {s t : State} (h : Keeps s t) (a0) (a1) (a2) : Keeps s (tallyCopyFails a0 a1 a2 t) := by
  unfold tallyCopyFails
  iterate 40 try any_goals first
    | with_reducible assumption
    | with_reducible refine keeps_latch ?_ ..
    | with_reducible refine keeps_putTally ?_ ..
    | with_reducible refine keeps_failWaits ?_ ..
    | with_reducible refine keeps_modGalley ?_ ?_
    | with_reducible refine Keeps.snd (by with_reducible assumption) ?_
    | with_reducible refine wf_wrBytes _ _ ?_
    | with_reducible refine wf_clearBytes _ _ ?_
    | with_reducible refine wf_touch _ ?_
    | with_reducible refine wf_touches _ ?_
    | rw [setBad_mem]
    | (intro _; simp_all; done)
    | (intro _)
    | split
    | dsimp only

theorem keeps_rerunPress {s t : State} (h : Keeps s t) (a0) (a1) : Keeps s (rerunPress a0 a1 t) := by
  unfold rerunPress
  iterate 40 try any_goals first
    | with_reducible assumption
    | with_reducible refine keeps_latch ?_ ..
    | with_reducible refine keeps_modPower ?_ ?_
    | with_reducible refine keeps_meter ?_ ..
    | with_reducible refine keeps_endPress ?_ ..
    | with_reducible refine keeps_undefRanges ?_ ..
    | with_reducible refine keeps_modPressRun ?_ ..
    | with_reducible refine keeps_checkOperands ?_ ..
    | with_reducible refine Keeps.snd (by with_reducible assumption) ?_
    | (simp; done)
    | (intro _; simp_all; done)
    | (simp_all; done)
    | (intro _)
    | split
    | dsimp only

theorem keeps_withdrawWord {s t : State} (h : Keeps s t) (a0) (a1) : Keeps s (withdrawWord a0 a1 t) := by
  unfold withdrawWord
  iterate 40 try any_goals first
    | with_reducible assumption
    | with_reducible refine keeps_modGalley ?_ ?_
    | with_reducible refine keeps_rerunPress ?_ ..
    | with_reducible refine keeps_latch ?_ ..
    | with_reducible refine Keeps.snd (by with_reducible assumption) ?_
    | with_reducible refine wf_wrBytes _ _ ?_
    | with_reducible refine wf_clearBytes _ _ ?_
    | with_reducible refine wf_touch _ ?_
    | with_reducible refine wf_touches _ ?_
    | rw [setBad_mem]
    | (intro _; simp_all; done)
    | (intro _)
    | split
    | dsimp only

theorem keeps_laneUncorrectable {s t : State} (h : Keeps s t) (a0) (a1) (a2) (a3) : Keeps s (laneUncorrectable a0 a1 a2 a3 t) := by
  unfold laneUncorrectable
  iterate 40 try any_goals first
    | with_reducible assumption
    | with_reducible refine keeps_retireUnit ?_ ..
    | with_reducible refine keeps_latch ?_ ..
    | with_reducible refine keeps_withdrawWord ?_ ..
    | with_reducible refine keeps_modGalley ?_ ?_
    | with_reducible refine keeps_tallyCopyFails ?_ ..
    | with_reducible refine Keeps.snd (by with_reducible assumption) ?_
    | with_reducible refine wf_wrBytes _ _ ?_
    | with_reducible refine wf_clearBytes _ _ ?_
    | with_reducible refine wf_touch _ ?_
    | with_reducible refine wf_touches _ ?_
    | rw [setBad_mem]
    | (intro _; simp_all; done)
    | (intro _)
    | split
    | dsimp only

theorem keeps_galleyTest {s t : State} (h : Keeps s t) (a0) (a1) (a2) (a3) (a4) : Keeps s (galleyTest a0 a1 a2 a3 a4 t) := by
  unfold galleyTest
  iterate 40 try any_goals first
    | with_reducible assumption
    | with_reducible refine keeps_noteColumn ?_ ..
    | with_reducible refine keeps_latch ?_ ..
    | with_reducible refine keeps_laneUncorrectable ?_ ..
    | with_reducible refine Keeps.snd (by with_reducible assumption) ?_
    | (intro _)
    | split
    | dsimp only

theorem keeps_execGalleyTest {s t u : State} (h : Keeps s t) (a0) (a1) (a2) (a3) (a4) (he : execGalleyTest a0 a1 a2 a3 a4 t = .next u) : Keeps s u := by
  unfold execGalleyTest at he
  · injection he with he
    subst he
    iterate 40 try any_goals first
      | with_reducible assumption
      | with_reducible refine keeps_galleyTest ?_ ..
      | with_reducible refine Keeps.snd (by with_reducible assumption) ?_
      | (intro _)
      | split
      | dsimp only

end Sys2Proof.Machine
end

