-- ==== Sys2Proof/Laws/KeepTiers.lean ====
section
/-! SUPPORT. What the operations of Machine/Tiers.lean keep (Laws/Keeps.lean). -/
namespace Sys2Proof.Machine

theorem keeps_repairCopy_countUe {s t : State} (h : Keeps s t) (a0) : Keeps s (repairCopy.countUe a0 t) := by
  unfold repairCopy.countUe
  iterate 40 try any_goals first
    | with_reducible assumption
    | with_reducible refine keeps_modTier ?_ _ ?_
    | with_reducible refine Keeps.snd (by with_reducible assumption) ?_
    | with_reducible refine wf_wrBytes _ _ ?_
    | with_reducible refine wf_clearBytes _ _ ?_
    | with_reducible refine wf_touch _ ?_
    | with_reducible refine wf_touches _ ?_
    | rw [setBad_mem]
    | (intro _; simp_all; done)
    | (intro _)
    | split
    | dsimp only

theorem keeps_repairCopy {s t : State} (h : Keeps s t) (a0) (a1) : Keeps s (repairCopy a0 a1 t).2 := by
  unfold repairCopy
  iterate 40 try any_goals first
    | with_reducible assumption
    | with_reducible refine keeps_countCorrection ?_ _ _ _ _ ?_
    | with_reducible refine keeps_repairCopy_countUe ?_ ..
    | with_reducible refine keeps_modTier ?_ _ ?_
    | with_reducible refine Keeps.snd (by with_reducible assumption) ?_
    | with_reducible refine wf_wrBytes _ _ ?_
    | with_reducible refine wf_clearBytes _ _ ?_
    | with_reducible refine wf_touch _ ?_
    | with_reducible refine wf_touches _ ?_
    | rw [setBad_mem]
    | (intro _; simp_all; done)
    | (intro _)
    | split
    | dsimp only

@[simp] theorem scrubNote_mem (a0 : Bool) (a1 : Nat) (a2 a3 : Upset) (x : TierSt) : (scrubNote a0 a1 a2 a3 x).mem = x.mem := by
  unfold scrubNote
  dsimp only
  rw [setBad_mem]
  split <;> rfl

theorem keeps_scrubPass {s t : State} (h : Keeps s t) (a0) (a1) (a2) (a3) : Keeps s (scrubPass a0 a1 a2 a3 t) := by
  unfold scrubPass
  iterate 40 try any_goals first
    | with_reducible assumption
    | with_reducible refine keeps_readLine ?_ ..
    | with_reducible refine keeps_modTier ?_ _ ?_
    | with_reducible refine keeps_repairCopy ?_ ..
    | with_reducible refine keeps_latchAll ?_ ..
    | rw [scrubNote_mem]
    | with_reducible refine Keeps.snd (by with_reducible assumption) ?_
    | with_reducible refine wf_wrBytes _ _ ?_
    | with_reducible refine wf_clearBytes _ _ ?_
    | with_reducible refine wf_touch _ ?_
    | with_reducible refine wf_touches _ ?_
    | rw [setBad_mem]
    | (intro _; simp_all; done)
    | (intro _)
    | split
    | dsimp only

theorem keeps_execScrubPass {s t u : State} (h : Keeps s t) (a0) (a1) (a2) (a3) (he : execScrubPass a0 a1 a2 a3 t = .next u) : Keeps s u := by
  unfold execScrubPass at he
  · injection he with he
    subst he
    iterate 40 try any_goals first
      | with_reducible assumption
      | with_reducible refine keeps_scrubPass ?_ ..
      | with_reducible refine Keeps.snd (by with_reducible assumption) ?_
      | (intro _)
      | split
      | dsimp only

theorem keeps_execBackgroundClear {s t u : State} (h : Keeps s t) (a0) (a1) (he : execBackgroundClear a0 a1 t = .next u) : Keeps s u := by
  unfold execBackgroundClear at he
  · injection he with he
    subst he
    iterate 40 try any_goals first
      | with_reducible assumption
      | with_reducible refine keeps_clearGranule ?_ ..
      | with_reducible refine keeps_latchAll ?_ ..
      | with_reducible refine Keeps.snd (by with_reducible assumption) ?_
      | (intro _)
      | split
      | dsimp only

theorem keeps_loseParked {s t : State} (h : Keeps s t) (a0) (a1) : Keeps s (loseParked a0 a1 t) := by
  unfold loseParked
  iterate 40 try any_goals first
    | with_reducible assumption
    | with_reducible refine Keeps.snd (by with_reducible assumption) ?_
    | (intro _)
    | split
    | dsimp only
    | with_reducible refine Keeps.upd ?_ ..

theorem keeps_losePart {s t : State} (h : Keeps s t) (a0) (a1) : Keeps s (losePart a0 a1 t) := by
  unfold losePart
  iterate 40 try any_goals first
    | with_reducible assumption
    | with_reducible refine keeps_modTier ?_ _ ?_
    | with_reducible refine keeps_latch ?_ ..
    | with_reducible refine keeps_loseParked ?_ ..
    | with_reducible refine Keeps.snd (by with_reducible assumption) ?_
    | with_reducible refine wf_wrBytes _ _ ?_
    | with_reducible refine wf_clearBytes _ _ ?_
    | with_reducible refine wf_touch _ ?_
    | with_reducible refine wf_touches _ ?_
    | rw [setBad_mem]
    | (intro _; simp_all; done)
    | (intro _)
    | split
    | dsimp only

theorem keeps_execPartLoss {s t u : State} (h : Keeps s t) (a0) (a1) (he : execPartLoss a0 a1 t = .next u) : Keeps s u := by
  unfold execPartLoss at he
  · injection he with he
    subst he
    iterate 40 try any_goals first
      | with_reducible assumption
      | with_reducible refine keeps_losePart ?_ ..
      | with_reducible refine Keeps.snd (by with_reducible assumption) ?_
      | (intro _)
      | split
      | dsimp only

theorem keeps_cellarLinkDown {s t : State} (h : Keeps s t) (a0) : Keeps s (cellarLinkDown a0 t) := by
  unfold cellarLinkDown
  iterate 40 try any_goals first
    | with_reducible assumption
    | with_reducible refine keeps_modHatch ?_ ..
    | with_reducible refine keeps_losePart ?_ ..
    | with_reducible refine Keeps.snd (by with_reducible assumption) ?_
    | (intro _)
    | split
    | dsimp only

theorem keeps_execCellarLinkDown {s t u : State} (h : Keeps s t) (a0) (he : execCellarLinkDown a0 t = .next u) : Keeps s u := by
  unfold execCellarLinkDown at he
  · injection he with he
    subst he
    iterate 40 try any_goals first
      | with_reducible assumption
      | with_reducible refine keeps_cellarLinkDown ?_ ..
      | with_reducible refine Keeps.snd (by with_reducible assumption) ?_
      | (intro _)
      | split
      | dsimp only

theorem wf_clearPlain (a n : Nat) {x : TierSt} (h : Memory.wf x.mem = true) :
    Memory.wf (cellarLinkUp.clearPlain a n x).mem = true := wf_clearBytes _ _ h

theorem wf_twinBack (b : Bool) (l : Nat) {x : TierSt} (h : Memory.wf x.mem = true) :
    Memory.wf (cellarLinkUp.twinBack b l x).mem = true := by
  unfold cellarLinkUp.twinBack
  dsimp only
  repeat' split
  all_goals first | exact wf_clearBytes _ _ h | exact h | (rw [setBad_mem]; exact h)

theorem wf_twinBacks (l : List Nat) (b : Bool) {x : TierSt} (h : Memory.wf x.mem = true) :
    Memory.wf (l.foldl (fun y k => cellarLinkUp.twinBack b k y) x).mem = true := by
  induction l generalizing x with
  | nil => exact h
  | cons k l ih => exact ih (wf_twinBack _ _ h)

theorem keeps_cellarLinkUp {s t : State} (h : Keeps s t) (a0) : Keeps s (cellarLinkUp a0 t) := by
  unfold cellarLinkUp
  iterate 40 try any_goals first
    | with_reducible assumption
    | with_reducible refine keeps_modHatch ?_ ..
    | with_reducible refine keeps_modTier ?_ _ ?_
    | with_reducible refine keeps_loseParked ?_ ..
    | (refine wf_twinBacks _ _ ?_)
    | (refine wf_clearPlain _ _ ?_)
    | (refine wf_clearBytes _ _ ?_)
    | with_reducible refine Keeps.snd (by with_reducible assumption) ?_
    | with_reducible refine Keeps.foldl_snd ?_ _ _ (fun _ _ _ => ?_)
    | with_reducible refine Keeps.foldl ?_ _ _ (fun _ _ _ => ?_)
    | with_reducible refine wf_wrBytes _ _ ?_
    | with_reducible refine wf_clearBytes _ _ ?_
    | with_reducible refine wf_touch _ ?_
    | with_reducible refine wf_touches _ ?_
    | rw [setBad_mem]
    | (intro _; simp_all; done)
    | (intro _)
    | split
    | dsimp only

theorem keeps_execCellarLinkUp {s t u : State} (h : Keeps s t) (a0) (he : execCellarLinkUp a0 t = .next u) : Keeps s u := by
  unfold execCellarLinkUp at he
  · injection he with he
    subst he
    iterate 40 try any_goals first
      | with_reducible assumption
      | with_reducible refine keeps_cellarLinkUp ?_ ..
      | with_reducible refine Keeps.snd (by with_reducible assumption) ?_
      | (intro _)
      | split
      | dsimp only

theorem keeps_twinResync {s t : State} (h : Keeps s t) (a0) : Keeps s (twinResync a0 t) := by
  unfold twinResync
  iterate 40 try any_goals first
    | with_reducible assumption
    | with_reducible refine keeps_modTier ?_ _ ?_
    | with_reducible refine Keeps.snd (by with_reducible assumption) ?_
    | with_reducible refine wf_wrBytes _ _ ?_
    | with_reducible refine wf_clearBytes _ _ ?_
    | with_reducible refine wf_touch _ ?_
    | with_reducible refine wf_touches _ ?_
    | rw [setBad_mem]
    | (intro _; simp_all; done)
    | (intro _)
    | split
    | dsimp only

theorem keeps_execTwinResync {s t u : State} (h : Keeps s t) (a0) (he : execTwinResync a0 t = .next u) : Keeps s u := by
  unfold execTwinResync at he
  · injection he with he
    subst he
    iterate 40 try any_goals first
      | with_reducible assumption
      | with_reducible refine keeps_twinResync ?_ ..
      | with_reducible refine Keeps.snd (by with_reducible assumption) ?_
      | (intro _)
      | split
      | dsimp only

end Sys2Proof.Machine
end

