-- ==== Sys2Proof/Laws/KeepFabric.lean ====
section
/-! SUPPORT. What the operations of Machine/Fabric.lean keep (Laws/Keeps.lean). -/
namespace Sys2Proof.Machine

theorem keeps_unrouteAll {s t : State} (h : Keeps s t) (a0) : Keeps s (unrouteAll a0 t) := by
  unfold unrouteAll
  iterate 40 try any_goals first
    | with_reducible assumption
    | with_reducible refine keeps_modFabric ?_ ?_
    | with_reducible refine Keeps.snd (by with_reducible assumption) ?_
    | (simp; done)
    | (intro _; simp_all; done)
    | (simp_all; done)
    | (intro _)
    | split
    | dsimp only

theorem keeps_takeDown {s t : State} (h : Keeps s t) (a0) : Keeps s (takeDown a0 t) := by
  unfold takeDown
  iterate 40 try any_goals first
    | with_reducible assumption
    | with_reducible refine keeps_unrouteAll ?_ ..
    | with_reducible refine keeps_modPort ?_ ..
    | with_reducible refine Keeps.snd (by with_reducible assumption) ?_
    | (intro _)
    | split
    | dsimp only

theorem keeps_portDown {s t : State} (h : Keeps s t) (a0) : Keeps s (portDown a0 t) := by
  unfold portDown
  iterate 40 try any_goals first
    | with_reducible assumption
    | with_reducible refine keeps_latch ?_ ..
    | with_reducible refine keeps_takeDown ?_ ..
    | with_reducible refine Keeps.snd (by with_reducible assumption) ?_
    | (intro _)
    | split
    | dsimp only

theorem keeps_loseLane {s t : State} (h : Keeps s t) (a0) (a1) : Keeps s (loseLane a0 a1 t) := by
  unfold loseLane
  iterate 40 try any_goals first
    | with_reducible assumption
    | with_reducible refine keeps_modPort ?_ ..
    | with_reducible refine keeps_portDown ?_ ..
    | with_reducible refine Keeps.snd (by with_reducible assumption) ?_
    | (intro _)
    | split
    | dsimp only

theorem keeps_noteWords {s t : State} (h : Keeps s t) (a0) (a1) (a2) : Keeps s (noteWords a0 a1 a2 t) := by
  unfold noteWords
  iterate 40 try any_goals first
    | with_reducible assumption
    | with_reducible refine keeps_modPort ?_ ..
    | with_reducible refine Keeps.snd (by with_reducible assumption) ?_
    | (intro _)
    | split
    | dsimp only

theorem keeps_laneFault {s t : State} (h : Keeps s t) (a0) (a1) : Keeps s (laneFault a0 a1 t) := by
  unfold laneFault
  iterate 40 try any_goals first
    | with_reducible assumption
    | with_reducible refine keeps_modPort ?_ ..
    | with_reducible refine keeps_loseLane ?_ ..
    | with_reducible refine keeps_sendControl ?_ ..
    | with_reducible refine Keeps.snd (by with_reducible assumption) ?_
    | (intro _)
    | split
    | dsimp only

theorem keeps_laneEvent {s t : State} (h : Keeps s t) (a0) (a1) : Keeps s (laneEvent a0 a1 t) := by
  unfold laneEvent
  iterate 40 try any_goals first
    | with_reducible assumption
    | with_reducible refine keeps_noteWords ?_ ..
    | with_reducible refine keeps_laneFault ?_ ..
    | with_reducible refine Keeps.snd (by with_reducible assumption) ?_
    | (intro _)
    | split
    | dsimp only

theorem keeps_execLaneFault {s t u : State} (h : Keeps s t) (a0) (a1) (he : execLaneFault a0 a1 t = .next u) : Keeps s u := by
  unfold execLaneFault at he
  · injection he with he
    subst he
    iterate 40 try any_goals first
      | with_reducible assumption
      | with_reducible refine keeps_laneEvent ?_ ..
      | with_reducible refine Keeps.snd (by with_reducible assumption) ?_
      | (intro _)
      | split
      | dsimp only

theorem keeps_toSpare {s t : State} (h : Keeps s t) (a0) (a1) : Keeps s (toSpare a0 a1 t) := by
  unfold toSpare
  iterate 40 try any_goals first
    | with_reducible assumption
    | with_reducible refine keeps_modPort ?_ ..
    | with_reducible refine Keeps.snd (by with_reducible assumption) ?_
    | (intro _)
    | split
    | dsimp only

theorem keeps_useSpare {s t : State} (h : Keeps s t) (a0) (a1) : Keeps s (useSpare a0 a1 t) := by
  unfold useSpare
  iterate 40 try any_goals first
    | with_reducible assumption
    | with_reducible refine keeps_latch ?_ ..
    | with_reducible refine keeps_toSpare ?_ ..
    | with_reducible refine Keeps.snd (by with_reducible assumption) ?_
    | (intro _)
    | split
    | dsimp only

theorem keeps_spareAsked {s t : State} (h : Keeps s t) (a0) (a1) : Keeps s (spareAsked a0 a1 t) := by
  unfold spareAsked
  iterate 40 try any_goals first
    | with_reducible assumption
    | with_reducible refine keeps_sendControl ?_ ..
    | with_reducible refine keeps_useSpare ?_ ..
    | with_reducible refine Keeps.snd (by with_reducible assumption) ?_
    | (intro _)
    | split
    | dsimp only

theorem keeps_execSpareReq {s t u : State} (h : Keeps s t) (a0) (a1) (he : execSpareReq a0 a1 t = .next u) : Keeps s u := by
  unfold execSpareReq at he
  · injection he with he
    subst he
    iterate 40 try any_goals first
      | with_reducible assumption
      | with_reducible refine keeps_spareAsked ?_ ..
      | with_reducible refine Keeps.snd (by with_reducible assumption) ?_
      | (intro _)
      | split
      | dsimp only

theorem keeps_spareAnswered {s t : State} (h : Keeps s t) (a0) (a1) : Keeps s (spareAnswered a0 a1 t) := by
  unfold spareAnswered
  iterate 40 try any_goals first
    | with_reducible assumption
    | with_reducible refine keeps_useSpare ?_ ..
    | with_reducible refine keeps_replayFrom ?_ ..
    | with_reducible refine Keeps.snd (by with_reducible assumption) ?_
    | (intro _)
    | split
    | dsimp only

theorem keeps_execSpareAck {s t u : State} (h : Keeps s t) (a0) (a1) (he : execSpareAck a0 a1 t = .next u) : Keeps s u := by
  unfold execSpareAck at he
  · injection he with he
    subst he
    iterate 40 try any_goals first
      | with_reducible assumption
      | with_reducible refine keeps_spareAnswered ?_ ..
      | with_reducible refine Keeps.snd (by with_reducible assumption) ?_
      | (intro _)
      | split
      | dsimp only

theorem keeps_spareAgain {s t : State} (h : Keeps s t) (a0) : Keeps s (spareAgain a0 t) := by
  unfold spareAgain
  iterate 40 try any_goals first
    | with_reducible assumption
    | with_reducible refine keeps_waitMono ?_ ..
    | with_reducible refine keeps_sendControl ?_ ..
    | with_reducible refine keeps_modPort ?_ ..
    | with_reducible refine Keeps.snd (by with_reducible assumption) ?_
    | (intro _)
    | split
    | dsimp only

theorem keeps_execSpareReqRepeat {s t u : State} (h : Keeps s t) (a0) (he : execSpareReqRepeat a0 t = .next u) : Keeps s u := by
  unfold execSpareReqRepeat at he
  · injection he with he
    subst he
    iterate 40 try any_goals first
      | with_reducible assumption
      | with_reducible refine keeps_spareAgain ?_ ..
      | with_reducible refine Keeps.snd (by with_reducible assumption) ?_
      | (intro _)
      | split
      | dsimp only

theorem keeps_spareTimeout {s t : State} (h : Keeps s t) (a0) : Keeps s (spareTimeout a0 t) := by
  unfold spareTimeout
  iterate 40 try any_goals first
    | with_reducible assumption
    | with_reducible refine keeps_loseLane ?_ ..
    | with_reducible refine keeps_waitMono ?_ ..
    | with_reducible refine Keeps.snd (by with_reducible assumption) ?_
    | (intro _)
    | split
    | dsimp only

theorem keeps_execSpareAckTimeout {s t u : State} (h : Keeps s t) (a0) (he : execSpareAckTimeout a0 t = .next u) : Keeps s u := by
  unfold execSpareAckTimeout at he
  · injection he with he
    subst he
    iterate 40 try any_goals first
      | with_reducible assumption
      | with_reducible refine keeps_spareTimeout ?_ ..
      | with_reducible refine Keeps.snd (by with_reducible assumption) ?_
      | (intro _)
      | split
      | dsimp only

theorem keeps_portRetrain {s t : State} (h : Keeps s t) (a0) : Keeps s (portRetrain a0 t) := by
  unfold portRetrain
  iterate 40 try any_goals first
    | with_reducible assumption
    | with_reducible refine keeps_waitMono ?_ ..
    | with_reducible refine keeps_emit ?_ ..
    | with_reducible refine keeps_modPort ?_ ..
    | with_reducible refine Keeps.snd (by with_reducible assumption) ?_
    | (intro _)
    | split
    | dsimp only

theorem keeps_execPortRetrain {s t u : State} (h : Keeps s t) (a0) (he : execPortRetrain a0 t = .next u) : Keeps s u := by
  unfold execPortRetrain at he
  · injection he with he
    subst he
    iterate 40 try any_goals first
      | with_reducible assumption
      | with_reducible refine keeps_portRetrain ?_ ..
      | with_reducible refine Keeps.snd (by with_reducible assumption) ?_
      | (intro _)
      | split
      | dsimp only

theorem keeps_startLink {s t : State} (h : Keeps s t) (a0) (a1) (a2) : Keeps s (startLink a0 a1 a2 t) := by
  unfold startLink
  iterate 40 try any_goals first
    | with_reducible assumption
    | with_reducible refine keeps_modPort ?_ ..
    | with_reducible refine Keeps.snd (by with_reducible assumption) ?_
    | (intro _)
    | split
    | dsimp only

theorem keeps_enterService {s t : State} (h : Keeps s t) (a0) : Keeps s (enterService a0 t) := by
  unfold enterService
  iterate 40 try any_goals first
    | with_reducible assumption
    | with_reducible refine keeps_modPort ?_ ..
    | with_reducible refine Keeps.snd (by with_reducible assumption) ?_
    | (intro _)
    | split
    | dsimp only

theorem keeps_admitPort {s t : State} (h : Keeps s t) (a0) : Keeps s (admitPort a0 t) := by
  unfold admitPort
  iterate 40 try any_goals first
    | with_reducible assumption
    | with_reducible refine keeps_modPort ?_ ..
    | with_reducible refine keeps_enterService ?_ ..
    | with_reducible refine Keeps.snd (by with_reducible assumption) ?_
    | (intro _)
    | split
    | dsimp only

theorem keeps_trainingDone {s t : State} (h : Keeps s t) (a0) (a1) : Keeps s (trainingDone a0 a1 t) := by
  unfold trainingDone
  iterate 40 try any_goals first
    | with_reducible assumption
    | with_reducible refine keeps_modPort ?_ ..
    | with_reducible refine keeps_startLink ?_ ..
    | with_reducible refine keeps_sendLocal ?_ ..
    | with_reducible refine keeps_admitPort ?_ ..
    | with_reducible refine Keeps.snd (by with_reducible assumption) ?_
    | (intro _)
    | split
    | dsimp only

theorem keeps_execPortTrainingDone {s t u : State} (h : Keeps s t) (a0) (a1) (he : execPortTrainingDone a0 a1 t = .next u) : Keeps s u := by
  unfold execPortTrainingDone at he
  · injection he with he
    subst he
    iterate 40 try any_goals first
      | with_reducible assumption
      | with_reducible refine keeps_trainingDone ?_ ..
      | with_reducible refine Keeps.snd (by with_reducible assumption) ?_
      | (intro _)
      | split
      | dsimp only

theorem keeps_returnPorts {s t : State} (h : Keeps s t) : Keeps s (returnPorts t) := by
  unfold returnPorts
  iterate 40 try any_goals first
    | with_reducible assumption
    | with_reducible refine Keeps.each ?_ _ (fun _ _ _ => ?_)
    | with_reducible refine keeps_enterService ?_ ..
    | with_reducible refine Keeps.snd (by with_reducible assumption) ?_
    | (intro _)
    | split
    | dsimp only

theorem keeps_peerIdentified {s t : State} (h : Keeps s t) (a0) (a1) (a2) : Keeps s (peerIdentified a0 a1 a2 t) := by
  unfold peerIdentified
  iterate 40 try any_goals first
    | with_reducible assumption
    | with_reducible refine keeps_modPort ?_ ..
    | with_reducible refine keeps_admitPort ?_ ..
    | with_reducible refine keeps_latch ?_ ..
    | with_reducible refine keeps_unrouteAll ?_ ..
    | with_reducible refine Keeps.snd (by with_reducible assumption) ?_
    | (intro _)
    | split
    | dsimp only

theorem keeps_execPeerId {s t u : State} (h : Keeps s t) (a0) (a1) (a2) (he : execPeerId a0 a1 a2 t = .next u) : Keeps s u := by
  unfold execPeerId at he
  · injection he with he
    subst he
    iterate 40 try any_goals first
      | with_reducible assumption
      | with_reducible refine keeps_peerIdentified ?_ ..
      | with_reducible refine Keeps.snd (by with_reducible assumption) ?_
      | (intro _)
      | split
      | dsimp only

theorem keeps_enterRecovery {s t : State} (h : Keeps s t) (a0) : Keeps s (enterRecovery a0 t) := by
  unfold enterRecovery
  iterate 40 try any_goals first
    | with_reducible assumption
    | with_reducible refine keeps_sendControl ?_ ..
    | with_reducible refine keeps_modPort ?_ ..
    | with_reducible refine Keeps.snd (by with_reducible assumption) ?_
    | (intro _)
    | split
    | dsimp only

theorem keeps_retryAgain {s t : State} (h : Keeps s t) (a0) : Keeps s (retryAgain a0 t) := by
  unfold retryAgain
  iterate 40 try any_goals first
    | with_reducible assumption
    | with_reducible refine keeps_waitMono ?_ ..
    | with_reducible refine keeps_sendControl ?_ ..
    | with_reducible refine keeps_modPort ?_ ..
    | with_reducible refine Keeps.snd (by with_reducible assumption) ?_
    | (intro _)
    | split
    | dsimp only

theorem keeps_execRetryRepeat {s t u : State} (h : Keeps s t) (a0) (he : execRetryRepeat a0 t = .next u) : Keeps s u := by
  unfold execRetryRepeat at he
  · injection he with he
    subst he
    iterate 40 try any_goals first
      | with_reducible assumption
      | with_reducible refine keeps_retryAgain ?_ ..
      | with_reducible refine Keeps.snd (by with_reducible assumption) ?_
      | (intro _)
      | split
      | dsimp only

theorem keeps_retryAsked {s t : State} (h : Keeps s t) (a0) (a1) : Keeps s (retryAsked a0 a1 t) := by
  unfold retryAsked
  iterate 40 try any_goals first
    | with_reducible assumption
    | with_reducible refine keeps_replayFrom ?_ ..
    | with_reducible refine keeps_modPort ?_ ..
    | with_reducible refine keeps_laneFault ?_ ..
    | with_reducible refine Keeps.snd (by with_reducible assumption) ?_
    | (intro _)
    | split
    | dsimp only
    | with_reducible refine Keeps.upd ?_ ..

theorem keeps_execRetry {s t u : State} (h : Keeps s t) (a0) (a1) (he : execRetry a0 a1 t = .next u) : Keeps s u := by
  unfold execRetry at he
  · injection he with he
    subst he
    iterate 40 try any_goals first
      | with_reducible assumption
      | with_reducible refine keeps_retryAsked ?_ ..
      | with_reducible refine Keeps.snd (by with_reducible assumption) ?_
      | (intro _)
      | split
      | dsimp only

theorem keeps_takeAck {s t : State} (h : Keeps s t) (a0) (a1) : Keeps s (takeAck a0 a1 t) := by
  unfold takeAck
  iterate 40 try any_goals first
    | with_reducible assumption
    | with_reducible refine keeps_sendWaitingLocal ?_ ..
    | with_reducible refine keeps_returnCredits ?_ ..
    | with_reducible refine keeps_modPort ?_ ..
    | with_reducible refine Keeps.snd (by with_reducible assumption) ?_
    | (intro _)
    | split
    | dsimp only

theorem keeps_countDrop {s t : State} (h : Keeps s t) (a0) (a1) : Keeps s (countDrop a0 a1 t) := by
  unfold countDrop
  iterate 40 try any_goals first
    | with_reducible assumption
    | with_reducible refine keeps_modPort ?_ ..
    | with_reducible refine Keeps.snd (by with_reducible assumption) ?_
    | (intro _)
    | split
    | dsimp only

theorem keeps_packetArrives {s t : State} (h : Keeps s t) (a0) (a1) : Keeps s (packetArrives a0 a1 t) := by
  unfold packetArrives
  iterate 40 try any_goals first
    | with_reducible assumption
    | with_reducible refine keeps_freeCells ?_ ..
    | with_reducible refine keeps_peerIdentified ?_ ..
    | with_reducible refine keeps_ptpArrives ?_ ..
    | with_reducible refine keeps_countDrop ?_ ..
    | with_reducible refine keeps_modPort ?_ ..
    | with_reducible refine Keeps.snd (by with_reducible assumption) ?_
    | (intro _)
    | split
    | dsimp only

theorem keeps_takeCell {s t : State} (h : Keeps s t) (a0) (a1) : Keeps s (takeCell a0 a1 t) := by
  unfold takeCell
  iterate 40 try any_goals first
    | with_reducible assumption
    | with_reducible refine keeps_sendWaitingLocal ?_ ..
    | with_reducible refine keeps_modPort ?_ ..
    | with_reducible refine keeps_packetArrives ?_ ..
    | with_reducible refine Keeps.snd (by with_reducible assumption) ?_
    | (intro _)
    | split
    | dsimp only

theorem keeps_acceptCell {s t : State} (h : Keeps s t) (a0) (a1) : Keeps s (acceptCell a0 a1 t) := by
  unfold acceptCell
  iterate 40 try any_goals first
    | with_reducible assumption
    | with_reducible refine keeps_takeCell ?_ ..
    | with_reducible refine keeps_modPort ?_ ..
    | with_reducible refine Keeps.snd (by with_reducible assumption) ?_
    | (intro _)
    | split
    | dsimp only

theorem keeps_acceptAhead {s t : State} (h : Keeps s t) (a0) (a1) : Keeps s (acceptAhead a0 a1 t) := by
  induction a1 generalizing t with
  | zero =>
    unfold acceptAhead
    iterate 40 try any_goals first
      | with_reducible assumption
      | with_reducible refine keeps_modQueue ?_ ..
      | with_reducible refine keeps_modInst ?_ ..
      | with_reducible refine keeps_modDlv ?_ ..
      | with_reducible refine keeps_acceptCell ?_ ..
      | with_reducible refine keeps_modPort ?_ ..
      | with_reducible refine Keeps.snd (by with_reducible assumption) ?_
      | with_reducible refine Keeps.snd₂ (by with_reducible assumption) ?_
      | with_reducible refine Keeps.snd₃ (by with_reducible assumption) ?_
      | (intro _)
      | split
      | dsimp only
  | succ n ih =>
    unfold acceptAhead
    iterate 40 try any_goals first
      | with_reducible assumption
      | with_reducible refine ih ?_ ..
      | with_reducible refine keeps_modQueue ?_ ..
      | with_reducible refine keeps_modInst ?_ ..
      | with_reducible refine keeps_modDlv ?_ ..
      | with_reducible refine keeps_acceptCell ?_ ..
      | with_reducible refine keeps_modPort ?_ ..
      | with_reducible refine Keeps.snd (by with_reducible assumption) ?_
      | with_reducible refine Keeps.snd₂ (by with_reducible assumption) ?_
      | with_reducible refine Keeps.snd₃ (by with_reducible assumption) ?_
      | (intro _)
      | split
      | dsimp only

theorem keeps_numberedCell {s t : State} (h : Keeps s t) (a0) (a1) : Keeps s (numberedCell a0 a1 t) := by
  unfold numberedCell
  iterate 40 try any_goals first
    | with_reducible assumption
    | with_reducible refine keeps_acceptAhead ?_ ..
    | with_reducible refine keeps_acceptCell ?_ ..
    | with_reducible refine keeps_modPort ?_ ..
    | with_reducible refine keeps_enterRecovery ?_ ..
    | with_reducible refine Keeps.snd (by with_reducible assumption) ?_
    | (intro _)
    | split
    | dsimp only

theorem keeps_cellArrives {s t : State} (h : Keeps s t) (a0) (a1) : Keeps s (cellArrives a0 a1 t) := by
  unfold cellArrives
  iterate 40 try any_goals first
    | with_reducible assumption
    | with_reducible refine keeps_noteWords ?_ ..
    | with_reducible refine keeps_laneFault ?_ ..
    | with_reducible refine keeps_takeAck ?_ ..
    | with_reducible refine keeps_enterRecovery ?_ ..
    | with_reducible refine keeps_retryAsked ?_ ..
    | with_reducible refine keeps_spareAsked ?_ ..
    | with_reducible refine keeps_spareAnswered ?_ ..
    | with_reducible refine keeps_numberedCell ?_ ..
    | with_reducible refine Keeps.snd (by with_reducible assumption) ?_
    | (intro _)
    | split
    | dsimp only

theorem keeps_execCellReceive {s t u : State} (h : Keeps s t) (a0) (a1) (he : execCellReceive a0 a1 t = .next u) : Keeps s u := by
  unfold execCellReceive at he
  · injection he with he
    subst he
    iterate 40 try any_goals first
      | with_reducible assumption
      | with_reducible refine keeps_cellArrives ?_ ..
      | with_reducible refine Keeps.snd (by with_reducible assumption) ?_
      | (intro _)
      | split
      | dsimp only

theorem keeps_gateOpen {s t : State} (h : Keeps s t) (a0) (a1) : Keeps s (gateOpen a0 a1 t) := by
  unfold gateOpen
  iterate 40 try any_goals first
    | with_reducible assumption
    | with_reducible refine keeps_modPort ?_ ..
    | with_reducible refine keeps_waitPtp ?_ ..
    | with_reducible refine Keeps.snd (by with_reducible assumption) ?_
    | (intro _)
    | split
    | dsimp only

theorem keeps_gateClose {s t : State} (h : Keeps s t) (a0) (a1) : Keeps s (gateClose a0 a1 t) := by
  unfold gateClose
  iterate 40 try any_goals first
    | with_reducible assumption
    | with_reducible refine keeps_modPort ?_ ..
    | with_reducible refine keeps_waitPtp ?_ ..
    | with_reducible refine Keeps.snd (by with_reducible assumption) ?_
    | (intro _)
    | split
    | dsimp only

theorem keeps_execGateWindowClose {s t u : State} (h : Keeps s t) (a0) (a1) (he : execGateWindowClose a0 a1 t = .next u) : Keeps s u := by
  unfold execGateWindowClose at he
  · injection he with he
    subst he
    iterate 40 try any_goals first
      | with_reducible assumption
      | with_reducible refine keeps_gateClose ?_ ..
      | with_reducible refine Keeps.snd (by with_reducible assumption) ?_
      | (intro _)
      | split
      | dsimp only

theorem keeps_addGateWait {s t : State} (h : Keeps s t) (a0) (a1) : Keeps s (addGateWait a0 a1 t) := by
  unfold addGateWait
  iterate 40 try any_goals first
    | with_reducible assumption
    | with_reducible refine Keeps.snd (by with_reducible assumption) ?_
    | (intro _)
    | split
    | dsimp only
    | with_reducible refine Keeps.upd ?_ ..

theorem keeps_leave {s t : State} (h : Keeps s t) (a0) (a1) : Keeps s (leave a0 a1 t) := by
  unfold leave
  iterate 40 try any_goals first
    | with_reducible assumption
    | with_reducible refine keeps_addGateWait ?_ ..
    | with_reducible refine keeps_setBuffer ?_ ..
    | with_reducible refine keeps_modPort ?_ ..
    | with_reducible refine keeps_freeCells ?_ ..
    | with_reducible refine keeps_sendCells ?_ ..
    | with_reducible refine Keeps.snd (by with_reducible assumption) ?_
    | (intro _)
    | split
    | dsimp only

theorem keeps_discardHead {s t : State} (h : Keeps s t) (a0) (a1) (a2) (a3) (a4) : Keeps s (discardHead a0 a1 a2 a3 a4 t) := by
  unfold discardHead
  iterate 40 try any_goals first
    | with_reducible assumption
    | with_reducible refine keeps_freeCells ?_ ..
    | with_reducible refine keeps_countDrop ?_ ..
    | with_reducible refine keeps_setBuffer ?_ ..
    | with_reducible refine Keeps.snd (by with_reducible assumption) ?_
    | (intro _)
    | split
    | dsimp only

theorem keeps_noteShut {s t : State} (h : Keeps s t) (a0) (a1) (a2) (a3) : Keeps s (noteShut a0 a1 a2 a3 t) := by
  unfold noteShut
  iterate 40 try any_goals first
    | with_reducible assumption
    | with_reducible refine keeps_setBuffer ?_ ..
    | with_reducible refine Keeps.snd (by with_reducible assumption) ?_
    | (intro _)
    | split
    | dsimp only

theorem keeps_tryLeave {s t : State} (h : Keeps s t) (a0) (a1) (a2) (a3) : Keeps s (tryLeave a0 a1 a2 a3 t) := by
  unfold tryLeave
  iterate 40 try any_goals first
    | with_reducible assumption
    | with_reducible refine keeps_sendWaitingLocal ?_ ..
    | with_reducible refine keeps_leave ?_ ..
    | with_reducible refine keeps_noteShut ?_ ..
    | with_reducible refine Keeps.snd (by with_reducible assumption) ?_
    | (intro _)
    | split
    | dsimp only

theorem keeps_ownUnroutable {s t : State} (h : Keeps s t) (a0) (a1) (a2) : Keeps s (ownUnroutable a0 a1 a2 t) := by
  unfold ownUnroutable
  iterate 40 try any_goals first
    | with_reducible assumption
    | with_reducible refine keeps_setBuffer ?_ ..
    | with_reducible refine keeps_modTx ?_ ..
    | with_reducible refine keeps_noRouteEnds ?_ ..
    | with_reducible refine keeps_modPort ?_ ..
    | with_reducible refine Keeps.snd (by with_reducible assumption) ?_
    | (intro _)
    | split
    | dsimp only

theorem keeps_routeHead {s t : State} (h : Keeps s t) (a0) (a1) (a2) : Keeps s (routeHead a0 a1 a2 t) := by
  unfold routeHead
  iterate 40 try any_goals first
    | with_reducible assumption
    | with_reducible refine keeps_tryLeave ?_ ..
    | with_reducible refine keeps_discardHead ?_ ..
    | with_reducible refine keeps_freeCells ?_ ..
    | with_reducible refine keeps_modFabric ?_ ?_
    | with_reducible refine keeps_setBuffer ?_ ..
    | with_reducible refine keeps_ownUnroutable ?_ ..
    | with_reducible refine Keeps.snd (by with_reducible assumption) ?_
    | (simp; done)
    | (intro _; simp_all; done)
    | (simp_all; done)
    | (intro _)
    | split
    | dsimp only

theorem keeps_execPacketRoute {s t u : State} (h : Keeps s t) (a0) (a1) (a2) (a3) (he : execPacketRoute a0 a1 a2 a3 t = .next u) : Keeps s u := by
  unfold execPacketRoute at he
  · injection he with he
    subst he
    iterate 40 try any_goals first
      | with_reducible assumption
      | with_reducible refine keeps_routeHead ?_ ..
      | with_reducible refine Keeps.snd (by with_reducible assumption) ?_
      | (intro _)
      | split
      | dsimp only

theorem keeps_discardStale {s t : State} (h : Keeps s t) (a0) (a1) (a2) : Keeps s (discardStale a0 a1 a2 t) := by
  unfold discardStale
  iterate 40 try any_goals first
    | with_reducible assumption
    | with_reducible refine keeps_waitMono ?_ ..
    | with_reducible refine keeps_modDlv ?_ ..
    | with_reducible refine keeps_discardHead ?_ ..
    | with_reducible refine Keeps.snd (by with_reducible assumption) ?_
    | (intro _)
    | split
    | dsimp only

theorem keeps_execStaleDiscard {s t u : State} (h : Keeps s t) (a0) (a1) (a2) (he : execStaleDiscard a0 a1 a2 t = .next u) : Keeps s u := by
  unfold execStaleDiscard at he
  · injection he with he
    subst he
    iterate 40 try any_goals first
      | with_reducible assumption
      | with_reducible refine keeps_discardStale ?_ ..
      | with_reducible refine Keeps.snd (by with_reducible assumption) ?_
      | (intro _)
      | split
      | dsimp only

theorem keeps_modBank {s t : State} (h : Keeps s t) (a0) (a1) : Keeps s (modBank a0 a1 t) := by
  unfold modBank
  iterate 40 try any_goals first
    | with_reducible assumption
    | with_reducible refine keeps_modFabric ?_ ?_
    | with_reducible refine Keeps.snd (by with_reducible assumption) ?_
    | (simp; done)
    | (intro _; simp_all; done)
    | (simp_all; done)
    | (intro _)
    | split
    | dsimp only

theorem keeps_routeAnswer {s t : State} (h : Keeps s t) (a0) : Keeps s (routeAnswer a0 t) := by
  unfold routeAnswer
  iterate 40 try any_goals first
    | with_reducible assumption
    | with_reducible refine keeps_modFabric ?_ ?_
    | with_reducible refine Keeps.snd (by with_reducible assumption) ?_
    | (simp; done)
    | (intro _; simp_all; done)
    | (simp_all; done)
    | (intro _)
    | split
    | dsimp only

theorem keeps_writeRouteLoad {s t : State} (h : Keeps s t) (a0) : Keeps s (writeRouteLoad a0 t) := by
  unfold writeRouteLoad
  iterate 40 try any_goals first
    | with_reducible assumption
    | with_reducible refine keeps_modFabric ?_ ?_
    | with_reducible refine Keeps.snd (by with_reducible assumption) ?_
    | (simp; done)
    | (intro _; simp_all; done)
    | (simp_all; done)
    | (intro _)
    | split
    | dsimp only

theorem keeps_routeLoad {s t : State} (h : Keeps s t) (a0) : Keeps s (routeLoad a0 t) := by
  unfold routeLoad
  iterate 40 try any_goals first
    | with_reducible assumption
    | with_reducible refine keeps_writeRouteLoad ?_ ..
    | with_reducible refine keeps_routeAnswer ?_ ..
    | with_reducible refine keeps_modBank ?_ ..
    | with_reducible refine Keeps.snd (by with_reducible assumption) ?_
    | (intro _)
    | split
    | dsimp only

theorem keeps_execRouteLoad {s t u : State} (h : Keeps s t) (a0) (he : execRouteLoad a0 t = .next u) : Keeps s u := by
  unfold execRouteLoad at he
  · injection he with he
    subst he
    iterate 40 try any_goals first
      | with_reducible assumption
      | with_reducible refine keeps_routeLoad ?_ ..
      | with_reducible refine Keeps.snd (by with_reducible assumption) ?_
      | (intro _)
      | split
      | dsimp only

theorem keeps_routeReady {s t : State} (h : Keeps s t) (a0) : Keeps s (routeReady a0 t) := by
  unfold routeReady
  iterate 40 try any_goals first
    | with_reducible assumption
    | with_reducible refine keeps_writeRouteLoad ?_ ..
    | with_reducible refine keeps_routeAnswer ?_ ..
    | with_reducible refine keeps_modFabric ?_ ?_
    | with_reducible refine keeps_modBank ?_ ..
    | with_reducible refine Keeps.snd (by with_reducible assumption) ?_
    | (simp; done)
    | (intro _; simp_all; done)
    | (simp_all; done)
    | (intro _)
    | split
    | dsimp only

theorem keeps_execRouteReady {s t u : State} (h : Keeps s t) (a0) (he : execRouteReady a0 t = .next u) : Keeps s u := by
  unfold execRouteReady at he
  · injection he with he
    subst he
    iterate 40 try any_goals first
      | with_reducible assumption
      | with_reducible refine keeps_routeReady ?_ ..
      | with_reducible refine Keeps.snd (by with_reducible assumption) ?_
      | (intro _)
      | split
      | dsimp only

theorem keeps_routeData1 {s t : State} (h : Keeps s t) (a0) : Keeps s (routeData1 a0 t) := by
  unfold routeData1
  iterate 40 try any_goals first
    | with_reducible assumption
    | with_reducible refine keeps_modFabric ?_ ?_
    | with_reducible refine keeps_routeAnswer ?_ ..
    | with_reducible refine Keeps.snd (by with_reducible assumption) ?_
    | (simp; done)
    | (intro _; simp_all; done)
    | (simp_all; done)
    | (intro _)
    | split
    | dsimp only

theorem keeps_execRouteData1Write {s t u : State} (h : Keeps s t) (a0) (he : execRouteData1Write a0 t = .next u) : Keeps s u := by
  unfold execRouteData1Write at he
  · injection he with he
    subst he
    iterate 40 try any_goals first
      | with_reducible assumption
      | with_reducible refine keeps_routeData1 ?_ ..
      | with_reducible refine Keeps.snd (by with_reducible assumption) ?_
      | (intro _)
      | split
      | dsimp only

theorem keeps_drainOver {s t : State} (h : Keeps s t) : Keeps s (drainOver t) := by
  unfold drainOver
  iterate 40 try any_goals first
    | with_reducible assumption
    | with_reducible refine keeps_modBank ?_ ..
    | with_reducible refine keeps_waitMono ?_ ..
    | with_reducible refine Keeps.snd (by with_reducible assumption) ?_
    | (intro _)
    | split
    | dsimp only

theorem keeps_execRouteDrainExpiry {s t u : State} (h : Keeps s t) (he : execRouteDrainExpiry t = .next u) : Keeps s u := by
  unfold execRouteDrainExpiry at he
  · injection he with he
    subst he
    iterate 40 try any_goals first
      | with_reducible assumption
      | with_reducible refine keeps_drainOver ?_ ..
      | with_reducible refine Keeps.snd (by with_reducible assumption) ?_
      | (intro _)
      | split
      | dsimp only

end Sys2Proof.Machine
end

