-- ==== Sys2Proof/Laws/KeepEther.lean ====
section
/-! SUPPORT. What the operations of Machine/Ether.lean keep (Laws/Keeps.lean). -/
namespace Sys2Proof.Machine

theorem keeps_endRaw {s t : State} (h : Keeps s t) (a0) (a1) : Keeps s (endRaw a0 a1 t) := by
  unfold endRaw
  iterate 40 try any_goals first
    | with_reducible assumption
    | with_reducible refine keeps_settle ?_ ..
    | with_reducible refine Keeps.snd (by with_reducible assumption) ?_
    | (intro _)
    | split
    | dsimp only

theorem keeps_drainFrames {s t : State} (h : Keeps s t) (a0) (a1) : Keeps s (drainFrames a0 a1 t) := by
  induction a1 generalizing t with
  | zero =>
    unfold drainFrames
    iterate 40 try any_goals first
      | with_reducible assumption
      | with_reducible refine keeps_modQueue ?_ ..
      | with_reducible refine keeps_modInst ?_ ..
      | with_reducible refine keeps_modDlv ?_ ..
      | with_reducible refine keeps_endRaw ?_ ..
      | with_reducible refine keeps_emit ?_ ..
      | with_reducible refine keeps_modPort ?_ ..
      | with_reducible refine Keeps.snd (by with_reducible assumption) ?_
      | with_reducible refine Keeps.snd₂ (by with_reducible assumption) ?_
      | with_reducible refine Keeps.snd₃ (by with_reducible assumption) ?_
      | (intro _)
      | split
      | dsimp only
  | succ n ih =>
    unfold drainFrames
    iterate 40 try any_goals first
      | with_reducible assumption
      | with_reducible refine ih ?_ ..
      | with_reducible refine keeps_modQueue ?_ ..
      | with_reducible refine keeps_modInst ?_ ..
      | with_reducible refine keeps_modDlv ?_ ..
      | with_reducible refine keeps_endRaw ?_ ..
      | with_reducible refine keeps_emit ?_ ..
      | with_reducible refine keeps_modPort ?_ ..
      | with_reducible refine Keeps.snd (by with_reducible assumption) ?_
      | with_reducible refine Keeps.snd₂ (by with_reducible assumption) ?_
      | with_reducible refine Keeps.snd₃ (by with_reducible assumption) ?_
      | (intro _)
      | split
      | dsimp only

theorem keeps_drainPort {s t : State} (h : Keeps s t) (a0) : Keeps s (drainPort a0 t) := by
  unfold drainPort
  iterate 40 try any_goals first
    | with_reducible assumption
    | with_reducible refine keeps_drainFrames ?_ ..
    | with_reducible refine Keeps.snd (by with_reducible assumption) ?_
    | (intro _)
    | split
    | dsimp only

theorem keeps_queueFrame {s t : State} (h : Keeps s t) (a0) (a1) (a2) (a3) : Keeps s (queueFrame a0 a1 a2 a3 t) := by
  unfold queueFrame
  iterate 40 try any_goals first
    | with_reducible assumption
    | with_reducible refine keeps_drainPort ?_ ..
    | with_reducible refine keeps_modPort ?_ ..
    | with_reducible refine Keeps.snd (by with_reducible assumption) ?_
    | (intro _)
    | split
    | dsimp only

theorem keeps_execGateWindowOpen {s t u : State} (h : Keeps s t) (a0) (a1) (he : execGateWindowOpen a0 a1 t = .next u) : Keeps s u := by
  unfold execGateWindowOpen at he
  · injection he with he
    subst he
    iterate 40 try any_goals first
      | with_reducible assumption
      | with_reducible refine keeps_drainPort ?_ ..
      | with_reducible refine keeps_gateOpen ?_ ..
      | with_reducible refine Keeps.snd (by with_reducible assumption) ?_
      | (intro _)
      | split
      | dsimp only

theorem keeps_pauseCheck {s t : State} (h : Keeps s t) (a0) (a1) : Keeps s (pauseCheck a0 a1 t) := by
  unfold pauseCheck
  iterate 40 try any_goals first
    | with_reducible assumption
    | with_reducible refine keeps_emit ?_ ..
    | with_reducible refine keeps_modPort ?_ ..
    | with_reducible refine Keeps.snd (by with_reducible assumption) ?_
    | (intro _)
    | split
    | dsimp only

theorem keeps_pfcAgain {s t : State} (h : Keeps s t) (a0) (a1) : Keeps s (pfcAgain a0 a1 t) := by
  unfold pfcAgain
  iterate 40 try any_goals first
    | with_reducible assumption
    | with_reducible refine keeps_waitMono ?_ ..
    | with_reducible refine keeps_emit ?_ ..
    | with_reducible refine keeps_modPort ?_ ..
    | with_reducible refine Keeps.snd (by with_reducible assumption) ?_
    | (intro _)
    | split
    | dsimp only

theorem keeps_execPfcRepeat {s t u : State} (h : Keeps s t) (a0) (a1) (he : execPfcRepeat a0 a1 t = .next u) : Keeps s u := by
  unfold execPfcRepeat at he
  · injection he with he
    subst he
    iterate 40 try any_goals first
      | with_reducible assumption
      | with_reducible refine keeps_pfcAgain ?_ ..
      | with_reducible refine Keeps.snd (by with_reducible assumption) ?_
      | (intro _)
      | split
      | dsimp only

theorem keeps_pfcArrives {s t : State} (h : Keeps s t) (a0) (a1) : Keeps s (pfcArrives a0 a1 t) := by
  unfold pfcArrives
  iterate 40 try any_goals first
    | with_reducible assumption
    | with_reducible refine keeps_modPort ?_ ..
    | with_reducible refine keeps_drainPort ?_ ..
    | with_reducible refine Keeps.each ?_ _ (fun _ _ _ => ?_)
    | with_reducible refine Keeps.snd (by with_reducible assumption) ?_
    | (intro _)
    | split
    | dsimp only

theorem keeps_execPfcFrameRx {s t u : State} (h : Keeps s t) (a0) (a1) (he : execPfcFrameRx a0 a1 t = .next u) : Keeps s u := by
  unfold execPfcFrameRx at he
  · injection he with he
    subst he
    iterate 40 try any_goals first
      | with_reducible assumption
      | with_reducible refine keeps_pfcArrives ?_ ..
      | with_reducible refine Keeps.snd (by with_reducible assumption) ?_
      | (intro _)
      | split
      | dsimp only

theorem keeps_pauseExpiry {s t : State} (h : Keeps s t) (a0) (a1) : Keeps s (pauseExpiry a0 a1 t) := by
  unfold pauseExpiry
  iterate 40 try any_goals first
    | with_reducible assumption
    | with_reducible refine keeps_drainPort ?_ ..
    | with_reducible refine keeps_modPort ?_ ..
    | with_reducible refine keeps_waitMono ?_ ..
    | with_reducible refine Keeps.snd (by with_reducible assumption) ?_
    | (intro _)
    | split
    | dsimp only

theorem keeps_execPfcPauseExpiry {s t u : State} (h : Keeps s t) (a0) (a1) (he : execPfcPauseExpiry a0 a1 t = .next u) : Keeps s u := by
  unfold execPfcPauseExpiry at he
  · injection he with he
    subst he
    iterate 40 try any_goals first
      | with_reducible assumption
      | with_reducible refine keeps_pauseExpiry ?_ ..
      | with_reducible refine Keeps.snd (by with_reducible assumption) ?_
      | (intro _)
      | split
      | dsimp only

theorem keeps_discardedRaw {s t : State} (h : Keeps s t) : Keeps s (discardedRaw t).2 := by
  unfold discardedRaw
  iterate 40 try any_goals first
    | with_reducible assumption
    | with_reducible refine keeps_freeWord ?_ ..
    | with_reducible refine Keeps.snd (by with_reducible assumption) ?_
    | (intro _)
    | split
    | dsimp only

theorem keeps_pfcWatchdog {s t : State} (h : Keeps s t) (a0) (a1) : Keeps s (pfcWatchdog a0 a1 t) := by
  unfold pfcWatchdog
  iterate 40 try any_goals first
    | with_reducible assumption
    | with_reducible refine keeps_waitMono ?_ ..
    | with_reducible refine keeps_modPort ?_ ..
    | with_reducible refine Keeps.each ?_ _ (fun _ _ _ => ?_)
    | with_reducible refine keeps_discardedRaw ?_ ..
    | with_reducible refine keeps_endRaw ?_ ..
    | with_reducible refine keeps_latch ?_ ..
    | with_reducible refine Keeps.snd (by with_reducible assumption) ?_
    | (intro _)
    | split
    | dsimp only

theorem keeps_execPfcWatchdog {s t u : State} (h : Keeps s t) (a0) (a1) (he : execPfcWatchdog a0 a1 t = .next u) : Keeps s u := by
  unfold execPfcWatchdog at he
  · injection he with he
    subst he
    iterate 40 try any_goals first
      | with_reducible assumption
      | with_reducible refine keeps_pfcWatchdog ?_ ..
      | with_reducible refine Keeps.snd (by with_reducible assumption) ?_
      | (intro _)
      | split
      | dsimp only

theorem keeps_rawSend {s t : State} (h : Keeps s t) (a0) (a1) (a2) (a3) : Keeps s (rawSend a0 a1 a2 a3 t) := by
  unfold rawSend
  iterate 40 try any_goals first
    | with_reducible assumption
    | with_reducible refine keeps_settle ?_ ..
    | with_reducible refine keeps_readSeg ?_ ..
    | with_reducible refine keeps_latchAll ?_ ..
    | with_reducible refine keeps_placeAll ?_ ..
    | with_reducible refine keeps_malformed ?_ ..
    | with_reducible refine keeps_queueFrame ?_ ..
    | with_reducible refine keeps_markExecuted ?_ ..
    | with_reducible refine Keeps.snd (by with_reducible assumption) ?_
    | (intro _)
    | split
    | dsimp only
    | with_reducible refine Keeps.upd ?_ ..

theorem keeps_execRawSend {s t u : State} (h : Keeps s t) (a0) (he : execRawSend a0 t = .next u) : Keeps s u := by
  unfold execRawSend at he
  · injection he with he
    subst he
    iterate 40 try any_goals first
      | with_reducible assumption
      | with_reducible refine keeps_startDocket ?_ _ _ _ (fun _ _ _ _ => ?_)
      | with_reducible refine keeps_rawSend ?_ ..
      | with_reducible refine Keeps.snd (by with_reducible assumption) ?_
      | (intro _)
      | split
      | dsimp only

theorem keeps_rawFull {s t : State} (h : Keeps s t) (a0) : Keeps s (rawFull a0 t) := by
  unfold rawFull
  iterate 40 try any_goals first
    | with_reducible assumption
    | with_reducible refine keeps_modPort ?_ ..
    | with_reducible refine Keeps.snd (by with_reducible assumption) ?_
    | (intro _)
    | split
    | dsimp only

theorem keeps_rawArrives {s t : State} (h : Keeps s t) (a0) (a1) (a2) : Keeps s (rawArrives a0 a1 a2 t) := by
  unfold rawArrives
  iterate 40 try any_goals first
    | with_reducible assumption
    | with_reducible refine keeps_rawFull ?_ ..
    | with_reducible refine keeps_writeSeg ?_ ..
    | with_reducible refine keeps_latchAll ?_ ..
    | with_reducible refine keeps_stamp ?_ ..
    | with_reducible refine keeps_writeReceipt ?_ ..
    | with_reducible refine keeps_flushWindow ?_ ..
    | with_reducible refine keeps_modPort ?_ ..
    | with_reducible refine Keeps.snd (by with_reducible assumption) ?_
    | (intro _)
    | split
    | dsimp only

theorem keeps_takeFrame {s t : State} (h : Keeps s t) (a0) (a1) : Keeps s (takeFrame a0 a1 t) := by
  unfold takeFrame
  iterate 40 try any_goals first
    | with_reducible assumption
    | with_reducible refine keeps_pauseCheck ?_ ..
    | with_reducible refine keeps_modPort ?_ ..
    | with_reducible refine Keeps.snd (by with_reducible assumption) ?_
    | (intro _)
    | split
    | dsimp only

theorem keeps_frameStamp {s t : State} (h : Keeps s t) (a0) (a1) : Keeps s (frameStamp a0 a1 t).2 := by
  unfold frameStamp
  iterate 40 try any_goals first
    | with_reducible assumption
    | with_reducible refine keeps_stamp ?_ ..
    | with_reducible refine Keeps.snd (by with_reducible assumption) ?_
    | (intro _)
    | split
    | dsimp only

theorem keeps_execRawFrameRx {s t u : State} (h : Keeps s t) (a0) (a1) (he : execRawFrameRx a0 a1 t = .next u) : Keeps s u := by
  unfold execRawFrameRx at he
  · injection he with he
    subst he
    iterate 40 try any_goals first
      | with_reducible assumption
      | with_reducible refine keeps_rawArrives ?_ ..
      | with_reducible refine keeps_takeFrame ?_ ..
      | with_reducible refine keeps_frameStamp ?_ ..
      | with_reducible refine Keeps.snd (by with_reducible assumption) ?_
      | (intro _)
      | split
      | dsimp only

theorem keeps_countFlaws {s t : State} (h : Keeps s t) (a0) (a1) : Keeps s (countFlaws a0 a1 t) := by
  unfold countFlaws
  iterate 40 try any_goals first
    | with_reducible assumption
    | with_reducible refine keeps_modPort ?_ ..
    | with_reducible refine Keeps.snd (by with_reducible assumption) ?_
    | (intro _)
    | split
    | dsimp only

theorem keeps_roceStray {s t : State} (h : Keeps s t) (a0) : Keeps s (roceStray a0 t) := by
  unfold roceStray
  iterate 40 try any_goals first
    | with_reducible assumption
    | with_reducible refine keeps_modPort ?_ ..
    | with_reducible refine Keeps.snd (by with_reducible assumption) ?_
    | (intro _)
    | split
    | dsimp only

theorem keeps_holdFrame {s t : State} (h : Keeps s t) (a0) (a1) : Keeps s (holdFrame a0 a1 t) := by
  unfold holdFrame
  iterate 40 try any_goals first
    | with_reducible assumption
    | with_reducible refine keeps_stamp ?_ ..
    | with_reducible refine keeps_pauseCheck ?_ ..
    | with_reducible refine keeps_modPort ?_ ..
    | with_reducible refine Keeps.snd (by with_reducible assumption) ?_
    | (intro _)
    | split
    | dsimp only

theorem keeps_frameArrives {s t : State} (h : Keeps s t) (a0) (a1) : Keeps s (frameArrives a0 a1 t) := by
  unfold frameArrives
  iterate 40 try any_goals first
    | with_reducible assumption
    | with_reducible refine keeps_countFlaws ?_ ..
    | with_reducible refine keeps_pfcArrives ?_ ..
    | with_reducible refine keeps_modPort ?_ ..
    | with_reducible refine keeps_ptpArrives ?_ ..
    | with_reducible refine keeps_holdFrame ?_ ..
    | with_reducible refine keeps_roceStray ?_ ..
    | with_reducible refine Keeps.snd (by with_reducible assumption) ?_
    | (intro _)
    | split
    | dsimp only

theorem keeps_execFrameReceive {s t u : State} (h : Keeps s t) (a0) (a1) (he : execFrameReceive a0 a1 t = .next u) : Keeps s u := by
  unfold execFrameReceive at he
  · injection he with he
    subst he
    iterate 40 try any_goals first
      | with_reducible assumption
      | with_reducible refine keeps_frameArrives ?_ ..
      | with_reducible refine Keeps.snd (by with_reducible assumption) ?_
      | (intro _)
      | split
      | dsimp only

end Sys2Proof.Machine
end

