-- ==== Sys2Proof/Laws/KeepRoce.lean ====
section
/-! SUPPORT. What the operations of Machine/Roce.lean keep (Laws/Keeps.lean). -/
namespace Sys2Proof.Machine

theorem keeps_modRoce {s t : State} (h : Keeps s t) (a0) (a1) : Keeps s (modRoce a0 a1 t) := by
  unfold modRoce
  iterate 40 try any_goals first
    | with_reducible assumption
    | with_reducible refine keeps_modEther ?_ ..
    | with_reducible refine Keeps.snd (by with_reducible assumption) ?_
    | (intro _)
    | split
    | dsimp only

theorem keeps_tidyRoce {s t : State} (h : Keeps s t) : Keeps s (tidyRoce t) := by
  unfold tidyRoce
  iterate 40 try any_goals first
    | with_reducible assumption
    | with_reducible refine keeps_modDlv ?_ ..
    | with_reducible refine keeps_modEther ?_ ..
    | with_reducible refine Keeps.snd (by with_reducible assumption) ?_
    | (intro _)
    | split
    | dsimp only

theorem keeps_roceAnswer {s t : State} (h : Keeps s t) (a0) : Keeps s (roceAnswer a0 t) := by
  unfold roceAnswer
  iterate 40 try any_goals first
    | with_reducible assumption
    | with_reducible refine keeps_modEther ?_ ..
    | with_reducible refine Keeps.snd (by with_reducible assumption) ?_
    | (intro _)
    | split
    | dsimp only

theorem keeps_roceClear {s t : State} (h : Keeps s t) (a0) : Keeps s (roceClear a0 t) := by
  unfold roceClear
  iterate 40 try any_goals first
    | with_reducible assumption
    | with_reducible refine keeps_roceAnswer ?_ ..
    | with_reducible refine keeps_tidyRoce ?_ ..
    | with_reducible refine keeps_modRoce ?_ ..
    | with_reducible refine Keeps.snd (by with_reducible assumption) ?_
    | (intro _)
    | split
    | dsimp only

theorem keeps_roceLoad {s t : State} (h : Keeps s t) (a0) : Keeps s (roceLoad a0 t) := by
  unfold roceLoad
  iterate 40 try any_goals first
    | with_reducible assumption
    | with_reducible refine keeps_readHost ?_ ..
    | with_reducible refine keeps_roceAnswer ?_ ..
    | with_reducible refine keeps_roceClear ?_ ..
    | with_reducible refine keeps_modDlv ?_ ..
    | with_reducible refine keeps_modEther ?_ ..
    | with_reducible refine Keeps.snd (by with_reducible assumption) ?_
    | (intro _)
    | split
    | dsimp only

theorem keeps_execRoceConnLoad {s t u : State} (h : Keeps s t) (a0) (he : execRoceConnLoad a0 t = .next u) : Keeps s u := by
  unfold execRoceConnLoad at he
  · injection he with he
    subst he
    iterate 40 try any_goals first
      | with_reducible assumption
      | with_reducible refine keeps_roceLoad ?_ ..
      | with_reducible refine keeps_tidyRoce ?_ ..
      | with_reducible refine Keeps.snd (by with_reducible assumption) ?_
      | (intro _)
      | split
      | dsimp only

theorem keeps_execRoceConnClear {s t u : State} (h : Keeps s t) (a0) (he : execRoceConnClear a0 t = .next u) : Keeps s u := by
  unfold execRoceConnClear at he
  · injection he with he
    subst he
    iterate 40 try any_goals first
      | with_reducible assumption
      | with_reducible refine keeps_roceClear ?_ ..
      | with_reducible refine Keeps.snd (by with_reducible assumption) ?_
      | (intro _)
      | split
      | dsimp only

theorem keeps_sendRoce {s t : State} (h : Keeps s t) (a0) (a1) (a2) : Keeps s (sendRoce a0 a1 a2 t) := by
  unfold sendRoce
  iterate 40 try any_goals first
    | with_reducible assumption
    | with_reducible refine keeps_queueFrame ?_ ..
    | with_reducible refine Keeps.snd (by with_reducible assumption) ?_
    | (intro _)
    | split
    | dsimp only
    | with_reducible refine Keeps.upd ?_ ..

theorem keeps_endRoce {s t : State} (h : Keeps s t) (a0) (a1) : Keeps s (endRoce a0 a1 t) := by
  unfold endRoce
  iterate 40 try any_goals first
    | with_reducible assumption
    | with_reducible refine keeps_endMessage ?_ ..
    | with_reducible refine keeps_undefRead ?_ ..
    | with_reducible refine Keeps.snd (by with_reducible assumption) ?_
    | (intro _)
    | split
    | dsimp only

theorem keeps_failRoce {s t : State} (h : Keeps s t) (a0) (a1) (a2) : Keeps s (failRoce a0 a1 a2 t) := by
  unfold failRoce
  iterate 40 try any_goals first
    | with_reducible assumption
    | with_reducible refine keeps_modTx ?_ ..
    | with_reducible refine keeps_modRoce ?_ ..
    | with_reducible refine keeps_tidyRoce ?_ ..
    | with_reducible refine Keeps.each ?_ _ (fun _ _ _ => ?_)
    | with_reducible refine keeps_endRoce ?_ ..
    | with_reducible refine Keeps.snd (by with_reducible assumption) ?_
    | (intro _)
    | split
    | dsimp only

theorem keeps_roceEligible {s t : State} (h : Keeps s t) (a0) : Keeps s (roceEligible a0 t) := by
  unfold roceEligible
  iterate 40 try any_goals first
    | with_reducible assumption
    | with_reducible refine keeps_waitMono ?_ ..
    | with_reducible refine keeps_packetData ?_ ..
    | with_reducible refine keeps_failRoce ?_ ..
    | with_reducible refine keeps_modTx ?_ ..
    | with_reducible refine keeps_settle ?_ ..
    | with_reducible refine keeps_sendRoce ?_ ..
    | with_reducible refine Keeps.snd (by with_reducible assumption) ?_
    | with_reducible refine Keeps.snd₂ (by with_reducible assumption) ?_
    | with_reducible refine Keeps.snd₃ (by with_reducible assumption) ?_
    | (intro _)
    | split
    | dsimp only

theorem keeps_execPacketEligible {s t u : State} (h : Keeps s t) (a0) (he : execPacketEligible a0 t = .next u) : Keeps s u := by
  unfold execPacketEligible at he
  · injection he with he
    subst he
    iterate 40 try any_goals first
      | with_reducible assumption
      | with_reducible refine keeps_roceEligible ?_ ..
      | with_reducible refine keeps_packetEligible ?_ ..
      | with_reducible refine Keeps.snd (by with_reducible assumption) ?_
      | (intro _)
      | split
      | dsimp only

theorem keeps_answerCe {s t : State} (h : Keeps s t) (a0) (a1) (a2) : Keeps s (answerCe a0 a1 a2 t) := by
  unfold answerCe
  iterate 40 try any_goals first
    | with_reducible assumption
    | with_reducible refine keeps_sendRoce ?_ ..
    | with_reducible refine keeps_modRoce ?_ ..
    | with_reducible refine Keeps.snd (by with_reducible assumption) ?_
    | (intro _)
    | split
    | dsimp only

theorem keeps_roceIn {s t : State} (h : Keeps s t) (a0) (a1) (a2) (a3) (hf0 : ∀ x0 x1 x2 u, Keeps s u → Keeps s (a3 x0 x1 x2 u)) : Keeps s (roceIn a0 a1 a2 a3 t) := by
  unfold roceIn
  iterate 40 try any_goals first
    | with_reducible assumption
    | with_reducible refine hf0 _ _ _ _ ?_
    | with_reducible refine keeps_takeFrame ?_ ..
    | with_reducible refine keeps_roceStray ?_ ..
    | with_reducible refine keeps_tidyRoce ?_ ..
    | with_reducible refine keeps_answerCe ?_ ..
    | with_reducible refine Keeps.snd (by with_reducible assumption) ?_
    | (intro _)
    | split
    | dsimp only

theorem keeps_sendAeth {s t : State} (h : Keeps s t) (a0) (a1) (a2) (a3) : Keeps s (sendAeth a0 a1 a2 a3 t) := by
  unfold sendAeth
  iterate 40 try any_goals first
    | with_reducible assumption
    | with_reducible refine keeps_sendRoce ?_ ..
    | with_reducible refine Keeps.snd (by with_reducible assumption) ?_
    | (intro _)
    | split
    | dsimp only

theorem keeps_passPsn {s t : State} (h : Keeps s t) (a0) (a1) (a2) : Keeps s (passPsn a0 a1 a2 t) := by
  unfold passPsn
  iterate 40 try any_goals first
    | with_reducible assumption
    | with_reducible refine keeps_modRoce ?_ ..
    | with_reducible refine Keeps.snd (by with_reducible assumption) ?_
    | (intro _)
    | split
    | dsimp only

theorem keeps_refuseRoce {s t : State} (h : Keeps s t) (a0) (a1) (a2) (a3) : Keeps s (refuseRoce a0 a1 a2 a3 t) := by
  unfold refuseRoce
  iterate 40 try any_goals first
    | with_reducible assumption
    | with_reducible refine keeps_sendAeth ?_ ..
    | with_reducible refine keeps_passPsn ?_ ..
    | with_reducible refine keeps_modRoce ?_ ..
    | with_reducible refine Keeps.snd (by with_reducible assumption) ?_
    | (intro _)
    | split
    | dsimp only

theorem keeps_notReady {s t : State} (h : Keeps s t) (a0) (a1) : Keeps s (notReady a0 a1 t) := by
  unfold notReady
  iterate 40 try any_goals first
    | with_reducible assumption
    | with_reducible refine keeps_sendAeth ?_ ..
    | with_reducible refine Keeps.snd (by with_reducible assumption) ?_
    | (intro _)
    | split
    | dsimp only

theorem keeps_sequenced {s t : State} (h : Keeps s t) (a0) (a1) (a2) (a3) (a4) (hf0 : ∀  u, Keeps s u → Keeps s (a3  u)) (hf1 : ∀  u, Keeps s u → Keeps s (a4  u)) : Keeps s (sequenced a0 a1 a2 a3 a4 t) := by
  unfold sequenced
  iterate 40 try any_goals first
    | with_reducible assumption
    | with_reducible refine hf1 _ ?_
    | with_reducible refine hf0 _ ?_
    | with_reducible refine keeps_sendAeth ?_ ..
    | with_reducible refine keeps_modRoce ?_ ..
    | with_reducible refine Keeps.snd (by with_reducible assumption) ?_
    | (intro _)
    | split
    | dsimp only

theorem keeps_roceRefusal {s t : State} (h : Keeps s t) (a0) (a1) (a2) (a3) : Keeps s (roceRefusal a0 a1 a2 a3 t) := by
  unfold roceRefusal
  iterate 40 try any_goals first
    | with_reducible assumption
    | with_reducible refine keeps_notReady ?_ ..
    | with_reducible refine keeps_refuseRoce ?_ ..
    | with_reducible refine Keeps.snd (by with_reducible assumption) ?_
    | (intro _)
    | split
    | dsimp only

theorem keeps_roceNotify {s t : State} (h : Keeps s t) (a0) (a1) (a2) (a3) (a4) (a5) (a6) : Keeps s (roceNotify a0 a1 a2 a3 a4 a5 a6 t) := by
  unfold roceNotify
  iterate 40 try any_goals first
    | with_reducible assumption
    | with_reducible refine keeps_writeReceipt ?_ ..
    | with_reducible refine keeps_flushWindow ?_ ..
    | with_reducible refine Keeps.snd (by with_reducible assumption) ?_
    | (intro _)
    | split
    | dsimp only

theorem keeps_roceDone {s t : State} (h : Keeps s t) (a0) (a1) : Keeps s (roceDone a0 a1 t) := by
  unfold roceDone
  iterate 40 try any_goals first
    | with_reducible assumption
    | with_reducible refine keeps_sendAeth ?_ ..
    | with_reducible refine keeps_passPsn ?_ ..
    | with_reducible refine keeps_modRoce ?_ ..
    | with_reducible refine Keeps.snd (by with_reducible assumption) ?_
    | (intro _)
    | split
    | dsimp only

theorem keeps_roceMore {s t : State} (h : Keeps s t) (a0) (a1) : Keeps s (roceMore a0 a1 t) := by
  unfold roceMore
  iterate 40 try any_goals first
    | with_reducible assumption
    | with_reducible refine keeps_passPsn ?_ ..
    | with_reducible refine keeps_sendAeth ?_ ..
    | with_reducible refine Keeps.snd (by with_reducible assumption) ?_
    | (intro _)
    | split
    | dsimp only

theorem keeps_roceAgain {s t : State} (h : Keeps s t) (a0) (a1) (a2) : Keeps s (roceAgain a0 a1 a2 t) := by
  unfold roceAgain
  iterate 40 try any_goals first
    | with_reducible assumption
    | with_reducible refine keeps_sendAeth ?_ ..
    | with_reducible refine Keeps.snd (by with_reducible assumption) ?_
    | (intro _)
    | split
    | dsimp only

theorem keeps_roceSendIn_go {s t : State} (h : Keeps s t) (a0) (a1) (a2) (a3) (a4) (a5) (a6) : Keeps s (roceSendIn.go a0 a1 a2 t a3 a4 a5 a6) := by
  unfold roceSendIn.go
  iterate 40 try any_goals first
    | with_reducible assumption
    | with_reducible refine keeps_refuseRoce ?_ ..
    | with_reducible refine keeps_roceMore ?_ ..
    | with_reducible refine keeps_modRoce ?_ ..
    | with_reducible refine keeps_notReady ?_ ..
    | with_reducible refine keeps_writeSeg ?_ ..
    | with_reducible refine keeps_latchAll ?_ ..
    | with_reducible refine keeps_roceDone ?_ ..
    | with_reducible refine keeps_roceNotify ?_ ..
    | with_reducible refine Keeps.snd (by with_reducible assumption) ?_
    | (intro _)
    | split
    | dsimp only

theorem keeps_roceSendIn {s t : State} (h : Keeps s t) (a0) (a1) (a2) : Keeps s (roceSendIn a0 a1 a2 t) := by
  unfold roceSendIn
  iterate 40 try any_goals first
    | with_reducible assumption
    | with_reducible refine keeps_passPsn ?_ ..
    | with_reducible refine keeps_modRoce ?_ ..
    | with_reducible refine keeps_refuseRoce ?_ ..
    | with_reducible refine keeps_roceSendIn_go ?_ ..
    | with_reducible refine keeps_roceRefusal ?_ ..
    | with_reducible refine Keeps.snd (by with_reducible assumption) ?_
    | (intro _)
    | split
    | dsimp only

theorem keeps_execRoceSendRx {s t u : State} (h : Keeps s t) (a0) (a1) (he : execRoceSendRx a0 a1 t = .next u) : Keeps s u := by
  unfold execRoceSendRx at he
  · injection he with he
    subst he
    iterate 40 try any_goals first
      | with_reducible assumption
      | with_reducible refine keeps_roceIn ?_ _ _ _ _ (fun _ _ _ _ _ => ?_)
      | with_reducible refine keeps_sequenced ?_ _ _ _ _ _ (fun _ _ => ?_) (fun _ _ => ?_)
      | with_reducible refine keeps_roceSendIn ?_ ..
      | with_reducible refine keeps_roceAgain ?_ ..
      | with_reducible refine Keeps.snd (by with_reducible assumption) ?_
      | (intro _)
      | split
      | dsimp only

theorem keeps_roceWriteIn_go {s t : State} (h : Keeps s t) (a0) (a1) (a2) (a3) (a4) (a5) (a6) : Keeps s (roceWriteIn.go a0 a1 t a2 a3 a4 a5 a6) := by
  unfold roceWriteIn.go
  iterate 40 try any_goals first
    | with_reducible assumption
    | with_reducible refine keeps_refuseRoce ?_ ..
    | with_reducible refine keeps_writeSeg ?_ ..
    | with_reducible refine keeps_latchAll ?_ ..
    | with_reducible refine keeps_roceDone ?_ ..
    | with_reducible refine keeps_roceNotify ?_ ..
    | with_reducible refine keeps_roceMore ?_ ..
    | with_reducible refine keeps_modRoce ?_ ..
    | with_reducible refine Keeps.snd (by with_reducible assumption) ?_
    | (intro _)
    | split
    | dsimp only

theorem keeps_roceWriteIn {s t : State} (h : Keeps s t) (a0) (a1) (a2) : Keeps s (roceWriteIn a0 a1 a2 t) := by
  unfold roceWriteIn
  iterate 40 try any_goals first
    | with_reducible assumption
    | with_reducible refine keeps_roceRefusal ?_ ..
    | with_reducible refine keeps_roceWriteIn_go ?_ ..
    | with_reducible refine keeps_refuseRoce ?_ ..
    | with_reducible refine keeps_passPsn ?_ ..
    | with_reducible refine keeps_modRoce ?_ ..
    | with_reducible refine keeps_notReady ?_ ..
    | with_reducible refine Keeps.snd (by with_reducible assumption) ?_
    | (intro _)
    | split
    | dsimp only

theorem keeps_execRoceWriteRx {s t u : State} (h : Keeps s t) (a0) (a1) (he : execRoceWriteRx a0 a1 t = .next u) : Keeps s u := by
  unfold execRoceWriteRx at he
  · injection he with he
    subst he
    iterate 40 try any_goals first
      | with_reducible assumption
      | with_reducible refine keeps_roceIn ?_ _ _ _ _ (fun _ _ _ _ _ => ?_)
      | with_reducible refine keeps_sequenced ?_ _ _ _ _ _ (fun _ _ => ?_) (fun _ _ => ?_)
      | with_reducible refine keeps_roceWriteIn ?_ ..
      | with_reducible refine keeps_roceAgain ?_ ..
      | with_reducible refine Keeps.snd (by with_reducible assumption) ?_
      | (intro _)
      | split
      | dsimp only

theorem keeps_readReply {s t : State} (h : Keeps s t) (a0) (a1) (a2) (a3) (a4) : Keeps s (readReply a0 a1 a2 a3 a4 t) := by
  unfold readReply
  iterate 40 try any_goals first
    | with_reducible assumption
    | with_reducible refine keeps_sendRoce ?_ ..
    | with_reducible refine Keeps.snd (by with_reducible assumption) ?_
    | (intro _)
    | split
    | dsimp only

theorem keeps_roceReadIn {s t : State} (h : Keeps s t) (a0) (a1) (a2) (a3) : Keeps s (roceReadIn a0 a1 a2 a3 t) := by
  unfold roceReadIn
  iterate 40 try any_goals first
    | with_reducible assumption
    | with_reducible refine keeps_roceRefusal ?_ ..
    | with_reducible refine keeps_readSeg ?_ ..
    | with_reducible refine keeps_latchAll ?_ ..
    | with_reducible refine keeps_refuseRoce ?_ ..
    | with_reducible refine Keeps.each ?_ _ (fun _ _ _ => ?_)
    | with_reducible refine keeps_readReply ?_ ..
    | with_reducible refine keeps_passPsn ?_ ..
    | with_reducible refine keeps_modRoce ?_ ..
    | with_reducible refine Keeps.snd (by with_reducible assumption) ?_
    | (intro _)
    | split
    | dsimp only

theorem keeps_execRoceReadRx {s t u : State} (h : Keeps s t) (a0) (a1) (he : execRoceReadRx a0 a1 t = .next u) : Keeps s u := by
  unfold execRoceReadRx at he
  · injection he with he
    subst he
    iterate 40 try any_goals first
      | with_reducible assumption
      | with_reducible refine keeps_roceIn ?_ _ _ _ _ (fun _ _ _ _ _ => ?_)
      | with_reducible refine keeps_sequenced ?_ _ _ _ _ _ (fun _ _ => ?_) (fun _ _ => ?_)
      | with_reducible refine keeps_roceReadIn ?_ ..
      | with_reducible refine Keeps.snd (by with_reducible assumption) ?_
      | (intro _)
      | split
      | dsimp only

theorem keeps_atomicReply {s t : State} (h : Keeps s t) (a0) (a1) (a2) : Keeps s (atomicReply a0 a1 a2 t) := by
  unfold atomicReply
  iterate 40 try any_goals first
    | with_reducible assumption
    | with_reducible refine keeps_sendRoce ?_ ..
    | with_reducible refine Keeps.snd (by with_reducible assumption) ?_
    | (intro _)
    | split
    | dsimp only

theorem keeps_roceAtomicIn {s t : State} (h : Keeps s t) (a0) (a1) (a2) : Keeps s (roceAtomicIn a0 a1 a2 t) := by
  unfold roceAtomicIn
  iterate 40 try any_goals first
    | with_reducible assumption
    | with_reducible refine keeps_refuseRoce ?_ ..
    | with_reducible refine keeps_roceRefusal ?_ ..
    | with_reducible refine keeps_readSeg ?_ ..
    | with_reducible refine keeps_latchAll ?_ ..
    | with_reducible refine keeps_writeSeg ?_ ..
    | with_reducible refine keeps_atomicReply ?_ ..
    | with_reducible refine keeps_passPsn ?_ ..
    | with_reducible refine keeps_modRoce ?_ ..
    | with_reducible refine Keeps.snd (by with_reducible assumption) ?_
    | (intro _)
    | split
    | dsimp only

theorem keeps_roceAtomicAgain {s t : State} (h : Keeps s t) (a0) (a1) (a2) : Keeps s (roceAtomicAgain a0 a1 a2 t) := by
  unfold roceAtomicAgain
  iterate 40 try any_goals first
    | with_reducible assumption
    | with_reducible refine keeps_atomicReply ?_ ..
    | with_reducible refine Keeps.snd (by with_reducible assumption) ?_
    | (intro _)
    | split
    | dsimp only

theorem keeps_execRoceAtomicRx {s t u : State} (h : Keeps s t) (a0) (a1) (he : execRoceAtomicRx a0 a1 t = .next u) : Keeps s u := by
  unfold execRoceAtomicRx at he
  · injection he with he
    subst he
    iterate 40 try any_goals first
      | with_reducible assumption
      | with_reducible refine keeps_roceIn ?_ _ _ _ _ (fun _ _ _ _ _ => ?_)
      | with_reducible refine keeps_sequenced ?_ _ _ _ _ _ (fun _ _ => ?_) (fun _ _ => ?_)
      | with_reducible refine keeps_roceAtomicIn ?_ ..
      | with_reducible refine keeps_roceAtomicAgain ?_ ..
      | with_reducible refine Keeps.snd (by with_reducible assumption) ?_
      | (intro _)
      | split
      | dsimp only

theorem keeps_roceCovered {s t : State} (h : Keeps s t) (a0) (a1) (a2) : Keeps s (roceCovered a0 a1 a2 t) := by
  unfold roceCovered
  iterate 40 try any_goals first
    | with_reducible assumption
    | with_reducible refine keeps_modRoce ?_ ..
    | with_reducible refine keeps_completeMessages ?_ ..
    | with_reducible refine keeps_modTx ?_ ..
    | with_reducible refine Keeps.snd (by with_reducible assumption) ?_
    | with_reducible refine Keeps.foldl_snd ?_ _ _ (fun _ _ _ => ?_)
    | with_reducible refine Keeps.foldl ?_ _ _ (fun _ _ _ => ?_)
    | (intro _)
    | split
    | dsimp only

theorem keeps_roceAckIn {s t : State} (h : Keeps s t) (a0) (a1) (a2) : Keeps s (roceAckIn a0 a1 a2 t) := by
  unfold roceAckIn
  iterate 40 try any_goals first
    | with_reducible assumption
    | with_reducible refine keeps_roceCovered ?_ ..
    | with_reducible refine keeps_completeMessages ?_ ..
    | with_reducible refine keeps_modTx ?_ ..
    | with_reducible refine keeps_modRoce ?_ ..
    | with_reducible refine Keeps.snd (by with_reducible assumption) ?_
    | (intro _)
    | split
    | dsimp only

theorem keeps_execRoceAckRx {s t u : State} (h : Keeps s t) (a0) (a1) (he : execRoceAckRx a0 a1 t = .next u) : Keeps s u := by
  unfold execRoceAckRx at he
  · injection he with he
    subst he
    iterate 40 try any_goals first
      | with_reducible assumption
      | with_reducible refine keeps_roceIn ?_ _ _ _ _ (fun _ _ _ _ _ => ?_)
      | with_reducible refine keeps_roceAckIn ?_ ..
      | with_reducible refine Keeps.snd (by with_reducible assumption) ?_
      | (intro _)
      | split
      | dsimp only

theorem keeps_resendRoce {s t : State} (h : Keeps s t) (a0) : Keeps s (resendRoce a0 t) := by
  unfold resendRoce
  iterate 40 try any_goals first
    | with_reducible assumption
    | with_reducible refine keeps_modTx ?_ ..
    | with_reducible refine Keeps.snd (by with_reducible assumption) ?_
    | (intro _)
    | split
    | dsimp only

theorem keeps_roceNakIn {s t : State} (h : Keeps s t) (a0) (a1) (a2) : Keeps s (roceNakIn a0 a1 a2 t) := by
  unfold roceNakIn
  iterate 40 try any_goals first
    | with_reducible assumption
    | with_reducible refine keeps_roceCovered ?_ ..
    | with_reducible refine keeps_modRoce ?_ ..
    | with_reducible refine keeps_resendRoce ?_ ..
    | with_reducible refine keeps_endRoce ?_ ..
    | with_reducible refine keeps_modTx ?_ ..
    | with_reducible refine Keeps.snd (by with_reducible assumption) ?_
    | (intro _)
    | split
    | dsimp only

theorem keeps_execRoceNakRx {s t u : State} (h : Keeps s t) (a0) (a1) (he : execRoceNakRx a0 a1 t = .next u) : Keeps s u := by
  unfold execRoceNakRx at he
  · injection he with he
    subst he
    iterate 40 try any_goals first
      | with_reducible assumption
      | with_reducible refine keeps_roceIn ?_ _ _ _ _ (fun _ _ _ _ _ => ?_)
      | with_reducible refine keeps_roceNakIn ?_ ..
      | with_reducible refine Keeps.snd (by with_reducible assumption) ?_
      | (intro _)
      | split
      | dsimp only

theorem keeps_roceReadBack {s t : State} (h : Keeps s t) (a0) (a1) (a2) : Keeps s (roceReadBack a0 a1 a2 t) := by
  unfold roceReadBack
  iterate 40 try any_goals first
    | with_reducible assumption
    | with_reducible refine keeps_roceCovered ?_ ..
    | with_reducible refine keeps_modTx ?_ ..
    | with_reducible refine keeps_modRoce ?_ ..
    | with_reducible refine keeps_readRespArrives ?_ ..
    | with_reducible refine Keeps.snd (by with_reducible assumption) ?_
    | (intro _)
    | split
    | dsimp only

theorem keeps_execRoceReadResponseRx {s t u : State} (h : Keeps s t) (a0) (a1) (he : execRoceReadResponseRx a0 a1 t = .next u) : Keeps s u := by
  unfold execRoceReadResponseRx at he
  · injection he with he
    subst he
    iterate 40 try any_goals first
      | with_reducible assumption
      | with_reducible refine keeps_roceIn ?_ _ _ _ _ (fun _ _ _ _ _ => ?_)
      | with_reducible refine keeps_roceReadBack ?_ ..
      | with_reducible refine Keeps.snd (by with_reducible assumption) ?_
      | (intro _)
      | split
      | dsimp only

theorem keeps_execCnpRx {s t u : State} (h : Keeps s t) (a0) (a1) (he : execCnpRx a0 a1 t = .next u) : Keeps s u := by
  unfold execCnpRx at he
  · injection he with he
    subst he
    iterate 40 try any_goals first
      | with_reducible assumption
      | with_reducible refine keeps_roceIn ?_ _ _ _ _ (fun _ _ _ _ _ => ?_)
      | with_reducible refine keeps_modTx ?_ ..
      | with_reducible refine Keeps.snd (by with_reducible assumption) ?_
      | (intro _)
      | split
      | dsimp only

theorem keeps_roceTimeout {s t : State} (h : Keeps s t) (a0) : Keeps s (roceTimeout a0 t) := by
  unfold roceTimeout
  iterate 40 try any_goals first
    | with_reducible assumption
    | with_reducible refine keeps_waitMono ?_ ..
    | with_reducible refine keeps_failRoce ?_ ..
    | with_reducible refine keeps_resendRoce ?_ ..
    | with_reducible refine keeps_modRoce ?_ ..
    | with_reducible refine Keeps.snd (by with_reducible assumption) ?_
    | (intro _)
    | split
    | dsimp only

theorem keeps_execRoceAckTimeout {s t u : State} (h : Keeps s t) (a0) (he : execRoceAckTimeout a0 t = .next u) : Keeps s u := by
  unfold execRoceAckTimeout at he
  · injection he with he
    subst he
    iterate 40 try any_goals first
      | with_reducible assumption
      | with_reducible refine keeps_roceTimeout ?_ ..
      | with_reducible refine Keeps.snd (by with_reducible assumption) ?_
      | (intro _)
      | split
      | dsimp only

theorem keeps_roceRnr {s t : State} (h : Keeps s t) (a0) : Keeps s (roceRnr a0 t) := by
  unfold roceRnr
  iterate 40 try any_goals first
    | with_reducible assumption
    | with_reducible refine keeps_waitMono ?_ ..
    | with_reducible refine keeps_failRoce ?_ ..
    | with_reducible refine keeps_resendRoce ?_ ..
    | with_reducible refine keeps_modRoce ?_ ..
    | with_reducible refine Keeps.snd (by with_reducible assumption) ?_
    | (intro _)
    | split
    | dsimp only

theorem keeps_execRoceRnrRetry {s t u : State} (h : Keeps s t) (a0) (he : execRoceRnrRetry a0 t = .next u) : Keeps s u := by
  unfold execRoceRnrRetry at he
  · injection he with he
    subst he
    iterate 40 try any_goals first
      | with_reducible assumption
      | with_reducible refine keeps_roceRnr ?_ ..
      | with_reducible refine Keeps.snd (by with_reducible assumption) ?_
      | (intro _)
      | split
      | dsimp only

end Sys2Proof.Machine
end

