-- ==== Sys2Proof/Laws/KeepQuoin.lean ====
section
/-! SUPPORT. What the operations of Machine/Quoin.lean keep (Laws/Keeps.lean). -/
namespace Sys2Proof.Machine

theorem keeps_quoinResult {s t : State} (h : Keeps s t) (a0) (a1) : Keeps s (quoinResult a0 a1 t) := by
  unfold quoinResult
  iterate 40 try any_goals first
    | with_reducible assumption
    | with_reducible refine keeps_modQuoin ?_ ..
    | with_reducible refine Keeps.snd (by with_reducible assumption) ?_
    | (intro _)
    | split
    | dsimp only

theorem keeps_applyEpoch {s t : State} (h : Keeps s t) (a0) : Keeps s (applyEpoch a0 t) := by
  unfold applyEpoch
  iterate 40 try any_goals first
    | with_reducible assumption
    | with_reducible refine keeps_modFabric ?_ ?_
    | with_reducible refine Keeps.snd (by with_reducible assumption) ?_
    | (simp; done)
    | (intro _; simp_all; done)
    | (simp_all; done)
    | (intro _)
    | split
    | dsimp only

theorem keeps_rulePress {s t : State} (h : Keeps s t) (a0) : Keeps s (rulePress a0 t) := by
  unfold rulePress
  iterate 40 try any_goals first
    | with_reducible assumption
    | with_reducible refine Keeps.snd (by with_reducible assumption) ?_
    | (intro _)
    | split
    | dsimp only
    | with_reducible refine Keeps.upd ?_ ..

theorem keeps_applyNow {s t : State} (h : Keeps s t) (a0) (a1) : Keeps s (applyNow a0 a1 t) := by
  unfold applyNow
  iterate 40 try any_goals first
    | with_reducible assumption
    | with_reducible refine keeps_rulePress ?_ ..
    | with_reducible refine keeps_modQuoin ?_ ..
    | with_reducible refine keeps_sourceChanged ?_ ..
    | with_reducible refine Keeps.snd (by with_reducible assumption) ?_
    | (intro _)
    | split
    | dsimp only

theorem keeps_applyTick {s t : State} (h : Keeps s t) (a0) : Keeps s (applyTick a0 t) := by
  unfold applyTick
  iterate 40 try any_goals first
    | with_reducible assumption
    | with_reducible refine keeps_modQuoin ?_ ..
    | with_reducible refine keeps_applyEpoch ?_ ..
    | with_reducible refine keeps_letRun ?_ ..
    | with_reducible refine Keeps.snd (by with_reducible assumption) ?_
    | (intro _)
    | split
    | dsimp only

theorem keeps_applyPlates {s t : State} (h : Keeps s t) : Keeps s (applyPlates t) := by
  unfold applyPlates
  iterate 40 try any_goals first
    | with_reducible assumption
    | with_reducible exact id
    | with_reducible refine keeps_modQuoin ?_ ..
    | with_reducible refine Keeps.snd (by with_reducible assumption) ?_
    | (intro _)
    | split
    | dsimp only
    | with_reducible refine Keeps.updAll ?_ ?_ ?_ ?_ ?_ ?_ ?_ ?_ ?_ ?_ ?_ ?_ ?_
    | (simp; done)
    | (simp_all; done)

theorem keeps_refuseQuoin {s t : State} (h : Keeps s t) (a0) (a1) : Keeps s (refuseQuoin a0 a1 t) := by
  unfold refuseQuoin
  iterate 40 try any_goals first
    | with_reducible assumption
    | with_reducible refine keeps_quoinResult ?_ ..
    | with_reducible refine keeps_modBoot ?_ ..
    | with_reducible refine Keeps.snd (by with_reducible assumption) ?_
    | (intro _)
    | split
    | dsimp only

theorem keeps_judgeCommit {s t : State} (h : Keeps s t) (a0) : Keeps s (judgeCommit a0 t) := by
  unfold judgeCommit
  iterate 40 try any_goals first
    | with_reducible assumption
    | with_reducible refine keeps_modQuoin ?_ ..
    | with_reducible refine keeps_refuseQuoin ?_ ..
    | with_reducible refine keeps_quoinResult ?_ ..
    | with_reducible refine keeps_applyNow ?_ ..
    | with_reducible refine keeps_applyTick ?_ ..
    | with_reducible refine keeps_applyPlates ?_ ..
    | with_reducible refine Keeps.snd (by with_reducible assumption) ?_
    | (intro _)
    | split
    | dsimp only

theorem keeps_edgeCommit {s t : State} (h : Keeps s t) : Keeps s (edgeCommit t) := by
  unfold edgeCommit
  iterate 40 try any_goals first
    | with_reducible assumption
    | with_reducible refine keeps_judgeCommit ?_ ..
    | with_reducible refine keeps_refuseQuoin ?_ ..
    | with_reducible refine keeps_modQuoin ?_ ..
    | with_reducible refine Keeps.snd (by with_reducible assumption) ?_
    | (intro _)
    | split
    | dsimp only

theorem keeps_commitTick {s t : State} (h : Keeps s t) (a0) : Keeps s (commitTick a0 t) := by
  unfold commitTick
  iterate 40 try any_goals first
    | with_reducible assumption
    | with_reducible refine keeps_quoinResult ?_ ..
    | with_reducible refine keeps_modQuoin ?_ ..
    | with_reducible refine Keeps.snd (by with_reducible assumption) ?_
    | (intro _)
    | split
    | dsimp only

theorem keeps_execQuoinCommitTick {s t u : State} (h : Keeps s t) (a0) (a1) (he : execQuoinCommitTick a0 a1 t = .next u) : Keeps s u := by
  unfold execQuoinCommitTick at he
  · injection he with he
    subst he
    iterate 40 try any_goals first
      | with_reducible assumption
      | with_reducible refine keeps_commitTick ?_ ..
      | with_reducible refine Keeps.snd (by with_reducible assumption) ?_
      | (intro _)
      | split
      | dsimp only

theorem keeps_commitNow {s t : State} (h : Keeps s t) : Keeps s (commitNow t) := by
  unfold commitNow
  iterate 40 try any_goals first
    | with_reducible assumption
    | with_reducible refine keeps_modQuoin ?_ ..
    | with_reducible refine Keeps.snd (by with_reducible assumption) ?_
    | (intro _)
    | split
    | dsimp only

theorem keeps_execQuoinCommitNow {s t u : State} (h : Keeps s t) (he : execQuoinCommitNow t = .next u) : Keeps s u := by
  unfold execQuoinCommitNow at he
  · injection he with he
    subst he
    iterate 40 try any_goals first
      | with_reducible assumption
      | with_reducible refine keeps_commitNow ?_ ..
      | with_reducible refine Keeps.snd (by with_reducible assumption) ?_
      | (intro _)
      | split
      | dsimp only

theorem keeps_cancelCommit {s t : State} (h : Keeps s t) : Keeps s (cancelCommit t) := by
  unfold cancelCommit
  iterate 40 try any_goals first
    | with_reducible assumption
    | with_reducible refine keeps_quoinResult ?_ ..
    | with_reducible refine keeps_modQuoin ?_ ..
    | with_reducible refine Keeps.snd (by with_reducible assumption) ?_
    | (intro _)
    | split
    | dsimp only

theorem keeps_execQuoinCancel {s t u : State} (h : Keeps s t) (he : execQuoinCancel t = .next u) : Keeps s u := by
  unfold execQuoinCancel at he
  · injection he with he
    subst he
    iterate 40 try any_goals first
      | with_reducible assumption
      | with_reducible refine keeps_cancelCommit ?_ ..
      | with_reducible refine Keeps.snd (by with_reducible assumption) ?_
      | (intro _)
      | split
      | dsimp only

theorem keeps_commitNowApply {s t : State} (h : Keeps s t) : Keeps s (commitNowApply t) := by
  unfold commitNowApply
  iterate 40 try any_goals first
    | with_reducible assumption
    | with_reducible refine keeps_modQuoin ?_ ..
    | with_reducible refine keeps_quoinResult ?_ ..
    | with_reducible refine keeps_applyNow ?_ ..
    | with_reducible refine keeps_judgeCommit ?_ ..
    | with_reducible refine Keeps.snd (by with_reducible assumption) ?_
    | (intro _)
    | split
    | dsimp only

theorem keeps_execCommitNowApply {s t u : State} (h : Keeps s t) (he : execCommitNowApply t = .next u) : Keeps s u := by
  unfold execCommitNowApply at he
  · injection he with he
    subst he
    iterate 40 try any_goals first
      | with_reducible assumption
      | with_reducible refine keeps_commitNowApply ?_ ..
      | with_reducible refine Keeps.snd (by with_reducible assumption) ?_
      | (intro _)
      | split
      | dsimp only

end Sys2Proof.Machine
end

