-- ==== Sys2Proof/Laws/KeepFinish.lean ====
section
/-! SUPPORT. What the operations of Machine/Finish.lean keep (Laws/Keeps.lean). -/
namespace Sys2Proof.Machine

theorem keeps_pieceFinish {s t : State} (h : Keeps s t) (a0) : Keeps s (pieceFinish a0 t) := by
  unfold pieceFinish
  iterate 40 try any_goals first
    | with_reducible assumption
    | with_reducible refine keeps_placeAll ?_ ..
    | with_reducible refine keeps_modQueue ?_ ..
    | with_reducible refine Keeps.snd (by with_reducible assumption) ?_
    | (intro _)
    | split
    | dsimp only

theorem keeps_execPieceFinish {s t u : State} (h : Keeps s t) (a0) (he : execPieceFinish a0 t = .next u) : Keeps s u := by
  unfold execPieceFinish at he
  · injection he with he
    subst he
    iterate 40 try any_goals first
      | with_reducible assumption
      | with_reducible refine keeps_pieceFinish ?_ ..
      | with_reducible refine Keeps.snd (by with_reducible assumption) ?_
      | (intro _)
      | split
      | dsimp only

theorem keeps_recordBell {s t : State} (h : Keeps s t) (a0) (a1) : Keeps s (recordBell a0 a1 t) := by
  unfold recordBell
  iterate 40 try any_goals first
    | with_reducible assumption
    | with_reducible refine keeps_modQueue ?_ ..
    | with_reducible refine Keeps.snd (by with_reducible assumption) ?_
    | (intro _)
    | split
    | dsimp only

theorem keeps_ringBell {s t : State} (h : Keeps s t) (a0) (a1) : Keeps s (ringBell a0 a1 t) := by
  unfold ringBell
  iterate 40 try any_goals first
    | with_reducible assumption
    | with_reducible refine keeps_modQueue ?_ ..
    | with_reducible refine keeps_recordBell ?_ ..
    | with_reducible refine keeps_loadContext ?_ ..
    | with_reducible refine keeps_placeAll ?_ ..
    | with_reducible refine keeps_scan ?_ ..
    | with_reducible refine Keeps.snd (by with_reducible assumption) ?_
    | (intro _)
    | split
    | dsimp only

theorem keeps_execDoorbell {s t u : State} (h : Keeps s t) (a0) (a1) (he : execDoorbell a0 a1 t = .next u) : Keeps s u := by
  unfold execDoorbell at he
  · injection he with he
    subst he
    iterate 40 try any_goals first
      | with_reducible assumption
      | with_reducible refine keeps_ringBell ?_ ..
      | with_reducible refine Keeps.snd (by with_reducible assumption) ?_
      | (intro _)
      | split
      | dsimp only

theorem keeps_endWaitingRun {s t : State} (h : Keeps s t) (a0) (a1) (a2) (a3) (a4) : Keeps s (endWaitingRun a0 a1 a2 a3 a4 t) := by
  unfold endWaitingRun
  iterate 40 try any_goals first
    | with_reducible assumption
    | with_reducible refine keeps_modQueue ?_ ..
    | with_reducible refine keeps_settleDrain ?_ ..
    | with_reducible refine keeps_endUnstarted ?_ ..
    | with_reducible refine Keeps.snd (by with_reducible assumption) ?_
    | (intro _)
    | split
    | dsimp only

theorem keeps_completeDocket {s t : State} (h : Keeps s t) (a0) : Keeps s (completeDocket a0 t) := by
  unfold completeDocket
  iterate 40 try any_goals first
    | with_reducible assumption
    | with_reducible refine keeps_placeAll ?_ ..
    | with_reducible refine keeps_finishRun ?_ ..
    | with_reducible refine keeps_endWaitingRun ?_ ..
    | with_reducible refine Keeps.snd (by with_reducible assumption) ?_
    | (intro _)
    | split
    | dsimp only

theorem keeps_execDocketComplete {s t u : State} (h : Keeps s t) (a0) (he : execDocketComplete a0 t = .next u) : Keeps s u := by
  unfold execDocketComplete at he
  · injection he with he
    subst he
    iterate 40 try any_goals first
      | with_reducible assumption
      | with_reducible refine keeps_completeDocket ?_ ..
      | with_reducible refine Keeps.snd (by with_reducible assumption) ?_
      | (intro _)
      | split
      | dsimp only

theorem keeps_abandon {s t : State} (h : Keeps s t) (a0) (a1) (a2) : Keeps s (abandon a0 a1 a2 t) := by
  unfold abandon
  iterate 40 try any_goals first
    | with_reducible assumption
    | with_reducible refine keeps_tidyRoce ?_ ..
    | with_reducible refine keeps_modDlv ?_ ..
    | with_reducible refine keeps_waitMono ?_ ..
    | with_reducible refine Keeps.snd (by with_reducible assumption) ?_
    | with_reducible refine Keeps.foldl_snd ?_ _ _ (fun _ _ _ => ?_)
    | with_reducible refine Keeps.foldl ?_ _ _ (fun _ _ _ => ?_)
    | (intro _)
    | split
    | dsimp only

theorem keeps_stopDocket {s t : State} (h : Keeps s t) (a0) (a1) (a2) : Keeps s (stopDocket a0 a1 a2 t) := by
  unfold stopDocket
  iterate 40 try any_goals first
    | with_reducible assumption
    | with_reducible refine keeps_abandon ?_ ..
    | with_reducible refine keeps_modFabric ?_ ?_
    | with_reducible refine keeps_modRun ?_ ..
    | with_reducible refine keeps_withdrawPress ?_ ..
    | with_reducible refine Keeps.snd (by with_reducible assumption) ?_
    | (simp; done)
    | (intro _; simp_all; done)
    | (simp_all; done)
    | (intro _)
    | split
    | dsimp only

theorem keeps_abortFetched {s t : State} (h : Keeps s t) (a0) (a1) (a2) : Keeps s (abortFetched a0 a1 a2 t) := by
  unfold abortFetched
  iterate 40 try any_goals first
    | with_reducible assumption
    | with_reducible refine keeps_modQueue ?_ ..
    | with_reducible refine keeps_undefDocket ?_ ..
    | with_reducible refine keeps_settleDrain ?_ ..
    | with_reducible refine keeps_endUnstarted ?_ ..
    | with_reducible refine Keeps.snd (by with_reducible assumption) ?_
    | (intro _)
    | split
    | dsimp only

theorem keeps_abortRun {s t : State} (h : Keeps s t) (a0) (a1) (a2) : Keeps s (abortRun a0 a1 a2 t) := by
  unfold abortRun
  iterate 40 try any_goals first
    | with_reducible assumption
    | with_reducible refine keeps_malformed ?_ ..
    | with_reducible refine keeps_countExhausted ?_ ..
    | with_reducible refine keeps_abortColl ?_ ..
    | with_reducible refine keeps_stopDocket ?_ ..
    | with_reducible refine keeps_undefFar ?_ ..
    | with_reducible refine keeps_undefDocket ?_ ..
    | with_reducible refine keeps_finishRun ?_ ..
    | with_reducible refine keeps_endWaitingRun ?_ ..
    | with_reducible refine Keeps.snd (by with_reducible assumption) ?_
    | (intro _)
    | split
    | dsimp only

theorem keeps_drainAbort {s t : State} (h : Keeps s t) (a0) : Keeps s (drainAbort a0 t) := by
  unfold drainAbort
  iterate 40 try any_goals first
    | with_reducible assumption
    | with_reducible refine keeps_placeAll ?_ ..
    | with_reducible refine keeps_abortFetched ?_ ..
    | with_reducible refine keeps_abortRun ?_ ..
    | with_reducible refine Keeps.snd (by with_reducible assumption) ?_
    | (intro _)
    | split
    | dsimp only

theorem keeps_execDrainAbort {s t u : State} (h : Keeps s t) (a0) (he : execDrainAbort a0 t = .next u) : Keeps s u := by
  unfold execDrainAbort at he
  · injection he with he
    subst he
    iterate 40 try any_goals first
      | with_reducible assumption
      | with_reducible refine keeps_drainAbort ?_ ..
      | with_reducible refine Keeps.snd (by with_reducible assumption) ?_
      | (intro _)
      | split
      | dsimp only

theorem keeps_interruptTurn {s t : State} (h : Keeps s t) (a0) (a1) (a2) (a3) (a4) (a5) : Keeps s (interruptTurn a0 a1 a2 a3 a4 a5 t) := by
  unfold interruptTurn
  iterate 40 try any_goals first
    | with_reducible assumption
    | with_reducible refine keeps_modColl ?_ ..
    | with_reducible refine keeps_toMembers ?_ ..
    | with_reducible refine keeps_finishRun ?_ ..
    | with_reducible refine keeps_undefDocket ?_ ..
    | with_reducible refine Keeps.snd (by with_reducible assumption) ?_
    | (intro _)
    | split
    | dsimp only

theorem keeps_interruptColl {s t : State} (h : Keeps s t) (a0) (a1) (a2) (a3) : Keeps s (interruptColl a0 a1 a2 a3 t) := by
  unfold interruptColl
  iterate 40 try any_goals first
    | with_reducible assumption
    | with_reducible refine keeps_finishRun ?_ ..
    | with_reducible refine keeps_ownDataError ?_ ..
    | with_reducible refine keeps_interruptTurn ?_ ..
    | with_reducible refine Keeps.snd (by with_reducible assumption) ?_
    | (intro _)
    | split
    | dsimp only

theorem keeps_undefHost {s t : State} (h : Keeps s t) (a0) (a1) : Keeps s (undefHost a0 a1 t) := by
  unfold undefHost
  iterate 40 try any_goals first
    | with_reducible assumption
    | with_reducible refine Keeps.each ?_ _ (fun _ _ _ => ?_)
    | with_reducible refine keeps_undefSeg ?_ ..
    | with_reducible refine Keeps.snd (by with_reducible assumption) ?_
    | (intro _)
    | split
    | dsimp only

theorem keeps_interruptDocket {s t : State} (h : Keeps s t) (a0) (a1) (a2) (a3) : Keeps s (interruptDocket a0 a1 a2 a3 t) := by
  unfold interruptDocket
  iterate 40 try any_goals first
    | with_reducible assumption
    | with_reducible refine keeps_interruptColl ?_ ..
    | with_reducible refine keeps_stopDocket ?_ ..
    | with_reducible refine keeps_modQueue ?_ ..
    | with_reducible refine keeps_finishRun ?_ ..
    | with_reducible refine keeps_undefDocket ?_ ..
    | with_reducible refine keeps_modRun ?_ ..
    | with_reducible refine keeps_undefHost ?_ ..
    | with_reducible refine Keeps.snd (by with_reducible assumption) ?_
    | (intro _)
    | split
    | dsimp only

theorem keeps_heldEnd {s t : State} (h : Keeps s t) (a0) (a1) : Keeps s (heldEnd a0 a1 t) := by
  unfold heldEnd
  iterate 40 try any_goals first
    | with_reducible assumption
    | with_reducible refine keeps_interruptDocket ?_ ..
    | with_reducible refine keeps_completeDocket ?_ ..
    | with_reducible refine Keeps.snd (by with_reducible assumption) ?_
    | (intro _)
    | split
    | dsimp only

theorem keeps_execHeldDocketEnd {s t u : State} (h : Keeps s t) (a0) (a1) (he : execHeldDocketEnd a0 a1 t = .next u) : Keeps s u := by
  unfold execHeldDocketEnd at he
  · injection he with he
    subst he
    iterate 40 try any_goals first
      | with_reducible assumption
      | with_reducible refine keeps_heldEnd ?_ ..
      | with_reducible refine Keeps.snd (by with_reducible assumption) ?_
      | (intro _)
      | split
      | dsimp only

end Sys2Proof.Machine
end

