-- ==== Sys2Proof/Laws/KeepInst.lean ====
section
/-! SUPPORT. What the operations of Machine/Inst.lean keep (Laws/Keeps.lean). -/
namespace Sys2Proof.Machine

theorem keeps_dropUnstarted {s t : State} (h : Keeps s t) (a0) (a1) (a2) (a3) : Keeps s (dropUnstarted a0 a1 a2 a3 t) := by
  unfold dropUnstarted
  iterate 40 try any_goals first
    | with_reducible assumption
    | with_reducible refine Keeps.each ?_ _ (fun _ _ _ => ?_)
    | with_reducible refine keeps_undefDocket ?_ ..
    | with_reducible refine keeps_withdrawPress ?_ ..
    | with_reducible refine keeps_modQueue ?_ ..
    | with_reducible refine Keeps.snd (by with_reducible assumption) ?_
    | (intro _)
    | split
    | dsimp only

theorem keeps_stopQueue {s t : State} (h : Keeps s t) (a0) (a1) (a2) (a3) : Keeps s (stopQueue a0 a1 a2 a3 t) := by
  unfold stopQueue
  iterate 40 try any_goals first
    | with_reducible assumption
    | with_reducible refine keeps_modQueue ?_ ..
    | with_reducible refine keeps_dropUnstarted ?_ ..
    | with_reducible refine Keeps.snd (by with_reducible assumption) ?_
    | (intro _)
    | split
    | dsimp only

theorem keeps_endOutstanding {s t : State} (h : Keeps s t) (a0) (a1) : Keeps s (endOutstanding a0 a1 t) := by
  unfold endOutstanding
  iterate 40 try any_goals first
    | with_reducible assumption
    | with_reducible refine Keeps.each ?_ _ (fun _ _ _ => ?_)
    | with_reducible refine keeps_drainAbort ?_ ..
    | with_reducible refine keeps_completeDocket ?_ ..
    | with_reducible refine Keeps.snd (by with_reducible assumption) ?_
    | (intro _)
    | split
    | dsimp only

theorem keeps_stopDraining {s t : State} (h : Keeps s t) (a0) (a1) : Keeps s (stopDraining a0 a1 t) := by
  unfold stopDraining
  iterate 40 try any_goals first
    | with_reducible assumption
    | with_reducible refine keeps_modQueue ?_ ..
    | with_reducible refine keeps_endOutstanding ?_ ..
    | with_reducible refine Keeps.snd (by with_reducible assumption) ?_
    | (intro _)
    | split
    | dsimp only

theorem keeps_resetQueue {s t : State} (h : Keeps s t) (a0) (a1) (a2) : Keeps s (resetQueue a0 a1 a2 t) := by
  unfold resetQueue
  iterate 40 try any_goals first
    | with_reducible assumption
    | with_reducible refine keeps_modQueue ?_ ..
    | with_reducible refine keeps_settleDrain ?_ ..
    | with_reducible refine keeps_stopQueue ?_ ..
    | with_reducible refine keeps_stopDraining ?_ ..
    | with_reducible refine Keeps.snd (by with_reducible assumption) ?_
    | (intro _)
    | split
    | dsimp only

theorem keeps_resetInst {s t : State} (h : Keeps s t) (a0) (a1) : Keeps s (resetInst a0 a1 t) := by
  unfold resetInst
  iterate 40 try any_goals first
    | with_reducible assumption
    | with_reducible refine keeps_modInst ?_ ..
    | with_reducible refine keeps_placeAll ?_ ..
    | with_reducible refine keeps_resetColls ?_ ..
    | with_reducible refine Keeps.each ?_ _ (fun _ _ _ => ?_)
    | with_reducible refine keeps_resetQueue ?_ ..
    | with_reducible refine Keeps.snd (by with_reducible assumption) ?_
    | (intro _)
    | split
    | dsimp only

theorem keeps_clearSegs {s t : State} (h : Keeps s t) (a0) : Keeps s (clearSegs a0 t) := by
  unfold clearSegs
  iterate 40 try any_goals first
    | with_reducible assumption
    | with_reducible refine Keeps.each ?_ _ (fun _ _ _ => ?_)
    | with_reducible refine keeps_freeStorage ?_ ..
    | with_reducible refine keeps_modInst ?_ ..
    | with_reducible refine keeps_latch ?_ ..
    | with_reducible refine Keeps.snd (by with_reducible assumption) ?_
    | (intro _)
    | split
    | dsimp only
    | with_reducible refine Keeps.upd ?_ ..

theorem keeps_stwReply {s t : State} (h : Keeps s t) (a0) (a1) (a2) (a3) : Keeps s (stwReply a0 a1 a2 a3 t) := by
  unfold stwReply
  iterate 40 try any_goals first
    | with_reducible assumption
    | with_reducible refine keeps_writeHost ?_ ..
    | with_reducible refine keeps_modSteward ?_ ..
    | with_reducible refine keeps_emit ?_ ..
    | with_reducible refine Keeps.snd (by with_reducible assumption) ?_
    | (intro _)
    | split
    | dsimp only

theorem keeps_createInst {s t : State} (h : Keeps s t) (a0) (a1) (a2) : Keeps s (createInst a0 a1 a2 t) := by
  unfold createInst
  iterate 40 try any_goals first
    | with_reducible assumption
    | with_reducible refine keeps_stwReply ?_ ..
    | with_reducible refine keeps_modInst ?_ ..
    | with_reducible refine Keeps.snd (by with_reducible assumption) ?_
    | (intro _)
    | split
    | dsimp only

theorem keeps_resetByFrame {s t : State} (h : Keeps s t) (a0) (a1) (a2) : Keeps s (resetByFrame a0 a1 a2 t) := by
  unfold resetByFrame
  iterate 40 try any_goals first
    | with_reducible assumption
    | with_reducible refine keeps_stwReply ?_ ..
    | with_reducible refine keeps_resetInst ?_ ..
    | with_reducible refine keeps_modSteward ?_ ..
    | with_reducible refine keeps_modInst ?_ ..
    | with_reducible refine Keeps.snd (by with_reducible assumption) ?_
    | (intro _)
    | split
    | dsimp only

theorem keeps_queryInst {s t : State} (h : Keeps s t) (a0) (a1) : Keeps s (queryInst a0 a1 t) := by
  unfold queryInst
  iterate 40 try any_goals first
    | with_reducible assumption
    | with_reducible refine keeps_stwReply ?_ ..
    | with_reducible refine Keeps.snd (by with_reducible assumption) ?_
    | (intro _)
    | split
    | dsimp only

theorem keeps_setCeilings {s t : State} (h : Keeps s t) (a0) (a1) : Keeps s (setCeilings a0 a1 t) := by
  unfold setCeilings
  iterate 40 try any_goals first
    | with_reducible assumption
    | with_reducible refine keeps_modInst ?_ ..
    | with_reducible refine keeps_placeAll ?_ ..
    | with_reducible refine Keeps.snd (by with_reducible assumption) ?_
    | (intro _)
    | split
    | dsimp only

theorem keeps_setInst {s t : State} (h : Keeps s t) (a0) (a1) (a2) : Keeps s (setInst a0 a1 a2 t) := by
  unfold setInst
  iterate 40 try any_goals first
    | with_reducible assumption
    | with_reducible refine keeps_stwReply ?_ ..
    | with_reducible refine keeps_setCeilings ?_ ..
    | with_reducible refine keeps_modInst ?_ ..
    | with_reducible refine Keeps.snd (by with_reducible assumption) ?_
    | (intro _)
    | split
    | dsimp only

theorem keeps_listSet {s t : State} (h : Keeps s t) (a0) (a1) : Keeps s (listSet a0 a1 t) := by
  unfold listSet
  iterate 40 try any_goals first
    | with_reducible assumption
    | with_reducible refine keeps_stwReply ?_ ..
    | with_reducible refine Keeps.snd (by with_reducible assumption) ?_
    | (intro _)
    | split
    | dsimp only

theorem keeps_untouch {s t : State} (h : Keeps s t) (a0) : Keeps s (untouch a0 t) := by
  unfold untouch
  iterate 40 try any_goals first
    | with_reducible assumption
    | with_reducible refine keeps_modTier ?_ _ ?_
    | with_reducible refine wf_reclaimTier _ ?_
    | with_reducible refine Keeps.snd (by with_reducible assumption) ?_
    | with_reducible refine wf_wrBytes _ _ ?_
    | with_reducible refine wf_clearBytes _ _ ?_
    | with_reducible refine wf_touch _ ?_
    | with_reducible refine wf_touches _ ?_
    | rw [setBad_mem]
    | (intro _; simp_all; done)
    | (intro _)
    | split
    | dsimp only

theorem keeps_claimSet {s t : State} (h : Keeps s t) (a0) (a1) : Keeps s (claimSet a0 a1 t) := by
  unfold claimSet
  iterate 40 try any_goals first
    | with_reducible assumption
    | with_reducible refine keeps_stwReply ?_ ..
    | with_reducible refine keeps_modSteward ?_ ..
    | with_reducible refine Keeps.each ?_ _ (fun _ _ _ => ?_)
    | with_reducible refine keeps_untouch ?_ ..
    | with_reducible refine keeps_modInst ?_ ..
    | with_reducible refine Keeps.snd (by with_reducible assumption) ?_
    | (intro _)
    | split
    | dsimp only

theorem keeps_discardSet {s t : State} (h : Keeps s t) (a0) (a1) : Keeps s (discardSet a0 a1 t) := by
  unfold discardSet
  iterate 40 try any_goals first
    | with_reducible assumption
    | with_reducible refine keeps_stwReply ?_ ..
    | with_reducible refine keeps_modSteward ?_ ..
    | with_reducible refine keeps_reclaim ?_ ..
    | with_reducible refine Keeps.each ?_ _ (fun _ _ _ => ?_)
    | with_reducible refine keeps_freeStorage ?_ ..
    | with_reducible refine Keeps.snd (by with_reducible assumption) ?_
    | (intro _)
    | split
    | dsimp only

theorem keeps_stwRun {s t : State} (h : Keeps s t) (a0) (a1) : Keeps s (stwRun a0 a1 t) := by
  unfold stwRun
  iterate 40 try any_goals first
    | with_reducible assumption
    | with_reducible refine keeps_stwReply ?_ ..
    | with_reducible refine keeps_createInst ?_ ..
    | with_reducible refine keeps_resetByFrame ?_ ..
    | with_reducible refine keeps_queryInst ?_ ..
    | with_reducible refine keeps_setInst ?_ ..
    | with_reducible refine keeps_listSet ?_ ..
    | with_reducible refine keeps_claimSet ?_ ..
    | with_reducible refine keeps_discardSet ?_ ..
    | with_reducible refine Keeps.snd (by with_reducible assumption) ?_
    | (intro _)
    | split
    | dsimp only

theorem keeps_readFrame {s t : State} (h : Keeps s t) : Keeps s (readFrame t).2 := by
  unfold readFrame
  iterate 40 try any_goals first
    | with_reducible assumption
    | with_reducible refine keeps_readHost ?_ ..
    | with_reducible refine Keeps.snd (by with_reducible assumption) ?_
    | (intro _)
    | split
    | dsimp only

theorem keeps_stwGo {s t : State} (h : Keeps s t) : Keeps s (stwGo t) := by
  unfold stwGo
  iterate 40 try any_goals first
    | with_reducible assumption
    | with_reducible refine keeps_readFrame ?_ ..
    | with_reducible refine keeps_stwRun ?_ ..
    | with_reducible refine keeps_freeWord ?_ ..
    | with_reducible refine keeps_modSteward ?_ ..
    | with_reducible refine Keeps.snd (by with_reducible assumption) ?_
    | (intro _)
    | split
    | dsimp only

theorem keeps_mgmtDiscard {s t : State} (h : Keeps s t) : Keeps s (mgmtDiscard t) := by
  unfold mgmtDiscard
  iterate 40 try any_goals first
    | with_reducible assumption
    | with_reducible refine keeps_modEther ?_ ..
    | with_reducible refine Keeps.snd (by with_reducible assumption) ?_
    | (intro _)
    | split
    | dsimp only

theorem keeps_stwCommand {s t : State} (h : Keeps s t) (a0) (a1) : Keeps s (stwCommand a0 a1 t) := by
  unfold stwCommand
  iterate 40 try any_goals first
    | with_reducible assumption
    | with_reducible refine keeps_readFrame ?_ ..
    | with_reducible refine keeps_stwGo ?_ ..
    | with_reducible refine keeps_stwRun ?_ ..
    | with_reducible refine keeps_mgmtDiscard ?_ ..
    | with_reducible refine Keeps.snd (by with_reducible assumption) ?_
    | (intro _)
    | split
    | dsimp only

theorem keeps_execInstCreate {s t u : State} (h : Keeps s t) (a0) (he : execInstCreate a0 t = .next u) : Keeps s u := by
  unfold execInstCreate at he
  · injection he with he
    subst he
    iterate 40 try any_goals first
      | with_reducible assumption
      | with_reducible refine keeps_stwCommand ?_ ..
      | with_reducible refine Keeps.snd (by with_reducible assumption) ?_
      | (intro _)
      | split
      | dsimp only

theorem keeps_execInstDestroy {s t u : State} (h : Keeps s t) (a0) (he : execInstDestroy a0 t = .next u) : Keeps s u := by
  unfold execInstDestroy at he
  · injection he with he
    subst he
    iterate 40 try any_goals first
      | with_reducible assumption
      | with_reducible refine keeps_stwCommand ?_ ..
      | with_reducible refine Keeps.snd (by with_reducible assumption) ?_
      | (intro _)
      | split
      | dsimp only

theorem keeps_execInstReset {s t u : State} (h : Keeps s t) (a0) (he : execInstReset a0 t = .next u) : Keeps s u := by
  unfold execInstReset at he
  · injection he with he
    subst he
    iterate 40 try any_goals first
      | with_reducible assumption
      | with_reducible refine keeps_stwCommand ?_ ..
      | with_reducible refine Keeps.snd (by with_reducible assumption) ?_
      | (intro _)
      | split
      | dsimp only

theorem keeps_execInstQuery {s t u : State} (h : Keeps s t) (a0) (he : execInstQuery a0 t = .next u) : Keeps s u := by
  unfold execInstQuery at he
  · injection he with he
    subst he
    iterate 40 try any_goals first
      | with_reducible assumption
      | with_reducible refine keeps_stwCommand ?_ ..
      | with_reducible refine Keeps.snd (by with_reducible assumption) ?_
      | (intro _)
      | split
      | dsimp only

theorem keeps_execInstSet {s t u : State} (h : Keeps s t) (a0) (he : execInstSet a0 t = .next u) : Keeps s u := by
  unfold execInstSet at he
  · injection he with he
    subst he
    iterate 40 try any_goals first
      | with_reducible assumption
      | with_reducible refine keeps_stwCommand ?_ ..
      | with_reducible refine Keeps.snd (by with_reducible assumption) ?_
      | (intro _)
      | split
      | dsimp only

theorem keeps_execKeepList {s t u : State} (h : Keeps s t) (a0) (he : execKeepList a0 t = .next u) : Keeps s u := by
  unfold execKeepList at he
  · injection he with he
    subst he
    iterate 40 try any_goals first
      | with_reducible assumption
      | with_reducible refine keeps_stwCommand ?_ ..
      | with_reducible refine Keeps.snd (by with_reducible assumption) ?_
      | (intro _)
      | split
      | dsimp only

theorem keeps_execKeepClaim {s t u : State} (h : Keeps s t) (a0) (he : execKeepClaim a0 t = .next u) : Keeps s u := by
  unfold execKeepClaim at he
  · injection he with he
    subst he
    iterate 40 try any_goals first
      | with_reducible assumption
      | with_reducible refine keeps_stwCommand ?_ ..
      | with_reducible refine Keeps.snd (by with_reducible assumption) ?_
      | (intro _)
      | split
      | dsimp only

theorem keeps_execKeepDiscard {s t u : State} (h : Keeps s t) (a0) (he : execKeepDiscard a0 t = .next u) : Keeps s u := by
  unfold execKeepDiscard at he
  · injection he with he
    subst he
    iterate 40 try any_goals first
      | with_reducible assumption
      | with_reducible refine keeps_stwCommand ?_ ..
      | with_reducible refine Keeps.snd (by with_reducible assumption) ?_
      | (intro _)
      | split
      | dsimp only

theorem keeps_clearQueue {s t : State} (h : Keeps s t) (a0) (a1) : Keeps s (clearQueue a0 a1 t) := by
  unfold clearQueue
  iterate 40 try any_goals first
    | with_reducible assumption
    | with_reducible refine keeps_endOutstanding ?_ ..
    | with_reducible refine Keeps.each ?_ _ (fun _ _ _ => ?_)
    | with_reducible refine keeps_undefDocket ?_ ..
    | with_reducible refine keeps_stopDocket ?_ ..
    | with_reducible refine keeps_dropUnstarted ?_ ..
    | with_reducible refine Keeps.snd (by with_reducible assumption) ?_
    | (intro _)
    | split
    | dsimp only

theorem keeps_dropInbound {s t : State} (h : Keeps s t) (a0) : Keeps s (dropInbound a0 t) := by
  unfold dropInbound
  iterate 40 try any_goals first
    | with_reducible assumption
    | with_reducible refine keeps_modDlv ?_ ..
    | with_reducible refine keeps_modEther ?_ ..
    | with_reducible refine Keeps.snd (by with_reducible assumption) ?_
    | (intro _)
    | split
    | dsimp only

theorem keeps_returnShare {s t : State} (h : Keeps s t) (a0) : Keeps s (returnShare a0 t) := by
  unfold returnShare
  iterate 40 try any_goals first
    | with_reducible assumption
    | with_reducible refine keeps_modInst ?_ ..
    | with_reducible refine Keeps.snd (by with_reducible assumption) ?_
    | (intro _)
    | split
    | dsimp only

theorem keeps_answerReset {s t : State} (h : Keeps s t) (a0) (a1) : Keeps s (answerReset a0 a1 t) := by
  unfold answerReset
  iterate 40 try any_goals first
    | with_reducible assumption
    | with_reducible refine keeps_stwReply ?_ ..
    | with_reducible refine Keeps.snd (by with_reducible assumption) ?_
    | (intro _)
    | split
    | dsimp only

theorem keeps_resetClearing {s t : State} (h : Keeps s t) (a0) : Keeps s (resetClearing a0 t) := by
  unfold resetClearing
  iterate 40 try any_goals first
    | with_reducible assumption
    | with_reducible exact id
    | with_reducible refine keeps_meter ?_ ..
    | with_reducible refine Keeps.each ?_ _ (fun _ _ _ => ?_)
    | with_reducible refine keeps_clearQueue ?_ ..
    | with_reducible refine keeps_modPower ?_ ?_
    | with_reducible refine keeps_clearSegs ?_ ..
    | with_reducible refine keeps_dropInbound ?_ ..
    | with_reducible refine keeps_modInst ?_ ..
    | with_reducible refine keeps_answerReset ?_ ..
    | with_reducible refine keeps_reclaim ?_ ..
    | with_reducible refine keeps_returnShare ?_ ..
    | with_reducible refine Keeps.snd (by with_reducible assumption) ?_
    | (simp; done)
    | (intro _; simp_all; done)
    | (simp_all; done)
    | (intro _)
    | split
    | dsimp only
    | with_reducible refine Keeps.updAll ?_ ?_ ?_ ?_ ?_ ?_ ?_ ?_ ?_ ?_ ?_ ?_ ?_
    | (simp; done)
    | (simp_all; done)

theorem keeps_execResetClearing {s t u : State} (h : Keeps s t) (a0) (he : execResetClearing a0 t = .next u) : Keeps s u := by
  unfold execResetClearing at he
  · injection he with he
    subst he
    iterate 40 try any_goals first
      | with_reducible assumption
      | with_reducible refine keeps_resetClearing ?_ ..
      | with_reducible refine Keeps.snd (by with_reducible assumption) ?_
      | (intro _)
      | split
      | dsimp only

end Sys2Proof.Machine
end

