-- ==== Sys2Proof/Laws/KeepTick.lean ====
section
/-! SUPPORT. What the operations of Machine/Tick.lean keep (Laws/Keeps.lean). -/
namespace Sys2Proof.Machine

theorem keeps_retick {s t : State} (h : Keeps s t) (a0) : Keeps s (retick a0 t) := by
  unfold retick
  iterate 40 try any_goals first
    | with_reducible assumption
    | with_reducible refine Keeps.snd (by with_reducible assumption) ?_
    | (intro _)
    | split
    | dsimp only
    | with_reducible refine Keeps.upd ?_ ..

theorem keeps_advanceTick {s t : State} (h : Keeps s t) (a0) (a1) : Keeps s (advanceTick a0 a1 t) := by
  unfold advanceTick
  iterate 40 try any_goals first
    | with_reducible assumption
    | with_reducible refine keeps_retick ?_ ..
    | with_reducible refine keeps_modTime ?_ ..
    | with_reducible refine keeps_emit ?_ ..
    | with_reducible refine Keeps.snd (by with_reducible assumption) ?_
    | (intro _)
    | split
    | dsimp only
    | with_reducible refine Keeps.upd ?_ ..

theorem keeps_returnShares {s t : State} (h : Keeps s t) : Keeps s (returnShares t) := by
  unfold returnShares
  iterate 40 try any_goals first
    | with_reducible assumption
    | with_reducible refine Keeps.each ?_ _ (fun _ _ _ => ?_)
    | with_reducible refine keeps_returnShare ?_ ..
    | with_reducible refine Keeps.snd (by with_reducible assumption) ?_
    | (intro _)
    | split
    | dsimp only

theorem keeps_restartCounts {s t : State} (h : Keeps s t) : Keeps s (restartCounts t) := by
  unfold restartCounts
  iterate 40 try any_goals first
    | with_reducible assumption
    | with_reducible refine keeps_modPower ?_ ?_
    | with_reducible refine Keeps.snd (by with_reducible assumption) ?_
    | (simp; done)
    | (intro _; simp_all; done)
    | (simp_all; done)
    | (intro _)
    | split
    | dsimp only

theorem keeps_closeWindows {s t : State} (h : Keeps s t) : Keeps s (closeWindows t) := by
  unfold closeWindows
  iterate 40 try any_goals first
    | with_reducible assumption
    | with_reducible refine keeps_modFabric ?_ ?_
    | with_reducible refine Keeps.snd (by with_reducible assumption) ?_
    | (simp; done)
    | (intro _; simp_all; done)
    | (simp_all; done)
    | (intro _)
    | split
    | dsimp only

theorem keeps_beginProgram {s t : State} (h : Keeps s t) : Keeps s (beginProgram t) := by
  unfold beginProgram
  iterate 40 try any_goals first
    | with_reducible assumption
    | with_reducible refine Keeps.each ?_ _ (fun _ _ _ => ?_)
    | with_reducible refine keeps_loadContext ?_ ..
    | with_reducible refine Keeps.snd (by with_reducible assumption) ?_
    | (intro _)
    | split
    | dsimp only
    | with_reducible refine Keeps.upd ?_ ..

theorem keeps_dropAsked {s t : State} (h : Keeps s t) (a0) : Keeps s (dropAsked a0 t) := by
  unfold dropAsked
  iterate 40 try any_goals first
    | with_reducible assumption
    | with_reducible refine keeps_modQueue ?_ ..
    | with_reducible refine keeps_withdrawPress ?_ ..
    | with_reducible refine Keeps.snd (by with_reducible assumption) ?_
    | (intro _)
    | split
    | dsimp only

theorem keeps_stopGenerator {s t : State} (h : Keeps s t) : Keeps s (stopGenerator t) := by
  unfold stopGenerator
  iterate 40 try any_goals first
    | with_reducible assumption
    | with_reducible refine keeps_modTime ?_ ..
    | with_reducible refine Keeps.each ?_ _ (fun _ _ _ => ?_)
    | with_reducible refine keeps_dropAsked ?_ ..
    | with_reducible refine Keeps.snd (by with_reducible assumption) ?_
    | (intro _)
    | split
    | dsimp only
    | with_reducible refine Keeps.upd ?_ ..

theorem keeps_tickEdge {s t : State} (h : Keeps s t) : Keeps s (tickEdge t) := by
  unfold tickEdge
  iterate 40 try any_goals first
    | with_reducible assumption
    | with_reducible refine keeps_advanceTick ?_ ..
    | with_reducible refine keeps_waitPtp ?_ ..
    | with_reducible refine keeps_edgeCommit ?_ ..
    | with_reducible refine keeps_showPages ?_ ..
    | with_reducible refine keeps_returnShares ?_ ..
    | with_reducible refine keeps_returnPorts ?_ ..
    | with_reducible refine keeps_completeTakeovers ?_ ..
    | with_reducible refine keeps_closeWindows ?_ ..
    | with_reducible refine keeps_restartCounts ?_ ..
    | with_reducible refine keeps_placeAll ?_ ..
    | with_reducible refine keeps_endRecoveries ?_ ..
    | with_reducible refine keeps_beginProgram ?_ ..
    | with_reducible refine keeps_stopGenerator ?_ ..
    | with_reducible refine Keeps.snd (by with_reducible assumption) ?_
    | (intro _)
    | split
    | dsimp only
    | with_reducible refine Keeps.upd ?_ ..

theorem keeps_execTickEdge {s t u : State} (h : Keeps s t) (he : execTickEdge t = .next u) : Keeps s u := by
  unfold execTickEdge at he
  · injection he with he
    subst he
    iterate 40 try any_goals first
      | with_reducible assumption
      | with_reducible refine keeps_tickEdge ?_ ..
      | with_reducible refine Keeps.snd (by with_reducible assumption) ?_
      | (intro _)
      | split
      | dsimp only

end Sys2Proof.Machine
end

