-- ==== Sys2Proof/Laws/KeepHatch.lean ====
section
/-! SUPPORT. What the operations of Machine/Hatch.lean keep (Laws/Keeps.lean). -/
namespace Sys2Proof.Machine

theorem keeps_flushPending {s t : State} (h : Keeps s t) (a0) : Keeps s (flushPending a0 t) := by
  unfold flushPending
  iterate 40 try any_goals first
    | with_reducible assumption
    | with_reducible refine Keeps.each ?_ _ (fun _ _ _ => ?_)
    | with_reducible refine keeps_sendMsix ?_ ..
    | with_reducible refine keeps_modFn ?_ ..
    | with_reducible refine Keeps.snd (by with_reducible assumption) ?_
    | (intro _)
    | split
    | dsimp only

theorem keeps_linkTrained {s t : State} (h : Keeps s t) (a0) (a1) (a2) : Keeps s (linkTrained a0 a1 a2 t) := by
  unfold linkTrained
  iterate 40 try any_goals first
    | with_reducible assumption
    | with_reducible refine keeps_modHatch ?_ ..
    | with_reducible refine keeps_latch ?_ ..
    | with_reducible refine Keeps.each ?_ _ (fun _ _ _ => ?_)
    | with_reducible refine keeps_flushPending ?_ ..
    | with_reducible refine Keeps.snd (by with_reducible assumption) ?_
    | (intro _)
    | split
    | dsimp only

theorem keeps_awaitClock {s t : State} (h : Keeps s t) (a0) : Keeps s (awaitClock a0 t) := by
  unfold awaitClock
  iterate 40 try any_goals first
    | with_reducible assumption
    | with_reducible refine keeps_waitMono ?_ ..
    | with_reducible refine Keeps.snd (by with_reducible assumption) ?_
    | (intro _)
    | split
    | dsimp only

theorem keeps_hatchLinkUp {s t : State} (h : Keeps s t) (a0) (a1) (a2) : Keeps s (hatchLinkUp a0 a1 a2 t) := by
  unfold hatchLinkUp
  iterate 40 try any_goals first
    | with_reducible assumption
    | with_reducible refine keeps_awaitClock ?_ ..
    | with_reducible refine keeps_modHatch ?_ ..
    | with_reducible refine keeps_linkTrained ?_ ..
    | with_reducible refine keeps_waitMono ?_ ..
    | with_reducible refine Keeps.snd (by with_reducible assumption) ?_
    | (intro _)
    | split
    | dsimp only
    | with_reducible refine Keeps.upd ?_ ..

theorem keeps_execHatchLinkUp {s t u : State} (h : Keeps s t) (a0) (a1) (a2) (he : execHatchLinkUp a0 a1 a2 t = .next u) : Keeps s u := by
  unfold execHatchLinkUp at he
  · injection he with he
    subst he
    iterate 40 try any_goals first
      | with_reducible assumption
      | with_reducible refine keeps_placeAll ?_ ..
      | with_reducible refine keeps_hatchLinkUp ?_ ..
      | with_reducible refine Keeps.snd (by with_reducible assumption) ?_
      | (intro _)
      | split
      | dsimp only

theorem keeps_unwake {s t : State} (h : Keeps s t) (a0) : Keeps s (unwake a0 t) := by
  unfold unwake
  iterate 40 try any_goals first
    | with_reducible assumption
    | with_reducible refine keeps_modFn ?_ ..
    | with_reducible refine Keeps.snd (by with_reducible assumption) ?_
    | (intro _)
    | split
    | dsimp only

theorem keeps_linkDown {s t : State} (h : Keeps s t) (a0) : Keeps s (linkDown a0 t) := by
  unfold linkDown
  iterate 40 try any_goals first
    | with_reducible assumption
    | with_reducible refine keeps_modHatch ?_ ..
    | with_reducible refine keeps_placeAll ?_ ..
    | with_reducible refine keeps_latch ?_ ..
    | with_reducible refine Keeps.each ?_ _ (fun _ _ _ => ?_)
    | with_reducible refine keeps_unwake ?_ ..
    | with_reducible refine Keeps.snd (by with_reducible assumption) ?_
    | (intro _)
    | split
    | dsimp only
    | with_reducible refine Keeps.upd ?_ ..

theorem keeps_execHatchLinkDown {s t u : State} (h : Keeps s t) (a0) (he : execHatchLinkDown a0 t = .next u) : Keeps s u := by
  unfold execHatchLinkDown at he
  · injection he with he
    subst he
    iterate 40 try any_goals first
      | with_reducible assumption
      | with_reducible refine keeps_linkDown ?_ ..
      | with_reducible refine Keeps.snd (by with_reducible assumption) ?_
      | (intro _)
      | split
      | dsimp only

theorem keeps_instReset {s t : State} (h : Keeps s t) (a0) : Keeps s (instReset a0 t) := by
  unfold instReset
  iterate 40 try any_goals first
    | with_reducible assumption
    | with_reducible refine keeps_resetInst ?_ ..
    | with_reducible refine keeps_modPower ?_ ?_
    | with_reducible refine keeps_modInst ?_ ..
    | with_reducible refine Keeps.snd (by with_reducible assumption) ?_
    | (simp; done)
    | (intro _; simp_all; done)
    | (simp_all; done)
    | (intro _)
    | split
    | dsimp only

theorem keeps_runRecorded {s t : State} (h : Keeps s t) : Keeps s (runRecorded t) := by
  unfold runRecorded
  iterate 40 try any_goals first
    | with_reducible assumption
    | with_reducible refine Keeps.each ?_ _ (fun _ _ _ => ?_)
    | with_reducible refine keeps_resetInst ?_ ..
    | with_reducible refine keeps_modInst ?_ ..
    | with_reducible refine keeps_modPower ?_ ?_
    | with_reducible refine Keeps.snd (by with_reducible assumption) ?_
    | (simp; done)
    | (intro _; simp_all; done)
    | (simp_all; done)
    | (intro _)
    | split
    | dsimp only

theorem keeps_clearFn {s t : State} (h : Keeps s t) (a0) : Keeps s (clearFn a0 t) := by
  unfold clearFn
  iterate 40 try any_goals first
    | with_reducible assumption
    | with_reducible refine keeps_modHatch ?_ ..
    | with_reducible refine keeps_modFn ?_ ..
    | with_reducible refine Keeps.snd (by with_reducible assumption) ?_
    | (intro _)
    | split
    | dsimp only
    | with_reducible refine Keeps.upd ?_ ..

theorem keeps_functionReset {s t : State} (h : Keeps s t) (a0) : Keeps s (functionReset a0 t) := by
  unfold functionReset
  iterate 40 try any_goals first
    | with_reducible assumption
    | with_reducible refine Keeps.each ?_ _ (fun _ _ _ => ?_)
    | with_reducible refine keeps_instReset ?_ ..
    | with_reducible refine keeps_clearFn ?_ ..
    | with_reducible refine Keeps.snd (by with_reducible assumption) ?_
    | (intro _)
    | split
    | dsimp only

theorem keeps_execFunctionLevelReset {s t u : State} (h : Keeps s t) (a0) (he : execFunctionLevelReset a0 t = .next u) : Keeps s u := by
  unfold execFunctionLevelReset at he
  · injection he with he
    subst he
    iterate 40 try any_goals first
      | with_reducible assumption
      | with_reducible refine keeps_functionReset ?_ ..
      | with_reducible refine Keeps.snd (by with_reducible assumption) ?_
      | (intro _)
      | split
      | dsimp only

theorem keeps_vfEnableClear {s t : State} (h : Keeps s t) (a0) (a1) : Keeps s (vfEnableClear a0 a1 t) := by
  unfold vfEnableClear
  iterate 40 try any_goals first
    | with_reducible assumption
    | with_reducible refine Keeps.each ?_ _ (fun _ _ _ => ?_)
    | with_reducible refine keeps_functionReset ?_ ..
    | with_reducible refine keeps_modFn ?_ ..
    | with_reducible refine Keeps.snd (by with_reducible assumption) ?_
    | (intro _)
    | split
    | dsimp only

theorem keeps_execVfEnableClear {s t u : State} (h : Keeps s t) (a0) (a1) (he : execVfEnableClear a0 a1 t = .next u) : Keeps s u := by
  unfold execVfEnableClear at he
  · injection he with he
    subst he
    iterate 40 try any_goals first
      | with_reducible assumption
      | with_reducible refine keeps_vfEnableClear ?_ ..
      | with_reducible refine Keeps.snd (by with_reducible assumption) ?_
      | (intro _)
      | split
      | dsimp only

theorem keeps_resetHatch {s t : State} (h : Keeps s t) (a0) : Keeps s (resetHatch a0 t) := by
  unfold resetHatch
  iterate 40 try any_goals first
    | with_reducible assumption
    | with_reducible refine Keeps.each ?_ _ (fun _ _ _ => ?_)
    | with_reducible refine keeps_instReset ?_ ..
    | with_reducible refine keeps_modHatch ?_ ..
    | with_reducible refine Keeps.snd (by with_reducible assumption) ?_
    | (intro _)
    | split
    | dsimp only
    | with_reducible refine Keeps.upd ?_ ..

theorem keeps_execHotReset {s t u : State} (h : Keeps s t) (a0) (he : execHotReset a0 t = .next u) : Keeps s u := by
  unfold execHotReset at he
  · injection he with he
    subst he
    iterate 40 try any_goals first
      | with_reducible assumption
      | with_reducible refine keeps_resetHatch ?_ ..
      | with_reducible refine Keeps.snd (by with_reducible assumption) ?_
      | (intro _)
      | split
      | dsimp only

theorem keeps_holdExpiry {s t : State} (h : Keeps s t) (a0) : Keeps s (holdExpiry a0 t) := by
  unfold holdExpiry
  iterate 40 try any_goals first
    | with_reducible assumption
    | with_reducible refine Keeps.each ?_ _ (fun _ _ _ => ?_)
    | with_reducible refine keeps_instReset ?_ ..
    | with_reducible refine keeps_modHatch ?_ ..
    | with_reducible refine keeps_waitMono ?_ ..
    | with_reducible refine Keeps.snd (by with_reducible assumption) ?_
    | (intro _)
    | split
    | dsimp only

theorem keeps_execHoldLimitExpiry {s t u : State} (h : Keeps s t) (a0) (he : execHoldLimitExpiry a0 t = .next u) : Keeps s u := by
  unfold execHoldLimitExpiry at he
  · injection he with he
    subst he
    iterate 40 try any_goals first
      | with_reducible assumption
      | with_reducible refine keeps_holdExpiry ?_ ..
      | with_reducible refine Keeps.snd (by with_reducible assumption) ?_
      | (intro _)
      | split
      | dsimp only

theorem keeps_execD3hotEntry {s t u : State} (h : Keeps s t) (a0) (he : execD3hotEntry a0 t = .next u) : Keeps s u := by
  unfold execD3hotEntry at he
  · injection he with he
    subst he
    iterate 40 try any_goals first
      | with_reducible assumption
      | with_reducible refine keeps_placeAll ?_ ..
      | with_reducible refine keeps_modFn ?_ ..
      | with_reducible refine Keeps.snd (by with_reducible assumption) ?_
      | (intro _)
      | split
      | dsimp only

theorem keeps_d0Return {s t : State} (h : Keeps s t) (a0) : Keeps s (d0Return a0 t) := by
  unfold d0Return
  iterate 40 try any_goals first
    | with_reducible assumption
    | with_reducible refine keeps_modFn ?_ ..
    | with_reducible refine Keeps.each ?_ _ (fun _ _ _ => ?_)
    | with_reducible refine keeps_raiseQueue ?_ ..
    | with_reducible refine keeps_modQueue ?_ ..
    | with_reducible refine keeps_placeAll ?_ ..
    | with_reducible refine keeps_wakeRuns ?_ ..
    | with_reducible refine keeps_flushPending ?_ ..
    | with_reducible refine Keeps.snd (by with_reducible assumption) ?_
    | (intro _)
    | split
    | dsimp only

theorem keeps_execD0Return {s t u : State} (h : Keeps s t) (a0) (he : execD0Return a0 t = .next u) : Keeps s u := by
  unfold execD0Return at he
  · injection he with he
    subst he
    iterate 40 try any_goals first
      | with_reducible assumption
      | with_reducible refine keeps_d0Return ?_ ..
      | with_reducible refine Keeps.snd (by with_reducible assumption) ?_
      | (intro _)
      | split
      | dsimp only

theorem keeps_execL0pRequest {s t u : State} (h : Keeps s t) (a0) (a1) (he : execL0pRequest a0 a1 t = .next u) : Keeps s u := by
  unfold execL0pRequest at he
  · injection he with he
    subst he
    iterate 40 try any_goals first
      | with_reducible assumption
      | with_reducible refine keeps_emit ?_ ..
      | with_reducible refine keeps_modHatch ?_ ..
      | with_reducible refine Keeps.snd (by with_reducible assumption) ?_
      | (intro _)
      | split
      | dsimp only

theorem keeps_execL1Entry {s t u : State} (h : Keeps s t) (a0) (a1) (he : execL1Entry a0 a1 t = .next u) : Keeps s u := by
  unfold execL1Entry at he
  · injection he with he
    subst he
    iterate 40 try any_goals first
      | with_reducible assumption
      | with_reducible refine keeps_modHatch ?_ ..
      | with_reducible refine Keeps.snd (by with_reducible assumption) ?_
      | (intro _)
      | split
      | dsimp only

theorem keeps_l1Wake {s t : State} (h : Keeps s t) (a0) : Keeps s (l1Wake a0 t) := by
  unfold l1Wake
  iterate 40 try any_goals first
    | with_reducible assumption
    | with_reducible refine Keeps.each ?_ _ (fun _ _ _ => ?_)
    | with_reducible refine keeps_sendMsix ?_ ..
    | with_reducible refine keeps_modHatch ?_ ..
    | with_reducible refine Keeps.snd (by with_reducible assumption) ?_
    | (intro _)
    | split
    | dsimp only

theorem keeps_execL1Wake {s t u : State} (h : Keeps s t) (a0) (he : execL1Wake a0 t = .next u) : Keeps s u := by
  unfold execL1Wake at he
  · injection he with he
    subst he
    iterate 40 try any_goals first
      | with_reducible assumption
      | with_reducible refine keeps_l1Wake ?_ ..
      | with_reducible refine Keeps.snd (by with_reducible assumption) ?_
      | (intro _)
      | split
      | dsimp only

theorem keeps_execHatchRecovery {s t u : State} (h : Keeps s t) (a0) (he : execHatchRecovery a0 t = .next u) : Keeps s u := by
  unfold execHatchRecovery at he
  · injection he with he
    subst he
    iterate 40 try any_goals first
      | with_reducible assumption
      | with_reducible refine keeps_modHatch ?_ ..
      | with_reducible refine Keeps.snd (by with_reducible assumption) ?_
      | (intro _)
      | split
      | dsimp only

theorem keeps_execAtsInvalidate {s t u : State} (h : Keeps s t) (a0) (a1) (a2) (he : execAtsInvalidate a0 a1 a2 t = .next u) : Keeps s u := by
  unfold execAtsInvalidate at he
  · injection he with he
    subst he
    iterate 40 try any_goals first
      | with_reducible assumption
      | with_reducible refine keeps_emit ?_ ..
      | with_reducible refine keeps_modHatch ?_ ..
      | with_reducible refine Keeps.snd (by with_reducible assumption) ?_
      | (intro _)
      | split
      | dsimp only

end Sys2Proof.Machine
end

