-- ==== Sys2Proof/Laws/KeepHealth.lean ====
section
/-! SUPPORT. What the operations of Machine/Health.lean keep (Laws/Keeps.lean). -/
namespace Sys2Proof.Machine

theorem keeps_ackLedger {s t : State} (h : Keeps s t) (a0) : Keeps s (ackLedger a0 t) := by
  unfold ackLedger
  iterate 40 try any_goals first
    | with_reducible assumption
    | with_reducible refine keeps_modFaults ?_ ?_ ?_ ?_
    | with_reducible refine Keeps.snd (by with_reducible assumption) ?_
    | (simp; done)
    | (intro _; simp_all; done)
    | (simp_all; done)
    | (intro _)
    | split
    | dsimp only

theorem keeps_execLedgerAck {s t u : State} (h : Keeps s t) (a0) (he : execLedgerAck a0 t = .next u) : Keeps s u := by
  unfold execLedgerAck at he
  · injection he with he
    subst he
    iterate 40 try any_goals first
      | with_reducible assumption
      | with_reducible refine keeps_ackLedger ?_ ..
      | with_reducible refine Keeps.snd (by with_reducible assumption) ?_
      | (intro _)
      | split
      | dsimp only

theorem keeps_writeFevRi {s t : State} (h : Keeps s t) (a0) : Keeps s (writeFevRi a0 t) := by
  unfold writeFevRi
  iterate 40 try any_goals first
    | with_reducible assumption
    | with_reducible refine keeps_modFaults ?_ ?_ ?_ ?_
    | with_reducible refine Keeps.snd (by with_reducible assumption) ?_
    | (simp; done)
    | (intro _; simp_all; done)
    | (simp_all; done)
    | (intro _)
    | split
    | dsimp only

theorem keeps_execFevRiWrite {s t u : State} (h : Keeps s t) (a0) (he : execFevRiWrite a0 t = .next u) : Keeps s u := by
  unfold execFevRiWrite at he
  · injection he with he
    subst he
    iterate 40 try any_goals first
      | with_reducible assumption
      | with_reducible refine keeps_writeFevRi ?_ ..
      | with_reducible refine Keeps.snd (by with_reducible assumption) ?_
      | (intro _)
      | split
      | dsimp only

theorem keeps_execFaultForce {s t u : State} (h : Keeps s t) (a0) (he : execFaultForce a0 t = .next u) : Keeps s u := by
  unfold execFaultForce at he
  · injection he with he
    subst he
    iterate 40 try any_goals first
      | with_reducible assumption
      | with_reducible refine keeps_placeAll ?_ ..
      | with_reducible refine keeps_latch ?_ ..
      | with_reducible refine Keeps.snd (by with_reducible assumption) ?_
      | (intro _)
      | split
      | dsimp only

theorem keeps_injectDetail {s t : State} (h : Keeps s t) (a0) (a1) : Keeps s (injectDetail a0 a1 t).2 := by
  unfold injectDetail
  iterate 40 try any_goals first
    | with_reducible assumption
    | with_reducible refine keeps_freeWord ?_ ..
    | with_reducible refine Keeps.snd (by with_reducible assumption) ?_
    | (intro _)
    | split
    | dsimp only

theorem keeps_withdrawTier {s t : State} (h : Keeps s t) (a0) (a1) : Keeps s (withdrawTier a0 a1 t) := by
  unfold withdrawTier
  iterate 40 try any_goals first
    | with_reducible assumption
    | with_reducible refine keeps_modTier ?_ _ ?_
    | with_reducible refine keeps_loseParked ?_ ..
    | with_reducible refine Keeps.each ?_ _ (fun _ _ _ => ?_)
    | with_reducible refine Keeps.snd (by with_reducible assumption) ?_
    | with_reducible refine Keeps.foldl_snd ?_ _ _ (fun _ _ _ => ?_)
    | with_reducible refine Keeps.foldl ?_ _ _ (fun _ _ _ => ?_)
    | with_reducible refine wf_wrBytes _ _ ?_
    | with_reducible refine wf_clearBytes _ _ ?_
    | with_reducible refine wf_touch _ ?_
    | with_reducible refine wf_touches _ ?_
    | rw [setBad_mem]
    | (intro _; simp_all; done)
    | (intro _)
    | split
    | dsimp only

theorem keeps_injectMemory {s t : State} (h : Keeps s t) (a0) (a1) (a2) (a3) : Keeps s (injectMemory a0 a1 a2 a3 t) := by
  unfold injectMemory
  iterate 40 try any_goals first
    | with_reducible assumption
    | with_reducible refine keeps_modTier ?_ _ ?_
    | with_reducible refine keeps_loseParked ?_ ..
    | with_reducible refine keeps_withdrawTier ?_ ..
    | with_reducible refine Keeps.snd (by with_reducible assumption) ?_
    | with_reducible refine wf_wrBytes _ _ ?_
    | with_reducible refine wf_clearBytes _ _ ?_
    | with_reducible refine wf_touch _ ?_
    | with_reducible refine wf_touches _ ?_
    | rw [setBad_mem]
    | (intro _; simp_all; done)
    | (intro _)
    | split
    | dsimp only

theorem keeps_injectGalley {s t : State} (h : Keeps s t) (a0) (a1) (a2) : Keeps s (injectGalley a0 a1 a2 t) := by
  unfold injectGalley
  iterate 40 try any_goals first
    | with_reducible assumption
    | with_reducible refine keeps_retireUnit ?_ ..
    | with_reducible refine keeps_modGalley ?_ ?_
    | with_reducible refine keeps_listColumn ?_ ..
    | with_reducible refine keeps_failWaits ?_ ..
    | with_reducible refine keeps_putTally ?_ ..
    | with_reducible refine Keeps.snd (by with_reducible assumption) ?_
    | with_reducible refine wf_wrBytes _ _ ?_
    | with_reducible refine wf_clearBytes _ _ ?_
    | with_reducible refine wf_touch _ ?_
    | with_reducible refine wf_touches _ ?_
    | rw [setBad_mem]
    | (intro _; simp_all; done)
    | (intro _)
    | split
    | dsimp only

theorem keeps_injectFabric {s t : State} (h : Keeps s t) (a0) (a1) : Keeps s (injectFabric a0 a1 t) := by
  unfold injectFabric
  iterate 40 try any_goals first
    | with_reducible assumption
    | with_reducible refine keeps_sendControl ?_ ..
    | with_reducible refine keeps_toSpare ?_ ..
    | with_reducible refine keeps_replayFrom ?_ ..
    | with_reducible refine keeps_loseLane ?_ ..
    | with_reducible refine keeps_takeDown ?_ ..
    | with_reducible refine keeps_unrouteAll ?_ ..
    | with_reducible refine keeps_modPort ?_ ..
    | with_reducible refine Keeps.snd (by with_reducible assumption) ?_
    | (intro _)
    | split
    | dsimp only

theorem keeps_retirePair {s t : State} (h : Keeps s t) (a0) : Keeps s (retirePair a0 t) := by
  unfold retirePair
  iterate 40 try any_goals first
    | with_reducible assumption
    | with_reducible refine keeps_startRecovery ?_ ..
    | with_reducible refine keeps_replaceSpare ?_ ..
    | with_reducible refine keeps_modFaults ?_ ?_ ?_ ?_
    | with_reducible refine Keeps.snd (by with_reducible assumption) ?_
    | (simp; done)
    | (intro _; simp_all; done)
    | (simp_all; done)
    | (intro _)
    | split
    | dsimp only

theorem keeps_withdrawEngine {s t : State} (h : Keeps s t) (a0) : Keeps s (withdrawEngine a0 t) := by
  unfold withdrawEngine
  iterate 40 try any_goals first
    | with_reducible assumption
    | with_reducible refine keeps_modFaults ?_ ?_ ?_ ?_
    | with_reducible refine Keeps.snd (by with_reducible assumption) ?_
    | (simp; done)
    | (intro _; simp_all; done)
    | (simp_all; done)
    | (intro _)
    | split
    | dsimp only

theorem keeps_injectResponse {s t : State} (h : Keeps s t) (a0) (a1) (a2) (a3) : Keeps s (injectResponse a0 a1 a2 a3 t) := by
  unfold injectResponse
  iterate 40 try any_goals first
    | with_reducible assumption
    | with_reducible refine keeps_retireUnit ?_ ..
    | with_reducible refine keeps_injectGalley ?_ ..
    | with_reducible refine keeps_injectMemory ?_ ..
    | with_reducible refine keeps_injectFabric ?_ ..
    | with_reducible refine keeps_retirePair ?_ ..
    | with_reducible refine keeps_modPower ?_ ?_
    | with_reducible refine keeps_withdrawEngine ?_ ..
    | with_reducible refine Keeps.snd (by with_reducible assumption) ?_
    | (simp; done)
    | (intro _; simp_all; done)
    | (simp_all; done)
    | (intro _)
    | split
    | dsimp only

theorem keeps_faultInject {s t : State} (h : Keeps s t) (a0) : Keeps s (faultInject a0 t) := by
  unfold faultInject
  iterate 40 try any_goals first
    | with_reducible assumption
    | with_reducible refine keeps_modFaults ?_ ?_ ?_ ?_
    | with_reducible refine keeps_injectDetail ?_ ..
    | with_reducible refine keeps_latch ?_ ..
    | with_reducible refine keeps_placeAll ?_ ..
    | with_reducible refine keeps_injectResponse ?_ ..
    | with_reducible refine Keeps.snd (by with_reducible assumption) ?_
    | (simp; done)
    | (intro _; simp_all; done)
    | (simp_all; done)
    | (intro _)
    | split
    | dsimp only

theorem keeps_execFaultInject {s t u : State} (h : Keeps s t) (a0) (he : execFaultInject a0 t = .next u) : Keeps s u := by
  unfold execFaultInject at he
  · injection he with he
    subst he
    iterate 40 try any_goals first
      | with_reducible assumption
      | with_reducible refine keeps_faultInject ?_ ..
      | with_reducible refine Keeps.snd (by with_reducible assumption) ?_
      | (intro _)
      | split
      | dsimp only

theorem keeps_toggleAlive {s t : State} (h : Keeps s t) : Keeps s (toggleAlive t) := by
  unfold toggleAlive
  iterate 40 try any_goals first
    | with_reducible assumption
    | with_reducible refine keeps_waitMono ?_ ..
    | with_reducible refine keeps_emit ?_ ..
    | with_reducible refine keeps_modFaults ?_ ?_ ?_ ?_
    | with_reducible refine Keeps.snd (by with_reducible assumption) ?_
    | (simp; done)
    | (intro _; simp_all; done)
    | (simp_all; done)
    | (intro _)
    | split
    | dsimp only

theorem keeps_execAliveToggle {s t u : State} (h : Keeps s t) (he : execAliveToggle t = .next u) : Keeps s u := by
  unfold execAliveToggle at he
  · injection he with he
    subst he
    iterate 40 try any_goals first
      | with_reducible assumption
      | with_reducible refine keeps_toggleAlive ?_ ..
      | with_reducible refine Keeps.snd (by with_reducible assumption) ?_
      | (intro _)
      | split
      | dsimp only

theorem keeps_execWatchdogServe {s t u : State} (h : Keeps s t) (a0) (a1) (he : execWatchdogServe a0 a1 t = .next u) : Keeps s u := by
  unfold execWatchdogServe at he
  · injection he with he
    subst he
    iterate 40 try any_goals first
      | with_reducible assumption
      | with_reducible refine keeps_modFaults ?_ ?_ ?_ ?_
      | with_reducible refine Keeps.snd (by with_reducible assumption) ?_
      | (simp; done)
      | (intro _; simp_all; done)
      | (simp_all; done)
      | (intro _)
      | split
      | dsimp only

theorem keeps_execWatchdogExpiry {s t u : State} (h : Keeps s t) (he : execWatchdogExpiry t = .next u) : Keeps s u := by
  unfold execWatchdogExpiry at he
  · injection he with he
    subst he
    iterate 40 try any_goals first
      | with_reducible assumption
      | with_reducible refine keeps_placeAll ?_ ..
      | with_reducible refine keeps_latch ?_ ..
      | with_reducible refine keeps_waitMono ?_ ..
      | with_reducible refine Keeps.snd (by with_reducible assumption) ?_
      | (intro _)
      | split
      | dsimp only

theorem keeps_execWatchSelfcheckFail {s t u : State} (h : Keeps s t) (he : execWatchSelfcheckFail t = .next u) : Keeps s u := by
  unfold execWatchSelfcheckFail at he
  · injection he with he
    subst he
    iterate 40 try any_goals first
      | with_reducible assumption
      | with_reducible refine keeps_placeAll ?_ ..
      | with_reducible refine keeps_latch ?_ ..
      | with_reducible refine Keeps.snd (by with_reducible assumption) ?_
      | (intro _)
      | split
      | dsimp only

theorem keeps_pairFails {s t : State} (h : Keeps s t) (a0) (a1) : Keeps s (pairFails a0 a1 t) := by
  unfold pairFails
  iterate 40 try any_goals first
    | with_reducible assumption
    | with_reducible refine keeps_latch ?_ ..
    | with_reducible refine keeps_retirePair ?_ ..
    | with_reducible refine Keeps.snd (by with_reducible assumption) ?_
    | (intro _)
    | split
    | dsimp only

theorem keeps_execRuzelMismatch {s t u : State} (h : Keeps s t) (a0) (he : execRuzelMismatch a0 t = .next u) : Keeps s u := by
  unfold execRuzelMismatch at he
  · injection he with he
    subst he
    iterate 40 try any_goals first
      | with_reducible assumption
      | with_reducible refine keeps_pairFails ?_ ..
      | with_reducible refine Keeps.snd (by with_reducible assumption) ?_
      | (intro _)
      | split
      | dsimp only

theorem keeps_execRuzelHeartbeatMiss {s t u : State} (h : Keeps s t) (a0) (he : execRuzelHeartbeatMiss a0 t = .next u) : Keeps s u := by
  unfold execRuzelHeartbeatMiss at he
  · injection he with he
    subst he
    iterate 40 try any_goals first
      | with_reducible assumption
      | with_reducible refine keeps_pairFails ?_ ..
      | with_reducible refine Keeps.snd (by with_reducible assumption) ?_
      | (intro _)
      | split
      | dsimp only

theorem keeps_unitFault {s t : State} (h : Keeps s t) (a0) : Keeps s (unitFault a0 t) := by
  unfold unitFault
  iterate 40 try any_goals first
    | with_reducible assumption
    | with_reducible refine keeps_latch ?_ ..
    | with_reducible refine keeps_placeAll ?_ ..
    | with_reducible refine keeps_retireUnit ?_ ..
    | with_reducible refine Keeps.snd (by with_reducible assumption) ?_
    | (intro _)
    | split
    | dsimp only

theorem keeps_execPressUnitFault {s t u : State} (h : Keeps s t) (a0) (he : execPressUnitFault a0 t = .next u) : Keeps s u := by
  unfold execPressUnitFault at he
  · injection he with he
    subst he
    iterate 40 try any_goals first
      | with_reducible assumption
      | with_reducible refine keeps_unitFault ?_ ..
      | with_reducible refine Keeps.snd (by with_reducible assumption) ?_
      | (intro _)
      | split
      | dsimp only

theorem keeps_spineError {s t : State} (h : Keeps s t) (a0) (a1) (a2) : Keeps s (spineError a0 a1 a2 t) := by
  unfold spineError
  iterate 40 try any_goals first
    | with_reducible assumption
    | with_reducible refine keeps_latch ?_ ..
    | with_reducible refine keeps_placeAll ?_ ..
    | with_reducible refine Keeps.snd (by with_reducible assumption) ?_
    | (intro _)
    | split
    | dsimp only

theorem keeps_execSpineFlitError {s t u : State} (h : Keeps s t) (a0) (a1) (a2) (he : execSpineFlitError a0 a1 a2 t = .next u) : Keeps s u := by
  unfold execSpineFlitError at he
  · injection he with he
    subst he
    iterate 40 try any_goals first
      | with_reducible assumption
      | with_reducible refine keeps_spineError ?_ ..
      | with_reducible refine Keeps.snd (by with_reducible assumption) ?_
      | (intro _)
      | split
      | dsimp only

theorem keeps_execCipherSelfcheckFail {s t u : State} (h : Keeps s t) (a0) (he : execCipherSelfcheckFail a0 t = .next u) : Keeps s u := by
  unfold execCipherSelfcheckFail at he
  · injection he with he
    subst he
    iterate 40 try any_goals first
      | with_reducible assumption
      | with_reducible refine keeps_withdrawEngine ?_ ..
      | with_reducible refine keeps_latch ?_ ..
      | with_reducible refine Keeps.snd (by with_reducible assumption) ?_
      | (intro _)
      | split
      | dsimp only

end Sys2Proof.Machine
end

