-- ==== Sys2Proof/Laws/KeepPower.lean ====
section
/-! SUPPORT. What the operations of Machine/Power.lean keep (Laws/Keeps.lean). -/
namespace Sys2Proof.Machine

theorem keeps_tempSample {s t : State} (h : Keeps s t) (a0) : Keeps s (tempSample a0 t) := by
  unfold tempSample
  iterate 40 try any_goals first
    | with_reducible assumption
    | with_reducible refine keeps_latch ?_ ..
    | with_reducible refine keeps_modPower ?_ ?_
    | with_reducible refine keeps_placeAll ?_ ..
    | with_reducible refine Keeps.snd (by with_reducible assumption) ?_
    | with_reducible refine Keeps.foldl_snd ?_ _ _ (fun _ _ _ => ?_)
    | with_reducible refine Keeps.foldl ?_ _ _ (fun _ _ _ => ?_)
    | (simp; done)
    | (intro _; simp_all; done)
    | (simp_all; done)
    | (intro _)
    | split
    | dsimp only

theorem keeps_execTempSample {s t u : State} (h : Keeps s t) (a0) (he : execTempSample a0 t = .next u) : Keeps s u := by
  unfold execTempSample at he
  · injection he with he
    subst he
    iterate 40 try any_goals first
      | with_reducible assumption
      | with_reducible refine keeps_tempSample ?_ ..
      | with_reducible refine Keeps.snd (by with_reducible assumption) ?_
      | (intro _)
      | split
      | dsimp only

theorem keeps_idleGate {s t : State} (h : Keeps s t) : Keeps s (idleGate t) := by
  unfold idleGate
  iterate 40 try any_goals first
    | with_reducible assumption
    | with_reducible refine keeps_waitMono ?_ ..
    | with_reducible refine keeps_modPower ?_ ?_
    | with_reducible refine Keeps.snd (by with_reducible assumption) ?_
    | (simp; done)
    | (intro _; simp_all; done)
    | (simp_all; done)
    | (intro _)
    | split
    | dsimp only

theorem keeps_execIdleGate {s t u : State} (h : Keeps s t) (he : execIdleGate t = .next u) : Keeps s u := by
  unfold execIdleGate at he
  · injection he with he
    subst he
    iterate 40 try any_goals first
      | with_reducible assumption
      | with_reducible refine keeps_idleGate ?_ ..
      | with_reducible refine Keeps.snd (by with_reducible assumption) ?_
      | (intro _)
      | split
      | dsimp only

theorem keeps_ungate {s t : State} (h : Keeps s t) : Keeps s (ungate t) := by
  unfold ungate
  iterate 40 try any_goals first
    | with_reducible assumption
    | with_reducible refine keeps_modPower ?_ ?_
    | with_reducible refine Keeps.snd (by with_reducible assumption) ?_
    | (simp; done)
    | (intro _; simp_all; done)
    | (simp_all; done)
    | (intro _)
    | split
    | dsimp only

theorem keeps_pressUngate {s t : State} (h : Keeps s t) : Keeps s (pressUngate t) := by
  unfold pressUngate
  iterate 40 try any_goals first
    | with_reducible assumption
    | with_reducible refine keeps_ungate ?_ ..
    | with_reducible refine keeps_waitPtp ?_ ..
    | with_reducible refine Keeps.snd (by with_reducible assumption) ?_
    | (intro _)
    | split
    | dsimp only

theorem keeps_execPressUngate {s t u : State} (h : Keeps s t) (he : execPressUngate t = .next u) : Keeps s u := by
  unfold execPressUngate at he
  · injection he with he
    subst he
    iterate 40 try any_goals first
      | with_reducible assumption
      | with_reducible refine keeps_pressUngate ?_ ..
      | with_reducible refine Keeps.snd (by with_reducible assumption) ?_
      | (intro _)
      | split
      | dsimp only

theorem keeps_powerAnswer {s t : State} (h : Keeps s t) (a0) : Keeps s (powerAnswer a0 t) := by
  unfold powerAnswer
  iterate 40 try any_goals first
    | with_reducible assumption
    | with_reducible refine keeps_modPower ?_ ?_
    | with_reducible refine Keeps.snd (by with_reducible assumption) ?_
    | (simp; done)
    | (intro _; simp_all; done)
    | (simp_all; done)
    | (intro _)
    | split
    | dsimp only

theorem keeps_scanBells {s t : State} (h : Keeps s t) : Keeps s (scanBells t) := by
  unfold scanBells
  iterate 40 try any_goals first
    | with_reducible assumption
    | with_reducible refine Keeps.each ?_ _ (fun _ _ _ => ?_)
    | with_reducible refine keeps_loadContext ?_ ..
    | with_reducible refine keeps_scan ?_ ..
    | with_reducible refine keeps_modQueue ?_ ..
    | with_reducible refine Keeps.snd (by with_reducible assumption) ?_
    | (intro _)
    | split
    | dsimp only

theorem keeps_keepRequest {s t : State} (h : Keeps s t) : Keeps s (keepRequest t) := by
  unfold keepRequest
  iterate 40 try any_goals first
    | with_reducible assumption
    | with_reducible refine keeps_powerAnswer ?_ ..
    | with_reducible refine keeps_modPower ?_ ?_
    | with_reducible refine Keeps.snd (by with_reducible assumption) ?_
    | (simp; done)
    | (intro _; simp_all; done)
    | (simp_all; done)
    | (intro _)
    | split
    | dsimp only

theorem keeps_execKeepRequest {s t u : State} (h : Keeps s t) (he : execKeepRequest t = .next u) : Keeps s u := by
  unfold execKeepRequest at he
  · injection he with he
    subst he
    iterate 40 try any_goals first
      | with_reducible assumption
      | with_reducible refine keeps_keepRequest ?_ ..
      | with_reducible refine Keeps.snd (by with_reducible assumption) ?_
      | (intro _)
      | split
      | dsimp only

theorem keeps_holdServo {s t : State} (h : Keeps s t) : Keeps s (holdServo t) := by
  unfold holdServo
  iterate 40 try any_goals first
    | with_reducible assumption
    | with_reducible refine keeps_latch ?_ ..
    | with_reducible refine keeps_modTime ?_ ..
    | with_reducible refine keeps_latchHoldover ?_ ..
    | with_reducible refine Keeps.snd (by with_reducible assumption) ?_
    | (intro _)
    | split
    | dsimp only

theorem keeps_keepEntry {s t : State} (h : Keeps s t) : Keeps s (keepEntry t) := by
  unfold keepEntry
  iterate 40 try any_goals first
    | with_reducible assumption
    | with_reducible exact id
    | with_reducible refine keeps_modPower ?_ ?_
    | with_reducible refine keeps_holdServo ?_ ..
    | with_reducible refine Keeps.snd (by with_reducible assumption) ?_
    | (simp; done)
    | (intro _; simp_all; done)
    | (simp_all; done)
    | (intro _)
    | split
    | dsimp only
    | with_reducible refine Keeps.updAll ?_ ?_ ?_ ?_ ?_ ?_ ?_ ?_ ?_ ?_ ?_ ?_ ?_
    | (simp; done)
    | (simp_all; done)

theorem keeps_execKeepEntry {s t u : State} (h : Keeps s t) (he : execKeepEntry t = .next u) : Keeps s u := by
  unfold execKeepEntry at he
  · injection he with he
    subst he
    iterate 40 try any_goals first
      | with_reducible assumption
      | with_reducible refine keeps_keepEntry ?_ ..
      | with_reducible refine Keeps.snd (by with_reducible assumption) ?_
      | (intro _)
      | split
      | dsimp only

theorem keeps_keepExpiry {s t : State} (h : Keeps s t) : Keeps s (keepExpiry t) := by
  unfold keepExpiry
  iterate 40 try any_goals first
    | with_reducible assumption
    | with_reducible refine keeps_placeAll ?_ ..
    | with_reducible refine keeps_scanBells ?_ ..
    | with_reducible refine keeps_modPower ?_ ?_
    | with_reducible refine keeps_waitMono ?_ ..
    | with_reducible refine Keeps.snd (by with_reducible assumption) ?_
    | (simp; done)
    | (intro _; simp_all; done)
    | (simp_all; done)
    | (intro _)
    | split
    | dsimp only

theorem keeps_execKeepWaitExpiry {s t u : State} (h : Keeps s t) (he : execKeepWaitExpiry t = .next u) : Keeps s u := by
  unfold execKeepWaitExpiry at he
  · injection he with he
    subst he
    iterate 40 try any_goals first
      | with_reducible assumption
      | with_reducible refine keeps_keepExpiry ?_ ..
      | with_reducible refine Keeps.snd (by with_reducible assumption) ?_
      | (intro _)
      | split
      | dsimp only

theorem keeps_clearGalley {s t : State} (h : Keeps s t) : Keeps s (clearGalley t) := by
  unfold clearGalley
  iterate 40 try any_goals first
    | with_reducible assumption
    | with_reducible refine keeps_modGalley ?_ ?_
    | (rfl)
    | with_reducible refine Keeps.snd (by with_reducible assumption) ?_
    | with_reducible refine wf_wrBytes _ _ ?_
    | with_reducible refine wf_clearBytes _ _ ?_
    | with_reducible refine wf_touch _ ?_
    | with_reducible refine wf_touches _ ?_
    | rw [setBad_mem]
    | (intro _; simp_all; done)
    | (intro _)
    | split
    | dsimp only

theorem keeps_leaveKeeping {s t : State} (h : Keeps s t) : Keeps s (leaveKeeping t) := by
  unfold leaveKeeping
  iterate 40 try any_goals first
    | with_reducible assumption
    | with_reducible exact id
    | with_reducible refine keeps_modPower ?_ ?_
    | with_reducible refine keeps_clearGalley ?_ ..
    | with_reducible refine keeps_modFaults ?_ ?_ ?_ ?_
    | with_reducible refine keeps_placeAll ?_ ..
    | with_reducible refine keeps_scanBells ?_ ..
    | with_reducible refine keeps_runRecorded ?_ ..
    | with_reducible refine Keeps.snd (by with_reducible assumption) ?_
    | (simp; done)
    | (intro _; simp_all; done)
    | (simp_all; done)
    | (intro _)
    | split
    | dsimp only
    | with_reducible refine Keeps.updAll ?_ ?_ ?_ ?_ ?_ ?_ ?_ ?_ ?_ ?_ ?_ ?_ ?_
    | (simp; done)
    | (simp_all; done)

theorem keeps_execWakeRequest {s t u : State} (h : Keeps s t) (he : execWakeRequest t = .next u) : Keeps s u := by
  unfold execWakeRequest at he
  · injection he with he
    subst he
    iterate 40 try any_goals first
      | with_reducible assumption
      | with_reducible refine keeps_leaveKeeping ?_ ..
      | with_reducible refine keeps_powerAnswer ?_ ..
      | with_reducible refine Keeps.snd (by with_reducible assumption) ?_
      | (intro _)
      | split
      | dsimp only

theorem keeps_modComparator {s t : State} (h : Keeps s t) (a0) (a1) : Keeps s (modComparator a0 a1 t) := by
  unfold modComparator
  iterate 40 try any_goals first
    | with_reducible assumption
    | with_reducible refine keeps_modPower ?_ ?_
    | with_reducible refine Keeps.snd (by with_reducible assumption) ?_
    | (simp; done)
    | (intro _; simp_all; done)
    | (simp_all; done)
    | (intro _)
    | split
    | dsimp only

theorem keeps_comparatorFire {s t : State} (h : Keeps s t) (a0) : Keeps s (comparatorFire a0 t) := by
  unfold comparatorFire
  iterate 40 try any_goals first
    | with_reducible assumption
    | with_reducible refine keeps_waitPtp ?_ ..
    | with_reducible refine keeps_modComparator ?_ ..
    | with_reducible refine keeps_sendMsix ?_ ..
    | with_reducible refine keeps_leaveKeeping ?_ ..
    | with_reducible refine Keeps.snd (by with_reducible assumption) ?_
    | (intro _)
    | split
    | dsimp only

theorem keeps_execComparatorFire {s t u : State} (h : Keeps s t) (a0) (he : execComparatorFire a0 t = .next u) : Keeps s u := by
  unfold execComparatorFire at he
  · injection he with he
    subst he
    iterate 40 try any_goals first
      | with_reducible assumption
      | with_reducible refine keeps_comparatorFire ?_ ..
      | with_reducible refine Keeps.snd (by with_reducible assumption) ?_
      | (intro _)
      | split
      | dsimp only

end Sys2Proof.Machine
end

