-- ==== Sys2Proof/Laws/KeepBoot.lean ====
section
/-! SUPPORT. What the operations of Machine/Boot.lean keep (Laws/Keeps.lean). -/
namespace Sys2Proof.Machine

theorem keeps_bootAnswer {s t : State} (h : Keeps s t) (a0) (a1) (a2) : Keeps s (bootAnswer a0 a1 a2 t) := by
  unfold bootAnswer
  iterate 40 try any_goals first
    | with_reducible assumption
    | with_reducible refine keeps_modBoot ?_ ..
    | with_reducible refine Keeps.snd (by with_reducible assumption) ?_
    | (intro _)
    | split
    | dsimp only

theorem keeps_idleHatch {s t : State} (h : Keeps s t) (a0) : Keeps s (idleHatch a0 t) := by
  unfold idleHatch
  iterate 40 try any_goals first
    | with_reducible assumption
    | with_reducible refine keeps_emit ?_ ..
    | with_reducible refine keeps_modHatch ?_ ..
    | with_reducible refine Keeps.snd (by with_reducible assumption) ?_
    | (intro _)
    | split
    | dsimp only

theorem keeps_withdrawForme {s t : State} (h : Keeps s t) : Keeps s (withdrawForme t) := by
  unfold withdrawForme
  iterate 40 try any_goals first
    | with_reducible assumption
    | with_reducible exact id
    | with_reducible refine Keeps.each ?_ _ (fun _ _ _ => ?_)
    | with_reducible refine keeps_idleHatch ?_ ..
    | with_reducible refine Keeps.snd (by with_reducible assumption) ?_
    | (intro _)
    | split
    | dsimp only
    | with_reducible refine Keeps.updAll ?_ ?_ ?_ ?_ ?_ ?_ ?_ ?_ ?_ ?_ ?_ ?_ ?_
    | (simp; done)
    | (simp_all; done)

theorem keeps_refuseForme {s t : State} (h : Keeps s t) (a0) (a1) : Keeps s (refuseForme a0 a1 t) := by
  unfold refuseForme
  iterate 40 try any_goals first
    | with_reducible assumption
    | with_reducible refine keeps_bootAnswer ?_ ..
    | with_reducible refine keeps_withdrawForme ?_ ..
    | with_reducible refine keeps_latch ?_ ..
    | with_reducible refine Keeps.snd (by with_reducible assumption) ?_
    | (intro _)
    | split
    | dsimp only
    | with_reducible refine Keeps.upd ?_ ..

theorem keeps_plateRegisters {s t : State} (h : Keeps s t) (a0) : Keeps s (plateRegisters a0 t) := by
  unfold plateRegisters
  iterate 40 try any_goals first
    | with_reducible assumption
    | with_reducible exact id
    | with_reducible refine keeps_modQuoin ?_ ..
    | with_reducible refine keeps_modGalley ?_ ?_
    | with_reducible refine Keeps.snd (by with_reducible assumption) ?_
    | with_reducible refine wf_wrBytes _ _ ?_
    | with_reducible refine wf_clearBytes _ _ ?_
    | with_reducible refine wf_touch _ ?_
    | with_reducible refine wf_touches _ ?_
    | rw [setBad_mem]
    | (intro _; simp_all; done)
    | (intro _)
    | split
    | dsimp only
    | with_reducible refine Keeps.updAll ?_ ?_ ?_ ?_ ?_ ?_ ?_ ?_ ?_ ?_ ?_ ?_ ?_
    | (simp; done)
    | (simp_all; done)

theorem keeps_enterRunning {s t : State} (h : Keeps s t) : Keeps s (enterRunning t) := by
  unfold enterRunning
  iterate 40 try any_goals first
    | with_reducible assumption
    | with_reducible exact id
    | with_reducible refine keeps_emit ?_ ..
    | with_reducible refine keeps_bootAnswer ?_ ..
    | with_reducible refine keeps_modBoot ?_ ..
    | with_reducible refine Keeps.snd (by with_reducible assumption) ?_
    | (intro _)
    | split
    | dsimp only
    | with_reducible refine Keeps.updAll ?_ ?_ ?_ ?_ ?_ ?_ ?_ ?_ ?_ ?_ ?_ ?_ ?_
    | (simp; done)
    | (simp_all; done)

theorem keeps_applyRest {s t : State} (h : Keeps s t) (a0) : Keeps s (applyRest a0 t) := by
  unfold applyRest
  iterate 40 try any_goals first
    | with_reducible assumption
    | with_reducible exact id
    | with_reducible refine keeps_enterRunning ?_ ..
    | with_reducible refine keeps_plateRegisters ?_ ..
    | with_reducible refine Keeps.snd (by with_reducible assumption) ?_
    | (intro _)
    | split
    | dsimp only
    | with_reducible refine Keeps.updAll ?_ ?_ ?_ ?_ ?_ ?_ ?_ ?_ ?_ ?_ ?_ ?_ ?_
    | (simp; done)
    | (simp_all; done)

theorem keeps_judgeStore {s t : State} (h : Keeps s t) (a0) : Keeps s (judgeStore a0 t) := by
  unfold judgeStore
  iterate 40 try any_goals first
    | with_reducible assumption
    | with_reducible exact id
    | with_reducible refine keeps_latch ?_ ..
    | with_reducible refine Keeps.snd (by with_reducible assumption) ?_
    | (intro _)
    | split
    | dsimp only
    | with_reducible refine Keeps.updAll ?_ ?_ ?_ ?_ ?_ ?_ ?_ ?_ ?_ ?_ ?_ ?_ ?_
    | (simp; done)
    | (simp_all; done)

theorem keeps_continueForme {s t : State} (h : Keeps s t) : Keeps s (continueForme t) := by
  unfold continueForme
  iterate 40 try any_goals first
    | with_reducible assumption
    | with_reducible refine keeps_refuseForme ?_ ..
    | with_reducible refine keeps_judgeStore ?_ ..
    | with_reducible refine keeps_applyRest ?_ ..
    | with_reducible refine Keeps.snd (by with_reducible assumption) ?_
    | (intro _)
    | split
    | dsimp only

theorem keeps_releaseHatches {s t : State} (h : Keeps s t) (a0) : Keeps s (releaseHatches a0 t) := by
  unfold releaseHatches
  iterate 40 try any_goals first
    | with_reducible assumption
    | with_reducible refine Keeps.each ?_ _ (fun _ _ _ => ?_)
    | with_reducible refine keeps_emit ?_ ..
    | with_reducible refine keeps_waitMono ?_ ..
    | with_reducible refine keeps_modHatch ?_ ..
    | with_reducible refine Keeps.snd (by with_reducible assumption) ?_
    | (intro _)
    | split
    | dsimp only

theorem keeps_configure {s t : State} (h : Keeps s t) (a0) : Keeps s (configure a0 t) := by
  unfold configure
  iterate 40 try any_goals first
    | with_reducible assumption
    | with_reducible refine keeps_refuseForme ?_ ..
    | with_reducible refine keeps_continueForme ?_ ..
    | with_reducible refine keeps_releaseHatches ?_ ..
    | with_reducible refine Keeps.snd (by with_reducible assumption) ?_
    | with_reducible refine Keeps.foldl_snd ?_ _ _ (fun _ _ _ => ?_)
    | with_reducible refine Keeps.foldl ?_ _ _ (fun _ _ _ => ?_)
    | (intro _)
    | split
    | dsimp only
    | with_reducible refine Keeps.upd ?_ ..

theorem keeps_goResult {s t : State} (h : Keeps s t) (a0) : Keeps s (goResult a0 t) := by
  unfold goResult
  iterate 40 try any_goals first
    | with_reducible assumption
    | with_reducible refine keeps_modBoot ?_ ..
    | with_reducible refine Keeps.snd (by with_reducible assumption) ?_
    | (intro _)
    | split
    | dsimp only

theorem keeps_readImage {s t : State} (h : Keeps s t) : Keeps s (readImage t).2 := by
  unfold readImage
  iterate 40 try any_goals first
    | with_reducible assumption
    | with_reducible refine keeps_readHost ?_ ..
    | with_reducible refine Keeps.snd (by with_reducible assumption) ?_
    | (intro _)
    | split
    | dsimp only

theorem keeps_goFirmware {s t : State} (h : Keeps s t) (a0) : Keeps s (goFirmware a0 t) := by
  unfold goFirmware
  iterate 40 try any_goals first
    | with_reducible assumption
    | with_reducible refine keeps_refuseForme ?_ ..
    | with_reducible refine keeps_bootAnswer ?_ ..
    | with_reducible refine keeps_modBoot ?_ ..
    | with_reducible refine Keeps.snd (by with_reducible assumption) ?_
    | (intro _)
    | split
    | dsimp only

theorem keeps_goForme {s t : State} (h : Keeps s t) (a0) : Keeps s (goForme a0 t) := by
  unfold goForme
  iterate 40 try any_goals first
    | with_reducible assumption
    | with_reducible refine keeps_refuseForme ?_ ..
    | with_reducible refine keeps_configure ?_ ..
    | with_reducible refine Keeps.snd (by with_reducible assumption) ?_
    | (intro _)
    | split
    | dsimp only

theorem keeps_goChain {s t : State} (h : Keeps s t) (a0) : Keeps s (goChain a0 t) := by
  unfold goChain
  iterate 40 try any_goals first
    | with_reducible assumption
    | with_reducible refine keeps_modBoot ?_ ..
    | with_reducible refine keeps_waitMono ?_ ..
    | with_reducible refine keeps_bootAnswer ?_ ..
    | with_reducible refine Keeps.snd (by with_reducible assumption) ?_
    | (intro _)
    | split
    | dsimp only

theorem keeps_stageRefused {s t : State} (h : Keeps s t) (a0) (a1) : Keeps s (stageRefused a0 a1 t) := by
  unfold stageRefused
  iterate 40 try any_goals first
    | with_reducible assumption
    | with_reducible refine keeps_bootAnswer ?_ ..
    | with_reducible refine keeps_modBoot ?_ ..
    | with_reducible refine Keeps.snd (by with_reducible assumption) ?_
    | (intro _)
    | split
    | dsimp only

theorem keeps_goPlates {s t : State} (h : Keeps s t) (a0) : Keeps s (goPlates a0 t) := by
  unfold goPlates
  iterate 40 try any_goals first
    | with_reducible assumption
    | with_reducible refine keeps_stageRefused ?_ ..
    | with_reducible refine keeps_bootAnswer ?_ ..
    | with_reducible refine keeps_modBank ?_ ..
    | with_reducible refine keeps_modFabric ?_ ?_
    | with_reducible refine keeps_modBoot ?_ ..
    | with_reducible refine Keeps.snd (by with_reducible assumption) ?_
    | (simp; done)
    | (intro _; simp_all; done)
    | (simp_all; done)
    | (intro _)
    | split
    | dsimp only

theorem keeps_bootGo {s t : State} (h : Keeps s t) (a0) (a1) (hf0 : ∀ x0 u, Keeps s u → Keeps s (a1 x0 u)) : Keeps s (bootGo a0 a1 t) := by
  unfold bootGo
  iterate 40 try any_goals first
    | with_reducible assumption
    | with_reducible refine hf0 _ _ ?_
    | with_reducible refine keeps_goResult ?_ ..
    | with_reducible refine keeps_readImage ?_ ..
    | with_reducible refine keeps_placeAll ?_ ..
    | with_reducible refine keeps_refuseForme ?_ ..
    | with_reducible refine keeps_bootAnswer ?_ ..
    | with_reducible refine Keeps.snd (by with_reducible assumption) ?_
    | (intro _)
    | split
    | dsimp only

theorem keeps_bootDiscard {s t : State} (h : Keeps s t) : Keeps s (bootDiscard t) := by
  unfold bootDiscard
  iterate 40 try any_goals first
    | with_reducible assumption
    | with_reducible refine keeps_goResult ?_ ..
    | with_reducible refine keeps_bootAnswer ?_ ..
    | with_reducible refine keeps_modBoot ?_ ..
    | with_reducible refine Keeps.snd (by with_reducible assumption) ?_
    | (intro _)
    | split
    | dsimp only

theorem keeps_execBootFirmware {s t u : State} (h : Keeps s t) (he : execBootFirmware t = .next u) : Keeps s u := by
  unfold execBootFirmware at he
  · injection he with he
    subst he
    iterate 40 try any_goals first
      | with_reducible assumption
      | with_reducible refine keeps_bootGo ?_ _ _ (fun _ _ _ => ?_)
      | with_reducible refine keeps_goFirmware ?_ ..
      | with_reducible refine Keeps.snd (by with_reducible assumption) ?_
      | (intro _)
      | split
      | dsimp only

theorem keeps_execBootForme {s t u : State} (h : Keeps s t) (he : execBootForme t = .next u) : Keeps s u := by
  unfold execBootForme at he
  · injection he with he
    subst he
    iterate 40 try any_goals first
      | with_reducible assumption
      | with_reducible refine keeps_bootGo ?_ _ _ (fun _ _ _ => ?_)
      | with_reducible refine keeps_goForme ?_ ..
      | with_reducible refine Keeps.snd (by with_reducible assumption) ?_
      | (intro _)
      | split
      | dsimp only

theorem keeps_execBootCertChain {s t u : State} (h : Keeps s t) (he : execBootCertChain t = .next u) : Keeps s u := by
  unfold execBootCertChain at he
  · injection he with he
    subst he
    iterate 40 try any_goals first
      | with_reducible assumption
      | with_reducible refine keeps_bootGo ?_ _ _ (fun _ _ _ => ?_)
      | with_reducible refine keeps_goChain ?_ ..
      | with_reducible refine Keeps.snd (by with_reducible assumption) ?_
      | (intro _)
      | split
      | dsimp only

theorem keeps_execBootPlates {s t u : State} (h : Keeps s t) (he : execBootPlates t = .next u) : Keeps s u := by
  unfold execBootPlates at he
  · injection he with he
    subst he
    iterate 40 try any_goals first
      | with_reducible assumption
      | with_reducible refine keeps_bootGo ?_ _ _ (fun _ _ _ => ?_)
      | with_reducible refine keeps_goPlates ?_ ..
      | with_reducible refine Keeps.snd (by with_reducible assumption) ?_
      | (intro _)
      | split
      | dsimp only

theorem keeps_execBootDiscard {s t u : State} (h : Keeps s t) (he : execBootDiscard t = .next u) : Keeps s u := by
  unfold execBootDiscard at he
  · injection he with he
    subst he
    iterate 40 try any_goals first
      | with_reducible assumption
      | with_reducible refine keeps_bootDiscard ?_ ..
      | with_reducible refine Keeps.snd (by with_reducible assumption) ?_
      | (intro _)
      | split
      | dsimp only

end Sys2Proof.Machine
end

