-- ==== Sys2Proof/Laws/KeepStart.lean ====
section
/-! SUPPORT. What the operations of Machine/Start.lean keep (Laws/Keeps.lean). -/
namespace Sys2Proof.Machine

theorem keeps_repairBank {s t : State} (h : Keeps s t) (a0) : Keeps s (repairBank a0 t) := by
  unfold repairBank
  iterate 40 try any_goals first
    | with_reducible assumption
    | with_reducible refine keeps_latch ?_ ..
    | with_reducible refine keeps_modFaults ?_ ?_ ?_ ?_
    | with_reducible refine keeps_modGalley ?_ ?_
    | with_reducible refine Keeps.snd (by with_reducible assumption) ?_
    | with_reducible refine wf_wrBytes _ _ ?_
    | with_reducible refine wf_clearBytes _ _ ?_
    | with_reducible refine wf_touch _ ?_
    | with_reducible refine wf_touches _ ?_
    | rw [setBad_mem]
    | (intro _; simp_all; done)
    | (simp; done)
    | (intro _; simp_all; done)
    | (simp_all; done)
    | (intro _)
    | split
    | dsimp only

theorem keeps_applyRepairs {s t : State} (h : Keeps s t) : Keeps s (applyRepairs t) := by
  unfold applyRepairs
  iterate 40 try any_goals first
    | with_reducible assumption
    | with_reducible refine Keeps.each ?_ _ (fun _ _ _ => ?_)
    | with_reducible refine keeps_repairBank ?_ ..
    | with_reducible refine Keeps.snd (by with_reducible assumption) ?_
    | with_reducible refine Keeps.foldl_snd ?_ _ _ (fun _ _ _ => ?_)
    | with_reducible refine Keeps.foldl ?_ _ _ (fun _ _ _ => ?_)
    | (intro _)
    | split
    | dsimp only

theorem wf_wipeTier (x : TierSt) : Memory.wf (wipeTier x).mem = true := rfl

theorem length_assignFrom (n : Nat) (l : List UnitState) : (assignFrom n l).length = l.length := by
  induction l generalizing n with
  | nil => rfl
  | cons u l ih => cases u <;> cases n <;> simp [assignFrom, ih]

theorem length_assignUnits (l : List UnitState) : (assignUnits l).length = l.length := by
  rw [assignUnits, length_assignFrom, List.length_map, List.length_range]

theorem length_assignPairs (l : List UnitState) : (assignPairs l).length = l.length := length_assignFrom _ _

theorem reset_fixed : State.reset.Fixed := by constructor <;> decide

theorem keeps_restarted {s t : State} (h : Keeps s t) : Keeps s (restarted t) := by
  unfold restarted
  iterate 40 try any_goals first
    | with_reducible assumption
    | with_reducible exact id
    | (exact wf_wipeTier _)
    | (rfl)
    | (simp; done)
    | with_reducible refine Keeps.snd (by with_reducible assumption) ?_
    | (intro _)
    | split
    | dsimp only
    | with_reducible refine Keeps.updAll ?_ ?_ ?_ ?_ ?_ ?_ ?_ ?_ ?_ ?_ ?_ ?_ ?_
    | (simp; done)
    | (simp_all; done)

theorem keeps_beginStart {s t : State} (h : Keeps s t) : Keeps s (beginStart t) := by
  unfold beginStart
  iterate 40 try any_goals first
    | with_reducible assumption
    | with_reducible refine keeps_applyRepairs ?_ ..
    | with_reducible refine keeps_restarted ?_ ..
    | with_reducible refine Keeps.each ?_ _ (fun _ _ _ => ?_)
    | with_reducible refine keeps_idleHatch ?_ ..
    | with_reducible refine keeps_modFaults ?_ ?_ ?_ ?_
    | with_reducible refine keeps_modBoot ?_ ..
    | with_reducible refine keeps_modGalley ?_ ?_
    | with_reducible refine keeps_clearGalley ?_ ..
    | with_reducible refine keeps_latch ?_ ..
    | (rw [length_assignUnits]; with_reducible assumption)
    | (rw [length_assignPairs]; with_reducible assumption)
    | with_reducible refine Keeps.snd (by with_reducible assumption) ?_
    | with_reducible refine wf_wrBytes _ _ ?_
    | with_reducible refine wf_clearBytes _ _ ?_
    | with_reducible refine wf_touch _ ?_
    | with_reducible refine wf_touches _ ?_
    | rw [setBad_mem]
    | (intro _; simp_all; done)
    | (simp; done)
    | (intro _; simp_all; done)
    | (simp_all; done)
    | (intro _)
    | split
    | dsimp only

theorem keeps_execRailsValid {s t u : State} (h : Keeps s t) (he : execRailsValid t = .next u) : Keeps s u := by
  unfold execRailsValid at he
  · injection he with he
    subst he
    iterate 40 try any_goals first
      | with_reducible assumption
      | with_reducible refine keeps_emit ?_ ..
      | with_reducible refine keeps_beginStart ?_ ..
      | with_reducible refine Keeps.snd (by with_reducible assumption) ?_
      | (intro _)
      | split
      | dsimp only

theorem keeps_powerDown {s t : State} (h : Keeps s t) : Keeps s (powerDown t) :=
  h.of_parts rfl ⟨by simp [powerDown], id, fun _ => reset_fixed.ports, fun _ => reset_fixed.ledger, fun _ => reset_fixed.units,
    fun _ => reset_fixed.pairs, fun _ => reset_fixed.comparators, fun _ => rfl, fun _ => rfl, fun _ => rfl, fun _ => rfl, id⟩

theorem keeps_execPowerOff {s t u : State} (h : Keeps s t) (he : execPowerOff t = .next u) : Keeps s u := by
  unfold execPowerOff at he
  · injection he with he
    subst he
    iterate 40 try any_goals first
      | with_reducible assumption
      | with_reducible refine keeps_powerDown ?_ ..
      | with_reducible refine Keeps.snd (by with_reducible assumption) ?_
      | (intro _)
      | split
      | dsimp only

theorem keeps_execRailFault {s t u : State} (h : Keeps s t) (a0) (a1) (he : execRailFault a0 a1 t = .next u) : Keeps s u := by
  unfold execRailFault at he
  · injection he with he
    subst he
    iterate 40 try any_goals first
      | with_reducible assumption
      | with_reducible refine keeps_powerDown ?_ ..
      | with_reducible refine keeps_placeAll ?_ ..
      | with_reducible refine keeps_latch ?_ ..
      | with_reducible refine Keeps.snd (by with_reducible assumption) ?_
      | (intro _)
      | split
      | dsimp only

theorem keeps_loseKept {s t : State} (h : Keeps s t) : Keeps s (loseKept t) := by
  unfold loseKept
  iterate 40 try any_goals first
    | with_reducible assumption
    | with_reducible exact id
    | with_reducible refine keeps_modBoot ?_ ..
    | (exact wf_wipeTier _)
    | with_reducible refine Keeps.snd (by with_reducible assumption) ?_
    | (intro _)
    | split
    | dsimp only
    | with_reducible refine Keeps.updAll ?_ ?_ ?_ ?_ ?_ ?_ ?_ ?_ ?_ ?_ ?_ ?_ ?_
    | (simp; done)
    | (simp_all; done)

theorem keeps_tiersTrain {s t : State} (h : Keeps s t) (a0) (a1) (a2) : Keeps s (tiersTrain a0 a1 a2 t) := by
  unfold tiersTrain
  iterate 40 try any_goals first
    | with_reducible assumption
    | with_reducible exact id
    | with_reducible refine keeps_latch ?_ ..
    | with_reducible refine keeps_placeAll ?_ ..
    | with_reducible refine keeps_continueForme ?_ ..
    | with_reducible refine keeps_loseKept ?_ ..
    | with_reducible refine Keeps.snd (by with_reducible assumption) ?_
    | (intro _)
    | split
    | dsimp only
    | with_reducible refine Keeps.updAll ?_ ?_ ?_ ?_ ?_ ?_ ?_ ?_ ?_ ?_ ?_ ?_ ?_
    | (simp; done)
    | (simp_all; done)

theorem keeps_execTierTrainingDone {s t u : State} (h : Keeps s t) (a0) (a1) (a2) (he : execTierTrainingDone a0 a1 a2 t = .next u) : Keeps s u := by
  unfold execTierTrainingDone at he
  · injection he with he
    subst he
    iterate 40 try any_goals first
      | with_reducible assumption
      | with_reducible refine keeps_tiersTrain ?_ ..
      | with_reducible refine Keeps.snd (by with_reducible assumption) ?_
      | (intro _)
      | split
      | dsimp only

theorem keeps_cellarTrained {s t : State} (h : Keeps s t) (a0) (a1) (a2) (a3) : Keeps s (cellarTrained a0 a1 a2 a3 t) := by
  unfold cellarTrained
  iterate 40 try any_goals first
    | with_reducible assumption
    | with_reducible refine keeps_modHatch ?_ ..
    | with_reducible refine keeps_modTier ?_ _ ?_
    | with_reducible refine keeps_latch ?_ ..
    | with_reducible refine keeps_placeAll ?_ ..
    | with_reducible refine keeps_continueForme ?_ ..
    | with_reducible refine Keeps.snd (by with_reducible assumption) ?_
    | with_reducible refine wf_wrBytes _ _ ?_
    | with_reducible refine wf_clearBytes _ _ ?_
    | with_reducible refine wf_touch _ ?_
    | with_reducible refine wf_touches _ ?_
    | rw [setBad_mem]
    | (intro _; simp_all; done)
    | (intro _)
    | split
    | dsimp only

theorem keeps_execCellarTrainingDone {s t u : State} (h : Keeps s t) (a0) (a1) (a2) (a3) (he : execCellarTrainingDone a0 a1 a2 a3 t = .next u) : Keeps s u := by
  unfold execCellarTrainingDone at he
  · injection he with he
    subst he
    iterate 40 try any_goals first
      | with_reducible assumption
      | with_reducible refine keeps_cellarTrained ?_ ..
      | with_reducible refine Keeps.snd (by with_reducible assumption) ?_
      | (intro _)
      | split
      | dsimp only

theorem keeps_execDeviceKeyDerived {s t u : State} (h : Keeps s t) (he : execDeviceKeyDerived t = .next u) : Keeps s u := by
  unfold execDeviceKeyDerived at he
  · injection he with he
    subst he
    iterate 40 try any_goals first
      | with_reducible assumption
      | with_reducible refine keeps_modBoot ?_ ..
      | with_reducible refine Keeps.snd (by with_reducible assumption) ?_
      | (intro _)
      | split
      | dsimp only

theorem keeps_dropLink {s t : State} (h : Keeps s t) (a0) : Keeps s (dropLink a0 t) := by
  unfold dropLink
  iterate 40 try any_goals first
    | with_reducible assumption
    | with_reducible refine keeps_linkDown ?_ ..
    | with_reducible refine Keeps.snd (by with_reducible assumption) ?_
    | (intro _)
    | split
    | dsimp only

theorem keeps_perstEffect {s t : State} (h : Keeps s t) (a0) (a1) : Keeps s (perstEffect a0 a1 t) := by
  unfold perstEffect
  iterate 40 try any_goals first
    | with_reducible assumption
    | with_reducible refine keeps_resetHatch ?_ ..
    | with_reducible refine keeps_dropLink ?_ ..
    | with_reducible refine keeps_modBoot ?_ ..
    | with_reducible refine keeps_withdrawForme ?_ ..
    | with_reducible refine keeps_beginStart ?_ ..
    | with_reducible refine keeps_pass ?_ ..
    | with_reducible refine Keeps.snd (by with_reducible assumption) ?_
    | (intro _)
    | split
    | dsimp only

theorem keeps_perstAssert {s t : State} (h : Keeps s t) (a0) (a1) : Keeps s (perstAssert a0 a1 t) := by
  unfold perstAssert
  iterate 40 try any_goals first
    | with_reducible assumption
    | with_reducible refine keeps_modHatch ?_ ..
    | with_reducible refine keeps_placeAll ?_ ..
    | with_reducible refine keeps_perstEffect ?_ ..
    | with_reducible refine Keeps.snd (by with_reducible assumption) ?_
    | (intro _)
    | split
    | dsimp only

theorem keeps_execPerstAssert {s t u : State} (h : Keeps s t) (a0) (a1) (he : execPerstAssert a0 a1 t = .next u) : Keeps s u := by
  unfold execPerstAssert at he
  · injection he with he
    subst he
    iterate 40 try any_goals first
      | with_reducible assumption
      | with_reducible refine keeps_perstAssert ?_ ..
      | with_reducible refine Keeps.snd (by with_reducible assumption) ?_
      | (intro _)
      | split
      | dsimp only

theorem keeps_perstDeassert {s t : State} (h : Keeps s t) (a0) : Keeps s (perstDeassert a0 t) := by
  unfold perstDeassert
  iterate 40 try any_goals first
    | with_reducible assumption
    | with_reducible refine keeps_modHatch ?_ ..
    | with_reducible refine keeps_modBoot ?_ ..
    | with_reducible refine Keeps.snd (by with_reducible assumption) ?_
    | (intro _)
    | split
    | dsimp only
    | with_reducible refine Keeps.upd ?_ ..

theorem keeps_execPerstDeassert {s t u : State} (h : Keeps s t) (a0) (he : execPerstDeassert a0 t = .next u) : Keeps s u := by
  unfold execPerstDeassert at he
  · injection he with he
    subst he
    iterate 40 try any_goals first
      | with_reducible assumption
      | with_reducible refine keeps_perstDeassert ?_ ..
      | with_reducible refine Keeps.snd (by with_reducible assumption) ?_
      | (intro _)
      | split
      | dsimp only

end Sys2Proof.Machine
end

