-- ==== Sys2Proof/Laws/KeepSpdm.lean ====
section
/-! SUPPORT. What the operations of Machine/Spdm.lean keep (Laws/Keeps.lean). -/
namespace Sys2Proof.Machine

theorem keeps_spdmReply {s t : State} (h : Keeps s t) (a0) (a1) : Keeps s (spdmReply a0 a1 t) := by
  unfold spdmReply
  iterate 40 try any_goals first
    | with_reducible assumption
    | with_reducible refine keeps_emit ?_ ..
    | with_reducible refine keeps_modSpdm ?_ ..
    | with_reducible refine Keeps.snd (by with_reducible assumption) ?_
    | (intro _)
    | split
    | dsimp only

theorem keeps_spdmError {s t : State} (h : Keeps s t) (a0) : Keeps s (spdmError a0 t) := by
  unfold spdmError
  iterate 40 try any_goals first
    | with_reducible assumption
    | with_reducible refine keeps_emit ?_ ..
    | with_reducible refine Keeps.snd (by with_reducible assumption) ?_
    | (intro _)
    | split
    | dsimp only

theorem keeps_negotiated {s t : State} (h : Keeps s t) (a0) (hf0 : ∀  u, Keeps s u → Keeps s (a0  u)) : Keeps s (negotiated a0 t) := by
  unfold negotiated
  iterate 40 try any_goals first
    | with_reducible assumption
    | with_reducible refine hf0 _ ?_
    | with_reducible refine keeps_spdmError ?_ ..
    | with_reducible refine Keeps.snd (by with_reducible assumption) ?_
    | (intro _)
    | split
    | dsimp only

theorem keeps_spdmTurn {s t u : State} (h : Keeps s t) (a0) (a1) (hf0 : ∀  u, Keeps s u → Keeps s (a1  u)) (he : spdmTurn a0 a1 t = .next u) : Keeps s u := by
  unfold spdmTurn at he
  · injection he with he
    subst he
    iterate 40 try any_goals first
      | with_reducible assumption
      | with_reducible refine hf0 _ ?_
      | with_reducible refine Keeps.snd (by with_reducible assumption) ?_
      | (intro _)
      | split
      | dsimp only

theorem keeps_getVersion {s t : State} (h : Keeps s t) : Keeps s (getVersion t) := by
  unfold getVersion
  iterate 40 try any_goals first
    | with_reducible assumption
    | with_reducible refine keeps_spdmReply ?_ ..
    | with_reducible refine keeps_modSpdm ?_ ..
    | with_reducible refine Keeps.snd (by with_reducible assumption) ?_
    | (intro _)
    | split
    | dsimp only

theorem keeps_execGetVersion {s t u : State} (h : Keeps s t) (a0) (he : execGetVersion a0 t = .next u) : Keeps s u := by
  unfold execGetVersion at he
  · refine keeps_spdmTurn h _ _ (fun _ _ => ?_) he
    iterate 40 try any_goals first
      | with_reducible assumption
      | with_reducible refine keeps_getVersion ?_ ..
      | with_reducible refine Keeps.snd (by with_reducible assumption) ?_
      | (intro _)
      | split
      | dsimp only

theorem keeps_getCapabilities {s t : State} (h : Keeps s t) (a0) : Keeps s (getCapabilities a0 t) := by
  unfold getCapabilities
  iterate 40 try any_goals first
    | with_reducible assumption
    | with_reducible refine keeps_spdmReply ?_ ..
    | with_reducible refine keeps_modSpdm ?_ ..
    | with_reducible refine keeps_spdmError ?_ ..
    | with_reducible refine Keeps.snd (by with_reducible assumption) ?_
    | (intro _)
    | split
    | dsimp only

theorem keeps_execGetCapabilities {s t u : State} (h : Keeps s t) (a0) (a1) (he : execGetCapabilities a0 a1 t = .next u) : Keeps s u := by
  unfold execGetCapabilities at he
  · refine keeps_spdmTurn h _ _ (fun _ _ => ?_) he
    iterate 40 try any_goals first
      | with_reducible assumption
      | with_reducible refine keeps_getCapabilities ?_ ..
      | with_reducible refine Keeps.snd (by with_reducible assumption) ?_
      | (intro _)
      | split
      | dsimp only

theorem keeps_negotiate {s t : State} (h : Keeps s t) (a0) : Keeps s (negotiate a0 t) := by
  unfold negotiate
  iterate 40 try any_goals first
    | with_reducible assumption
    | with_reducible refine keeps_spdmError ?_ ..
    | with_reducible refine keeps_spdmReply ?_ ..
    | with_reducible refine keeps_modSpdm ?_ ..
    | with_reducible refine Keeps.snd (by with_reducible assumption) ?_
    | (intro _)
    | split
    | dsimp only

theorem keeps_execNegotiateAlgorithms {s t u : State} (h : Keeps s t) (a0) (a1) (he : execNegotiateAlgorithms a0 a1 t = .next u) : Keeps s u := by
  unfold execNegotiateAlgorithms at he
  · refine keeps_spdmTurn h _ _ (fun _ _ => ?_) he
    iterate 40 try any_goals first
      | with_reducible assumption
      | with_reducible refine keeps_negotiate ?_ ..
      | with_reducible refine Keeps.snd (by with_reducible assumption) ?_
      | (intro _)
      | split
      | dsimp only

theorem keeps_getDigests {s t : State} (h : Keeps s t) : Keeps s (getDigests t) := by
  unfold getDigests
  iterate 40 try any_goals first
    | with_reducible assumption
    | with_reducible refine keeps_spdmReply ?_ ..
    | with_reducible refine Keeps.snd (by with_reducible assumption) ?_
    | (intro _)
    | split
    | dsimp only

theorem keeps_execGetDigests {s t u : State} (h : Keeps s t) (a0) (he : execGetDigests a0 t = .next u) : Keeps s u := by
  unfold execGetDigests at he
  · refine keeps_spdmTurn h _ _ (fun _ _ => ?_) he
    iterate 40 try any_goals first
      | with_reducible assumption
      | with_reducible refine keeps_negotiated ?_ _ (fun _ _ => ?_)
      | with_reducible refine keeps_getDigests ?_ ..
      | with_reducible refine Keeps.snd (by with_reducible assumption) ?_
      | (intro _)
      | split
      | dsimp only

theorem keeps_getCertificate {s t : State} (h : Keeps s t) (a0) (a1) (a2) : Keeps s (getCertificate a0 a1 a2 t) := by
  unfold getCertificate
  iterate 40 try any_goals first
    | with_reducible assumption
    | with_reducible refine keeps_spdmError ?_ ..
    | with_reducible refine keeps_spdmReply ?_ ..
    | with_reducible refine Keeps.snd (by with_reducible assumption) ?_
    | (intro _)
    | split
    | dsimp only

theorem keeps_execGetCertificate {s t u : State} (h : Keeps s t) (a0) (a1) (a2) (a3) (he : execGetCertificate a0 a1 a2 a3 t = .next u) : Keeps s u := by
  unfold execGetCertificate at he
  · refine keeps_spdmTurn h _ _ (fun _ _ => ?_) he
    iterate 40 try any_goals first
      | with_reducible assumption
      | with_reducible refine keeps_negotiated ?_ _ (fun _ _ => ?_)
      | with_reducible refine keeps_getCertificate ?_ ..
      | with_reducible refine Keeps.snd (by with_reducible assumption) ?_
      | (intro _)
      | split
      | dsimp only

theorem keeps_spdmSigned {s t : State} (h : Keeps s t) (a0) (a1) : Keeps s (spdmSigned a0 a1 t) := by
  unfold spdmSigned
  iterate 40 try any_goals first
    | with_reducible assumption
    | with_reducible refine keeps_spdmReply ?_ ..
    | with_reducible refine Keeps.snd (by with_reducible assumption) ?_
    | (intro _)
    | split
    | dsimp only

theorem keeps_challenge {s t : State} (h : Keeps s t) (a0) (a1) : Keeps s (challenge a0 a1 t) := by
  unfold challenge
  iterate 40 try any_goals first
    | with_reducible assumption
    | with_reducible refine keeps_spdmError ?_ ..
    | with_reducible refine keeps_freeBytes ?_ ..
    | with_reducible refine keeps_spdmSigned ?_ ..
    | with_reducible refine Keeps.snd (by with_reducible assumption) ?_
    | (intro _)
    | split
    | dsimp only

theorem keeps_execChallenge {s t u : State} (h : Keeps s t) (a0) (a1) (a2) (he : execChallenge a0 a1 a2 t = .next u) : Keeps s u := by
  unfold execChallenge at he
  · refine keeps_spdmTurn h _ _ (fun _ _ => ?_) he
    iterate 40 try any_goals first
      | with_reducible assumption
      | with_reducible refine keeps_negotiated ?_ _ (fun _ _ => ?_)
      | with_reducible refine keeps_challenge ?_ ..
      | with_reducible refine Keeps.snd (by with_reducible assumption) ?_
      | (intro _)
      | split
      | dsimp only

theorem keeps_getMeasurements {s t : State} (h : Keeps s t) (a0) (a1) (a2) : Keeps s (getMeasurements a0 a1 a2 t) := by
  unfold getMeasurements
  iterate 40 try any_goals first
    | with_reducible assumption
    | with_reducible refine keeps_spdmError ?_ ..
    | with_reducible refine keeps_freeBytes ?_ ..
    | with_reducible refine keeps_spdmSigned ?_ ..
    | with_reducible refine keeps_spdmReply ?_ ..
    | with_reducible refine Keeps.snd (by with_reducible assumption) ?_
    | (intro _)
    | split
    | dsimp only

theorem keeps_execGetMeasurements {s t u : State} (h : Keeps s t) (a0) (a1) (a2) (a3) (he : execGetMeasurements a0 a1 a2 a3 t = .next u) : Keeps s u := by
  unfold execGetMeasurements at he
  · refine keeps_spdmTurn h _ _ (fun _ _ => ?_) he
    iterate 40 try any_goals first
      | with_reducible assumption
      | with_reducible refine keeps_negotiated ?_ _ (fun _ _ => ?_)
      | with_reducible refine keeps_getMeasurements ?_ ..
      | with_reducible refine Keeps.snd (by with_reducible assumption) ?_
      | (intro _)
      | split
      | dsimp only

theorem keeps_keyExchange {s t : State} (h : Keeps s t) (a0) : Keeps s (keyExchange a0 t) := by
  unfold keyExchange
  iterate 40 try any_goals first
    | with_reducible assumption
    | with_reducible refine keeps_spdmError ?_ ..
    | with_reducible refine keeps_freeBytes ?_ ..
    | with_reducible refine keeps_spdmReply ?_ ..
    | with_reducible refine keeps_modSpdm ?_ ..
    | with_reducible refine Keeps.snd (by with_reducible assumption) ?_
    | (intro _)
    | split
    | dsimp only

theorem keeps_execKeyExchange {s t u : State} (h : Keeps s t) (a0) (he : execKeyExchange a0 t = .next u) : Keeps s u := by
  unfold execKeyExchange at he
  · refine keeps_spdmTurn h _ _ (fun _ _ => ?_) he
    iterate 40 try any_goals first
      | with_reducible assumption
      | with_reducible refine keeps_negotiated ?_ _ (fun _ _ => ?_)
      | with_reducible refine keeps_keyExchange ?_ ..
      | with_reducible refine Keeps.snd (by with_reducible assumption) ?_
      | (intro _)
      | split
      | dsimp only

theorem keeps_finishSession {s t : State} (h : Keeps s t) (a0) (a1) (a2) : Keeps s (finishSession a0 a1 a2 t) := by
  unfold finishSession
  iterate 40 try any_goals first
    | with_reducible assumption
    | with_reducible refine keeps_spdmError ?_ ..
    | with_reducible refine keeps_spdmReply ?_ ..
    | with_reducible refine keeps_modSpdm ?_ ..
    | with_reducible refine Keeps.snd (by with_reducible assumption) ?_
    | (intro _)
    | split
    | dsimp only

theorem keeps_execFinish {s t u : State} (h : Keeps s t) (a0) (a1) (a2) (he : execFinish a0 a1 a2 t = .next u) : Keeps s u := by
  unfold execFinish at he
  · refine keeps_spdmTurn h _ _ (fun _ _ => ?_) he
    iterate 40 try any_goals first
      | with_reducible assumption
      | with_reducible refine keeps_negotiated ?_ _ (fun _ _ => ?_)
      | with_reducible refine keeps_finishSession ?_ ..
      | with_reducible refine Keeps.snd (by with_reducible assumption) ?_
      | (intro _)
      | split
      | dsimp only

theorem keeps_heartbeat {s t : State} (h : Keeps s t) : Keeps s (heartbeat t) := by
  unfold heartbeat
  iterate 40 try any_goals first
    | with_reducible assumption
    | with_reducible refine keeps_emit ?_ ..
    | with_reducible refine Keeps.snd (by with_reducible assumption) ?_
    | (intro _)
    | split
    | dsimp only

theorem keeps_execHeartbeat {s t u : State} (h : Keeps s t) (a0) (he : execHeartbeat a0 t = .next u) : Keeps s u := by
  unfold execHeartbeat at he
  · refine keeps_spdmTurn h _ _ (fun _ _ => ?_) he
    iterate 40 try any_goals first
      | with_reducible assumption
      | with_reducible refine keeps_heartbeat ?_ ..
      | with_reducible refine Keeps.snd (by with_reducible assumption) ?_
      | (intro _)
      | split
      | dsimp only

theorem keeps_keyUpdate {s t : State} (h : Keeps s t) (a0) (a1) : Keeps s (keyUpdate a0 a1 t) := by
  unfold keyUpdate
  iterate 40 try any_goals first
    | with_reducible assumption
    | with_reducible refine keeps_spdmError ?_ ..
    | with_reducible refine keeps_emit ?_ ..
    | with_reducible refine keeps_modSpdm ?_ ..
    | with_reducible refine Keeps.snd (by with_reducible assumption) ?_
    | (intro _)
    | split
    | dsimp only

theorem keeps_execKeyUpdate {s t u : State} (h : Keeps s t) (a0) (a1) (he : execKeyUpdate a0 a1 t = .next u) : Keeps s u := by
  unfold execKeyUpdate at he
  · refine keeps_spdmTurn h _ _ (fun _ _ => ?_) he
    iterate 40 try any_goals first
      | with_reducible assumption
      | with_reducible refine keeps_keyUpdate ?_ ..
      | with_reducible refine Keeps.snd (by with_reducible assumption) ?_
      | (intro _)
      | split
      | dsimp only

theorem keeps_endSession {s t : State} (h : Keeps s t) (a0) : Keeps s (endSession a0 t) := by
  unfold endSession
  iterate 40 try any_goals first
    | with_reducible assumption
    | with_reducible refine keeps_emit ?_ ..
    | with_reducible refine keeps_modSpdm ?_ ..
    | with_reducible refine Keeps.snd (by with_reducible assumption) ?_
    | (intro _)
    | split
    | dsimp only

theorem keeps_execEndSession {s t u : State} (h : Keeps s t) (a0) (he : execEndSession a0 t = .next u) : Keeps s u := by
  unfold execEndSession at he
  · refine keeps_spdmTurn h _ _ (fun _ _ => ?_) he
    iterate 40 try any_goals first
      | with_reducible assumption
      | with_reducible refine keeps_endSession ?_ ..
      | with_reducible refine Keeps.snd (by with_reducible assumption) ?_
      | (intro _)
      | split
      | dsimp only

theorem keeps_spdmRequest {s t : State} (h : Keeps s t) (a0) (a1) : Keeps s (spdmRequest a0 a1 t) := by
  unfold spdmRequest
  iterate 40 try any_goals first
    | with_reducible assumption
    | with_reducible refine keeps_getVersion ?_ ..
    | with_reducible refine keeps_getCapabilities ?_ ..
    | with_reducible refine keeps_negotiate ?_ ..
    | with_reducible refine keeps_negotiated ?_ _ (fun _ _ => ?_)
    | with_reducible refine keeps_getDigests ?_ ..
    | with_reducible refine keeps_getCertificate ?_ ..
    | with_reducible refine keeps_challenge ?_ ..
    | with_reducible refine keeps_getMeasurements ?_ ..
    | with_reducible refine keeps_keyExchange ?_ ..
    | with_reducible refine keeps_heartbeat ?_ ..
    | with_reducible refine keeps_spdmError ?_ ..
    | with_reducible refine keeps_keyUpdate ?_ ..
    | with_reducible refine keeps_endSession ?_ ..
    | with_reducible refine Keeps.snd (by with_reducible assumption) ?_
    | (intro _)
    | split
    | dsimp only

end Sys2Proof.Machine
end

