-- ==== Sys2Proof/Laws/KeepMgmt.lean ====
section
/-! SUPPORT. What the operations of Machine/Mgmt.lean keep (Laws/Keeps.lean). -/
namespace Sys2Proof.Machine

theorem keeps_mgmtSend {s t : State} (h : Keeps s t) (a0) : Keeps s (mgmtSend a0 t) := by
  unfold mgmtSend
  iterate 40 try any_goals first
    | with_reducible assumption
    | with_reducible refine keeps_emit ?_ ..
    | with_reducible refine keeps_modEther ?_ ..
    | with_reducible refine Keeps.snd (by with_reducible assumption) ?_
    | (intro _)
    | split
    | dsimp only

theorem keeps_answerArp {s t : State} (h : Keeps s t) (a0) (a1) (a2) : Keeps s (answerArp a0 a1 a2 t) := by
  unfold answerArp
  iterate 40 try any_goals first
    | with_reducible assumption
    | with_reducible refine keeps_mgmtSend ?_ ..
    | with_reducible refine Keeps.snd (by with_reducible assumption) ?_
    | (intro _)
    | split
    | dsimp only

theorem keeps_execArpRequest {s t u : State} (h : Keeps s t) (a0) (a1) (a2) (he : execArpRequest a0 a1 a2 t = .next u) : Keeps s u := by
  unfold execArpRequest at he
  · injection he with he
    subst he
    iterate 40 try any_goals first
      | with_reducible assumption
      | with_reducible refine keeps_answerArp ?_ ..
      | with_reducible refine Keeps.snd (by with_reducible assumption) ?_
      | (intro _)
      | split
      | dsimp only

theorem keeps_mgmtSteward {s t : State} (h : Keeps s t) (a0) : Keeps s (mgmtSteward a0 t) := by
  unfold mgmtSteward
  iterate 40 try any_goals first
    | with_reducible assumption
    | with_reducible refine keeps_mgmtDiscard ?_ ..
    | with_reducible refine keeps_stwRun ?_ ..
    | with_reducible refine Keeps.snd (by with_reducible assumption) ?_
    | (intro _)
    | split
    | dsimp only

theorem keeps_mgmtSpdm {s t : State} (h : Keeps s t) (a0) : Keeps s (mgmtSpdm a0 t) := by
  unfold mgmtSpdm
  iterate 40 try any_goals first
    | with_reducible assumption
    | with_reducible refine keeps_negotiated ?_ _ (fun _ _ => ?_)
    | with_reducible refine keeps_finishSession ?_ ..
    | with_reducible refine keeps_spdmRequest ?_ ..
    | with_reducible refine Keeps.snd (by with_reducible assumption) ?_
    | (intro _)
    | split
    | dsimp only

theorem keeps_mgmtFrame {s t : State} (h : Keeps s t) (a0) : Keeps s (mgmtFrame a0 t) := by
  unfold mgmtFrame
  iterate 40 try any_goals first
    | with_reducible assumption
    | with_reducible refine keeps_mgmtDiscard ?_ ..
    | with_reducible refine keeps_answerArp ?_ ..
    | with_reducible refine keeps_ptpArrives ?_ ..
    | with_reducible refine keeps_mgmtSpdm ?_ ..
    | with_reducible refine keeps_mgmtSteward ?_ ..
    | with_reducible refine Keeps.snd (by with_reducible assumption) ?_
    | (intro _)
    | split
    | dsimp only

theorem keeps_execMgmtFrameRx {s t u : State} (h : Keeps s t) (a0) (he : execMgmtFrameRx a0 t = .next u) : Keeps s u := by
  unfold execMgmtFrameRx at he
  · injection he with he
    subst he
    iterate 40 try any_goals first
      | with_reducible assumption
      | with_reducible refine keeps_placeAll ?_ ..
      | with_reducible refine keeps_mgmtFrame ?_ ..
      | with_reducible refine Keeps.snd (by with_reducible assumption) ?_
      | (intro _)
      | split
      | dsimp only

theorem keeps_mgmtCollides {s t : State} (h : Keeps s t) : Keeps s (mgmtCollides t) := by
  unfold mgmtCollides
  iterate 40 try any_goals first
    | with_reducible assumption
    | with_reducible refine keeps_modEther ?_ ..
    | with_reducible refine keeps_emit ?_ ..
    | with_reducible refine keeps_pass ?_ ..
    | with_reducible refine Keeps.snd (by with_reducible assumption) ?_
    | (intro _)
    | split
    | dsimp only
    | with_reducible refine Keeps.upd ?_ ..

theorem keeps_execMgmtCollision {s t u : State} (h : Keeps s t) (he : execMgmtCollision t = .next u) : Keeps s u := by
  unfold execMgmtCollision at he
  · injection he with he
    subst he
    iterate 40 try any_goals first
      | with_reducible assumption
      | with_reducible refine keeps_mgmtCollides ?_ ..
      | with_reducible refine Keeps.snd (by with_reducible assumption) ?_
      | (intro _)
      | split
      | dsimp only

theorem keeps_execPlcaBeaconLoss {s t u : State} (h : Keeps s t) (he : execPlcaBeaconLoss t = .next u) : Keeps s u := by
  unfold execPlcaBeaconLoss at he
  · injection he with he
    subst he
    iterate 40 try any_goals first
      | with_reducible assumption
      | with_reducible refine keeps_modEther ?_ ..
      | with_reducible refine Keeps.snd (by with_reducible assumption) ?_
      | (intro _)
      | split
      | dsimp only

end Sys2Proof.Machine
end

