-- ==== Sys2Proof/Laws/KeepRegs.lean ====
section
/-! SUPPORT. What the operations of Machine/Regs.lean keep (Laws/Keeps.lean). -/
namespace Sys2Proof.Machine

theorem keeps_after {s t : State} (h : Keeps s t) (a0) (hf : ∀ u, a0 = .next u → Keeps s u) : Keeps s (after a0 t) := by
  unfold after
  split
  · exact hf _ rfl
  · exact h

theorem keeps_writeQcOp {s t : State} (h : Keeps s t) (a0) (a1) : Keeps s (writeQcOp a0 a1 t) := by
  unfold writeQcOp
  iterate 40 try any_goals first
    | with_reducible assumption
    | with_reducible refine keeps_qcAnswer ?_ ..
    | with_reducible refine keeps_after ?_ _ (fun _ _ => ?_)
    | with_reducible refine keeps_execQcCreate ?_ _ _  (by with_reducible assumption)
    | with_reducible refine keeps_execQcDrain ?_ _ _  (by with_reducible assumption)
    | with_reducible refine keeps_execQcResume ?_ _ _  (by with_reducible assumption)
    | with_reducible refine keeps_execQcDestroy ?_ _ _  (by with_reducible assumption)
    | with_reducible refine keeps_execQcArm ?_ _ _  (by with_reducible assumption)
    | with_reducible refine keeps_execQcQuery ?_ _ _  (by with_reducible assumption)
    | with_reducible refine Keeps.snd (by with_reducible assumption) ?_
    | (intro _)
    | split
    | dsimp only

theorem keeps_writeLigOp {s t : State} (h : Keeps s t) (a0) (a1) : Keeps s (writeLigOp a0 a1 t) := by
  unfold writeLigOp
  iterate 40 try any_goals first
    | with_reducible assumption
    | with_reducible refine keeps_ligAnswer ?_ ..
    | with_reducible refine keeps_after ?_ _ (fun _ _ => ?_)
    | with_reducible refine keeps_execLigLoad ?_ _ _  (by with_reducible assumption)
    | with_reducible refine keeps_execLigClear ?_ _ _  (by with_reducible assumption)
    | with_reducible refine keeps_ligCommand ?_ _ _ _ (fun _ _ => ?_) (by with_reducible assumption)
    | with_reducible refine Keeps.snd (by with_reducible assumption) ?_
    | (intro _)
    | split
    | dsimp only

theorem keeps_writeTallyOp {s t : State} (h : Keeps s t) (a0) (a1) : Keeps s (writeTallyOp a0 a1 t) := by
  unfold writeTallyOp
  iterate 40 try any_goals first
    | with_reducible assumption
    | with_reducible refine keeps_tallyAnswer ?_ ..
    | with_reducible refine keeps_after ?_ _ (fun _ _ => ?_)
    | with_reducible refine keeps_execTallyAlloc ?_ _ _ _  (by with_reducible assumption)
    | with_reducible refine keeps_execTallyFree ?_ _ _  (by with_reducible assumption)
    | with_reducible refine keeps_execTallySet ?_ _ _  (by with_reducible assumption)
    | with_reducible refine keeps_execTallyRead ?_ _ _  (by with_reducible assumption)
    | with_reducible refine keeps_tallyCommand ?_ _ _ _ (fun _ _ => ?_) (by with_reducible assumption)
    | with_reducible refine Keeps.snd (by with_reducible assumption) ?_
    | (intro _)
    | split
    | dsimp only

theorem keeps_writeKeyOp {s t : State} (h : Keeps s t) (a0) (a1) : Keeps s (writeKeyOp a0 a1 t) := by
  unfold writeKeyOp
  iterate 40 try any_goals first
    | with_reducible assumption
    | with_reducible refine keeps_keyAnswer ?_ ..
    | with_reducible refine keeps_after ?_ _ (fun _ _ => ?_)
    | with_reducible refine keeps_execKeyLoad ?_ _ _  (by with_reducible assumption)
    | with_reducible refine keeps_execKeyErase ?_ _ _  (by with_reducible assumption)
    | with_reducible refine keeps_execKeyRead ?_ _ _  (by with_reducible assumption)
    | with_reducible refine Keeps.snd (by with_reducible assumption) ?_
    | (intro _)
    | split
    | dsimp only

theorem keeps_writeShare {s t : State} (h : Keeps s t) (a0) (a1) (a2) : Keeps s (writeShare a0 a1 a2 t) := by
  unfold writeShare
  iterate 40 try any_goals first
    | with_reducible assumption
    | with_reducible refine keeps_modQueue ?_ ..
    | with_reducible refine Keeps.snd (by with_reducible assumption) ?_
    | (intro _)
    | split
    | dsimp only

theorem keeps_writeInstCnt {s t : State} (h : Keeps s t) (a0) (a1) : Keeps s (writeInstCnt a0 a1 t) := by
  unfold writeInstCnt
  iterate 40 try any_goals first
    | with_reducible assumption
    | with_reducible refine keeps_modInst ?_ ..
    | with_reducible refine Keeps.snd (by with_reducible assumption) ?_
    | (intro _)
    | split
    | dsimp only

theorem keeps_writePage {s t : State} (h : Keeps s t) (a0) (a1) (a2) (a3) : Keeps s (writePage a0 a1 a2 a3 t) := by
  unfold writePage
  iterate 40 try any_goals first
    | with_reducible assumption
    | with_reducible refine keeps_writeInstCnt ?_ ..
    | with_reducible refine keeps_modRegs ?_ ..
    | with_reducible refine keeps_writeQcOp ?_ ..
    | with_reducible refine keeps_writeLigOp ?_ ..
    | with_reducible refine keeps_writeShare ?_ ..
    | with_reducible refine keeps_modQueue ?_ ..
    | with_reducible refine keeps_writeTallyOp ?_ ..
    | with_reducible refine keeps_writeKeyOp ?_ ..
    | with_reducible refine keeps_after ?_ _ (fun _ _ => ?_)
    | with_reducible refine keeps_execTblSync ?_ _ _  (by with_reducible assumption)
    | with_reducible refine keeps_execQsCommit ?_ _  (by with_reducible assumption)
    | with_reducible refine Keeps.snd (by with_reducible assumption) ?_
    | (intro _)
    | split
    | dsimp only

theorem keeps_shadowTick {s t : State} (h : Keeps s t) (a0) (a1) : Keeps s (shadowTick a0 a1 t) := by
  unfold shadowTick
  iterate 40 try any_goals first
    | with_reducible assumption
    | with_reducible refine keeps_modQuoin ?_ ..
    | with_reducible refine Keeps.snd (by with_reducible assumption) ?_
    | (intro _)
    | split
    | dsimp only

theorem keeps_shadowNow {s t : State} (h : Keeps s t) (a0) (a1) : Keeps s (shadowNow a0 a1 t) := by
  unfold shadowNow
  iterate 40 try any_goals first
    | with_reducible assumption
    | with_reducible refine keeps_modQuoin ?_ ..
    | with_reducible refine Keeps.snd (by with_reducible assumption) ?_
    | (intro _)
    | split
    | dsimp only

theorem keeps_writeBootGo {s t : State} (h : Keeps s t) (a0) : Keeps s (writeBootGo a0 t) := by
  unfold writeBootGo
  iterate 40 try any_goals first
    | with_reducible assumption
    | with_reducible refine keeps_goResult ?_ ..
    | with_reducible refine keeps_after ?_ _ (fun _ _ => ?_)
    | with_reducible refine keeps_execBootFirmware ?_  (by with_reducible assumption)
    | with_reducible refine keeps_execBootForme ?_  (by with_reducible assumption)
    | with_reducible refine keeps_execBootCertChain ?_  (by with_reducible assumption)
    | with_reducible refine keeps_execBootPlates ?_  (by with_reducible assumption)
    | with_reducible refine keeps_execBootDiscard ?_  (by with_reducible assumption)
    | with_reducible refine Keeps.snd (by with_reducible assumption) ?_
    | (intro _)
    | split
    | dsimp only

theorem keeps_writeTickCtrl {s t : State} (h : Keeps s t) (a0) : Keeps s (writeTickCtrl a0 t) := by
  unfold writeTickCtrl
  iterate 40 try any_goals first
    | with_reducible assumption
    | with_reducible refine keeps_modTime ?_ ..
    | with_reducible refine keeps_after ?_ _ (fun _ _ => ?_)
    | with_reducible refine keeps_execTickArm ?_  (by with_reducible assumption)
    | with_reducible refine keeps_execTickDisarm ?_  (by with_reducible assumption)
    | with_reducible refine Keeps.snd (by with_reducible assumption) ?_
    | (intro _)
    | split
    | dsimp only

theorem keeps_writeTickSlip {s t : State} (h : Keeps s t) (a0) : Keeps s (writeTickSlip a0 t) := by
  unfold writeTickSlip
  iterate 40 try any_goals first
    | with_reducible assumption
    | with_reducible refine keeps_modTime ?_ ..
    | with_reducible refine Keeps.snd (by with_reducible assumption) ?_
    | (intro _)
    | split
    | dsimp only

theorem keeps_writeQuoin {s t : State} (h : Keeps s t) (a0) : Keeps s (writeQuoin a0 t) := by
  unfold writeQuoin
  iterate 40 try any_goals first
    | with_reducible assumption
    | with_reducible refine Keeps.when_ ?_ _ (fun _ _ => ?_)
    | with_reducible refine keeps_cancelCommit ?_ ..
    | with_reducible refine keeps_commitTick ?_ ..
    | with_reducible refine keeps_commitNow ?_ ..
    | with_reducible refine Keeps.snd (by with_reducible assumption) ?_
    | (intro _)
    | split
    | dsimp only

theorem keeps_writeMemErr {s t : State} (h : Keeps s t) (a0) (a1) : Keeps s (writeMemErr a0 a1 t) := by
  unfold writeMemErr
  iterate 40 try any_goals first
    | with_reducible assumption
    | with_reducible refine keeps_modTier ?_ _ ?_
    | with_reducible refine Keeps.snd (by with_reducible assumption) ?_
    | with_reducible refine wf_wrBytes _ _ ?_
    | with_reducible refine wf_clearBytes _ _ ?_
    | with_reducible refine wf_touch _ ?_
    | with_reducible refine wf_touches _ ?_
    | rw [setBad_mem]
    | (intro _; simp_all; done)
    | (intro _)
    | split
    | dsimp only

theorem keeps_writeCflCtrl {s t : State} (h : Keeps s t) (a0) : Keeps s (writeCflCtrl a0 t) := by
  unfold writeCflCtrl
  iterate 40 try any_goals first
    | with_reducible assumption
    | with_reducible refine keeps_modGalley ?_ ?_
    | with_reducible refine Keeps.snd (by with_reducible assumption) ?_
    | with_reducible refine wf_wrBytes _ _ ?_
    | with_reducible refine wf_clearBytes _ _ ?_
    | with_reducible refine wf_touch _ ?_
    | with_reducible refine wf_touches _ ?_
    | rw [setBad_mem]
    | (intro _; simp_all; done)
    | (intro _)
    | split
    | dsimp only

theorem keeps_writeRoute {s t : State} (h : Keeps s t) (a0) : Keeps s (writeRoute a0 t) := by
  unfold writeRoute
  iterate 40 try any_goals first
    | with_reducible assumption
    | with_reducible refine keeps_writeRouteLoad ?_ ..
    | with_reducible refine keeps_routeAnswer ?_ ..
    | with_reducible refine keeps_after ?_ _ (fun _ _ => ?_)
    | with_reducible refine keeps_execRouteLoad ?_ _  (by with_reducible assumption)
    | with_reducible refine keeps_execRouteReady ?_ _  (by with_reducible assumption)
    | with_reducible refine Keeps.snd (by with_reducible assumption) ?_
    | (intro _)
    | split
    | dsimp only

theorem keeps_writeRoceOp {s t : State} (h : Keeps s t) (a0) : Keeps s (writeRoceOp a0 t) := by
  unfold writeRoceOp
  iterate 40 try any_goals first
    | with_reducible assumption
    | with_reducible refine keeps_roceAnswer ?_ ..
    | with_reducible refine keeps_after ?_ _ (fun _ _ => ?_)
    | with_reducible refine keeps_execRoceConnLoad ?_ _  (by with_reducible assumption)
    | with_reducible refine keeps_execRoceConnClear ?_ _  (by with_reducible assumption)
    | with_reducible refine Keeps.snd (by with_reducible assumption) ?_
    | (intro _)
    | split
    | dsimp only

theorem keeps_writeMgmtCtrl {s t : State} (h : Keeps s t) (a0) : Keeps s (writeMgmtCtrl a0 t) := by
  unfold writeMgmtCtrl
  iterate 40 try any_goals first
    | with_reducible assumption
    | with_reducible refine keeps_modEther ?_ ..
    | with_reducible refine Keeps.snd (by with_reducible assumption) ?_
    | (intro _)
    | split
    | dsimp only

theorem keeps_writeFevStatus {s t : State} (h : Keeps s t) (a0) : Keeps s (writeFevStatus a0 t) := by
  unfold writeFevStatus
  iterate 40 try any_goals first
    | with_reducible assumption
    | with_reducible refine keeps_modFaults ?_ ?_ ?_ ?_
    | with_reducible refine Keeps.snd (by with_reducible assumption) ?_
    | (simp; done)
    | (intro _; simp_all; done)
    | (simp_all; done)
    | (intro _)
    | split
    | dsimp only

theorem keeps_writePowerCtrl {s t : State} (h : Keeps s t) (a0) : Keeps s (writePowerCtrl a0 t) := by
  unfold writePowerCtrl
  iterate 40 try any_goals first
    | with_reducible assumption
    | with_reducible refine keeps_modPower ?_ ?_
    | with_reducible refine keeps_powerAnswer ?_ ..
    | with_reducible refine keeps_after ?_ _ (fun _ _ => ?_)
    | with_reducible refine keeps_execKeepRequest ?_  (by with_reducible assumption)
    | with_reducible refine keeps_execWakeRequest ?_  (by with_reducible assumption)
    | with_reducible refine Keeps.snd (by with_reducible assumption) ?_
    | (simp; done)
    | (intro _; simp_all; done)
    | (simp_all; done)
    | (intro _)
    | split
    | dsimp only

theorem keeps_writeBarReg {s t : State} (h : Keeps s t) (a0) (a1) : Keeps s (writeBarReg a0 a1 t) := by
  unfold writeBarReg
  iterate 40 try any_goals first
    | with_reducible assumption
    | with_reducible exact id
    | with_reducible refine keeps_modBoot ?_ ..
    | with_reducible refine keeps_writeBootGo ?_ ..
    | with_reducible refine keeps_writeTickCtrl ?_ ..
    | with_reducible refine keeps_shadowNow ?_ ..
    | with_reducible refine keeps_shadowTick ?_ ..
    | with_reducible refine keeps_writeTickSlip ?_ ..
    | with_reducible refine keeps_writeQuoin ?_ ..
    | with_reducible refine keeps_modComparator ?_ ..
    | with_reducible refine keeps_modMisc ?_ ..
    | with_reducible refine keeps_writeMemErr ?_ ..
    | with_reducible refine keeps_modGalley ?_ ?_
    | with_reducible refine keeps_writeCflCtrl ?_ ..
    | with_reducible refine keeps_writeRoute ?_ ..
    | with_reducible refine keeps_modFabric ?_ ?_
    | with_reducible refine keeps_modDlv ?_ ..
    | with_reducible refine keeps_modEther ?_ ..
    | with_reducible refine keeps_writeRoceOp ?_ ..
    | with_reducible refine keeps_writeMgmtCtrl ?_ ..
    | with_reducible refine keeps_modPort ?_ ..
    | with_reducible refine keeps_modHatch ?_ ..
    | with_reducible refine keeps_writeFevStatus ?_ ..
    | with_reducible refine keeps_writePowerCtrl ?_ ..
    | with_reducible refine keeps_modSteward ?_ ..
    | with_reducible refine keeps_stwGo ?_ ..
    | with_reducible refine keeps_after ?_ _ (fun _ _ => ?_)
    | with_reducible refine keeps_execGalleyWinWrite ?_ _ _  (by with_reducible assumption)
    | with_reducible refine keeps_execEpBind ?_ _  (by with_reducible assumption)
    | with_reducible refine keeps_execEpSync ?_ _  (by with_reducible assumption)
    | with_reducible refine keeps_execRouteData1Write ?_ _  (by with_reducible assumption)
    | with_reducible refine keeps_execLedgerAck ?_ _  (by with_reducible assumption)
    | with_reducible refine keeps_execFevRiWrite ?_ _  (by with_reducible assumption)
    | with_reducible refine keeps_execFaultForce ?_ _  (by with_reducible assumption)
    | with_reducible refine keeps_execFaultInject ?_ _  (by with_reducible assumption)
    | with_reducible refine Keeps.snd (by with_reducible assumption) ?_
    | with_reducible refine wf_wrBytes _ _ ?_
    | with_reducible refine wf_clearBytes _ _ ?_
    | with_reducible refine wf_touch _ ?_
    | with_reducible refine wf_touches _ ?_
    | rw [setBad_mem]
    | (intro _; simp_all; done)
    | (simp; done)
    | (intro _; simp_all; done)
    | (simp_all; done)
    | (intro _)
    | split
    | dsimp only
    | with_reducible refine Keeps.updAll ?_ ?_ ?_ ?_ ?_ ?_ ?_ ?_ ?_ ?_ ?_ ?_ ?_
    | (simp; done)
    | (simp_all; done)

theorem keeps_writePageAt {s t : State} (h : Keeps s t) (a0) (a1) (a2) (a3) : Keeps s (writePageAt a0 a1 a2 a3 t) := by
  unfold writePageAt
  iterate 40 try any_goals first
    | with_reducible assumption
    | with_reducible refine keeps_writePage ?_ ..
    | with_reducible refine Keeps.snd (by with_reducible assumption) ?_
    | (intro _)
    | split
    | dsimp only

theorem keeps_writeBar0 {s t : State} (h : Keeps s t) (a0) (a1) : Keeps s (writeBar0 a0 a1 t) := by
  unfold writeBar0
  iterate 40 try any_goals first
    | with_reducible assumption
    | with_reducible refine keeps_writePageAt ?_ ..
    | with_reducible refine keeps_writeBarReg ?_ ..
    | with_reducible refine Keeps.snd (by with_reducible assumption) ?_
    | (intro _)
    | split
    | dsimp only

theorem keeps_writeConfig {s t : State} (h : Keeps s t) (a0) (a1) (a2) : Keeps s (writeConfig a0 a1 a2 t) := by
  unfold writeConfig
  iterate 40 try any_goals first
    | with_reducible assumption
    | with_reducible refine keeps_modFn ?_ ..
    | with_reducible refine keeps_modHatch ?_ ..
    | with_reducible refine keeps_vfEnableClear ?_ ..
    | with_reducible refine keeps_flushPending ?_ ..
    | with_reducible refine keeps_unmask ?_ ..
    | with_reducible refine Keeps.snd (by with_reducible assumption) ?_
    | (intro _)
    | split
    | dsimp only

theorem keeps_writeHostMemory {s t : State} (h : Keeps s t) (a0) (a1) (a2) : Keeps s (writeHostMemory a0 a1 a2 t) := by
  unfold writeHostMemory
  iterate 40 try any_goals first
    | with_reducible assumption
    | with_reducible refine keeps_putHost ?_ ..
    | with_reducible refine Keeps.snd (by with_reducible assumption) ?_
    | (intro _)
    | split
    | dsimp only

theorem keeps_writeHostMap {s t : State} (h : Keeps s t) (a0) (a1) (a2) : Keeps s (writeHostMap a0 a1 a2 t) := by
  unfold writeHostMap
  iterate 40 try any_goals first
    | with_reducible assumption
    | with_reducible exact id
    | with_reducible refine Keeps.snd (by with_reducible assumption) ?_
    | (intro _)
    | split
    | dsimp only
    | with_reducible refine Keeps.updAll ?_ ?_ ?_ ?_ ?_ ?_ ?_ ?_ ?_ ?_ ?_ ?_ ?_
    | (simp; done)
    | (simp_all; done)

theorem keeps_registerWrite {s t : State} (h : Keeps s t) (a0) (a1) : Keeps s (registerWrite a0 a1 t) := by
  unfold registerWrite
  iterate 40 try any_goals first
    | with_reducible assumption
    | with_reducible refine keeps_writeBar0 ?_ ..
    | with_reducible refine keeps_writePageAt ?_ ..
    | with_reducible refine keeps_writeConfig ?_ ..
    | with_reducible refine keeps_writeHostMemory ?_ ..
    | with_reducible refine keeps_writeHostMap ?_ ..
    | with_reducible refine Keeps.snd (by with_reducible assumption) ?_
    | (intro _)
    | split
    | dsimp only

theorem keeps_execRegisterWrite {s t u : State} (h : Keeps s t) (a0) (a1) (he : execRegisterWrite a0 a1 t = .next u) : Keeps s u := by
  unfold execRegisterWrite at he
  · injection he with he
    subst he
    iterate 40 try any_goals first
      | with_reducible assumption
      | with_reducible refine keeps_registerWrite ?_ ..
      | with_reducible refine Keeps.snd (by with_reducible assumption) ?_
      | (intro _)
      | split
      | dsimp only

end Sys2Proof.Machine
end

