-- ==== Sys2Proof/Laws/RegMap.lean ====
section
/-! SUPPORT. The register map read both ways (22_register_summary.md R501, R502), and what an offset of BAR0 reads. -/
namespace Sys2Proof.Machine

/-- A member of a repeated set stands at its base plus the stride times its number. -/
theorem setIndex_at (b st n : Nat) (k : Fin n) (h : 0 < st) : setIndex b st n (b + st * k.val) = some k := by
  have e : (b + st * k.val - b) / st = k.val := by rw [Nat.add_sub_cancel_left, Nat.mul_div_cancel_left _ h]
  unfold setIndex
  simp only [e, k.isLt, dite_true, if_true]

/-- Only there. -/
theorem setIndex_off (b st n off : Nat) (k : Fin n) (h : setIndex b st n off = some k) : off = b + st * k.val := by
  unfold setIndex at h
  simp only at h
  split at h
  · rename_i h1
    split at h
    · rename_i h2; cases h; exact h2
    · cases h
  · cases h

/-- The comparators. -/
theorem bar_all_cmp : ∀ k : Fin 8, barRegAt (0x20100 + 0x20 * k.val) = some (.cmpCtrl k) ∧ barRegAt
    (0x20108 + 0x20 * k.val) = some (.cmpValue k) ∧ barRegAt (0x20110 + 0x20 * k.val) = some
    (.cmpPeriod k) := by decide +kernel

/-- The conflict counters. -/
theorem bar_all_cfl : ∀ k : Fin 128, barRegAt (0x30400 + 8 * k.val) = some (.galleyCfl k) := by decide +kernel

/-- The registers of the ports. -/
theorem bar_all_port : ∀ p : Fin 48, barRegAt (0x51000 + 0x40 * p.val) = some (.portSts p) ∧ barRegAt
    (0x51008 + 0x40 * p.val) = some (.portErr p) ∧ barRegAt (0x51010 + 0x40 * p.val) = some (.portDrop p) ∧ barRegAt
    (0x51018 + 0x40 * p.val) = some (.ethCtrl p) ∧ barRegAt (0x51020 + 0x40 * p.val) = some (.ethAddr p) ∧ barRegAt
    (0x51028 + 0x40 * p.val) = some (.ethErr p) ∧ barRegAt (0x51030 + 0x40 * p.val) = some (.ethDrop p) := by decide +kernel

/-- Below its base and above its last member a set has none. -/
theorem setIndex_none (b st n off : Nat) (h0 : 0 < st) (h : off < b ∨ b + st * n ≤ off) : setIndex b st n off = none := by
  unfold setIndex
  simp only
  split
  · rename_i hk
    split
    · rename_i ho
      have h1 := Nat.le_add_right b (st * ((off - b) / st))
      rcases h with h | h
      · omega
      · have := Nat.mul_lt_mul_of_pos_left hk h0
        omega
    · rfl
  · rfl

/-- No single register stands among the event entries. -/
theorem singles_off : ∀ r ∈ barSingles, r.offset < 0x72000 ∨ 0x80000 ≤ r.offset := by decide

/-- The registers of the hatches. -/
theorem bar_all_hatch : ∀ h : Fin 4, barRegAt (0x60000 + 0x20 * h.val) = some (.hatchCtrl h) ∧ barRegAt
    (0x60008 + 0x20 * h.val) = some (.hatchSts h) ∧ barRegAt (0x60010 + 0x20 * h.val) = some
    (.hatchErr h) := by decide +kernel

/-- The ledger. -/
theorem bar_all_ledger : ∀ c : Fin 16, barRegAt (0x70100 + 0x20 * c.val) = some (.ledgerFirst c) ∧ barRegAt
    (0x70108 + 0x20 * c.val) = some (.ledgerDetail c) ∧ barRegAt (0x70110 + 0x20 * c.val) = some
    (.ledgerSum c) := by decide +kernel

/-- The event ring. -/
theorem bar_all_fev (k : Fin 1024) : barRegAt (0x72000 + 8 * k.val) = some (.fevEntry k) := by
  have e : (barSingles.find? fun r => r.offset == 0x72000 + 8 * k.val) = none := by
    rw [List.find?_eq_none]
    intro r hr
    have := singles_off r hr
    have hk := k.isLt
    simp only [beq_iff_eq]
    omega
  have n (b st m : Nat) (h0 : 0 < st) (h : b + st * m ≤ 0x72000) : setIndex b st m (0x72000 + 8 * k.val) = none :=
    setIndex_none _ _ _ _ h0 (.inr (by omega))
  simp only [barRegAt, e, barSets, setIndex_at 0x72000 8 1024 k (by decide)]
  rw [n 0x20100 0x20 8 (by decide) (by decide), n 0x20108 0x20 8 (by decide) (by decide), n 0x20110 0x20 8 (by decide) (by decide), n 0x30400 8 128 (by decide) (by decide),
    n 0x51000 0x40 48 (by decide) (by decide), n 0x51008 0x40 48 (by decide) (by decide), n 0x51010 0x40 48 (by decide) (by decide), n 0x51018 0x40 48 (by decide) (by decide),
    n 0x51020 0x40 48 (by decide) (by decide), n 0x51028 0x40 48 (by decide) (by decide), n 0x51030 0x40 48 (by decide) (by decide), n 0x60000 0x20 4 (by decide) (by decide),
    n 0x60008 0x20 4 (by decide) (by decide), n 0x60010 0x20 4 (by decide) (by decide), n 0x70100 0x20 16 (by decide) (by decide), n 0x70108 0x20 16 (by decide) (by decide),
    n 0x70110 0x20 16 (by decide) (by decide)]
  rfl

/-- The offset of a register of BAR0 leads to it. -/
theorem barRegAt_offset (r : BarReg) : barRegAt r.offset = some r := by
  cases r
  case cmpCtrl k => exact (bar_all_cmp k).1
  case cmpValue k => exact (bar_all_cmp k).2.1
  case cmpPeriod k => exact (bar_all_cmp k).2.2
  case galleyCfl k => exact bar_all_cfl k
  case portSts p => exact (bar_all_port p).1
  case portErr p => exact (bar_all_port p).2.1
  case portDrop p => exact (bar_all_port p).2.2.1
  case ethCtrl p => exact (bar_all_port p).2.2.2.1
  case ethAddr p => exact (bar_all_port p).2.2.2.2.1
  case ethErr p => exact (bar_all_port p).2.2.2.2.2.1
  case ethDrop p => exact (bar_all_port p).2.2.2.2.2.2
  case hatchCtrl h => exact (bar_all_hatch h).1
  case hatchSts h => exact (bar_all_hatch h).2.1
  case hatchErr h => exact (bar_all_hatch h).2.2
  case ledgerFirst c => exact (bar_all_ledger c).1
  case ledgerDetail c => exact (bar_all_ledger c).2.1
  case ledgerSum c => exact (bar_all_ledger c).2.2
  case fevEntry k => exact bar_all_fev k
  all_goals rfl

/-- Where an offset leads is a register of that offset. -/
theorem offset_barRegAt (off : Nat) (q : BarReg) (h : barRegAt off = some q) : q.offset = off := by
  unfold barRegAt at h
  split at h
  · rename_i r hr
    cases h
    have := List.find?_some hr
    simpa using this
  · simp only [List.findSome?_eq_some_iff, id_eq] at h
    obtain ⟨l1, a, l2, h1, h2, -⟩ := h
    have hm : a ∈ barSets off := by rw [h1]; simp
    subst h2
    simp only [barSets, List.mem_append, List.mem_cons, List.not_mem_nil, or_false] at hm
    clear h1
    rcases hm with (((hm | hm | hm | hm) | (hm | hm | hm | hm | hm | hm | hm)) | (hm | hm | hm)) | (hm | hm | hm | hm) <;>
      (obtain ⟨k, hk, rfl⟩ := Option.map_eq_some_iff.mp hm.symm
       exact (setIndex_off _ _ _ _ _ hk).symm)

/-- The sets of four of a page. -/
theorem page_all4 : ∀ k : Fin 4, pageRegAt (0x1228 + 8 * k.val) = some (.tblRdData k) ∧ pageRegAt
    (0x2000 + 8 * k.val) = some (.keyData k) := by decide

/-- The set of three. -/
theorem page_all3 : ∀ k : Fin 3, pageRegAt (0x1708 + 8 * k.val) = some (.collInfo k) := by decide

/-- The offset of a register of a page leads to it. -/
theorem pageRegAt_offset (r : PageReg) : pageRegAt r.offset = some r := by
  cases r
  case tblRdData k => exact (page_all4 k).1
  case keyData k => exact (page_all4 k).2
  case collInfo k => exact page_all3 k
  all_goals rfl

/-- Where an offset of a page leads is a register of that offset. -/
theorem offset_pageRegAt (off : Nat) (q : PageReg) (h : pageRegAt off = some q) : q.offset = off := by
  unfold pageRegAt at h
  cases hs : pageSingles.find? fun r => r.offset == off with
  | some r =>
    rw [hs] at h
    have := List.find?_some hs
    cases h
    simpa using this
  | none =>
    rw [hs] at h
    have e1 := fun k => setIndex_off 0x1228 8 4 off k
    have e2 := fun k => setIndex_off 0x1708 8 3 off k
    have e3 := fun k => setIndex_off 0x2000 8 4 off k
    revert h e1 e2 e3
    generalize setIndex 0x1228 8 4 off = a
    generalize setIndex 0x1708 8 3 off = b
    generalize setIndex 0x2000 8 4 off = c
    intro h e1 e2 e3
    cases a with
    | some k => cases h; exact (e1 k rfl).symm
    | none =>
      cases b with
      | some k => cases h; exact (e2 k rfl).symm
      | none =>
        cases c with
        | some k => cases h; exact (e3 k rfl).symm
        | none => cases h

/-- An offset of the live view. -/
theorem live_at (o : Nat) (s : State) (h : o < 0x1000000) : readBar0 (o + 0x2000000) s = readBarAt true o s := by
  have h5 : 0x2000000 ≤ o + 0x2000000 := by omega
  have h6 : o + 0x2000000 - 0x2000000 = o := by omega
  unfold readBar0
  rw [if_pos h5, h6]

/-- A register that answers in keeping too, read at its own offset. -/
theorem read_awake (s : State) (r : BarReg) (h : s.startup ≠ .safe) (hw : wakeAnswers s = true) (hr : r.wakes = true)
    (h1 : ¬ r.offset < 0x10000) (h2 : r.offset < 0x1000000) :
    readBar0 r.offset s = readBarReg false r s := by
  have h3 : ¬ 0x2000000 ≤ r.offset := by omega
  have h4 : ¬ (0x1000000 ≤ r.offset ∧ r.offset < 0x1010000) := by omega
  simp only [readBar0, if_neg h3, readBarAt, if_neg h1, if_neg h4, barRegAt_offset, barReads, if_neg h, hr, if_true, hw]

/-- The same in the live view. -/
theorem read_live (s : State) (r : BarReg) (h : s.startup ≠ .safe) (hw : wakeAnswers s = true) (hr : r.wakes = true)
    (h1 : ¬ r.offset < 0x10000) (h2 : r.offset < 0x1000000) :
    readBar0 (r.offset + 0x2000000) s = readBarReg true r s := by
  have h4 : ¬ (0x1000000 ≤ r.offset ∧ r.offset < 0x1010000) := by omega
  rw [live_at _ _ h2, readBarAt, if_neg h1, if_neg h4, barRegAt_offset]
  simp only [barReads, if_neg h, hr, if_true, hw]

end Sys2Proof.Machine
end

