-- ==== Sys2Proof/Laws/Writes.lean ====
section
/-! SUPPORT. A write through a segment changes tiers, hatches and host memory alone. -/
namespace Sys2Proof.Machine

/-- Nothing but the tiers, the hatches and the host has changed. -/
def MemOnly (s t : State) : Prop :=
  ∃ a b c h m w, t = { s with shelf := a, store := b, cellar := c, hatches := h, host := m, watch := w }

/-- No change. -/
theorem MemOnly.refl (s : State) : MemOnly s s := ⟨_, _, _, _, _, _, rfl⟩

/-- One after the other. -/
theorem MemOnly.trans {s t u : State} (h : MemOnly s t) (k : MemOnly t u) : MemOnly s u := by
  obtain ⟨a, b, c, x, m, w, rfl⟩ := h; obtain ⟨a', b', c', x', m', w', rfl⟩ := k; exact ⟨_, _, _, _, _, _, rfl⟩

/-- A change of a tier. -/
theorem memOnly_modTier (t : Tier) (f : TierSt → TierSt) (s : State) : MemOnly s (modTier t f s) := by
  cases t <;> exact ⟨_, _, _, _, _, _, rfl⟩

/-- Steps that carry an answer along. -/
theorem memOnly_foldl {α β : Type} (f : β × State → α → β × State) (hf : ∀ r x, MemOnly r.2 (f r x).2) (l : List α)
    (r : β × State) :
    MemOnly r.2 (l.foldl f r).2 := by
  induction l generalizing r with
  | nil => exact MemOnly.refl _
  | cons x l ih => exact MemOnly.trans (hf r x) (ih (f r x))

/-- Steps on the state. -/
theorem memOnly_foldl' {α : Type} (f : State → α → State) (hf : ∀ r x, MemOnly r (f r x)) (l : List α) (r : State) :
    MemOnly r (l.foldl f r) := by
  induction l generalizing r with
  | nil => exact MemOnly.refl _
  | cons x l ih => exact MemOnly.trans (hf r x) (ih (f r x))

/-- A write noted for the press operations that run. -/
theorem memOnly_noteWrite (k a n : Nat) (s : State) : MemOnly s (noteWrite k a n s) := by
  unfold noteWrite
  split
  · exact MemOnly.refl _
  · exact ⟨_, _, _, _, _, _, rfl⟩

/-- Bytes of a host. -/
theorem memOnly_putHost (h a : Nat) (bs : List Byte) (s : State) : MemOnly s (putHost h a bs s) := by
  unfold putHost
  exact MemOnly.trans ⟨_, _, _, _, _, _, rfl⟩ (memOnly_noteWrite _ _ _ _)

/-- A corrected line. -/
theorem memOnly_correctLine (t : Tier) (l : Nat) (s : State) : MemOnly s (correctLine t l s).2 := by
  unfold correctLine countCorrection
  dsimp only
  split <;> (dsimp only; exact memOnly_modTier _ _ _)

/-- A row that a whole write frees. -/
theorem memOnly_freedRow (t : Tier) (l : Nat) (s : State) : MemOnly s (freedRow t l s).2 := by
  unfold freedRow
  split <;> dsimp only
  · exact memOnly_modTier _ _ _
  · exact MemOnly.refl _

/-- A line of a tier. -/
theorem memOnly_writeLine (t : Tier) (tw : Bool) (off : Nat) (bs : List Byte) (s : State) : MemOnly s
    (writeLine t tw off bs s).2 := by
  unfold writeLine
  dsimp only
  split
  · exact MemOnly.refl _
  · split
    · dsimp only; exact memOnly_modTier t _ s
    · have h : MemOnly s (if ((badLine (touch off (getTier s t)) (off / 64)).primary == .correctable && !decide (64 ≤ bs.length)) = true
          then correctLine t (off / 64) (modTier t (touch off) s) else ([], modTier t (touch off) s)).2 := by
        split
        · exact MemOnly.trans (memOnly_modTier _ _ _) (memOnly_correctLine _ _ _)
        · dsimp only; exact memOnly_modTier _ _ _
      have k : ∀ (c : Prop) [Decidable c] (u : State), MemOnly u (if c then freedRow t (off / 64) u else ([], u)).2 := by
        intro c _ u
        split
        · exact memOnly_freedRow _ _ _
        · exact MemOnly.refl _
      exact MemOnly.trans h (MemOnly.trans (memOnly_modTier t _ _) (k _ _))

/-- Host memory. -/
theorem memOnly_writeHost (f : Fn) (a : Nat) (bs : List Byte) (s : State) : MemOnly s (writeHost f a bs s).2 := by
  unfold writeHost
  split
  · exact MemOnly.refl _
  · split
    · exact ⟨_, _, _, _, _, _, rfl⟩
    · refine MemOnly.trans (t := cacheAts f a bs.length true s) ?_ ?_
      · unfold cacheAts; split
        · exact ⟨_, _, _, _, _, _, rfl⟩
        · exact MemOnly.refl _
      · unfold putAllowed; split
        · exact memOnly_putHost _ _ _ _
        · refine memOnly_foldl' _ (fun r x => ?_) _ _
          split
          · exact memOnly_putHost _ _ _ _
          · exact MemOnly.refl _

/-- A segment. -/
theorem memOnly_writeSeg (i : Nat) (g : Seg) (a : Nat) (bs : List Byte) (s : State) : MemOnly s (writeSeg i g a bs s).2 := by
  unfold writeSeg
  split
  · unfold writeTier
    refine MemOnly.trans (memOnly_noteWrite (tierCode (tierOfKind g.kind)) (g.target + (a - g.base)) bs.length s) ?_
    refine memOnly_foldl _ (fun r x => ?_) _ (({ fail := none, events := [] }, _) : MemWrite × State)
    exact memOnly_writeLine (tierOfKind g.kind) g.twin x.1 x.2.2 r.2
  · exact memOnly_writeHost _ _ _ _

/-- The instances stay. -/
theorem MemOnly.insts {s t : State} (h : MemOnly s t) : t.insts = s.insts := by obtain ⟨_, _, _, _, _, _, rfl⟩ := h; rfl

end Sys2Proof.Machine
end

