-- ==== Sys2Proof/Tests/Slice0.lean ====
section
/-! SUPPORT. Tests: ill-formed commands that WellFormed refuses; the manual's worked numbers; and, for every clause of a
statement with hypotheses, a state and operands that meet them all (witness_<statement>_<clause>). -/
namespace Sys2Proof.Tests
open Sys2Proof Sys2Proof.Machine
set_option maxRecDepth 100000
set_option Elab.async false
set_option linter.unusedVariables false

/-! ### Well-formedness and worked numbers -/

/-- A docket, a function, a connection and a packet in their ranges. -/
def okDocket : DRef := { inst := 4095, queue := 1048575, slot := 0 }
def okFn : Fn := { hatch := 3, pf := 3, vf := 1024 }
def okKey : ConnKey := { srcDev := 65535, srcEp := 63, dstDev := 65535, dstEp := 63, vc := 8 }
def okPacket : Packet :=
  { vc := 9, half := false, epoch := false, hops := 7, dstDev := 0x25, dstEp := 2, srcDev := 4, srcEp := 2, ptype := 1,
    last := false, notify := true, sealed := false, retx := false, void := false, job := 0x2A01, psn := 0x1000, load := 0,
    msgLen := 16384, pidx := 0, seg := 2, h3 := 0x0003000000040000, body := [] }
def okFrame : Frame := { bytes := List.replicate 14 0, fcs := 0, pcsError := false }

theorem test_wf_accepts : ∀ c ∈ [Instr.copy okDocket, .functionLevelReset okFn, .ackDelayExpiry okKey, .ack okPacket,
    .frameReceive 47 okFrame, .doorbell 4095 1048575, .registerWrite (.bar0 67108856) 0], c.WellFormed := by decide
theorem test_wf_docket : ∀ c ∈ [Instr.copy { okDocket with inst := 4096 }, .fence { okDocket with queue := 1048576 },
    .drainAbort { okDocket with inst := 4096 }, .unimplementedOpcode { okDocket with queue := 1048576 }], ¬ c.WellFormed := by
  decide
theorem test_wf_queue : ∀ c ∈ [Instr.qcCreate 4096 0, .qcArm 0 1048576, .doorbell 4096 0, .scanContinue 0 1048576,
    .releaseWord 4096 0 0, .moderationTimeout 0 1048576, .qsCommit 4096, .resetClearing 4096, .tblSync 4096 0], ¬ c.WellFormed := by
  decide
theorem test_wf_port : ∀ c ∈ [Instr.gateWindowOpen 48 0, .gateWindowClose 0 64, .ptpMessageSend 49, .laneFault 54 (.lostLock 0),
    .spareReq 48 0, .spareAck 0 48, .portRetrain 48, .retryRepeat 48, .portTrainingDone 0 9, .portTrainingDone 48 1,
    .peerId 48 0 0, .peerId 0 65536 0, .peerId 0 0 64, .retry 48 0, .retry 0 1024, .packetRoute 49 0 false 0,
    .packetRoute 0 10 false 0, .packetRoute 0 0 false 7, .staleDiscard 49 0 0, .staleDiscard 0 10 0, .staleDiscard 0 0 7],
    ¬ c.WellFormed := by decide
theorem test_wf_fn : ∀ c ∈ [Instr.functionLevelReset { okFn with hatch := 4 }, .d3hotEntry { okFn with pf := 4 },
    .d0Return { okFn with vf := 1025 }, .msixUnmask { okFn with hatch := 4 } none, .msixUnmask okFn (some 2048),
    .vfEnableClear 4 0, .vfEnableClear 0 4, .atsInvalidate { okFn with pf := 4 } 0 0, .atsInvalidate okFn (2 ^ 52) 0,
    .atsInvalidate okFn 0 (2 ^ 52 + 1)], ¬ c.WellFormed := by decide
theorem test_wf_hatch : ∀ c ∈ [Instr.perstAssert 4 0, .hotReset 4, .hatchLinkDown 4, .l1Wake 4, .hatchLinkUp 4 1 1,
    .hatchLinkUp 0 7 1, .hatchLinkUp 0 1 17, .l0pRequest 4 1, .l0pRequest 0 17, .l1Entry 4 0, .l1Entry 0 3,
    .cellarTrainingDone 4 64 true 0, .cellarTrainingDone 0 64 true (2 ^ 22)], ¬ c.WellFormed := by decide
theorem test_wf_key : ∀ c ∈ [Instr.ackDelayExpiry { okKey with srcDev := 65536 }, .ackDelayExpiry { okKey with srcEp := 64 },
    .ackDelayExpiry { okKey with dstDev := 65536 }, .ackDelayExpiry { okKey with dstEp := 64 },
    .packetEligible { okKey with vc := 4 }, .rtoExpiry { okKey with vc := 9 } 0, .rtoExpiry okKey 16777216,
    .responseRecordExpiry okKey 16, .responseRecordExpiry { okKey with vc := 7 } 0], ¬ c.WellFormed := by decide
theorem test_wf_packet : ∀ p ∈ [{ okPacket with vc := 10 }, { okPacket with hops := 8 }, { okPacket with dstDev := 65536 },
    { okPacket with dstEp := 64 }, { okPacket with srcDev := 65536 }, { okPacket with srcEp := 64 },
    { okPacket with ptype := 256 }, { okPacket with job := 2 ^ 32 }, { okPacket with psn := 2 ^ 24 }, { okPacket with load := 256 },
    { okPacket with msgLen := 2 ^ 31 }, { okPacket with pidx := 2 ^ 21 }, { okPacket with seg := 4 }],
    ¬ (Instr.writePacket p).WellFormed := by decide
theorem test_wf_body : ¬ (Instr.collStep { okPacket with body := List.replicate 4144 0 }).WellFormed := by decide +kernel
theorem test_wf_cell : ∀ c ∈ [Instr.cellReceive 0 { fecOk := true, tag := 0, body := List.replicate 55 0, lane := 0 },
    .cellReceive 48 { fecOk := true, tag := 0, body := List.replicate 56 0, lane := 0 }], ¬ c.WellFormed := by decide
theorem test_wf_frame : ∀ c ∈ [Instr.frameReceive 48 okFrame, .mgmtFrameRx { okFrame with bytes := List.replicate 13 0 },
    .pfcFrameRx 48 [], .pfcFrameRx 0 [(8, 0)], .pfcFrameRx 0 [(0, 65536)], .pfcFrameRx 0 [(0, 1), (0, 2)], .pfcRepeat 48 0,
    .pfcWatchdog 0 8, .roceConnLoad 16384, .arpRequest (2 ^ 32) 0 0, .arpRequest 0 (2 ^ 48) 0, .arpRequest 0 0 (2 ^ 32)],
    ¬ c.WellFormed := by decide
theorem test_wf_long_frame : ¬ (Instr.rawFrameRx 0 { okFrame with bytes := List.replicate 9213 0 }).WellFormed := by
  decide +kernel
theorem test_wf_tables : ∀ c ∈ [Instr.ligLoad 4096 0, .ligClear 0 65536, .keyLoad 4096 0, .keySlotZeroise 0 65536,
    .tallyAlloc 4096 0 false, .tallySet 0 262144, .coordinatorGatherTimeout 4096 0, .laggardQueryTimeout 0 65536,
    .joinHoldExpiry 64 0 0 0, .joinHoldExpiry 0 (2 ^ 32) 0 0, .joinHoldExpiry 0 0 65536 0, .joinHoldExpiry 0 0 0 64],
    ¬ c.WellFormed := by decide
theorem test_wf_units : ∀ c ∈ [Instr.pressUnitFault 100, .pressBlockDispatch 100, .ruzelMismatch 10, .cipherSelfcheckFail 24,
    .comparatorFire 8, .railFault 16 0, .tempSample [], .tempSample (List.replicate 16 256), .spineFlitError 256 0 0,
    .spineFlitError 0 256 0, .spineFlitError 0 0 256, .permitWindowEnd 1048576, .partLoss .shelf 12,
    .scrubPass .shelf (2 ^ 40) .clean .clean, .twinResync (2 ^ 40), .backgroundClear .store (2 ^ 30),
    .galleyTest 8388608 0 .clean none none, .galleyTest 0 8 .clean none none, .galleyTest 0 0 .clean (some 65536) none,
    .galleyTest 0 0 .clean none (some { okDocket with inst := 4096 }), .tierTrainingDone 257 0 true, .tierTrainingDone 0 65536 true],
    ¬ c.WellFormed := by decide
theorem test_wf_write : ∀ c ∈ [Instr.registerWrite (.bar0 67108864) 0, .registerWrite (.page 4096 0) 0,
    .registerWrite (.page 0 65536) 0, .registerWrite (.config { okFn with vf := 1025 } .vfEnable) 0,
    .registerWrite (.config okFn (.msixEntryMask 2048)) 0, .registerWrite (.hostMemory 4 0) 0,
    .registerWrite (.hostMemory 0 (2 ^ 64 - 7)) 0, .registerWrite (.hostMap { okFn with pf := 4 } 0) 0,
    .registerWrite (.hostMap okFn (2 ^ 52)) 0], ¬ c.WellFormed := by decide
theorem test_wf_spdm : ∀ c ∈ [Instr.getVersion (some (2 ^ 32)), .getCertificate none 8 0 0, .getCertificate none 0 65536 0,
    .getCertificate none 0 0 65536, .challenge none 8 (List.replicate 32 0), .challenge none 0 [], .getMeasurements none 256 false [],
    .getMeasurements none 0 true [], .finish (2 ^ 32) [] [], .heartbeat (2 ^ 32), .keyUpdate 0 256, .keyUpdate (2 ^ 32) 1,
    .endSession (2 ^ 32)], ¬ c.WellFormed := by decide
theorem test_wf_steward : ¬ (Instr.instCreate (.mgmtPort 0 (List.replicate 4097 0))).WellFormed := by decide +kernel

/-- The check value of CRC-32 of IEEE 802.3 and of CRC-16/CCITT: the ASCII digits 1 to 9. -/
def digits9 : List Byte := [0x31, 0x32, 0x33, 0x34, 0x35, 0x36, 0x37, 0x38, 0x39]
theorem test_crc32 : crc32 digits9 = 0xCBF43926 := by decide +kernel
theorem test_crc16 : crc16 digits9 = 0x29B1 := by decide +kernel
/-- FIPS 180-4, SHA-256 of "abc". -/
theorem test_sha256 : beNat (sha256 [0x61, 0x62, 0x63]) =
    0xBA7816BF8F01CFEA414140DE5DAE2223B00361A396177A9CB410FF61F20015AD := by decide +kernel
/-- AES-256-GCM with a key, IV, additional data and text of zeros (test case 14 of the GCM
specification, its tag cut to the 96 bits of R439). -/
theorem test_gcm : sealData 1 (List.replicate 32 0) (List.replicate 12 0) [] (List.replicate 16 0) =
    (beBytes 16 0xCEA7403D4D606B6E074EC5D3BAF39D18, beBytes 12 0xD0D1C8A799996BF0265B98B5) := by decide +kernel

/-- The docket of the worked encoding (05_dockets_receipts.md). -/
def workedDocket : List Word := [0x000012340000022D, 0x0000000200004000, 0x00007F0000200000, 0x40000, 0x0C001D, 100, 0, 0]
theorem test_docket_fields : dOp workedDocket = opWrite ∧ dNotify workedDocket = true ∧ dTag workedDocket = 0x1234 ∧
    dLen workedDocket = 16384 ∧ dDeadline workedDocket = 2 ∧ dSrc workedDocket = 0x7F0000200000 ∧ dDst workedDocket = 262144 ∧
    dRank workedDocket = 29 ∧ dWindow workedDocket = 3 := by decide
/-- Its receipt, and the notification of the worked RoCE WRITE (14_ethernet_management.md). -/
def workedReceipt : Receipt :=
  { kind := 0, index := 5, tag := 0x1234, out := settledOk 16384, late := false, tickLo := 1000123, subtick := 3209, signal := true }
theorem test_receipt : receiptWords true workedReceipt = [0x0000123400050001, 0x4000, 0, 0x00000C89000F42BB] := by decide
theorem test_roce_notification : (receiptWords true
    { workedReceipt with kind := 1, index := 3, tag := 0, out := { settledAs stOk 2048 5 with extra := 100 } }).take 3 = [0x30003, 0x0005000000000800, 0x64] := by decide
/-- Its packets 0 and 3 (12_fabric_cells_routing.md), and the tag of the first cell. -/
theorem test_header_first : headerWords okPacket =
    [0x0201020004020025, 0x0000100000002A01, 0x0040000000004000, 0x0003000000040000] := by decide
theorem test_header_last : headerWords { okPacket with psn := 0x1003, pidx := 3, last := true } =
    [0x0301020004020025, 0x0000100300002A01, 0x0040000300004000, 0x0003000000040000] := by decide
theorem test_cells : cellsOf 4096 = 74 ∧ cellsOf (4096 + 8) = 74 := by decide
theorem test_tag : makeTag 1 1 false false false 0 0x155 0x0A2 15 0 0 = 0x0000000F28955009 := by decide
/-- The tile copy of 05_dockets_receipts.md. -/
def tileDocket : List Word := [0, 0x80000, 0, 0x40000F0000, 0, 0x0000008001001000, 0x0000200000001000, 0x0010000000010000]
theorem test_tile_fields : tlRowBytes tileDocket = 4096 ∧ tlRows tileDocket = 16 ∧ tlTiles tileDocket = 8 ∧
    tlDstRow tileDocket = 8192 ∧ tlDstTile tileDocket = 1048576 ∧ tileSpan 16 8192 4096 = 126976 := by decide
/-- The share word of 15_scheduling_shaping.md. -/
theorem test_share : shClass 0x0000000138804001 = 1 ∧ shWeight 0x0000000138804001 = 64 ∧ shRate 0x0000000138804001 = 80000 ∧
    shRate 0x000000009C404001 = 40000 := by decide
/-- PHASE in a ring of 8 slots (04_queues_rings.md). -/
theorem test_phase : phase 3 7 = true ∧ phase 3 8 = false := by decide
/-- The cast of a BF16 block to MXFP8 E4M3 (09_press_arithmetic.md): scale byte and first elements. -/
theorem test_mxfp8 : (let b := encodeBlock 5 rne 0 ([0x42C8, 0xBF33, 0x3C34, 0x4020].map bf16.decode)
    (b.1, b.2.take 4)) = (0x7D, [0x7C, 0xC3, 0x13, 0x52]) := by decide +kernel

/-! ### States -/


/-- A device that runs, as after RAILS_VALID and a forme with no plate of note. -/
def runningState : State := { State.reset with startup := .running }

/-- The same with a tick generator that runs: tick 5 at PTP time 1 s. -/
def tickingState : State :=
  { runningState with
    clk := { mono := 1000000000, ptp := 1000000000, rate := 0, frac := 0 }
    time := { TimeSt.reset with gen := .running, tick := 5, edge := 1000000000, tickCtrl := 0xA03 } }


/-- Plate fields of a full fabric port at 200 Gb/s a lane, alone. -/
def plainPort : PortPlate :=
  { lanes := [0], rate := 200, frame := false, protect := false, buf := [0, 64, 64, 64, 64, 64, 64, 64, 64, 64], xon := [], xoff := [],
    weights := [], rawInst := none, rawWindow := 0, rawSlots := 0, peerDev := 65536, peerPort := 0, ptpRole := 1,
    gates := [[{ start := 2, length := 10, mask := 1 }], []] }

/-- Port 0 is the slave of the time servo, which runs with PTP on port 0; port 1 is a master. -/
def servoState : State :=
  { tickingState with
    plates := { Plates.empty with ports := [plainPort, { plainPort with ptpRole := 2 }] }
    quoin := { Quoin.reset with now := { NowRegs.reset with timeCtrl := 1 } }
    time := { tickingState.time with servo := .locked, lastSync := some 999000000, tickCtrl := 0xA07 } }

/-- The same with the edges of PPS_IN, and the generator stopped. -/
def ppsState : State :=
  { servoState with
    quoin := { Quoin.reset with now := { NowRegs.reset with timeCtrl := 2 } }
    time := { servoState.time with servo := .acquiring, gen := .stopped, lastSync := none } }


/-- A sealed commit of the reset values, for the next edge. -/
def sealedCommit : SealedCommit := { tick := TickRegs.reset, now := NowRegs.reset, atTick := none, notAt := none, since := [] }

/-- The same with a period of 249 µs. -/
def badCommit : SealedCommit := { sealedCommit with tick := { TickRegs.reset with period := 249 } }

def sealedState : State := { runningState with quoin := { Quoin.reset with commit := some sealedCommit } }


/-- A function that the host has enabled, with one MSI-X entry unmasked. -/
def hostFn : FnCfg := { FnCfg.reset with memSpace := true, busMaster := true, msixEn := true, unmasked := [0] }

def pf0 : Fn := { hatch := 0, pf := 0, vf := 0 }

/-- 2 MiB of the host's memory, from address 0. -/
def hostSeg : Seg := { Seg.empty with en := true, rd := true, wr := true, kind := 3, size := 1 }

/-- 8 slots, dockets at 0x2000, receipts at 0x3000, depth 1; weight 1, rate unlimited. -/
def descWords : List Word := [0x2000, 0x3000, 3, 0xFFFFFF0100, 0, 0, 0, 0]

def queue0 : Queue := newQueue (descOf descWords) 0 0xFFFFFF0100

/-- Instance 1, with one segment, a quota of 8 queues and queue 0. -/
def inst1 : Inst :=
  { Inst.empty with
    st := .active
    record := (8 : Word) :: List.replicate 15 0
    ceil := [0xFFFFFF0000, 0xFFFFFF0000, 0xFFFFFF0000, 0xFFFFFF0000]
    segs := hostSeg :: List.replicate 15 Seg.empty
    regs := { PageRegs.reset with qcDesc := 0x1000 }
    queues := [(0, queue0)] }

def slot1 : InstSlot :=
  { inst := 1, pfPage := true, hatch := 0, pf := 0, vf := 0, page := 0, msixBase := 0, msixCount := 4, hatchMask := 1,
    tallyBase := 0, tallySpan := 64 }

/-- A device that runs with instance 1 on physical function 0 of hatch 0; the host holds a descriptor at 0x1000. -/
def tenantState : State :=
  { runningState with
    hatches := { Hatch.reset with link := .up, perst := false } :: List.replicate 3 Hatch.reset
    fns := [(pf0, hostFn)]
    plates := { Plates.empty with slots := [slot1] }
    host := { HostSide.reset with mems := [wrBytes [] 0x1000 (bytesOf descWords), [], [], []] }
    insts := [(1, inst1)] }

/-- The same with queue 0 of instance 1 changed. -/
def withQueue (f : Queue → Queue) : State := { tenantState with insts := [(1, { inst1 with queues := [(0, f queue0)] })] }


/-- The host has posted a COPY docket in slot 0. -/
def readWords : List Word := [0x0000000000000103, 0, 0, 0, 0, 0, 0, 0]

def postedState : State :=
  { tenantState with host := { HostSide.reset with mems := [wrBytes [] 0x2000 (bytesOf readWords), [], [], []] } }

def plainReceipt : Receipt :=
  { kind := 0, index := 0, tag := 7, out := settledAs 1 0 0, late := false, tickLo := 0, subtick := 0, signal := false }


def fetched0 : Fetched := { slot := 0, words := readWords, tick := 0, plate := none }
def fetchedQueue : Queue := { queue0 with fetched := [fetched0], si := 1 }
/-- One docket is fetched. -/
def fetchedState : State := { withQueue fun _ => fetchedQueue with clk := { mono := 1000000, ptp := 1000000, rate := 0, frac := 0 } }
def grantedQueue : Queue := { fetchedQueue with place := .eligible }


/-- A COPY of 64 bytes, a WRITE, a READ and a SEND of 64 bytes to or from rank 1, an ATOMIC, a TILE_COPY of two rows of 32
bytes, a FENCE, an INVALIDATE of slot 0 of queue 0, an unknown opcode, and a raw SEND. -/
def copyWords : List Word := [0x121, 64, 0x4000, 0x5000, 0, 0, 0, 0]
def writeWords : List Word := [0x221, 64, 0x4000, 0x5000, 0x180001, 0, 0, 0]
def getWords : List Word := [0x321, 64, 0x5000, 0x4000, 0x180001, 0, 0, 0]
def sendWords : List Word := [0x421, 64, 0x4000, 0, 0x180001, 0, 0, 0]
def atomicWords : List Word := [0x521, 8, 0, 0x5000, 0x180001, 1, 0, 0]
def tileWords : List Word := [0x621, 64, 0x4000, 0x5000, 0, 0x1000200020, 0x4000000040, 0]
def fenceWords : List Word := [0x721, 0, 0, 0, 0, 0, 0, 0]
def holdWords : List Word := [0x821, 0, 0, 0, 0, 0x1000000001, 0, 0]
def strangeWords : List Word := [0xFF21, 0, 0, 0, 0, 0, 0, 0]
def rawWords : List Word := [0x10421, 64, 0x4000, 0, 1, 0, 0, 0]

/-- The endpoint of a job of two ranks: this device 7 and device 9. -/
def endpoint2 : Endpoint :=
  { valid := true, inst := 1, job := 5, myRank := 0, rankCount := 2, rtAddr := 0, gen := 0,
    ranks := [(0, 7, 2, true), (1, 9, 3, true)] }

/-- A run in slot 0 that has been granted and has started, bound to that endpoint. -/
def runOf0 (w : List Word) : Run :=
  { newRun tenantState 1 0 queue0 0 w 0 false false with started := true, bound := some endpoint2 }

/-- Queue 0 with that run, attached to endpoint 2. -/
def runQueue (w : List Word) : Queue :=
  { queue0 with desc := { queue0.desc with epValid := true, endpoint := 2 }, runs := [runOf0 w], si := 1 }

/-- The docket has been granted; port 0 leads to device 9, port 1 carries frames and delivers raw ones to instance 1. -/
def granted (w : List Word) : State :=
  { withQueue fun _ => runQueue w with
    plates := { Plates.empty with
      slots := [slot1], device := 7, ports := [plainPort, { plainPort with frame := true, rawInst := some 1 }] }
    endpoints := [(2, endpoint2)]
    fabric := { Fabric.reset with
      route0 := [(9, { w0 := 0x100000040, w1 := 0 })]
      ports := { Port.reset with st := .up, lanesUp := [0] } :: { Port.reset with st := .up, lanesUp := [0] } ::
        List.replicate 46 Port.reset } }

def ref0 : DRef := { inst := 1, queue := 0, slot := 0 }

/-- A COPY whose word 1 has a reserved bit, found so at its start. -/
def badWords : List Word := [0x121, 0x80000040, 0x4000, 0x5000, 0, 0, 0, 0]
def badRun : Run := { runOf0 badWords with found := some 1 }
def badQueue : Queue := { runQueue badWords with runs := [badRun] }
def badState : State := { granted badWords with insts := [(1, { inst1 with queues := [(0, badQueue)] })] }


/-- A REDUCE of one source of 64 FP32 values. -/
def reduceWords : List Word := [0x1021, 256, 0x4000, 0x5000, 0, 0, 1, 0]

/-- The run of a press docket, before its operation has begun. -/
def pressRun0 (f : Run → Run) : Run := f { runOf0 reduceWords with started := false }

/-- A device with press units in service, and the REDUCE in a stage of its life. -/
def pressState (f : Run → Run) : State :=
  { withQueue fun _ => { runQueue reduceWords with runs := [pressRun0 f] } with
    ord := 1
    faults := { runningState.faults with units := List.replicate 100 .active }
    galley := { runningState.galley with free := 4096 }
    quoin := { Quoin.reset with now := { NowRegs.reset with permitCtrl := 1000 } } }

def pressQueue (f : Run → Run) : Queue := { runQueue reduceWords with runs := [pressRun0 f] }

/-- A REDUCE with a value in its reserved word 4. -/
def badPressWords : List Word := [0x1021, 256, 0x4000, 0x5000, 0x4000000000000, 0, 1, 0]
def badPressRun : Run := { runOf0 badPressWords with started := false }
def badPressQueue : Queue := { runQueue badPressWords with runs := [badPressRun] }
def badPress : State := { pressState id with insts := [(1, { inst1 with queues := [(0, badPressQueue)] })] }

/-- An EMBED_GATHER of one bag without an index: its offsets stand at 0x4800, its indices at 0x4C00. -/
def bagWords : List Word := [0x11521, 128, 0x200000, 0x5000, 0, 0x4C00, 0x4800, 0x2000000001]
def bagRun : Run := { runOf0 bagWords with started := false, segs := [{ hostSeg with kind := 0, base := 0x200000 }, hostSeg], press := some (newPress 0) }
def bagQueue : Queue := { runQueue bagWords with runs := [bagRun] }
def bagState : State := { pressState id with insts := [(1, { inst1 with queues := [(0, bagQueue)] })] }
/-- The operation waits for its permit. -/
def waiting : Run → Run := fun r => { r with press := some { newPress 0 with stage := .permit } }
def permitWait : PermitWait := { d := ref0, group := 2, since := 0, noted := false }
def waitState : State := { pressState waiting with power := { (pressState waiting).power with waits := [permitWait] } }

/-- A later slice of the REDUCE waits for its permit. -/
def laterPress : PressRun := { newPress 0 with stage := .permit, n := 100, blocks := 2, slices := 2, slice := 1, sliceEnd := 1, doneBlocks := [0] }
def laterRun : Run := pressRun0 fun r => { r with started := true, press := some laterPress }
def laterQueue : Queue := pressQueue fun r => { r with started := true, press := some laterPress }
def laterWait : PermitWait := { permitWait with group := 0 }
def laterState : State :=
  { pressState (fun r => { r with started := true, press := some laterPress }) with
    power := { waitState.power with waits := [laterWait] } }


/-- The end of the REDUCE: its inputs as they stood, and the steps of the end. -/
def endedRun : PressRun :=
  { newPress 0 with stage := .running, n := 100, blocks := 2, sliceEnd := 2, inputs := List.replicate 256 0 }
def endedU : State := modPressRun ref0 0 (fun x => { x with stage := .done, galley := 0, inputs := [] })
  (modGalley (fun g => { g with free := g.free + 0 }) (pressState fun r => { r with started := true, press := some endedRun }))
def endedRead : MemRead × State := readRanges 1 (pressRun0 id).segs [(0x4000, 256)] endedU
def endedWrites : List (Nat × List Byte) × (Nat × Nat) :=
  pressWrites reduceWords none endedRun (pieceInputs reduceWords [] (pieceTotal reduceWords) 0 endedRun.inputs) [] 0
def endedWrite : Option Nat × State := writeRanges 1 (pressRun0 id).segs endedWrites.1 { endedRead.2 with freeCount := endedRead.2.freeCount + 64 }


/-- A run whose outcome is settled, and states in which it ends. -/
def settledRun0 : Run := { runOf0 copyWords with executed := true, outcome := some (settledOk 64) }
def settledQueue : Queue := { runQueue copyWords with runs := [settledRun0] }
def settledState (f : Queue → Queue) : State :=
  { granted copyWords with insts := [(1, { inst1 with queues := [(0, f settledQueue)] })] }

/-- A tick program of one entry, a FENCE for the planned queue 0 of instance 1 at offset 1. -/
def testEntry (w : List Word) : Entry := { offset := 1, inst := 1, queue := 0, words := w }
def progRun (w : List Word) : ProgRun :=
  { entries := [testEntry w, testEntry w], next := 0, edge := 1000000000, tick := 5, delay := 0, lastStart := none, gates := [],
    asked := false, endEdge := none, waited := 0 }
def plannedQueue : Queue := { queue0 with desc := { queue0.desc with planned := true } }
def programState (q : Queue) (w : List Word) : State :=
  { tenantState with
    clk := tickingState.clk
    time := tickingState.time
    insts := [(1, { inst1 with queues := [(0, q)] })]
    runs := [progRun w] }

/-- The FENCE started, and a REDUCE that has asked for its permit. -/
def startedProgram : State :=
  let u := waitPtp 1000000064 (programState plannedQueue fenceWords)
  (loadContext 1 0 (modQueue 1 0 (fun y => { y with runs := y.runs ++ [newRun u 1 0 plannedQueue 0 fenceWords 5 true true] })
    { u with ord := u.ord + 1 })).2
def askedProgram : State :=
  let u := waitPtp 999999864 (programState plannedQueue reduceWords)
  (loadContext 1 0 (modQueue 1 0 (fun y => { y with runs := y.runs ++ [newRun u 1 0 plannedQueue 0 reduceWords 5 true false] })
    { u with ord := u.ord + 1 })).2
def askedEntryState : State :=
  { programState plannedQueue reduceWords with runs := [{ progRun reduceWords with asked := true }] }

/-- A press docket ends before its start. -/
def unstartedRun : Run := { pressRun0 id with outcome := some aborted, executed := true }
def unstartedQueue : Queue := { runQueue reduceWords with runs := [unstartedRun] }
def unstartedEnd : State := { granted copyWords with insts := [(1, { inst1 with queues := [(0, unstartedQueue)] })] }

/-- A fetched docket with a deadline of tick 1, fetched in tick 2; tick 5 runs. -/
def dueWords : List Word := [0x121, 0x100000040, 0x4000, 0x5000, 0, 0, 0, 0]
def dueFetched : Fetched := { slot := 0, words := dueWords, tick := 2, plate := none }
def dueQueue : Queue := { queue0 with fetched := [dueFetched], si := 1 }
def dueState : State := programState dueQueue fenceWords
def dueRun : Run := { newRun tenantState 1 0 queue0 0 [0x1021, 0x100000100, 0x4000, 0x5000, 0, 0, 1, 0] 2 false false with press := some (newPress 0) }
def dueRunQueue : Queue := { queue0 with runs := [dueRun], si := 1 }
def dueRunState : State := programState dueRunQueue fenceWords


/-- Queue 0 names a slot of queue 1. -/
def holdState : State :=
  { granted holdWords with insts := [(1, { inst1 with queues := [(0, runQueue holdWords), (1, queue0)] })] }


/-- Window 6 of instance 1: 64 KiB of the host from 0x8000, for every access. -/
def window6 : Win :=
  { valid := true, rd := true, wr := true, send := true, atom := true, sealMode := 0, endpoint := 2, keySlot := 0,
    notifyQueue := 0, base := 0x8000, length := 65536 }

/-- Device 7 with endpoint 2, window 6 and an outstanding docket. -/
def linked (w : List Word) : State :=
  { granted w with insts := [(1, { inst1 with queues := [(0, runQueue w)], wins := [(6, window6)] })] }

/-- A packet from endpoint 3 of device 9 to endpoint 2 of this device. -/
def packetOf (ptype vc : Nat) (len : Nat) (body : List Byte) : Packet :=
  { vc := vc, half := false, epoch := false, hops := 0, dstDev := 7, dstEp := 2, srcDev := 9, srcEp := 3, ptype := ptype,
    last := true, notify := false, sealed := false, retx := false, void := false, job := 5, psn := 40, load := 0,
    msgLen := len, pidx := 0, seg := 0, h3 := 0x6000000000100, body := body }

/-- The connection from this device to device 9, and one packet sent on it for the docket in slot 0. -/
def key9 (vc : Nat) : ConnKey := { srcDev := 7, srcEp := 2, dstDev := 9, dstEp := 3, vc := vc }
def sent40 : TxPacket :=
  { psn := 40, pidx := 0, sent := true, lastSent := 0, due := 0, resends := 0, lost := false, settled := false,
    sacked := false }
def message40 (ptype : Nat) : TxMsg :=
  { docketMessage (linked writeWords) 1 0 (runOf0 writeWords) ptype 1 6 0x5000 64 none with packets := [sent40] }
def context40 (ptype vc : Nat) (m : TxMsg → TxMsg) : SendCtx :=
  { newTx (linked writeWords) (key9 vc) with nextPsn := 41, msgs := [m (message40 ptype)] }
def sending (w : List Word) (c : SendCtx) : State := { linked w with dlv := { (linked w).dlv with tx := [c] } }

/-- A receive context for the packets above, with its acknowledgement due. -/
def received40 : RecvCtx :=
  { newRx (linked writeWords) (keyOf (packetOf 1 0 8 [])) 39 with
    ackDue := some 5000, record := [{ psn := 30, count := 1, expires := 5000, ptype := 0x44, body := [] }] }
def receiving : State := { linked writeWords with dlv := { (linked writeWords).dlv with rx := [received40] } }

def writeP : Packet := packetOf 1 0 64 (List.replicate 64 7)
def readP : Packet := packetOf 3 0 64 []
def atomP : Packet := packetOf 4 0 8 (wordBytes 5 ++ wordBytes 0 ++ List.replicate 8 0)

/-- TALLY_ADD of 3 to tally 5 here, and to tally 5 of rank 1; TALLY_WAIT for 3 on it. -/
def addWords : List Word := [0x2021, 0, 0, 0, 0, 5, 3, 0]
def farAddWords : List Word := [0x12021, 0, 0, 0, 1, 5, 3, 0]
def waitWords : List Word := [0x2121, 0, 0, 0, 0, 5, 3, 0]

/-- Instance 1 holds tally 5 and 8 tallies in all. -/
def tallied (r : Run) (v : Word) : State :=
  { linked r.words with
    galley := { (linked r.words).galley with tallies := [(5, v)], cflFreeze := true }
    insts := [(1, { inst1 with
      record := (0x20000000008 : Word) :: List.replicate 15 0
      queues := [(0, { runQueue r.words with runs := [r] })], wins := [(6, window6)], tallies := [(5, true)] })] }
def talliedQueue (r : Run) : Queue := { runQueue r.words with runs := [r] }

/-- A started wait of tick 1 with patience 3. -/
def startedWait : Run := { runOf0 waitWords with executed := true, startTick := 1 }

/-- A tally state in which many waits of another queue have started (R291). -/
def manyWaits (n : Nat) : State :=
  let q := tallied (runOf0 waitWords) 3
  { q with insts := [(1, { getInst q 1 with
      queues := [(0, talliedQueue (runOf0 waitWords)), (3, { talliedQueue startedWait with runs := List.replicate n startedWait })] })] }

theorem manyStarted (n : Nat) :
    n ≤ waitsStarted (obtainAts 1 (talliedQueue (runOf0 waitWords)) (runOf0 waitWords) (manyWaits n)) := by
  rw [show obtainAts 1 (talliedQueue (runOf0 waitWords)) (runOf0 waitWords) (manyWaits n) = manyWaits n from rfl]
  unfold waitsStarted
  rw [show allQueues (manyWaits n) = [(1, 0, talliedQueue (runOf0 waitWords)),
    (1, 3, { talliedQueue startedWait with runs := List.replicate n startedWait })] from rfl]
  have e : dOp (runWords { talliedQueue startedWait with runs := List.replicate n startedWait } startedWait) = opTallyWait :=
    (rfl : _ = dOp waitWords).trans (by decide +kernel)
  simp only [sumOf, List.map_cons, List.map_nil, List.foldl_cons, List.foldl_nil, List.filter_replicate, e]
  simp [startedWait, runOf0, newRun]

def addP : Packet := packetOf 0x81 8 12 (leBytes 4 5 ++ wordBytes 3)
def syncMessage40 (ptype : Nat) : TxMsg :=
  { syncMessage (linked farAddWords) (.docket 1 0 0) 5 ptype 0 (leBytes 4 5 ++ wordBytes 3) 1 with packets := [sent40] }
def syncing (ptype : Nat) : State :=
  sending farAddWords { newTx (linked farAddWords) (key9 8) with nextPsn := 41, msgs := [syncMessage40 ptype] }
def replyP (ptype : Nat) (body : List Byte) : Packet := { packetOf ptype 8 body.length body with half := true }


/-- COLL_OPEN of the ranks 0 and 1 with KEY 77 for FP32 sums, COLL_RUN of 8 elements on handle 0, and COLL_CLOSE. -/
def openWords : List Word := [0x1821, 0, 0x4000, 0, 0, 77, 2, 0]
def collRunWords : List Word := [0x1921, 32, 0x4000, 0x5000, 0, 0, 0, 0]
def closeWords : List Word := [0x1A21, 0, 0, 0, 0, 0, 0, 0]

/-- The handle of that open, changed. -/
def coll0 (f : Coll → Coll) : Coll :=
  f (newColl (linked openWords) (runQueue openWords) endpoint2 0 (runOf0 openWords) openWords 0 0 [0, 1])
def opened : Coll → Coll := fun c => { c with st := .open }

/-- Handle 0 stands in instance 1; the list of ranks and the source lie at 0x4000. -/
def collState (w : List Word) (f : Coll → Coll) : State :=
  { linked w with
    host := { HostSide.reset with mems := [wrBytes [] 0x4000 (leBytes 4 0 ++ leBytes 4 1), [], [], []] }
    clk := tickingState.clk
    time := tickingState.time
    insts := [(1, { inst1 with
      record := (8 : Word) :: (0x20000000 : Word) :: List.replicate 14 0
      queues := [(0, runQueue w)], colls := [(0, coll0 f)] })] }

/-- The same before any handle is there. -/
def listState : State :=
  { collState openWords id with insts := [(1, { inst1 with
      record := (8 : Word) :: (0x20000000 : Word) :: List.replicate 14 0, queues := [(0, runQueue openWords)] })] }

/-- Run 0 in progress: 8 elements of zeros, on the ring. -/
def collRun0 : CollRunSt :=
  { number := 0, ord := 0, mode := 0, elements := 8, folds := false, startTick := 1, patience := 3,
    srcBytes := List.replicate 32 0, got := [], final := [], sentTo := [], granted := [], waiting := [], own := [],
    latest := 0, latestBy := 0, earliest := 0, twin := false }
def active (f : CollRunSt → CollRunSt) : Coll → Coll := fun c => { c with st := .open, nextRun := 1, run := some (f collRun0) }

/-- A packet of VC 8 about handle 0 in run 0, and a chunk of piece 1 in ring step 0. -/
def aboutP (ptype : Nat) (body : List Byte) : Packet := { packetOf ptype 8 body.length body with h3 := 77 }
def stepP : Packet :=
  { packetOf 0x10 2 16 (leBytes 4 0 ++ leBytes 4 0 ++ leBytes 8 8 ++ List.replicate 16 0) with h3 := 77 }
def smallP : Packet :=
  { packetOf 0x88 8 32 (leBytes 4 1 ++ leBytes 4 1 ++ leBytes 8 8 ++ List.replicate 16 0) with h3 := 77 }

/-- A laggard query to member 1 is out. -/
def asked : Coll → Coll := fun c => { active id c with query := some (1, 0, [1]) }
def askMessage : TxMsg :=
  { syncMessage (collState collRunWords asked) (.coll 1 0) 5 0x87 77 [] 1 with packets := [sent40] }
def askedState : State :=
  { collState collRunWords asked with dlv := { (linked collRunWords).dlv with
      tx := [{ newTx (linked collRunWords) (key9 8) with nextPsn := 41, msgs := [askMessage] }] } }
/-- A run of 9 elements among three members; a chunk of it, and a bin with one contribution. -/
def threeColl : Coll := { coll0 (active fun r => { r with elements := 9 }) with
  members := [0, 1, 2], places := [(7, 2), (9, 3), (9, 4)] }
def threeState : State := collState collRunWords fun _ => threeColl
def threeChunk : ChunkIn :=
  { ptype := 0x10, step := 0, mode := 0, piece := 1, chunk := 0, elements := 9, run := 0, sender := 2,
    data := List.replicate 12 0, stamps := { latest := 0, by_ := 0, earliest := 0 } }
def bin0 : BinChunk :=
  { run := 0, mode := 0, elements := 9, chunk := 0, acc := .fp [], from_ := [0], latest := 0, latestBy := 0, earliest := 0,
    result := none, sent := [] }

/-- The host's copy of the segment table at 0: generation 1, and segment 0 as it stands. -/
def tableState : State :=
  { tenantState with host := { HostSide.reset with mems := [wrBytes (wrBytes [] 0 [1]) 64 (bytesOf (wordsOfSeg hostSeg)), [], [], []] } }

/-- A binding descriptor at 0, generation 1: endpoint of instance 1, one rank of two, its table at 0x1000. -/
def bindWords : List Word := [0x500001001, 0x80000, 0x1000, 1]
def bindState : State :=
  { tenantState with host := { HostSide.reset with mems := [wrBytes (wrBytes [] 0 (bytesOf bindWords)) 0x1000 (leBytes 4 0 ++ leBytes 4 7), [], [], []] } }

/-- Instance 1 may load 4 ligature entries and 2 keys; the host holds an entry of zeros at 0. -/
def inst4 (f : Inst → Inst) : Inst :=
  f { inst1 with record := [8, (2 : Word) ||| place 4 39 11] ++ List.replicate 14 0,
                 regs := { PageRegs.reset with keyParam := place 1 32 2, keyData := [1, 2, 3, 4] } }
def ligState (f : Inst → Inst) : State := { tenantState with insts := [(1, inst4 f)] }
def slotKey : KeySlot := { key := [], salt := 5, mode := 1, counter := 9, erased := false }


/-- A block of a press operation on unit 5. -/
def flying5 : BlockRun := { block := 0, unit := 5, replay := false }


/-- A device in BARE whose manager is physical function 0 of hatch 0, which the host has enabled. -/
def bareState : State :=
  { State.reset with
    startup := .bare, fns := [(pf0, hostFn)]
    hatches := { Hatch.reset with link := .up, perst := false } :: List.replicate 3 Hatch.reset }


/-- The host's request frame at 0: a command of the steward without payload, its SEQ 0. -/
def frameState (cmd token : Nat) : State :=
  { tenantState with host := { HostSide.reset with mems := [wrBytes [] 0 (bytesOf [BitVec.ofNat 64 cmd, 1, BitVec.ofNat 64 token, 0]), [], [], []] } }

/-- Instance 1 in a reset that is not yet cleared, with a key and an INST_RESET that waits for its answer. -/
def resetState : State :=
  { tenantState with insts := [(1, { inst1 with
      st := .resetting, queues := [], keys := [(1, slotKey)], answers := [(.mailbox, 3, 0)] })] }


/-- Hatch 0 with its link in a state, PERST_N deasserted. -/
def hatchState (l : Link) : State := modHatch 0 (fun x => { x with link := l }) tenantState

/-- Hatch 1 is a cellar hatch with an expander of 1 GiB, its link in a state. -/
def cellarState (l : Link) : State :=
  modHatch 1 (fun x => { x with link := l, perst := false, expander := 1073741824 })
    { tenantState with plates := { tenantState.plates with hatches :=
      [{ role := 0, maxGen := 6, maxWidth := 16, l0pMin := 1, pfCount := 1, totalVfs := [] },
       { role := 1, maxGen := 6, maxWidth := 16, l0pMin := 1, pfCount := 0, totalVfs := [] }] } }

/-- The shelf at work, with granule 0 touched, scrubbed in 24 hours. -/
def scrubState : State :=
  { runningState with
    misc := { runningState.misc with scrubCtrl := 24 }
    shelf := { runningState.shelf with ready := true, capacity := 618475290624, touched := [0] } }

/-- Cellar hatches 1 and 2 are a twin pair, and line 5 is to be resynchronised. -/
def pairState : State :=
  modHatch 2 (fun x => { x with link := .up, perst := false, expander := 1073741824 })
    { cellarState .up with
      plates := { (cellarState .up).plates with
        cellarPair := 1
        hatches := (cellarState .up).plates.hatches ++
          [{ role := 1, maxGen := 6, maxWidth := 16, l0pMin := 1, pfCount := 0, totalVfs := [] }] }
      cellar := { (cellarState .up).cellar with resync := [5] } }


/-- Port 0 with lanes 0 and 1, in service, in a state that a test changes. -/
def portState (x : PortPlate) (f : Port → Port) : State :=
  modPort 0 (fun y => f { y with st := .up, lanesUp := x.lanes }) { runningState with plates := { Plates.empty with ports := [x] } }
def laneState : State := portState { plainPort with lanes := [0, 1] } id
def protectState (f : Port → Port) : State := portState { plainPort with lanes := [0, 1], protect := true } f

/-- A cell of a packet of one cell, its LSN 0. -/
def headTag : Word := makeTag 1 0 true false false 0 0 1023 15 0 0
def headCell : Cell :=
  { fecOk := true, tag := headTag ||| place (cellCrc headTag (List.replicate 56 0)) 48 16, body := List.replicate 56 0,
    lane := 0 }

/-- A packet of this device at the head of its injection, with a route entry and the state of bank 0. -/
def waitingHead : Waiting := { p := writeP, staleAt := 0, output := none, shutAt := none }
def routingState (w0 : Word) (b : BankState) : State :=
  { laneState with fabric := { laneState.fabric with
      inject := [(0, [waitingHead])], route0 := [(7, { w0 := w0, w1 := 0 })], bank0 := b } }


/-- Port 1 in frame mode, in service, with a RoCE connection 5 of queue pair 7 and endpoint 2 with the peer 10.0.0.2. -/
def framePlate : PortPlate :=
  { plainPort with
    frame := true, rawInst := some 1, rawWindow := 6, rawSlots := 2, peerDev := 9, xoff := [8], xon := [4], gates := [] }
def conn5 : RoceConn :=
  newRoce [0x00030009_42000007, 0x3A000100_00000008, 0, place 0x0A000002 0 32 ||| place 1 48 5, 0x0000_00010006, 0, 0, 0]
def etherState (ctrl : Word) (f : Port → Port) : State :=
  { linked writeWords with
    plates := { (linked writeWords).plates with ports := [plainPort, framePlate] }
    fabric := { (linked writeWords).fabric with
      ports := modAt (linked writeWords).fabric.ports 1 fun x => f { x with st := .up, lanesUp := [0], ethCtrl := ctrl } }
    ether := { (linked writeWords).ether with roce := [(5, conn5)] } }

/-- A frame with its FCS, to a destination address. -/
def frameTo (dst : Nat) (rest : List Byte) : Frame :=
  let bs := beBytes 6 dst ++ beBytes 6 2 ++ rest
  { bytes := bs, fcs := BitVec.ofNat 32 (crc32 bs), pcsError := false }
def plainFrame : Frame := frameTo 0xFFFFFFFFFFFF ([0x12, 0x34] ++ List.replicate 46 0)
def ptpFrame : Frame := frameTo 0x011B19000000 ([0x88, 0xF7] ++ List.replicate 46 0)

/-- A RoCE frame from 10.0.0.2 to queue pair 7, PSN 0: an operation and what follows the base transport header. -/
def roceFrame (op : Nat) (rest : List Byte) : Frame :=
  let udp := 8 + 12 + rest.length + 4
  let ip (sum : Nat) : List Byte :=
    [0x45, 0] ++ beBytes 2 (20 + udp) ++ [0, 0, 0x40, 0, 64, 17] ++ beBytes 2 sum ++ [10, 0, 0, 2, 0, 0, 0, 0]
  let bs := [0x08, 0] ++ ip (0xFFFF - fold16 (sum16 (ip 0))) ++ beBytes 2 0xC000 ++ beBytes 2 4791 ++ beBytes 2 udp ++ [0, 0] ++
    bth op 0 7 0 false ++ rest
  let all := (frameTo 0xFFFFFFFFFFFF bs).bytes
  frameTo 0xFFFFFFFFFFFF (bs ++ leBytes 4 (invariantCrc (all ++ [0, 0, 0, 0])))
/-- An RDMA WRITE of 8 bytes to window 6 in one packet. -/
def writeHead : List Byte := beBytes 8 0 ++ beBytes 4 6 ++ beBytes 4 8
def roceWrite : Frame := roceFrame 0x0A (writeHead ++ List.replicate 8 7)

theorem accepts_broadcast {p : Nat} {bs : List Byte} (h : destMac bs = 0xFFFFFFFFFFFF)
    (k : (tagged bs && etherType bs == 0x8100) = false) : acceptsFrame p bs = true := by
  simp only [acceptsFrame, h, k]
  simp
theorem path_roceWrite : pathOf (etherState 2 id) 1 roceWrite = .roce := by
  unfold pathOf
  rw [accepts_broadcast (bs := roceWrite.bytes) (by decide +kernel) (by decide +kernel)]
  decide +kernel
theorem path_plainFrame : pathOf (etherState 2 id) 1 plainFrame = .raw := by
  unfold pathOf
  rw [accepts_broadcast (bs := plainFrame.bytes) (by decide +kernel) (by decide +kernel)]
  decide +kernel

/-- An acknowledgement of PSN 0, and FETCH_ADD of 5 to the first word of window 6. -/
def roceAck : Frame := roceFrame 0x11 [0x1F, 0, 0, 1]
def roceAdd : Frame := roceFrame 0x14 (beBytes 8 0 ++ beBytes 4 6 ++ beBytes 8 5 ++ beBytes 8 0)
theorem path_roceAck : pathOf (etherState 2 id) 1 roceAck = .roce := by
  unfold pathOf
  rw [accepts_broadcast (bs := roceAck.bytes) (by decide +kernel) (by decide +kernel)]
  decide +kernel

/-- The plain frame with another FCS. -/
def flawedFrame : Frame := { plainFrame with fcs := 1 }

/-- The error of a check. -/
def errorOf {a : Type} : Except Nat a → Option Nat
  | .error e => some e
  | .ok _ => none
theorem ok_of {a : Type} {x : Except Nat a} {y : a} (h : x.toOption = some y) : x = .ok y := by
  cases x with
  | error => cases h
  | ok => exact congrArg Except.ok (Option.some.inj h)
theorem error_of {a : Type} {x : Except Nat a} {e : Nat} (h : errorOf x = some e) : x = .error e := by
  cases x with
  | error => exact congrArg Except.error (Option.some.inj h)
  | ok => cases h

/-- A packet has left on connection 5. -/
def etherSending : State :=
  { etherState 2 id with dlv := { (etherState 2 id).dlv with tx := [context40 1 16 id] } }

/-- The manager's memory holds the entry of connection 5 at 0x2000; no connection is loaded. -/
def loadState : State :=
  { etherState 2 id with
    ether := { (etherState 2 id).ether with roce := [], roceAddr := 0x2000 }
    host := { HostSide.reset with mems := [wrBytes [] 0x2000 (bytesOf conn5.words), [], [], []] } }


/-- The management link is up. -/
def mgmtState (f : Ether → Ether) : State := { runningState with ether := f { runningState.ether with mgmtLink := true } }
def arpFrame : Frame :=
  frameTo 0xFFFFFFFFFFFF ([8, 6] ++ beBytes 2 1 ++ beBytes 2 0x0800 ++ [6, 4] ++ beBytes 2 1 ++ List.replicate 40 0)

/-- The responder has negotiated, a chain is installed, and session 4 is established. -/
def session4 : Session := { established := true, requester := [], manager := false, updates := 0 }
def spdmState (f : Spdm → Spdm) : State :=
  { runningState with
    boot := { runningState.boot with chain := some [1, 2, 3] }
    spdm := f { Spdm.reset with versioned := true, capable := true, negotiated := true, sessions := [(4, session4)] } }

/-! ### Witnesses -/

theorem witness_StepRunsFrontCommand_1 : ∃ (c : Instr), ∃ (s : State), ∃ (rest : List Instr), s.pending = c :: rest :=
  ⟨.tickArm, { runningState with pending := [.tickArm] }, [], by decide⟩

theorem witness_StepRunsFrontCommand_2 : ∃ (s : State), s.pending = [] :=
  ⟨runningState, by decide⟩

theorem witness_TicksStart_1 : ∃ (s : State), wakeAnswers s = true ∧ s.time.gen = .stopped ∧ ((s.time.servo = .locked ∨ s.time.servo = .holdover ∨
    fld s.quoin.now.timeCtrl 0 2 = 0)) :=
  ⟨runningState, by decide⟩

theorem witness_TicksStart_2 : ∃ (s : State), wakeAnswers s = true ∧ s.time.gen = .stopped ∧ s.time.first = none ∧ ((¬ (s.time.servo = .locked ∨
    s.time.servo = .holdover ∨ fld s.quoin.now.timeCtrl 0 2 = 0))) :=
  ⟨{ runningState with quoin := { Quoin.reset with now := { NowRegs.reset with timeCtrl := 1 } } }, by decide⟩

theorem witness_TicksStart_3 : ∃ (s : State), wakeAnswers s = true ∧ s.time.gen ≠ .stopped :=
  ⟨tickingState, by decide⟩

theorem witness_TicksStart_4 : ∃ (s : State), wakeAnswers s = true ∧ s.time.gen = .armed :=
  ⟨{ runningState with time := { TimeSt.reset with gen := .armed } }, by decide⟩

theorem witness_TicksStart_5 : ∃ (s : State), wakeAnswers s = true ∧ s.time.gen ≠ .armed :=
  ⟨tickingState, by decide⟩

theorem witness_TicksStart_6 : ∃ (s : State), powered s = true ∧ s.time.gen = .running ∧ s.quoin.commit = none ∧ s.faults.recoveries = [] ∧ ((∀ x ∈
    s.fabric.ports, x.returns = false)) ∧ ((∀ x ∈ s.insts, x.2.shareHeld = false)) :=
  ⟨tickingState, by decide⟩

theorem witness_GateWindowsOpenAndClose_1 : ∃ (s : State), ∃ (p k : Nat), ∃ (w : GateWindow), running s = true ∧ s.time.gen = .running ∧ (gateList s p)[k]? =
    some w ∧ w.length ≠ 0 ∧ s.time.edge + w.start * 64 < nextEdge s ∧ s.clk.ptp < windowEnd s w ∧ (getPort s p).frames =
    [] ∧ p < s.fabric.ports.length :=
  ⟨servoState, 0, 0, { start := 2, length := 10, mask := 1 }, by decide⟩

theorem witness_GateWindowsOpenAndClose_2 : ∃ (s : State), ∃ (p k : Nat), ∃ (w : GateWindow), running s = true ∧ s.time.gen = .running ∧ (gateList s p)[k]? =
    some w ∧ k ∈ (getPort s p).openWindows :=
  ⟨{ servoState with fabric := { Fabric.reset with ports := { Port.reset with openWindows := [0] } :: List.replicate 47 Port.reset } }, 0, 0, { start := 2, length := 10, mask := 1 }, by decide⟩

theorem witness_GateWindowsOpenAndClose_3 : ∃ (s : State), ∃ (p k : Nat), ∃ (w : GateWindow), running s = true ∧ s.time.gen = .running ∧ (gateList s p)[k]? =
    some w ∧ w.length = 0 ∧ (getPort s p).frames = [] :=
  ⟨{ servoState with plates := { Plates.empty with ports := [{ plainPort with gates := [[{ start := 2, length := 0, mask := 1 }], []] }] } }, 0, 0, { start := 2, length := 0, mask := 1 }, by decide⟩

theorem witness_ServoMeasuresAndSlews_1 : ∃ (s : State), servoOn s 2 = true ∧ s.time.gen = .running ∧ ((s.time.lastSync = none ∨ ∃ t, s.time.lastSync = some t
    ∧ t + 500000000 ≤ s.clk.mono)) :=
  ⟨{ ppsState with time := { ppsState.time with gen := .running } }, by decide, by decide, Or.inl rfl⟩

theorem witness_ServoMeasuresAndSlews_2 : ∃ (s : State), servoOn s 2 = true ∧ s.time.servo = .acquiring ∧ s.time.gen = .stopped ∧ s.time.lastSync = none ∧
    2000 < s.clk.ptp % 1000000000 ∧ s.clk.ptp % 1000000000 < 400000000 :=
  ⟨{ ppsState with clk := { mono := 7, ptp := 1000005000, rate := 0, frac := 0 } }, by decide⟩

theorem witness_ServoMeasuresAndSlews_3 : ∃ (s : State), ∃ (p origin : Nat), ∃ (corr : Int), servoOn s 1 = true ∧ slavePort s p = true ∧ s.time.gen = .running :=
  ⟨servoState, 0, 999999900, 0, by decide⟩

theorem witness_PtpMessagesAnswered_1 : ∃ (s : State), ∃ (p req : Nat), powered s = true ∧ ptpRoleOf s p = 2 :=
  ⟨servoState, 1, 9, by decide⟩

theorem witness_PtpMessagesAnswered_2 : ∃ (s : State), ∃ (p req : Nat), powered s = true ∧ ptpRoleOf s p ≠ 0 :=
  ⟨servoState, 1, 9, by decide⟩

theorem witness_PtpMessagesAnswered_3 : ∃ (s : State), ∃ (p : Nat), powered s = true ∧ slavePort s p = true ∧ servoOn s 1 = true :=
  ⟨servoState, 0, by decide⟩

theorem witness_PtpMessagesAnswered_4 : ∃ (s : State), ∃ (p t1 t2 t3 t4 : Nat), powered s = true ∧ slavePort s p = true ∧ s.time.syncRx = some (t2, t1) ∧
    s.time.delayTx = some t3 :=
  ⟨{ servoState with time := { servoState.time with syncRx := some (5, 3), delayTx := some 6 } }, 0, 3, 5, 6, 9, by decide⟩

theorem witness_PtpMessagesAnswered_5 : ∃ (s : State), ∃ (p : Nat), ∃ (m : PtpMsg), cellPort s p = false :=
  ⟨servoState, 48, .general, by decide⟩

theorem witness_PtpMessagesAnswered_6 : ∃ (s : State), ∃ (p : Nat), ∃ (m : PtpMsg), cellPort s p = true ∧ (getPort s p).linkLocal = [] ∧ (getPort s
    p).linked = false ∧ inService (getPort s p) = false ∧ p < s.fabric.ports.length :=
  ⟨servoState, 0, .general, by decide⟩

theorem witness_HoldoverEntered_1 : ∃ (s w : State), powered s = true ∧ s.time.servo = .locked ∧ w = (if fld s.quoin.now.timeCtrl 0 2 = 2 ∧
    s.time.lastSync.isSome = true then waitMono (s.time.lastSync.getD 0 + 3000000000) s else s) ∧ holdoverLimit s ≠ 0 :=
  ⟨servoState, servoState, by decide, by decide, rfl, by decide⟩

theorem witness_HoldoverEntered_2 : ∃ (s w : State), powered s = true ∧ s.time.servo = .locked ∧ w = (if fld s.quoin.now.timeCtrl 0 2 = 2 ∧
    s.time.lastSync.isSome = true then waitMono (s.time.lastSync.getD 0 + 3000000000) s else s) ∧ holdoverLimit s = 0 :=
  ⟨{ servoState with time := { servoState.time with tickCtrl := 7 } }, { servoState with time := { servoState.time with tickCtrl := 7 } }, by decide, by decide, rfl, by decide⟩

theorem witness_HoldoverEntered_3 : ∃ (s : State), ∃ (t : Nat), s.time.holdSince = some t ∧ s.time.servo = .holdover ∧ s.time.holdLatched = false :=
  ⟨{ servoState with time := { servoState.time with servo := .holdover, holdSince := some 3 } }, 3, by decide⟩

theorem witness_HoldoverEntered_4 : ∃ (s : State), powered s = true ∧ bit s.time.tickCtrl 2 = true :=
  ⟨servoState, by decide⟩

theorem witness_QuoinSealsAndWithdraws_1 : ∃ (s : State), ∃ (v : Bool), ∃ (a : BitVec 32), barAnswers s = true ∧ s.quoin.commit = none :=
  ⟨tickingState, true, 9, by decide⟩

theorem witness_QuoinSealsAndWithdraws_2 : ∃ (s : State), ∃ (v : Bool), ∃ (a : BitVec 32), ∃ (c : SealedCommit), barAnswers s = true ∧ s.quoin.commit = some c :=
  ⟨sealedState, true, 9, sealedCommit, by decide⟩

theorem witness_QuoinSealsAndWithdraws_3 : ∃ (s : State), barAnswers s = true :=
  ⟨runningState, by decide⟩

theorem witness_QuoinSealsAndWithdraws_4 : ∃ (s : State), ∃ (c : SealedCommit), barAnswers s = true ∧ s.quoin.commit = some c :=
  ⟨sealedState, sealedCommit, by decide⟩

theorem witness_QuoinSealsAndWithdraws_5 : ∃ (s : State), s.quoin.commit = none :=
  ⟨runningState, by decide⟩

theorem witness_QuoinChecksThenApplies_1 : ∃ (s : State), ∃ (n : NowRegs), ∃ (rest : List NowRegs), ∃ (f : Nat), barAnswers s = true ∧ s.quoin.commitNow = n ::
    rest ∧ nowRange n = some f :=
  ⟨{ runningState with quoin := { Quoin.reset with commitNow := [{ NowRegs.reset with wdogCtrl := 0 }] } }, { NowRegs.reset with wdogCtrl := 0 }, [], 0x70020, by decide⟩

theorem witness_QuoinChecksThenApplies_2 : ∃ (s : State), ∃ (n : NowRegs), ∃ (rest : List NowRegs), barAnswers s = true ∧ s.quoin.commitNow = n :: rest ∧
    nowRange n = none ∧ fld n.timeCtrl 0 2 = fld s.quoin.now.timeCtrl 0 2 :=
  ⟨{ runningState with quoin := { Quoin.reset with commitNow := [{ NowRegs.reset with wdogCtrl := 50 }] } }, { NowRegs.reset with wdogCtrl := 50 }, [], by decide⟩

theorem witness_QuoinChecksThenApplies_3 : ∃ (s : State), ∃ (n : NowRegs), ∃ (rest : List NowRegs), barAnswers s = true ∧ s.quoin.commitNow = n :: rest ∧
    nowRange n = none ∧ fld n.timeCtrl 0 2 ≠ fld s.quoin.now.timeCtrl 0 2 :=
  ⟨{ runningState with quoin := { Quoin.reset with commitNow := [{ NowRegs.reset with timeCtrl := 1 }] } }, { NowRegs.reset with timeCtrl := 1 }, [], by decide⟩

theorem witness_QuoinChecksThenApplies_4 : ∃ (s : State), ∃ (c : SealedCommit), ∃ (r f : Nat), barAnswers s = true ∧ s.quoin.commitNow = [] ∧ s.quoin.commit =
    some c ∧ s.time.gen ≠ .running ∧ c.atTick = none ∧ tickFinding s false (stagedTick s.boot.staged c.tick) (stagedNow
    s.boot.staged c.now) = some (r, f) :=
  ⟨{ sealedState with quoin := { sealedState.quoin with commit := some badCommit } }, badCommit, 1, 0x20010, by decide⟩

theorem witness_QuoinChecksThenApplies_5 : ∃ (s : State), ∃ (c : SealedCommit), s.quoin.commit = some c ∧ c.notAt ≠ some s.time.tick :=
  ⟨sealedState, sealedCommit, by decide⟩

theorem witness_PeriodOutOfRangeRefused_1 : ∃ (s : State), ∃ (c : SealedCommit), (fld c.tick.period 0 20 < 250 ∨ 1000000 < fld c.tick.period 0 20) :=
  ⟨runningState, badCommit, by decide⟩

theorem witness_QueueCommandsAnswer_1 : ∃ (s s1 : State), ∃ (i qi : Nat), ∃ (g : Seg), ∃ (r : MemRead), pageOpen s i = true ∧ qi < 1048576 ∧ (getInst s
    i).st ≠ .resetting ∧ findSeg (getInst s i).segs ((getInst s i).regs.qcDesc.toNat / 64 * 64) 64 true false = some g ∧
    g.kind < 4 ∧ readSeg i g ((getInst s i).regs.qcDesc.toNat / 64 * 64) 64 s = (r, s1) ∧ r.fail = none ∧ r.events = [] :=
  ⟨tenantState, tenantState, 1, 3, hostSeg, { bytes := bytesOf descWords, fail := none, twin := false, events := [] }, by decide⟩

theorem witness_QueueCommandsAnswer_2 : ∃ (s : State), ∃ (i qi : Nat), ∃ (q : Queue), pageOpen s i = true ∧ qi < 1048576 ∧ getQueue s i qi = some q ∧ ((q.st
    = .active ∨ q.st = .error)) :=
  ⟨tenantState, 1, 0, queue0, by decide⟩

theorem witness_QueueCommandsAnswer_3 : ∃ (s : State), ∃ (i qi : Nat), ∃ (q : Queue), pageOpen s i = true ∧ qi < 1048576 ∧ getQueue s i qi = some q ∧ q.st ≠
    .active ∧ q.st ≠ .error :=
  ⟨withQueue fun q => { q with st := .stopped }, 1, 0, { queue0 with st := .stopped }, by decide⟩

theorem witness_QueueCommandsAnswer_4 : ∃ (s : State), ∃ (i qi : Nat), ∃ (q : Queue), pageOpen s i = true ∧ qi < 1048576 ∧ getQueue s i qi = some q :=
  ⟨tenantState, 1, 0, queue0, by decide⟩

theorem witness_QueueCommandsAnswer_5 : ∃ (s : State), ∃ (i qi : Nat), pageOpen s i = true ∧ qi < 1048576 :=
  ⟨tenantState, 1, 0, by decide⟩

theorem witness_QueueResumesAndRearms_1 : ∃ (s : State), ∃ (i qi : Nat), ∃ (q : Queue), pageOpen s i = true ∧ qi < 1048576 ∧ getQueue s i qi = some q ∧ q.st =
    .error :=
  ⟨withQueue fun q => { q with st := .error }, 1, 0, { queue0 with st := .error }, by decide⟩

theorem witness_QueueResumesAndRearms_2 : ∃ (q : Queue), ∃ (slot : Nat), ∃ (fetch : Bool), slot < ringSize q :=
  ⟨queue0, 3, true, by decide⟩

theorem witness_QueueResumesAndRearms_3 : ∃ (s : State), ∃ (i qi : Nat), ∃ (q : Queue), pageOpen s i = true ∧ qi < 1048576 ∧ getQueue s i qi = some q ∧ q.st =
    .held ∧ q.record = [] ∧ ((∀ r ∈ q.runs, r.interrupted = false)) ∧ q.dueWaits = false ∧ q.bell = false ∧ q.heldFrom ≠
    .draining ∧ (getHatch s q.home).link = .up ∧ (getFn s { fnOf s i with hatch := q.home }).memSpace = true ∧ (getFn s
    { fnOf s i with hatch := q.home }).busMaster = true :=
  ⟨withQueue fun q => { q with st := .held }, 1, 0, { queue0 with st := .held }, by decide⟩

theorem witness_QueueResumesAndRearms_4 : ∃ (s : State), ∃ (i qi : Nat), ∃ (q : Queue), pageOpen s i = true ∧ qi < 1048576 ∧ getQueue s i qi = some q ∧ q.st ≠
    .held :=
  ⟨tenantState, 1, 0, queue0, by decide⟩

theorem witness_QueueResumesAndRearms_5 : ∃ (s : State), ∃ (i qi slot : Nat), ∃ (q : Queue), getQueue s i qi = some q ∧ q.fetchStop = some slot ∧ q.st =
    .active ∧ q.fetched = [] ∧ ((∀ r ∈ q.runs, r.started = true)) :=
  ⟨withQueue fun q => { q with fetchStop := some 4 }, 1, 0, 4, { queue0 with fetchStop := some 4 }, by decide⟩

theorem witness_ScansTakeOwnedSlots_1 : ∃ (s : State), ∃ (i qi : Nat), ∃ (q : Queue), s.startup = .running ∧ (slotOf s i).isSome = true ∧ getQueue s i qi =
    some q ∧ ((q.desc.planned = true ∨ q.st = .error ∨ q.st = .draining ∨ q.st = .stopped)) :=
  ⟨withQueue fun q => { q with st := .stopped }, 1, 0, { queue0 with st := .stopped }, by decide⟩

theorem witness_ScansTakeOwnedSlots_2 : ∃ (s : State), ∃ (i qi : Nat), getQueue s i qi = none :=
  ⟨tenantState, 1, 7, by decide⟩

theorem witness_ScansTakeOwnedSlots_3 : ∃ (s : State), ∃ (i qi : Nat), ∃ (q : Queue), s.startup = .running ∧ (slotOf s i).isSome = true ∧ getQueue s i qi =
    some q ∧ q.st = .held ∧ q.desc.planned = false :=
  ⟨withQueue fun q => { q with st := .held }, 1, 0, { queue0 with st := .held }, by decide⟩

theorem witness_ScansTakeOwnedSlots_4 : ∃ (s s1 : State), ∃ (i qi : Nat), ∃ (q : Queue), running s = true ∧ s.power.keepSince = none ∧ (slotOf s i).isSome =
    true ∧ getQueue s i qi = some q ∧ q.st = .active ∧ q.desc.planned = false ∧ loadContext i qi (modQueue i qi endHold
    s) = (true, s1) :=
  ⟨tenantState, (loadContext 1 0 tenantState).2, 1, 0, queue0, by decide⟩

theorem witness_ScansTakeOwnedSlots_5 : ∃ (s s1 : State), ∃ (i qi n fuel : Nat), ∃ (q : Queue), ∃ (ws : List Word), getQueue s i qi = some q ∧
    q.fetched.length < q.desc.depth ∧ ringDiff q q.si q.ci ≠ ringSize q ∧ q.hold = none ∧ slotTaken q (q.si % ringSize
    q) = false ∧ readSlot i q s = (.owned ws, s1) :=
  ⟨postedState, postedState, 1, 0, 0, 9, queue0, readWords, by decide⟩

theorem witness_ScansTakeOwnedSlots_6 : ∃ (s s1 : State), ∃ (i qi n fuel : Nat), ∃ (q : Queue), getQueue s i qi = some q ∧ q.hold = none ∧ slotTaken q (q.si
    % ringSize q) = false ∧ readSlot i q s = (.notOwned, s1) :=
  ⟨tenantState, tenantState, 1, 0, 0, 9, queue0, by decide⟩

theorem witness_ScansTakeOwnedSlots_7 : ∃ (s : State), ∃ (i qi : Nat), ∃ (q : Queue), getQueue s i qi = some q :=
  ⟨tenantState, 1, 0, queue0, by decide⟩

theorem witness_ScansTakeOwnedSlots_8 : ∃ (s : State), ∃ (i qi : Nat), ∃ (q : Queue), ∃ (s1 : State), ∃ (n : Nat), getQueue s i qi = some q ∧ mayFetch s q =
    true ∧ (scanLoop i qi (ringSize q + q.desc.depth + 1) 0 (modQueue i qi (fun y =>
    { y with sweep := none, scanWaits := false }) s) = (.clear, n, s1)) :=
  ⟨tenantState, 1, 0, queue0, modQueue 1 0 (fun y => { y with sweep := none, scanWaits := false }) tenantState, 0, by decide⟩

theorem witness_ReleasesAndWaitingReceipts_1 : ∃ (s : State), ∃ (i qi : Nat), ∃ (v : Word), ∃ (q : Queue), pageOpen s i = true ∧ getQueue s i qi = some q :=
  ⟨tenantState, 1, 0, 0, queue0, by decide⟩

theorem witness_ReleasesAndWaitingReceipts_2 : ∃ (s : State), ∃ (i qi : Nat), ∃ (q : Queue), ∃ (r : Receipt), ∃ (rest : List Receipt), getQueue s i qi = some q ∧
    q.waiting = r :: rest :=
  ⟨withQueue fun q => { q with waiting := [plainReceipt] }, 1, 0, { queue0 with waiting := [plainReceipt] }, plainReceipt, [], by decide⟩

theorem witness_ReleasesAndWaitingReceipts_3 : ∃ (s : State), ∃ (i qi t : Nat), ∃ (q : Queue), getQueue s i qi = some q ∧ q.modDue = some t :=
  ⟨withQueue fun q => { q with modCfg := 0x10000, counted := 1, countedAt := some 0, modDue := some 1000 }, 1, 0, 1000, { queue0 with modCfg := 0x10000, counted := 1, countedAt := some 0, modDue := some 1000 }, by decide⟩

theorem witness_ReleasesAndWaitingReceipts_4 : ∃ (s : State), ∃ (f : Fn), ∃ (e : Nat), (getFn s f).pendingBits.contains e = true :=
  ⟨{ tenantState with fns := [(pf0, { hostFn with pendingBits := [2] })] }, pf0, 2, by decide⟩

theorem witness_ReleasesAndWaitingReceipts_5 : ∃ (s : State), ∃ (f : Fn), ∃ (e : Nat), (getFn s f).msixEn = true ∧ (getFn s f).msixMask = false ∧ (getFn s
    f).unmasked.contains e = true ∧ (getFn s f).d3 = false ∧ (getHatch s f.hatch).link = .up :=
  ⟨tenantState, pf0, 0, by decide⟩

theorem witness_SchedulerServesLeastStart_1 : ∃ (s u : State), ∃ (c i qi : Nat), ∃ (d : List Nat), ∃ (q : Queue), ∃ (p : Piece), u = placeAll s ∧ classNext u =
    some (c, d) ∧ classChoice u c = some (i, qi, q) ∧ nextPiece u q = some p :=
  ⟨fetchedState, placeAll fetchedState, 0, 1, 0, [1024, 0, 0, 0], grantedQueue, Piece.first fetched0, rfl, by decide +kernel, by decide +kernel, by decide +kernel⟩

theorem witness_SchedulerServesLeastStart_2 : ∃ (s : State), ∃ (i qi : Nat), ∃ (q : Queue), ∃ (f : Fetched), getQueue s i qi = some q ∧ receiptRoom q = true :=
  ⟨fetchedState, 1, 0, fetchedQueue, fetched0, by decide⟩

theorem witness_SchedulerServesLeastStart_3 : ∃ (s : State), ∃ (i qi : Nat), ∃ (q : Queue), ∃ (f : Fetched), getQueue s i qi = some q ∧ receiptRoom q = false :=
  ⟨withQueue fun q => { q with wi := 8 }, 1, 0, { queue0 with wi := 8 }, fetched0, by decide⟩

theorem witness_WheelsBringQueuesBack_1 : ∃ (s : State), ∃ (n : Nat), minBy id (timingSlots s) = some n :=
  ⟨withQueue fun q => { q with place := .timing 3 }, 3, by decide⟩

theorem witness_WheelsBringQueuesBack_2 : ∃ (s : State), ∃ (n : Nat), minBy id (overflowSlots s) = some n :=
  ⟨withQueue fun q => { q with place := .overflow 2 200000000 }, 2, by decide⟩

theorem witness_WheelsBringQueuesBack_3 : ∃ (s : State), ∃ (d : DRef), ∃ (q : Queue), getQueue s d.inst d.queue = some q :=
  ⟨tenantState, { inst := 1, queue := 0, slot := 0 }, queue0, by decide⟩

theorem witness_SharesCommit_1 : ∃ (s : State), ∃ (i : Nat), running s = true ∧ (slotOf s i).isSome = true ∧ (getInst s i).sealedShares = none ∧
    s.time.gen = .running :=
  ⟨{ tenantState with time := tickingState.time }, 1, by decide⟩

theorem witness_SharesCommit_2 : ∃ (s : State), ∃ (i : Nat), running s = true ∧ (slotOf s i).isSome = true ∧ (getInst s i).sealedShares.isSome = true :=
  ⟨{ tenantState with insts := [(1, { inst1 with sealedShares := some { shares := [], notAt := none } })] }, 1, by decide⟩

theorem witness_SharesCommit_3 : ∃ (x : Inst), ∃ (n : Nat), ∃ (sh : SealedShares), x.sealedShares = some sh :=
  ⟨{ inst1 with sealedShares := some { shares := [], notAt := none } }, 6, { shares := [], notAt := none }, by decide⟩

theorem witness_DocketsAreMoved_1 : ∃ (s s1 s2 : State), ∃ (d : DRef), ∃ (q : Queue), ∃ (r : Run), ∃ (g h : Seg), ∃ (rd : MemRead), ∃ (wr : MemWrite),
    DocketReady s d opCopy q r ∧ r.pieces ≤ r.granted ∧ moveEnds r (runWords q r) = (.near g (dSrc (runWords q r)),
    .near h (dDst (runWords q r))) ∧ r.lig = none ∧ r.key = none ∧ 0 < dLen (runWords q r) ∧ overlapPart (dSrc (runWords
    q r)) (dDst (runWords q r)) (dLen (runWords q r)) = (0, 0) ∧ readSeg d.inst g (dSrc (runWords q r)) (dLen (runWords
    q r)) (obtainAts d.inst q r s) = (rd, s1) ∧ rd.fail = none ∧ rd.events = [] ∧ writeSeg d.inst h (dDst (runWords q
    r)) rd.bytes s1 = (wr, s2) ∧ wr.fail = none ∧ wr.events = [] :=
  ⟨granted copyWords, granted copyWords, (writeSeg 1 hostSeg 0x5000 (List.replicate 64 0) (granted copyWords)).2, ref0, runQueue copyWords, runOf0 copyWords, hostSeg, hostSeg, { bytes := List.replicate 64 0, fail := none, twin := false, events := [] }, { fail := none, events := [] }, by decide +kernel⟩

theorem witness_DocketsAreMoved_2 : ∃ (s : State), ∃ (d : DRef), ∃ (q : Queue), ∃ (r : Run), ∃ (op rank window off a k e : Nat), ∃ (g : Seg), ((op =
    opWrite ∧ isRaw (runWords q r) = false ∨ op = opSend ∧ isRaw (runWords q r) = false)) ∧ DocketReady s d op q r ∧
    moveEnds r (runWords q r) = (.near g a, .far rank window off) ∧ runRank r rank = some (k, e) :=
  ⟨granted writeWords, ref0, runQueue writeWords, runOf0 writeWords, opWrite, 1, 6, 0x5000, 0x4000, 9, 3, hostSeg, by decide⟩

theorem witness_DocketsAreMoved_3 : ∃ (s : State), ∃ (d : DRef), ∃ (q : Queue), ∃ (r : Run), ∃ (rank window off a k e : Nat), ∃ (h : Seg), DocketReady s
    d opRead q r ∧ moveEnds r (runWords q r) = (.far rank window off, .near h a) ∧ runRank r rank = some (k, e) :=
  ⟨granted getWords, ref0, runQueue getWords, runOf0 getWords, 1, 6, 0x5000, 0x4000, 9, 3, hostSeg, by decide⟩

theorem witness_DocketsAreMoved_4 : ∃ (s : State), ∃ (d : DRef), ∃ (q : Queue), ∃ (r : Run), ∃ (t : Nat × Nat), DocketReady s d opAtomic q r ∧ runRank r
    (dRank (runWords q r)) = some t ∧ atomicsFull (obtainAts d.inst q r s) (connTo (obtainAts d.inst q r s) q r.cls t) =
    false :=
  ⟨granted atomicWords, ref0, runQueue atomicWords, runOf0 atomicWords, (9, 3), by decide⟩

theorem witness_DocketsAreMoved_5 : ∃ (s s1 : State), ∃ (d : DRef), ∃ (q : Queue), ∃ (r : Run), ∃ (t : Tiles), DocketReady s d opTileCopy q r ∧ r.pieces
    ≤ r.granted ∧ tileLoop d.inst r (runWords q r) (tlTiles (runWords q r)) 0 { good := 0, fail := none, twin := false }
    (obtainAts d.inst q r s) = (none, t, s1) ∧ t.fail = none :=
  ⟨granted tileWords, (tileLoop 1 (runOf0 tileWords) tileWords 1 0 { good := 0, fail := none, twin := false } (granted tileWords)).2.2, ref0, runQueue tileWords, runOf0 tileWords, { good := 64, fail := none, twin := false }, by decide +kernel⟩

theorem witness_DocketsAreMoved_6 : ∃ (s : State), ∃ (d : DRef), ∃ (q : Queue), ∃ (r : Run), DocketReady s d opFence q r :=
  ⟨granted fenceWords, ref0, runQueue fenceWords, runOf0 fenceWords, by decide⟩

theorem witness_DocketsAreMoved_7 : ∃ (s s1 : State), ∃ (d : DRef), ∃ (q : Queue), ∃ (r : Run), ∃ (g : Seg), ∃ (rd : MemRead), DocketReady s d opSend q
    r ∧ isRaw (runWords q r) = true ∧ findSeg r.segs (dSrc (runWords q r)) (dLen (runWords q r)) true false = some g ∧
    g.kind < 4 ∧ readSeg d.inst g (dSrc (runWords q r)) (dLen (runWords q r)) (obtainAts d.inst q r s) = (rd, s1) ∧
    rd.fail = none ∧ rd.events = [] ∧ r.lig = none ∧ rawLacks (runWords q r) rd.bytes = false :=
  ⟨granted rawWords, granted rawWords, ref0, runQueue rawWords, runOf0 rawWords, hostSeg, { bytes := List.replicate 64 0, fail := none, twin := false, events := [] }, by decide +kernel⟩

theorem witness_MessagesAreLaunched_1 : ∃ (s : State), ∃ (i qi off : Nat), ∃ (q : Queue), ∃ (r : Run), ∃ (m : TxMsg), ∃ (t : Nat × Nat), runRank r m.rank =
    some t ∧ hasRoute s t.1 r.cls = true ∧ off + max m.msgLen 1 ≤ 2 ^ 48 ∧ framePort s t.1 = none :=
  ⟨granted writeWords, 1, 0, 0x5000, runQueue writeWords, runOf0 writeWords, docketMessage (granted writeWords) 1 0 (runOf0 writeWords) 1 1 6 0x5000 64 none, (9, 3), by decide⟩

theorem witness_MessagesAreLaunched_2 : ∃ (s : State), ∃ (i qi off : Nat), ∃ (q : Queue), ∃ (r : Run), ∃ (m : TxMsg), ∃ (t : Nat × Nat), runRank r m.rank =
    some t :=
  ⟨granted writeWords, 1, 0, 0x5000, runQueue writeWords, runOf0 writeWords, docketMessage (granted writeWords) 1 0 (runOf0 writeWords) 1 1 6 0x5000 64 none, (9, 3), by decide⟩

theorem witness_MessagesAreLaunched_3 : ∃ (s : State), ∃ (k : ConnKey), ∃ (n : Nat), ∃ (m : TxMsg), ∃ (c : SendCtx), findTx s k = some c :=
  ⟨{ granted writeWords with dlv := { (granted writeWords).dlv with tx := [newTx (granted writeWords) (key9 0)] } }, key9 0, 1, docketMessage (granted writeWords) 1 0 (runOf0 writeWords) 1 1 6 0x5000 64 none, newTx (granted writeWords) (key9 0), by decide⟩

theorem witness_MessagesAreLaunched_4 : ∃ (s : State), ∃ (k : ConnKey), ∃ (n : Nat), ∃ (m : TxMsg), findTx s k = none :=
  ⟨granted writeWords, key9 0, 1, message40 1, by decide⟩

theorem witness_MessagesAreLaunched_5 : ∃ (s : State), ∃ (i qi ord : Nat), ∃ (q : Queue), ∃ (out : Settled), getQueue s i qi = some q ∧ out.detail ≠ 9 :=
  ⟨granted copyWords, 1, 0, 0, runQueue copyWords, settledOk 64, by decide⟩

theorem witness_FindingsEndDockets_1 : ∃ (s : State), ∃ (d : DRef), ∃ (q : Queue), ∃ (r : Run), ∃ (p : Nat × Instr), ∃ (k : Nat), p ∈ docketCommands d ∧
    DocketGranted s d p.1 q r ∧ finding s d.inst d.queue q r = some k :=
  ⟨badState, ref0, badQueue, badRun, (opCopy, .copy ref0), 1, by decide⟩

theorem witness_FindingsEndDockets_2 : ∃ (s : State), ∃ (d : DRef), ∃ (q : Queue), ∃ (r : Run), openRun s d = some (q, r) ∧ running s = true ∧ r.started =
    true ∧ opKnown q.desc.v1 (dOp (runWords q r)) = false :=
  ⟨granted strangeWords, ref0, runQueue strangeWords, runOf0 strangeWords, by decide⟩

theorem witness_FindingsEndDockets_4 : ∃ (s : State), ∃ (i qi k : Nat), ∃ (q : Queue), ∃ (r : Run), getQueue s i qi = some q ∧ q.st = .active ∧ r.started =
    true :=
  ⟨granted strangeWords, 1, 0, 0, runQueue strangeWords, runOf0 strangeWords, by decide⟩

theorem witness_PressDocketsBegin_1 : ∃ (s u : State), ∃ (d : DRef), ∃ (q : Queue), ∃ (r0 r : Run), ∃ (p : Nat × Instr), p ∈ pressCommands d ∧ openRun s d
    = some (q, r0) ∧ r = asBound s d.inst q r0 ∧ running s = true ∧ r.press = none ∧ dOp (runWords q r) = p.1 ∧
    ((r.planned = true ∨ ∀ x ∈ q.runs, x.planned = false → x.started = false → x.press = none → ringKey q x.slot <
    ringKey q r.slot → runMissed s q x = true)) ∧ finding s d.inst d.queue q r = none ∧ hatchBlocks s d.inst q r = false
    ∧ atsRefused s d.inst q r = none ∧ (u = modRun d.inst d.queue r.ord (fun x =>
    { x with press := some (newPress (obtainAts d.inst q r s).ord) })
    { obtainAts d.inst q r s with ord := (obtainAts d.inst q r s).ord + 1 }) :=
  ⟨pressState id, modRun 1 0 0 (fun x => { x with press := some (newPress 1) }) { pressState id with ord := 2 }, ref0, pressQueue id, pressRun0 id, pressRun0 id, (opReduce, .reduce ref0), by decide +kernel⟩

theorem witness_PressDocketsBegin_2 : ∃ (s : State), ∃ (d : DRef), ∃ (q : Queue), ∃ (r0 r : Run), ∃ (p : Nat × Instr), ∃ (k : Nat), p ∈ pressCommands d ∧
    openRun s d = some (q, r0) ∧ r = asBound s d.inst q r0 ∧ running s = true ∧ r.press = none ∧ dOp (runWords q r) =
    p.1 ∧ ((r.planned = true ∨ ∀ x ∈ q.runs, x.planned = false → x.started = false → x.press = none → ringKey q x.slot <
    ringKey q r.slot → runMissed s q x = true)) ∧ finding s d.inst d.queue q r = some k :=
  ⟨badPress, ref0, badPressQueue, badPressRun, badPressRun, (opReduce, .reduce ref0), 4, by decide +kernel⟩

theorem witness_PressDocketsBegin_3 : ∃ (s : State), ∃ (d : DRef), ∃ (q : Queue), ∃ (r : Run), ∃ (p : PressRun), running s = true ∧ galleyHead s = some
    (d, q, r, p) :=
  ⟨pressState fun r => { r with press := some (newPress 0) }, ref0, pressQueue fun r => { r with press := some (newPress 0) }, pressRun0 fun r => { r with press := some (newPress 0) }, newPress 0, by decide⟩

theorem witness_PressDocketsBegin_4 : ∃ (s s1 : State), ∃ (d : DRef), ∃ (q : Queue), ∃ (r : Run), ∃ (lists : List (List Nat)), ∃ (b : Bool), operandsOk
    r.segs (runWords q r) [] = true ∧ readLists d.inst r.segs (firstLists (runWords q r)) s = (.ok lists, b, s1) ∧ ((dOp
    (runWords q r) = opEmbedGather → egPool (runWords q r) = 0)) ∧ badEntry r.segs (runWords q r) lists = none :=
  ⟨pressState fun r => { r with press := some (newPress 0) }, pressState fun r => { r with press := some (newPress 0) }, ref0, pressQueue fun r => { r with press := some (newPress 0) }, pressRun0 fun r => { r with press := some (newPress 0) }, [], false, by decide +kernel, rfl, by decide +kernel⟩

theorem witness_PressDocketsBegin_5 : ∃ (s s1 s2 : State), ∃ (d : DRef), ∃ (q : Queue), ∃ (r : Run), ∃ (lists more : List (List Nat)), ∃ (b c : Bool),
    operandsOk r.segs (runWords q r) [] = true ∧ readLists d.inst r.segs (firstLists (runWords q r)) s = (.ok lists, b,
    s1) ∧ dOp (runWords q r) = opEmbedGather ∧ egPool (runWords q r) ≠ 0 ∧ operandsOk r.segs (runWords q r) lists = true
    ∧ readLists d.inst r.segs [((wd (runWords q r) 5).toNat, 4, bagIndices (runWords q r) (lists.getD 0 []))] s1 = (.ok
    more, c, s2) ∧ badEntry r.segs (runWords q r) (lists ++ more) = none :=
  ⟨bagState, bagState, bagState, ref0, bagQueue, bagRun, [[0, 0]], [[]], false, false, by decide +kernel, rfl, by decide +kernel, by decide +kernel, by decide +kernel, rfl, by decide +kernel⟩

theorem witness_PressDocketsBegin_6 : ∃ (s : State), ∃ (d : DRef), ∃ (q : Queue), ∃ (r : Run), ∃ (o : Operand), o ∈ pressOperands (runWords q r) ∧
    operandOk r.segs o = false :=
  ⟨pressState fun r => { r with segs := [] }, ref0, pressQueue fun r => { r with segs := [] }, pressRun0 fun r => { r with segs := [] }, { word := 2, addr := 0x4000, len := 256, write := false, maxKind := 3 }, by decide⟩

theorem witness_PermitsAreDecided_1 : ∃ (s : State), ∃ (x : PermitWait), ∃ (q : Queue), ∃ (r : Run), ∃ (p : PressRun), running s = true ∧ headRequest s =
    some x ∧ waitRun s x = some (q, r, p) ∧ r.started = false ∧ r.planned = false ∧ p.slice = 0 ∧ startBar s x.d q r p =
    none ∧ receiptRoom q = true :=
  ⟨waitState, permitWait, pressQueue waiting, pressRun0 waiting, { newPress 0 with stage := .permit }, by decide +kernel⟩

theorem witness_PermitsAreDecided_2 : ∃ (s : State), ∃ (x : PermitWait), ∃ (q : Queue), ∃ (r : Run), ∃ (p : PressRun), running s = true ∧ headRequest s =
    some x ∧ waitRun s x = some (q, r, p) ∧ r.started = true ∧ p.slice ≠ 0 ∧ (askOf (runWords q r) r p (activeUnits
    s)).power ≤ availableMw s r :=
  ⟨laterState, laterWait, laterQueue, laterRun, laterPress, by decide +kernel⟩

theorem witness_PermitsAreDecided_3 : ∃ (s : State), ∃ (x : PermitWait), ∃ (r : Run), ∃ (p : PressRun), ∃ (n k : Nat), ∃ (a : Ask), ∃ (q : Queue),
    getQueue s x.d.inst x.d.queue = some q :=
  ⟨waitState, permitWait, pressRun0 waiting, { newPress 0 with stage := .permit }, 100, 0, askOf reduceWords (pressRun0 waiting) { newPress 0 with stage := .permit } 100, pressQueue waiting, by decide⟩

theorem witness_PermitsAreDecided_4 : ∃ (s : State), ∃ (d : DRef), ∃ (r : Run), ∃ (q : Queue), getQueue s d.inst d.queue = some q ∧ r.started = false ∧ r
    ∈ q.runs :=
  ⟨waitState, ref0, pressRun0 waiting, pressQueue waiting, by decide⟩

theorem witness_PermitsAreDecided_5 : ∃ (s : State), ∃ (d : DRef), ∃ (x : PermitWait), ∃ (q : Queue), ∃ (r : Run), ∃ (p : PressRun), running s = true ∧
    (s.power.waits.find? (fun y => y.d == d && decide (0 < y.group)) = some x) ∧ waitRun s x = some (q, r, p) ∧
    runMissed s q r = false :=
  ⟨waitState, ref0, permitWait, pressQueue waiting, pressRun0 waiting, { newPress 0 with stage := .permit }, by decide +kernel⟩

theorem witness_PermitsAreDecided_6 : ∃ (s u : State), ∃ (mw : Nat), running s = true ∧ u = waitMono (s.power.windowAt + fld s.quoin.now.permitCtrl 10 10
    * 1000) s :=
  ⟨waitState, waitMono 0 waitState, 1000, by decide +kernel⟩

theorem witness_PermitsAreDecided_7 : ∃ (s : State), ∃ (d : DRef), ∃ (q : Queue), ∃ (r : Run), ∃ (p : PressRun), (s.power.permits.any (fun x => x.d == d)
    = true) ∧ ((pressRuns s).filter (fun y => y.1 == d) = [(d, q, r, p)]) ∧ p.stage = .running ∧ sliceBusy p = false :=
  ⟨{ pressState (fun r => { r with press := some { newPress 0 with stage := .running, blocks := 2, sliceEnd := 1, doneBlocks := [0] } }) with power := { waitState.power with waits := [], permits := [{ d := ref0, milliwatts := 10 }] } }, ref0, pressQueue fun r => { r with press := some { newPress 0 with stage := .running, blocks := 2, sliceEnd := 1, doneBlocks := [0] } }, pressRun0 fun r => { r with press := some { newPress 0 with stage := .running, blocks := 2, sliceEnd := 1, doneBlocks := [0] } }, { newPress 0 with stage := .running, blocks := 2, sliceEnd := 1, doneBlocks := [0] }, by decide⟩

theorem witness_BlocksRunOnUnits_1 : ∃ (s : State), ∃ (u b : Nat), ∃ (d : DRef), ∃ (q : Queue), ∃ (r : Run), ∃ (again : Bool), running s = true ∧
    ((pressRuns s).any (fun x => x.2.2.2.flying.any fun y => y.unit == u) = false) ∧ s.power.gated = false ∧
    s.faults.units[u]? = some .active ∧ unitChoice s u = some (d, q, r, b, again) :=
  ⟨pressState (fun r => { r with started := true, press := some { newPress 0 with stage := .running, n := 100, blocks := 2, sliceEnd := 2 } }), 3, 0, ref0, pressQueue (fun r => { r with started := true, press := some { newPress 0 with stage := .running, n := 100, blocks := 2, sliceEnd := 2 } }), pressRun0 (fun r => { r with started := true, press := some { newPress 0 with stage := .running, n := 100, blocks := 2, sliceEnd := 2 } }), false, by decide +kernel⟩

theorem witness_BlocksRunOnUnits_2 : ∃ (s : State), ∃ (u : Nat), running s = true ∧ ((s.power.gated = true ∨ s.faults.units[u]? ≠ some .active ∨
    (pressRuns s).any (fun x => x.2.2.2.flying.any fun y => y.unit == u) = true)) :=
  ⟨pressState (fun r => { r with started := true, press := some { newPress 0 with stage := .running, n := 100, blocks := 2, sliceEnd := 2, flying := [{ block := 0, unit := 3, replay := false }] } }), 3, by decide⟩

theorem witness_BlocksRunOnUnits_3 : ∃ (s : State), ∃ (u : Nat), ∃ (d : DRef), ∃ (q : Queue), ∃ (r : Run), ∃ (p p1 : PressRun), running s = true ∧
    ((pressRuns s).find? (fun x => x.2.2.2.flying.any fun b => b.unit == u) = some (d, q, r, p)) ∧ hatchBlocks s d.inst
    q r = false ∧ (p1 = { p with
      flying := p.flying.filter (fun b => b.unit != u)
      doneBlocks := p.doneBlocks ++ (p.flying.filter fun b => b.unit == u).map (·.block) }) :=
  ⟨pressState (fun r => { r with started := true, press := some { newPress 0 with stage := .running, n := 100, blocks := 2, sliceEnd := 2, flying := [{ block := 0, unit := 3, replay := false }] } }), 3, ref0, pressQueue (fun r => { r with started := true, press := some { newPress 0 with stage := .running, n := 100, blocks := 2, sliceEnd := 2, flying := [{ block := 0, unit := 3, replay := false }] } }), pressRun0 (fun r => { r with started := true, press := some { newPress 0 with stage := .running, n := 100, blocks := 2, sliceEnd := 2, flying := [{ block := 0, unit := 3, replay := false }] } }), { newPress 0 with stage := .running, n := 100, blocks := 2, sliceEnd := 2, flying := [{ block := 0, unit := 3, replay := false }] }, { newPress 0 with stage := .running, n := 100, blocks := 2, sliceEnd := 2, doneBlocks := [0] }, by decide +kernel⟩

theorem witness_BlocksRunOnUnits_4 : ∃ (s s1 s2 u : State), ∃ (d : DRef), ∃ (q : Queue), ∃ (r : Run), ∃ (p : PressRun), ∃ (rd : MemRead), ∃ (x : List
    (Nat × List Byte)), ∃ (c : Nat × Nat), (u = closeWatch (modPressRun d r.ord (fun x =>
    { x with stage := .done, galley := 0, inputs := [] }) (modGalley (fun g => { g with free := g.free + p.galley })
    s))) ∧ readRanges d.inst r.segs (pressIn (runWords q r) p.lists) u = (rd, s1) ∧ rd.fail = none ∧ r.lig = none ∧
    p.spoiled = false ∧ dOp (runWords q r) ≠ opTopk ∧ amaxOpen (runWords q r) = [] ∧ touchedOut (runWords q r) p.lists
    (rangeWritten r.segs ((s.watch.getD []).drop p.mark)) = [] ∧ pressWrites (runWords q r) none p (pieceInputs
    (runWords q r) p.lists (pieceTotal (runWords q r)) 0 p.inputs) [] s1.freeCount = (x, c) ∧ writeRanges d.inst r.segs
    x { s1 with freeCount := s1.freeCount + outElems (runWords q r) } = (none, s2) :=
  ⟨pressState (fun r => { r with started := true, press := some endedRun }), endedRead.2, endedWrite.2, endedU, ref0, pressQueue (fun r => { r with started := true, press := some endedRun }), pressRun0 (fun r => { r with started := true, press := some endedRun }), endedRun, endedRead.1, endedWrites.1, endedWrites.2, by decide +kernel⟩

theorem witness_ReceiptsEndDockets_1 : ∃ (s : State), ∃ (d : DRef), ∃ (q : Queue), ∃ (r : Run), ∃ (o : Settled), running s = true ∧ getQueue s d.inst
    d.queue = some q ∧ settledRun q d.slot = some (r, o) ∧ r.started = true ∧ q.st ≠ .stopped ∧ ((dOp (runWords q r) =
    opFence → earlierDone q r = true)) ∧ ((q.st = .held ∨ receiptsFlow s d.inst q = true)) :=
  ⟨settledState id, ref0, settledQueue, settledRun0, settledOk 64, by decide +kernel⟩

theorem witness_ReceiptsEndDockets_2 : ∃ (s : State), ∃ (d : DRef), ∃ (q : Queue), ∃ (r : Run), ∃ (o : Settled), running s = true ∧ getQueue s d.inst
    d.queue = some q ∧ settledRun q d.slot = some (r, o) ∧ r.started = false ∧ q.st ≠ .stopped ∧ dOp (runWords q r) ≠
    opFence ∧ ((q.st = .held ∨ receiptsFlow s d.inst q = true)) :=
  ⟨unstartedEnd, ref0, unstartedQueue, unstartedRun, aborted, by decide +kernel⟩

theorem witness_ReceiptsEndDockets_3 : ∃ (s : State), ∃ (d : DRef), ∃ (q : Queue), ∃ (r : Run), ∃ (o : Settled), running s = true ∧ getQueue s d.inst
    d.queue = some q ∧ settledRun q d.slot = some (r, o) ∧ (((dOp (runWords q r) = opFence ∧ earlierDone q r = false) ∨
    (q.st ≠ .held ∧ receiptsFlow s d.inst q = false))) :=
  ⟨{ settledState id with hatches := List.replicate 4 Hatch.reset }, ref0, settledQueue, settledRun0, settledOk 64, by decide +kernel⟩

theorem witness_ReceiptsEndDockets_4 : ∃ (s : State), ∃ (i qi : Nat), ∃ (q : Queue), ∃ (r : Run), ∃ (o : Settled), getQueue s i qi = some q ∧ q.st = .held
    ∧ r.resumed = false :=
  ⟨settledState fun q => { q with st := .held }, 1, 0, { settledQueue with st := .held }, settledRun0, settledOk 64, by decide⟩

theorem witness_ReceiptsEndDockets_5 : ∃ (s : State), ∃ (i qi : Nat), ∃ (q : Queue), ∃ (r : Receipt), ∃ (g : Seg), getQueue s i qi = some q ∧ r.signal =
    false ∧ findSeg (getInst s i).segs (q.desc.receiptBase + 32 * (q.wi % ringSize q)) 32 false true = some g :=
  ⟨tenantState, 1, 0, queue0, plainReceipt, hostSeg, by decide⟩

theorem witness_ReceiptsEndDockets_6 : ∃ (s : State), ∃ (d : DRef), ∃ (q : Queue), running s = true ∧ getQueue s d.inst d.queue = some q ∧ q.st = .draining :=
  ⟨withQueue fun _ => { fetchedQueue with st := .draining }, ref0, { fetchedQueue with st := .draining }, by decide⟩

theorem witness_ReceiptsEndDockets_7 : ∃ (s : State), ∃ (d : DRef), ∃ (q : Queue), ∃ (r : Run), running s = true ∧ getQueue s d.inst d.queue = some q ∧
    q.st = .held ∧ (q.runs.find? (fun r => r.slot == d.slot && r.started && r.outcome.isNone && !r.interrupted) = some
    r) ∧ needsHome q r = true ∧ dOp (runWords q r) ≠ opCollRun ∧ r.lig = none :=
  ⟨settledState fun _ => { runQueue copyWords with st := .held }, ref0, { runQueue copyWords with st := .held }, runOf0 copyWords, by decide⟩

theorem witness_ProgramEntriesStart_1 : ∃ (s u v : State), ∃ (p : ProgRun), ∃ (e : Entry), ∃ (q : Queue), nextEntry s = some (p, e) ∧ running s = true ∧
    ticking s = true ∧ p.asked = false ∧ p.gates.all (gateDone s p) = true ∧ getQueue s e.inst e.queue = some q ∧ q.st =
    .active ∧ q.desc.planned = true ∧ entryFenced q e = false ∧ receiptRoom q = true ∧ isPress (dOp e.words) = false ∧ u
    = yieldWait (dOp e.words) (waitPtp (entryTime p e) s) ∧ (v = (loadContext e.inst e.queue (modQueue e.inst e.queue
    (fun y => { y with runs := y.runs ++ [newRun u e.inst e.queue q p.next e.words p.tick true true] })
    { u with ord := u.ord + 1 })).2) :=
  ⟨programState plannedQueue fenceWords, waitPtp 1000000064 (programState plannedQueue fenceWords), startedProgram, progRun fenceWords, testEntry fenceWords, plannedQueue, by decide +kernel⟩

theorem witness_ProgramEntriesStart_2 : ∃ (s u v : State), ∃ (p : ProgRun), ∃ (e : Entry), ∃ (q : Queue), nextEntry s = some (p, e) ∧ running s = true ∧
    ticking s = true ∧ p.asked = false ∧ getQueue s e.inst e.queue = some q ∧ q.st = .active ∧ q.desc.planned = true ∧
    entryFenced q e = false ∧ receiptRoom q = true ∧ isPress (dOp e.words) = true ∧ u = waitPtp (entryTime p e - 200) s
    ∧ (v = (loadContext e.inst e.queue (modQueue e.inst e.queue (fun y =>
    { y with runs := y.runs ++ [newRun u e.inst e.queue q p.next e.words p.tick true false] })
    { u with ord := u.ord + 1 })).2) :=
  ⟨programState plannedQueue reduceWords, waitPtp 999999864 (programState plannedQueue reduceWords), askedProgram, progRun reduceWords, testEntry reduceWords, plannedQueue, by decide +kernel⟩

theorem witness_ProgramEntriesStart_3 : ∃ (s u : State), ∃ (p : ProgRun), ∃ (e : Entry), ∃ (d : DRef), ∃ (q : Queue), ∃ (r0 : Run), nextEntry s = some (p,
    e) ∧ running s = true ∧ ticking s = true ∧ p.asked = true ∧ d = { inst := e.inst, queue := e.queue, slot := p.next }
    ∧ getQueue s e.inst e.queue = some q ∧ u = waitPtp (entryTime p e) s :=
  ⟨askedEntryState, waitPtp 1000000064 askedEntryState, { progRun reduceWords with asked := true }, testEntry reduceWords, ref0, plannedQueue, pressRun0 id, by decide +kernel⟩

theorem witness_ProgramEntriesStart_4 : ∃ (s u : State), ∃ (p : ProgRun), ∃ (e : Entry), nextEntry s = some (p, e) ∧ running s = true ∧ ticking s = true ∧
    p.asked = false ∧ u = waitPtp (entryTime p e) s :=
  ⟨programState queue0 fenceWords, waitPtp 1000000064 (programState queue0 fenceWords), progRun fenceWords, testEntry fenceWords, by decide +kernel⟩

theorem witness_ProgramEntriesStart_5 : ∃ (s : State), ∃ (t : Nat), ∃ (p : ProgRun), ∃ (l : List ProgRun), ∃ (e : Entry), s.runs = p :: l ∧
    p.entries[p.next]? = some e ∧ p.next + 1 < p.entries.length :=
  ⟨programState plannedQueue fenceWords, 1000000100, progRun fenceWords, [], testEntry fenceWords, by decide⟩

theorem witness_ProgramEntriesStart_6 : ∃ (s : State), ∃ (d : DRef), ∃ (q : Queue), ∃ (f : Fetched), running s = true ∧ getQueue s d.inst d.queue = some q ∧
    (q.fetched.find? (fun f => f.slot == d.slot && missed s q f) = some f) :=
  ⟨dueState, ref0, dueQueue, dueFetched, by decide +kernel⟩

theorem witness_ProgramEntriesStart_7 : ∃ (s : State), ∃ (d : DRef), ∃ (q : Queue), ∃ (r : Run), running s = true ∧ getQueue s d.inst d.queue = some q ∧
    (q.fetched.find? (fun f => f.slot == d.slot && missed s q f) = none) ∧ (q.fetched.find? (fun f => f.slot == d.slot
    && missed s q f && dOp (view q.desc.v1 f.words) == opCollRun) = none) ∧ (q.runs.find? (fun r => r.slot == d.slot &&
    runMissed s q r) = some r) :=
  ⟨dueRunState, ref0, dueRunQueue, dueRun, by decide +kernel⟩

theorem witness_ProgramEntriesStart_8 : ∃ (s u : State), ∃ (d : DRef), ∃ (q t : Queue), ∃ (r : Run), DocketReady s d opInvalidate q r ∧ u = obtainAts d.inst
    q r s ∧ getQueue u d.inst (ivTarget (runWords q r)) = some t ∧ (t.runs.filter (fun x => !x.planned && !x.started &&
    (heldSlots t (runWords q r)).contains x.slot) = []) :=
  ⟨holdState, holdState, ref0, runQueue holdWords, queue0, runOf0 holdWords, by decide +kernel⟩

theorem witness_RequestsAreServed_1 : ∃ (s u u1 u2 : State), ∃ (p : Packet), ∃ (m : RxMsg), ∃ (g : Seg), ∃ (ws : List (Nat × List Byte)), ∃ (held : List
    WordPart), ((p.ptype = 1 ∨ p.ptype = 2)) ∧ arrives s p p.ptype = true ∧ requestFresh p (consume p s) = true ∧ u =
    requestContext p (consume p s) ∧ bindMessage p u = (some m, u1) ∧ m.seg = some g ∧ m.key = none ∧ p.void = false ∧
    packetWrites m.parts (m.win.base + m.offset) (m.win.base + m.offset + m.msgLen) (m.win.base + m.offset + p.pidx *
    segOf p) (p.body.take (payloadLen p.msgLen (segOf p) p.pidx)) = (ws, held) ∧ writeParts m.inst g ws u1 = (none, u2) :=
  ⟨linked writeWords, requestContext writeP (consume writeP (linked writeWords)), (bindMessage writeP (requestContext writeP (consume writeP (linked writeWords)))).2, (writeParts 1 hostSeg [(0x8100, List.replicate 64 7)] (bindMessage writeP (requestContext writeP (consume writeP (linked writeWords)))).2).2, writeP, newMessage writeP 1 window6 hostSeg none, hostSeg, [(0x8100, List.replicate 64 7)], [], by decide +kernel⟩

theorem witness_RequestsAreServed_2 : ∃ (held : List WordPart), ∃ (a b x : Nat), ∃ (bs : List Byte), x % 8 = 0 ∧ (((x + bs.length) % 8 = 0 ∨ x + bs.length
    = b)) ∧ bs ≠ [] :=
  ⟨[], 0x8100, 0x8101, 0x8100, [7], by decide, by decide, by decide⟩

theorem witness_RequestsAreServed_3 : ∃ (s u : State), ∃ (p : Packet), ∃ (code : Nat), ((p.ptype = 1 ∨ p.ptype = 2 ∨ p.ptype = 3 ∨ p.ptype = 4)) ∧ arrives
    s p p.ptype = true ∧ requestFresh p (consume p s) = true ∧ u = requestContext p (consume p s) ∧ ((findRx u (keyOf
    p)).bind (fun c => c.msgs.find? fun m => m.psn == firstPsn p && m.job == p.job) = none) ∧ headCheck u p = .nak code
    ∧ code ≠ 7 :=
  ⟨linked writeWords, requestContext { writeP with job := 6 } (consume { writeP with job := 6 } (linked writeWords)), { writeP with job := 6 }, 1, by decide +kernel⟩

theorem witness_RequestsAreServed_4 : ∃ (s u u1 : State), ∃ (p : Packet), ∃ (i : Nat), ∃ (w : Win), ∃ (g : Seg), ∃ (key : Option BoundKey), ∃ (r :
    MemRead), arrives s p 3 = true ∧ requestFresh p (consume p s) = true ∧ u = requestContext p (consume p s) ∧
    headCheck u p = .ok i w g key ∧ 0 < p.msgLen ∧ readSeg i g (w.base + fld p.h3 0 48) p.msgLen u = (r, u1) ∧ r.fail =
    none ∧ r.events = [] :=
  ⟨linked writeWords, requestContext readP (consume readP (linked writeWords)), (readSeg 1 hostSeg 0x8100 64 (requestContext readP (consume readP (linked writeWords)))).2, readP, 1, window6, hostSeg, none, { bytes := List.replicate 64 0, fail := none, twin := false, events := [] }, by decide +kernel⟩

theorem witness_RequestsAreServed_5 : ∃ (s u u1 u2 t : State), ∃ (p : Packet), ∃ (i : Nat), ∃ (w : Win), ∃ (g : Seg), ∃ (key : Option BoundKey), ∃ (r :
    MemRead), ∃ (wr : MemWrite), ∃ (c : RecvCtx), arrives s p 4 = true ∧ requestFresh p (consume p s) = true ∧ u =
    requestContext p (consume p s) ∧ headCheck u p = .ok i w g key ∧ findRx u (keyOf p) = some c ∧ c.record.length < 32
    ∧ p.notify = false ∧ readSeg i g (w.base + fld p.h3 0 48) 8 u = (r, u1) ∧ r.fail = none ∧ r.events = [] ∧ writeSeg i
    g (w.base + fld p.h3 0 48) (wordBytes (atomicValue (leNat ((p.body.drop 16).take 1)) (wordAt r.bytes 0) (wordAt
    p.body 0) (wordAt p.body 1))) u1 = (wr, u2) ∧ wr.fail = none ∧ wr.events = [] ∧ (t = modRx (keyOf p) (fun c =>
    { c with
      record := c.record ++ [{
          psn := p.psn
          count := 1
          expires := u.clk.mono + life u
          ptype := 0x44
          body := wordBytes (wordAt r.bytes 0) }] }) u2) :=
  ⟨linked writeWords, requestContext atomP (consume atomP (linked writeWords)), (readSeg 1 hostSeg 0x8100 8 (requestContext atomP (consume atomP (linked writeWords)))).2, (writeSeg 1 hostSeg 0x8100 (wordBytes 5) (readSeg 1 hostSeg 0x8100 8 (requestContext atomP (consume atomP (linked writeWords)))).2).2, modRx (keyOf atomP) (fun c => { c with record := c.record ++ [{ psn := 40, count := 1, expires := life (linked writeWords), ptype := 0x44, body := wordBytes 0 }] }) (writeSeg 1 hostSeg 0x8100 (wordBytes 5) (readSeg 1 hostSeg 0x8100 8 (requestContext atomP (consume atomP (linked writeWords)))).2).2, atomP, 1, window6, hostSeg, none, { bytes := List.replicate 8 0, fail := none, twin := false, events := [] }, { fail := none, events := [] }, newRx (linked writeWords) (keyOf atomP) 39, by decide +kernel⟩

theorem witness_AnswersAreTaken_1 : ∃ (s : State), ∃ (p : Packet), arrives s p 0x41 = true :=
  ⟨sending writeWords (context40 1 0 id), packetOf 0x41 4 16 [], by decide⟩

theorem witness_AnswersAreTaken_2 : ∃ (s : State), ∃ (cum sack load : Nat), ∃ (c : SendCtx), reorder s = 0 :=
  ⟨{ sending writeWords (context40 1 0 id) with dlv := { (linked writeWords).dlv with dlvCtrl := 0 } }, 40, 0, 0, context40 1 0 id, by decide⟩

theorem witness_AnswersAreTaken_3 : ∃ (s : State), ∃ (p : Packet), ∃ (m : TxMsg), ∃ (c : SendCtx), arrives s p 0x42 = true ∧ findTx s (replyKey p) =
    some c ∧ (c.msgs.find? (fun m => (m.packets.head?.map (·.psn)) == some (leNat (p.body.take 3))) = some m) :=
  ⟨sending writeWords (context40 1 0 id), packetOf 0x42 4 12 [40, 0, 0, 0, 7, 0, 0, 0, 0, 0, 0, 0], message40 1, context40 1 0 id, by decide +kernel⟩

theorem witness_AnswersAreTaken_4 : ∃ (s u1 : State), ∃ (p : Packet), ∃ (c : SendCtx), ∃ (m : TxMsg), ∃ (i qi ord a : Nat), ∃ (q : Queue), ∃ (r : Run),
    ∃ (g : Seg), ∃ (ws : List (Nat × List Byte)), ∃ (held : List WordPart), arrives s p 0x43 = true ∧ findTx s (replyKey
    p) = some c ∧ (c.msgs.find? (fun m => m.ptype == 3 && m.packets.any fun t => t.psn == p.psn) = some m) ∧ m.owner =
    .docket i qi ord ∧ runOf s i qi ord = some (q, r) ∧ (m.got.contains p.pidx || p.msgLen != m.msgLen || hatchBlocks
    (consume p s) i q r || decide (packetCount 0x43 m.msgLen m.segBytes ≤ p.pidx) || p.sealed != m.sealKey.isSome) =
    false ∧ m.sealKey = none ∧ m.dst = some a ∧ findSeg r.segs a (dLen (runWords q r)) false true = some g ∧
    packetWrites m.parts a (a + m.msgLen) (a + p.pidx * m.segBytes) (p.body.take (payloadLen m.msgLen m.segBytes
    p.pidx)) = (ws, held) ∧ (writeParts i g ws (modTx (replyKey p) (fun c => { c with
      expires := s.clk.mono + 2 * life s
      msgs := c.msgs.map fun x => if x.owner = m.owner ∧ x.ptype = 3 then { x with got := x.got ++ [p.pidx] } else x })
    (consume p s)) = (none, u1)) :=
  ⟨sending getWords (context40 3 0 fun m => { m with dst := some 0x4000 }), (writeParts 1 hostSeg [(0x4000, List.replicate 64 9)] (sending getWords (context40 3 0 fun m => { m with dst := some 0x4000, got := [0] }))).2, packetOf 0x43 4 64 (List.replicate 64 9), context40 3 0 fun m => { m with dst := some 0x4000 }, { message40 3 with dst := some 0x4000 }, 1, 0, 0, 0x4000, runQueue getWords, runOf0 getWords, hostSeg, [(0x4000, List.replicate 64 9)], [], by decide +kernel⟩

theorem witness_AnswersAreTaken_5 : ∃ (s : State), ∃ (p : Packet), arrives s p 0x44 = true :=
  ⟨sending atomicWords (context40 4 0 id), packetOf 0x44 4 8 [5, 0, 0, 0, 0, 0, 0, 0], by decide⟩

theorem witness_AnswersAreTaken_6 : ∃ (s : State), ∃ (k : ConnKey), ∃ (c : SendCtx), ∃ (m : TxMsg), ∃ (o : Settled), findTx s k = some c ∧ c.msgs = [m]
    ∧ allSettled m = true ∧ messageOutcome m = some o :=
  ⟨sending writeWords (context40 1 0 fun m => { m with packets := [{ sent40 with settled := true }] }), key9 0, context40 1 0 fun m => { m with packets := [{ sent40 with settled := true }] }, { message40 1 with packets := [{ sent40 with settled := true }] }, settledOk 64, by decide⟩

theorem witness_DeliveryTimersExpire_1 : ∃ (s u : State), ∃ (k : ConnKey), ∃ (c : SendCtx), ∃ (m : TxMsg), ∃ (t : TxPacket), ∃ (q : Queue), ∃ (r : Run), k.vc
    ≠ 16 ∧ running s = true ∧ findTx s k = some c ∧ c.failAt = none ∧ nextPacket s c = some (m, t) ∧ (u = if k.vc = 8
    then s else waitMono (paceTime c m t) s) :=
  ⟨sending writeWords (context40 1 0 fun m => { m with packets := [{ sent40 with lost := true }] }), sending writeWords (context40 1 0 fun m => { m with packets := [{ sent40 with lost := true }] }), key9 0, context40 1 0 fun m => { m with packets := [{ sent40 with lost := true }] }, { message40 1 with packets := [{ sent40 with lost := true }] }, { sent40 with lost := true }, runQueue writeWords, runOf0 writeWords, by decide +kernel⟩

theorem witness_DeliveryTimersExpire_2 : ∃ (s s1 : State), ∃ (k : ConnKey), ∃ (m : TxMsg), ∃ (t : TxPacket), ∃ (data : List Byte), ∃ (tw : Bool), packetData
    m t s = (data, none, tw, s1) ∧ ((m.sealKey = none ∨ m.ptype = 3)) ∧ t.sent = false :=
  ⟨sending writeWords (context40 1 0 id), sending writeWords (context40 1 0 id), key9 0, message40 1, { sent40 with sent := false }, [], false, by decide +kernel⟩

theorem witness_DeliveryTimersExpire_3 : ∃ (s : State), ∃ (k : ConnKey), ∃ (c : RecvCtx), ∃ (t : Nat), running s = true ∧ findRx s k = some c ∧ c.ackDue =
    some t :=
  ⟨receiving, keyOf (packetOf 1 0 8 []), received40, 5000, by decide⟩

theorem witness_DeliveryTimersExpire_4 : ∃ (s : State), ∃ (k : ConnKey), ∃ (c : RecvCtx), findRx s k = some c :=
  ⟨receiving, keyOf (packetOf 1 0 8 []), received40, by decide⟩

theorem witness_DeliveryTimersExpire_5 : ∃ (s u : State), ∃ (k : ConnKey), ∃ (psn : Nat), ∃ (c : SendCtx), ∃ (m : TxMsg), ∃ (t : TxPacket), k.vc < 16 ∧
    running s = true ∧ findTx s k = some c ∧ c.failAt = none ∧ ((ctxPackets c).find? (fun p => p.2.psn == psn &&
    p.2.sent && !p.2.lost && !stopped s p.1 && p.1.rnrAt.isNone && ((!p.2.settled && !p.2.sacked) || unanswered p.1)) =
    some (m, t)) ∧ (u = modDlv (fun d => { d with timeouts := satAdd 16 d.timeouts 1 }) (waitMono t.due s)) :=
  ⟨sending writeWords (context40 1 0 id), modDlv (fun d => { d with timeouts := 1 }) (sending writeWords (context40 1 0 id)), key9 0, 40, context40 1 0 id, message40 1, sent40, by decide +kernel⟩

theorem witness_DeliveryTimersExpire_6 : ∃ (s : State), ∃ (k : ConnKey), ∃ (psn t : Nat), ∃ (c : SendCtx), ∃ (m : TxMsg), findTx s k = some c ∧ (c.msgs.find?
    (fun m => m.packets.any fun t => t.psn == psn) = some m) ∧ m.rnrAt = some t :=
  ⟨sending writeWords (context40 1 0 fun m => { m with rnrAt := some 70 }), key9 0, 40, 70, context40 1 0 fun m => { m with rnrAt := some 70 }, { message40 1 with rnrAt := some 70 }, by decide⟩

theorem witness_DeliveryTimersExpire_7 : ∃ (s : State), ∃ (k : ConnKey), ∃ (c : SendCtx), ∃ (t : Nat), findTx s k = some c ∧ c.failAt = some t :=
  ⟨sending writeWords { context40 1 0 id with failAt := some 90 }, key9 0, { context40 1 0 id with failAt := some 90 }, 90, by decide⟩

theorem witness_DeliveryTimersExpire_8 : ∃ (s : State), ∃ (k : ConnKey), ∃ (c : SendCtx), ∃ (m : TxMsg), ∃ (t : Nat), findTx s k = some c ∧ c.failAt = none ∧
    (c.msgs.find? (fun m => m.wornAt.isSome) = some m) ∧ m.wornAt = some t :=
  ⟨sending writeWords (context40 1 0 fun m => { m with wornAt := some 90 }), key9 0, context40 1 0 fun m => { m with wornAt := some 90 }, { message40 1 with wornAt := some 90 }, 90, by decide⟩

theorem witness_DeliveryTimersExpire_9 : ∃ (s : State), ∃ (k : ConnKey), ∃ (c : RecvCtx), findRx s k = some c :=
  ⟨receiving, keyOf (packetOf 1 0 8 []), received40, by decide⟩

theorem witness_DeliveryTimersExpire_10 : ∃ (s : State), ∃ (k : ConnKey), ∃ (c : SendCtx), k.vc < 16 ∧ findTx s k = some c ∧ (c.msgs.all (fun m => allSettled
    m && !unanswered m) = true) ∧ c.failAt = none :=
  ⟨sending writeWords { context40 1 0 id with msgs := [] }, key9 0, { context40 1 0 id with msgs := [] }, by decide⟩

theorem witness_TalliesCount_1 : ∃ (s u u1 : State), ∃ (d : DRef), ∃ (q : Queue), ∃ (r : Run), ∃ (v : Word), ∃ (both : Bool), DocketReady s d
    opTallyAdd q r ∧ bit (wd (runWords q r) 0) 16 = false ∧ u = galleyAccess mQueue (some 1) (obtainAts d.inst q r s) ∧
    readTallyOf d.inst (dTally (runWords q r)) u = (both, v, u1) :=
  ⟨tallied (runOf0 addWords) 0, galleyAccess mQueue (some 1) (tallied (runOf0 addWords) 0), galleyAccess mQueue (some 1) (tallied (runOf0 addWords) 0), ref0, talliedQueue (runOf0 addWords), runOf0 addWords, 0, false, by decide +kernel⟩

theorem witness_TalliesCount_2 : ∃ (s u : State), ∃ (d : DRef), ∃ (q : Queue), ∃ (r : Run), ∃ (t : Nat × Nat), DocketReady s d opTallyAdd q r ∧ u =
    obtainAts d.inst q r s ∧ bit (wd (runWords q r) 0) 16 = true ∧ runRank r (dRank (runWords q r)) = some t ∧ hasRoute
    u t.1 8 = true ∧ framePort u t.1 = none ∧ txReady u (connTo u q 8 t) = true :=
  ⟨tallied (runOf0 farAddWords) 0, tallied (runOf0 farAddWords) 0, ref0, talliedQueue (runOf0 farAddWords), runOf0 farAddWords, (9, 3), by decide +kernel⟩

theorem witness_TalliesCount_3 : ∃ (s u u1 : State), ∃ (d : DRef), ∃ (q : Queue), ∃ (r : Run), ∃ (v : Word), DocketReady s d opTallyWait q r ∧
    waitsStarted (obtainAts d.inst q r s) < 65536 ∧ (u = (if r.heldBack then modRun d.inst d.queue r.ord (fun x =>
    { x with heldBack := false, startTick := tickNow (obtainAts d.inst q r s) }) (obtainAts d.inst q r s) else obtainAts
    d.inst q r s)) ∧ readTallyOf d.inst (dTally (runWords q r)) (galleyAccess mQueue (some 1) u) = (false, v, u1) :=
  ⟨tallied (runOf0 waitWords) 3, tallied (runOf0 waitWords) 3, galleyAccess mQueue (some 1) (tallied (runOf0 waitWords) 3), ref0, talliedQueue (runOf0 waitWords), runOf0 waitWords, 3, by decide +kernel⟩

theorem witness_TalliesCount_4 : ∃ (s : State), ∃ (d : DRef), ∃ (q : Queue), ∃ (r : Run), DocketReady s d opTallyWait q r ∧ 65536 ≤ waitsStarted
    (obtainAts d.inst q r s) :=
  ⟨manyWaits 65536, ref0, talliedQueue (runOf0 waitWords), runOf0 waitWords, by decide +kernel, manyStarted 65536⟩

theorem witness_TalliesCount_5 : ∃ (s : State), ∃ (i n qi : Nat), ∃ (v : Word), ∃ (q : Queue), getQueue s i qi = some q :=
  ⟨tallied startedWait 0, 1, 5, 0, 3, talliedQueue startedWait, by decide⟩

theorem witness_TalliesCount_6 : ∃ (s : State), ∃ (d : DRef), ∃ (q : Queue), ∃ (r : Run), getQueue s d.inst d.queue = some q ∧ (q.runs.find? (fun r
    => r.slot == d.slot && dOp (runWords q r) == opTallyWait && r.executed && r.outcome.isNone) = some r) :=
  ⟨tallied startedWait 0, ref0, talliedQueue startedWait, startedWait, by decide +kernel⟩

theorem witness_TalliesCount_7 : ∃ (s : State), ∃ (i n : Nat), ∃ (b : Bool), pageOpen s i = true ∧ n < 262144 ∧ (getInst s i).st ≠ .resetting :=
  ⟨tallied (runOf0 addWords) 0, 1, 3, true, by decide⟩

theorem witness_TalliesCount_8 : ∃ (s : State), ∃ (i n : Nat), pageOpen s i = true ∧ n < 262144 ∧ (getInst s i).st ≠ .resetting ∧ (tget (getInst s
    i).tallies n).isSome = true :=
  ⟨tallied (runOf0 addWords) 0, 1, 5, by decide⟩

theorem witness_TalliesCount_10 : ∃ (s : State), ∃ (i n : Nat), pageOpen s i = true ∧ n < 262144 ∧ (getInst s i).st ≠ .resetting ∧ tget (getInst s
    i).tallies n = none :=
  ⟨tallied (runOf0 addWords) 0, 1, 4, by decide⟩

theorem witness_TallyMessagesArrive_1 : ∃ (s u u1 : State), ∃ (p : Packet), ∃ (i : Nat), ∃ (v : Word), ∃ (both : Bool), arrives s p 0x81 = true ∧
    requestFresh p (consume p s) = true ∧ u = requestContext p (consume p s) ∧ recordRoom (keyOf p) u = true ∧
    tallyCheck u p = (0, i) ∧ readTallyOf i (leNat (p.body.take 4) % 2 ^ 18) (galleyAccess mSwitch (some 1) u) = (both,
    v, u1) :=
  ⟨tallied (runOf0 addWords) 0, requestContext addP (consume addP (tallied (runOf0 addWords) 0)), galleyAccess mSwitch (some 1) (requestContext addP (consume addP (tallied (runOf0 addWords) 0))), addP, 1, 0, false, by decide +kernel⟩

theorem witness_TallyMessagesArrive_2 : ∃ (s u : State), ∃ (p : Packet), ∃ (i code : Nat), arrives s p 0x81 = true ∧ requestFresh p (consume p s) = true ∧ u
    = requestContext p (consume p s) ∧ recordRoom (keyOf p) u = true ∧ tallyCheck u p = (code, i) ∧ code ≠ 0 :=
  ⟨tallied (runOf0 addWords) 0, requestContext { addP with job := 4 } (consume { addP with job := 4 } (tallied (runOf0 addWords) 0)), { addP with job := 4 }, 1, 1, by decide +kernel⟩

theorem witness_TallyMessagesArrive_3 : ∃ (s : State), ∃ (p : Packet), ∃ (m : TxMsg), arrives s p 0xC1 = true ∧ syncSent (consume p s) p = some m ∧ m.ptype
    = 0x81 :=
  ⟨syncing 0x81, replyP 0xC1 [0, 3, 0, 0, 0, 0, 0, 0, 0], syncMessage40 0x81, by decide +kernel⟩

theorem witness_TallyMessagesArrive_4 : ∃ (s : State), ∃ (p : Packet), ∃ (c : SendCtx), arrives s p 0xC2 = true ∧ findTx s (replyKey p) = some c :=
  ⟨syncing 0x84, replyP 0xC2 [], { newTx (linked farAddWords) (key9 8) with nextPsn := 41, msgs := [syncMessage40 0x84] }, by decide +kernel⟩

theorem witness_HandlesOpenRunClose_1 : ∃ (s u u1 : State), ∃ (d : DRef), ∃ (q : Queue), ∃ (r : Run), ∃ (g : Seg), ∃ (rd : MemRead), DocketReady s d
    opCollOpen q r ∧ u = obtainAts d.inst q r s ∧ near (source r (dSrc (runWords q r)) (4 * coCount (runWords q r))) =
    some g ∧ readSeg d.inst g (dSrc (runWords q r)) (4 * coCount (runWords q r)) u = (rd, u1) :=
  ⟨listState, listState, listState, ref0, runQueue openWords, runOf0 openWords, hostSeg, { bytes := leBytes 4 0 ++ leBytes 4 1, fail := none, twin := false, events := [] }, by decide +kernel⟩

theorem witness_HandlesOpenRunClose_2 : ∃ (s u u1 : State), ∃ (d : DRef), ∃ (q : Queue), ∃ (r : Run), ∃ (g : Seg), ∃ (rd : MemRead), ∃ (e : Endpoint), ∃ (l
    : List Nat), DocketReady s d opCollOpen q r ∧ u = obtainAts d.inst q r s ∧ near (source r (dSrc (runWords q r)) (4 *
    coCount (runWords q r))) = some g ∧ listRoom (coCount (runWords q r)) u = true ∧ readSeg d.inst g (dSrc (runWords q
    r)) (4 * coCount (runWords q r)) u = (rd, u1) ∧ rd.fail = none ∧ r.bound = some e ∧ l = listRanks rd.bytes (coCount
    (runWords q r)) ∧ (((l.any fun k => decide (2 ^ 18 ≤ k)) || decide (l.eraseDups.length < coCount (runWords q r)) ||
    l.count e.myRank != 1) = false) ∧ ((∀ k ∈ l, ((rankOf e k).map fun t => framePort (latchAll rd.events u1) t.1) =
    some none)) ∧ (((rankOf e (l.headD 0)).all fun t => l.headD 0 == e.myRank || txReady (latchAll rd.events u1) (connTo
    (latchAll rd.events u1) q 8 t)) = true) :=
  ⟨listState, listState, listState, ref0, runQueue openWords, runOf0 openWords, hostSeg, { bytes := leBytes 4 0 ++ leBytes 4 1, fail := none, twin := false, events := [] }, endpoint2, [0, 1], by decide +kernel⟩

theorem witness_HandlesOpenRunClose_3 : ∃ (s : State), ∃ (i h : Nat), ∃ (c : Coll), ((List.range (fld (wd (getInst s i).record 1) 28 11)).find? (fun k =>
    (tget (getInst s i).colls k).isNone) = some h) :=
  ⟨listState, 1, 0, coll0 id, by decide⟩

theorem witness_HandlesOpenRunClose_4 : ∃ (s : State), ∃ (i h : Nat), ∃ (c : Coll), getColl s i h = some c ∧ c.st = .opening ∧ c.index = 0 ∧ memberCount c ≤
    c.joined.length :=
  ⟨collState openWords fun c => { c with joined := [(0, true), (1, true)] }, 1, 0, coll0 fun c => { c with joined := [(0, true), (1, true)] }, by decide⟩

theorem witness_HandlesOpenRunClose_5 : ∃ (s u v : State), ∃ (d : DRef), ∃ (q : Queue), ∃ (r : Run), ∃ (c : Coll), ∃ (k : Nat), ∃ (g h : Seg), DocketReady s
    d opCollRun q r ∧ u = obtainAts d.inst q r s ∧ getColl u d.inst (dHandle (runWords q r)) = some c ∧ ((¬ (c.st =
    .opening ∨ c.run.isSome = true ∨ earlierOn u d.inst (dHandle (runWords q r)) r.ord opCollRun = true ∨ earlierOn u
    d.inst (dHandle (runWords q r)) r.ord opCollClose = true ∨ runWaits u c (runWords q r) = true))) ∧ k = nextNumber c
    (c.skipped.length + 1) c.nextRun ∧ near (source r (dSrc (runWords q r)) (dLen (runWords q r))) = some g ∧ near
    (target r (dDst (runWords q r)) (dLen (runWords q r))) = some h ∧ (v = modColl d.inst (dHandle (runWords q r)) (fun
    y => { y with
      nextRun := k + 1
      skipped := y.skipped.filter (fun x => decide (k < x))
      ends := y.ends.filter (fun x => x.1 != k % 2 ^ 32) }) u) ∧ c.st = .open ∧ (c.ends.find? (fun x => x.1 == k % 2 ^
    32) = none) :=
  ⟨collState collRunWords opened, collState collRunWords opened, modColl 1 0 (fun y => { y with nextRun := 1, skipped := [], ends := [] }) (collState collRunWords opened), ref0, runQueue collRunWords, runOf0 collRunWords, coll0 opened, 0, hostSeg, hostSeg, by decide +kernel⟩

theorem witness_HandlesOpenRunClose_6 : ∃ (s u : State), ∃ (d : DRef), ∃ (q : Queue), ∃ (r : Run), ∃ (c : Coll), DocketReady s d opCollRun q r ∧ u =
    obtainAts d.inst q r s ∧ getColl u d.inst (dHandle (runWords q r)) = some c ∧ ((¬ (¬ (c.st = .opening ∨ c.run.isSome
    = true ∨ earlierOn u d.inst (dHandle (runWords q r)) r.ord opCollRun = true ∨ earlierOn u d.inst (dHandle (runWords
    q r)) r.ord opCollClose = true ∨ runWaits u c (runWords q r) = true)))) :=
  ⟨collState collRunWords id, collState collRunWords id, ref0, runQueue collRunWords, runOf0 collRunWords, coll0 id, by decide +kernel⟩

theorem witness_HandlesOpenRunClose_7 : ∃ (s u : State), ∃ (i h number : Nat), ∃ (c : Coll), ∃ (r : Run), ∃ (w : List Word), ∃ (g : Seg), ∃ (rd : MemRead),
    ∃ (n : CollRunSt), readRunSource i c (fld (wd w 5) 16 2) ((streamElems c.fmt (dLen w)).getD 0) g (dSrc w) (dLen w) s
    = (rd, u) ∧ getColl (latchAll rd.events u) i h = some c ∧ n = {
      number := number
      ord := r.ord
      mode := fld (wd w 5) 16 2
      elements := (streamElems c.fmt (dLen w)).getD 0
      folds := decide (fld (wd w 5) 16 2 ≤ 1) && decide (c.granted ≠ 0) && decide (1 < memberCount c)
      startTick := tickNow s
      patience := dPatience w
      srcBytes := rd.bytes
      got := []
      final := []
      sentTo := []
      granted := []
      waiting := []
      own := []
      latest := stampNow s
      latestBy := memberRank c c.index
      earliest := stampNow s
      twin := rd.twin } :=
  ⟨collState collRunWords opened, collState collRunWords opened, 1, 0, 0, coll0 opened, runOf0 collRunWords, collRunWords, hostSeg, { bytes := leBytes 4 0 ++ leBytes 4 1 ++ List.replicate 24 0, fail := none, twin := false, events := [] }, { collRun0 with startTick := 5, srcBytes := leBytes 4 0 ++ leBytes 4 1 ++ List.replicate 24 0, latest := 15625000, earliest := 15625000 }, by decide +kernel⟩

theorem witness_HandlesOpenRunClose_8 : ∃ (s u : State), ∃ (d : DRef), ∃ (q : Queue), ∃ (r : Run), ∃ (c : Coll), DocketReady s d opCollClose q r ∧ u =
    obtainAts d.inst q r s ∧ getColl u d.inst (dHandle (runWords q r)) = some c :=
  ⟨collState closeWords opened, collState closeWords opened, ref0, runQueue closeWords, runOf0 closeWords, coll0 opened, by decide +kernel⟩

theorem witness_CollectiveMessagesArrive_1 : ∃ (s u : State), ∃ (p : Packet), arrives s p 0x82 = true ∧ requestFresh p (consume p s) = true ∧ u = requestContext
    p (consume p s) ∧ collOf u p = none :=
  ⟨collState collRunWords (fun c => { c with key := 78 }), requestContext (aboutP 0x82 []) (consume (aboutP 0x82 []) (collState collRunWords (fun c => { c with key := 78 }))), aboutP 0x82 [], by decide +kernel⟩

theorem witness_CollectiveMessagesArrive_2 : ∃ (s : State), ∃ (i h m : Nat), ∃ (c : Coll), ∃ (j : HeldJoin), getColl s i h = some c ∧ joinFits c j = true ∧
    memberAt c j.srcDev j.srcEp = some m :=
  ⟨collState collRunWords id, 1, 0, 1, coll0 id, { ep := 2, srcDev := 9, srcEp := 3, key := 77, count := 2, crc := 0, fmt := 0, op := 0, bins := 0, grant := false, tick := 5 }, by decide⟩

theorem witness_CollectiveMessagesArrive_3 : ∃ (s u : State), ∃ (p : Packet), ∃ (i h : Nat), ∃ (c : Coll), arrives s p 0x82 = true ∧ requestFresh p (consume p s)
    = true ∧ u = requestContext p (consume p s) ∧ collOf u p = some (i, h, c) ∧ c.st = .opening ∧ c.index = 0 :=
  ⟨collState collRunWords (id), requestContext (aboutP 0x82 []) (consume (aboutP 0x82 []) (collState collRunWords (id))), aboutP 0x82 [], 1, 0, coll0 id, by decide +kernel⟩

theorem witness_CollectiveMessagesArrive_4 : ∃ (s u : State), ∃ (p : Packet), ∃ (i h : Nat), ∃ (c : Coll), arrives s p 0x83 = true ∧ requestFresh p (consume p s)
    = true ∧ u = requestContext p (consume p s) ∧ collOf u p = some (i, h, c) ∧ c.st = .opening ∧ memberAt c p.srcDev
    p.srcEp = some 0 :=
  ⟨collState collRunWords (fun c => { c with index := 1, places := [(9, 3), (7, 2)] }), requestContext (aboutP 0x83 [0]) (consume (aboutP 0x83 [0]) (collState collRunWords (fun c => { c with index := 1, places := [(9, 3), (7, 2)] }))), aboutP 0x83 [0], 1, 0, coll0 fun c => { c with index := 1, places := [(9, 3), (7, 2)] }, by decide +kernel⟩

theorem witness_CollectiveMessagesArrive_5 : ∃ (s u : State), ∃ (p : Packet), ∃ (i h j : Nat), ∃ (c : Coll), arrives s p 0x84 = true ∧ requestFresh p (consume p
    s) = true ∧ u = requestContext p (consume p s) ∧ collOf u p = some (i, h, c) ∧ memberAt c p.srcDev p.srcEp = some j
    ∧ ((runAhead c (runOfPacket p) = true ∨ (c.run.map (·.number)) = some (runOfPacket p) ∨ (c.binChunks.any fun b =>
    b.run == runOfPacket p) = true)) :=
  ⟨collState collRunWords (active id), requestContext (aboutP 0x84 [4, 0, 0, 0]) (consume (aboutP 0x84 [4, 0, 0, 0]) (collState collRunWords (active id))), aboutP 0x84 [4, 0, 0, 0], 1, 0, 1, coll0 (active id), by decide +kernel⟩

theorem witness_CollectiveMessagesArrive_6 : ∃ (s u : State), ∃ (p : Packet), ∃ (i h word : Nat), ∃ (c : Coll), arrives s p 0x85 = true ∧ requestFresh p (consume
    p s) = true ∧ u = requestContext p (consume p s) ∧ collOf u p = some (i, h, c) ∧ word = leNat (p.body.take 4) :=
  ⟨collState collRunWords (active id), requestContext (aboutP 0x85 [1, 0, 0, 0]) (consume (aboutP 0x85 [1, 0, 0, 0]) (collState collRunWords (active id))), aboutP 0x85 [1, 0, 0, 0], 1, 0, 1, coll0 (active id), by decide +kernel⟩

theorem witness_CollectiveMessagesArrive_7 : ∃ (s u : State), ∃ (p : Packet), ∃ (i h j : Nat), ∃ (c : Coll), arrives s p 0x86 = true ∧ requestFresh p (consume p
    s) = true ∧ u = requestContext p (consume p s) ∧ collOf u p = some (i, h, c) ∧ memberAt c p.srcDev p.srcEp = some j :=
  ⟨collState collRunWords (opened), requestContext (aboutP 0x86 []) (consume (aboutP 0x86 []) (collState collRunWords (opened))), aboutP 0x86 [], 1, 0, 1, coll0 opened, by decide +kernel⟩

theorem witness_CollectiveMessagesArrive_8 : ∃ (s u : State), ∃ (p : Packet), arrives s p 0x87 = true ∧ requestFresh p (consume p s) = true ∧ u = requestContext
    p (consume p s) ∧ recordRoom (keyOf p) u = true :=
  ⟨collState collRunWords (active id), requestContext (aboutP 0x87 []) (consume (aboutP 0x87 []) (collState collRunWords (active id))), aboutP 0x87 [], by decide +kernel⟩

theorem witness_CollectiveMessagesArrive_9 : ∃ (s : State), ∃ (p : Packet), ∃ (m : TxMsg), ∃ (i h j t : Nat), ∃ (seen : List Nat), ∃ (c : Coll), ∃ (r :
    CollRunSt), arrives s p 0xC7 = true ∧ syncSent (consume p s) p = some m ∧ m.owner = .coll i h ∧ m.ptype = 0x87 ∧
    getColl s i h = some c ∧ c.run = some r ∧ c.query = some (j, t, seen) ∧ memberRank c j = m.rank ∧ fld m.h3 32 32 =
    r.number :=
  ⟨askedState, replyP 0xC7 [0, 0, 0, 0, 0], askMessage, 1, 0, 1, 0, [1], coll0 asked, collRun0, by decide +kernel⟩

theorem witness_CollectiveTimersExpire_2 : ∃ (s : State), ∃ (i h j : Nat), ∃ (c : Coll), getColl s i h = some c ∧ c.st = .opening ∧ ticking s = true ∧
    c.openTick + 3 ≤ tickNow s :=
  ⟨collState collRunWords fun c => { c with openTick := 1 }, 1, 0, 0, coll0 fun c => { c with openTick := 1 }, by decide +kernel⟩

theorem witness_CollectiveTimersExpire_3 : ∃ (s : State), ∃ (i h : Nat), ∃ (c : Coll), ∃ (r : CollRunSt), getColl s i h = some c ∧ c.run = some r :=
  ⟨collState collRunWords (active id), 1, 0, coll0 (active id), collRun0, by decide⟩

theorem witness_CollectiveTimersExpire_4 : ∃ (s : State), ∃ (i h rank : Nat), ∃ (c : Coll), ∃ (r : CollRunSt), ∃ (k : List Nat), getColl s i h = some c ∧ c.run
    = some r ∧ k = (if r.folds then [] else keptPieces c r (memberCount c) 0) :=
  ⟨collState collRunWords (active fun r => { r with folds := true }), 1, 0, 1, coll0 (active fun r => { r with folds := true }), { collRun0 with folds := true }, [], by decide⟩

theorem witness_ChunksAreTaken_1 : ∃ (s u : State), ∃ (p : Packet), ((p.ptype = 0x10 ∨ p.ptype = 0x11 ∨ p.ptype = 0x12 ∨ p.ptype = 0x13)) ∧ arrives s p
    p.ptype = true ∧ requestFresh p (consume p s) = true ∧ u = requestContext p (consume p s) ∧ collOf u p = none :=
  ⟨collState collRunWords fun c => { c with key := 78 }, requestContext stepP (consume stepP (collState collRunWords fun c => { c with key := 78 })), stepP, by decide +kernel⟩

theorem witness_ChunksAreTaken_2 : ∃ (s u : State), ∃ (p : Packet), ∃ (i h n : Nat), ∃ (c : Coll), ∃ (m : RxMsg), ∃ (bytes : List Byte), ((p.ptype =
    0x10 ∨ p.ptype = 0x11 ∨ p.ptype = 0x12 ∨ p.ptype = 0x13)) ∧ arrives s p p.ptype = true ∧ requestFresh p (consume p
    s) = true ∧ u = requestContext p (consume p s) ∧ collOf u p = some (i, h, c) ∧ n = payloadLen p.msgLen (segOf p -
    16) p.pidx ∧ (m = (fun (m0 : RxMsg) => { m0 with
      seg := none
      imm := p.h3
      counted := m0.counted + n
      pidxs := m0.pidxs ++ [p.pidx]
      data := m0.data ++ [(p.pidx, (p.body.drop 16).take n)] }) (((findRx u (keyOf p)).bind fun y => y.msgs.find? fun z
    => z.psn == firstPsn p).getD (newMessage p i Win.empty Seg.empty none))) ∧ (bytes = (List.range (max 1 (ceilDiv
    p.msgLen (segOf p - 16)))).flatMap fun j => ((m.data.find? fun d => d.1 == j).map (·.2)).getD []) :=
  ⟨collState collRunWords (active id), requestContext stepP (consume stepP (collState collRunWords (active id))), stepP, 1, 0, 16, coll0 (active id), (fun (m0 : RxMsg) => { m0 with seg := none, imm := stepP.h3, counted := m0.counted + 16, pidxs := m0.pidxs ++ [0], data := m0.data ++ [(0, (stepP.body.drop 16).take 16)] }) (newMessage stepP 1 Win.empty Seg.empty none), List.replicate 16 0, by decide +kernel⟩

theorem witness_ChunksAreTaken_3 : ∃ (s u : State), ∃ (p : Packet), ∃ (i h : Nat), ∃ (c : Coll), ∃ (x : ChunkIn), arrives s p 0x88 = true ∧
    requestFresh p (consume p s) = true ∧ u = requestContext p (consume p s) ∧ collOf u p = some (i, h, c) ∧ x = chunkOf
    p (p.body.take 16) (p.body.drop 16) ((memberAt c p.srcDev p.srcEp).getD 0) :=
  ⟨collState collRunWords (active fun r => { r with folds := true }), requestContext smallP (consume smallP (collState collRunWords (active fun r => { r with folds := true }))), smallP, 1, 0, coll0 (active fun r => { r with folds := true }), chunkOf smallP (smallP.body.take 16) (List.replicate 16 0) 1, by decide +kernel, by decide +kernel, rfl, by decide +kernel, rfl⟩

theorem witness_ChunksAreTaken_4 : ∃ (s : State), ∃ (i h : Nat), ∃ (c : Coll), ∃ (x : ChunkIn), getColl s i h = some c :=
  ⟨threeState, 1, 0, threeColl, threeChunk, by decide +kernel⟩

theorem witness_ChunksAreTaken_5 : ∃ (s : State), ∃ (i h : Nat), ∃ (c : Coll), ∃ (r : CollRunSt), ∃ (x : ChunkIn), ∃ (data : List Byte), getColl s i h
    = some c ∧ c.run = some r ∧ chunkFits r x = true ∧ r.folds = false ∧ r.mode ≠ 3 ∧ x.sender = prevMember c ∧ x.step <
    ringSteps c r.mode ∧ x.piece = ringPiece c r.mode x.step ∧ x.chunk < chunksOf false c.fmt (pieceUnits c.fmt
    r.elements (memberCount c) x.piece) ∧ r.got.contains (x.step, x.chunk) = false ∧ x.data.length = unitsAt false c.fmt
    (pieceUnits c.fmt r.elements (memberCount c) x.piece) x.chunk * unitBytes c.fmt ∧ data = (if r.mode ≠ 2 ∧ x.step + 2
    ≤ memberCount c then accBytes c.fmt (accAdd c.op (accOf c.fmt x.data) (accOf c.fmt (sourceChunk c r x.piece
    x.chunk))) else x.data) :=
  ⟨threeState, 1, 0, threeColl, { collRun0 with elements := 9 }, threeChunk, accBytes 0 (accAdd threeColl.op (accOf threeColl.fmt threeChunk.data) (accOf threeColl.fmt (sourceChunk threeColl { collRun0 with elements := 9 } threeChunk.piece threeChunk.chunk))), by decide +kernel⟩

theorem witness_ChunksAreTaken_6 : ∃ (s : State), ∃ (i h : Nat), ∃ (c : Coll), ∃ (x : ChunkIn), ∃ (b : BinChunk), getColl s i h = some c ∧
    (c.binChunks.find? (fun b => b.run == x.run && b.chunk == x.chunk) = some b) ∧ b.from_.contains x.sender = false ∧
    b.mode = x.mode ∧ b.elements = x.elements :=
  ⟨collState collRunWords (fun c => { active (fun r => { r with folds := true }) c with binChunks := [bin0] }), 1, 0, coll0 (fun c => { active (fun r => { r with folds := true }) c with binChunks := [bin0] }), threeChunk, bin0, by decide +kernel⟩

theorem witness_TablesAreSynced_1 : ∃ (s : State), ∃ (i : Nat), ∃ (v : Word), pageOpen s i = true ∧ (getInst s i).st = .resetting :=
  ⟨{ tenantState with insts := [(1, { inst1 with st := .resetting })] }, 1, 0, by decide⟩

theorem witness_TablesAreSynced_2 : ∃ (s s1 : State), ∃ (i : Nat), ∃ (v : Word), ∃ (h : MemRead), pageOpen s i = true ∧ (getInst s i).st ≠ .resetting ∧
    readHost (fnOf s i) ((getInst s i).regs.tblAddr.toNat / 64 * 64) 64 s = (h, s1) :=
  ⟨tenantState, tenantState, 1, 0, (readHost pf0 0 64 tenantState).1, by decide⟩

theorem witness_TablesAreSynced_3 : ∃ (s s1 s2 s3 : State), ∃ (i : Nat), ∃ (v : Word), ∃ (h : MemRead), ∃ (segw winw : Table (List Word)), ∃ (segs :
    List Seg), ∃ (wins : Table Win), ∃ (e : Nat × Nat), pageOpen s i = true ∧ (getInst s i).st ≠ .resetting ∧ readHost
    (fnOf s i) ((getInst s i).regs.tblAddr.toNat / 64 * 64) 64 s = (h, s1) ∧ h.fail = none ∧ fld (wordAt h.bytes 0) 0 32
    = ((getInst s i).devGen + 1) % 2 ^ 32 ∧ (readEntries (fnOf s i) ((getInst s i).regs.tblAddr.toNat / 64 * 64 + 64)
    ((List.range 16).filter fun k => bit v k) s1 = (.ok segw, s2)) ∧ (readEntries (fnOf s i) ((getInst s
    i).regs.tblWinAddr.toNat / 4096 * 4096) (((List.range (fld v 32 17)).map (fun k => k + fld v 16 16)).filter (· <
    65536)) s2 = (.ok winw, s3)) ∧ (segs = (List.range 16).map fun k => (tget segw k).elim ((getInst s i).segs.getD k
    Seg.empty) segOfWords) ∧ (wins = winw.foldl (fun t p => if (winOfWords p.2).valid then tset t p.1 (winOfWords p.2)
    else tdel t p.1) (getInst s i).wins) ∧ tblFinding s3 i v segw winw segs wins = some e :=
  ⟨{ tableState with host := { HostSide.reset with mems := [wrBytes [] 0 [1], [], [], []] } }, { tableState with host := { HostSide.reset with mems := [wrBytes [] 0 [1], [], [], []] } }, { tableState with host := { HostSide.reset with mems := [wrBytes [] 0 [1], [], [], []] } }, { tableState with host := { HostSide.reset with mems := [wrBytes [] 0 [1], [], [], []] } }, 1, 1, { bytes := 1 :: List.replicate 63 0, fail := none, twin := false, events := [] }, [(0, [0, 0, 0, 0])], [], List.replicate 16 Seg.empty, [], (tbPairing, 0), by refine ⟨?_, ?_, ?_, ?_, ?_, ?_, ?_, ?_, ?_, ?_⟩ <;> first | rfl | decide +kernel⟩

theorem witness_TablesAreSynced_4 : ∃ (s s1 s2 : State), ∃ (i : Nat), ∃ (v : Word), ∃ (h : MemRead), pageOpen s i = true ∧ (getInst s i).st ≠ .resetting
    ∧ readHost (fnOf s i) ((getInst s i).regs.tblAddr.toNat / 64 * 64) 64 s = (h, s1) ∧ h.fail = none ∧ fld (wordAt
    h.bytes 0) 0 32 = ((getInst s i).devGen + 1) % 2 ^ 32 :=
  ⟨tableState, tableState, tableState, 1, 1, { bytes := [1] ++ List.replicate 63 0, fail := none, twin := false, events := [] }, by decide +kernel⟩

theorem witness_TablesAreSynced_5 : ∃ (s s1 s2 s3 : State), ∃ (i : Nat), ∃ (v : Word), ∃ (h : MemRead), ∃ (segw winw : Table (List Word)), ∃ (segs :
    List Seg), ∃ (wins : Table Win), pageOpen s i = true ∧ (getInst s i).st ≠ .resetting ∧ readHost (fnOf s i) ((getInst
    s i).regs.tblAddr.toNat / 64 * 64) 64 s = (h, s1) ∧ h.fail = none ∧ fld (wordAt h.bytes 0) 0 32 = ((getInst s
    i).devGen + 1) % 2 ^ 32 ∧ (readEntries (fnOf s i) ((getInst s i).regs.tblAddr.toNat / 64 * 64 + 64) ((List.range
    16).filter fun k => bit v k) s1 = (.ok segw, s2)) ∧ (readEntries (fnOf s i) ((getInst s i).regs.tblWinAddr.toNat /
    4096 * 4096) (((List.range (fld v 32 17)).map (fun k => k + fld v 16 16)).filter (· < 65536)) s2 = (.ok winw, s3)) ∧
    (segs = (List.range 16).map fun k => (tget segw k).elim ((getInst s i).segs.getD k Seg.empty) segOfWords) ∧ (wins =
    winw.foldl (fun t p => if (winOfWords p.2).valid then tset t p.1 (winOfWords p.2) else tdel t p.1) (getInst s
    i).wins) ∧ tblFinding s3 i v segw winw segs wins = none :=
  ⟨tableState, tableState, tableState, tableState, 1, 1, { bytes := [1] ++ List.replicate 63 0, fail := none, twin := false, events := [] }, [(0, wordsOfSeg hostSeg)], [], inst1.segs, [], by refine ⟨?_, ?_, ?_, ?_, ?_, ?_, ?_, ?_, ?_, ?_⟩ <;> first | rfl | decide +kernel⟩

theorem witness_TablesAreSynced_6 : ∃ (s s1 s2 s3 : State), ∃ (i : Nat), ∃ (v : Word), ∃ (h : MemRead), ∃ (segw winw : Table (List Word)), ∃ (segs
    placed : List Seg), ∃ (wins : Table Win), pageOpen s i = true ∧ (getInst s i).st ≠ .resetting ∧ readHost (fnOf s i)
    ((getInst s i).regs.tblAddr.toNat / 64 * 64) 64 s = (h, s1) ∧ h.fail = none ∧ fld (wordAt h.bytes 0) 0 32 =
    ((getInst s i).devGen + 1) % 2 ^ 32 ∧ (readEntries (fnOf s i) ((getInst s i).regs.tblAddr.toNat / 64 * 64 + 64)
    ((List.range 16).filter fun k => bit v k) s1 = (.ok segw, s2)) ∧ (readEntries (fnOf s i) ((getInst s
    i).regs.tblWinAddr.toNat / 4096 * 4096) (((List.range (fld v 32 17)).map (fun k => k + fld v 16 16)).filter (· <
    65536)) s2 = (.ok winw, s3)) ∧ (segs = (List.range 16).map fun k => (tget segw k).elim ((getInst s i).segs.getD k
    Seg.empty) segOfWords) ∧ (wins = winw.foldl (fun t p => if (winOfWords p.2).valid then tset t p.1 (winOfWords p.2)
    else tdel t p.1) (getInst s i).wins) ∧ tblFinding s3 i v segw winw segs wins = none ∧ wins.length ≤ fld (wd (getInst
    s i).record 0) 21 17 ∧ overQuota (getInst s i) (getInst s i).segs segs = none ∧ placeStorage s3 i (getInst s i).segs
    16 0 segs = .ok placed :=
  ⟨tableState, tableState, tableState, tableState, 1, 1, { bytes := [1] ++ List.replicate 63 0, fail := none, twin := false, events := [] }, [(0, wordsOfSeg hostSeg)], [], inst1.segs, inst1.segs, [], by refine ⟨?_, ?_, ?_, ?_, ?_, ?_, ?_, ?_, ?_, ?_, ?_, ?_, ?_⟩ <;> first | rfl | decide +kernel⟩

theorem witness_EndpointsAreSynced_1 : ∃ (s s1 : State), ∃ (v : Word), ∃ (b : Bool), ∃ (d : MemRead), ∃ (old : Endpoint), mgrOpen s = true ∧ readHost
    (mgrFn s) (s.misc.epDesc.toNat / 32 * 32) 32 s = (d, s1) ∧ old = (tget s.endpoints (fld v 0 6)).getD Endpoint.empty :=
  ⟨tenantState, tenantState, 0, true, (readHost pf0 0 32 tenantState).1, Endpoint.empty, by decide +kernel⟩

theorem witness_EndpointsAreSynced_2 : ∃ (s s1 s2 : State), ∃ (v : Word), ∃ (b : Bool), ∃ (d r : MemRead), ∃ (old new : Endpoint), ∃ (nums : List Nat),
    mgrOpen s = true ∧ readHost (mgrFn s) (s.misc.epDesc.toNat / 32 * 32) 32 s = (d, s1) ∧ old = (tget s.endpoints (fld
    v 0 6)).getD Endpoint.empty ∧ d.fail = none ∧ fld (wd (wordsOf d.bytes 4) 3) 0 32 = (old.gen + 1) % 2 ^ 32 ∧ (new =
    if b then bindOf (wordsOf d.bytes 4) old else old) ∧ (((if fld v 26 19 = 0 ∨ (b && !new.valid) = true then
    ({ bytes := [], fail := none, twin := false, events := [] }, s1) else readHost (mgrFn s) (new.rtAddr + 4 * fld v 8
    18) (4 * fld v 26 19) s1) = (r, s2))) ∧ (nums = (List.range (fld v 26 19)).map fun k => leNat ((r.bytes.drop (4 *
    k)).take 4)) :=
  ⟨bindState, bindState, bindState, 0x8000000, true, (readHost pf0 0 32 bindState).1, { bytes := [0, 0, 0, 0, 7, 0, 0, 0], fail := none, twin := false, events := [] }, Endpoint.empty, bindOf bindWords Endpoint.empty, [0, 7], by refine ⟨?_, ?_, ?_, ?_, ?_, ?_, ?_, ?_⟩ <;> first | rfl | decide +kernel⟩

theorem witness_LigaturesAndKeysAreLoaded_1 : ∃ (s : State), ∃ (i n : Nat), ∃ (b : Bool), pageOpen s i = true ∧ n < 65536 ∧ (getInst s i).st = .resetting :=
  ⟨ligState fun x => { x with st := .resetting }, 1, 1, true, by decide⟩

theorem witness_LigaturesAndKeysAreLoaded_2 : ∃ (s : State), ∃ (i n : Nat), ∃ (b : Bool), pageOpen s i = true ∧ n < 65536 ∧ (getInst s i).st ≠ .resetting ∧ ((n =
    0 ∨ ligEntries (getInst s i) ≤ n)) :=
  ⟨ligState id, 1, 4, true, by decide⟩

theorem witness_LigaturesAndKeysAreLoaded_3 : ∃ (s s1 : State), ∃ (i n : Nat), ∃ (g : Seg), ∃ (r : MemRead), pageOpen s i = true ∧ 0 < n ∧ n < ligEntries (getInst
    s i) ∧ (getInst s i).st ≠ .resetting ∧ findSeg (getInst s i).segs ((getInst s i).regs.ligAddr.toNat / 64 * 64) 64
    true false = some g ∧ g.kind < 4 ∧ readSeg i g ((getInst s i).regs.ligAddr.toNat / 64 * 64) 64 s = (r, s1) :=
  ⟨ligState id, ligState id, 1, 3, hostSeg, { bytes := List.replicate 64 0, fail := none, twin := false, events := [] }, by refine ⟨?_, ?_, ?_, ?_, ?_, ?_, ?_⟩ <;> first | rfl | decide +kernel⟩

theorem witness_LigaturesAndKeysAreLoaded_4 : ∃ (s : State), ∃ (i n : Nat), pageOpen s i = true ∧ 0 < n ∧ n < ligEntries (getInst s i) ∧ (getInst s i).st ≠
    .resetting :=
  ⟨ligState id, 1, 1, by decide⟩

theorem witness_LigaturesAndKeysAreLoaded_5 : ∃ (s : State), ∃ (i n : Nat), ∃ (x : Inst), pageOpen s i = true ∧ n < 65536 ∧ x = getInst s i :=
  ⟨ligState id, 1, 1, inst4 id, by decide⟩

theorem witness_LigaturesAndKeysAreLoaded_6 : ∃ (s : State), ∃ (i n : Nat), ∃ (k : KeySlot), pageOpen s i = true ∧ n < 65536 ∧ tget (getInst s i).keys n = some k
    ∧ k.erased = false :=
  ⟨ligState fun x => { x with keys := [(1, slotKey)] }, 1, 1, slotKey, by decide⟩

theorem witness_LigaturesAndKeysAreLoaded_7 : ∃ (s : State), ∃ (i n : Nat), pageOpen s i = true ∧ n < 65536 ∧ ((tget (getInst s i).keys n).map (·.erased)).getD
    true = true :=
  ⟨ligState fun x => { x with keys := [(1, { slotKey with erased := true })] }, 1, 1, by decide⟩

theorem witness_RouteBanksAreLoaded_1 : ∃ (s u : State), ∃ (v : Word), barAnswers s = true ∧ u = writeRouteLoad v s :=
  ⟨runningState, writeRouteLoad 0 runningState, 0, by decide⟩

theorem witness_RouteBanksAreLoaded_2 : ∃ (s u : State), ∃ (v : Word), ∃ (t : Table RouteEntry), ∃ (b : BankState), barAnswers s = true ∧ u = writeRouteLoad
    v s ∧ bankOf u (bit v 16) = (t, b) :=
  ⟨runningState, writeRouteLoad 0 runningState, 0, [], runningState.fabric.bank0, by decide⟩

theorem witness_RouteBanksAreLoaded_3 : ∃ (s u : State), ∃ (v : Word), barAnswers s = true ∧ (u = modFabric (fun f => { f with
      data1 := v
      load := if bit f.load 17 then setFld f.load 0 16 ((fld s.fabric.load 0 16 + 1) % 65536) else f.load }) s) :=
  ⟨runningState, modFabric (fun f => { f with data1 := 5, load := if bit f.load 17 then setFld f.load 0 16 1 else f.load }) runningState, 5, by decide⟩

theorem witness_RouteBanksAreLoaded_4 : ∃ (s : State), ∃ (e : Bool), running s = true ∧ ((e = true → s.fabric.bank0 ≠ .draining)) ∧ (if e then
    s.fabric.bank1 else s.fabric.bank0) = .draining :=
  ⟨{ runningState with fabric := { runningState.fabric with bank1 := .draining } }, true, by decide⟩

theorem witness_GalleyWindowReachesIt_1 : ∃ (s u : State), ∃ (c : Bool), ∃ (f : Upset), ∃ (ga : Nat), ∃ (v : Word), ∃ (range known ecc : Bool), mgrOpen s =
    true ∧ ga = winGa s ∧ winFind s ga = (v, range, known) ∧ ecc = (known || (!range && (f == .soft || f == .hard))) ∧
    (u = if range then s else galleyAccess mWindow (some 1) s) :=
  ⟨{ runningState with galley := { runningState.galley with winAddr := 0x13C00000, tallyFailed := [(0, 1)] } }, galleyAccess mWindow (some 1) { runningState with galley := { runningState.galley with winAddr := 0x13C00000, tallyFailed := [(0, 1)] } }, false, .clean, 0x13C00000, 0, false, true, true, by decide, by decide, by decide, by decide, rfl⟩

theorem witness_GalleyWindowReachesIt_2 : ∃ (s : State), ∃ (c : Bool), ∃ (f : Upset), ∃ (v : Word), mgrOpen s = false :=
  ⟨State.reset, true, .clean, 5, by decide⟩

theorem witness_GalleyWindowReachesIt_4 : ∃ (s : State), ∃ (v : Word), ∃ (c : Bool), ∃ (ga u : Nat), mgrOpen s = true ∧ ga = winGa s ∧ regionOf s ga = .unit u :=
  ⟨runningState, 5, true, 0, 0, by decide⟩

theorem witness_GalleyWindowReachesIt_5 : ∃ (s : State), ∃ (v : Word), ∃ (c : Bool), ∃ (ga a : Nat), mgrOpen s = true ∧ ga = winGa s ∧ ((regionOf s ga =
    .working ∨ regionOf s ga = .setAlias a ∨ regionOf s ga = .clearAlias a)) :=
  ⟨{ runningState with galley := { runningState.galley with winAddr := 0x14000008 } }, 5, true, 0x14000008, 0x10000008, by decide⟩

theorem witness_GalleyWindowReachesIt_6 : ∃ (s : State), ∃ (v : Word), ∃ (c : Bool), ∃ (n : Nat), mgrOpen s = true ∧ ((regionOf s (winGa s) = .tally n ∨
    regionOf s (winGa s) = .tallyCopy n ∨ regionOf s (winGa s) = .none)) :=
  ⟨{ runningState with galley := { runningState.galley with winAddr := 0x13C00000 } }, 5, false, 0, by decide⟩

theorem witness_GalleyWindowReachesIt_7 : ∃ (s : State), ∃ (b r : Bool), ∃ (e : Option Bool), bit s.galley.winAddr 29 = true :=
  ⟨{ runningState with galley := { runningState.galley with winAddr := 0x20000000 } }, false, false, none, by decide⟩

theorem witness_GalleyWindowReachesIt_8 : ∃ (s : State), mgrOpen s = true :=
  ⟨runningState, by decide⟩

theorem witness_GalleyTesterFinds_1 : ∃ (s : State), ∃ (w l : Nat), ∃ (col : Option Nat), ∃ (hold : Option DRef), ∃ (f : Upset), running s = true ∧ ((fld
    s.galley.ctrl 0 8 ≠ 0 ∨ hold.isSome = true)) ∧ w * 64 < 0x14000000 ∧ regionOf s (w * 64) ≠ .none :=
  ⟨{ runningState with galley := { runningState.galley with ctrl := 5 } }, 0, 0, none, none, .clean, by decide⟩

theorem witness_GalleyTesterFinds_3 : ∃ (s : State), ∃ (w l u : Nat), ∃ (hard : Bool), ∃ (hold : Option DRef), regionOf s (w * 64) = .unit u ∧ inPool s u
    = true :=
  ⟨runningState, 0, 0, 0, true, none, by decide⟩

theorem witness_GalleyTesterFinds_4 : ∃ (s t u : State), ∃ (w l : Nat), ∃ (hard : Bool), ∃ (hold : Option DRef), regionOf s (w * 64) = .working ∧ (t =
    modGalley (fun g => { g with badLanes := tset g.badLanes (w * 64 / 8 + l) (if hard then .hard else .soft) }) s) ∧ (u
    = if s.galley.withdrawn.contains w then t else modGalley (fun g =>
    { g with withdrawn := g.withdrawn ++ [w], free := g.free - 64 }) t) :=
  ⟨runningState, modGalley (fun g => { g with badLanes := tset g.badLanes 0x2000000 .hard }) runningState, modGalley (fun g => { g with withdrawn := g.withdrawn ++ [0x400000], free := g.free - 64 }) (modGalley (fun g => { g with badLanes := tset g.badLanes 0x2000000 .hard }) runningState), 0x400000, 0, true, none, by decide⟩

theorem witness_GalleyTesterFinds_5 : ∃ (s : State), ∃ (n copy : Nat), ∃ (hard : Bool), copyFailed s n (1 - copy) = true :=
  ⟨{ runningState with galley := { runningState.galley with tallyFailed := [(0, 1)] } }, 0, 1, false, by decide⟩

theorem witness_GalleyTesterFinds_6 : ∃ (s : State), ∃ (n copy : Nat), ∃ (hard : Bool), copyFailed s n (1 - copy) = false ∧ copyFailed s n copy = false :=
  ⟨runningState, 0, 0, true, by decide⟩

theorem witness_GalleyTesterFinds_7 : ∃ (s u : State), ∃ (d : DRef), ∃ (ga : Nat), ∃ (q : Queue), ∃ (r : Run), ∃ (p : PressRun), ((pressRuns s).find? (fun
    x => x.1 == d && decide (0 < x.2.2.2.galley)) = some (d, q, r, p)) ∧ (u = modPower (fun y =>
    { y with permits := delFirst y.permits (fun x => x.d == d), waits := y.waits.filter fun x => x.d != d }) (meter s)) :=
  ⟨pressState fun r => { r with press := some { newPress 0 with galley := 64 } }, modPower (fun y => { y with permits := delFirst y.permits (fun x => x.d == ref0), waits := y.waits.filter fun x => x.d != ref0 }) (meter (pressState fun r => { r with press := some { newPress 0 with galley := 64 } })), ref0, 0x10000000, pressQueue fun r => { r with press := some { newPress 0 with galley := 64 } }, pressRun0 fun r => { r with press := some { newPress 0 with galley := 64 } }, { newPress 0 with galley := 64 }, by decide⟩

theorem witness_EventsAreRecorded_1 : ∃ (s : State), ∃ (e : Event), e.cls < s.faults.ledger.length :=
  ⟨runningState, event 1 2 2 37 64, by decide⟩

theorem witness_EventsAreRecorded_3 : ∃ (s : State), ∃ (e : Event), escLevel e s ≠ 1 ∧ (s.faults.wi + 512 - s.faults.ri) % 512 ≠ 256 :=
  ⟨runningState, event 1 2 2 37 64, by decide⟩

theorem witness_EventsAreRecorded_4 : ∃ (s : State), ∃ (e : Event), escLevel e s ≠ 1 ∧ (s.faults.wi + 512 - s.faults.ri) % 512 = 256 :=
  ⟨{ runningState with faults := { runningState.faults with wi := 256 } }, event 1 2 2 37 64, by decide⟩

theorem witness_EventsAreRecorded_5 : ∃ (s : State), ∃ (e : Event), escLevel e s = 1 ∧ (fld s.quoin.now.faultResp 20 8 ≤ ((s.faults.l1Times.getD e.cls
    []).filter fun t => decide (s.clk.ptp < t + 10000000)).length) :=
  ⟨{ runningState with quoin := { Quoin.reset with now := { NowRegs.reset with faultResp := 0 } } }, event 1 1 1 0 64, by decide⟩

theorem witness_EventsAreRecorded_6 : ∃ (s : State), ∃ (e : Event), ∃ (c : LedgerClass), c = s.faults.ledger.getD e.cls LedgerClass.reset :=
  ⟨runningState, event 1 2 2 37 64, LedgerClass.reset, by decide⟩

theorem witness_SafeStateIsEntered_1 : ∃ (s : State), ∃ (e : Event), escLevel e s ≠ 4 :=
  ⟨runningState, event 1 2 2 37 64, by decide⟩

theorem witness_SafeStateIsEntered_2 : ∃ (s t : State), ∃ (e : Event), s.startup ≠ .safe ∧ escLevel e s = 4 ∧ t = latch e s :=
  ⟨runningState, latch (event 15 1 4 0 0) runningState, event 15 1 4 0 0, by refine ⟨?_, ?_, ?_⟩ <;> first | rfl | decide +kernel⟩

theorem witness_SafeStateIsEntered_3 : ∃ (s : State), ∃ (k : Word), barAnswers s = true :=
  ⟨runningState, 0, by decide⟩

theorem witness_SafeStateIsEntered_4 : ∃ (s : State), powered s = true :=
  ⟨runningState, by decide⟩

theorem witness_SafeStateIsEntered_5 : ∃ (s : State), ∃ (a b : Nat), awake s = true ∧ a < 64 :=
  ⟨runningState, 3, 1, by decide⟩

theorem witness_FaultyUnitsAreReplaced_1 : ∃ (s : State), ∃ (u : Nat), ∃ (x : DRef × Queue × Run × PressRun), running s = true ∧ ((pressRuns s).find? (fun x =>
    x.2.2.2.flying.any fun b => b.unit == u) = some x) :=
  ⟨pressState fun r => { r with press := some { newPress 0 with flying := [flying5] } }, 5, (ref0, pressQueue fun r => { r with press := some { newPress 0 with flying := [flying5] } }, pressRun0 fun r => { r with press := some { newPress 0 with flying := [flying5] } }, { newPress 0 with flying := [flying5] }), by decide⟩

theorem witness_FaultyUnitsAreReplaced_2 : ∃ (s : State), ∃ (p : Nat), ∃ (x : UnitState), ∃ (b : Bool), awake s = true ∧ s.faults.pairs[p]? = some x ∧ x ≠
    .retired :=
  ⟨runningState, 3, .active, true, by decide⟩

theorem witness_FaultyUnitsAreReplaced_3 : ∃ (s : State), ∃ (k u : Nat), ∃ (x : UnitState), s.faults.units[u]? = some x :=
  ⟨runningState, 1, 3, .active, by decide⟩

theorem witness_FaultyUnitsAreReplaced_4 : ∃ (s : State), ∃ (k u : Nat), ∃ (r : Recovery), ticking s = true ∧ findState s.faults.units .spare ≠ some u ∧ r ∈
    s.faults.recoveries ∧ r.cls = 0 ∧ r.entered = false ∧ r.spare = some u :=
  ⟨{ tickingState with faults := { tickingState.faults with recoveries := [{ cls := 0, latchedIn := 1, part := 3, spare := some 97, entered := false }] } }, 1, 97, { cls := 0, latchedIn := 1, part := 3, spare := some 97, entered := false }, by decide +kernel⟩

theorem witness_FaultyUnitsAreReplaced_5 : ∃ (s : State), ∃ (k u v : Nat), ticking s = true ∧ findState s.faults.units .spare = some v ∧ v ≠ u :=
  ⟨tickingState, 1, 3, 96, by decide⟩

theorem witness_FaultyUnitsAreReplaced_6 : ∃ (s : State), ∃ (k u : Nat), ticking s = true ∧ findState s.faults.units .spare = none :=
  ⟨{ tickingState with faults := { tickingState.faults with units := List.replicate 96 .active ++ List.replicate 4 .retired } }, 1, 3, by decide⟩

theorem witness_FaultyUnitsAreReplaced_7 : ∃ (s : State), ∃ (e : Nat), awake s = true ∧ e < 24 ∧ s.faults.engines.contains e = false :=
  ⟨runningState, 23, by decide⟩

theorem witness_FaultyUnitsAreReplaced_8 : ∃ (s : State), ∃ (v : Word), barAnswers s = true :=
  ⟨runningState, 0, by decide⟩

theorem witness_FaultyUnitsAreReplaced_9 : ∃ (s : State), ∃ (k p : Nat), (s.faults.units.length = 100) ∧ (s.faults.pairs.length = 10) :=
  ⟨runningState, 1, 2, by decide⟩

theorem witness_WatchDomainActs_1 : ∃ (s : State), ∃ (m : BitVec 16), ∃ (c : Nat), ledgerAnswers s = true ∧ c < 16 ∧ s.faults.ledger.length = 16 :=
  ⟨runningState, 5, 2, by decide⟩

theorem witness_WatchDomainActs_2 : ∃ (s : State), ∃ (v : Word), ledgerAnswers s = true :=
  ⟨runningState, 5, by decide⟩

theorem witness_WatchDomainActs_3 : ∃ (s : State), powered s = true ∧ s.faults.aliveOn = true :=
  ⟨{ runningState with faults := { runningState.faults with aliveOn := true } }, by decide⟩

theorem witness_WatchDomainActs_4 : ∃ (s : State), ∃ (a b : Bool), wdogRuns s = true :=
  ⟨{ runningState with faults := { runningState.faults with wdogOn := true } }, true, true, by decide⟩

theorem witness_WatchDomainActs_5 : ∃ (s : State), ∃ (k : Nat), ∃ (c : Comparator), powered s = true ∧ k < 8 ∧ c = comparator s k ∧ bit c.ctrl 0 = true
    ∧ ((bit c.ctrl 1 = true → c.value.toNat ≤ s.time.tick)) :=
  ⟨{ runningState with power := { runningState.power with comparators := [{ ctrl := 5, value := 7, period := 0 }] } }, 0, { ctrl := 5, value := 7, period := 0 }, by decide⟩

theorem witness_PowerStatesChange_1 : ∃ (s : State), ∃ (l : List Nat), powered s = true ∧ l.length = 16 ∧ ((∀ c ∈ l, c ≤ 95)) :=
  ⟨runningState, List.replicate 16 60, by decide⟩

theorem witness_PowerStatesChange_2 : ∃ (s : State), ∃ (l : List Nat), ∃ (k c : Nat), powered s = true ∧ l.length = 16 ∧ hotSensor l 95 = some (k, c) ∧
    hotSensor l 105 = none :=
  ⟨runningState, List.replicate 15 60 ++ [100], 15, 100, by decide⟩

theorem witness_PowerStatesChange_3 : ∃ (s : State), ∃ (l : List Nat), ∃ (k c j d : Nat), powered s = true ∧ l.length = 16 ∧ hotSensor l 95 = some (k, c)
    ∧ hotSensor l 105 = some (j, d) :=
  ⟨runningState, List.replicate 15 60 ++ [106], 15, 106, 15, 106, by decide⟩

theorem witness_PowerStatesChange_4 : ∃ (s u : State), running s = true ∧ u = waitMono (s.power.lastBlock + idleTime s) s ∧ s.power.st = .active ∧ ((∀ x ∈
    pressRuns s, x.2.2.2.flying = [])) ∧ blockDue s = false ∧ ((∀ t, ungateTime u = some t → u.clk.ptp < t)) :=
  ⟨runningState, waitMono (runningState.power.lastBlock + idleTime runningState) runningState, by refine ⟨?_, ?_, ?_, ?_, ?_, ?_⟩ <;> first | rfl | (decide +kernel) | (intro x hx; exact absurd hx (by decide +kernel)) | (intro t ht; exact absurd ht (by simp [ungateTime, nextEntry, runningState, waitMono, pass, State.reset]))⟩

theorem witness_PowerStatesChange_5 : ∃ (s : State), running s = true ∧ s.power.st = .idle :=
  ⟨{ runningState with power := { runningState.power with st := .idle } }, by decide⟩

theorem witness_PowerStatesChange_6 : ∃ (s : State), running s = true :=
  ⟨runningState, by decide⟩

theorem witness_PowerStatesChange_7 : ∃ (s : State), inKeeping s = true :=
  ⟨{ runningState with power := { runningState.power with st := .keeping } }, by decide⟩

theorem witness_PowerStatesChange_8 : ∃ (s : State), running s = true ∧ s.power.keepSince.isSome = true ∧ quiescent s = true :=
  ⟨{ runningState with power := { runningState.power with keepSince := some 0 } }, by decide⟩

theorem witness_PowerStatesChange_9 : ∃ (s : State), timeSource s = 1 ∧ ptpPort s < 48 ∧ ((s.time.servo = .locked ∨ s.time.servo = .acquiring)) :=
  ⟨{ runningState with time := { runningState.time with servo := .locked }, quoin := { runningState.quoin with now := { runningState.quoin.now with timeCtrl := 1 } } }, by decide⟩

theorem witness_PowerStatesChange_10 : ∃ (s : State), ∃ (t : Nat), running s = true ∧ quiescent s = false ∧ s.power.keepSince = some t :=
  ⟨{ fetchedState with power := { fetchedState.power with keepSince := some 0 } }, 0, by decide⟩

theorem witness_PowerStatesChange_11 : ∃ (s : State), ∃ (r m : Nat), powered s = true ∧ railBad r m = true :=
  ⟨runningState, 2, 700, by decide⟩

theorem witness_PowerStatesChange_12 : ∃ (r m v p : Nat), railLimits[r]? = some (v, p) :=
  ⟨0, 800, 800, 3, by decide⟩

theorem witness_BootMailboxWorks_1 : ∃ (s : State), s.startup = .off :=
  ⟨State.reset, by decide⟩

theorem witness_BootMailboxWorks_3 : ∃ (s : State), powered s = true ∧ s.startup ≠ .safe :=
  ⟨runningState, by decide⟩

theorem witness_BootMailboxWorks_4 : ∃ (s : State), ∃ (c : Nat × Instr), ∃ (r : Nat), barAnswers s = true ∧ c ∈ bootCommands ∧ goRefused c.1 s = some r :=
  ⟨runningState, (1, .bootFirmware), 6, by decide⟩

theorem witness_BootMailboxWorks_6 : ∃ (s u : State), ∃ (img : List Byte), ∃ (f : Option (Nat × Nat)), barAnswers s = true ∧ goRefused 1 s = none ∧
    readImage s = (some img, u) ∧ imageFinding 1 img u = f :=
  ⟨bareState, bareState, [], some (0, 1), by refine ⟨?_, ?_, ?_, ?_⟩ <;> decide +kernel⟩

theorem witness_BootMailboxWorks_7 : ∃ (s u : State), ∃ (img : List Byte), ∃ (f : Option (Nat × Nat)), barAnswers s = true ∧ goRefused 2 s = none ∧
    readImage s = (some img, u) ∧ imageFinding 2 img u = f :=
  ⟨{ bareState with boot := { bareState.boot with firmware := some [] } }, { bareState with boot := { bareState.boot with firmware := some [] } }, [], some (0, 1), by refine ⟨?_, ?_, ?_, ?_⟩ <;> decide +kernel⟩

theorem witness_BootMailboxWorks_8 : ∃ (s u v : State), ∃ (bs : List Byte), barAnswers s = true ∧ goRefused 3 s = none ∧ readImage s = (some bs, u) ∧ (v
    = (if u.boot.keyDerived then u else modBoot (fun b => { b with keyDerived := true }) (waitMono (u.boot.startedAt +
    3000000000) u))) :=
  ⟨{ bareState with boot := { bareState.boot with keyDerived := true } }, { bareState with boot := { bareState.boot with keyDerived := true } }, { bareState with boot := { bareState.boot with keyDerived := true } }, [], by refine ⟨?_, ?_, ?_, ?_⟩ <;> decide +kernel⟩

theorem witness_BootMailboxWorks_9 : ∃ (s u : State), ∃ (img : List Byte), barAnswers s = true ∧ goRefused 4 s = none ∧ readImage s = (some img, u) :=
  ⟨{ bareState with startup := .running }, { bareState with startup := .running }, [], by refine ⟨?_, ?_, ?_⟩ <;> decide +kernel⟩

theorem witness_BootMailboxWorks_10 : ∃ (s u : State), ∃ (k : Nat × Instr), barAnswers s = true ∧ k ∈ bootCommands ∧ k.1 < 5 ∧ goRefused k.1 s = none ∧
    readImage s = (none, u) :=
  ⟨{ bareState with hatches := [], boot := { bareState.boot with len := 64 } }, { bareState with hatches := [], boot := { bareState.boot with len := 64 } }, (1, .bootFirmware), by refine ⟨?_, ?_, ?_, ?_, ?_⟩ <;> decide +kernel⟩

theorem witness_BootMailboxWorks_11 : ∃ (s : State), barAnswers s = true ∧ goRefused 5 s = none :=
  ⟨runningState, by decide⟩

theorem witness_BootMailboxWorks_12 : ∃ (s : State), ∃ (p r : Nat), escLevel (event 13 1 3 p r) s = 3 :=
  ⟨runningState, 2, 5, by decide⟩

theorem witness_StewardAnswers_1 : ∃ (s u : State), ∃ (bs : List Byte), ∃ (c : Nat × Instr), running s = true ∧ c ∈ stewardCommands .mailbox ∧
    readFrame s = (some bs, u) ∧ stwCmd (wordsOf bs 4) = c.1 :=
  ⟨frameState 4 0, frameState 4 0, bytesOf [4, 1, 0, 0], (4, .instQuery .mailbox), by refine ⟨?_, ?_, ?_, ?_⟩ <;> first | rfl | decide +kernel⟩

theorem witness_StewardAnswers_2 : ∃ (s u : State), ∃ (c : Nat × Instr), running s = true ∧ c ∈ stewardCommands .mailbox ∧ readFrame s = (none, u) :=
  ⟨{ frameState 4 0 with hatches := [] }, { frameState 4 0 with hatches := [] }, (4, .instQuery .mailbox), by refine ⟨?_, ?_, ?_⟩ <;> first | rfl | decide +kernel⟩

theorem witness_StewardAnswers_3 : ∃ (s : State), ∃ (n : Nat), ∃ (bs : List Byte), ∃ (c : Nat × Instr), running s = true ∧ c ∈ stewardCommands
    (.mgmtPort n bs) ∧ stwCmd (wordsOf bs 4) = c.1 :=
  ⟨tenantState, 0, bytesOf [4, 1, 0, 0], (4, .instQuery (.mgmtPort 0 (bytesOf [4, 1, 0, 0]))), by refine ⟨?_, ?_, ?_⟩ <;> first | rfl | decide +kernel⟩

theorem witness_StewardAnswers_4 : ∃ (s : State), ∃ (ch : StwChannel), ∃ (bs : List Byte), ∃ (w : List Word), w = wordsOf bs 4 ∧ ((stwCmd w = 1 ∨
    stwCmd w = 2 ∨ stwCmd w = 3 ∨ stwCmd w = 4 ∨ stwCmd w = 5 ∨ stwCmd w = 0x10 ∨ stwCmd w = 0x11 ∨ stwCmd w = 0x12)) :=
  ⟨tenantState, .mailbox, bytesOf [4, 1, 0, 0], wordsOf (bytesOf [4, 1, 0, 0]) 4, by decide⟩

theorem witness_StewardAnswers_6 : ∃ (s : State), ∃ (ch : StwChannel), ∃ (w r : List Word), ∃ (x : Inst), x = getInst s (stwInst w) :=
  ⟨tenantState, .mailbox, [5, 1, 0, 0], [], inst1, by decide⟩

theorem witness_StewardAnswers_7 : ∃ (s : State), ∃ (ch : StwChannel), ∃ (w : List Word), ∃ (x : Inst), ∃ (b : Bool), x = getInst s (stwInst w) :=
  ⟨tenantState, .mailbox, [3, 1, 0, 0], inst1, true, by decide⟩

theorem witness_StewardAnswers_8 : ∃ (s : State), ∃ (ch : StwChannel), ∃ (w : List Word), ∃ (p : ParkedSet), oldestSet s (stwToken w) = some p :=
  ⟨{ tenantState with steward := { tenantState.steward with parked := [{ token := 5, segs := [] }] } }, .mailbox, [0x10, 1, 5, 0], { token := 5, segs := [] }, by decide⟩

theorem witness_StewardAnswers_9 : ∃ (s : State), ∃ (ch : StwChannel), ∃ (w : List Word), oldestSet s (stwToken w) = none :=
  ⟨tenantState, .mailbox, [0x10, 1, 5, 0], by decide⟩

theorem witness_StewardAnswers_10 : ∃ (s : State), ∃ (ch : StwChannel), ∃ (w : List Word), ∃ (p : ParkedSet), ∃ (x : Inst), oldestSet s (stwToken w) =
    some p ∧ x = getInst s (stwTarget w) ∧ x.st = .active :=
  ⟨{ tenantState with steward := { tenantState.steward with parked := [{ token := 5, segs := [] }] } }, .mailbox, [0x11, 1, 5, 1], { token := 5, segs := [] }, inst1, by decide⟩

theorem witness_InstancesResetAndClear_2 : ∃ (s : State), ∃ (i : Nat), running s = true ∧ (((getInst s i).st ≠ .resetting ∨ (getInst s i).clearing = true)) :=
  ⟨tenantState, 1, by decide⟩

theorem witness_InstancesResetAndClear_3 : ∃ (s u : State), ∃ (i : Nat), ∃ (x : Inst), running s = true ∧ x = getInst s i ∧ x.st = .resetting ∧ x.clearing =
    false ∧ (u = clearSegs i (dropInbound i (modPower (fun p =>
    { p with waits := p.waits.filter (fun y => y.d.inst != i), permits := p.permits.filter fun y => y.d.inst != i })
    (meter (each x.queues (clearQueue i) s))))) :=
  ⟨resetState, clearSegs 1 (dropInbound 1 (modPower (fun p => { p with waits := p.waits.filter (fun y => y.d.inst != 1), permits := p.permits.filter fun y => y.d.inst != 1 }) (meter (each (getInst resetState 1).queues (clearQueue 1) resetState)))), 1, getInst resetState 1, by refine ⟨?_, ?_, ?_, ?_, ?_⟩ <;> first | rfl | decide +kernel⟩

theorem witness_InstancesResetAndClear_4 : ∃ (s : State), ∃ (i : Nat), ∃ (x : Inst), x = getInst s i :=
  ⟨tenantState, 1, inst1, by decide⟩

theorem witness_InstancesResetAndClear_5 : ∃ (s : State), ∃ (i : Nat), (wd (getInst s i).record 4 = 0 ∨ ∀ g ∈ (getInst s i).segs, parks g = false) :=
  ⟨tenantState, 1, by decide⟩

theorem witness_HatchLinksChange_1 : ∃ (s v : State), ∃ (h g w : Nat), mayTrain s h = true ∧ linkLegal s h g w = true ∧ v = (if (getHatch s h).sris then
    waitMono ((getHatch s h).released + 1000000) s else s) ∧ (((getHatch s h).link = .down ∨ (getHatch s h).link =
    .training)) ∧ s.startup ≠ .powerOn :=
  ⟨hatchState .down, hatchState .down, 0, 6, 16, by decide⟩

theorem witness_HatchLinksChange_2 : ∃ (s v : State), ∃ (g w : Nat), mayTrain s 0 = true ∧ linkLegal s 0 g w = true ∧ v = (if (getHatch s 0).sris then
    waitMono ((getHatch s 0).released + 1000000) s else s) ∧ (((getHatch s 0).link = .down ∨ (getHatch s 0).link =
    .training)) ∧ s.startup = .powerOn :=
  ⟨{ hatchState .down with startup := .powerOn }, { hatchState .down with startup := .powerOn }, 6, 16, by decide⟩

theorem witness_HatchLinksChange_3 : ∃ (s v : State), ∃ (h g w : Nat), mayTrain s h = true ∧ linkLegal s h g w = true ∧ v = (if (getHatch s h).sris then
    waitMono ((getHatch s h).released + 1000000) s else s) ∧ (getHatch s h).link = .recovery :=
  ⟨hatchState .recovery, hatchState .recovery, 0, 6, 16, by decide⟩

theorem witness_HatchLinksChange_4 : ∃ (s u : State), ∃ (h : Nat), powered s = true ∧ linkLive s h = true ∧ (u = modHatch h (fun y => { y with
      link := .down
      gen := 0
      width := 0
      trained := 0
      downs := satAdd 16 y.downs 1
      atc := []
      wakeMsgs := []
      downSince := some s.clk.mono
      armed := false }) s) :=
  ⟨hatchState .up, modHatch 0 (fun y => { y with link := .down, gen := 0, width := 0, trained := 0, downs := satAdd 16 y.downs 1, atc := [], wakeMsgs := [], downSince := some 0, armed := false }) (hatchState .up), 0, by decide⟩

theorem witness_HatchLinksChange_6 : ∃ (s : State), ∃ (h t : Nat), running s = true ∧ upstream s h = true ∧ (getHatch s h).downSince = some t ∧ holdLimit
    s h ≠ 0 ∧ ((hatchUp s h = false ∨ (getHatch s h).armed = false)) :=
  ⟨modHatch 0 (fun x => { x with ctrl := 5, downSince := some 0 }) (hatchState .down), 0, 0, by decide⟩

theorem witness_HatchLinksChange_7 : ∃ (s : State), ∃ (h w : Nat), running s = true ∧ upstream s h = true ∧ (getHatch s h).link = .up ∧ l0pEn s h = true
    ∧ w ∈ [1, 2, 4, 8, 16] ∧ ((w < (getHatch s h).width ∧ (hatchPlate s h).l0pMin ≤ w ∨ (getHatch s h).width < w ∧ w =
    (getHatch s h).trained)) :=
  ⟨modHatch 0 (fun x => { x with ctrl := 256, width := 16, trained := 16 }) (hatchState .up), 0, 8, by decide⟩

theorem witness_HatchLinksChange_8 : ∃ (s : State), ∃ (h k : Nat), powered s = true ∧ upstream s h = true ∧ k ≤ 2 ∧ hatchBusy s h = false ∧ (((getHatch s
    h).link = .up ∨ (getHatch s h).link = .l1)) :=
  ⟨hatchState .up, 0, 2, by decide⟩

theorem witness_HatchLinksChange_9 : ∃ (s : State), ∃ (h : Nat), powered s = true ∧ upstream s h = true ∧ (((getHatch s h).link = .l1 ∨ (getHatch s
    h).link = .l12)) :=
  ⟨hatchState .l12, 0, by decide⟩

theorem witness_HatchLinksChange_10 : ∃ (s : State), ∃ (h : Nat), powered s = true ∧ upstream s h = true ∧ (getHatch s h).link = .up :=
  ⟨hatchState .up, 0, by decide⟩

theorem witness_FunctionsAreReset_1 : ∃ (s : State), ∃ (f : Fn), configReaches s f = true :=
  ⟨tenantState, pf0, by decide⟩

theorem witness_FunctionsAreReset_2 : ∃ (s : State), ∃ (f : Fn), (f.vf ≠ 0 ∨ (getFn s f).vfEnable = false) :=
  ⟨tenantState, pf0, by decide⟩

theorem witness_FunctionsAreReset_3 : ∃ (s : State), ∃ (f : Fn), f.vf = 0 ∧ (getFn s f).vfEnable = true :=
  ⟨{ tenantState with fns := [(pf0, { hostFn with vfEnable := true })] }, pf0, by decide⟩

theorem witness_FunctionsAreReset_4 : ∃ (s : State), ∃ (h p : Nat), configReaches s { hatch := h, pf := p, vf := 0 } = true ∧ (getFn s
    { hatch := h, pf := p, vf := 0 }).vfEnable = true :=
  ⟨{ tenantState with fns := [(pf0, { hostFn with vfEnable := true })] }, 0, 0, by decide⟩

theorem witness_FunctionsAreReset_5 : ∃ (s : State), ∃ (h : Nat), s.startup ≠ .off ∧ s.startup ≠ .powerOn ∧ linkLive s h = true :=
  ⟨tenantState, 0, by decide⟩

theorem witness_FunctionsAreReset_7 : ∃ (s u : State), ∃ (h n : Nat), h < 4 ∧ 1000 ≤ n ∧ role s h = 0 ∧ (u = modHatch h (fun x =>
    { x with perst := true, perstAt := s.clk.mono }) s) :=
  ⟨tenantState, modHatch 0 (fun x => { x with perst := true, perstAt := 0 }) tenantState, 0, 1000, by decide⟩

theorem witness_FunctionsAreReset_8 : ∃ (s u : State), ∃ (h n : Nat), h < 4 ∧ (u = modHatch h (fun x =>
    { x with perst := false, released := s.clk.mono, sris := !Config.hrefEdge h s.freeCount })
    { s with freeCount := s.freeCount + 1 }) :=
  ⟨tenantState, modHatch 0 (fun x => { x with perst := false, released := 0, sris := !Config.hrefEdge 0 0 }) { tenantState with freeCount := 1 }, 0, 999, by decide, rfl⟩

theorem witness_FunctionsAreReset_9 : ∃ (s u : State), ∃ (f : Fn), configReaches s f = true ∧ (getFn s f).d3 = true ∧ (u = modFn f (fun c =>
    { c with d3 := false }) s) :=
  ⟨{ tenantState with fns := [(pf0, { hostFn with d3 := true })] }, modFn pf0 (fun c => { c with d3 := false }) { tenantState with fns := [(pf0, { hostFn with d3 := true })] }, pf0, by decide⟩

theorem witness_FunctionsAreReset_10 : ∃ (s : State), ∃ (f : Fn), ∃ (p n : Nat), configReaches s f = true ∧ f.hatch < s.hatches.length :=
  ⟨tenantState, pf0, 5, 2, by decide⟩

theorem witness_TiersActByThemselves_1 : ∃ (s : State), ∃ (t : Tier), ∃ (k : Nat), clearsTier s t k = true ∧ k * 65536 < tierBytes s t :=
  ⟨scrubState, .shelf, 3, by decide⟩

theorem witness_TiersActByThemselves_2 : ∃ (s u v : State), ∃ (t : Tier), ∃ (l : Nat), ∃ (a b : Upset), ∃ (r : LineRead), ∃ (e : List Event), tierActive s t
    = true ∧ scrubHours s t ≠ 0 ∧ isTouched (getTier s t) (l * 64) = true ∧ l * 64 < tierBytes s t ∧ readLine t
    (inTwinPool s t (l * 64)) l (modTier t (scrubNote (inTwinPool s t (l * 64)) l a b) s) = (r, u) ∧ (if inTwinPool s t
    (l * 64) && !upsetFails (badLine (getTier u t) l).primary && !partLost u t (twinPart u t (partOf u t (l * 64))) then
    repairCopy t l u else ([], u)) = (e, v) :=
  ⟨scrubState, (readLine .shelf false 3 (modTier .shelf (scrubNote false 3 .clean .clean) scrubState)).2, (readLine .shelf false 3 (modTier .shelf (scrubNote false 3 .clean .clean) scrubState)).2, .shelf, 3, .clean, .clean, (readLine .shelf false 3 (modTier .shelf (scrubNote false 3 .clean .clean) scrubState)).1, [], by refine ⟨?_, ?_, ?_, ?_, ?_, ?_⟩ <;> first | decide +kernel | rfl⟩

theorem witness_TiersActByThemselves_3 : ∃ (s : State), ∃ (t : Tier), ∃ (p : Nat), powered s = true ∧ isPart s t p = true ∧ (getTier s t).lost.contains p =
    false :=
  ⟨runningState, .shelf, 3, by decide⟩

theorem witness_TiersActByThemselves_4 : ∃ (s u : State), ∃ (h : Nat), powered s = true ∧ role s h = 1 ∧ hatchUp s h = true ∧ (u = modHatch h (fun x =>
    { x with link := .down, gen := 0, width := 0, downs := satAdd 16 x.downs 1, downSince := some s.clk.mono }) s) :=
  ⟨cellarState .up, modHatch 1 (fun x => { x with link := .down, gen := 0, width := 0, downs := satAdd 16 x.downs 1, downSince := some 0 }) (cellarState .up), 1, by decide⟩

theorem witness_TiersActByThemselves_5 : ∃ (s : State), ∃ (h : Nat), powered s = true ∧ role s h = 1 ∧ (getHatch s h).link = .down ∧ 0 < (getHatch s
    h).expander ∧ ((∀ x, cellarPair s = some x → h ≠ x.1 ∧ h ≠ x.2)) :=
  ⟨cellarState .down, 1, by decide, by decide, by decide, by decide, fun x hx => absurd hx (by rw [show cellarPair (cellarState .down) = none from by decide]; simp)⟩

theorem witness_TiersActByThemselves_6 : ∃ (s u : State), ∃ (h a b : Nat), powered s = true ∧ role s h = 1 ∧ (getHatch s h).link = .down ∧ 0 < (getHatch s
    h).expander ∧ cellarPair s = some (a, b) ∧ ((h = a ∨ h = b)) ∧ (u = modHatch h (fun x =>
    { x with link := .up, downSince := none }) s) :=
  ⟨modHatch 1 (fun x => { x with link := .down }) pairState, modHatch 1 (fun x => { x with link := .up, downSince := none }) (modHatch 1 (fun x => { x with link := .down }) pairState), 1, 1, 2, by decide⟩

theorem witness_TiersActByThemselves_7 : ∃ (s : State), ∃ (l : Nat), running s = true ∧ resyncReady s = true :=
  ⟨pairState, 5, by decide⟩

theorem witness_TiersActByThemselves_8 : ∃ (s : State), ∃ (g r : Nat), ∃ (m : Bool), starting s = true ∧ s.boot.tiersTrained = false ∧ ((keptTiers s = false
    ∨ s.boot.formePending.isSome = true)) :=
  ⟨bareState, 256, 6400, true, by decide⟩

theorem witness_TiersActByThemselves_9 : ∃ (s : State), ∃ (h g n : Nat), ∃ (c : Bool), s.startup = .configuring ∧ role s h = 1 ∧ (getHatch s h).link =
    .training :=
  ⟨{ cellarState .training with startup := .configuring }, 1, 64, 1024, true, by decide⟩

theorem witness_LanesAndPortsRecover_1 : ∃ (s u : State), ∃ (l p n : Nat), running s = true ∧ faultPort s l = some p ∧ u = noteWords p l n s :=
  ⟨laneState, noteWords 0 0 5 laneState, 0, 0, 5, by refine ⟨?_, ?_, ?_⟩ <;> first | decide +kernel | rfl⟩

theorem witness_LanesAndPortsRecover_2 : ∃ (s u : State), ∃ (l p : Nat), l < 48 ∧ inService (getPort s p) = true ∧ (getPort s p).lanesUp.contains l = true ∧
    (u = modPort p (fun y => { y with laneFaults := satAdd 8 y.laneFaults 1, retryCount := 0 }) s) :=
  ⟨laneState, modPort 0 (fun y => { y with laneFaults := 1, retryCount := 0 }) laneState, 0, 0, by decide⟩

theorem witness_LanesAndPortsRecover_3 : ∃ (s u : State), ∃ (l p : Nat), 48 ≤ l ∧ (u = modPort p (fun x => { x with spareBad := true }) s) :=
  ⟨protectState id, modPort 0 (fun x => { x with spareBad := true }) (protectState id), 48, 0, by decide⟩

theorem witness_LanesAndPortsRecover_4 : ∃ (s u : State), ∃ (l p : Nat), ∃ (x : PortPlate), portPlate s p = some x ∧ (u = modPort p (fun y =>
    { y with lanesUp := if x.frame then [] else y.lanesUp.filter (· != l), spareReq := none }) s) :=
  ⟨laneState, modPort 0 (fun y => { y with lanesUp := [1], spareReq := none }) laneState, 0, 0, { plainPort with lanes := [0, 1] }, by refine ⟨?_, ?_⟩ <;> first | decide +kernel | rfl⟩

theorem witness_LanesAndPortsRecover_5 : ∃ (s : State), ∃ (p l : Nat), ∃ (x : PortPlate), running s = true ∧ portPlate s p = some x ∧ inService (getPort s p)
    = true ∧ x.protect = true ∧ x.lanes.contains l = true ∧ (getPort s p).spareBad = false ∧ (getPort s p).spareUsed =
    none :=
  ⟨protectState id, 0, 0, { plainPort with lanes := [0, 1], protect := true }, by decide⟩

theorem witness_LanesAndPortsRecover_6 : ∃ (s : State), ∃ (p l k : Nat), ∃ (x : PortPlate), running s = true ∧ portPlate s p = some x :=
  ⟨protectState id, 0, 0, 1, { plainPort with lanes := [0, 1], protect := true }, by decide⟩

theorem witness_LanesAndPortsRecover_7 : ∃ (s u : State), ∃ (p l a b : Nat), running s = true ∧ (getPort s p).spareReq = some (l, a, b) ∧ (u = latch (event 5
    1 2 l p) (modPort p (fun x =>
    { x with st := .upSpared, spareUsed := some l, spareReq := none, lanesUp := addNew x.lanesUp l }) s)) :=
  ⟨protectState fun x => { x with spareReq := some (0, 5, 5) }, latch (event 5 1 2 0 0) (modPort 0 (fun x => { x with st := .upSpared, spareUsed := some 0, spareReq := none, lanesUp := addNew x.lanesUp 0 }) (protectState fun x => { x with spareReq := some (0, 5, 5) })), 0, 0, 5, 5, by refine ⟨?_, ?_, ?_⟩ <;> first | rfl | decide +kernel⟩

theorem witness_LanesAndPortsRecover_8 : ∃ (s u : State), ∃ (p : Nat), ∃ (x : PortPlate), running s = true ∧ p < 48 ∧ (getPort s p).st = .down ∧ portPlate s
    p = some x ∧ x.lanes ≠ [] ∧ u = waitMono (getPort s p).retrainAt s :=
  ⟨protectState fun x => { x with st := .down }, waitMono 0 (protectState fun x => { x with st := .down }), 0, { plainPort with lanes := [0, 1], protect := true }, by decide⟩

theorem witness_LanesAndPortsRecover_9 : ∃ (s u : State), ∃ (p n : Nat), ∃ (x : PortPlate), running s = true ∧ p < 48 ∧ (getPort s p).st = .training ∧
    portPlate s p = some x ∧ 0 < n ∧ n ≤ x.lanes.length ∧ u = (if x.frame then startLink p n x s else sendLocal p 0xF1
    (leBytes 2 s.plates.device ++ leBytes 1 p) (startLink p n x s)) :=
  ⟨protectState fun x => { x with st := .training }, sendLocal 0 0xF1 (leBytes 2 0 ++ leBytes 1 0) (startLink 0 2 { plainPort with lanes := [0, 1], protect := true } (protectState fun x => { x with st := .training })), 0, 2, { plainPort with lanes := [0, 1], protect := true }, by refine ⟨?_, ?_, ?_, ?_, ?_, ?_, ?_⟩ <;> first | decide +kernel | rfl⟩

theorem witness_LanesAndPortsRecover_10 : ∃ (s : State), ∃ (p n : Nat), ∃ (x : PortPlate), p < s.fabric.ports.length :=
  ⟨laneState, 0, 1, plainPort, by decide⟩

theorem witness_LanesAndPortsRecover_11 : ∃ (s u : State), ∃ (p d q : Nat), ∃ (x : PortPlate), running s = true ∧ cellPort s p = true ∧ ((inService (getPort s
    p) = true ∨ (getPort s p).st = .training)) ∧ portPlate s p = some x ∧ (u = modPort p (fun x =>
    { x with peerDev := d, peerPort := q, peerSeen := true }) s) :=
  ⟨protectState id, modPort 0 (fun x => { x with peerDev := 7, peerPort := 1, peerSeen := true }) (protectState id), 0, 7, 1, { plainPort with lanes := [0, 1], protect := true }, by decide⟩

theorem witness_CellsAreAccepted_1 : ∃ (s u : State), ∃ (p : Nat), ∃ (c : Cell), running s = true ∧ takesCells s p = true ∧ c.fecOk = true ∧ cellCrcOk c
    = true ∧ cellLegal c = true ∧ u = takeAck p (cellAck c.tag) s :=
  ⟨laneState, laneState, 0, headCell, by refine ⟨?_, ?_, ?_, ?_, ?_, ?_⟩ <;> first | decide +kernel | rfl⟩

theorem witness_CellsAreAccepted_3 : ∃ (s u v : State), ∃ (p : Nat), ∃ (c : Cell), running s = true ∧ takesCells s p = true ∧ ((c.fecOk = false ∨
    cellCrcOk c = false ∨ cellLegal c = false)) ∧ (u = (if c.fecOk then s else if atFault (noteWords p c.lane 1 s) p
    c.lane (.codewords 1) && faultPort (noteWords p c.lane 1 s) c.lane == some p then laneFault p c.lane (noteWords p
    c.lane 1 s) else noteWords p c.lane 1 s)) ∧ v = (if cellCrcOk c then takeAck p (cellAck c.tag) u else u) :=
  ⟨laneState, laneFault 0 0 (noteWords 0 0 1 laneState), laneFault 0 0 (noteWords 0 0 1 laneState), 0, { headCell with fecOk := false }, by refine ⟨?_, ?_, ?_, ?_, ?_⟩ <;> first | decide +kernel | rfl⟩

theorem witness_CellsAreAccepted_4 : ∃ (s : State), ∃ (p : Nat), running s = true :=
  ⟨laneState, 0, by decide⟩

theorem witness_CellsAreAccepted_5 : ∃ (s u : State), ∃ (p e n : Nat), running s = true ∧ cellPort s p = true ∧ takesCells s p = true ∧ n = (if (getPort
    s p).retryE = e ∧ (getPort s p).retryCount ≠ 0 then (getPort s p).retryCount + 1 else 1) ∧ (u = replayFrom p e
    (modPort p (fun y => { y with retryE := e, retryCount := n }) s)) :=
  ⟨laneState, replayFrom 0 4 (modPort 0 (fun y => { y with retryE := 4, retryCount := 1 }) laneState), 0, 4, 1, by refine ⟨?_, ?_, ?_, ?_, ?_⟩ <;> first | decide +kernel | rfl⟩

theorem witness_PacketsAreRouted_1 : ∃ (s : State), ∃ (i v c : Nat), ∃ (b : Bool), ∃ (w : Waiting), ∃ (l : List Waiting), running s = true ∧ i ≤ 48 ∧
    bufferAt s i (codeOf v b) c = w :: l ∧ w.output = none ∧ (((bankOf s w.p.epoch).2 = .idle ∨ (bankOf s w.p.epoch).2 =
    .loading)) :=
  ⟨routingState 0 .loading, 48, 0, 0, false, waitingHead, [], by decide +kernel⟩

theorem witness_PacketsAreRouted_2 : ∃ (s : State), ∃ (i v c : Nat), ∃ (b : Bool), ∃ (w : Waiting), ∃ (l : List Waiting), running s = true ∧ i ≤ 48 ∧
    bufferAt s i (codeOf v b) c = w :: l ∧ w.output = none ∧ (bankOf s w.p.epoch).2 ≠ .idle ∧ (bankOf s w.p.epoch).2 ≠
    .loading ∧ isLocal (routeOf s w.p.epoch w.p.dstDev) = true :=
  ⟨routingState 0x8000000000 .inForce, 48, 0, 0, false, waitingHead, [], by decide +kernel⟩

theorem witness_PacketsAreRouted_3 : ∃ (s : State), ∃ (i v c : Nat), ∃ (b : Bool), ∃ (w : Waiting), ∃ (l : List Waiting), running s = true ∧ i ≤ 48 ∧
    bufferAt s i (codeOf v b) c = w :: l ∧ w.output = none ∧ (bankOf s w.p.epoch).2 ≠ .idle ∧ (bankOf s w.p.epoch).2 ≠
    .loading ∧ isLocal (routeOf s w.p.epoch w.p.dstDev) = false :=
  ⟨routingState 0 .inForce, 48, 0, 0, false, waitingHead, [], by decide +kernel⟩

theorem witness_PacketsAreRouted_4 : ∃ (s u : State), ∃ (i v c p : Nat), u = sendWaitingLocal p s :=
  ⟨routingState 0 .inForce, routingState 0 .inForce, 48, 0, 0, 0, by decide⟩

theorem witness_PacketsAreRouted_5 : ∃ (s u : State), ∃ (v c : Nat), ∃ (w : Waiting), u = setBuffer 48 v c ((bufferAt s 48 v c).drop 1) s ∧ ((isRequest
    w.p = false ∨ ownMessage s w.p = none)) :=
  ⟨routingState 0 .inForce, setBuffer 48 0 0 [] (routingState 0 .inForce), 0, 0, { waitingHead with p := { writeP with ptype := 0x85 } }, by decide⟩

theorem witness_PacketsAreRouted_6 : ∃ (s : State), ∃ (i v c p : Nat), ∃ (b : Bool), ∃ (w : Waiting), ∃ (l : List Waiting), running s = true ∧ i ≤ 48 ∧
    bufferAt s i (codeOf v b) c = w :: l ∧ w.output = some p :=
  ⟨{ routingState 0 .inForce with fabric := { (routingState 0 .inForce).fabric with inject := [(0, [{ waitingHead with output := some 0 }])] } }, 48, 0, 0, 0, false, { waitingHead with output := some 0 }, [], by decide +kernel⟩

theorem witness_PacketsAreRouted_7 : ∃ (s : State), ∃ (i v c : Nat), ∃ (w : Waiting), ∃ (l : List Waiting), running s = true ∧ i < 48 ∧ v ≤ 7 ∧ bufferAt
    s i v c = w :: l :=
  ⟨modPort 0 (fun y => { y with buffers := [(0, [waitingHead])] }) laneState, 0, 0, 0, waitingHead, [], by decide +kernel⟩

theorem witness_FramesTakeTheirPath_1 : ∃ (s u : State), ∃ (p : Nat), ∃ (f : Frame), frameComes s p = true ∧ u = countFlaws p (flawsOf s p f) s :=
  ⟨etherState 2 id, countFlaws 1 (flawsOf (etherState 2 id) 1 plainFrame) (etherState 2 id), 1, plainFrame, by decide +kernel, rfl⟩

theorem witness_FramesTakeTheirPath_2 : ∃ (s u : State), ∃ (p : Nat), ∃ (f : Frame), frameComes s p = true ∧ isPfc f.bytes = false ∧ acceptsFrame p f.bytes
    = true ∧ (flawsOf s p f).any = false ∧ u = countFlaws p (flawsOf s p f) s :=
  ⟨etherState 2 id, countFlaws 1 (flawsOf (etherState 2 id) 1 plainFrame) (etherState 2 id), 1, plainFrame, by decide +kernel, by decide +kernel, accepts_broadcast (by decide +kernel) (by decide +kernel), by decide +kernel, rfl⟩

theorem witness_FramesTakeTheirPath_3 : ∃ (s : State), ∃ (p v : Nat), ∃ (f : Frame), ∃ (x : PortPlate), portPlate s p = some x ∧ v = framePcp f.bytes :=
  ⟨etherState 2 id, 1, 0, plainFrame, framePlate, by decide +kernel, by decide +kernel⟩

theorem witness_FramesTakeTheirPath_4 : ∃ (s u v : State), ∃ (p i k off : Nat), ∃ (f : Frame), ∃ (x : PortPlate), ∃ (w : Win), ∃ (g : Seg), ∃ (wr :
    MemWrite), frameComes s p = true ∧ pathOf s p f = .raw ∧ u = takeFrame p f (frameStamp p f s).2 ∧ portPlate u p =
    some x ∧ x.rawInst = some i ∧ tget (getInst u i).wins x.rawWindow = some w ∧ w.valid = true ∧ notifyReady u i w =
    true ∧ k = (getPort u p).rawCount % max 1 x.rawSlots ∧ off = w.base + k * 16384 ∧ k * 16384 + max (f.bytes.take
    16384).length 1 ≤ w.length ∧ findSeg (getInst u i).segs off (max (f.bytes.take 16384).length 1) false false = some g
    ∧ writeSeg i g off (f.bytes.take 16384) u = (wr, v) :=
  ⟨etherState 2 id, takeFrame 1 plainFrame (frameStamp 1 plainFrame (etherState 2 id)).2, (writeSeg 1 hostSeg 0x8000 (plainFrame.bytes.take 16384) (takeFrame 1 plainFrame (frameStamp 1 plainFrame (etherState 2 id)).2)).2, 1, 1, 0, 0x8000, plainFrame, framePlate, window6, hostSeg, (writeSeg 1 hostSeg 0x8000 (plainFrame.bytes.take 16384) (takeFrame 1 plainFrame (frameStamp 1 plainFrame (etherState 2 id)).2)).1, by decide +kernel, path_plainFrame, rfl, by decide +kernel, by decide +kernel, by decide +kernel, by decide +kernel, by decide +kernel, by decide +kernel, by decide +kernel, by decide +kernel, by decide +kernel, rfl⟩

theorem witness_FramesTakeTheirPath_5 : ∃ (s u : State), ∃ (p : Nat), ∃ (f : Frame), ∃ (x : PortPlate), frameComes s p = true ∧ pathOf s p f = .raw ∧ u =
    takeFrame p f (frameStamp p f s).2 ∧ portPlate u p = some x ∧ ((x.rawInst = none ∨ (∃ i w, x.rawInst = some i ∧ tget
    (getInst u i).wins x.rawWindow = some w ∧ (w.valid = false ∨ notifyReady u i w = false ∨ w.length < (getPort u
    p).rawCount % max 1 x.rawSlots * 16384 + max (f.bytes.take 16384).length 1 ∨ findSeg (getInst u i).segs (w.base +
    (getPort u p).rawCount % max 1 x.rawSlots * 16384) (max (f.bytes.take 16384).length 1) false false = none)) ∨ (∃ i,
    x.rawInst = some i ∧ tget (getInst u i).wins x.rawWindow = none))) :=
  ⟨modInst 1 (fun y => { y with wins := [(6, { window6 with valid := false })] }) (etherState 2 id), takeFrame 1 plainFrame (frameStamp 1 plainFrame (modInst 1 (fun y => { y with wins := [(6, { window6 with valid := false })] }) (etherState 2 id))).2, 1, plainFrame, framePlate, by decide +kernel, path_plainFrame, rfl, by decide +kernel, .inr (.inl ⟨1, { window6 with valid := false }, by decide +kernel, by decide +kernel, .inl rfl⟩)⟩

theorem witness_FramesTakeTheirPath_6 : ∃ (s : State), ∃ (p v n : Nat), frameComes s p = true ∧ v < 8 ∧ pfcEn s p v = true ∧ 0 < n :=
  ⟨etherState 0xFF02 id, 1, 7, 65535, by decide⟩

theorem witness_FramesTakeTheirPath_7 : ∃ (s u : State), ∃ (p v t : Nat), frameComes s p = true ∧ tget (getPort s p).pausing v = some t ∧ u = waitMono t s :=
  ⟨etherState 2 fun y => { y with pausing := [(0, 9)] }, waitMono 9 (etherState 2 fun y => { y with pausing := [(0, 9)] }), 1, 0, 9, by decide +kernel, by decide +kernel, rfl⟩

theorem witness_FramesTakeTheirPath_8 : ∃ (s : State), ∃ (p v t : Nat), frameComes s p = true ∧ tget (getPort s p).pauseUntil v = some t :=
  ⟨etherState 2 fun y => { y with pauseUntil := [(0, 9)] }, 1, 0, 9, by decide +kernel, by decide +kernel⟩

theorem witness_FramesTakeTheirPath_9 : ∃ (s u : State), ∃ (p v t t2 : Nat), ∃ (gone : List (Nat × List Byte × Option (Nat × Nat × Nat))), frameComes s p =
    true ∧ tget (getPort s p).pausedSince v = some t ∧ tget (getPort s p).pauseUntil v = some t2 ∧ t + 10000000 < t2 ∧ u
    = waitMono (t + 10000000) s ∧ (gone = (getPort u p).frames.filter fun f => f.1 == v) :=
  ⟨etherState 2 fun y => { y with pauseUntil := [(0, 10000001)], pausedSince := [(0, 0)] }, waitMono 10000000 (etherState 2 fun y => { y with pauseUntil := [(0, 10000001)], pausedSince := [(0, 0)] }), 1, 0, 0, 10000001, [], by decide +kernel, by decide +kernel, by decide +kernel, by decide, rfl, by decide +kernel⟩

theorem witness_FramesTakeTheirPath_10 : ∃ (s : State), ∃ (p n : Nat), ∃ (f : Nat × List Byte × Option (Nat × Nat × Nat)), inService (getPort s p) = true ∧
    nextFrame s p = some f :=
  ⟨etherState 2 fun y => { y with frames := [(0, [1], none)] }, 1, 0, (0, [1], none), by decide +kernel, by decide +kernel⟩

theorem witness_RocePacketsAreServed_1 : ∃ (s u : State), ∃ (p : Nat), ∃ (f : Frame), ∃ (x : List Nat × Instr × (Nat → RoceConn → List Byte → State →
    State)), frameComes s p = true ∧ pathOf s p f = .roce ∧ x ∈ roceCommands p f ∧ x.1.contains (rxOp f.bytes) = true ∧
    u = takeFrame p f s :=
  ⟨etherState 2 id, takeFrame 1 roceWrite (etherState 2 id), 1, roceWrite, ([6, 7, 8, 9, 0x0A, 0x0B], .roceWriteRx 1 roceWrite, fun n c bs => sequenced n c bs (roceWriteIn n c bs) (roceAgain n c bs)), by decide +kernel, path_roceWrite, by simp [roceCommands], by decide +kernel, rfl⟩

theorem witness_RocePacketsAreServed_2 : ∃ (s u : State), ∃ (p n : Nat), ∃ (f : Frame), ∃ (c : RoceConn), frameComes s p = true ∧ pathOf s p f = .roce ∧ u =
    takeFrame p f s ∧ roceOwner u f.bytes = some (n, c) ∧ c.error = false :=
  ⟨etherState 2 id, takeFrame 1 roceAck (etherState 2 id), 1, 5, roceAck, conn5, by decide +kernel, path_roceAck, rfl, by decide +kernel, rfl⟩

theorem witness_RocePacketsAreServed_3 : ∃ (s : State), ∃ (n e : Nat), ∃ (c : RoceConn), ∃ (bs : List Byte), ∃ (fresh behind : State → State), c.expPsn =
    some e :=
  ⟨etherState 2 id, 5, 0, { conn5 with expPsn := some 0 }, roceWrite.bytes, id, id, rfl⟩

theorem witness_RocePacketsAreServed_4 : ∃ (s u : State), ∃ (n i : Nat), ∃ (c : RoceConn), ∃ (bs : List Byte), ∃ (w : Win), ∃ (g : Seg), ∃ (wr : MemWrite),
    rxOp bs = 0x0A ∧ c.rx = none ∧ roceCheck s c 1 (netAt (rxRest bs) 8 4) (netAt (rxRest bs) 0 8) (netAt (rxRest bs) 12
    4) false = .ok (i, w, g) ∧ ((rxRest bs).drop 16).length = netAt (rxRest bs) 12 4 ∧ writeSeg i g (w.base + netAt
    (rxRest bs) 0 8) ((rxRest bs).drop 16) s = (wr, u) ∧ wr.fail = none :=
  ⟨takeFrame 1 roceWrite (etherState 2 id), (writeSeg 1 hostSeg 0x8000 (List.replicate 8 7) (takeFrame 1 roceWrite (etherState 2 id))).2, 5, 1, conn5, roceWrite.bytes, window6, hostSeg, (writeSeg 1 hostSeg 0x8000 (List.replicate 8 7) (takeFrame 1 roceWrite (etherState 2 id))).1, by decide +kernel, rfl, ok_of (by decide +kernel), by decide +kernel, by rw [show (rxRest roceWrite.bytes).drop 16 = List.replicate 8 7 by decide +kernel, show window6.base + netAt (rxRest roceWrite.bytes) 0 8 = 0x8000 by decide +kernel], by decide +kernel⟩

theorem witness_RocePacketsAreServed_5 : ∃ (s u : State), ∃ (n i : Nat), ∃ (c : RoceConn), ∃ (bs : List Byte), ∃ (w : Win), ∃ (g : Seg), ∃ (r : MemRead), ∃
    (wr : MemWrite), ∃ (new : Word), netAt (rxRest bs) 0 8 % 8 = 0 ∧ roceCheck s c 4 (netAt (rxRest bs) 8 4) (netAt
    (rxRest bs) 0 8) 8 false = .ok (i, w, g) ∧ r = (readSeg i g (w.base + netAt (rxRest bs) 0 8) 8 s).1 ∧ r.fail = none
    ∧ new = (if rxOp bs = 0x14 then atomicValue 0 (wordAt r.bytes 0) (BitVec.ofNat 64 (netAt (rxRest bs) 12 8)) 0 else
    atomicValue 1 (wordAt r.bytes 0) (BitVec.ofNat 64 (netAt (rxRest bs) 20 8)) (BitVec.ofNat 64 (netAt (rxRest bs) 12
    8))) ∧ writeSeg i g (w.base + netAt (rxRest bs) 0 8) (wordBytes new) (latchAll r.events (readSeg i g (w.base + netAt
    (rxRest bs) 0 8) 8 s).2) = (wr, u) ∧ wr.fail = none :=
  ⟨etherState 2 id, (writeSeg 1 hostSeg 0x8000 (wordBytes 5) (etherState 2 id)).2, 5, 1, conn5, roceAdd.bytes, window6, hostSeg, (readSeg 1 hostSeg 0x8000 8 (etherState 2 id)).1, (writeSeg 1 hostSeg 0x8000 (wordBytes 5) (etherState 2 id)).1, 5, by decide +kernel, ok_of (by decide +kernel), by decide +kernel, by decide +kernel, by decide +kernel, by decide +kernel, by decide +kernel⟩

theorem witness_RocePacketsAreServed_6 : ∃ (s : State), ∃ (n e : Nat), ∃ (c : RoceConn), ∃ (bs : List Byte), roceCheck s c 1 (netAt (rxRest bs) 8 4) (netAt
    (rxRest bs) 0 8) (netAt (rxRest bs) 12 4) false = .error e ∧ rxOp bs = 0x0A ∧ c.rx = none :=
  ⟨modInst 1 (fun y => { y with wins := [] }) (etherState 2 id), 5, 0x62, conn5, roceWrite.bytes, error_of (by decide +kernel), by decide +kernel, rfl⟩

theorem witness_RocePacketsAreServed_7 : ∃ (s : State), ∃ (n : Nat), ∃ (c : RoceConn), ∃ (bs : List Byte), ∃ (u : State), u = roceCovered n c ((rxPsn bs + 2
    ^ 24 - 1) % 2 ^ 24) s :=
  ⟨etherState 2 id, 5, conn5, roceWrite.bytes, roceCovered 5 conn5 ((rxPsn roceWrite.bytes + 2 ^ 24 - 1) % 2 ^ 24) (etherState 2 id), rfl⟩

theorem witness_RocePacketsAreServed_8 : ∃ (s u : State), ∃ (n : Nat), ∃ (c : RoceConn), ∃ (x : SendCtx), ∃ (m : TxMsg), ∃ (t : TxPacket), running s = true ∧
    tget s.ether.roce n = some c ∧ c.error = false ∧ c.rnrAt = none ∧ findTx s (roceKey s c) = some x ∧ (((ctxPackets
    x).find? fun p => p.2.sent && !p.2.settled && !p.2.lost) = some (m, t)) ∧ u = waitMono t.due s :=
  ⟨etherSending, waitMono sent40.due etherSending, 5, conn5, context40 1 16 id, message40 1, sent40, by decide +kernel, by decide +kernel, by decide +kernel, rfl, by decide +kernel, by decide +kernel, rfl⟩

theorem witness_RocePacketsAreServed_9 : ∃ (s u : State), ∃ (n t : Nat), ∃ (c : RoceConn), tget s.ether.roce n = some c ∧ c.rnrAt = some t ∧ u = waitMono t s :=
  ⟨modRoce 5 (fun y => { y with rnrAt := some 9 }) etherSending, waitMono 9 (modRoce 5 (fun y => { y with rnrAt := some 9 }) etherSending), 5, 9, { conn5 with rnrAt := some 9 }, by decide +kernel, rfl, rfl⟩

theorem witness_RocePacketsAreServed_10 : ∃ (s : State), ∃ (n : Nat), ∃ (c : RoceConn), ∃ (out : Settled), ∃ (x : SendCtx), findTx s (roceKey s c) = some x :=
  ⟨etherSending, 5, conn5, settledAs stUnreachable 0 0, context40 1 16 id, by decide +kernel⟩

theorem witness_RocePacketsAreServed_11 : ∃ (s u v : State), ∃ (n : Nat), ∃ (w : List Word), ∃ (r : MemRead), ∃ (k : ConnKey), running s = true ∧ n < 16384 ∧
    u = tidyRoce s ∧ readHost (mgrFn u) (fld u.ether.roceAddr 6 58 * 64) 64 u = (r, v) ∧ r.fail = none ∧ w = wordsOf
    r.bytes 8 ∧ bit (wd w 0) 30 = true ∧ roceBad w = false ∧ ((v.ether.roce.any fun x => x.1 == n || x.2.localQpn ==
    (newRoce w).localQpn || (x.2.endpoint == (newRoce w).endpoint && x.2.peerDev == (newRoce w).peerDev && x.2.peerEp ==
    (newRoce w).peerEp)) = false) ∧ k = roceKey v (newRoce w) :=
  ⟨loadState, tidyRoce loadState, (readHost (mgrFn loadState) 0x2000 64 loadState).2, 16383, conn5.words, (readHost (mgrFn loadState) 0x2000 64 loadState).1, roceKey loadState conn5, by decide +kernel, by decide, rfl, by decide +kernel, by decide +kernel, by decide +kernel, by decide +kernel, by decide +kernel, by decide +kernel, by decide +kernel⟩

theorem witness_RocePacketsAreServed_12 : ∃ (s : State), ∃ (n : Nat), running s = true ∧ n < 16384 :=
  ⟨etherState 2 id, 16383, by decide +kernel, by decide⟩

theorem witness_ManagementPortAndSpdmAnswer_1 : ∃ (s : State), ∃ (ip mac sip : Nat), mgmtOn s = true :=
  ⟨mgmtState id, 1, 2, 3, by decide⟩

theorem witness_ManagementPortAndSpdmAnswer_2 : ∃ (s : State), ∃ (f : Frame), mgmtOn s = true ∧ ((crc32 f.bytes ≠ f.fcs.toNat ∨ f.pcsError = true)) :=
  ⟨mgmtState id, { bytes := [], fcs := 0, pcsError := true }, by decide, .inr rfl⟩

theorem witness_ManagementPortAndSpdmAnswer_3 : ∃ (s : State), ∃ (f : Frame), mgmtOn s = true ∧ crc32 f.bytes = f.fcs.toNat ∧ f.pcsError = false ∧ isArpRequest
    f.bytes = true ∧ ((destMac f.bytes = 0xFFFFFFFFFFFF ∨ destMac f.bytes = ownMac 48)) :=
  ⟨mgmtState id, arpFrame, by decide +kernel, by decide +kernel, rfl, by decide +kernel, .inl (by decide +kernel)⟩

theorem witness_ManagementPortAndSpdmAnswer_4 : ∃ (s : State), ∃ (f : Frame), mgmtOn s = true ∧ crc32 f.bytes = f.fcs.toNat ∧ f.pcsError = false ∧ isArpRequest
    f.bytes = false :=
  ⟨mgmtState id, plainFrame, by decide +kernel, by decide +kernel, rfl, by decide +kernel⟩

theorem witness_ManagementPortAndSpdmAnswer_5 : ∃ (s : State), ∃ (bs : List Byte), ∃ (r : List (List Byte)), mgmtOn s = true ∧ s.ether.plcaActive = false ∧
    s.ether.mgmtQueue = bs :: r :=
  ⟨mgmtState fun e => { e with mgmtQueue := [[1]], collisions := 14 }, [1], [], by decide⟩

theorem witness_ManagementPortAndSpdmAnswer_6 : ∃ (s : State), mgmtOn s = true ∧ s.ether.plcaActive = true ∧ fld s.ether.mgmtCtrl 8 8 ≠ 0 :=
  ⟨mgmtState fun e => { e with plcaActive := true, mgmtCtrl := 0x101 }, by decide⟩

theorem witness_ManagementPortAndSpdmAnswer_7 : ∃ (s : State), ∃ (session : Option Nat), ∃ (c : Instr), spdmOn s = true ∧ inSession s session = true ∧
    s.spdm.negotiated = false ∧ ((c = .getDigests session ∨ (∃ a b d, c = .getCertificate session a b d) ∨ (∃ a n, c =
    .challenge session a n) ∨ (∃ k g n, c = .getMeasurements session k g n) ∨ (∃ q, c = .keyExchange q) ∨ (∃ n k q, c =
    .finish n k q))) :=
  ⟨spdmState fun x => { x with negotiated := false }, none, .getDigests none, by decide, by decide, by decide, .inl rfl⟩

theorem witness_ManagementPortAndSpdmAnswer_8 : ∃ (s : State), ∃ (session : Option Nat), spdmOn s = true ∧ inSession s session = true :=
  ⟨spdmState id, some 4, by decide⟩

theorem witness_ManagementPortAndSpdmAnswer_9 : ∃ (s : State), ∃ (session : Option Nat), ∃ (request : List Byte), spdmOn s = true ∧ inSession s session = true :=
  ⟨spdmState id, none, [], by decide⟩

theorem witness_ManagementPortAndSpdmAnswer_10 : ∃ (s : State), ∃ (session : Option Nat), ∃ (c : List Byte), spdmOn s = true ∧ inSession s session = true ∧
    s.spdm.negotiated = true ∧ s.boot.chain = some c :=
  ⟨spdmState id, none, [1, 2, 3], by decide⟩

theorem witness_ManagementPortAndSpdmAnswer_11 : ∃ (s : State), ∃ (session : Option Nat), spdmOn s = true ∧ inSession s session = true ∧ s.spdm.negotiated = true ∧
    s.boot.chain = none :=
  ⟨{ spdmState id with boot := Boot.reset }, none, by decide⟩

theorem witness_ManagementPortAndSpdmAnswer_12 : ∃ (s : State), ∃ (session : Option Nat), ∃ (k : Nat), spdmOn s = true ∧ inSession s session = true ∧
    s.spdm.negotiated = true ∧ 1 ≤ k ∧ k ≤ 15 :=
  ⟨spdmState id, none, 15, by decide⟩

theorem witness_ManagementPortAndSpdmAnswer_13 : ∃ (s u : State), ∃ (n : Nat), ∃ (request response sign : List Byte), spdmOn s = true ∧ s.spdm.negotiated = true ∧
    s.boot.chain.isSome = true ∧ n = s.spdm.nextSession ∧ u = (freeBytes 32 s).2 ∧ response = spdmBytes 0x64 0 0
    (leBytes 2 n ++ [1, 0] ++ (freeBytes 32 s).1 ++ Config.dheResponse n request ++ [0, 0]) ∧ sign = Config.deviceSign
    (s.spdm.transcript ++ request ++ response) :=
  ⟨spdmState id, (freeBytes 32 (spdmState id)).2, 0, [], spdmBytes 0x64 0 0 (leBytes 2 0 ++ [1, 0] ++ (freeBytes 32 (spdmState id)).1 ++ Config.dheResponse 0 [] ++ [0, 0]), Config.deviceSign ((spdmState id).spdm.transcript ++ [] ++ spdmBytes 0x64 0 0 (leBytes 2 0 ++ [1, 0] ++ (freeBytes 32 (spdmState id)).1 ++ Config.dheResponse 0 [] ++ [0, 0])), by decide, by decide, by decide, by decide, rfl, rfl, rfl⟩

theorem witness_ManagementPortAndSpdmAnswer_14 : ∃ (s : State), ∃ (n : Nat), ∃ (key request : List Byte), ∃ (x : Session), spdmOn s = true ∧ s.spdm.negotiated = true
    ∧ tget s.spdm.sessions n = some x ∧ x.established = false :=
  ⟨spdmState fun x => { x with sessions := [(4, { session4 with established := false })] }, 4, [], [], { session4 with established := false }, by decide⟩

theorem witness_ManagementPortAndSpdmAnswer_15 : ∃ (s : State), ∃ (n : Nat), spdmOn s = true ∧ inSession s (some n) = true :=
  ⟨spdmState id, 4, by decide⟩

theorem witness_RegistersTakeWrites_3 : ∃ (s : State), ∃ (off : Nat), ∃ (r : BarReg), ∃ (v : Word), barRegAt off = some r ∧ off < 0x1000000 :=
  ⟨tenantState, 0x20010, .tickPeriod, 500, by decide, by decide⟩

theorem witness_RegistersTakeWrites_4 : ∃ (s : State), ∃ (off : Nat), ∃ (v : Word), barRegAt off = none ∧ ((off < 0x1000000 ∨ 0x1010000 ≤ off)) :=
  ⟨tenantState, 0x2020010, 500, by decide, by decide⟩

theorem witness_RegistersTakeWrites_5 : ∃ (s : State), ∃ (i off : Nat), ∃ (r : PageReg), ∃ (v : Word), pageRegAt off = some r ∧ off < 0x10000 ∧ pageOpen s i
    = true :=
  ⟨tenantState, 1, 0x1600, .tallyValue, 7, by decide, by decide, by decide⟩

theorem witness_RegistersTakeWrites_6 : ∃ (s : State), ∃ (v : Word), barAnswers s = true :=
  ⟨tenantState, 500, by decide⟩

theorem witness_RegistersTakeWrites_7 : ∃ (s : State), ∃ (k : Fin 8), ∃ (p : Fin 48), ∃ (v : Word), barAnswers s = true ∧ s.power.comparators.length = 8 ∧
    s.fabric.ports.length = 48 :=
  ⟨tenantState, 7, 47, 1, by decide, by decide, by decide⟩

theorem witness_RegistersTakeWrites_8 : ∃ (s : State), ∃ (i : Nat), ∃ (v : Word), pageOpen s i = true :=
  ⟨tenantState, 1, 7, by decide⟩

theorem witness_RegistersTakeWrites_9 : ∃ (s : State), ∃ (i : Nat), ∃ (v : Word), ∃ (c : Nat × Instr), pageOpen s i = true ∧ c ∈ [(1, Instr.qcCreate i (fld
    v 32 20)), (2, .qcDrain i (fld v 32 20)), (3, .qcResume i (fld v 32 20)), (4, .qcDestroy i (fld v 32 20)), (5,
    .qcArm i (fld v 32 20)), (6, .qcQuery i (fld v 32 20))] ∧ fld v 0 4 = c.1 :=
  ⟨tenantState, 1, 6, (6, .qcQuery 1 0), by decide, by decide, by decide⟩

theorem witness_RegistersTakeWrites_10 : ∃ (s : State), ∃ (v : Word), ∃ (c : Nat × Instr), barAnswers s = true ∧ c ∈ bootCommands ∧ fld v 0 3 = c.1 :=
  ⟨tenantState, 5, (5, .bootDiscard), by decide, by decide, by decide⟩

theorem witness_RegistersTakeWrites_11 : ∃ (s : State), ∃ (f : Fn), ∃ (field : CfgField), ∃ (v : Word), configReaches s f = true :=
  ⟨tenantState, pf0, .atsEnable, 0, by decide⟩

theorem witness_RegistersTakeWrites_12 : ∃ (s : State), ∃ (h a : Nat), ∃ (v : Word), h < s.host.mems.length ∧ Memory.wf (hostMem s h) = true :=
  ⟨tenantState, 3, 0x1000, 7, by decide, by decide⟩

theorem witness_DoorbellsOfIdleQueues_1 : ∃ (s : State), ∃ (i qi : Nat), getQueue s i qi = none :=
  ⟨tenantState, 1, 7, by decide⟩

theorem witness_DoorbellsOfIdleQueues_2 : ∃ (s : State), ∃ (i qi : Nat), ∃ (q : Queue), getQueue s i qi = some q ∧ ((q.desc.planned = true ∨ q.st = .error ∨
    q.st = .draining ∨ q.st = .stopped)) :=
  ⟨withQueue fun q => { q with st := .draining }, 1, 0, { queue0 with st := .draining }, by decide, by decide⟩

theorem witness_DoorbellsOfIdleQueues_3 : ∃ (s : State), ∃ (i qi : Nat), ∃ (q : Queue), s.startup = .running ∧ (slotOf s i).isSome = true ∧ getQueue s i qi =
    some q ∧ q.st = .held ∧ q.desc.planned = false :=
  ⟨withQueue fun q => { q with st := .held }, 1, 0, { queue0 with st := .held }, by decide, by decide, by decide, by decide, by decide⟩

theorem witness_DoorbellsOfIdleQueues_4 : ∃ (s u v : State), ∃ (i qi : Nat), ∃ (q : Queue), pageOpen s i = true ∧ qi < 1048576 ∧ getQueue s i qi = some q ∧
    q.st = .held ∧ (getHatch s q.home).link = .up ∧ (getFn s { fnOf s i with hatch := q.home }).memSpace = true ∧ (getFn
    s { fnOf s i with hatch := q.home }).busMaster = true ∧ (u = each q.record (replayRecord i qi) (modQueue i qi (fun y
    => { y with st := y.heldFrom }) (modHatch q.home (fun h => { h with armed := true }) s))) ∧ (v = (if q.dueWaits then
    raiseQueue i qi (modQueue i qi (fun y => { y with dueWaits := false }) (settleDrain i qi (modQueue i qi (reexecute
    u) u))) else settleDrain i qi (modQueue i qi (reexecute u) u))) :=
  ⟨withQueue fun q => { q with st := .held, bell := true }, modQueue 1 0 (fun y => { y with st := y.heldFrom }) (modHatch 0 (fun h => { h with armed := true }) (withQueue fun q => { q with st := .held, bell := true })), settleDrain 1 0 (modQueue 1 0 (reexecute (modQueue 1 0 (fun y => { y with st := y.heldFrom }) (modHatch 0 (fun h => { h with armed := true }) (withQueue fun q => { q with st := .held, bell := true })))) (modQueue 1 0 (fun y => { y with st := y.heldFrom }) (modHatch 0 (fun h => { h with armed := true }) (withQueue fun q => { q with st := .held, bell := true })))), 1, 0, { queue0 with st := .held, bell := true }, by decide, by decide, by decide, by decide, by decide, by decide, by decide, rfl, rfl⟩

theorem witness_StepKeepsForm_3 : ∃ (s t : State), s.Canonical ∧ s.Fixed ∧ step s = .next t :=
  ⟨State.reset, State.reset, ⟨by decide, by decide, by decide, by decide, by decide⟩, ⟨by decide, by decide, by decide, by decide, by decide, by decide, by decide⟩, rfl⟩

theorem witness_StepKeepsForm_4 : ∃ (s t : State), s.QueueOk ∧ step s = .next t :=
  ⟨{ State.reset with pending := [.doorbell 1 0] }, { State.reset with pending := [] }, by unfold State.QueueOk; decide, rfl⟩

end Sys2Proof.Tests
end

section
/-! PROOFS. What REGISTER_WRITE does by its target (00_scope.md R8; 22_register_summary.md R498 to R502), and the registers of
BAR0 and of a page read after a write. -/
namespace Sys2Proof.Machine

theorem exec_registerWrite (g : WriteTarget) (v : Word) (s : State) :
    exec (.registerWrite g v) s = .next (registerWrite g v s) := rfl

/-! ### BAR0 -/

/-- Below the view of a page a write goes to the register of its offset. -/
theorem exec_write_barReg {off : Nat} {r : BarReg} (hr : barRegAt off = some r) (hoff : off < 0x1000000) (v : Word)
    (s : State) :
    exec (.registerWrite (.bar0 off) v) s = .next (if barTakes r s then writeBarReg r v s else s) := by
  have outside : ¬ (0x1000000 ≤ off ∧ off < 0x1010000) := by omega
  simp only [exec_registerWrite, registerWrite, writeBar0, if_neg outside, hr]

theorem exec_write_noBarReg {off : Nat} (hr : barRegAt off = none) (hoff : off < 0x1000000 ∨ 0x1010000 ≤ off) (v : Word)
    (s : State) : exec (.registerWrite (.bar0 off) v) s = .next s := by
  have outside : ¬ (0x1000000 ≤ off ∧ off < 0x1010000) := by omega
  simp only [exec_registerWrite, registerWrite, writeBar0, if_neg outside, hr]

/-- Within the view of a page a write goes to the selected page while the view is enabled (R425). -/
theorem exec_write_view {off : Nat} (hoff : off < 0x10000) (v : Word) (s : State) :
    exec (.registerWrite (.bar0 (0x1000000 + off)) v) s = .next (if bit s.steward.viewSel 12
      then writePageAt (fld s.steward.viewSel 0 12) true off v s else s) := by
  have inside : 0x1000000 ≤ 0x1000000 + off ∧ 0x1000000 + off < 0x1010000 := by omega
  simp only [exec_registerWrite, registerWrite, writeBar0, if_pos inside, Nat.add_sub_cancel_left]

theorem wakeAnswers_of_barAnswers {s : State} (h : barAnswers s = true) : wakeAnswers s = true := by
  simp only [wakeAnswers, h, Bool.true_or]

theorem ledgerAnswers_of_barAnswers {s : State} (h : barAnswers s = true) : ledgerAnswers s = true := by
  simp only [ledgerAnswers, wakeAnswers_of_barAnswers h, Bool.true_or]

theorem not_safe_of_barAnswers {s : State} (h : barAnswers s = true) : s.startup ≠ .safe := by
  intro safe
  rw [barAnswers, running, safe] at h
  exact Bool.false_ne_true h

theorem barTakes_of_barAnswers (r : BarReg) {s : State} (h : barAnswers s = true) : barTakes r s = true := by
  unfold barTakes
  split
  · exact ledgerAnswers_of_barAnswers h
  · exact ledgerAnswers_of_barAnswers h
  · split
    · exact wakeAnswers_of_barAnswers h
    · exact h

theorem barReg_offset_lt (r : BarReg) : r.offset < 0x1000000 := by
  cases r <;> simp only [BarReg.offset] <;> omega

/-- While BAR0 answers, each register takes the write at its own offset. -/
theorem exec_write_offset (r : BarReg) (v : Word) {s : State} (h : barAnswers s = true) :
    exec (.registerWrite (.bar0 r.offset) v) s = .next (writeBarReg r v s) := by
  rw [exec_write_barReg (barRegAt_offset r) (barReg_offset_lt r), if_pos (barTakes_of_barAnswers r h)]

/-- A change of the quoin's registers takes no answer away: afterwards a register that answers in keeping too reads its
shadow at its own offset and the value in force in the live view (R80, R499). -/
theorem read_modQuoin (f : Quoin → Quoin) (r : BarReg) {s : State} (h : barAnswers s = true) (hr : r.wakes = true)
    (hlo : ¬ r.offset < 0x10000) :
    readBar0 r.offset (modQuoin f s) = readBarReg false r (modQuoin f s) ∧
      readBar0 (r.offset + 0x2000000) (modQuoin f s) = readBarReg true r (modQuoin f s) :=
  have safe : (modQuoin f s).startup ≠ .safe := not_safe_of_barAnswers h
  have wake : wakeAnswers (modQuoin f s) = true := wakeAnswers_of_barAnswers (s := s) h
  ⟨read_awake _ r safe wake hr hlo (barReg_offset_lt r), read_live _ r safe wake hr hlo (barReg_offset_lt r)⟩

/-- BOOT_GO runs the command of its KIND (R483). -/
theorem writeBootGo_command {v : Word} {c : Nat × Instr} (hc : c ∈ bootCommands) (hk : fld v 0 3 = c.1) (s : State) :
    .next (writeBootGo v s) = exec c.2 s := by
  simp only [bootCommands, List.mem_cons, List.not_mem_nil, or_false] at hc
  unfold writeBootGo
  rcases hc with rfl | rfl | rfl | rfl | rfl <;> rw [hk] <;> rfl

/-! ### Pages -/

theorem writePageAt_open {i off : Nat} {r : PageReg} {s : State} (hr : pageRegAt off = some r) (ho : pageOpen s i = true)
    (view : Bool) (v : Word) : writePageAt i view off v s = writePage i view r v s := by
  simp only [writePageAt, hr, ho, if_true]

theorem exec_write_page {i off : Nat} {r : PageReg} {s : State} (hr : pageRegAt off = some r) (ho : pageOpen s i = true)
    (v : Word) : exec (.registerWrite (.page i off) v) s = .next (writePage i false r v s) := by
  simp only [exec_registerWrite, registerWrite, writePageAt_open hr ho]

/-- The registers of a page stand above its capability area (R502, R503). -/
theorem pageReg_offset_ge (r : PageReg) : 0x1000 ≤ r.offset := by
  cases r <;> simp only [PageReg.offset] <;> omega

theorem readPage_offset {i : Nat} {s : State} (r : PageReg) (ho : pageOpen s i = true) :
    readPage i r.offset s = readPageReg i false r s := by
  have above : ¬ r.offset < 0x1000 := Nat.not_lt.mpr (pageReg_offset_ge r)
  simp only [readPage, ho, if_true, readPageAt, if_neg above, pageRegAt_offset]

/-- A change of registers of a page leaves the page open, so each register is read from the changed ones. -/
theorem readPage_modRegs {i : Nat} {s : State} (f : PageRegs → PageRegs) (r : PageReg) (ho : pageOpen s i = true) :
    readPage i r.offset (modRegs i f s) = readPageReg i false r (modRegs i f s) :=
  readPage_offset r (s := modRegs i f s) ho

theorem regs_modRegs (i : Nat) (f : PageRegs → PageRegs) (s : State) :
    (getInst (modRegs i f s) i).regs = f (getInst s i).regs := by
  simp only [modRegs, getInst_modInst]

/-- The commands of QC_OP with their OPs (R86). -/
def qcCommands (i q : Nat) : List (Nat × Instr) :=
  [(1, .qcCreate i q), (2, .qcDrain i q), (3, .qcResume i q), (4, .qcDestroy i q), (5, .qcArm i q), (6, .qcQuery i q)]

/-- QC_OP runs the command of its OP on its QUEUE. -/
theorem writeQcOp_command {i : Nat} {v : Word} {c : Nat × Instr} (hc : c ∈ qcCommands i (fld v 32 20))
    (hop : fld v 0 4 = c.1) (s : State) : .next (writeQcOp i v s) = exec c.2 s := by
  simp only [qcCommands, List.mem_cons, List.not_mem_nil, or_false] at hc
  unfold writeQcOp
  rcases hc with rfl | rfl | rfl | rfl | rfl | rfl <;> simp only [hop] <;> rfl

/-! ### Configuration space and host memory -/

theorem exec_write_config {s : State} {f : Fn} (hf : configReaches s f = true) (field : CfgField) (v : Word) :
    exec (.registerWrite (.config f field) v) s = .next (writeConfig f field v s) := by
  simp only [exec_registerWrite, registerWrite, hf, if_true]

theorem noteWrite_eq (k a n : Nat) (s : State) :
    noteWrite k a n s = { s with watch := s.watch.map (· ++ [(k, a, n)]) } := by
  unfold noteWrite
  split
  · next hw => rw [hw, Option.map_none, ← hw]
  · next l hw => rw [hw, Option.map_some]

theorem putHost_eq (h a : Nat) (bs : List Byte) (s : State) :
    putHost h a bs s = { s with
      host := { s.host with mems := modAt s.host.mems h fun m => wrBytes m a bs }
      watch := s.watch.map (· ++ [(3 + h, a, bs.length)]) } := by
  rw [putHost, noteWrite_eq]

theorem hostMem_putHost {h a : Nat} {bs : List Byte} {s : State} (hl : h < s.host.mems.length) :
    hostMem (putHost h a bs s) h = wrBytes (hostMem s h) a bs := by
  rw [putHost_eq]
  exact host_same s h _ hl

theorem hostMem_putHost_ne {h g a : Nat} {bs : List Byte} {s : State} (hg : g ≠ h) :
    hostMem (putHost h a bs s) g = hostMem s g := by
  rw [putHost_eq]
  exact host_other s h g _ hg

/-! ### The obligation -/

/-- Settles O58: each clause from the lemma on its target, and from what the read of the written register is afterwards. -/
theorem registersTakeWrites : Obligations.RegistersTakeWrites := by
  unfold Obligations.RegistersTakeWrites
  refine ⟨fun r => ⟨barRegAt_offset r, offset_barRegAt⟩, fun r => ⟨pageRegAt_offset r, offset_pageRegAt⟩,
    fun s off r v hr hoff => exec_write_barReg hr hoff v s, fun s off v hr hoff => exec_write_noBarReg hr hoff v s,
    fun s i off r v hr hoff ho => ⟨exec_write_page hr ho v, ?view, ?viewOff⟩, fun s v hb => ?shadows,
    fun s k p v hb hk hp => ?sets, fun s i v ho => ?page, fun s i v c ho hc hop => ?qcOp, fun s v c hb hc hk => ?commands,
    fun s f field v hf => ⟨exec_write_config hf field v, ?vfEnable, ?pmeStatus, exec_write_config hf .memorySpaceEnable v⟩,
    fun s h a v hl hwf => ?host,
    fun s f page v => ⟨_, rfl, map_same s f page v, map_other s f page v, rfl⟩⟩
  case view =>
    intro hsel hi
    rw [exec_write_view hoff, if_pos hsel, hi, writePageAt_open hr ho]
  case viewOff =>
    intro hsel
    rw [exec_write_view hoff, hsel, if_neg Bool.false_ne_true]
  case shadows =>
    obtain ⟨period, periodLive⟩ := read_modQuoin (s := s)
      (fun q => noteShadow offPeriod { q with tickShadow := { q.tickShadow with period := v &&& maskPeriod } })
      .tickPeriod hb rfl (by decide)
    obtain ⟨ctrl, ctrlLive⟩ := read_modQuoin (s := s)
      (fun q => noteShadow offTimeCtrl { q with nowShadow := { q.nowShadow with timeCtrl := v &&& maskTimeCtrl } })
      .timeCtrl hb rfl (by decide)
    exact ⟨_, exec_write_offset .tickPeriod v hb, rfl, period, periodLive,
      _, exec_write_offset .timeCtrl v hb, rfl, ctrl, ctrlLive⟩
  case sets =>
    refine ⟨_, exec_write_offset (.cmpValue k) v hb, ?_, fun j hj => ?_,
      _, exec_write_offset (.portErr p) v hb, fun n hn => ?_, fun q hq => getPort_modPort_ne hq _ s⟩
    · simp only [readBarReg, writeBarReg, comparator_mod s k hk, if_true]
    · have hne : j.val ≠ k.val := fun e => hj (Fin.ext e)
      simp only [readBarReg, writeBarReg, comparator_mod s k hk, if_neg hne]
    · have hlt : p.val < s.fabric.ports.length := Nat.lt_of_lt_of_eq p.isLt hp.symm
      simp only [writeBarReg, getPort_modPort p.val _ s hlt, writePortErr]
      exact w1c_testBit _ v n hn
  case page =>
    refine ⟨_, exec_write_page (pageRegAt_offset .tallyValue) ho v, ?_,
      _, exec_write_page (pageRegAt_offset .qcDescAddr) ho v, ?_⟩
    · exact (readPage_modRegs _ .tallyValue ho).trans (by simp only [readPageReg, regs_modRegs])
    · exact (readPage_modRegs _ .qcDescAddr ho).trans (by simp only [readPageReg, regs_modRegs])
  case qcOp =>
    exact (exec_write_page (pageRegAt_offset .qcOp) ho v).trans (writeQcOp_command hc hop s)
  case commands =>
    exact ⟨(exec_write_offset .bootGo v hb).trans (writeBootGo_command hc hk s), exec_write_offset .ledgerAck v hb,
      exec_write_offset .faultForce v hb⟩
  case vfEnable =>
    intro hon
    rw [exec_write_config hf, writeConfig, hon]
    rfl
  case pmeStatus =>
    intro hon
    simp only [exec_write_config hf, writeConfig, hon, Bool.not_true, Bool.and_false]
  case host =>
    refine ⟨_, exec_registerWrite (.hostMemory h a) v s, ?_⟩
    simp only [registerWrite, writeHostMemory, hostMem_putHost hl]
    exact ⟨read_wrBytes a (wordBytes v) hwf, fun x hx => read_wrBytes_out a x (wordBytes v) hwf hx,
      fun g hg => hostMem_putHost_ne hg, wf_wrBytes a (wordBytes v) hwf, by rw [putHost_eq]; rfl, by rw [putHost_eq]⟩

end Sys2Proof.Machine
end

section
/-! PROOFS. Gate windows open and close at their times (03_tick.md R75 to R77), and QS_COMMIT with the edge that takes its shares
(15_scheduling_shaping.md R383; 03_tick.md R81). -/
namespace Sys2Proof.Machine

/-! ### Gate windows -/

theorem exec_gateWindowOpen {s : State} (hrun : running s = true) (hgen : s.time.gen = .running) (p k : Nat) :
    exec (.gateWindowOpen p k) s = .next (drainPort p (gateOpen p k s)) := by
  simp only [exec, execGateWindowOpen, hrun, ticking, hgen, decide_true, Bool.and_self, if_true]

theorem exec_gateWindowClose {s : State} (hrun : running s = true) (hgen : s.time.gen = .running) (p k : Nat) :
    exec (.gateWindowClose p k) s = .next (gateClose p k s) := by
  simp only [exec, execGateWindowClose, hrun, ticking, hgen, decide_true, Bool.and_self, if_true]

/-- A port with no frame queued sends none. -/
theorem drainPort_of_no_frames {p : Nat} {s : State} (h : (getPort s p).frames = []) : drainPort p s = s := by
  simp only [drainPort, h, List.length_nil, drainFrames]

/-- The window opens at its offset while the next edge and its end lie ahead. -/
theorem gateOpen_of_ahead {s : State} {p k : Nat} {w : GateWindow} (hw : (gateList s p)[k]? = some w)
    (hlen : w.length ≠ 0) (hedge : s.time.edge + w.start * 64 < nextEdge s) (hend : s.clk.ptp < windowEnd s w) :
    gateOpen p k s = modPort p (fun y => { y with openWindows := addNew y.openWindows k })
      (waitPtp (s.time.edge + w.start * 64) s) := by
  have ahead : ¬ (w.length = 0 ∨ nextEdge s ≤ s.time.edge + w.start * 64 ∨ windowEnd s w ≤ s.clk.ptp) := by omega
  simp only [gateOpen, hw, if_neg ahead]

theorem gateOpen_of_length_zero {s : State} {p k : Nat} {w : GateWindow} (hw : (gateList s p)[k]? = some w)
    (hlen : w.length = 0) : gateOpen p k s = s := by
  simp only [gateOpen, hw, if_pos (Or.inl hlen)]

theorem gateClose_of_open {s : State} {p k : Nat} {w : GateWindow} (hw : (gateList s p)[k]? = some w)
    (hopen : k ∈ (getPort s p).openWindows) :
    gateClose p k s = modPort p (fun y => { y with openWindows := y.openWindows.filter (· != k) })
      (waitPtp (windowEnd s w) s) := by
  simp only [gateClose, hw, List.contains_iff_mem.mpr hopen, if_true]

/-- Settles O4: each clause is the window's rule, and the port has no frame that the change could let go. -/
theorem gateWindowsOpenAndClose : Obligations.GateWindowsOpenAndClose := by
  unfold Obligations.GateWindowsOpenAndClose
  refine ⟨?opens, ?closes, ?never⟩
  case opens =>
    intro s p k w hrun hgen hw hlen hedge hend hframes hp
    have still : (getPort (modPort p (fun y => { y with openWindows := addNew y.openWindows k })
        (waitPtp (s.time.edge + w.start * 64) s)) p).frames = [] :=
      (congrArg Port.frames (getPort_modPort p _ (waitPtp (s.time.edge + w.start * 64) s) hp)).trans hframes
    rw [exec_gateWindowOpen hrun hgen, gateOpen_of_ahead hw hlen hedge hend, drainPort_of_no_frames still]
    rfl
  case closes =>
    intro s p k w hrun hgen hw hopen
    rw [exec_gateWindowClose hrun hgen, gateClose_of_open hw hopen]
    rfl
  case never =>
    intro s p k w hrun hgen hw hlen hframes
    rw [exec_gateWindowOpen hrun hgen, gateOpen_of_length_zero hw hlen, drainPort_of_no_frames hframes]

/-! ### Shares -/

theorem exec_qsCommit {s : State} {i : Nat} (hrun : running s = true) (hslot : (slotOf s i).isSome = true) :
    exec (.qsCommit i) s = .next (qsCommit i s) := by
  simp only [exec, execQsCommit, hrun, hslot, Bool.and_self, if_true]

/-- While the generator runs a seal waits for an edge. -/
theorem qsCommit_seals {s : State} {i : Nat} (hnone : (getInst s i).sealedShares = none) (hgen : s.time.gen = .running) :
    qsCommit i s = modInst i (fun y => { y with
      sealedShares := some { shares := pendingShares (getInst s i), notAt := tooLate s }
      regs := { y.regs with qsStatus := y.regs.qsStatus ||| 1 } }) s := by
  have ticks : ticking s = true := decide_eq_true hgen
  simp only [qsCommit, hnone, Option.isSome_none, Bool.false_eq_true, if_false, ticks, if_true]

theorem qsCommit_busy {s : State} {i : Nat} (hsome : (getInst s i).sealedShares.isSome = true) :
    qsCommit i s = modRegs i (fun r => { r with qsStatus := setFld r.qsStatus 4 4 qsBusy }) s := by
  simp only [qsCommit, hsome, if_true]

/-- Of a running generator a seal misses the next edge when that is less than 2 µs away (R81). -/
theorem tooLate_running {s : State} (hgen : s.time.gen = .running) :
    tooLate s = if nextEdge s < s.clk.ptp + 2000 then some (s.time.tick + 1) else none := by
  simp only [tooLate, hgen]

/-- A share word with a bit that the fields of R373 leave reserved. -/
def reservedShare (w : Word) : Prop := fld w 2 6 ≠ 0 ∨ fld w 56 8 ≠ 0

theorem reservedShare_iff (w : Word) : (fld w 2 6 != 0 || fld w 56 8 != 0) = true ↔ reservedShare w := by
  simp only [reservedShare, Bool.or_eq_true, bne_iff_ne]

/-- Whatever the sealed shares hold, applying them clears the seal. -/
theorem applyShares_clears {x : Inst} {sh : SealedShares} (hs : x.sealedShares = some sh) (n : Nat) :
    (applyShares n x).sealedShares = none := by
  simp only [applyShares, hs]
  split <;> rfl

/-- Without a reserved bit every sealed share comes into force. -/
theorem applyShares_all {x : Inst} {sh : SealedShares} (hs : x.sealedShares = some sh)
    (clean : ∀ p ∈ sh.shares, ¬ reservedShare p.2) (n k : Nat) :
    tget (applyShares n x).queues k = (tget x.queues k).map fun q => { q with share := (tget sh.shares k).getD q.share } := by
  have found : sh.shares.find? (fun p => fld p.2 2 6 != 0 || fld p.2 56 8 != 0) = none :=
    List.find?_eq_none.mpr fun p hp h => clean p hp ((reservedShare_iff p.2).mp h)
  simp only [applyShares, hs, found, qsAnswer, tget_tmap]

/-- With a reserved bit in one of them none does. -/
theorem applyShares_none {x : Inst} {sh : SealedShares} (hs : x.sealedShares = some sh)
    (bad : ∃ p ∈ sh.shares, reservedShare p.2) (n : Nat) : (applyShares n x).queues = x.queues := by
  obtain ⟨p, hp, hbad⟩ := bad
  have hit : (sh.shares.find? fun p => fld p.2 2 6 != 0 || fld p.2 56 8 != 0).isSome = true :=
    List.find?_isSome.mpr ⟨p, hp, (reservedShare_iff p.2).mpr hbad⟩
  obtain ⟨c, found⟩ := Option.isSome_iff_exists.mp hit
  simp only [applyShares, hs, found, qsAnswer]

/-- While a reset holds the share, the edge discards what is pending (R427). -/
theorem edgeShares_held {x : Inst} {sh : SealedShares} (hs : x.sealedShares = some sh) (held : x.shareHeld = true) (n : Nat) :
    edgeShares n x = qsAnswer qsDiscarded 0 (n % 2 ^ 32) x := by
  have heldToo : (qsAnswer qsDiscarded 0 (n % 2 ^ 32) x).shareHeld = true := held
  simp only [edgeShares, hs, held, heldToo, if_true]
  split <;> rfl

/-- An edge that the seal meets takes the shares; the ceilings may change too. -/
theorem edgeShares_met {x : Inst} {sh : SealedShares} (hs : x.sealedShares = some sh) (free : x.shareHeld = false) (n : Nat)
    (met : sh.notAt ≠ some n) : (edgeShares n x).sealedShares = (applyShares (n % 2 ^ 32) x).sealedShares ∧
    (edgeShares n x).queues = (applyShares (n % 2 ^ 32) x).queues := by
  simp only [edgeShares, hs, free, Bool.false_eq_true, if_false, if_neg met]
  split
  · split <;> exact ⟨rfl, rfl⟩
  · exact ⟨rfl, rfl⟩

/-- Settles O17: the seal and its refusal from QS_COMMIT's rules, the edge from what applying a seal does. -/
theorem sharesCommit : Obligations.SharesCommit := by
  unfold Obligations.SharesCommit
  refine ⟨?seals, ?busy, ?edge⟩
  case seals =>
    intro s i hrun hslot hnone hgen
    rw [exec_qsCommit hrun hslot, qsCommit_seals hnone hgen, tooLate_running hgen]
    rfl
  case busy =>
    intro s i hrun hslot hsome
    rw [exec_qsCommit hrun hslot, qsCommit_busy hsome]
    rfl
  case edge =>
    intro x n sh hs
    refine ⟨fun held => ?_, fun free met => ?_⟩
    · rw [edgeShares_held hs held]
      exact ⟨rfl, rfl, rfl⟩
    · obtain ⟨sealed, queues⟩ := edgeShares_met hs free n met
      rw [sealed, queues]
      refine ⟨applyShares_clears hs _, fun clean k => ?_, fun bad => applyShares_none hs bad _⟩
      refine applyShares_all hs (fun p hp hbad => ?_) _ k
      obtain ⟨low, high⟩ := clean p hp
      exact hbad.elim (· low) (· high)

end Sys2Proof.Machine
end

section
/-! PROOFS. What the dockets that move data do once they are ready (05_dockets_receipts.md R119 to R130; 14_ethernet_management.md
R362). -/
namespace Sys2Proof.Machine

/-! ### A move between two local operands -/

theorem latchAll_nil (s : State) : latchAll [] s = s := rfl

/-- Where no ligature, failure or event stands in the way, a range is read and written whole. -/
theorem moveRange_whole {i a b n : Nat} {g h : Seg} {s s1 s2 : State} {rd : MemRead} {wr : MemWrite} (hn : 0 < n)
    (hread : readSeg i g a n s = (rd, s1)) (rfail : rd.fail = none) (revents : rd.events = [])
    (hwrite : writeSeg i h b rd.bytes s1 = (wr, s2)) (wfail : wr.fail = none) (wevents : wr.events = []) :
    moveRange i none g h a b n s = ({ good := n, fail := none, twin := rd.twin }, s2) := by
  have some_bytes : n ≠ 0 := Nat.ne_of_gt hn
  simp only [moveRange, if_neg some_bytes, hread, rfail, revents, latchAll_nil, transform, hwrite, wfail, wevents,
    Option.map_none, Moved.of, List.filterMap_cons, id_eq, List.filterMap_nil, minBy, destBytes, Bool.or_false,
    Option.isSome_none, Bool.false_eq_true, if_false]

/-- A COPY whose range moves whole, without an overlap, settles OK with its length. -/
theorem copyLocal_whole {i qi : Nat} {r : Run} {w : List Word} {g h : Seg} {s s2 : State} {twin : Bool} (hlig : r.lig = none)
    (apart : overlapPart (dSrc w) (dDst w) (dLen w) = (0, 0))
    (moved : moveRange i none g h (dSrc w) (dDst w) (dLen w) s = ({ good := dLen w, fail := none, twin := twin }, s2)) :
    copyLocal i qi r w g h s = settle i qi r.ord { settledOk (dLen w) with twin := twin } s2 := by
  simp only [copyLocal, hlig, moved, apart, if_true, Moved.outcome]

/-! ### Where a moving docket goes -/

/-- The last piece is granted: a docket that stays in the device moves. -/
theorem granted_all {r : Run} (h : r.pieces ≤ r.granted) : ungranted r = false :=
  decide_eq_false (Nat.not_lt.mpr h)

theorem moveDocket_local {i qi : Nat} {q : Queue} {r : Run} {g h : Seg} {a b : Nat} {s : State}
    (ends : moveEnds r (runWords q r) = (.near g a, .near h b)) (all : r.pieces ≤ r.granted) (hkey : r.key = none) :
    moveDocket i qi q r s = copyLocal i qi r (runWords q r) g h s := by
  simp only [moveDocket, ends, granted_all all, Bool.false_eq_true, if_false, hkey]

theorem moveDocket_out {i qi : Nat} {q : Queue} {r : Run} {g : Seg} {a rank window off : Nat} {t : Nat × Nat} {s : State}
    (ends : moveEnds r (runWords q r) = (.near g a, .far rank window off)) (hrank : runRank r rank = some t) :
    moveDocket i qi q r s = launch i qi q r off (writeMessage s i qi r (runWords q r) rank window off) s := by
  simp only [moveDocket, ends, End.rank, Option.toList, List.nil_append, List.find?_cons, hrank, Option.isNone_some,
    List.find?_nil]

theorem moveDocket_in {i qi : Nat} {q : Queue} {r : Run} {h : Seg} {a rank window off : Nat} {t : Nat × Nat} {s : State}
    (ends : moveEnds r (runWords q r) = (.far rank window off, .near h a)) (hrank : runRank r rank = some t) :
    moveDocket i qi q r s = launch i qi q r off (readMessage s i qi r (runWords q r) rank window off (.near h a)) s := by
  simp only [moveDocket, ends, End.rank, Option.toList, List.append_nil, List.find?_cons, hrank, Option.isNone_some,
    List.find?_nil]

/-! ### ATOMIC, TILE_COPY and raw SEND -/

/-- While fewer than 16 are outstanding on its connection an ATOMIC is launched with its operands. -/
theorem atomicDocket_launches {i qi : Nat} {q : Queue} {r : Run} {t : Nat × Nat} {s : State}
    (hrank : runRank r (dRank (runWords q r)) = some t) (room : atomicsFull s (connTo s q r.cls t) = false) :
    atomicDocket i qi q r s = launch i qi q r (dDst (runWords q r) % 2 ^ 48)
      { docketMessage s i qi r 4 (dRank (runWords q r)) (dWindow (runWords q r)) (dDst (runWords q r) % 2 ^ 48) 8 none with
        notify := dNotify (runWords q r)
        body := wordBytes (wd (runWords q r) 5) ++ wordBytes (wd (runWords q r) 6) ++
          leBytes 1 (dFlags (runWords q r) % 16) ++ List.replicate 7 0 } s := by
  simp only [atomicDocket, hrank, room, Bool.false_eq_true, if_false]

/-- A TILE_COPY whose tiles pass their checks and whose rows move settles with the bytes moved. -/
theorem tileCopy_whole {i qi : Nat} {q : Queue} {r : Run} {t : Tiles} {s s1 : State} (all : r.pieces ≤ r.granted)
    (moved : tileLoop i r (runWords q r) (tlTiles (runWords q r)) 0 { good := 0, fail := none, twin := false } s = (none, t, s1))
    (hfail : t.fail = none) :
    tileCopy i qi q r s = settle i qi r.ord { settledOk t.good with twin := t.twin }
      (tileOverlap r (runWords q r) (tlTiles (runWords q r)) s1) := by
  simp only [tileCopy, granted_all all, Bool.false_eq_true, if_false, moved, Option.getD_none, Moved.outcome, hfail]

/-- A raw frame that is read whole and lacks no header is queued at the port of its rank. -/
theorem rawSend_queues {i qi : Nat} {q : Queue} {r : Run} {g : Seg} {rd : MemRead} {s s1 : State}
    (raw : isRaw (runWords q r) = true)
    (seg : findSeg r.segs (dSrc (runWords q r)) (dLen (runWords q r)) true false = some g) (hkind : g.kind < 4)
    (hread : readSeg i g (dSrc (runWords q r)) (dLen (runWords q r)) s = (rd, s1)) (rfail : rd.fail = none)
    (revents : rd.events = []) (hlig : r.lig = none) (whole : rawLacks (runWords q r) rd.bytes = false) :
    rawSend i qi q r s = queueFrame (dRank (runWords q r)) r.cls (rawFrame (runWords q r) r.cls rd.bytes)
      (some (i, qi, r.ord)) (markExecuted i qi r.ord s1) := by
  have here : ¬ g.kind = 4 := Nat.ne_of_lt hkind
  simp only [rawSend, raw, Bool.not_true, Bool.false_eq_true, if_false, seg, if_neg here, hread, revents, latchAll_nil,
    rfail, hlig, ligDraws, Nat.add_zero, whole]

/-! ### The obligation -/

/-- Settles O18: a ready docket has the effect of its opcode, and each effect is the one its clause names. -/
theorem docketsAreMoved : Obligations.DocketsAreMoved := by
  unfold Obligations.DocketsAreMoved
  refine ⟨?copy, ?out, ?read, ?atomic, ?tiles, ?fence, ?raw⟩
  case copy =>
    intro s s1 s2 d q r g h rd wr ready all ends hlig hkey hlen apart hread rfail revents hwrite wfail wevents
    have moved := moveRange_whole hlen hread rfail revents hwrite wfail wevents
    simp only [exec, execCopy, start_ready ready, moveDocket_local ends all hkey, copyLocal_whole hlig apart moved]
  case out =>
    intro s d q r op rank window off a k e g hop ready ends hrank
    rcases hop with ⟨rfl, -⟩ | ⟨rfl, plain⟩
    · simp only [if_true, exec, execWrite, start_ready ready, moveDocket_out ends hrank]
    · have other : ¬ opSend = opWrite := by decide
      simp only [if_neg other, exec, execSend, start_ready ready, plain, Bool.false_eq_true, if_false,
        moveDocket_out ends hrank]
  case read =>
    intro s d q r rank window off a k e h ready ends hrank
    simp only [exec, execRead, start_ready ready, moveDocket_in ends hrank]
  case atomic =>
    intro s d q r t ready hrank room
    simp only [exec, execAtomic, start_ready ready, atomicDocket_launches hrank room]
  case tiles =>
    intro s s1 d q r t ready all moved hfail
    simp only [exec, execTileCopy, start_ready ready, tileCopy_whole all moved hfail]
  case fence =>
    intro s d q r ready
    simp only [exec, execFence, start_ready ready, fence]
  case raw =>
    intro s s1 d q r g rd ready raw seg hkind hread rfail revents hlig whole
    simp only [exec, execRawSend, start_ready ready, rawSend_queues raw seg hkind hread rfail revents hlig whole]

end Sys2Proof.Machine
end

section
/-! PROOFS. How a docket's message goes on its connection, and what settling an outcome leaves (13_delivery_congestion.md R320,
R327, R330; 05_dockets_receipts.md R18). -/
namespace Sys2Proof.Machine

/-! ### A run of a queue changed -/

theorem getQueue_modRun (i qi ord : Nat) (f : Run → Run) (s : State) :
    getQueue (modRun i qi ord f s) i qi =
      (getQueue s i qi).map fun q => { q with runs := q.runs.map fun r => if r.ord = ord then f r else r } :=
  getQueue_modQueue i qi _ s

theorem getQueue_modRun_ne {i j qi k : Nat} (h : j ≠ i ∨ k ≠ qi) (ord : Nat) (f : Run → Run) (s : State) :
    getQueue (modRun i qi ord f s) j k = getQueue s j k :=
  getQueue_modQueue_ne h _ s

/-- Where no translation was refused, settling puts the outcome in the run of the docket and does nothing else (R18). -/
theorem settle_granted {out : Settled} (h : out.detail ≠ atsDetail) (i qi ord : Nat) (s : State) :
    settle i qi ord out s = modRun i qi ord (fun r => { r with executed := true, outcome := some out }) s := by
  have allowed : ¬ (out.status = stDataError ∧ out.detail = atsDetail) := fun c => h c.2
  simp only [settle, plainOutcome, if_neg allowed]

/-! ### Launching -/

section
variable {s : State} {q : Queue} {r : Run} {m : TxMsg} {t : Nat × Nat} {off : Nat} (hrank : runRank r m.rank = some t)
include hrank

theorem launch_unroutable (noRoute : hasRoute s t.1 r.cls = false) (i qi : Nat) :
    launch i qi q r off m s = settle i qi r.ord (settledAs stUnreachable 0 (m.rank % 65536)) s := by
  simp only [launch, hrank, noRoute, Bool.not_false, if_true]

/-- A window offset beyond 48 bits lies in no window. -/
theorem launch_beyond (route : hasRoute s t.1 r.cls = true) (far : 2 ^ 48 < off + max m.msgLen 1) (i qi : Nat) :
    launch i qi q r off m s = settle i qi r.ord (settledAs stWindowFault 0 0) s := by
  simp only [launch, hrank, route, Bool.not_true, Bool.false_eq_true, if_false, if_pos far]

/-- On a route in cell mode the message goes on its connection when that is ready, and waits otherwise (R327). -/
theorem launch_on_cells (route : hasRoute s t.1 r.cls = true) (within : off + max m.msgLen 1 ≤ 2 ^ 48)
    (cells : framePort s t.1 = none) (i qi : Nat) :
    launch i qi q r off m s = if txReady s (connTo s q r.cls t) then markExecuted i qi r.ord
      (addMessage (connTo s q r.cls t) (packetCount m.ptype m.msgLen m.segBytes) m s) else s := by
  have fits : ¬ 2 ^ 48 < off + max m.msgLen 1 := Nat.not_lt.mpr within
  simp only [launch, hrank, route, Bool.not_true, Bool.false_eq_true, if_false, if_neg fits, cells, Option.isSome_none]
  cases txReady s (connTo s q r.cls t) <;> rfl

end

/-! ### A message on its connection -/

/-- The packets of a message before any is sent, numbered from a PSN on (R330). -/
def unsentPackets (psn count : Nat) : List TxPacket :=
  (List.range count).map fun j =>
    { psn := (psn + j) % 2 ^ 24, pidx := j, sent := false, lastSent := 0, due := 0, resends := 0, lost := false,
      settled := false, sacked := false }

theorem unsentPackets_psn (psn count : Nat) :
    (unsentPackets psn count).map (·.psn) = (List.range count).map fun j => (psn + j) % 2 ^ 24 :=
  List.map_map

theorem unsentPackets_pidx (psn count : Nat) : (unsentPackets psn count).map (·.pidx) = List.range count :=
  List.map_map.trans (List.map_id _)

theorem unsentPackets_unsent {psn count : Nat} {x : TxPacket} (h : x ∈ unsentPackets psn count) :
    x.sent = false ∧ x.settled = false := by
  obtain ⟨j, -, rfl⟩ := List.mem_map.mp h
  exact ⟨rfl, rfl⟩

/-- A send context with one more message behind its last. -/
def withMessage (count : Nat) (m : TxMsg) (expires : Nat) (c : SendCtx) : SendCtx :=
  { c with nextPsn := (c.nextPsn + count) % 2 ^ 24
           msgs := c.msgs ++ [{ m with packets := unsentPackets c.nextPsn count }], expires := expires }

theorem withMessage_key (count : Nat) (m : TxMsg) (expires : Nat) (c : SendCtx) :
    (withMessage count m expires c).key = c.key := rfl

theorem addMessage_held {s : State} {k : ConnKey} {c : SendCtx} (h : findTx s k = some c) (count : Nat) (m : TxMsg) :
    addMessage k count m s = modTx k (withMessage count m (s.clk.mono + 2 * life s)) s := by
  simp only [addMessage, h, Option.isNone_some, Option.isSome_some, Bool.false_eq_true, false_and, if_false, if_true]
  rfl

theorem addMessage_new {s : State} {k : ConnKey} (h : findTx s k = none) (free : txFree s k = true) (count : Nat) (m : TxMsg) :
    addMessage k count m s = modTx k (withMessage count m (s.clk.mono + 2 * life s))
      (modDlv (fun d => { d with tx := d.tx ++ [newTx s k] }) s) := by
  simp only [addMessage, h, free, Option.isSome_none, Bool.true_eq_false, Bool.false_eq_true, and_false, if_false]
  rfl

theorem addMessage_waits {s : State} {k : ConnKey} (h : findTx s k = none) (full : txFree s k = false) (count : Nat) (m : TxMsg) :
    addMessage k count m s =
      modDlv (fun d => { d with txWaits := d.txWaits ++ [{ key := k, count := count, msg := m }] }) s := by
  simp only [addMessage, h, full, Option.isNone_none, and_self, if_true]

/-- A connection without a context is none of the contexts held, so a change of its context changes the new one alone. -/
theorem tx_modTx_new {s : State} {k : ConnKey} {c : SendCtx} (h : findTx s k = none) (hc : c.key = k)
    (f : SendCtx → SendCtx) :
    (modTx k f (modDlv (fun d => { d with tx := d.tx ++ [c] }) s)).dlv.tx = s.dlv.tx ++ [f c] := by
  have others : s.dlv.tx.map (fun c => if c.key == k then f c else c) = s.dlv.tx := by
    refine (List.map_congr_left fun x hx => ?_).trans (List.map_id _)
    exact if_neg (List.find?_eq_none.mp h x hx)
  simp only [modTx, modDlv, List.map_append, others, List.map_cons, List.map_nil, hc, beq_self_eq_true, if_true]

/-! ### The obligation -/

/-- Settles O19: the cases of a launch, what a message changes of its connection, and what an outcome changes of its run. -/
theorem messagesAreLaunched : Obligations.MessagesAreLaunched := by
  unfold Obligations.MessagesAreLaunched
  refine ⟨?goes, ?ends, ?held, ?new, ?settles⟩
  case goes =>
    intro s i qi off q r m t hrank route within cells
    rw [launch_on_cells hrank route within cells]
    exact ⟨fun ready => if_pos ready, fun unready => if_neg (Bool.eq_false_iff.mp unready)⟩
  case ends =>
    intro s i qi off q r m t hrank
    exact ⟨fun noRoute => launch_unroutable hrank noRoute i qi, fun route far => launch_beyond hrank route far i qi⟩
  case held =>
    intro s k n m c h
    rw [addMessage_held h]
    refine ⟨unsentPackets c.nextPsn n, ?_, unsentPackets_psn _ _, unsentPackets_pidx _ _,
      fun x hx => unsentPackets_unsent hx, fun j hj => findTx_modTx_ne s hj (withMessage_key n m _), rfl⟩
    rw [findTx_modTx s k (withMessage_key n m _), h]
    rfl
  case new =>
    intro s k n m h
    refine ⟨fun free => ?_, fun full => addMessage_waits h full n m⟩
    rw [addMessage_new h free]
    refine ⟨unsentPackets 0 n, ?_, ?_, rfl⟩
    · rw [tx_modTx_new h rfl]
      simp only [withMessage, newTx, Nat.zero_add, List.nil_append]
    · simpa only [Nat.zero_add] using unsentPackets_psn 0 n
  case settles =>
    intro s i qi ord q out hq granted
    refine ⟨_, settle_granted granted i qi ord s, ?_, fun j k other => getQueue_modRun_ne other _ _ s, rfl⟩
    rw [getQueue_modRun, hq]
    rfl

end Sys2Proof.Machine
end

section
/-! PROOFS. How the governor decides requests for draw permits, and what a permit granted, timed out or released changes
(20_power_watch.md R465 to R468; 10_press_operations.md R235, R243). -/
namespace Sys2Proof.Machine

/-! ### The request at the head -/

theorem exec_permitGrant {s : State} {x : PermitWait} {q : Queue} {r : Run} {p : PressRun} (hrun : running s = true)
    (head : headRequest s = some x) (waiting : waitRun s x = some (q, r, p)) :
    exec .permitGrant s = .next (decideSlice x q r p s) := by
  simp only [exec, execPermitGrant, hrun, if_true, permitGrant, head, waiting]

/-- Nothing stands against the start of a docket, and a posted one has a receipt slot: its request is decided by power. -/
def PowerDecides (s : State) (x : PermitWait) (q : Queue) (r : Run) (p : PressRun) : Prop :=
  r.started = true ∨ (startBar s x.d q r p = none ∧ receiptRoom q = true)

section
variable {s : State} {x : PermitWait} {q : Queue} {r : Run} {p : PressRun} (may : PowerDecides s x q r p)
include may

/-- What stands in the way of power is nothing, for a docket that runs as for one that may start. -/
theorem powerDecides_clear : (if r.started then none else startBar s x.d q r p) = none ∧
    (!r.started && !receiptRoom q) = false := by
  rcases may with started | ⟨bar, room⟩
  · simp only [started, if_true, Bool.not_true, Bool.false_and, and_self]
  · simp only [bar, ite_self, room, Bool.not_true, Bool.and_false, and_self]

theorem decideSlice_fits (fits : (askOf (runWords q r) r p (activeUnits s)).power ≤ availableMw s r) :
    decideSlice x q r p s = grantAsked x q r p (activeUnits s) 0 s := by
  obtain ⟨bar, room⟩ := powerDecides_clear may
  simp only [decideSlice, bar, room, Bool.false_eq_true, if_false, if_pos fits]

/-- With permits held and no room for it, every request that waits is counted once (R467). -/
theorem decideSlice_waits (short : availableMw s r < (askOf (runWords q r) r p (activeUnits s)).power)
    (held : s.power.permits ≠ []) :
    decideSlice x q r p s = modPower (fun y => { y with
      waited := satAdd 16 y.waited (s.power.waits.filter fun z => !z.noted).length
      waits := y.waits.map fun z => { z with noted := true } }) s := by
  obtain ⟨bar, room⟩ := powerDecides_clear may
  have others : (!s.power.permits.isEmpty) = true := by
    rw [Bool.not_eq_true', List.isEmpty_eq_false_iff]; exact held
  simp only [decideSlice, bar, room, Bool.false_eq_true, if_false, if_neg (Nat.not_le.mpr short), others, if_true]

theorem decideSlice_narrowed (short : availableMw s r < (askOf (runWords q r) r p (activeUnits s)).power)
    (alone : s.power.permits = []) :
    decideSlice x q r p s = grantAsked x q r p (narrowTo (runWords q r) r p (availableMw s r) (activeUnits s))
      (narrowTo (runWords q r) r p (availableMw s r) (activeUnits s)) s := by
  obtain ⟨bar, room⟩ := powerDecides_clear may
  simp only [decideSlice, bar, room, Bool.false_eq_true, if_false, if_neg (Nat.not_le.mpr short), alone,
    List.isEmpty_nil, Bool.not_true]

end

/-- The first slice of a posted docket starts it. -/
theorem grantAsked_first {x : PermitWait} {q : Queue} {r : Run} {p : PressRun} {s : State} (fresh : r.started = false)
    (posted : r.planned = false) (first : p.slice = 0) (n k : Nat) :
    grantAsked x q r p n k s =
      placeAll (beginPress x.d q r (grantSlice x r p n (askOf (runWords q r) r p n) k false s)) := by
  simp only [grantAsked, fresh, posted, first, ne_eq, not_true_eq_false, decide_false, Bool.false_and, Bool.or_self,
    Bool.false_eq_true, if_false]

/-- A later slice lets its docket run on. -/
theorem grantAsked_later {x : PermitWait} {q : Queue} {r : Run} {p : PressRun} {s : State} (started : r.started = true)
    (later : p.slice ≠ 0) (n k : Nat) :
    grantAsked x q r p n k s = grantSlice x r p n (askOf (runWords q r) r p n) k false s := by
  simp only [grantAsked, started, decide_eq_true later, Bool.not_true, Bool.and_false, Bool.false_and, Bool.false_or,
    Bool.false_eq_true, if_false, if_true]

/-! ### A permit granted, a docket started -/

theorem getQueue_modPressRun {s : State} {d : DRef} {q : Queue} (h : getQueue s d.inst d.queue = some q) (ord : Nat)
    (f : PressRun → PressRun) :
    getQueue (modPressRun d ord f s) d.inst d.queue =
      some { q with runs := q.runs.map fun r => if r.ord = ord then { r with press := r.press.map f } else r } := by
  rw [modPressRun, getQueue_modRun, h, Option.map_some]

/-- The average of the window runs up to the grant, and the permit is held from then on. -/
theorem power_holdPermit (x : PermitWait) (power draw : Nat) (narrowed : Bool) (s : State) :
    (holdPermit x power draw narrowed s).power = { s.power with
      permits := s.power.permits ++ [{ d := x.d, milliwatts := power }]
      waits := delFirst s.power.waits (· == x)
      granted := s.power.granted + draw
      narrowed := if narrowed then satAdd 16 s.power.narrowed 1 else s.power.narrowed
      windowHeld := s.power.windowHeld + heldMw s * (s.clk.mono - s.power.windowMark)
      windowMark := s.clk.mono } := rfl

theorem getQueue_grantSlice {s : State} {x : PermitWait} {q : Queue} (h : getQueue s x.d.inst x.d.queue = some q) (r : Run)
    (p : PressRun) (n : Nat) (a : Ask) (k : Nat) :
    getQueue (grantSlice x r p n a k false s) x.d.inst x.d.queue = some { q with
      runs := q.runs.map fun y => if y.ord = r.ord then { y with
        press := y.press.map fun z => { z with
          stage := .running
          n := if p.slice = 0 then n else z.n
          blocks := a.blocks
          slices := if p.slice = 0 then a.slices else z.slices
          sliceEnd := a.limit
          narrowed := k } } else y } := by
  have held : getQueue (holdPermit x a.power a.draw (decide (k ≠ 0)) s) x.d.inst x.d.queue = some q := h
  simp only [grantSlice, getQueue_modPressRun held, decide_eq_true_eq, Bool.false_eq_true, if_false]

theorem power_grantSlice (x : PermitWait) (r : Run) (p : PressRun) (n : Nat) (a : Ask) (k : Nat) (s : State) :
    (grantSlice x r p n a k false s).power = { s.power with
      permits := s.power.permits ++ [{ d := x.d, milliwatts := a.power }]
      waits := delFirst s.power.waits (· == x)
      granted := s.power.granted + a.draw
      narrowed := if k ≠ 0 then satAdd 16 s.power.narrowed 1 else s.power.narrowed
      windowHeld := s.power.windowHeld + heldMw s * (s.clk.mono - s.power.windowMark)
      windowMark := s.clk.mono } := by
  refine (power_holdPermit x a.power a.draw (decide (k ≠ 0)) s).trans ?_
  simp only [decide_eq_true_eq]

theorem openWatch_insts (s : State) : (openWatch s).insts = s.insts := by
  unfold openWatch
  split <;> rfl

theorem openWatch_ord (s : State) : (openWatch s).ord = s.ord := by
  unfold openWatch
  split <;> rfl

theorem getQueue_openWatch (s : State) (i k : Nat) : getQueue (openWatch s) i k = getQueue s i k := by
  simp only [getQueue, getInst, openWatch_insts]

/-- Binding keeps the press operation of a run. -/
theorem press_ite_bindRun (s : State) (i qi : Nat) (q : Queue) (y : Run) :
    (if y.started then y else bindRun s i qi q y).press = y.press := by
  split <;> rfl

/-! ### The window -/

/-- The measured power less the average of the permits held over the window is the new base (R466). -/
theorem permitWindowEnd_eq {s u : State} (hu : u = waitMono (s.power.windowAt + fld s.quoin.now.permitCtrl 10 10 * 1000) s)
    (mw : Nat) :
    permitWindowEnd mw s = modPower (fun p => { p with
      base := mw - (s.power.windowHeld + heldMw s * (u.clk.mono - s.power.windowMark)) /
        max 1 (u.clk.mono - s.power.windowAt)
      windowHeld := 0
      windowAt := u.clk.mono
      windowMark := u.clk.mono }) u := by
  subst hu
  rfl

/-! ### Release -/

/-- The docket whose slice has no block left: its permit goes back, and it asks for its next slice or ends. -/
theorem permitRelease_of_idle {s : State} {d : DRef} {q : Queue} {r : Run} {p : PressRun}
    (held : s.power.permits.any (fun x => x.d == d) = true)
    (mine : (pressRuns s).filter (fun y => y.1 == d) = [(d, q, r, p)]) (runs : p.stage = .running)
    (idle : sliceBusy p = false) :
    permitRelease d s =
      if p.sliceEnd < p.blocks then
        askPermit d 0 (modPressRun d r.ord (fun z => { z with stage := .permit, slice := z.slice + 1 })
          (modPower (fun y => { y with permits := delFirst y.permits fun x => x.d == d }) (meter s)))
      else if p.blocks = 0 then
        finishPress d q r p (modPower (fun y => { y with permits := delFirst y.permits fun x => x.d == d }) (meter s))
      else modPower (fun y => { y with permits := delFirst y.permits fun x => x.d == d }) (meter s) := by
  have permits : ¬ (s.power.permits.filter fun x => x.d == d).length ≤ 0 := by
    obtain ⟨x, hx, hd⟩ := List.any_eq_true.mp held
    exact Nat.not_le.mpr (List.length_pos_of_mem (List.mem_filter.mpr ⟨hx, hd⟩))
  have ungated : (p.stage == PressStage.gated) = false := by rw [runs]; rfl
  have here : (p.stage == PressStage.running) = true := by rw [runs]; rfl
  simp only [permitRelease, mine, List.filter_cons, List.filter_nil, ungated, Bool.false_eq_true, if_false, List.length_nil,
    if_neg permits, here, if_true, List.any_cons, List.any_nil, idle, Bool.or_self, List.head?_cons]

/-! ### The obligation -/

/-- Settles O22: the decisions on the request at the head, and what grant, start, timeout, window and release leave. -/
theorem permitsAreDecided : Obligations.PermitsAreDecided := by
  unfold Obligations.PermitsAreDecided
  refine ⟨?first, ?later, ?granted, ?started, ?timeout, ?window, ?release⟩
  case first =>
    intro s x q r p hrun head waiting fresh posted first bar room
    have may : PowerDecides s x q r p := Or.inr ⟨bar, room⟩
    rw [exec_permitGrant hrun head waiting]
    refine ⟨fun fits => ?_, fun short held => ?_, fun k hk short alone => ?_⟩
    · rw [decideSlice_fits may fits, grantAsked_first fresh posted first]
    · rw [decideSlice_waits may short held]
    · rw [decideSlice_narrowed may short alone, grantAsked_first fresh posted first, ← hk]
  case later =>
    intro s x q r p hrun head waiting started later fits
    rw [exec_permitGrant hrun head waiting, decideSlice_fits (Or.inl started) fits, grantAsked_later started later]
  case granted =>
    intro s x r p n k a q hq
    exact ⟨getQueue_grantSlice hq r p n a k, power_grantSlice x r p n a k s⟩
  case started =>
    intro s d r q hq _ _
    refine ⟨congrArg (· + 1) (openWatch_ord s), openWatch s, rfl, ?_⟩
    have begun : getQueue { openWatch s with ord := (openWatch s).ord + 1 } d.inst d.queue = some q :=
      (getQueue_openWatch s d.inst d.queue).trans hq
    simp only [beginPress, getQueue_modRun, begun, Option.map_some, press_ite_bindRun]
  case timeout =>
    intro s d x q r p hrun first waiting inTime
    simp only [exec, execPermitTimeout, hrun, if_true, permitTimeout, first, waiting, inTime, Bool.false_eq_true, if_false]
    rfl
  case window =>
    intro s u mw hrun hu
    simp only [exec, execPermitWindowEnd, hrun, if_true, permitWindowEnd_eq hu]
  case release =>
    intro s d q r p held mine runs idle
    simp only [exec, execPermitRelease, permitRelease_of_idle held mine runs idle]

end Sys2Proof.Machine
end

section
/-! PROOFS. Resets, RESET_CLEARING and the return of the share (17_instances.md R424 to R427; 06_memory_tiers.md R158). -/
namespace Sys2Proof.Machine

/-! ### The reset -/

theorem resetInst_absent {s : State} {i : Nat} (h : (getInst s i).st = .absent) (b : Bool) : resetInst i b s = s := by
  simp only [resetInst, h]

/-- A reset that arrives in a reset merges into it (R424). -/
theorem resetInst_resetting {s : State} {i : Nat} (h : (getInst s i).st = .resetting) (b : Bool) :
    resetInst i b s = modInst i (fun y => { y with destroy := y.destroy || b }) s := by
  simp only [resetInst, h]

theorem resetInst_active {s : State} {i : Nat} (h : (getInst s i).st = .active) (b : Bool) :
    resetInst i b s = placeAll (resetColls i (each (getInst s i).queues (resetQueue i (getInst s i)) (modInst i (fun y =>
      { y with
        st := .resetting
        shareHeld := true
        clearing := false
        destroy := b
        refusing := true
        resets := satAdd 32 y.resets 1
        missed := 0
        late := 0 }) s))) := by
  simp only [resetInst, h]

/-! ### The clearing -/

theorem exec_resetClearing {s : State} (hrun : running s = true) (i : Nat) :
    exec (.resetClearing i) s = .next (resetClearing i s) := by
  simp only [exec, execResetClearing, hrun, if_true]

/-- Outside a reset, and once the clearing is done, there is nothing to clear. -/
theorem resetClearing_idle {s : State} {i : Nat} (h : (getInst s i).st ≠ .resetting ∨ (getInst s i).clearing = true) :
    resetClearing i s = s := by
  simp only [resetClearing, if_pos h]

/-! ### Segments -/

/-- A change that each step of a list of changes keeps, the list keeps. -/
theorem each_keeps {α β : Type} (read : State → β) (f : α → State → State) (step : ∀ a s, read (f a s) = read s)
    (l : List α) (s : State) : read (each l f s) = read s := by
  induction l generalizing s with
  | nil => rfl
  | cons a l ih => exact (ih (f a s)).trans (step a s)

theorem freeStorage_steward (f : Tier × FreeWait) (s : State) : (freeStorage f s).steward = s.steward :=
  modTier_steward ..

theorem freeStorage_insts (f : Tier × FreeWait) (s : State) : (freeStorage f s).insts = s.insts :=
  modTier_insts ..

theorem parks_empty : parks Seg.empty = false := rfl

/-- Without a token no segment is parked, and without a KEEP segment in a tier there is none to park (R157, R158). -/
theorem clearSegs_none_parked {s : State} {i : Nat}
    (h : wd (getInst s i).record 4 = 0 ∨ ∀ g ∈ (getInst s i).segs, parks g = false) (k : Nat) :
    (wd (getInst s i).record 4 != 0 && parks ((getInst s i).segs.getD k Seg.empty)) = false := by
  rcases h with token | keep
  · rw [token]; rfl
  · rw [Bool.and_eq_false_iff]
    right
    rw [List.getD_eq_getElem?_getD]
    cases hk : (getInst s i).segs[k]? with
    | none => exact parks_empty
    | some g => exact keep g (List.mem_of_getElem? hk)

/-- The storage that the segments of a table give back when none of them is parked. -/
def segStorage (x : Inst) : List (Tier × FreeWait) :=
  (List.range 16).filterMap fun k => freedBy (x.segs.getD k Seg.empty) Seg.empty

/-- Then every segment is freed: the parked sets stay, and the table is empty. -/
theorem clearSegs_frees {s : State} {i : Nat}
    (h : wd (getInst s i).record 4 = 0 ∨ ∀ g ∈ (getInst s i).segs, parks g = false) :
    clearSegs i s = each (segStorage (getInst s i)) freeStorage
      (modInst i (fun y => { y with segs := List.replicate 16 Seg.empty }) s) := by
  have nothing : (List.range 16).filter (fun k => wd (getInst s i).record 4 != 0 &&
      parks ((getInst s i).segs.getD k Seg.empty)) = [] :=
    List.filter_eq_nil_iff.mpr fun k _ => Bool.eq_false_iff.mp (clearSegs_none_parked h k)
  simp only [clearSegs, nothing, ite_self, if_true, ne_eq, not_true_eq_false, and_false, if_false, List.contains_nil,
    Bool.false_eq_true]
  rfl

/-! ### The obligation -/

/-- Settles O48: the cases of a reset, the clearing done once, what the return of the share leaves, and segments that are
freed without being parked. -/
theorem instancesResetAndClear : Obligations.InstancesResetAndClear := by
  unfold Obligations.InstancesResetAndClear
  refine ⟨?reset, ?again, ?clearing, ?share, ?segments⟩
  case reset =>
    intro s i b
    exact ⟨fun h => resetInst_absent h b, fun h => resetInst_resetting h b, fun h => resetInst_active h b⟩
  case again =>
    intro s i hrun h
    rw [exec_resetClearing hrun, resetClearing_idle h]
  case clearing =>
    intro s u i x hrun hx hst hclear hu
    subst hx hu
    have resetting : ¬ ((getInst s i).st ≠ .resetting ∨ (getInst s i).clearing = true) := by
      simp only [hst, hclear, ne_eq, not_true_eq_false, Bool.false_eq_true, or_self, not_false_eq_true]
    refine ⟨_, rfl, ?_⟩
    rw [exec_resetClearing hrun]
    exact congrArg Host.Outcome.next (if_neg resetting)
  case share =>
    intro s i x hx
    subst hx
    exact ⟨getInst_modInst i _ s, fun j hj => getInst_modInst_ne hj _ s⟩
  case segments =>
    intro s i h
    have insts := each_keeps (·.insts) freeStorage freeStorage_insts (segStorage (getInst s i))
      (modInst i (fun y => { y with segs := List.replicate 16 Seg.empty }) s)
    refine ⟨?_, ?_⟩
    · rw [clearSegs_frees h, each_keeps (·.steward) freeStorage freeStorage_steward]
      rfl
    · rw [clearSegs_frees h, getInst, insts, ← getInst, getInst_modInst]

end Sys2Proof.Machine
end

section
/-! PROOFS. Whom SCHEDULER_GRANT serves and what a grant changes (15_scheduling_shaping.md R374 to R380; 04_queues_rings.md
R99). -/
namespace Sys2Proof.Machine

/-! ### The choice -/

/-- Among weights above 0 the least start tag is chosen; weight 0 is served where none of them can be granted (R379). -/
theorem classChoice_least {s : State} {c : Nat} {x : Nat × Nat × Queue} (h : classChoice s c = some x) :
    x ∈ grantable s c ∧ ∀ y ∈ grantable s c, 0 < shWeight y.2.2.share →
      0 < shWeight x.2.2.share ∧ startTag s x.2.2 ≤ startTag s y.2.2 := by
  simp only [classChoice] at h
  split at h
  next p hmin =>
    cases h
    obtain ⟨chosen, least⟩ := minBy_spec _ _ _ hmin
    obtain ⟨mem, weight⟩ := List.mem_filter.mp chosen
    exact ⟨mem, fun y hy hw => ⟨of_decide_eq_true weight, least y (List.mem_filter.mpr ⟨hy, decide_eq_true hw⟩)⟩⟩
  next hmin =>
    have none_weighs := List.filter_eq_nil_iff.mp (minBy_none _ _ hmin)
    exact ⟨List.mem_of_mem_head? h, fun y hy hw => absurd (decide_eq_true hw) (none_weighs y hy)⟩

theorem schedulerGrant_serves {s : State} {c i qi : Nat} {d : List Nat} {q : Queue} {p : Piece}
    (served : classNext (placeAll s) = some (c, d)) (choice : classChoice (placeAll s) c = some (i, qi, q))
    (piece : nextPiece (placeAll s) q = some p) :
    schedulerGrant s = placeAll (grantPiece i qi q p { placeAll s with sched := { (placeAll s).sched with
      cls := c, deficit := modAt d c fun x => x - charge (placeAll s) i q p } }) := by
  simp only [schedulerGrant, served, choice, piece]

/-! ### The grant -/

/-- The TT against which a class is held back moves on with a grant too (R381). -/
def chargeCeiling (i c : Nat) (q : Queue) (s : State) (x : Inst) : Inst :=
  { x with ceilTT := modAt x.ceilTT (shClass q.share) fun t =>
      afterGrant (ceilingOf (getInst s i) (shClass q.share)) t (now256 s) c }

/-- A grant changes of its queue TT, the finish tag, the bytes charged and the place (R376, R379). -/
theorem getQueue_chargeGrant (i qi c : Nat) (q : Queue) (s : State) :
    getQueue (chargeGrant i qi c q s) i qi = (getQueue s i qi).map fun y => { y with
      tt := afterGrant y.share y.tt (now256 s) c
      tag := if 0 < shWeight q.share then startTag s q + c * 256 / shWeight q.share else y.tag
      charged := satAdd 40 y.charged c
      place := .none } :=
  (getQueue_modInst i i qi (chargeCeiling i c q s) (fun _ => rfl) _).trans (getQueue_modQueue i qi _ s)

theorem grantPiece_first {q : Queue} (room : receiptRoom q = true) (i qi : Nat) (f : Fetched) (s : State) :
    grantPiece i qi q (.first f) s = chargeGrant i qi (charge s i q (.first f)) q (modQueue i qi (fun y => { y with
      fetched := y.fetched.filter fun g => g.slot != f.slot
      runs := y.runs ++ [{ newRun s i qi q f.slot f.words f.tick false (!isPress (dOp (view q.desc.v1 f.words))) with
        plate := f.plate }]
      unfinished := if holdsPlace (dOp (view q.desc.v1 f.words)) then y.unfinished ++ [f.slot] else y.unfinished })
      { s with ord := s.ord + 1 }) := by
  simp only [grantPiece, room, Bool.not_true, Bool.false_eq_true, if_false]

/-- Without room for its receipt a start is held back (R99). -/
theorem grantPiece_without_room {q : Queue} (full : receiptRoom q = false) (i qi : Nat) (f : Fetched) (s : State) :
    grantPiece i qi q (.first f) s = holdReceiptFull i qi s := by
  simp only [grantPiece, full, Bool.not_false, if_true]

/-! ### The obligation -/

/-- Settles O15: the choice of the class, and what a first piece granted or held back changes. -/
theorem schedulerServesLeastStart : Obligations.SchedulerServesLeastStart := by
  unfold Obligations.SchedulerServesLeastStart
  refine ⟨?serves, ?starts, ?full⟩
  case serves =>
    intro s u c i qi d q p hu served choice piece
    subst hu
    exact ⟨congrArg Host.Outcome.next (schedulerGrant_serves served choice piece), classChoice_least choice⟩
  case starts =>
    intro s i qi q f hq room
    have queue : getQueue { s with ord := s.ord + 1 } i qi = some q := hq
    rw [grantPiece_first room]
    refine ⟨?_, rfl⟩
    rw [getQueue_chargeGrant, getQueue_modQueue, queue]
    rfl
  case full =>
    intro s i qi q f _ full
    exact grantPiece_without_room full i qi f s

end Sys2Proof.Machine
end

section
/-! PROOFS. A docket with a finding of R108 ends MALFORMED (04_queues_rings.md R108; 02_wisan_contract.md R27, R29, R37). -/
namespace Sys2Proof.Machine

/-- Each command of a docket starts it with the effect of its opcode. -/
theorem exec_docketCommand {d : DRef} {p : Nat × Instr} (h : p ∈ docketCommands d) :
    ∃ body : Queue → Run → State → State, ∀ s, exec p.2 s = .next (startDocket d p.1 body s) := by
  simp only [docketCommands, List.mem_cons, List.not_mem_nil, or_false] at h
  rcases h with rfl | rfl | rfl | rfl | rfl | rfl | rfl | rfl | rfl | rfl | rfl | rfl <;> exact ⟨_, fun _ => rfl⟩

/-- A finding ends a docket MALFORMED before anything of its effect. -/
theorem startDocket_finding {s : State} {d : DRef} {op k : Nat} {q : Queue} {r : Run} (h : DocketGranted s d op q r)
    (found : finding s d.inst d.queue q r = some k) (body : Queue → Run → State → State) :
    startDocket d op body s = placeAll (malformed d.inst d.queue r k (countExhausted r s)) := by
  obtain ⟨granted, hrun, started, hop⟩ := h
  simp only [startDocket, granted, hrun, started, hop, found, Bool.not_true, bne_self_eq_false, Bool.or_self,
    Bool.false_eq_true, if_false]

theorem exec_unimplementedOpcode {s : State} {d : DRef} {q : Queue} {r : Run} (granted : openRun s d = some (q, r))
    (hrun : running s = true) (started : r.started = true) (unknown : opKnown q.desc.v1 (dOp (runWords q r)) = false) :
    exec (.unimplementedOpcode d) s = .next (placeAll (malformed d.inst d.queue r 0 s)) := by
  simp only [exec, execUnimplementedOpcode, granted, hrun, started, unknown, Bool.not_false, Bool.and_self, if_true]

/-- The finding of a docket bound at its start is kept, whatever the state becomes (R29). -/
theorem finding_bindRun (s u : State) (i qi : Nat) (q : Queue) (r : Run) :
    finding u i qi q (bindRun s i qi q r) = judge s i qi q r.planned (runWords q r) := rfl

theorem malformed_started {r : Run} (started : r.started = true) (i qi k : Nat) (s : State) :
    malformed i qi r k s = raiseQueue i qi (finishRun i qi r (settledAs stMalformed 0 k)
      (modQueue i qi (discardUnstarted r.slot) (withdrawUnstarted i qi r.ord s))) := by
  simp only [malformed, started, if_true]

/-- An ACTIVE queue goes to ERROR with what it has started alone (R108). -/
theorem discardUnstarted_active {q : Queue} (active : q.st = .active) (slot : Nat) :
    discardUnstarted slot q = { latchError slot false q with
      st := .error
      unfinished := q.unfinished.filter fun k => q.runs.any fun r => r.started && r.slot == k
      runs := q.runs.filter (·.started)
      fetched := []
      sweep := none
      scanWaits := false
      place := .none } := by
  have stops : findingStops q = true := by simp only [findingStops, active, decide_true, Bool.true_or]
  have carried : ¬ q.st = .held := by rw [active]; decide
  simp only [discardUnstarted, stops, if_true, if_pos active, if_neg carried]
  rfl

/-- Settles O20: the finding of a start, that of an opcode unknown to the device, and what either leaves of the queue. -/
theorem findingsEndDockets : Obligations.FindingsEndDockets := by
  unfold Obligations.FindingsEndDockets
  refine ⟨?found, ?unknown, ?bound, ?ends⟩
  case found =>
    intro s d q r p k command granted found
    obtain ⟨body, starts⟩ := exec_docketCommand command
    rw [starts, startDocket_finding granted found]
  case unknown =>
    intro s d q r granted hrun started unknown
    exact exec_unimplementedOpcode granted hrun started unknown
  case bound =>
    intro s i qi q r
    have found := fun u => finding_bindRun s u i qi q r
    exact ⟨rfl, found s, fun u => (found u).trans (found s).symm⟩
  case ends =>
    intro s i qi k q r _ active started
    exact ⟨malformed_started started i qi k s, discardUnstarted_active active r.slot⟩

end Sys2Proof.Machine
end

section
/-! PROOFS. How dockets end: DOCKET_COMPLETE, DRAIN_ABORT and HELD_DOCKET_END, and the place of a receipt
(04_queues_rings.md R44, R95, R97, R111; 16_hatches.md R399, R404). -/
namespace Sys2Proof.Machine

/-! ### DOCKET_COMPLETE -/

section
variable {s : State} {d : DRef} {q : Queue} {r : Run} {out : Settled} (hq : getQueue s d.inst d.queue = some q)
  (settled : settledRun q d.slot = some (r, out))
include hq settled

/-- A FENCE waits for the earlier dockets of its queue (R44). -/
theorem completeDocket_fenced (op : dOp (runWords q r) = opFence) (earlier : earlierDone q r = false) :
    completeDocket d s = s := by
  simp only [completeDocket, hq, settled, op, earlier, and_self, if_true]

/-- While receipts do not flow a docket waits, unless its queue is HELD (R399, R410). -/
theorem completeDocket_blocked (ring : q.st ≠ .held) (stuck : receiptsFlow s d.inst q = false) : completeDocket d s = s := by
  have blocked : q.st = .stopped ∨ (q.st ≠ .held ∧ receiptsFlow s d.inst q = false) := Or.inr ⟨ring, stuck⟩
  simp only [completeDocket, hq, settled, if_pos blocked, ite_self]

section
variable (clear : dOp (runWords q r) = opFence → earlierDone q r = true) (live : q.st ≠ .stopped)
  (flows : q.st = .held ∨ receiptsFlow s d.inst q = true)
include clear live flows

/-- Otherwise it ends: with its receipt, or without a reserved slot where it has not started. -/
theorem completeDocket_ends : completeDocket d s =
    if r.started then placeAll (finishRun d.inst d.queue r out s) else placeAll (endWaitingRun d.inst d.queue q r out s) := by
  have unfenced : ¬ (dOp (runWords q r) = opFence ∧ earlierDone q r = false) := fun ⟨op, earlier⟩ =>
    Bool.false_ne_true (earlier.symm.trans (clear op))
  have unblocked : ¬ (q.st = .stopped ∨ (q.st ≠ .held ∧ receiptsFlow s d.inst q = false)) := by
    rintro (stopped | ⟨ring, stuck⟩)
    · exact live stopped
    · exact flows.elim ring fun f => Bool.false_ne_true (stuck.symm.trans f)
  simp only [completeDocket, hq, settled, if_neg unfenced, if_neg unblocked]

end
end

theorem exec_docketComplete {s : State} (hrun : running s = true) (d : DRef) :
    exec (.docketComplete d) s = .next (completeDocket d s) := by
  simp only [exec, execDocketComplete, hrun, if_true]

/-! ### HELD_DOCKET_END -/

/-- On a HELD queue a docket that completed ends as DOCKET_COMPLETE ends it. -/
theorem exec_heldDocketEnd_completed {s : State} {d : DRef} {q : Queue} (hrun : running s = true)
    (hq : getQueue s d.inst d.queue = some q) (held : q.st = .held) :
    exec (.heldDocketEnd d false) s = .next (completeDocket d s) := by
  simp only [exec, execHeldDocketEnd, hrun, if_true, heldEnd, hq, held, ne_eq, not_true_eq_false, if_false,
    Bool.false_eq_true]

/-- A docket of a HELD queue that has an access to its hatch before it is stopped there (R399). -/
theorem exec_heldDocketEnd_interrupted {s : State} {d : DRef} {q : Queue} {r : Run} (hrun : running s = true)
    (hq : getQueue s d.inst d.queue = some q) (held : q.st = .held)
    (found : q.runs.find? (fun r => r.slot == d.slot && r.started && r.outcome.isNone && !r.interrupted) = some r)
    (needs : needsHome q r = true) :
    exec (.heldDocketEnd d true) s = .next (interruptDocket d.inst d.queue q r s) := by
  simp only [exec, execHeldDocketEnd, hrun, if_true, heldEnd, hq, held, ne_eq, not_true_eq_false, if_false, found, needs]

/-- It is kept for its re-execution where it neither accumulates nor is a COLL_RUN (R404). -/
theorem interruptDocket_kept {q : Queue} {r : Run} (op : dOp (runWords q r) ≠ opCollRun) (plain : r.lig = none) (i qi : Nat)
    (s : State) : interruptDocket i qi q r s = modRun i qi r.ord (fun x => { x with interrupted := true })
      (undefHost r (runWords q r) (modQueue i qi (fun y => { y with unfinished := y.unfinished.filter (· != r.slot) })
        (stopDocket i qi r s))) := by
  simp only [interruptDocket, if_neg op, plain, Bool.false_eq_true, if_false]

/-! ### DRAIN_ABORT -/

section
variable {s : State} {d : DRef} {q : Queue} (hrun : running s = true) (hq : getQueue s d.inst d.queue = some q)
  (draining : q.st = .draining)
include hrun hq draining

theorem exec_drainAbort_fetched {f : Fetched} (fetched : q.fetched.find? (fun f => f.slot == d.slot) = some f) :
    exec (.drainAbort d) s = .next (placeAll (abortFetched d q f s)) := by
  simp only [exec, execDrainAbort, hrun, if_true, drainAbort, hq, draining, ne_eq, not_true_eq_false, if_false, fetched]

theorem exec_drainAbort_run {r : Run} (unfetched : q.fetched.find? (fun f => f.slot == d.slot) = none)
    (found : q.runs.find? (fun r => r.slot == d.slot && r.outcome.isNone) = some r) :
    exec (.drainAbort d) s = .next (if receiptsFlow s d.inst q then placeAll (abortRun d q r s) else s) := by
  simp only [exec, execDrainAbort, hrun, if_true, drainAbort, hq, draining, ne_eq, not_true_eq_false, if_false, unfetched,
    found]

end

/-! ### Records and receipts -/

/-- On a HELD queue an outcome goes to the record, with what its receipt will say (R399). -/
theorem finishRun_held {s : State} {i qi : Nat} {q : Queue} {r : Run} (hq : getQueue s i qi = some q) (held : q.st = .held)
    (first : r.resumed = false) (out : Settled) :
    finishRun i qi r out s = modQueue i qi (fun y => { dropRun r.ord y with
      unfinished := y.unfinished.filter (· != r.slot)
      record := y.record ++ [{ run := r, out := flagged s i qi q r out, late := isLate s r q.desc.v1,
                               tickLo := s.time.tick % 2 ^ 32, subtick := subtick s }] }) s := by
  simp only [finishRun, hq, held, if_true, spoilResumed, first, Bool.false_and, Bool.false_eq_true, if_false]

/-- A write of memory leaves the queues. -/
theorem MemOnly.getQueue {s t : State} (h : MemOnly s t) (i k : Nat) : getQueue t i k = getQueue s i k := by
  simp only [Machine.getQueue, getInst, h.insts]

/-- The counts of ends that missed their deadline or came late (R73). -/
def countEnd (r : Receipt) (x : Inst) : Inst :=
  { x with missed := if r.out.status = stDeadlineMissed ∧ r.kind = 0 then satAdd 32 x.missed 1 else x.missed
           late := if r.late then satAdd 32 x.late 1 else x.late }

/-- Where its slot lies in a segment, a receipt without SIGNAL is written there, and WI advances (R97). -/
theorem writeReceipt_in_segment {s : State} {i qi : Nat} {q : Queue} {r : Receipt} {g : Seg}
    (hq : getQueue s i qi = some q) (quiet : r.signal = false)
    (seg : findSeg (getInst s i).segs (q.desc.receiptBase + 32 * (q.wi % ringSize q)) 32 false true = some g) :
    writeReceipt i qi r s = modInst i (countEnd r) (modQueue i qi (fun y => { y with wi := (y.wi + 1) % (2 * ringSize y) })
      (writeSeg i g (q.desc.receiptBase + 32 * (q.wi % ringSize q))
        (bytesOf (receiptWords (phase q.desc.ringCode q.wi) r)) s).2) := by
  simp only [writeReceipt, hq, seg, quiet, Bool.false_eq_true, if_false]
  rfl

theorem getQueue_countEnd (i j k : Nat) (r : Receipt) (s : State) :
    getQueue (modInst i (countEnd r) s) j k = getQueue s j k :=
  getQueue_modInst i j k (countEnd r) (fun _ => rfl) s

/-! ### The obligation -/

/-- Settles O24: the ends of dockets, the record of a HELD queue and the place of a receipt, each by its own rule. -/
theorem receiptsEndDockets : Obligations.ReceiptsEndDockets := by
  unfold Obligations.ReceiptsEndDockets
  refine ⟨?started, ?unstarted, ?waits, ?recorded, ?written, ?drain, ?stopped⟩
  case started =>
    intro s d q r o hrun hq settled started live clear flows
    have ends := completeDocket_ends hq settled clear live flows
    rw [if_pos started] at ends
    refine ⟨by rw [exec_docketComplete hrun, ends], fun held => ?_⟩
    rw [exec_heldDocketEnd_completed hrun hq held, exec_docketComplete hrun]
  case unstarted =>
    intro s d q r o hrun hq settled fresh live other flows
    have ends := completeDocket_ends hq settled (fun op => absurd op other) live flows
    rw [if_neg (Bool.eq_false_iff.mp fresh)] at ends
    rw [exec_docketComplete hrun, ends]
    rfl
  case waits =>
    intro s d q r o hrun hq settled wait
    rw [exec_docketComplete hrun]
    rcases wait with ⟨op, earlier⟩ | ⟨ring, stuck⟩
    · rw [completeDocket_fenced hq settled op earlier]
    · rw [completeDocket_blocked hq settled ring stuck]
  case recorded =>
    intro s i qi q r o hq held first
    rw [finishRun_held hq held first]
    refine ⟨?_, rfl⟩
    rw [getQueue_modQueue, hq]
    rfl
  case written =>
    intro s i qi q r g hq quiet seg
    have memory := memOnly_writeSeg i g (q.desc.receiptBase + 32 * (q.wi % ringSize q))
      (bytesOf (receiptWords (phase q.desc.ringCode q.wi) r)) s
    rw [writeReceipt_in_segment hq quiet seg]
    refine ⟨_, rfl, ?_, rfl, ?_, fun j k other => ?_⟩
    · obtain ⟨_, _, _, _, _, _, written⟩ := memory
      rw [written]
    · rw [getQueue_countEnd, getQueue_modQueue, memory.getQueue, hq]
      rfl
    · rw [getQueue_countEnd, getQueue_modQueue_ne other, memory.getQueue]
  case drain =>
    intro s d q hrun hq draining
    exact ⟨fun f fetched => exec_drainAbort_fetched hrun hq draining fetched,
      fun r unfetched found => exec_drainAbort_run hrun hq draining unfetched found⟩
  case stopped =>
    intro s d q r hrun hq held found needs op plain
    rw [exec_heldDocketEnd_interrupted hrun hq held found needs, interruptDocket_kept op plain]

end Sys2Proof.Machine
end

section
/-! PROOFS. The entries of tick programs at their turn, missed deadlines and INVALIDATE (03_tick.md R67 to R73;
04_queues_rings.md R106, R107; 20_power_watch.md R467). -/
namespace Sys2Proof.Machine

/-! ### The entry whose turn comes -/

/-- An entry comes to its turn while the device runs and its generator ticks. -/
def AtTurn (s : State) (p : ProgRun) (e : Entry) : Prop :=
  nextEntry s = some (p, e) ∧ running s = true ∧ ticking s = true

section
variable {s : State} {p : ProgRun} {e : Entry} (turn : AtTurn s p e)
include turn

theorem programEntryStart_asked (asked : p.asked = true) : programEntryStart s = askedEntry p e s := by
  obtain ⟨next, hrun, ticks⟩ := turn
  simp only [programEntryStart, next, hrun, ticks, asked, Bool.not_true, Bool.or_self, Bool.false_eq_true, if_false, if_true]

section
variable (fresh : p.asked = false)
include fresh

/-- Without a queue that is ACTIVE and planned it is skipped at its time (R70). -/
theorem programEntryStart_no_queue
    (gone : ∀ q, getQueue s e.inst e.queue = some q → q.st ≠ .active ∨ q.desc.planned = false) :
    programEntryStart s = entrySkipped (waitPtp (entryTime p e) s).clk.ptp (waitPtp (entryTime p e) s) := by
  obtain ⟨next, hrun, ticks⟩ := turn
  simp only [programEntryStart, next, hrun, ticks, fresh, Bool.not_true, Bool.or_self, Bool.false_eq_true, if_false]
  cases hq : getQueue s e.inst e.queue with
  | none => rfl
  | some q => exact if_pos (gone q hq)

section
variable {q : Queue} (hq : getQueue s e.inst e.queue = some q) (active : q.st = .active) (planned : q.desc.planned = true)
include hq active planned

/-- A FENCE of its queue holds it, and so does a gating wait of an entry that is no press operation (R43, R44, R69). -/
theorem programEntryStart_held
    (held : entryFenced q e = true ∨ isPress (dOp e.words) = false ∧ p.gates.all (gateDone s p) = false) :
    programEntryStart s = s := by
  obtain ⟨next, hrun, ticks⟩ := turn
  have waits : (entryFenced q e || (!isPress (dOp e.words) && !p.gates.all (gateDone s p))) = true := by
    rcases held with fence | ⟨plain, gate⟩
    · rw [fence, Bool.true_or]
    · rw [plain, gate, Bool.not_false, Bool.and_self, Bool.or_true]
  simp only [programEntryStart, next, hrun, ticks, fresh, hq, active, planned, waits, Bool.not_true, Bool.or_self, ne_eq,
    not_true_eq_false, Bool.true_eq_false, or_self, Bool.false_eq_true, if_false, if_true]

section
variable (unfenced : entryFenced q e = false)
  (gates : isPress (dOp e.words) = true ∨ p.gates.all (gateDone s p) = true)
include unfenced gates

/-- With nothing to hold it, it starts where there is room for its receipt, and is skipped otherwise (R70, R99). -/
theorem programEntryStart_free : programEntryStart s = if !receiptRoom q then
      holdReceiptFull e.inst e.queue (entrySkipped (waitPtp (entryTime p e) s).clk.ptp (waitPtp (entryTime p e) s))
    else startEntry p e q s := by
  obtain ⟨next, hrun, ticks⟩ := turn
  have free : (entryFenced q e || (!isPress (dOp e.words) && !p.gates.all (gateDone s p))) = false := by
    rcases gates with press | done
    · rw [unfenced, press, Bool.not_true, Bool.false_and, Bool.or_self]
    · rw [unfenced, done, Bool.not_true, Bool.and_false, Bool.or_self]
  simp only [programEntryStart, next, hrun, ticks, fresh, hq, active, planned, free, Bool.not_true, Bool.or_self, ne_eq,
    not_true_eq_false, Bool.true_eq_false, or_self, Bool.false_eq_true, if_false]

theorem programEntryStart_starts (room : receiptRoom q = true) : programEntryStart s = startEntry p e q s := by
  rw [programEntryStart_free turn fresh hq active planned unfenced gates, room]
  rfl

theorem programEntryStart_without_room (full : receiptRoom q = false) : programEntryStart s =
    holdReceiptFull e.inst e.queue (entrySkipped (waitPtp (entryTime p e) s).clk.ptp (waitPtp (entryTime p e) s)) := by
  rw [programEntryStart_free turn fresh hq active planned unfenced gates, full]
  rfl

end
end
end
end

/-! ### What starting an entry leaves -/

/-- Loading a context leaves the program runs. -/
theorem loadContext_runs (i qi : Nat) (s : State) : (loadContext i qi s).2.runs = s.runs := by
  unfold loadContext
  cases getQueue s i qi with
  | none => rfl
  | some q =>
    dsimp only
    split
    · rfl
    · split <;> rfl

/-- The state in which an entry has its run: the next order number is taken, and the context of its queue is loaded. -/
def withEntryRun (p : ProgRun) (e : Entry) (q : Queue) (started : Bool) (u : State) : State :=
  (loadContext e.inst e.queue (modQueue e.inst e.queue (fun y =>
    { y with runs := y.runs ++ [newRun u e.inst e.queue q p.next e.words p.tick true started] }) { u with ord := u.ord + 1 })).2

theorem startEntry_plain {e : Entry} (plain : isPress (dOp e.words) = false) (p : ProgRun) (q : Queue) (s : State) :
    startEntry p e q s =
      entryBegan (withEntryRun p e q true (yieldWait (dOp e.words) (waitPtp (entryTime p e) s))).clk.ptp
        (withEntryRun p e q true (yieldWait (dOp e.words) (waitPtp (entryTime p e) s))) := by
  simp only [startEntry, plain, Bool.false_eq_true, if_false, Bool.not_false]
  rfl

/-- A press entry asks for its permit 200 ns before its time (R467). -/
theorem startEntry_press {s : State} {p : ProgRun} {e : Entry} {l : List ProgRun} (press : isPress (dOp e.words) = true)
    (runs : s.runs = p :: l) (q : Queue) :
    startEntry p e q s = { withEntryRun p e q false (waitPtp (entryTime p e - 200) s) with
      runs := { p with asked := true } :: l } := by
  have kept : (withEntryRun p e q false (waitPtp (entryTime p e - 200) s)).runs = p :: l :=
    (loadContext_runs _ _ _).trans runs
  unfold withEntryRun at kept ⊢
  simp only [startEntry, press, if_true, Bool.not_true, kept]

/-- The run in hand stands at the head. -/
theorem runs_of_nextEntry {s : State} {p : ProgRun} {e : Entry} (h : nextEntry s = some (p, e)) : s.runs = p :: s.runs.tail := by
  unfold nextEntry at h
  cases hr : s.runs with
  | nil => rw [hr] at h; cases h
  | cons x l =>
    rw [hr] at h
    obtain ⟨_, -, pair⟩ := Option.map_eq_some_iff.mp h
    cases pair
    rfl

/-! ### An entry that has asked for its permit -/

theorem askedEntry_gone {s : State} {p : ProgRun} {e : Entry} (gone : askedRun s p e = none) :
    askedEntry p e s = entrySkipped (waitPtp (entryTime p e) s).clk.ptp (waitPtp (entryTime p e) s) := by
  simp only [askedEntry, gone]

section
variable {s : State} {p : ProgRun} {e : Entry} {q : Queue} {r : Run} (hq : getQueue s e.inst e.queue = some q)
  (asked : askedRun s p e = some r)
include hq asked

theorem askedEntry_waits (waits : isGated r = false ∨ p.gates.all (gateDone s p) = false) : askedEntry p e s = s := by
  have closed : (isGated r && p.gates.all (gateDone s p)) = false := Bool.and_eq_false_iff.mpr waits
  simp only [askedEntry, asked, hq, closed, Bool.false_eq_true, if_false]

/-- With a permit in hand and its gating waits done it starts at its time (R67, R69). -/
theorem askedEntry_starts {u : State} (hu : u = waitPtp (entryTime p e) s) (gated : isGated r = true)
    (gates : p.gates.all (gateDone s p) = true)
    (clear : (asBound u e.inst q r).press.bind
      (startBar u { inst := e.inst, queue := e.queue, slot := p.next } q (asBound u e.inst q r)) = none)
    (room : receiptRoom q = true) :
    askedEntry p e s = plannedBegan { inst := e.inst, queue := e.queue, slot := p.next }
      (beginPress { inst := e.inst, queue := e.queue, slot := p.next } q (asBound u e.inst q r) u) := by
  subst hu
  simp only [askedEntry, asked, hq, gated, gates, Bool.and_self, if_true, clear, room]

end

/-! ### The run in hand after an entry -/

/-- A run with entries to come stays in hand (R68). -/
theorem carry_unfinished {p : ProgRun} (h : p.next < p.entries.length) (n : Nat) (l : List ProgRun) :
    carry (n + 1) (p :: l) = p :: l := by
  cases l with
  | nil => rfl
  | cons q rest => exact if_neg (Nat.not_le.mpr h)

theorem passEntry_unfinished {s : State} {p : ProgRun} {l : List ProgRun} (runs : s.runs = p :: l) {f : ProgRun → ProgRun}
    (more : (f { p with next := p.next + 1, asked := false }).next <
      (f { p with next := p.next + 1, asked := false }).entries.length) :
    passEntry f s = { s with runs := f { p with next := p.next + 1, asked := false } :: l } := by
  simp only [passEntry, runs, carry_unfinished more]

theorem nextEntry_of_runs {s : State} {p : ProgRun} {l : List ProgRun} {e : Entry} (runs : s.runs = p :: l)
    (he : p.entries[p.next]? = some e) : nextEntry s = some (p, e) := by
  simp only [nextEntry, runs, he, Option.map_some]

/-- The start of an entry that is not the last sets D to how late it was (R67, R72). -/
theorem entryBegan_unfinished {s : State} {p : ProgRun} {l : List ProgRun} {e : Entry} (runs : s.runs = p :: l)
    (he : p.entries[p.next]? = some e) (more : p.next + 1 < p.entries.length) (t : Nat) :
    entryBegan t s = { s with
      runs := { p with
        next := p.next + 1
        asked := false
        delay := t - p.edge - e.offset * 64
        lastStart := some t
        gates := if isGate e then [{ inst := e.inst, queue := e.queue, slot := p.next }] else [] } :: l
      time := { s.time with maxSlip := max s.time.maxSlip (slipOf (t - p.edge - e.offset * 64)) } } := by
  have notLast : ¬ p.entries.length = p.next + 1 := Nat.ne_of_gt more
  have inTime : (match p.endEdge with
      | some x => if p.entries.length = p.next + 1 ∧ x < t then countOverrun x t s else s
      | none => s) = s := by
    split
    · exact if_neg fun c => notLast c.1
    · rfl
  simp only [entryBegan, nextEntry_of_runs runs he]
  exact (congrArg _ (congrArg (modTime _) inTime)).trans (passEntry_unfinished (s := modTime _ s) (l := l) runs more)

/-- A skipped entry counts and leaves D (R70). -/
theorem entrySkipped_unfinished {s : State} {p : ProgRun} {l : List ProgRun} (runs : s.runs = p :: l)
    (more : p.next + 1 < p.entries.length) (t : Nat) :
    entrySkipped t s = { s with
      runs := { p with next := p.next + 1, asked := false, lastStart := some t, gates := [] } :: l
      time := { s.time with skipped := (s.time.skipped + 1) % 2 ^ 64 } } :=
  passEntry_unfinished (s := modTime _ s) (l := l) runs more

/-! ### Deadlines -/

/-- The deadline of a fetched docket (R73). -/
theorem deadlineExpiry_fetched {s : State} {d : DRef} {q : Queue} {f : Fetched} (hq : getQueue s d.inst d.queue = some q)
    (late : q.fetched.find? (fun f => f.slot == d.slot && missed s q f) = some f) :
    deadlineExpiry d s = placeAll (endUnstarted d.inst d.queue (missedReceipt s d.slot (view q.desc.v1 f.words) f.words)
      (modQueue d.inst d.queue (fun y => { y with fetched := y.fetched.filter fun g => g.slot != d.slot }) s)) := by
  simp only [deadlineExpiry, hq, late]

/-- The deadline of a press docket that waits (R241). -/
theorem deadlineExpiry_run {s : State} {d : DRef} {q : Queue} {r : Run} (hq : getQueue s d.inst d.queue = some q)
    (unfetched : q.fetched.find? (fun f => f.slot == d.slot && missed s q f) = none)
    (late : q.runs.find? (fun r => r.slot == d.slot && runMissed s q r) = some r) :
    deadlineExpiry d s = placeAll (endUnstarted d.inst d.queue (receiptOf s d.slot r.words
      (unstartedOutcome s d.inst d.queue q r aborted) false) (withdrawPress d.inst d.queue r (modQueue d.inst d.queue
        (fun y => { dropRun r.ord y with unfinished := y.unfinished.filter (· != r.slot) }) s))) := by
  simp only [deadlineExpiry, hq, unfetched, late]

theorem unstartedOutcome_missed {s : State} {q : Queue} {r : Run} (late : runMissed s q r = true) (i qi : Nat)
    (out : Settled) : (unstartedOutcome s i qi q r out).status = stDeadlineMissed := by
  simp only [unstartedOutcome, late, if_true, flagged, settledAs]

section
variable {s : State} {d : DRef} {q : Queue} (hrun : running s = true) (hq : getQueue s d.inst d.queue = some q)
include hrun hq

theorem exec_deadlineExpiry_plain (plain : q.fetched.find? (fun f => f.slot == d.slot && missed s q f &&
      dOp (view q.desc.v1 f.words) == opCollRun) = none) :
    exec (.deadlineExpiry d) s = .next (deadlineExpiry d s) := by
  simp only [exec, execDeadlineExpiry, hrun, if_true, missDeadline, hq, plain]

/-- That of a COLL_RUN is told to the other members (R273, R287). -/
theorem exec_deadlineExpiry_collRun {g : Fetched} (coll : q.fetched.find? (fun f => f.slot == d.slot && missed s q f &&
      dOp (view q.desc.v1 f.words) == opCollRun) = some g) :
    exec (.deadlineExpiry d) s =
      .next (missedRun d.inst q d.slot (view q.desc.v1 g.words) (deadlineExpiry d s)) := by
  simp only [exec, execDeadlineExpiry, hrun, if_true, missDeadline, hq, coll]

end

/-! ### INVALIDATE -/

/-- With no press docket to withdraw, INVALIDATE holds its slots and tells which had started (R106, R107). -/
theorem invalidate_holds {s : State} {d : DRef} {q t : Queue} {r : Run}
    (target : getQueue s d.inst (ivTarget (runWords q r)) = some t)
    (idle : t.runs.filter (fun x => !x.planned && !x.started && (heldSlots t (runWords q r)).contains x.slot) = []) :
    invalidate d q r s = settle d.inst d.queue r.ord (settledAs stOk 0 (startedMask t (runWords q r)))
      (modQueue d.inst (ivTarget (runWords q r)) (placeHold (heldSlots t (runWords q r)) d) s) := by
  simp only [invalidate, target, idle]
  rfl

/-! ### The obligation -/

/-- Settles O25: the turn of an entry by what its queue and its gates are, what it leaves of the run in hand, and the deadlines
and holds of posted dockets. -/
theorem programEntriesStart : Obligations.ProgramEntriesStart := by
  unfold Obligations.ProgramEntriesStart
  refine ⟨?plain, ?press, ?asked, ?skipped, ?passed, ?fetched, ?waiting, ?invalidate⟩
  case plain =>
    intro s u v p e q next hrun ticks fresh gates hq active planned unfenced room plain hu hv
    subst hu hv
    refine congrArg Host.Outcome.next ?_
    rw [programEntryStart_starts ⟨next, hrun, ticks⟩ fresh hq active planned unfenced (Or.inr gates) room,
      startEntry_plain plain]
    rfl
  case press =>
    intro s u v p e q next hrun ticks fresh hq active planned unfenced room press hu hv
    subst hu hv
    refine congrArg Host.Outcome.next ?_
    rw [programEntryStart_starts ⟨next, hrun, ticks⟩ fresh hq active planned unfenced (Or.inl press) room,
      startEntry_press press (runs_of_nextEntry next)]
    rfl
  case asked =>
    intro s u p e d q r0 next hrun ticks asked hd hq hu
    subst hd
    have turn := programEntryStart_asked ⟨next, hrun, ticks⟩ asked
    refine ⟨fun gone => ?_, fun found gated gates clear room => ?_, fun found waits => ?_⟩
    · exact congrArg Host.Outcome.next (turn.trans (hu ▸ askedEntry_gone gone))
    · exact congrArg Host.Outcome.next (turn.trans (askedEntry_starts hq found hu gated gates clear room))
    · exact congrArg Host.Outcome.next (turn.trans (askedEntry_waits hq found waits))
  case skipped =>
    intro s u p e next hrun ticks fresh hu
    subst hu
    have turn : AtTurn s p e := ⟨next, hrun, ticks⟩
    refine ⟨fun gone => ?_, fun q hq active planned held => ?_, fun q hq active planned unfenced gates full => ?_⟩
    · exact congrArg Host.Outcome.next (programEntryStart_no_queue turn fresh gone)
    · exact congrArg Host.Outcome.next (programEntryStart_held turn fresh hq active planned held)
    · exact congrArg Host.Outcome.next
        (programEntryStart_without_room turn fresh hq active planned unfenced (Or.inr gates) full)
  case passed =>
    intro s t p l e runs he more
    exact ⟨entryBegan_unfinished runs he more t, entrySkipped_unfinished runs more t⟩
  case fetched =>
    intro s d q f hrun hq late
    exact ⟨deadlineExpiry_fetched hq late, fun plain => exec_deadlineExpiry_plain hrun hq plain,
      fun g coll => exec_deadlineExpiry_collRun hrun hq coll⟩
  case waiting =>
    intro s d q r hrun hq unfetched plain late
    have here := List.find?_some late
    have missed : runMissed s q r = true := (Bool.and_eq_true_iff.mp here).2
    rw [exec_deadlineExpiry_plain hrun hq plain, deadlineExpiry_run hq unfetched late]
    exact ⟨rfl, unstartedOutcome_missed missed d.inst d.queue aborted⟩
  case invalidate =>
    intro s u d q t r ready hu target idle
    subst hu
    simp only [exec, execInvalidate, start_ready ready, invalidate_holds target idle]
    rfl

end Sys2Proof.Machine
end

section
/-! PROOFS. What WRITE, SEND, READ_REQ and ATOMIC packets do at their target (05_dockets_receipts.md R45, R126;
08_segments_windows.md R195; 12_fabric_cells_routing.md R323, R324; 13_delivery_congestion.md R336, R337). -/
namespace Sys2Proof.Machine

/-! ### A new request reaches its meaning -/

section
variable {s : State} {p : Packet}

theorem exec_writePacket (here : arrives s p 1 = true) (fresh : requestFresh p (consume p s) = true) :
    exec (.writePacket p) s = .next (placePacket p (requestContext p (consume p s))) := by
  simp only [exec, execWritePacket, here, if_true, request_fresh fresh]

theorem exec_sendPacket (here : arrives s p 2 = true) (fresh : requestFresh p (consume p s) = true) :
    exec (.sendPacket p) s = .next (placePacket p (requestContext p (consume p s))) := by
  simp only [exec, execSendPacket, here, if_true, request_fresh fresh]

theorem exec_readReq (here : arrives s p 3 = true) (fresh : requestFresh p (consume p s) = true) :
    exec (.readReq p) s = .next (serveRead false p (requestContext p (consume p s))) := by
  simp only [exec, execReadReq, here, if_true, request_fresh fresh]

theorem exec_atomicPacket (here : arrives s p 4 = true) (fresh : requestFresh p (consume p s) = true) :
    exec (.atomicPacket p) s = .next (serveAtomic p (requestContext p (consume p s))) := by
  simp only [exec, execAtomicPacket, here, if_true, request_fresh fresh]

/-- A WRITE and a SEND packet place their data alike. -/
theorem exec_dataPacket (kind : p.ptype = 1 ∨ p.ptype = 2) (here : arrives s p p.ptype = true)
    (fresh : requestFresh p (consume p s) = true) :
    exec (if p.ptype = 1 then .writePacket p else .sendPacket p) s =
      .next (placePacket p (requestContext p (consume p s))) := by
  rcases kind with one | two
  · rw [one] at here
    rw [if_pos one, exec_writePacket here fresh]
  · have other : ¬ p.ptype = 1 := by omega
    rw [two] at here
    rw [if_neg other, exec_sendPacket here fresh]

end

/-! ### Data placed in a window -/

/-- Data bytes that the message of a packet has with it. -/
def countedWith (m : RxMsg) (p : Packet) : Nat := m.counted + payloadLen p.msgLen (segOf p) p.pidx

/-- The immediate of a message after a packet of it: its last packet brings the one of a message that notifies (R122). -/
def immWith (m : RxMsg) (p : Packet) : Word :=
  if p.last && m.notify then wordAt (p.body.drop (payloadLen p.msgLen (segOf p) p.pidx)) 0 else m.imm

section
variable {u u1 u2 : State} {p : Packet} {m : RxMsg} {g : Seg} {ws : List (Nat × List Byte)} {held : List WordPart}
  (bound : bindMessage p u = (some m, u1)) (hseg : m.seg = some g) (plain : m.key = none) (carries : p.void = false)
  (splits : packetWrites m.parts (m.win.base + m.offset) (m.win.base + m.offset + m.msgLen)
    (m.win.base + m.offset + p.pidx * segOf p) (p.body.take (payloadLen p.msgLen (segOf p) p.pidx)) = (ws, held))
  (written : writeParts m.inst g ws u1 = (none, u2))
include bound hseg plain carries splits written

/-- The last byte of a message releases it, with its notification where it asks for one (R122, R324). -/
theorem placePacket_whole (whole : countedWith m p = m.msgLen) :
    placePacket p u = reclaim (acknowledge p true (if m.notify then
        (if m.void then unreserve m (dropRxMsg (keyOf p) m.psn (flushParts m.inst g held u2))
         else notifyTarget p m.inst m.win m.msgLen (immWith m p) (dropRxMsg (keyOf p) m.psn (flushParts m.inst g held u2)))
      else dropRxMsg (keyOf p) m.psn (flushParts m.inst g held u2))) := by
  unfold countedWith at whole
  simp only [placePacket, bound, hseg, plain, openBody, carries, splits, written, whole, decide_true, if_true,
    Bool.or_false, Bool.false_eq_true, if_false, immWith]

/-- Before it the message counts what the packet brought, and keeps the parts that wait (R45). -/
theorem placePacket_part (part : countedWith m p ≠ m.msgLen) :
    placePacket p u = acknowledge p false (modRxMsg (keyOf p) m.psn (fun _ => { m with
      counted := countedWith m p, pidxs := m.pidxs ++ [p.pidx], parts := held, imm := immWith m p }) u2) := by
  unfold countedWith at part ⊢
  simp only [placePacket, bound, hseg, plain, openBody, carries, splits, written, part, decide_false,
    Bool.or_false, Bool.false_eq_true, if_false, immWith]

end

/-- A packet shares no aligned word of the range where it begins on one and ends on one or with the range (R45). -/
theorem edgeBytes_none {b x n : Nat} (front : x % 8 = 0) (back : (x + n) % 8 = 0 ∨ x + n = b) (a : Nat) :
    edgeBytes a b x n = (0, 0) := by
  have first : ¬ (x % 8 ≠ 0 ∧ (decide (a ≤ x / 8 * 8) && decide (x / 8 * 8 + 8 ≤ b)) = true) := fun c => c.1 front
  have last : ¬ ((x + n) % 8 ≠ 0 ∧
      (decide (a ≤ (x + n) / 8 * 8) && decide ((x + n) / 8 * 8 + 8 ≤ b)) = true ∧ x ≤ (x + n) / 8 * 8) := by
    rintro ⟨cut, inside, -⟩
    have within := of_decide_eq_true (Bool.and_eq_true_iff.mp inside).2
    omega
  simp only [edgeBytes, if_neg first, if_neg last]

/-- Such a packet is written whole, whatever other packets have left waiting. -/
theorem packetWrites_whole {b x : Nat} {bs : List Byte} (front : x % 8 = 0)
    (back : (x + bs.length) % 8 = 0 ∨ x + bs.length = b) (some_bytes : bs ≠ []) (held : List WordPart) (a : Nat) :
    packetWrites held a b x bs = ([(x, bs)], held) := by
  simp only [packetWrites, edgeBytes_none front back, if_true, List.drop_zero, Nat.sub_zero, List.take_length,
    if_neg some_bytes, Nat.add_zero, Option.toList_none, List.nil_append, List.append_nil]

/-! ### A head check that fails -/

section
variable {u : State} {p : Packet} {code : Nat} (fails : headCheck u p = .nak code) (final : code ≠ 7)
include fails final

/-- The first packet of a message that fails its checks has it refused (R336). -/
theorem placePacket_refused
    (first : (findRx u (keyOf p)).bind (fun c => c.msgs.find? fun m => m.psn == firstPsn p && m.job == p.job) = none) :
    placePacket p u = refuse p code 0 0 u := by
  have refused : bindMessage p u = (none, refuse p code 0 0 u) := by
    simp only [bindMessage, first, fails]
  simp only [placePacket, refused]

theorem serveRead_refused : serveRead false p u = refuse p code 0 0 u := by
  simp only [serveRead, fails, Bool.false_eq_true, if_false]

theorem serveAtomic_refused : serveAtomic p u = refuse p code 0 0 u := by
  simp only [serveAtomic, fails]

end

/-! ### READ_REQ and ATOMIC -/

/-- A READ whose bytes can be read is answered packet by packet and acknowledged (R323, R336). -/
theorem serveRead_answers {u u1 : State} {p : Packet} {i : Nat} {w : Win} {g : Seg} {key : Option BoundKey} {r : MemRead}
    (checks : headCheck u p = .ok i w g key) (some_bytes : 0 < p.msgLen)
    (read : readSeg i g (w.base + fld p.h3 0 48) p.msgLen u = (r, u1)) (rfail : r.fail = none) (revents : r.events = []) :
    serveRead false p u = acknowledge p true (each (List.range (packetCount 0x43 p.msgLen (packetBytes u key.isSome)))
      (fun j t => respond (keyOf p) i key p.psn p.msgLen (packetBytes u key.isSome) j r.bytes t) u1) := by
  have asked : ¬ p.msgLen = 0 := Nat.ne_of_gt some_bytes
  simp only [serveRead, checks, if_neg asked, read, revents, latchAll_nil, rfail, Bool.false_eq_true, if_false]

/-- The receive context with the old value of an ATOMIC in its response record (R337). -/
def withAtomicRecord (p : Packet) (expires : Nat) (old : Word) (c : RecvCtx) : RecvCtx :=
  { c with record := c.record ++ [{ psn := p.psn, count := 1, expires := expires, ptype := 0x44, body := wordBytes old }] }

/-- An ATOMIC that does not notify reads, writes, records and answers (R126, R337). -/
theorem serveAtomic_answers {u u1 u2 : State} {p : Packet} {i : Nat} {w : Win} {g : Seg} {key : Option BoundKey}
    {r : MemRead} {wr : MemWrite} {c : RecvCtx} (checks : headCheck u p = .ok i w g key)
    (context : findRx u (keyOf p) = some c) (room : c.record.length < 32) (silent : p.notify = false)
    (read : readSeg i g (w.base + fld p.h3 0 48) 8 u = (r, u1)) (rfail : r.fail = none) (revents : r.events = [])
    (write : writeSeg i g (w.base + fld p.h3 0 48) (wordBytes (atomicValue (leNat ((p.body.drop 16).take 1))
      (wordAt r.bytes 0) (wordAt p.body 0) (wordAt p.body 1))) u1 = (wr, u2)) (wfail : wr.fail = none)
    (wevents : wr.events = []) {t : State}
    (ht : t = modRx (keyOf p) (withAtomicRecord p (u.clk.mono + life u) (wordAt r.bytes 0)) u2) :
    serveAtomic p u = acknowledge p true
      (inject (replyPacket t (keyOf p) 0x44 p.psn 8 0 true (wordBytes (wordAt r.bytes 0))) t) := by
  have notFull : ¬ 32 ≤ c.record.length := Nat.not_le.mpr room
  subst ht
  simp only [serveAtomic, checks, context, decide_eq_false notFull, Bool.false_eq_true, if_false, read, revents,
    latchAll_nil, rfail, write, wevents, wfail, silent]
  rfl

/-! ### The obligation -/

/-- Settles O26: a new request reaches the meaning of its type, and each meaning is the one its clause names. -/
theorem requestsAreServed : Obligations.RequestsAreServed := by
  unfold Obligations.RequestsAreServed
  refine ⟨?data, ?unshared, ?refused, ?read, ?atomic, ?values⟩
  case data =>
    intro s u u1 u2 p m g ws held kind here fresh hu bound hseg plain carries splits written
    subst hu
    refine ⟨_, exec_dataPacket kind here fresh, fun whole quiet => ?_, fun whole notify kept => ?_,
      fun whole notify void => ?_, fun part => ?_⟩
    · rw [placePacket_whole bound hseg plain carries splits written whole, quiet]
      rfl
    · rw [placePacket_whole bound hseg plain carries splits written whole, immWith, notify, kept, Bool.and_true]
      rfl
    · rw [placePacket_whole bound hseg plain carries splits written whole, notify, void]
      rfl
    · exact placePacket_part bound hseg plain carries splits written part
  case unshared =>
    intro held a b x bs front back some_bytes
    exact packetWrites_whole front back some_bytes held a
  case refused =>
    intro s u p code kind here fresh hu first fails final
    subst hu
    rcases kind with kind | kind | kind | kind <;> rw [kind] at here ⊢
    · exact (exec_writePacket here fresh).trans (congrArg _ (placePacket_refused fails final first))
    · exact (exec_sendPacket here fresh).trans (congrArg _ (placePacket_refused fails final first))
    · exact (exec_readReq here fresh).trans (congrArg _ (serveRead_refused fails final))
    · exact (exec_atomicPacket here fresh).trans (congrArg _ (serveAtomic_refused fails final))
  case read =>
    intro s u u1 p i w g key r here fresh hu checks some_bytes read rfail revents
    subst hu
    rw [exec_readReq here fresh, serveRead_answers checks some_bytes read rfail revents]
  case atomic =>
    intro s u u1 u2 t p i w g key r wr c here fresh hu checks context room silent read rfail revents write wfail wevents ht
    subst hu
    rw [exec_atomicPacket here fresh,
      serveAtomic_answers checks context room silent read rfail revents write wfail wevents ht]
  case values =>
    intro old a b
    simp only [atomicValue, BitVec.ult_eq_decide, decide_eq_true_eq, and_self]

end Sys2Proof.Machine
end

section
/-! PROOFS. The servo of the time base (03_tick.md R54 to R61): how a sync interval ends, how HOLDOVER begins and ends, and the
pulse of PPS_OUT. -/
namespace Sys2Proof.Machine

/-! ### What a sync interval measures -/

theorem within_bounds {b : Int} (hb : 0 ≤ b) (d : Int) : -b ≤ within b d ∧ within b d ≤ b := by
  simp only [within]
  omega

/-- The servo uses a source only with power, and not in FREE_RUN (R56). -/
theorem servoOn_parts {s : State} {src : Nat} (on : servoOn s src = true) : powered s = true ∧ s.time.servo ≠ .free := by
  simp only [servoOn, Bool.and_eq_true, decide_eq_true_eq] at on
  obtain ⟨⟨power, -⟩, used⟩ := on
  exact ⟨power, used⟩

/-- Only an ARMED generator waits for a first edge. -/
theorem letRun_of_not_armed {s : State} (h : s.time.gen ≠ .armed) : letRun s = s :=
  if_neg fun ⟨armed, _⟩ => h armed

/-- The free aim of the correction at a sync interval (log entry 41). -/
def servoAim (s : State) : Int := within 8 (Config.servoStep s.freeCount)

/-- The rate after a sync interval, measured in a state with the clock and the last interval of s: unchanged at a first
interval, then what meets the master within the aim. -/
theorem servoRate_aims (off : Int) {s s1 : State} (clk : s1.clk = s.clk) (sync : s1.time.lastSync = s.time.lastSync)
    (rest : s1.time.residual = s.time.residual) :
    (s.time.lastSync = none → servoRate off s1 = s.clk.rate) ∧
      (∀ u, s.time.lastSync = some u → u < s.clk.mono → servoRate off s1 = within 10000 (s.clk.rate +
        (servoAim s1 - 2 * off + s.time.residual) * 1000000000 / ((s.clk.mono - u : Nat) : Int))) ∧
      -8 ≤ servoAim s1 ∧ servoAim s1 ≤ 8 := by
  refine ⟨fun first => ?_, fun u last before => ?_, within_bounds (by decide) _⟩
  · simp only [servoRate, clk, sync, first, if_true]
  · have span : ((s.clk.mono - u : Nat) : Int) ≠ 0 := by omega
    simp only [servoRate, clk, sync, rest, last, if_neg span, servoAim]

/-- Consecutive intervals within 20 ns, once one more ends with an offset (R56). -/
def nextInRange (off : Int) (t : TimeSt) : Nat :=
  if -20 ≤ off ∧ off ≤ 20 then (if t.servo = .holdover then 1 else t.inRange + 1) else 0

/-- The servo after a sync interval: HOLDOVER gives way to ACQUIRING, ACQUIRING to LOCKED at 16 (R56). -/
def nextServo (off : Int) (t : TimeSt) : Servo :=
  if t.servo ≠ .locked ∧ 16 ≤ nextInRange off t then .locked
  else if t.servo = .holdover then .acquiring else t.servo

theorem nextServo_locked_iff (off : Int) (t : TimeSt) :
    nextServo off t = .locked ↔ t.servo = .locked ∨ 16 ≤ nextInRange off t := by
  unfold nextServo
  by_cases locked : t.servo = .locked
  · simp [locked]
  · by_cases enough : 16 ≤ nextInRange off t
    · simp [locked, enough]
    · by_cases held : t.servo = .holdover <;> simp [locked, enough, held]

/-- The rule of measure for a servo that is in use, where FREE_RUN is shut out. -/
theorem nextServo_resumed {off : Int} {t : TimeSt} (used : t.servo ≠ .free) :
    (if (if t.servo = .holdover then Servo.acquiring else t.servo) = .acquiring ∧ 16 ≤ nextInRange off t then Servo.locked
      else if t.servo = .holdover then .acquiring else t.servo) = nextServo off t := by
  unfold nextServo
  cases servo : t.servo with
  | free => exact absurd servo used
  | acquiring | locked | holdover => simp

/-- A running generator has its counter slewed (R57). -/
theorem measure_slews {off : Int} {s : State} (used : s.time.servo ≠ .free) (gen : s.time.gen = .running) :
    measure off s = { s with
      freeCount := s.freeCount + 1
      clk := { s.clk with rate := servoRate off s }
      time := { s.time with
        offset := off
        residual := off
        lastSync := some s.clk.mono
        holdSince := none
        holdLatched := false
        inRange := nextInRange off s.time
        servo := nextServo off s.time } } := by
  have slews : ¬ ((if s.time.servo = .holdover then Servo.acquiring else s.time.servo) = .acquiring ∧
      (1000 < off ∨ off < -1000) ∧ s.time.gen ≠ .running) := fun ⟨_, _, still⟩ => still gen
  have notArmed : s.time.gen ≠ .armed := by simp [gen]
  simp only [measure, if_neg slews]
  rw [← nextServo_resumed used]
  exact letRun_of_not_armed (s := modTime _ _) notArmed

/-- A stopped generator has its counter stepped by a large offset while the servo acquires (R57). -/
theorem measure_steps {off : Int} {s : State} (servo : s.time.servo = .acquiring) (gen : s.time.gen = .stopped)
    (large : 1000 < off) :
    measure off s = { s with
      freeCount := s.freeCount + 1
      clk := { s.clk with ptp := (s.clk.ptp - off).toNat }
      time := { s.time with
        offset := off
        residual := 0
        lastSync := some s.clk.mono
        holdSince := none
        holdLatched := false
        inRange := 0 } } := by
  have steps : (if s.time.servo = .holdover then Servo.acquiring else s.time.servo) = .acquiring ∧
      (1000 < off ∨ off < -1000) ∧ s.time.gen ≠ .running := by simp [servo, gen, large]
  have outside : ¬ (-20 ≤ off ∧ off ≤ 20) := by omega
  simp only [measure, if_pos steps, if_neg outside]
  rw [letRun_of_not_armed (by simp [moveCounter, gen])]
  simp [moveCounter, modTime, servo, Int.sub_eq_add_neg]

/-! ### PPS_IN -/

/-- The counter's distance from the nearest whole second (log entry 40). -/
def ppsDistance (s : State) : Int :=
  if (s.clk.ptp : Int) % 1000000000 < 500000000 then (s.clk.ptp : Int) % 1000000000
  else (s.clk.ptp : Int) % 1000000000 - 1000000000

theorem ppsDistance_spec (s : State) :
    (ppsDistance s = s.clk.ptp % 1000000000 ∨ ppsDistance s = s.clk.ptp % 1000000000 - 1000000000) ∧
      -500000000 ≤ ppsDistance s ∧ ppsDistance s < 500000000 := by
  unfold ppsDistance
  split <;> omega

/-- An edge is accepted while the servo is on and the last one is 500 ms old. -/
theorem ppsIn_accepted {s : State} (on : servoOn s 2 = true)
    (due : s.time.lastSync = none ∨ ∃ t, s.time.lastSync = some t ∧ t + 500000000 ≤ s.clk.mono) :
    ppsIn s = measure (ppsDistance s + within 2 (Config.stampError s.freeCount))
      { s with freeCount := s.freeCount + 1 } := by
  rcases due with first | ⟨t, last, old⟩
  · simp only [ppsIn, first, on, Bool.not_true, Bool.or_self, Bool.false_eq_true, if_false]
    rfl
  · have late : ¬ s.clk.mono < t + 500000000 := Nat.not_lt.mpr old
    simp only [ppsIn, last, on, decide_eq_false late, Bool.not_true, Bool.or_self, Bool.false_eq_true, if_false]
    rfl

/-- It is measured from the nearest second, within the timestamp error of R510. -/
theorem exec_ppsInEdge {s : State} (on : servoOn s 2 = true)
    (due : s.time.lastSync = none ∨ ∃ t, s.time.lastSync = some t ∧ t + 500000000 ≤ s.clk.mono) :
    ∃ off r : Int, exec .ppsInEdge s = .next (measure off { s with freeCount := s.freeCount + 1 }) ∧
      (r = s.clk.ptp % 1000000000 ∨ r = s.clk.ptp % 1000000000 - 1000000000) ∧ -500000000 ≤ r ∧ r < 500000000 ∧
      -2 ≤ off - r ∧ off - r ≤ 2 := by
  obtain ⟨second, low, high⟩ := ppsDistance_spec s
  have error := within_bounds (b := 2) (by decide) (Config.stampError s.freeCount)
  exact ⟨_, ppsDistance s, congrArg _ (ppsIn_accepted on due), second, low, high, by omega, by omega⟩

/-! ### Timestamps and Sync -/

theorem stampBound_nonneg (s : State) (p : Nat) : 0 ≤ stampBound s p := by
  unfold stampBound
  split
  · decide
  · split
    · split <;> decide
    · decide

/-- A timestamp lies within the port's bound of the counter and draws one free value (R368). -/
theorem stamp_spec (p : Nat) (s : State) : ∃ t : Nat, (s.clk.ptp : Int) - stampBound s p ≤ t ∧
    (t : Int) ≤ s.clk.ptp + stampBound s p ∧ stamp p s = (t, { s with freeCount := s.freeCount + 1 }) := by
  have bounds := within_bounds (stampBound_nonneg s p) (Config.stampError s.freeCount)
  exact ⟨_, by omega, by omega, rfl⟩

/-- A Sync on the slave port is measured against its receive time (R54). -/
theorem exec_sync {s s1 : State} {p origin t2 : Nat} {corr : Int} (power : powered s = true) (slave : slavePort s p = true)
    (on : servoOn s 1 = true) (taken : stamp p s = (t2, s1)) :
    exec (.ptpMessageRx p (.sync origin corr)) s = .next (measure ((t2 : Int) - (origin + corr) - s1.time.pathDelay)
      (modTime (fun t => { t with syncRx := some (t2, (origin + corr).toNat) }) s1)) := by
  show Host.Outcome.next (ptpArrives p (.sync origin corr) s) = _
  simp only [ptpArrives, power, slave, on, taken, Bool.not_true, Bool.false_eq_true, if_false, Bool.and_self, if_true]

/-- Settles O5: an accepted edge and a Sync are measured, and a measured offset slews the counter or steps it. -/
theorem servoMeasuresAndSlews : Obligations.ServoMeasuresAndSlews := by
  unfold Obligations.ServoMeasuresAndSlews
  refine ⟨?slews, ?steps, ?sync⟩
  case slews =>
    intro s on gen due
    obtain ⟨-, used⟩ := servoOn_parts on
    obtain ⟨off, r, edge, second, low, high, above, below⟩ := exec_ppsInEdge on due
    rw [edge, measure_slews (s := { s with freeCount := s.freeCount + 1 }) used gen]
    exact ⟨_, off, servoAim { s with freeCount := s.freeCount + 1 }, r, rfl, second, low, high, above, below,
      servoRate_aims _ rfl rfl rfl, rfl, rfl, rfl⟩
  case steps =>
    intro s on servo gen first lower upper
    obtain ⟨off, r, edge, second, low, high, above, below⟩ := exec_ppsInEdge on (.inl first)
    have near : r = (s.clk.ptp : Int) % 1000000000 := by omega
    rw [edge, measure_steps (s := { s with freeCount := s.freeCount + 1 }) servo gen (by omega)]
    exact ⟨_, off, rfl, rfl, by omega, by omega, rfl, servo, rfl, rfl⟩
  case sync =>
    intro s p origin corr on slave gen
    obtain ⟨power, used⟩ := servoOn_parts on
    obtain ⟨rx, low, high, taken⟩ := stamp_spec p s
    rw [exec_sync power slave on taken, measure_slews]
    case used => exact used
    case gen => exact gen
    exact ⟨_, rx, (rx : Int) - (origin + corr) - s.time.pathDelay, servoAim { s with freeCount := s.freeCount + 1 }, rfl, low,
      high, rfl, servoRate_aims _ rfl rfl rfl, rfl, nextServo_locked_iff _ _, rfl⟩

/-! ### HOLDOVER -/

theorem waitMono_reaches (t : Nat) (s : State) : t ≤ (waitMono t s).clk.mono := by
  simp only [waitMono, pass]
  omega

/-- SERVO_HOLDOVER waits 3 s after the last edge where SOURCE is PPS_IN (R56). -/
def holdoverWait (s : State) : State :=
  if fld s.quoin.now.timeCtrl 0 2 = 2 ∧ s.time.lastSync.isSome = true then
    waitMono (s.time.lastSync.getD 0 + 3000000000) s
  else s

theorem waitMono_time (t : Nat) (s : State) : (waitMono t s).time = s.time := rfl

theorem waitMono_rate (t : Nat) (s : State) : (waitMono t s).clk.rate = s.clk.rate := rfl

/-- The wait moves the clocks alone, at the rate of the counter. -/
theorem holdoverWait_keeps (s : State) : (holdoverWait s).time = s.time ∧ (holdoverWait s).clk.rate = s.clk.rate := by
  unfold holdoverWait
  split
  · exact ⟨waitMono_time _ s, waitMono_rate _ s⟩
  · exact ⟨rfl, rfl⟩

theorem holdoverWait_reaches {s : State} {u : Nat} (last : s.time.lastSync = some u)
    (source : fld s.quoin.now.timeCtrl 0 2 = 2) : u + 3000000000 ≤ (holdoverWait s).clk.mono := by
  rw [holdoverWait, if_pos ⟨source, Option.isSome_of_eq_some last⟩, last, Option.getD_some]
  exact waitMono_reaches _ s

/-- HOLDOVER entered with its note (R56). -/
def holdoverNoted (s : State) : State :=
  latch (event 9 1 0 0 (intCode 64 s.time.offset)) { holdoverWait s with
    time := { s.time with servo := .holdover, inRange := 0, holdSince := some (holdoverWait s).clk.mono, holdLatched := false } }

/-- A LOCKED servo enters HOLDOVER; a limit of 0 is reached at once. -/
theorem exec_servoHoldover {s : State} (power : powered s = true) (locked : s.time.servo = .locked) :
    exec .servoHoldover s = .next
      (if holdoverLimit s = 0 then latchHoldover (holdoverNoted s) else holdoverNoted s) := by
  show Host.Outcome.next (servoHoldover s) = _
  have keeps := (holdoverWait_keeps s).1
  cases last : s.time.lastSync with
  | none =>
    have wait : holdoverWait s = s := by simp [holdoverWait, last]
    simp only [servoHoldover, power, locked, last, and_self, if_true, holdoverNoted, wait, modTime]
  | some t =>
    have wait : holdoverWait s = if timeSource s = 2 then waitMono (t + 3000000000) s else s := by
      unfold holdoverWait timeSource
      by_cases source : fld s.quoin.now.timeCtrl 0 2 = 2 <;> simp [source, last]
    simp only [servoHoldover, power, locked, last, and_self, if_true, holdoverNoted, ← wait, modTime, keeps]

/-- The limit latched after a wait. -/
theorem latchHoldover_waitMono (t : Nat) (s : State) :
    latchHoldover (waitMono t s) = latch (event 9 2 3 0 (holdoverLimit s))
      { waitMono t s with time := { s.time with holdLatched := true } } := rfl

theorem exec_holdoverLimitExpiry {s : State} {t : Nat} (since : s.time.holdSince = some t)
    (held : s.time.servo = .holdover) (unlatched : s.time.holdLatched = false) :
    exec .holdoverLimitExpiry s = .next (latchHoldover (waitMono (t + holdoverLimit s * 1000000000) s)) := by
  show Host.Outcome.next (holdoverExpiry s) = _
  simp only [holdoverExpiry, since, held, unlatched, and_self, if_true]

/-! ### PPS_OUT -/

theorem nextSecond_spec (s : State) :
    nextSecond s = s.clk.ptp / 1000000000 ∧ s.clk.ptp % 1000000000 = 0 ∧ s.time.ppsSecond ≠ nextSecond s ∨
      nextSecond s = s.clk.ptp / 1000000000 + 1 := by
  unfold nextSecond
  split
  · next whole => exact .inl ⟨rfl, whole⟩
  · exact .inr rfl

/-- A pulse after a wait. -/
theorem pulse_waitPtp (k t : Nat) (s : State) :
    emit (.ppsOut k) (modTime (fun x => { x with ppsSecond := k }) (waitPtp t s)) =
      { waitPtp t s with time := { s.time with ppsSecond := k }, out := s.out ++ [.ppsOut k] } := rfl

theorem exec_ppsOutPulse {s : State} (power : powered s = true) (enabled : bit s.time.tickCtrl 2 = true) :
    exec .ppsOutPulse s = .next { waitPtp (nextSecond s * 1000000000) s with
      time := { s.time with ppsSecond := nextSecond s }, out := s.out ++ [.ppsOut (nextSecond s)] } := by
  show Host.Outcome.next (ppsOut s) = _
  simp only [ppsOut, ppsOutEn, power, enabled, Bool.and_self, if_true]
  rw [pulse_waitPtp]

/-- Settles O7: the entry with its wait and its note, the limit latched, and the pulse at the next whole second. -/
theorem holdoverEntered : Obligations.HoldoverEntered := by
  unfold Obligations.HoldoverEntered
  refine ⟨?enters, ?atOnce, ?limit, ?pulse⟩
  case enters =>
    intro s w power locked hw limit
    obtain rfl : w = holdoverWait s := hw
    exact ⟨_, (exec_servoHoldover power locked).trans (congrArg _ (if_neg limit)), rfl, (holdoverWait_keeps s).2,
      fun u last source => holdoverWait_reaches last source⟩
  case atOnce =>
    intro s w power locked hw limit
    obtain rfl : w = holdoverWait s := hw
    exact ⟨_, _, (exec_servoHoldover power locked).trans (congrArg _ (if_pos limit)), rfl, rfl, (holdoverWait_keeps s).2⟩
  case limit =>
    intro s t since held unlatched
    rw [exec_holdoverLimitExpiry since held unlatched, latchHoldover_waitMono]
  case pulse =>
    intro s power enabled
    exact ⟨nextSecond s, nextSecond_spec s, exec_ppsOutPulse power enabled⟩

end Sys2Proof.Machine
end

section
/-! PROOFS. The messages of the boundary clock (03_tick.md R54; 14_ethernet_management.md R368; 12_fabric_cells_routing.md
R309). -/
namespace Sys2Proof.Machine

/-! ### How a message leaves -/

theorem ptpOut_frame {s : State} {p : Nat} (frames : cellPort s p = false) (m : PtpMsg) :
    ptpOut p m s = emit (.ptp p m) s := by
  simp only [ptpOut, frames, Bool.false_eq_true, if_false]

/-- A port that is neither linked nor in service sends none of its link-local packets. -/
theorem sendWaitingLocal_of_down {s : State} {p : Nat} (unlinked : (getPort s p).linked = false)
    (out : inService (getPort s p) = false) : sendWaitingLocal p s = s := by
  unfold sendWaitingLocal
  cases waiting : (getPort s p).linkLocal with
  | nil => rfl
  | cons k rest =>
    simp only [List.length_cons, drainLocal, waiting, unlinked, out, Bool.or_self, Bool.false_and, Bool.false_eq_true, if_false]

/-- There a message takes its place as a packet and waits. -/
theorem sendLocal_of_down {s : State} {p : Nat} (unlinked : (getPort s p).linked = false)
    (out : inService (getPort s p) = false) (there : p < s.fabric.ports.length) (ptype : Nat) (body : List Byte) :
    sendLocal p ptype body s = modPort p (fun y => { y with linkLocal := y.linkLocal ++ [localPacket s ptype body] })
      { s with freeCount := s.freeCount + 1 } := by
  have port := getPort_modPort p (fun y => { y with linkLocal := y.linkLocal ++ [localPacket s ptype body] })
    { s with freeCount := s.freeCount + 1 } there
  exact sendWaitingLocal_of_down ((congrArg Port.linked port).trans unlinked) ((congrArg inService port).trans out)

/-! ### Messages received and sent -/

theorem exec_delayReq {s s1 : State} {p req t : Nat} (power : powered s = true) (master : ptpRoleOf s p = 2)
    (taken : stamp p s = (t, s1)) : exec (.ptpMessageRx p (.delayReq req)) s = .next (ptpOut p (.delayResp t) s1) := by
  show Host.Outcome.next (ptpArrives p (.delayReq req) s) = _
  simp only [ptpArrives, power, master, taken, Bool.not_true, Bool.false_eq_true, if_false, if_true]

theorem exec_pdelayReq {s s1 : State} {p req t : Nat} (power : powered s = true) (role : ptpRoleOf s p ≠ 0)
    (taken : stamp p s = (t, s1)) : exec (.ptpMessageRx p (.pdelayReq req)) s = .next (ptpOut p (.pdelayResp t) s1) := by
  show Host.Outcome.next (ptpArrives p (.pdelayReq req) s) = _
  simp only [ptpArrives, power, taken, Bool.not_true, Bool.false_eq_true, if_false, if_pos role]

theorem exec_delayResp {s : State} {p t1 t2 t3 : Nat} (power : powered s = true) (slave : slavePort s p = true)
    (sync : s.time.syncRx = some (t2, t1)) (sent : s.time.delayTx = some t3) (t4 : Nat) :
    exec (.ptpMessageRx p (.delayResp t4)) s = .next (modTime (fun t => { t with
      delayTx := none, pathDelay := ((((t2 : Int) - t1) + ((t4 : Int) - t3)) / 2).toNat }) s) := by
  show Host.Outcome.next (ptpArrives p (.delayResp t4) s) = _
  simp only [ptpArrives, power, slave, sync, sent, Bool.not_true, Bool.false_eq_true, if_false, if_true]

theorem exec_send_master {s s1 : State} {p t : Nat} (power : powered s = true) (master : ptpRoleOf s p = 2)
    (taken : stamp p s = (t, s1)) : exec (.ptpMessageSend p) s = .next (ptpOut p (.sync t 0) s1) := by
  show Host.Outcome.next (ptpSend p s) = _
  simp only [ptpSend, power, master, taken, Bool.not_true, Bool.false_eq_true, if_false, if_true]

/-- A slave port has the role 1 of the plate, so it is no master port. -/
theorem not_master_of_slavePort {s : State} {p : Nat} (slave : slavePort s p = true) : ptpRoleOf s p ≠ 2 := by
  simp only [slavePort, Bool.and_eq_true, beq_iff_eq] at slave
  omega

theorem exec_send_slave {s s1 : State} {p t : Nat} (power : powered s = true) (slave : slavePort s p = true)
    (on : servoOn s 1 = true) (taken : stamp p s = (t, s1)) :
    exec (.ptpMessageSend p) s = .next
      (ptpOut p (.delayReq s.plates.device) { s1 with time := { s1.time with delayTx := some t } }) := by
  show Host.Outcome.next (ptpSend p s) = _
  simp only [ptpSend, power, if_neg (not_master_of_slavePort slave), slave, on, taken, Bool.not_true, Bool.false_eq_true,
    if_false, Bool.and_self, if_true, modTime]

theorem ptpArrives_general (p : Nat) (s : State) : ptpArrives p .general s = s := by
  unfold ptpArrives
  split <;> rfl

theorem ptpArrives_pdelayResp (p rx : Nat) (s : State) : ptpArrives p (.pdelayResp rx) s = s := by
  unfold ptpArrives
  split <;> rfl

/-- Settles O6: each message by its rule with one timestamp, and the two ways in which a message leaves. -/
theorem ptpMessagesAnswered : Obligations.PtpMessagesAnswered := by
  unfold Obligations.PtpMessagesAnswered
  refine ⟨?master, ?peer, ?slave, ?response, ?frame, ?packet, ?general⟩
  case master =>
    intro s p req power master
    obtain ⟨t, low, high, taken⟩ := stamp_spec p s
    exact ⟨t, low, high, exec_delayReq power master taken, exec_send_master power master taken⟩
  case peer =>
    intro s p req power role
    obtain ⟨t, low, high, taken⟩ := stamp_spec p s
    exact ⟨t, low, high, exec_pdelayReq power role taken⟩
  case slave =>
    intro s p power slave on
    obtain ⟨t, low, high, taken⟩ := stamp_spec p s
    have sent := exec_send_slave power slave on taken
    exact ⟨t, low, high, sent⟩
  case response =>
    intro s p t1 t2 t3 t4 power slave sync sent
    exact exec_delayResp power slave sync sent t4
  case frame =>
    intro s p m frames
    exact ptpOut_frame frames m
  case packet =>
    intro s p m cells _ unlinked out there
    rw [ptpOut, if_pos cells, sendLocal_of_down unlinked out there]
    rfl
  case general =>
    intro s p rx
    exact ⟨congrArg _ (ptpArrives_general p s), congrArg _ (ptpArrives_pdelayResp p rx s)⟩

end Sys2Proof.Machine
end

section
/-! PROOFS. The quoin's commands (03_tick.md R80 to R82), a period that R53 refuses, and the step itself. -/
namespace Sys2Proof.Machine

/-! ### Seal and withdraw -/

/-- An armed generator's first edge is missed as a running one's next edge is, and a stopped one has none (R81). -/
theorem tooLate_eq (s : State) :
    tooLate s = if s.time.gen = .running then (if nextEdge s < s.clk.ptp + 2000 then some (s.time.tick + 1) else none)
      else if s.time.gen = .armed then
        s.time.first.bind (fun e => if e.2 < s.clk.ptp + 2000 then some e.1 else none)
      else none := by
  cases gen : s.time.gen with
  | running => exact tooLate_running gen
  | stopped => simp [tooLate, gen]
  | armed => cases first : s.time.first <;> simp [tooLate, gen, first]

theorem exec_quoinCommitTick {s : State} (answers : barAnswers s = true) (v : Bool) (a : BitVec 32) :
    exec (.quoinCommitTick v a) s = .next (commitTick (if v then some a.toNat else none) s) :=
  congrArg _ (if_pos answers)

theorem exec_quoinCommitNow {s : State} (answers : barAnswers s = true) :
    exec .quoinCommitNow s = .next (commitNow s) :=
  congrArg _ (if_pos answers)

theorem exec_quoinCancel {s : State} (answers : barAnswers s = true) : exec .quoinCancel s = .next (cancelCommit s) :=
  congrArg _ (if_pos answers)

theorem commitTick_seals {s : State} (free : s.quoin.commit = none) (at_ : Option Nat) :
    commitTick at_ s = modQuoin (fun q => { q with commit := some {
      tick := q.tickShadow, now := q.nowShadow, atTick := at_, notAt := tooLate s, since := [] } }) s := by
  simp only [commitTick, free, Option.isSome_none, Bool.false_eq_true, if_false]

theorem commitTick_busy {s : State} {c : SealedCommit} (pending : s.quoin.commit = some c) (at_ : Option Nat) :
    commitTick at_ s = quoinResult qnBusy 0 s := by
  simp only [commitTick, pending, Option.isSome_some, if_true]

theorem cancelCommit_of_none {s : State} (absent : s.quoin.commit = none) : cancelCommit s = s := by
  simp only [cancelCommit, absent]

/-- Without a pending commit CANCEL has no effect, whether BAR0 answers or not. -/
theorem exec_quoinCancel_of_none {s : State} (absent : s.quoin.commit = none) : exec .quoinCancel s = .next s := by
  show Host.Outcome.next (if barAnswers s then cancelCommit s else s) = _
  rw [cancelCommit_of_none absent, ite_self]

/-- Settles O8: what a seal takes, when it is refused, and what its withdrawal gives back. -/
theorem quoinSealsAndWithdraws : Obligations.QuoinSealsAndWithdraws := by
  unfold Obligations.QuoinSealsAndWithdraws
  refine ⟨?seals, ?busy, ?now, ?withdraws, ?nothing⟩
  case seals =>
    intro s v a answers free
    rw [exec_quoinCommitTick answers, commitTick_seals free, tooLate_eq]
    rfl
  case busy =>
    intro s v a c answers pending
    rw [exec_quoinCommitTick answers, commitTick_busy pending]
    rfl
  case now =>
    intro s answers
    rw [exec_quoinCommitNow answers]
    rfl
  case withdraws =>
    intro s c answers pending
    rw [exec_quoinCancel answers]
    simp only [cancelCommit, pending]
    rfl
  case nothing =>
    intro s absent
    exact exec_quoinCancel_of_none absent

/-! ### A period out of range -/

/-- Staged plates bring no period. -/
theorem stagedTick_period (st : Option Staged) (t : TickRegs) : (stagedTick st t).period = t.period := by
  unfold stagedTick
  split
  · rfl
  · dsimp only
    split <;> split <;> rfl

/-- Such a period is the finding RANGE, named with the lower offset where a commit-now field is out of range too. -/
theorem tickFinding_period {t : TickRegs} (bad : fld t.period 0 20 < 250 ∨ 1000000 < fld t.period 0 20) (s : State)
    (at_ : Bool) (n : NowRegs) : ∃ f, tickFinding s at_ t n = some (qnRange, f) := by
  have range : tickRange t = some offPeriod := if_pos bad
  cases now : nowRange n with
  | none => exact ⟨offPeriod, by simp only [tickFinding, now, range]⟩
  | some g => exact ⟨min g offPeriod, by simp only [tickFinding, now, range]⟩

/-- A commit with a finding is refused. -/
theorem judgeCommit_refuses {s : State} {c : SealedCommit} {r f : Nat} (found : tickFinding s c.atTick.isSome
    (stagedTick s.boot.staged c.tick) (stagedNow s.boot.staged c.now) = some (r, f)) :
    judgeCommit c s = refuseQuoin r f
      (modQuoin (fun q => { q with commit := none, appliedTick := s.time.tick % 2 ^ 32 }) s) := by
  simp only [judgeCommit, found]

/-- Settles O10: the period is a finding whatever plates are staged, and a refusal applies nothing. -/
theorem periodOutOfRangeRefused : Obligations.PeriodOutOfRangeRefused := by
  unfold Obligations.PeriodOutOfRangeRefused
  intro s c bad
  rw [← stagedTick_period s.boot.staged c.tick] at bad
  obtain ⟨f, found⟩ := tickFinding_period bad s c.atTick.isSome (stagedNow s.boot.staged c.now)
  rw [judgeCommit_refuses found]
  exact ⟨rfl, rfl, rfl, rfl⟩

/-! ### The step -/

theorem pass_one (s : State) :
    pass 1 s = { s with clk := { s.clk with
      mono := s.clk.mono + 1
      ptp := ((s.clk.ptp : Int) + 1 + (s.clk.frac + s.clk.rate) / 1000000000).toNat
      frac := (s.clk.frac + s.clk.rate) % 1000000000 } } := by
  simp only [pass, Int.natCast_one, Int.one_mul]

/-- Settles O1: the front command on the rest of the queue, and 1 ns of time on an empty one. -/
theorem stepRunsFrontCommand : Obligations.StepRunsFrontCommand := by
  unfold Obligations.StepRunsFrontCommand
  refine ⟨fun c s rest front => ?_, fun s empty => ?_⟩
  · simp only [step, front]
  · simp only [step, empty, idle, pass_one]

end Sys2Proof.Machine
end

section
/-! PROOFS. The commands of the queue command registers (04_queues_rings.md R86 to R90, R109; 16_hatches.md R403), and the
fetch error that RESUME ends (R93). -/
namespace Sys2Proof.Machine

/-! ### A page that answers -/

/-- A page that answers carries out the command of a queue index in range (R86). -/
theorem qcCommand_open {s : State} {i qi : Nat} (answers : pageOpen s i = true) (inRange : qi < 1048576)
    (f : State → State) : qcCommand i qi f s = .next (f s) := by
  simp only [qcCommand, answers, inRange, decide_true, Bool.and_self, if_true]

section
variable {s : State} {i qi : Nat} (answers : pageOpen s i = true) (inRange : qi < 1048576)
include answers inRange

theorem exec_qcCreate : exec (.qcCreate i qi) s = .next (createQueue i qi s) := qcCommand_open answers inRange _
theorem exec_qcDrain : exec (.qcDrain i qi) s = .next (drainQueue i qi s) := qcCommand_open answers inRange _
theorem exec_qcResume : exec (.qcResume i qi) s = .next (placeAll (resumeQueue i qi s)) :=
  qcCommand_open answers inRange fun t => placeAll (resumeQueue i qi t)
theorem exec_qcDestroy : exec (.qcDestroy i qi) s = .next (destroyQueue i qi s) := qcCommand_open answers inRange _
theorem exec_qcArm : exec (.qcArm i qi) s = .next (placeAll (armQueue i qi s)) :=
  qcCommand_open answers inRange fun t => placeAll (armQueue i qi t)
theorem exec_qcQuery : exec (.qcQuery i qi) s = .next (queryQueue i qi s) := qcCommand_open answers inRange _

end

/-! ### CREATE -/

section
variable {s s1 : State} {i qi : Nat} {g : Seg} {r : MemRead} (present : (getInst s i).st ≠ .resetting)
  (seg : findSeg (getInst s i).segs ((getInst s i).regs.qcDesc.toNat / 64 * 64) 64 true false = some g)
  (near : g.kind < 4) (read : readSeg i g ((getInst s i).regs.qcDesc.toNat / 64 * 64) 64 s = (r, s1))
  (whole : r.fail = none) (quiet : r.events = [])
include present seg near read whole quiet

theorem createQueue_finding {f : Nat} (found : createFinding s1 i qi (wordsOf r.bytes 8) = some f) :
    createQueue i qi s = qcAnswer i qi f s1 := by
  simp only [createQueue, if_neg present, seg, if_neg (Nat.not_le.mpr near), read, whole, quiet, latchAll_nil,
    Option.isSome_none, Bool.false_eq_true, if_false, found]

theorem createQueue_accepts (clean : createFinding s1 i qi (wordsOf r.bytes 8) = none) :
    createQueue i qi s = qcAnswer i qi qcOk (modInst i (fun y => { y with
      queues := tset y.queues qi (newQueue (descOf (wordsOf r.bytes 8)) (fnOf s i).hatch (wd (wordsOf r.bytes 8) 3)) })
      s1) := by
  simp only [createQueue, if_neg present, seg, if_neg (Nat.not_le.mpr near), read, whole, quiet, latchAll_nil,
    Option.isSome_none, Bool.false_eq_true, if_false, clean]

end

/-! ### DRAIN and DESTROY -/

theorem drainQueue_absent {s : State} {i qi : Nat} (absent : getQueue s i qi = none) :
    drainQueue i qi s = qcAnswer i qi qcAbsent s := by
  simp only [drainQueue, absent]

section
variable {s : State} {i qi : Nat} {q : Queue} (hq : getQueue s i qi = some q)
include hq

theorem drainQueue_stops (fetches : q.st = .active ∨ q.st = .error) (reports : tracks s = true) :
    drainQueue i qi s = qcAnswer i qi qcOk (settleDrain i qi (modQueue i qi (fun y => { y with
      st := .draining
      sweep := none
      scanWaits := false
      fetchStop := none
      place := .none
      runs := y.runs.map (reopenFence y) }) s)) := by
  simp only [drainQueue, hq, if_pos fetches, reports, Bool.not_true, Bool.false_eq_true, if_false]

/-- Broadsheet writes no ABORTED receipts, so it drains nothing (R110). -/
theorem drainQueue_unsupported (fetches : q.st = .active ∨ q.st = .error) (silent : tracks s = false) :
    drainQueue i qi s = qcAnswer i qi qcUnsupported s := by
  simp only [drainQueue, hq, if_pos fetches, silent, Bool.not_false, if_true]

theorem drainQueue_state (other : ¬ (q.st = .active ∨ q.st = .error)) :
    drainQueue i qi s = qcAnswer i qi qcState s := by
  simp only [drainQueue, hq, if_neg other]

theorem destroyQueue_stopped (stopped : q.st = .stopped) :
    destroyQueue i qi s = qcAnswer i qi qcOk (modInst i (fun x => { x with queues := tdel x.queues qi }) s) := by
  simp only [destroyQueue, hq, if_pos stopped]

theorem destroyQueue_idle (active : q.st = .active) (idle : idleQueue i q s = true) :
    destroyQueue i qi s = qcAnswer i qi qcOk (modInst i (fun x => { x with queues := tdel x.queues qi }) s) := by
  have going : ¬ q.st = .stopped := by rw [active]; decide
  simp only [destroyQueue, hq, if_neg going, if_pos active, if_pos idle]

theorem destroyQueue_busy (active : q.st = .active) (busy : ¬ idleQueue i q s = true) :
    destroyQueue i qi s = qcAnswer i qi qcBusy s := by
  have going : ¬ q.st = .stopped := by rw [active]; decide
  simp only [destroyQueue, hq, if_neg going, if_pos active, if_neg busy]

theorem destroyQueue_state (going : q.st ≠ .stopped) (inactive : q.st ≠ .active) :
    destroyQueue i qi s = qcAnswer i qi qcState s := by
  simp only [destroyQueue, hq, if_neg going, if_neg inactive]

/-- DESTROY removes a queue that is STOPPED or idle, and no other (R90). -/
theorem destroyQueue_by_state : destroyQueue i qi s =
    if q.st = .stopped ∨ q.st = .active ∧ idleQueue i q s = true
    then qcAnswer i qi qcOk (modInst i (fun x => { x with queues := tdel x.queues qi }) s)
    else qcAnswer i qi (if q.st = .active then qcBusy else qcState) s := by
  by_cases stopped : q.st = .stopped
  · rw [destroyQueue_stopped hq stopped, if_pos (.inl stopped)]
  · by_cases active : q.st = .active
    · by_cases idle : idleQueue i q s = true
      · rw [destroyQueue_idle hq active idle, if_pos (.inr ⟨active, idle⟩)]
      · rw [destroyQueue_busy hq active idle, if_neg fun h => h.elim stopped fun a => idle a.2, if_pos active]
    · rw [destroyQueue_state hq stopped active, if_neg fun h => h.elim stopped fun a => active a.1, if_neg active]

end

theorem destroyQueue_absent {s : State} {i qi : Nat} (absent : getQueue s i qi = none) :
    destroyQueue i qi s = qcAnswer i qi qcAbsent s := by
  simp only [destroyQueue, absent]

/-! ### QUERY -/

/-- QUERY reads both results of the queue, and 0 of an ABSENT one (R86). -/
theorem queryQueue_eq (i qi : Nat) (s : State) : queryQueue i qi s = qcAnswer i qi qcOk (modRegs i (fun r => { r with
    qcRes0 := ((getQueue s i qi).map qcResult0).getD 0, qcRes1 := ((getQueue s i qi).map qcResult1).getD 0 }) s) := by
  unfold queryQueue
  cases getQueue s i qi <;> rfl

/-! ### RESUME -/

theorem resumeQueue_error {s : State} {i qi : Nat} {q : Queue} (hq : getQueue s i qi = some q) (failed : q.st = .error) :
    resumeQueue i qi s = scanLoaded i qi (qcAnswer i qi qcOk (modQueue i qi (fun y =>
      { y with st := .active, fetched := [], si := resumeIndex y, fetchErr := false, fetchStop := none }) s)) := by
  simp only [resumeQueue, hq, if_pos failed]

theorem resumeQueue_state {s : State} {i qi : Nat} {q : Queue} (hq : getQueue s i qi = some q) (other : q.st ≠ .error) :
    resumeQueue i qi s = qcAnswer i qi qcState s := by
  simp only [resumeQueue, hq, if_neg other]

theorem scanLoaded_of_loaded {s w : State} {i qi : Nat} (loaded : loadContext i qi s = (true, w)) :
    scanLoaded i qi s = scan i qi none (modQueue i qi (fun q => { q with bell := false }) w) := by
  simp only [scanLoaded, loaded, if_true]

/-- Where no context can be evicted the scan waits, recorded (R115). -/
theorem scanLoaded_of_unloaded {s w : State} {i qi : Nat} (full : loadContext i qi s = (false, w)) :
    scanLoaded i qi s = w := by
  simp only [scanLoaded, full, Bool.false_eq_true, if_false]

/-! ### ERROR -/

/-- The distance back from a place k ahead of c, both counted in a ring of M: whole rounds of c fall away, and one round is
added and taken. -/
theorem ring_distance (c k : Nat) {M : Nat} (h : 0 < M) : ((c + k) % M + M - c % M) % M = k % M := by
  have low := Nat.mod_lt c h
  calc ((c + k) % M + M - c % M) % M
      = ((c + k) % M + (M - c % M)) % M := by rw [Nat.add_sub_assoc (Nat.le_of_lt low)]
    _ = ((c % M + k) % M + (M - c % M)) % M := by rw [Nat.mod_add_mod c M k]
    _ = (c % M + k + (M - c % M)) % M := Nat.mod_add_mod (c % M + k) M (M - c % M)
    _ = (k + M) % M := congrArg (· % M) (by omega)
    _ = k % M := Nat.add_mod_right k M

/-- The place at the distance of a slot from c is the slot. -/
theorem ring_place (c : Nat) {slot N : Nat} (h : slot < N) : (c + (slot + N - c % N) % N) % N = slot := by
  have low := Nat.mod_lt c (Nat.zero_lt_of_lt h)
  calc (c + (slot + N - c % N) % N) % N
      = (c + (slot + N - c % N)) % N := Nat.add_mod_mod c (slot + N - c % N) N
    _ = (c % N + (slot + N - c % N)) % N := (Nat.mod_add_mod c N (slot + N - c % N)).symm
    _ = (slot + N) % N := congrArg (· % N) (by omega)
    _ = slot := by rw [Nat.add_mod_right, Nat.mod_eq_of_lt h]

theorem ringSize_pos (q : Queue) : 0 < ringSize q := Nat.two_pow_pos _

/-- The count latched for a slot is that of the slot itself, and lies within one ring from CI (R109). -/
theorem latchError_count {q : Queue} {slot : Nat} (inRing : slot < ringSize q) (fetch : Bool) :
    (latchError slot fetch q).errCount % ringSize q = slot ∧
    ((latchError slot fetch q).errCount + 2 * ringSize q - q.ci % (2 * ringSize q)) % (2 * ringSize q) < ringSize q := by
  have near : ringKey q slot < ringSize q := Nat.mod_lt _ (ringSize_pos q)
  have twice : 0 < 2 * ringSize q := by omega
  constructor
  · show (q.ci + ringKey q slot) % (2 * ringSize q) % ringSize q = slot
    rw [Nat.mod_mul_left_mod]
    exact ring_place q.ci inRing
  · show ((q.ci + ringKey q slot) % (2 * ringSize q) + 2 * ringSize q - q.ci % (2 * ringSize q)) % (2 * ringSize q) <
      ringSize q
    rw [ring_distance q.ci _ twice, Nat.mod_eq_of_lt (by omega)]
    exact near

theorem fetchError_stops {s : State} {i qi slot : Nat} {q : Queue} (hq : getQueue s i qi = some q)
    (failed : q.fetchStop = some slot) (active : q.st = .active) (fetched : q.fetched = [])
    (started : ∀ r ∈ q.runs, r.started = true) :
    fetchError i qi s = raiseQueue i qi (modQueue i qi (fun y =>
      { latchError slot true y with st := .error, place := .none }) s) := by
  have due : q.st = .active ∧ q.fetched.isEmpty = true ∧ q.runs.all (·.started) = true :=
    ⟨active, List.isEmpty_iff.mpr fetched, List.all_eq_true.mpr started⟩
  simp only [fetchError, hq, failed, if_pos due]

/-! ### ARM -/

/-- ARM up to step 1 of R403: the hatch is armed, the queue takes back the state it was held from, and its recorded
outcomes are written. -/
def armReplays (i qi : Nat) (q : Queue) (s : State) : State :=
  each q.record (replayRecord i qi) (modQueue i qi (fun y => { y with st := y.heldFrom })
    (modHatch q.home (fun h => { h with armed := true }) s))

/-- Step 2 of R403 and what follows it before the scan: interrupted dockets start again, a drain that is complete ends, and an
interrupt that waited is raised (R412). -/
def armRestarts (i qi : Nat) (q : Queue) (u : State) : State :=
  if q.dueWaits then raiseQueue i qi (modQueue i qi (fun y => { y with dueWaits := false })
    (settleDrain i qi (modQueue i qi (reexecute u) u)))
  else settleDrain i qi (modQueue i qi (reexecute u) u)

/-- A HELD queue can be armed: its hatch is in L0 and its function enabled (R90, R403). -/
abbrev Armable (s : State) (i : Nat) (q : Queue) : Prop :=
  q.st = .held ∧ (getHatch s q.home).link = .up ∧ (getFn s { fnOf s i with hatch := q.home }).memSpace = true ∧
    (getFn s { fnOf s i with hatch := q.home }).busMaster = true

section
variable {s : State} {i qi : Nat} {q : Queue} (hq : getQueue s i qi = some q)
include hq

/-- ARM scans last, where a doorbell was recorded (R91, step 3 of R403). -/
theorem armQueue_ready (ready : Armable s i q) : armQueue i qi s = qcAnswer i qi qcOk (reclaim (if q.bell
    then scanLoaded i qi (armRestarts i qi q (armReplays i qi q s)) else armRestarts i qi q (armReplays i qi q s))) := by
  simp only [armQueue, hq, if_pos ready]
  rfl

theorem armQueue_state (free : q.st ≠ .held) : armQueue i qi s = qcAnswer i qi qcState s := by
  have stays : ¬ Armable s i q := fun h => free h.1
  simp only [armQueue, hq, if_neg stays]

end

/-- Without an interrupted docket nothing starts again. -/
theorem reexecute_of_uninterrupted {q : Queue} (whole : ∀ r ∈ q.runs, r.interrupted = false) (s : State) :
    reexecute s q = q := by
  have kept : (q.runs.filter fun r => !r.interrupted) = q.runs :=
    List.filter_eq_self.mpr fun r hr => by rw [whole r hr]; rfl
  have again : (q.runs.filter (·.interrupted)) = [] :=
    List.filter_eq_nil_iff.mpr fun r hr => by rw [whole r hr]; decide
  simp only [reexecute, kept, again, List.map_nil, List.append_nil]

/-- Of another queue than DRAINING nothing is settled. -/
theorem getQueue_settleDrain_idle {s : State} {i qi : Nat} {q : Queue} (hq : getQueue s i qi = some q)
    (other : q.st ≠ .draining) : getQueue (settleDrain i qi s) i qi = some q := by
  rw [settleDrain, getQueue_modQueue, hq, Option.map_some, if_neg fun h => other h.1]

/-- A result in QC_STATUS and the return of freed storage leave the queues. -/
theorem getQueue_qcAnswer_reclaim (i qi result j k : Nat) (s : State) :
    getQueue (qcAnswer i qi result (reclaim s)) j k = getQueue s j k :=
  getQueue_modRegs i j k _ (reclaim s)

theorem qcStatus_qcAnswer (i qi result : Nat) (s : State) :
    (getInst (qcAnswer i qi result s) i).regs.qcStatus = resultWord result qi 20 := by
  rw [qcAnswer, modRegs, getInst_modInst]

theorem armReplays_of_no_record {q : Queue} (norecord : q.record = []) (i qi : Nat) (s : State) :
    armReplays i qi q s = modQueue i qi (fun y => { y with st := y.heldFrom })
      (modHatch q.home (fun h => { h with armed := true }) s) := by
  rw [armReplays, norecord]
  rfl

theorem armRestarts_of_not_due {q : Queue} (nodue : q.dueWaits = false) (i qi : Nat) (u : State) :
    armRestarts i qi q u = settleDrain i qi (modQueue i qi (reexecute u) u) :=
  if_neg (ne_true_of_eq_false nodue)

/-- With nothing recorded, due or interrupted, ARM gives a queue that was not DRAINING its state back and no more. -/
theorem getQueue_arm {s : State} {i qi : Nat} {q : Queue} (hq : getQueue s i qi = some q) (norecord : q.record = [])
    (nodue : q.dueWaits = false) (whole : ∀ r ∈ q.runs, r.interrupted = false) (other : q.heldFrom ≠ .draining) :
    getQueue (armRestarts i qi q (armReplays i qi q s)) i qi = some { q with st := q.heldFrom } := by
  have armed : getQueue (modHatch q.home (fun h => { h with armed := true }) s) i qi = some q := hq
  rw [armRestarts_of_not_due nodue, armReplays_of_no_record norecord]
  refine getQueue_settleDrain_idle ?_ other
  rw [getQueue_modQueue, getQueue_modQueue, armed, Option.map_some, Option.map_some, reexecute_of_uninterrupted]
  exact whole

theorem getQueue_arm_ne {i j qi k : Nat} (away : j ≠ i ∨ k ≠ qi) {q : Queue} (norecord : q.record = [])
    (nodue : q.dueWaits = false) (s : State) :
    getQueue (armRestarts i qi q (armReplays i qi q s)) j k = getQueue s j k := by
  rw [armRestarts_of_not_due nodue, armReplays_of_no_record norecord, settleDrain, getQueue_modQueue_ne away,
    getQueue_modQueue_ne away, getQueue_modQueue_ne away]
  rfl

/-! ### The obligations -/

/-- Settles O11: each command by the state of its queue, on a page that answers. -/
theorem queueCommandsAnswer : Obligations.QueueCommandsAnswer := by
  unfold Obligations.QueueCommandsAnswer
  refine ⟨?create, ?drain, ?others, ?destroy, ?query⟩
  case create =>
    intro s s1 i qi g r answers inRange present seg near read whole quiet
    rw [exec_qcCreate answers inRange]
    exact ⟨fun clean => congrArg _ (createQueue_accepts present seg near read whole quiet clean),
      fun f found => congrArg _ (createQueue_finding present seg near read whole quiet found)⟩
  case drain =>
    intro s i qi q answers inRange hq fetches
    rw [exec_qcDrain answers inRange]
    exact ⟨fun reports => congrArg _ (drainQueue_stops hq fetches reports),
      fun silent => congrArg _ (drainQueue_unsupported hq fetches silent)⟩
  case others =>
    intro s i qi q answers inRange hq inactive sound
    rw [exec_qcDrain answers inRange, exec_qcResume answers inRange,
      drainQueue_state hq fun h => h.elim inactive sound, resumeQueue_state hq sound]
    exact ⟨rfl, rfl⟩
  case destroy =>
    intro s i qi q answers inRange hq
    rw [exec_qcDestroy answers inRange, destroyQueue_by_state hq]
    rfl
  case query =>
    intro s i qi answers inRange
    rw [exec_qcQuery answers inRange, exec_qcDrain answers inRange, exec_qcDestroy answers inRange, queryQueue_eq]
    refine ⟨rfl, fun absent => ?_⟩
    rw [drainQueue_absent absent, destroyQueue_absent absent]
    exact ⟨rfl, rfl⟩

/-- Settles O12: what RESUME, ARM and a fetch error leave, with the arithmetic of the latched count. -/
theorem queueResumesAndRearms : Obligations.QueueResumesAndRearms := by
  unfold Obligations.QueueResumesAndRearms
  refine ⟨?resume, ?latch, ?arm, ?free, ?fetch⟩
  case resume =>
    intro s i qi q answers inRange hq failed
    rw [exec_qcResume answers inRange, resumeQueue_error hq failed]
    rfl
  case latch =>
    intro q slot fetch inRing
    exact ⟨rfl, rfl, latchError_count inRing fetch⟩
  case arm =>
    intro s i qi q answers inRange hq held norecord whole nodue still other up mem bus
    rw [exec_qcArm answers inRange, armQueue_ready hq ⟨held, up, mem, bus⟩, if_neg (ne_true_of_eq_false still)]
    refine ⟨_, rfl, ?_, qcStatus_qcAnswer i qi _ _, fun j k away => ?_, armRestarts i qi q (armReplays i qi q s), ?_, rfl⟩
    · rw [getQueue_qcAnswer_reclaim, getQueue_arm hq norecord nodue whole other]
    · rw [getQueue_qcAnswer_reclaim, getQueue_arm_ne away norecord nodue]
    · rw [armRestarts_of_not_due nodue, armReplays_of_no_record norecord]
      rfl
  case free =>
    intro s i qi q answers inRange hq free
    rw [exec_qcArm answers inRange, armQueue_state hq free]
    rfl
  case fetch =>
    intro s i qi slot q hq failed active fetched started
    exact congrArg _ (fetchError_stops hq failed active fetched started)

end Sys2Proof.Machine
end

section
/-! PROOFS. Doorbells and the scans they and ARM begin (04_queues_rings.md R91, R101 to R103, R115; 16_hatches.md R403). -/
namespace Sys2Proof.Machine

/-! ### Doorbells -/

theorem exec_doorbell {s : State} {i : Nat} (on : s.startup = .running) (slot : (slotOf s i).isSome = true) (qi : Nat) :
    exec (.doorbell i qi) s = .next (ringBell i qi s) :=
  congrArg _ (if_pos ⟨on, slot⟩)

/-- A doorbell that the queue does not hear has no effect, whether the device takes doorbells or not. -/
theorem exec_doorbell_unheard {s : State} {i qi : Nat} (unheard : ringBell i qi s = s) :
    exec (.doorbell i qi) s = .next s := by
  show Host.Outcome.next (if s.startup = .running ∧ (slotOf s i).isSome then ringBell i qi s else s) = _
  rw [unheard, ite_self]

theorem ringBell_absent {s : State} {i qi : Nat} (absent : getQueue s i qi = none) : ringBell i qi s = s := by
  simp only [ringBell, absent]

section
variable {s : State} {i qi : Nat} {q : Queue} (hq : getQueue s i qi = some q)
include hq

theorem ringBell_of_idle (idle : q.desc.planned = true ∨ q.st = .error ∨ q.st = .draining ∨ q.st = .stopped) :
    ringBell i qi s = s := by
  have deaf : q.desc.planned = true ∨ q.st ≠ .active ∧ q.st ≠ .held := by
    refine idle.imp_right fun st => ?_
    rcases st with st | st | st <;> rw [st] <;> decide
  simp only [ringBell, hq, if_pos deaf]

theorem ringBell_held (held : q.st = .held) (posted : q.desc.planned = false) :
    ringBell i qi s = modQueue i qi (fun y => { y with bell := true }) (modQueue i qi endHold s) := by
  have heard : ¬ (q.desc.planned = true ∨ q.st ≠ .active ∧ q.st ≠ .held) := by rw [posted, held]; decide
  have records : q.st = .held ∨ running s = false ∨ s.power.keepSince.isSome = true := .inl held
  simp only [ringBell, hq, if_neg heard, if_pos records, recordBell]

theorem ringBell_active {s1 : State} (active : q.st = .active) (posted : q.desc.planned = false)
    (hrun : running s = true) (awake : s.power.keepSince = none)
    (loaded : loadContext i qi (modQueue i qi endHold s) = (true, s1)) :
    ringBell i qi s = placeAll (scan i qi none (modQueue i qi (fun y => { y with bell := false }) s1)) := by
  have heard : ¬ (q.desc.planned = true ∨ q.st ≠ .active ∧ q.st ≠ .held) := by rw [posted, active]; decide
  have scans : ¬ (q.st = .held ∨ running s = false ∨ s.power.keepSince.isSome = true) := by
    rw [active, hrun, awake]; decide
  simp only [ringBell, hq, if_neg heard, if_neg scans, loaded, if_true]

end

theorem startup_of_running {s : State} (hrun : running s = true) : s.startup = .running := by
  simp only [running, Bool.and_eq_true, decide_eq_true_eq] at hrun
  exact hrun.1

/-! ### The slots of a scan -/

section
variable {s s1 : State} {i qi : Nat} {q : Queue} (hq : getQueue s i qi = some q)
include hq

/-- A scan stops where the prefetch is full, and where the ring is (R102). -/
theorem scanLoop_stops (full : q.desc.depth ≤ q.fetched.length ∨ ringDiff q q.si q.ci = ringSize q) (fuel n : Nat) :
    scanLoop i qi (fuel + 1) n s = (.room, n, s) := by
  simp only [scanLoop, hq, if_pos full]

variable (space : q.fetched.length < q.desc.depth) (room : ringDiff q q.si q.ci ≠ ringSize q) (free : q.hold = none)
  (fresh : slotTaken q (q.si % ringSize q) = false)
include space room free fresh

theorem scanLoop_owned {ws : List Word} (read : readSlot i q s = (.owned ws, s1)) (fuel n : Nat) :
    scanLoop i qi (fuel + 1) n s = scanLoop i qi fuel (n + 1) (modQueue i qi (fun y => { y with
      fetched := insertRing y { slot := y.si % ringSize y, words := ws, tick := tickNow s, plate := none } y.fetched
      si := (y.si + 1) % (2 * ringSize y) }) s1) := by
  have goes : ¬ (q.desc.depth ≤ q.fetched.length ∨ ringDiff q q.si q.ci = ringSize q) :=
    fun full => full.elim (Nat.not_le.mpr space) room
  simp only [scanLoop, hq, if_neg goes, free, fresh, read, Bool.false_eq_true, if_false]

theorem scanLoop_notOwned (read : readSlot i q s = (.notOwned, s1)) (fuel n : Nat) :
    scanLoop i qi (fuel + 1) n s = (.clear, n, s1) := by
  have goes : ¬ (q.desc.depth ≤ q.fetched.length ∨ ringDiff q q.si q.ci = ringSize q) :=
    fun full => full.elim (Nat.not_le.mpr space) room
  simp only [scanLoop, hq, if_neg goes, free, fresh, read, Bool.false_eq_true, if_false]

end

/-- A scan that ends at a slot whose OWN reads 0 begins the late-write sweep, unless COUNT is 0 (R103). -/
theorem scan_clear {s s1 : State} {i qi n : Nat} {q : Queue} (hq : getQueue s i qi = some q) (fetches : mayFetch s q = true)
    (clear : scanLoop i qi (ringSize q + q.desc.depth + 1) 0
      (modQueue i qi (fun y => { y with sweep := none, scanWaits := false }) s) = (.clear, n, s1)) :
    scan i qi none s = if sweepCount s q = 0 then s1 else modQueue i qi (fun y => { y with
      sweep := some { count := sweepCount s q, spacing := sweepSpacing s, left := sweepCount s q,
                      due := s.clk.mono + sweepSpacing s } }) s1 := by
  simp only [scan, hq, fetches, Bool.not_true, Bool.false_eq_true, if_false, clear]

/-! ### Scans without a doorbell -/

section
variable {s : State} {i qi : Nat} {q : Queue} (hq : getQueue s i qi = some q)
include hq

theorem scanAgain_waiting (waits : q.scanWaits = true) : scanAgain i qi s = placeAll (scan i qi none s) := by
  simp only [scanAgain, hq, waits, if_true]

theorem scanAgain_idle (done : q.scanWaits = false) : scanAgain i qi s = s := by
  simp only [scanAgain, hq, done, Bool.false_eq_true, if_false]

theorem sweepAgain_sweeping {w : Sweep} (sweeps : q.sweep = some w) :
    sweepAgain i qi s = placeAll (scan i qi (some w) (waitMono w.due s)) := by
  simp only [sweepAgain, hq, sweeps]

theorem sweepAgain_idle (done : q.sweep = none) : sweepAgain i qi s = s := by
  simp only [sweepAgain, hq, done]

theorem scanDeferred_rung {s1 : State} (rung : q.bell = true) (fetches : mayFetch s q = true)
    (loaded : loadContext i qi s = (true, s1)) :
    scanDeferred i qi s = placeAll (scan i qi none (modQueue i qi (fun y => { y with bell := false }) s1)) := by
  simp only [scanDeferred, hq, rung, fetches, loaded, Bool.and_self, if_true]

theorem scanDeferred_unrung (still : q.bell = false) : scanDeferred i qi s = s := by
  simp only [scanDeferred, hq, still, Bool.false_and, Bool.false_eq_true, if_false]

end

/-! ### The obligations -/

/-- Settles O13: the doorbell by the queue's state, the scan slot by slot, and the scans that need no doorbell. -/
theorem scansTakeOwnedSlots : Obligations.ScansTakeOwnedSlots := by
  unfold Obligations.ScansTakeOwnedSlots
  refine ⟨?idle, ?absent, ?held, ?active, ?owned, ?stops, ?again, ?sweep⟩
  case idle =>
    intro s i qi q _ _ hq idle
    exact exec_doorbell_unheard (ringBell_of_idle hq idle)
  case absent =>
    intro s i qi absent
    exact exec_doorbell_unheard (ringBell_absent absent)
  case held =>
    intro s i qi q on slot hq held posted
    rw [exec_doorbell on slot, ringBell_held hq held posted]
  case active =>
    intro s s1 i qi q hrun awake slot hq active posted loaded
    rw [exec_doorbell (startup_of_running hrun) slot, ringBell_active hq active posted hrun awake loaded]
  case owned =>
    intro s s1 i qi n fuel q ws hq space room free fresh read
    exact scanLoop_owned hq space room free fresh read fuel n
  case stops =>
    intro s s1 i qi n fuel q hq free fresh read
    exact ⟨fun full => scanLoop_stops hq full fuel n,
      fun space room => scanLoop_notOwned hq space room free fresh read fuel n⟩
  case again =>
    intro s i qi q hq
    exact ⟨fun waits => congrArg _ (scanAgain_waiting hq waits), fun done => congrArg _ (scanAgain_idle hq done),
      fun w sweeps => congrArg _ (sweepAgain_sweeping hq sweeps), fun done => congrArg _ (sweepAgain_idle hq done),
      fun s1 rung fetches loaded => congrArg _ (scanDeferred_rung hq rung fetches loaded),
      fun still => congrArg _ (scanDeferred_unrung hq still)⟩
  case sweep =>
    intro s i qi q s1 n hq fetches clear
    exact scan_clear hq fetches clear

/-- Settles O59: the doorbells that are not heard or only recorded, and ARM with and without a recorded one. -/
theorem doorbellsOfIdleQueues : Obligations.DoorbellsOfIdleQueues := by
  unfold Obligations.DoorbellsOfIdleQueues
  refine ⟨?absent, ?idle, ?held, ?arm⟩
  case absent =>
    intro s i qi absent
    exact exec_doorbell_unheard (ringBell_absent absent)
  case idle =>
    intro s i qi q hq idle
    exact exec_doorbell_unheard (ringBell_of_idle hq idle)
  case held =>
    intro s i qi q on slot hq held posted
    rw [exec_doorbell on slot, ringBell_held hq held posted]
    refine ⟨_, rfl, ?_, fun j k away => ?_, rfl⟩
    · rw [getQueue_modQueue, getQueue_modQueue, hq, Option.map_some, Option.map_some]
    · rw [getQueue_modQueue_ne away, getQueue_modQueue_ne away]
  case arm =>
    intro s u v i qi q answers inRange hq held up mem bus hu hv
    have ready : Armable s i q := ⟨held, up, mem, bus⟩
    have reached : v = armRestarts i qi q (armReplays i qi q s) := by rw [hv, hu]; rfl
    rw [exec_qcArm answers inRange, armQueue_ready hq ready, ← reached]
    refine ⟨fun w rung loaded => ?_, fun w rung full => ?_, fun still => ?_⟩
    · rw [if_pos rung, scanLoaded_of_loaded loaded]
    · rw [if_pos rung, scanLoaded_of_unloaded full]
    · rw [if_neg (ne_true_of_eq_false still)]

end Sys2Proof.Machine
end

section
/-! PROOFS. Release words, waiting receipts, moderation and the unmasking of MSI-X entries (04_queues_rings.md R98 to R100;
16_hatches.md R408, R409). -/
namespace Sys2Proof.Machine

/-! ### Release words -/

theorem exec_releaseWord {s : State} {i : Nat} (answers : pageOpen s i = true) (qi : Nat) (v : Word) :
    exec (.releaseWord i qi v) s = .next (release i qi v s) :=
  congrArg _ (if_pos answers)

/-- A release word whose bits above the ring are 0 and that does not pass WI (R98). -/
theorem releaseOk_iff (q : Queue) (v : Word) : releaseOk q v = true ↔
    v.toNat < 2 * ringSize q ∧ ringDiff q v.toNat q.ri ≤ ringDiff q q.wi q.ri := by
  simp only [releaseOk, Bool.and_eq_true, decide_eq_true_eq]

/-- What a release word makes of its queue. -/
def released (v : Word) (q : Queue) : Queue :=
  if releaseOk q v then
    { q with ri := v.toNat, badRelease := false, receiptFull := q.receiptFull && !receiptRoom { q with ri := v.toNat } }
  else { q with badRelease := true }

theorem release_eq (i qi : Nat) (v : Word) (s : State) :
    release i qi v s = placeAll (modQueue i qi (released v) s) := rfl

/-! ### Waiting receipts -/

theorem writeWaiting_first {s : State} {i qi : Nat} {q : Queue} {r : Receipt} {rest : List Receipt}
    (hq : getQueue s i qi = some q) (waits : q.waiting = r :: rest) :
    writeWaiting i qi s = if receiptRoom q = true ∧ receiptsFlow s i q = true then placeAll (settleDrain i qi
      (writeEnd i qi r (modQueue i qi (fun y => { y with waiting := rest }) s))) else s := by
  simp only [writeWaiting, hq, waits, Bool.and_eq_true]

/-! ### Interrupts -/

theorem moderationDue_at {s : State} {i qi t : Nat} {q : Queue} (hq : getQueue s i qi = some q) (due : q.modDue = some t) :
    moderationDue i qi s = raiseQueue i qi (waitMono t s) := by
  simp only [moderationDue, hq, due]

theorem unmask_pending {s : State} {f : Fn} {e : Nat} (pending : (getFn s f).pendingBits.contains e = true) :
    unmask f (some e) s = sendMsix f e (modFn f (fun x => { x with
      unmasked := addNew x.unmasked e, pendingBits := x.pendingBits.filter (· != e) }) s) := by
  simp only [unmask, pending, if_true]

/-- An unmasked message of a function in D0 leaves at once on a link in L0 (R408). -/
theorem sendMsix_leaves {s : State} {f : Fn} {e : Nat} (enabled : (getFn s f).msixEn = true)
    (clear : (getFn s f).msixMask = false) (unmasked : (getFn s f).unmasked.contains e = true)
    (awake : (getFn s f).d3 = false) (up : (getHatch s f.hatch).link = .up) :
    sendMsix f e s = emit (.msix f e) s := by
  have carries : hatchUp s f.hatch = true := by simp only [hatchUp, up]
  simp only [sendMsix, enabled, clear, unmasked, awake, carries, up, Bool.not_true, Bool.or_self, Bool.false_eq_true, if_false,
    reduceCtorEq, or_self]

/-! ### The obligation -/

/-- Settles O14: the release by its word, the first waiting receipt, and the two ways to an interrupt. -/
theorem releasesAndWaitingReceipts : Obligations.ReleasesAndWaitingReceipts := by
  unfold Obligations.ReleasesAndWaitingReceipts
  refine ⟨?release, ?waiting, ?moderation, ?unmask, ?message⟩
  case release =>
    intro s i qi v q answers hq
    rw [exec_releaseWord answers, release_eq]
    refine ⟨_, rfl, rfl, fun j k away => getQueue_modQueue_ne away _ s, fun ok => ?_, fun bad => ?_⟩
    · rw [getQueue_modQueue, hq, Option.map_some, released, if_pos ((releaseOk_iff q v).mpr ok)]
    · rw [getQueue_modQueue, hq, Option.map_some, released, if_neg fun h => bad ((releaseOk_iff q v).mp h)]
  case waiting =>
    intro s i qi q r rest hq waits
    exact congrArg _ (writeWaiting_first hq waits)
  case moderation =>
    intro s i qi t q hq due
    exact congrArg _ (moderationDue_at hq due)
  case unmask =>
    intro s f e pending
    exact congrArg _ (unmask_pending pending)
  case message =>
    intro s f e enabled clear unmasked awake up
    exact sendMsix_leaves enabled clear unmasked awake up

end Sys2Proof.Machine
end

section
/-! PROOFS. Tallies: their two copies and their waits, TALLY_ADD and TALLY_WAIT, the tally commands of a page
(05_dockets_receipts.md R131, R132; 07_galley.md R174, R184; 11_collectives.md R290, R291, R293). -/
namespace Sys2Proof.Machine

/-! ### The two copies -/

@[simp] theorem galleyAccess_plates (m : Nat) (requests : Option Nat) (s : State) :
    (galleyAccess m requests s).plates = s.plates := by
  cases frozen : s.galley.cflFreeze
  · simp only [galleyAccess, frozen, Bool.false_eq_true, if_false, modGalley_plates]
  · simp only [galleyAccess, frozen, if_true]

/-- The access to the galley leaves where the tallies of a page lie. -/
theorem tallyNo_galleyAccess (m : Nat) (requests : Option Nat) (s : State) (i n : Nat) :
    tallyNo (galleyAccess m requests s) i n = tallyNo s i n := by
  simp only [tallyNo, slotOf, galleyAccess_plates]

section
variable {s : State} {i n : Nat}

/-- A first copy that has not failed serves the read (R174). -/
theorem readTallyOf_whole (firstGood : (tget s.galley.tallyFailed (tallyNo s i n)).getD 0 = 0 ∨
    (tget s.galley.tallyFailed (tallyNo s i n)).getD 0 = 2) :
    readTallyOf i n s = (false, tallyValue s (tallyNo s i n), s) := by
  rcases firstGood with failed | failed <;>
    simp only [readTallyOf, readTally, failed, Bool.false_eq_true, if_false]

/-- The second copy serves a read where the first fails, and mends it (R184). -/
theorem readTallyOf_second (failed : (tget s.galley.tallyFailed (tallyNo s i n)).getD 0 = 1) :
    readTallyOf i n s = (false, tallyValue s (tallyNo s i n), latch (tallyEvent 5 1 (tallyNo s i n))
      (modGalley (fun g => { g with tallyFailed := tdel g.tallyFailed (tallyNo s i n) }) s)) := by
  simp only [readTallyOf, readTally, failed, Bool.false_eq_true, if_false]

/-- Where both fail the tally is 0 and its waits end (R293). -/
theorem readTallyOf_lost (failed : (tget s.galley.tallyFailed (tallyNo s i n)).getD 0 = 3) :
    readTallyOf i n s = (true, 0, failWaits i n (latch (tallyEvent 6 3 (tallyNo s i n)) (putTally (tallyNo s i n) 0 s))) := by
  simp only [readTallyOf, readTally, failed, if_true]

/-- An add in terms of the read it begins with. -/
theorem addTally_of_read {both : Bool} {v : Word} {s1 : State} (read : readTallyOf i n s = (both, v, s1)) (a : Word) :
    addTally i n a s = (v + a, testWaits i n (v + a) (putTally (tallyNo s i n) (v + a) s1)) := by
  simp only [addTally, read]

end

/-! ### The waits of a tally -/

/-- In each queue the picked waits end, and no others. -/
theorem getQueue_endWaits {s : State} {i qi : Nat} {q : Queue} (hq : getQueue s i qi = some q) (n : Nat)
    (pick : List Word → Bool) (out : Settled) :
    getQueue (endWaits i n pick out s) i qi = some { q with
      runs := q.runs.map fun r => if waitsOn q n r && pick (runWords q r) then { r with outcome := some out } else r } := by
  unfold getQueue at hq
  simp only [endWaits, getQueue, getInst_modInst, tget_tmap, hq, Option.map_some]

/-! ### TALLY_ADD -/

section
variable {s : State} {i qi : Nat} {q : Queue} {r : Run}

/-- Without the remote flag the add is to a tally of the docket's own page (R131). -/
theorem tallyAdd_local {both : Bool} {v : Word} {s1 : State} (here : bit (wd (runWords q r) 0) 16 = false)
    (read : readTallyOf i (dTally (runWords q r)) (galleyAccess mQueue (some 1) s) = (both, v, s1)) :
    tallyAdd i qi q r s = settle i qi r.ord { settledAs stOk 0 0 with extra := v + wd (runWords q r) 6 }
      (testWaits i (dTally (runWords q r)) (v + wd (runWords q r) 6) (putTally
        (tallyNo (galleyAccess mQueue (some 1) s) i (dTally (runWords q r))) (v + wd (runWords q r) 6) s1)) := by
  simp only [tallyAdd, here, Bool.false_eq_true, if_false, addTally_of_read read]

/-- With it the word goes to the tally of a rank that can be reached (R131, R294). -/
theorem tallyAdd_remote {t : Nat × Nat} (remote : bit (wd (runWords q r) 0) 16 = true)
    (hrank : runRank r (dRank (runWords q r)) = some t) (route : hasRoute s t.1 8 = true) (cells : framePort s t.1 = none)
    (room : txReady s (connTo s q 8 t) = true) :
    tallyAdd i qi q r s = markExecuted i qi r.ord (addMessage (connTo s q 8 t) 1 (syncMessage s (.docket i qi r.ord)
      (runJob r) 0x81 0 (leBytes 4 (dTally (runWords q r)) ++ wordBytes (wd (runWords q r) 6)) (dRank (runWords q r))) s) := by
  simp only [tallyAdd, remote, if_true, hrank, route, cells, room, Bool.not_true, Option.isSome_none, Bool.or_self,
    Bool.false_eq_true, if_false]

/-! ### TALLY_WAIT -/

/-- The state in which a wait starts: one that was held back counts its patience from now (R291). -/
def waitBegun (i qi : Nat) (r : Run) (s : State) : State :=
  if r.heldBack then modRun i qi r.ord (fun x => { x with heldBack := false, startTick := tickNow s }) s else s

theorem tallyWait_heldBack (full : 65536 ≤ waitsStarted s) :
    tallyWait i qi q r s = modRun i qi r.ord (fun x => { x with heldBack := true }) s := by
  simp only [tallyWait, if_pos full]

/-- A wait that starts ends at once where the tally is reached already, and waits otherwise (R132). -/
theorem tallyWait_starts {v : Word} {s1 : State} (room : waitsStarted s < 65536)
    (read : readTallyOf i (dTally (runWords q r)) (galleyAccess mQueue (some 1) (waitBegun i qi r s)) = (false, v, s1)) :
    tallyWait i qi q r s = if 0 ≤ (v - wd (runWords q r) 6).toInt then
      settle i qi r.ord { settledAs stOk 0 0 with extra := v } s1 else markExecuted i qi r.ord s1 := by
  unfold waitBegun at read
  simp only [tallyWait, if_neg (Nat.not_le.mpr room), read, Bool.false_eq_true, if_false, tallyReached, decide_eq_true_eq]

end

/-! ### Patience -/

section
variable {s : State} {d : DRef} {q : Queue} {r : Run} (hq : getQueue s d.inst d.queue = some q)
  (waits : q.runs.find? (fun r => r.slot == d.slot && dOp (runWords q r) == opTallyWait && r.executed &&
    r.outcome.isNone) = some r)
include hq waits

/-- Before the edge of tick S + p, and while no tick runs, nothing happens. -/
theorem tallyPatience_early (early : ticking s = false ∨ tickNow s < r.startTick + dPatience (runWords q r)) :
    tallyPatience d s = s := by
  have patient : ¬ (ticking s && decide (r.startTick + dPatience (runWords q r) ≤ tickNow s)) = true := by
    intro patienceEnds
    obtain ⟨runs, due⟩ := Bool.and_eq_true_iff.mp patienceEnds
    rcases early with stopped | before
    · exact absurd runs (Bool.eq_false_iff.mp stopped)
    · exact absurd (of_decide_eq_true due) (Int.not_le.mpr before)
  simp only [tallyPatience, hq, waits, if_neg patient]

variable (runs : ticking s = true) (due : r.startTick + dPatience (runWords q r) ≤ tickNow s)
include runs due

theorem tallyPatience_freed {v : Word} (freed : r.freedTally = some v) :
    tallyPatience d s = settle d.inst d.queue r.ord { settledAs stLaggard 0 0 with extra := v } s := by
  simp only [tallyPatience, hq, waits, runs, due, decide_true, Bool.and_self, if_true, freed]

theorem tallyPatience_read {v : Word} {u : State} (present : r.freedTally = none)
    (read : readTallyOf d.inst (dTally (runWords q r)) (galleyAccess mQueue (some 1) s) = (false, v, u)) :
    tallyPatience d s = settle d.inst d.queue r.ord { settledAs stLaggard 0 0 with extra := v } u := by
  simp only [tallyPatience, hq, waits, runs, due, decide_true, Bool.and_self, if_true, present, read, Bool.false_eq_true,
    if_false]

end

/-! ### The commands of the page -/

section
variable {s : State} {i n : Nat} (answers : pageOpen s i = true) (inRange : n < 262144)
  (present : (getInst s i).st ≠ .resetting)
include answers inRange present

/-- A page that answers carries out the command of a tally index in range, unless it is RESETTING (R290). -/
theorem tallyCommand_open (f : State → State) : tallyCommand i n f s = .next (f s) := by
  simp only [tallyCommand, answers, inRange, decide_true, Bool.and_self, if_true, if_neg present]

theorem exec_tallyAlloc (b : Bool) : exec (.tallyAlloc i n b) s = .next (tallyAlloc i n b s) :=
  tallyCommand_open answers inRange present _
theorem exec_tallySet : exec (.tallySet i n) s = .next (tallySet i n s) := tallyCommand_open answers inRange present _
theorem exec_tallyRead : exec (.tallyRead i n) s = .next (tallyRead i n s) := tallyCommand_open answers inRange present _
theorem exec_tallyFree : exec (.tallyFree i n) s = .next (tallyFree i n s) := tallyCommand_open answers inRange present _

end

/-- A queue whose started waits on a freed tally run on with the value it had (R29). -/
def withoutTally (n : Nat) (v : Word) (q : Queue) : Queue :=
  { q with runs := q.runs.map fun r => if waitsOn q n r then { r with freedTally := some v } else r }

section
variable {s : State} {i n : Nat} (taken : (tget (getInst s i).tallies n).isSome = true)
include taken

theorem tallySet_taken : tallySet i n s = tallyAnswer i n tlOk (testWaits i n (getInst s i).regs.tallyValue
    (putTally (tallyNo s i n) (getInst s i).regs.tallyValue s)) := by
  simp only [tallySet, Option.isNone_eq_false_iff.mpr taken, Bool.false_eq_true, if_false]

variable {both : Bool} {v : Word} {u : State} (read : readTallyOf i n s = (both, v, u))
include read

theorem tallyRead_taken :
    tallyRead i n s = tallyAnswer i n tlOk (modRegs i (fun r => { r with tallyValue := v }) u) := by
  simp only [tallyRead, Option.isNone_eq_false_iff.mpr taken, Bool.false_eq_true, if_false, read]

theorem tallyFree_taken : tallyFree i n s = tallyAnswer i n tlOk (modInst i (fun y => { y with
    tallies := tdel y.tallies n, queues := tmap y.queues fun _ q => withoutTally n v q }) u) := by
  simp only [tallyFree, Option.isNone_eq_false_iff.mpr taken, Bool.false_eq_true, if_false, read, withoutTally]

end

section
variable {s : State} {i n : Nat} (free : tget (getInst s i).tallies n = none)
include free

theorem tallySet_free : tallySet i n s = tallyAnswer i n tlAbsent s := by
  simp only [tallySet, free, Option.isNone_none, if_true]

theorem tallyRead_free : tallyRead i n s = tallyAnswer i n tlAbsent s := by
  simp only [tallyRead, free, Option.isNone_none, if_true]

theorem tallyFree_free : tallyFree i n s = tallyAnswer i n tlAbsent s := by
  simp only [tallyFree, free, Option.isNone_none, if_true]

end

/-! ### The obligation -/

/-- Settles O29: the add, the wait with its patience, the waits a change ends, the copies read, and each page command. -/
theorem talliesCount : Obligations.TalliesCount := by
  unfold Obligations.TalliesCount
  refine ⟨?add, ?remote, ?wait, ?full, ?tested, ?patience, ?alloc, ?taken, ?copies, ?free⟩
  case add =>
    intro s u u1 d q r v both ready here hu read
    subst hu
    exact congrArg _ ((start_ready ready).trans (tallyAdd_local here read))
  case remote =>
    intro s u d q r t ready hu remote hrank route cells room
    subst hu
    exact congrArg _ ((start_ready ready).trans (tallyAdd_remote remote hrank route cells room))
  case wait =>
    intro s u u1 d q r v ready room hu read
    subst hu
    exact congrArg _ ((start_ready ready).trans (tallyWait_starts room read))
  case full =>
    intro s d q r ready full
    exact congrArg _ ((start_ready ready).trans (tallyWait_heldBack full))
  case tested =>
    intro s i n qi v q hq
    exact ⟨getQueue_endWaits hq n _ _, rfl⟩
  case patience =>
    intro s d q r hq waits
    refine ⟨fun early => congrArg _ (tallyPatience_early hq waits early), fun runs due => ⟨fun v freed => ?_,
      fun v u present read => ?_⟩⟩
    · exact congrArg _ (tallyPatience_freed hq waits runs due freed)
    · exact congrArg _ (tallyPatience_read hq waits runs due present read)
  case alloc =>
    intro s i n b answers inRange present
    exact exec_tallyAlloc answers inRange present b
  case taken =>
    intro s i n answers inRange present taken
    refine ⟨?_, fun both v u read => ?_, fun both v u read => ?_⟩
    · rw [exec_tallySet answers inRange present, tallySet_taken taken, tlOk]
    · rw [exec_tallyRead answers inRange present, tallyRead_taken taken read, tlOk]
    · exact (exec_tallyFree answers inRange present).trans (congrArg _ (tallyFree_taken taken read))
  case copies =>
    intro s i n
    exact ⟨readTallyOf_whole, readTallyOf_second, readTallyOf_lost⟩
  case free =>
    intro s i n answers inRange present free
    refine ⟨?_, ?_, ?_⟩
    · rw [exec_tallySet answers inRange present, tallySet_free free, tlAbsent]
    · rw [exec_tallyRead answers inRange present, tallyRead_free free, tlAbsent]
    · rw [exec_tallyFree answers inRange present, tallyFree_free free, tlAbsent]

end Sys2Proof.Machine
end

section
/-! PROOFS. The sync-plane messages of tallies: TALLY_ADD at its target, TALLY_DONE and SYNC_ACK at the sender
(05_dockets_receipts.md R131; 11_collectives.md R292; 13_delivery_congestion.md R346). -/
namespace Sys2Proof.Machine

/-! ### TALLY_ADD at its target -/

/-- The answer to a TALLY_ADD kept in its response record, its request settled, and the answer sent (R346). -/
def answerTallyAdd (p : Packet) (code : Nat) (v : Word) (s : State) : State :=
  syncReply p 0xC1 (leBytes 1 code ++ wordBytes v)
    (settleSync p (recordSync p 0xC1 (leBytes 1 code ++ wordBytes v) s))

theorem exec_tallyAddPacket {s : State} {p : Packet} (here : arrives s p 0x81 = true)
    (fresh : requestFresh p (consume p s) = true) :
    exec (.tallyAddPacket p) s = .next (tallyAddArrives p (requestContext p (consume p s))) := by
  simp only [exec, execTallyAddPacket, here, if_true, admitSync, admitted fresh]

section
variable {u : State} {p : Packet} {i code : Nat} (room : recordRoom (keyOf p) u = true)
include room

/-- An add that is allowed is answered with the value after it (R292). -/
theorem tallyAddArrives_applied {u1 : State} {v : Word} {both : Bool} (allowed : tallyCheck u p = (0, i))
    (read : readTallyOf i (leNat (p.body.take 4) % 2 ^ 18) (galleyAccess mSwitch (some 1) u) = (both, v, u1)) {w : Word}
    (hw : w = v + BitVec.ofNat 64 (leNat ((p.body.drop 4).take 8))) :
    tallyAddArrives p u = answerTallyAdd p 0 w (testWaits i (leNat (p.body.take 4) % 2 ^ 18) w
      (putTally (tallyNo u i (leNat (p.body.take 4) % 2 ^ 18)) w u1)) := by
  simp only [tallyAddArrives, room, Bool.not_true, Bool.false_eq_true, if_false, allowed, if_true, addTally_of_read read,
    tallyNo_galleyAccess, answerTallyAdd, hw]

/-- A refused one changes no tally. -/
theorem tallyAddArrives_refused (refused : tallyCheck u p = (code, i)) (bad : code ≠ 0) :
    tallyAddArrives p u = answerTallyAdd p code 0 u := by
  simp only [tallyAddArrives, room, Bool.not_true, Bool.false_eq_true, if_false, refused, if_neg bad, answerTallyAdd]

end

/-! ### Replies at the sender -/

/-- How the code and value of a TALLY_DONE end the docket that sent the add (R131, R292). -/
def tallyDoneOutcome (code : Nat) (v : Word) : Settled :=
  if code = 0 then { settledAs stOk 0 0 with extra := v }
  else if code ≤ 2 then settledAs stRemoteRefused 0 code
  else settledAs stWindowFault 0 0

theorem tallyDoneArrives_ends {s : State} {p : Packet} {m : TxMsg} (sent : syncSent s p = some m) (adds : m.ptype = 0x81) :
    tallyDoneArrives p s = endMessage m (tallyDoneOutcome (leNat (p.body.take 1))
      (BitVec.ofNat 64 (leNat ((p.body.drop 1).take 8)))) (endSync p s) := by
  have isAdd : ¬ m.ptype ≠ 0x81 := not_not_intro adds
  simp only [tallyDoneArrives, sent, if_neg isAdd]
  generalize leNat (p.body.take 1) = code
  match code with
  | 0 => rfl
  | 1 => rfl
  | 2 => rfl
  | n + 3 =>
    have other : ¬ n + 3 ≤ 2 := by omega
    simp only [tallyDoneOutcome, Nat.succ_ne_zero, if_false, if_neg other]

@[simp] theorem addSample_key (now x : Nat) (c : SendCtx) : (addSample now x c).key = c.key := by
  cases h : c.srtt <;> simp only [addSample, h]

@[simp] theorem addSample_msgs (now x : Nat) (c : SendCtx) : (addSample now x c).msgs = c.msgs := by
  cases h : c.srtt <;> simp only [addSample, h]

/-- Samples of the round trip leave a connection its key and its messages. -/
theorem addSamples_frame (now : Nat) (l : List Nat) (c : SendCtx) :
    (l.foldl (fun x y => addSample now y x) c).key = c.key ∧ (l.foldl (fun x y => addSample now y x) c).msgs = c.msgs := by
  induction l generalizing c with
  | nil => exact ⟨rfl, rfl⟩
  | cons x l ih => simpa only [List.foldl_cons, addSample_key, addSample_msgs] using ih (addSample now x c)

/-- The messages that hold the PSN of a reply leave the connection, and no others (R346). -/
theorem findTx_endSync (p : Packet) (s : State) : (findTx (endSync p s) (replyKey p)).map (·.msgs) =
    (findTx s (replyKey p)).map fun c => c.msgs.filter fun m => !(m.packets.any fun t => t.psn == p.psn) := by
  rw [endSync, findTx_modTx s _ ?hg, Option.map_map]
  case hg => exact fun c => (addSamples_frame _ _ c).1
  refine congrArg (Option.map · (findTx s (replyKey p))) (funext fun c => ?_)
  exact congrArg (List.filter _) (addSamples_frame _ _ c).2

/-! ### The obligation -/

/-- Settles O30: the add applied or refused with its answer, the end of the sender's docket, and the settled message. -/
theorem tallyMessagesArrive : Obligations.TallyMessagesArrive := by
  unfold Obligations.TallyMessagesArrive
  refine ⟨?applied, ?refused, ?done, ?ack⟩
  case applied =>
    intro s u u1 p i v both here fresh hu room allowed read
    subst hu
    refine ⟨_, _, _, _, rfl, rfl, rfl, rfl, ?_⟩
    rw [exec_tallyAddPacket here fresh, tallyAddArrives_applied room allowed read rfl]
    rfl
  case refused =>
    intro s u p i code here fresh hu room refused bad
    subst hu
    rw [exec_tallyAddPacket here fresh, tallyAddArrives_refused room refused bad, answerTallyAdd]
  case done =>
    intro s p m here sent adds
    simp only [exec, execTallyDone, here, if_true, tallyDoneArrives_ends sent adds]
    rfl
  case ack =>
    intro s p c here sends
    refine ⟨by simp only [exec, execSyncAck, here, if_true], (findTx_endSync p (consume p s)).trans ?_⟩
    exact congrArg _ sends

end Sys2Proof.Machine
end

section
/-! PROOFS. Temperature, gating and keeping (20_power_watch.md R471 to R476; 06_memory_tiers.md R162), and the rails
(23_signals_package.md R515, R516). -/
namespace Sys2Proof.Machine

/-! ### Temperature -/

theorem exec_tempSample {s : State} {l : List Nat} (power : powered s = true) (sensors : l.length = 16) :
    exec (.tempSample l) s = .next (tempSample l s) := by
  simp only [exec, execTempSample, power, sensors, decide_true, Bool.and_self, if_true]

/-- No sensor reads above a limit that bounds every reading. -/
theorem hotSensor_of_le {l : List Nat} {limit : Nat} (cool : ∀ c ∈ l, c ≤ limit) : hotSensor l limit = none := by
  rw [hotSensor, List.find?_eq_none]
  intro x hx
  obtain ⟨k, hk, rfl⟩ := List.mem_map.mp hx
  have reading : l.getD k 0 ∈ l := by
    rw [List.getD_eq_getElem?_getD, List.getElem?_eq_getElem (List.mem_range.mp hk), Option.getD_some]
    exact List.getElem_mem _
  simp only [decide_eq_true_eq, Nat.not_lt]
  exact cool _ reading

/-- A sample without a reading above 95 °C: HOT ends once every sensor reads below 90 °C. -/
theorem tempSample_cool {l : List Nat} (warm : hotSensor l 95 = none) (hot : hotSensor l 105 = none) (s : State) :
    tempSample l s = modPower (fun p => { p with
      tempMax := l.foldl max 0 % 256
      warned := false
      hot := if l.all fun c => decide (c < 90) then false else p.hot }) s := by
  simp only [tempSample, warm, hot, Option.isSome_none, Bool.false_eq_true, if_false]

/-- HOT set by sensor k at c °C, with its event on the rise alone (R471). -/
def tempWarmed (l : List Nat) (k c : Nat) (s : State) : State :=
  modPower (fun p => { p with tempMax := l.foldl max 0 % 256, warned := true, hot := true })
    (if s.power.warned then s else latch (event 10 1 3 k c) s)

section
variable {l : List Nat} {k c : Nat} (warm : hotSensor l 95 = some (k, c))
include warm

theorem tempSample_warm (hot : hotSensor l 105 = none) (s : State) : tempSample l s = tempWarmed l k c s := by
  simp only [tempSample, warm, hot, Option.isSome_some, if_true, tempWarmed]

/-- Above 105 °C the critical event follows, at level 4. -/
theorem tempSample_critical {j d : Nat} (hot : hotSensor l 105 = some (j, d)) (s : State) :
    tempSample l s = placeAll (latch (event 10 2 4 j d) (tempWarmed l k c s)) := by
  simp only [tempSample, warm, hot, Option.isSome_some, if_true, tempWarmed]

end

/-! ### Gating -/

section
variable {s : State} (run : running s = true)
include run

theorem exec_idleGate : exec .idleGate s = .next (idleGate s) := by
  simp only [exec, execIdleGate, run, if_true]

theorem exec_pressUngate : exec .pressUngate s = .next (pressUngate s) := by
  simp only [exec, execPressUngate, run, if_true]

end

/-- The units are gated when nothing runs or is due, and no planned entry is within 2 µs of its start (R473, R474). -/
theorem idleGate_gates {s u : State} (waited : u = waitMono (s.power.lastBlock + idleTime s) s)
    (active : s.power.st = .active) (still : ∀ x ∈ pressRuns s, x.2.2.2.flying = []) (undue : blockDue s = false)
    (ahead : ∀ t, ungateTime u = some t → u.clk.ptp < t) :
    idleGate s = modPower (fun p => { p with st := .idle, gated := true }) u := by
  subst waited
  have empty : (pressRuns s).all (fun x => x.2.2.2.flying.isEmpty) = true :=
    List.all_eq_true.mpr fun x hx => by rw [still x hx]; rfl
  cases next : ungateTime (waitMono (s.power.lastBlock + idleTime s) s) with
  | none => simp only [idleGate, next, active, empty, undue, and_self, if_true]
  | some t => simp only [idleGate, next, active, empty, undue, decide_eq_false (Nat.not_le.mpr (ahead t next)), and_self,
      if_true]

section
variable {s : State} (idle : s.power.st = .idle)
include idle

theorem pressUngate_due (due : blockDue s = true) : pressUngate s = ungate s := by
  simp only [pressUngate, idle, due, ne_eq, not_true_eq_false, if_false, if_true]

theorem pressUngate_planned {t : Nat} (undue : blockDue s = false) (next : ungateTime s = some t) :
    pressUngate s = ungate (waitPtp t s) := by
  simp only [pressUngate, idle, undue, next, ne_eq, not_true_eq_false, Bool.false_eq_true, if_false]

end

/-! ### Keeping -/

/-- A device in keeping runs no dockets (R476). -/
theorem running_of_inKeeping {s : State} (keeping : inKeeping s = true) : running s = false := by
  rw [inKeeping, Bool.and_eq_true, decide_eq_true_eq, decide_eq_true_eq] at keeping
  obtain ⟨up, keeps⟩ := keeping
  simp only [running, up, keeps, reduceCtorEq, decide_false, Bool.or_self, Bool.and_false]

theorem inKeeping_of_running {s : State} (run : running s = true) : inKeeping s = false := by
  cases keeping : inKeeping s with
  | false => rfl
  | true => exact absurd run (Bool.eq_false_iff.mp (running_of_inKeeping keeping))

section
variable {s : State}

theorem exec_keepRequest (up : running s = true ∨ inKeeping s = true) : exec .keepRequest s = .next (keepRequest s) :=
  congrArg _ (if_pos (Bool.or_eq_true_iff.mpr up))

theorem keepRequest_keeping (keeping : inKeeping s = true) : keepRequest s = powerAnswer pwState s := if_pos keeping

theorem exec_wakeRequest_keeping (keeping : inKeeping s = true) : exec .wakeRequest s = .next (leaveKeeping s) :=
  congrArg _ (if_pos keeping)

section
variable (run : running s = true)
include run

theorem keepRequest_busy (unwaited : keepTime s = 0) (busy : quiescent s = false) :
    keepRequest s = powerAnswer pwBusy s := by
  simp only [keepRequest, inKeeping_of_running run, Bool.false_eq_true, if_false, unwaited, busy, and_self, if_true]

/-- The first KEEP notes the time from which KEEP_WAIT counts (R475). -/
theorem keepRequest_begins (waits : keepTime s ≠ 0 ∨ quiescent s = true) (first : s.power.keepSince = none) :
    keepRequest s = modPower (fun p => { p with keepSince := some s.clk.mono }) s := by
  have accepted : ¬ (keepTime s = 0 ∧ quiescent s = false) := fun ⟨unwaited, busy⟩ =>
    waits.elim (fun w => w unwaited) fun q => Bool.eq_false_iff.mp busy q
  simp only [keepRequest, inKeeping_of_running run, Bool.false_eq_true, if_false, if_neg accepted]
  simp only [modPower, first, Option.getD_none]

theorem exec_wakeRequest_running : exec .wakeRequest s = .next (powerAnswer pwState s) := by
  simp only [exec, execWakeRequest, inKeeping_of_running run, Bool.false_eq_true, if_false, run, if_true]

end
end

/-- The device in keeping, before its servo loses a fabric port as source (R162, R444, R476). -/
def keepEntered (s : State) : State :=
  { s with
    insts := tmap s.insts fun _ x => { x with keys := [] }
    fabric := { s.fabric with ports := s.fabric.ports.map silencePort, inject := [], ejected := [] }
    shelf := { s.shelf with ready := false }
    store := { s.store with ready := false }
    runs := []
    power := { s.power with st := .keeping, result := pwOk, keepSince := none, gated := true } }

theorem exec_keepEntry {s : State} (run : running s = true) (asked : s.power.keepSince.isSome = true)
    (quiet : quiescent s = true) : exec .keepEntry s = .next (holdServo (keepEntered s)) := by
  simp only [exec, execKeepEntry, run, asked, quiet, Bool.and_self, if_true]
  rfl

/-- The source of the servo is a fabric port, and the servo follows it (R476). -/
def portDisciplined (s : State) : Prop :=
  timeSource s = 1 ∧ ptpPort s < 48 ∧ (s.time.servo = .locked ∨ s.time.servo = .acquiring)

theorem holdServo_follows {s : State} (follows : portDisciplined s) :
    holdServo s = if holdoverLimit s = 0
      then latchHoldover (latch (event 9 1 0 0 (intCode 64 s.time.offset)) (modTime (fun t => { t with
        servo := .holdover, inRange := 0, holdSince := some s.clk.mono, holdLatched := false }) s))
      else latch (event 9 1 0 0 (intCode 64 s.time.offset)) (modTime (fun t => { t with
        servo := .holdover, inRange := 0, holdSince := some s.clk.mono, holdLatched := false }) s) :=
  if_pos follows

theorem holdServo_free {s : State} (free : ¬ portDisciplined s) : holdServo s = s := if_neg free

/-- KEEP_WAIT runs out (R475). -/
theorem exec_keepWaitExpiry {s : State} {t : Nat} (run : running s = true) (busy : quiescent s = false)
    (since : s.power.keepSince = some t) : exec .keepWaitExpiry s = .next (placeAll (scanBells (modPower (fun p =>
      { p with result := pwBusy, keepSince := none }) (waitMono (t + keepTime s) s)))) := by
  simp only [exec, execKeepWaitExpiry, run, busy, Bool.not_false, Bool.and_self, if_true, keepExpiry, since]

/-! ### Rails -/

theorem exec_railFault {s : State} {r m : Nat} (power : powered s = true) (bad : railBad r m = true) :
    exec (.railFault r m) s =
      .next (if r = 0 ∧ m = 0 then powerDown s else placeAll (latch (event 10 3 4 r m) s)) := by
  simp only [exec, execRailFault, power, bad, Bool.and_self, if_true]

/-- A reading is outside the tolerance of its rail below or above it (R515). -/
theorem railBad_iff {r v p : Nat} (rail : railLimits[r]? = some (v, p)) (m : Nat) :
    railBad r m = true ↔ (m * 100 < v * (100 - p) ∨ v * (100 + p) < m * 100) := by
  simp only [railBad, rail, Bool.or_eq_true, decide_eq_true_eq]

/-! ### The obligation -/

/-- Settles O45: samples by their hottest sensor, gating and ungating, the ways into keeping and out of it, and the rails. -/
theorem powerStatesChange : Obligations.PowerStatesChange := by
  unfold Obligations.PowerStatesChange
  refine ⟨?cool, ?warm, ?critical, ?gate, ?ungate, ?request, ?keeping, ?entry, ?servo, ?expiry, ?rail, ?limits⟩
  case cool =>
    intro s l power sensors cool
    have warm := hotSensor_of_le cool
    have hot := hotSensor_of_le (limit := 105) fun c hc => Nat.le_trans (cool c hc) (by decide)
    rw [exec_tempSample power sensors, tempSample_cool warm hot]
    exact ⟨_, rfl, rfl, rfl, rfl, rfl⟩
  case warm =>
    intro s l k c power sensors warm hot
    rw [exec_tempSample power sensors, tempSample_warm warm hot]
    exact ⟨_, rfl, rfl⟩
  case critical =>
    intro s l k c j d power sensors warm hot
    rw [exec_tempSample power sensors, tempSample_critical warm hot]
    exact ⟨_, rfl, rfl⟩
  case gate =>
    intro s u run waited active still undue ahead
    rw [exec_idleGate run, idleGate_gates waited active still undue ahead]
  case ungate =>
    intro s run idle
    rw [exec_pressUngate run]
    exact ⟨fun due => congrArg _ (pressUngate_due idle due),
      fun t undue next => congrArg _ (pressUngate_planned idle undue next), rfl⟩
  case request =>
    intro s run
    rw [exec_keepRequest (.inl run)]
    exact ⟨fun unwaited busy => congrArg _ (keepRequest_busy run unwaited busy),
      fun waits first => congrArg _ (keepRequest_begins run waits first), exec_wakeRequest_running run⟩
  case keeping =>
    intro s keeping
    rw [exec_keepRequest (.inr keeping), keepRequest_keeping keeping]
    exact ⟨rfl, exec_wakeRequest_keeping keeping⟩
  case entry =>
    intro s run asked quiet
    exact ⟨keepEntered s, exec_keepEntry run asked quiet, rfl, rfl, rfl, rfl, rfl, rfl, rfl, rfl, rfl,
      fun free => holdServo_free (s := keepEntered s) free⟩
  case servo =>
    intro s source port follows
    exact ⟨_, rfl, holdServo_follows ⟨source, port, follows⟩⟩
  case expiry =>
    intro s t run busy since
    exact exec_keepWaitExpiry run busy since
  case rail =>
    intro s r m power bad
    exact ⟨exec_railFault power bad, rfl⟩
  case limits =>
    intro r m v p rail
    exact railBad_iff rail m

end Sys2Proof.Machine
end

section
/-! PROOFS. The steward's commands (17_instances.md R417 to R424): by which channel a frame comes, what refuses it, and what each
command does; the parked sets that KEEP_LIST, KEEP_CLAIM and KEEP_DISCARD name (06_memory_tiers.md R159 to R161). -/
namespace Sys2Proof.Machine

/-! ### Channels -/

/-- A command of the steward is its code of R418. -/
theorem exec_stewardCommand {ch : StwChannel} {c : Nat × Instr} (listed : c ∈ stewardCommands ch) (s : State) :
    exec c.2 s = .next (stwCommand c.1 ch s) := by
  simp only [stewardCommands, List.mem_cons, List.not_mem_nil, or_false] at listed
  rcases listed with rfl | rfl | rfl | rfl | rfl | rfl | rfl | rfl <;> rfl

section
variable {s : State} (run : running s = true)
include run

theorem stwCommand_mailbox {u : State} {bs : List Byte} (read : readFrame s = (some bs, u)) :
    stwCommand (stwCmd (wordsOf bs 4)) .mailbox s = if s.steward.busy then s else stwRun .mailbox bs u := by
  simp only [stwCommand, run, Bool.not_true, Bool.false_eq_true, if_false, read, if_true, stwGo]

/-- The result of a frame that cannot be read is open (log entry 93). -/
theorem stwCommand_unreadable {u : State} (read : readFrame s = (none, u)) (cmd : Nat) :
    stwCommand cmd .mailbox s = if s.steward.busy then s else modSteward (fun t => { t with
      result := (freeWord u).1.toNat % 10, seq := (freeWord u).1.toNat / 16 % 65536 }) (freeWord u).2 := by
  simp only [stwCommand, run, Bool.not_true, Bool.false_eq_true, if_false, read, stwGo]

theorem stwCommand_mgmtPort (n : Nat) (bs : List Byte) : stwCommand (stwCmd (wordsOf bs 4)) (.mgmtPort n bs) s =
    if managerSession s n then stwRun (.mgmtPort n bs) bs s else mgmtDiscard s := by
  simp only [stwCommand, run, Bool.not_true, Bool.false_eq_true, if_false, ne_eq, not_true_eq_false]

end

/-! ### Refusals before the command -/

/-- The commands of R418 by their codes. -/
def stwKnown (c : Nat) : Prop :=
  c = 1 ∨ c = 2 ∨ c = 3 ∨ c = 4 ∨ c = 5 ∨ c = 0x10 ∨ c = 0x11 ∨ c = 0x12

/-- What a frame that nothing refuses does. -/
def stwServe (ch : StwChannel) (bs : List Byte) (s : State) : State :=
  let w := wordsOf bs 4
  let r := wordsOf (bs.drop 32) 16
  if stwCmd w = 1 then createInst ch w r s
  else if stwCmd w = 2 then resetByFrame true ch w s
  else if stwCmd w = 3 then resetByFrame false ch w s
  else if stwCmd w = 4 then queryInst ch w s
  else if stwCmd w = 5 then setInst ch w r s
  else if stwCmd w = 0x10 then listSet ch w s
  else if stwCmd w = 0x11 then claimSet ch w s
  else discardSet ch w s

section
variable {bs : List Byte} (known : stwKnown (stwCmd (wordsOf bs 4))) (ch : StwChannel) {s : State}
include known

theorem stwRun_malformed (bad : stwBad s (wordsOf bs 4) = true) : stwRun ch bs s = stwReply ch (wordsOf bs 4) swRange [] s :=
  (if_neg (not_not_intro known)).trans (if_pos bad)

theorem stwRun_busy (fit : stwBad s (wordsOf bs 4) = false) (busy : stwBusy s ch (wordsOf bs 4) = true) :
    stwRun ch bs s = stwReply ch (wordsOf bs 4) swBusy [] s :=
  (if_neg (not_not_intro known)).trans ((if_neg (Bool.eq_false_iff.mp fit)).trans (if_pos busy))

theorem stwRun_serves (fit : stwBad s (wordsOf bs 4) = false) (free : stwBusy s ch (wordsOf bs 4) = false) :
    stwRun ch bs s = stwServe ch bs s :=
  (if_neg (not_not_intro known)).trans ((if_neg (Bool.eq_false_iff.mp fit)).trans (if_neg (Bool.eq_false_iff.mp free)))

end

/-! ### INST_RESET and INST_DESTROY -/

section
variable {s : State} {w : List Word} (b : Bool) (ch : StwChannel)

theorem resetByFrame_absent (absent : (getInst s (stwInst w)).st = .absent) :
    resetByFrame b ch w s = stwReply ch w swAbsent [] s := if_pos absent

/-- Once the clearing is done, only the share is still to return: the frame is answered at once (R424). -/
theorem resetByFrame_cleared (resetting : (getInst s (stwInst w)).st = .resetting)
    (done : (getInst s (stwInst w)).clearing = true) :
    resetByFrame b ch w s = stwReply ch w swOk [] (resetInst (stwInst w) b s) := by
  simp only [resetByFrame, resetting, done, reduceCtorEq, if_false, and_self, if_true]

/-- Otherwise the answer waits for the clearing (R420). -/
theorem resetByFrame_waits (present : (getInst s (stwInst w)).st ≠ .absent)
    (before : (getInst s (stwInst w)).st = .active ∨ (getInst s (stwInst w)).clearing = false) :
    resetByFrame b ch w s = modSteward (fun t => { t with busy := t.busy || decide (ch = .mailbox) })
      (modInst (stwInst w) (fun y => { y with answers := y.answers ++ [(ch, stwCmd w, stwSeq w)] })
        (resetInst (stwInst w) b s)) := by
  have uncleared : ¬ ((getInst s (stwInst w)).st = .resetting ∧ (getInst s (stwInst w)).clearing = true) := by
    rintro ⟨resetting, done⟩
    rcases before with active | clearing
    · rw [active] at resetting; cases resetting
    · rw [clearing] at done; cases done
  simp only [resetByFrame, if_neg present, if_neg uncleared]

end

/-! ### Parked sets -/

/-- The state without the oldest set parked under a token. -/
def withoutSet (token : Word) (s : State) : State :=
  modSteward (fun t => { t with parked := delFirst t.parked (fun y => y.token == token) }) s

section
variable {s : State} {w : List Word} (ch : StwChannel)

section
variable {p : ParkedSet} (oldest : oldestSet s (stwToken w) = some p)
include oldest

theorem listSet_present : listSet ch w s = stwReply ch w swOk (bytesOf (p.segs.flatMap listEntry)) s := by
  simp only [listSet, oldest]

theorem discardSet_present : discardSet ch w s = stwReply ch w swOk [] (reclaim
    (each (p.segs.filterMap fun y => freedBy y.seg Seg.empty) freeStorage (withoutSet (stwToken w) s))) := by
  simp only [discardSet, oldest, withoutSet]

/-- A place of the set is taken, or its segments overlap others there. -/
def claimOccupied (p : ParkedSet) (x : Inst) : Bool :=
  (p.segs.any fun y => (x.segs.getD y.index Seg.empty).en) || (List.range 16).any (overlapAt (enterSet p x.segs))

section
variable (active : (getInst s (stwTarget w)).st = .active)
include active

theorem claimSet_occupied (taken : claimOccupied p (getInst s (stwTarget w)) = true) :
    claimSet ch w s = stwReply ch w swOccupied [] s := by
  simp only [claimSet, oldest, active, reduceCtorEq, if_false]
  exact if_pos taken

/-- The set leaves the parked ones, LOST storage reads zeros, and the target's table and DEV_GEN change (R161, R201). -/
theorem claimSet_enters (free : claimOccupied p (getInst s (stwTarget w)) = false)
    (room : ∀ y ∈ p.segs, tierUnits (tierOfKind y.seg.kind) (enterSet p (getInst s (stwTarget w)).segs) ≤
      tierQuota (getInst s (stwTarget w)) (tierOfKind y.seg.kind)) :
    claimSet ch w s = stwReply ch w swOk [] (modInst (stwTarget w) (fun y => { y with
      segs := enterSet p (getInst s (stwTarget w)).segs, devGen := (y.devGen + 1) % 2 ^ 32 })
      (each (p.segs.filter (·.lost)) (fun y => untouch y.seg) (withoutSet (stwToken w) s))) := by
  have within : ((p.segs.map fun y => tierOfKind y.seg.kind).any fun t =>
      decide (tierQuota (getInst s (stwTarget w)) t < tierUnits t (enterSet p (getInst s (stwTarget w)).segs))) = false := by
    rw [List.any_map, List.any_eq_false]
    intro y hy
    simpa only [Function.comp_apply, decide_eq_true_eq, Nat.not_lt] using room y hy
  simp only [claimSet, oldest, active, reduceCtorEq, if_false, within, Bool.false_eq_true]
  exact if_neg (Bool.eq_false_iff.mp free)

end
end

section
variable (unparked : oldestSet s (stwToken w) = none)
include unparked

theorem listSet_absent : listSet ch w s = stwReply ch w swAbsent [] s := by simp only [listSet, unparked]
theorem claimSet_absent : claimSet ch w s = stwReply ch w swAbsent [] s := by simp only [claimSet, unparked]
theorem discardSet_absent : discardSet ch w s = stwReply ch w swAbsent [] s := by simp only [discardSet, unparked]

end
end

/-! ### The obligation -/

/-- Settles O47: frames by channel, the refusals before a command, and each command by the state it finds. -/
theorem stewardAnswers : Obligations.StewardAnswers := by
  unfold Obligations.StewardAnswers
  refine ⟨?mailbox, ?unreadable, ?port, ?order, ?create, ?setAndQuery, ?reset, ?present, ?absent, ?claim, ?reply⟩
  case mailbox =>
    intro s u bs c run listed read code
    rw [exec_stewardCommand listed, ← code, stwCommand_mailbox run read]
  case unreadable =>
    intro s u c run listed read
    rw [exec_stewardCommand listed, stwCommand_unreadable run read]
    rfl
  case port =>
    intro s n bs c run listed code
    rw [exec_stewardCommand listed, ← code, stwCommand_mgmtPort run]
  case order =>
    intro s ch bs w frame known
    subst frame
    exact ⟨stwRun_malformed known ch, stwRun_busy known ch, stwRun_serves known ch⟩
  case create =>
    intro s ch w r
    rfl
  case setAndQuery =>
    intro s ch w r x named
    subst named
    exact ⟨rfl, rfl⟩
  case reset =>
    intro s ch w x b named
    subst named
    exact ⟨resetByFrame_absent b ch, resetByFrame_cleared b ch, resetByFrame_waits b ch⟩
  case present =>
    intro s ch w p oldest
    exact ⟨listSet_present ch oldest, discardSet_present ch oldest⟩
  case absent =>
    intro s ch w unparked
    exact ⟨listSet_absent ch unparked, claimSet_absent ch unparked, discardSet_absent ch unparked⟩
  case claim =>
    intro s ch w p x oldest named active
    subst named
    exact ⟨claimSet_occupied ch oldest active, claimSet_enters ch oldest active⟩
  case reply =>
    intro s w b l
    exact ⟨_, rfl, rfl, fun n bs => rfl⟩

end Sys2Proof.Machine
end

section
/-! PROOFS. What the tiers do by themselves (06_memory_tiers.md R150 to R171): scrubbing, background clearing, the loss and the
return of parts, and the training of the tiers and of the expanders (16_hatches.md R406; 21_startup_forme.md R481). -/
namespace Sys2Proof.Machine

/-! ### What is known of a line -/

theorem badLine_line (x : TierSt) (line : Nat) : (badLine x line).line = line := by
  unfold badLine
  cases found : x.bad.find? fun b => b.line == line with
  | none => rfl
  | some b => exact beq_iff_eq.mp (List.find?_some (p := fun b : BadLine => b.line == line) found)

/-- What is put of a line is known of it; a line found clean in both copies is known as any other. -/
theorem badLine_setBad (b : BadLine) (x : TierSt) : badLine (setBad b x) b.line =
    if b.primary = .clean ∧ b.copy = .clean then { line := b.line, primary := .clean, copy := .clean, latched := false }
    else b := by
  have others : (x.bad.filter fun c => c.line != b.line).find? (fun c => c.line == b.line) = none := by
    rw [List.find?_eq_none]
    intro c hc
    simpa only [bne_iff_ne, beq_iff_eq] using (List.mem_filter.mp hc).2
  by_cases clean : b.primary = .clean ∧ b.copy = .clean
  · simp only [setBad, badLine, if_pos clean, others, Option.getD_none]
  · simp only [setBad, badLine, if_neg clean, List.find?_append, others, List.find?_singleton, beq_self_eq_true, if_true,
      Option.none_or, Option.getD_some]

theorem badLine_setBad_primary (b : BadLine) (x : TierSt) : (badLine (setBad b x) b.line).primary = b.primary := by
  rw [badLine_setBad]
  split
  · next clean => exact clean.1.symm
  · rfl

theorem badLine_setBad_copy (b : BadLine) (x : TierSt) : (badLine (setBad b x) b.line).copy = b.copy := by
  rw [badLine_setBad]
  split
  · next clean => exact clean.2.symm
  · rfl

theorem setBad_resync (b : BadLine) (x : TierSt) : (setBad b x).resync = x.resync := by
  unfold setBad
  dsimp only
  split <;> rfl

/-! ### Background clearing -/

theorem exec_backgroundClear {s : State} {t : Tier} {k : Nat} (clears : clearsTier s t k = true)
    (within : k * 65536 < tierBytes s t) : exec (.backgroundClear t k) s =
    .next (latchAll (clearGranule t (k * 65536) s).1 (clearGranule t (k * 65536) s).2) := by
  simp only [exec, execBackgroundClear, clears, within, decide_true, Bool.and_self, if_true]

theorem clearGranule_touched {s : State} {t : Tier} {off : Nat} (touched : isTouched (getTier s t) off = true) :
    clearGranule t off s = ([], s) := if_pos touched

/-- The check of the failing lines of granule k before it is zeroed, with its events (R147). -/
def clearedLines (t : Tier) (k : Nat) (s : State) : List Event × State :=
  ((getTier s t).bad.filter fun b => b.line / 1024 == k).foldl (fun (r : List Event × State) b =>
    (r.1 ++ (clearedLine t b r.2).1, (clearedLine t b r.2).2)) ([], s)

theorem clearGranule_untouched {s : State} {t : Tier} {k : Nat} (untouched : isTouched (getTier s t) (k * 65536) = false) :
    clearGranule t (k * 65536) s = ((clearedLines t k s).1, modTier t (touch (k * 65536)) (clearedLines t k s).2) := by
  have granule : k * 65536 / 65536 = k := Nat.mul_div_cancel k (by decide)
  simp only [clearGranule, untouched, Bool.false_eq_true, if_false, granule]
  rfl

/-! ### Scrubbing -/

theorem exec_scrubPass {s : State} {t : Tier} {l : Nat} (active : tierActive s t = true) (scrubs : scrubHours s t ≠ 0)
    (touched : isTouched (getTier s t) (l * 64) = true) (within : l * 64 < tierBytes s t) (a b : Upset) :
    exec (.scrubPass t l a b) s = .next (scrubPass t l a b s) := by
  simp only [exec, execScrubPass, active, scrubs, touched, within, ne_eq, not_false_eq_true, decide_true, Bool.and_self,
    if_true]

/-- The pass latches what its read found and then what the repair of the copy found (R150, R154). -/
theorem scrubPass_latches {s u v : State} {t : Tier} {l : Nat} {a b : Upset} {r : LineRead} {e : List Event}
    (read : readLine t (inTwinPool s t (l * 64)) l (modTier t (scrubNote (inTwinPool s t (l * 64)) l a b) s) = (r, u))
    (repair : (if inTwinPool s t (l * 64) && !upsetFails (badLine (getTier u t) l).primary &&
      !partLost u t (twinPart u t (partOf u t (l * 64))) then repairCopy t l u else ([], u)) = (e, v)) :
    scrubPass t l a b s = latchAll e (latchAll r.events v) := by
  simp only [scrubPass, read, repair]

/-! ### Parts lost -/

theorem exec_partLoss {s : State} {t : Tier} {p : Nat} (power : powered s = true) (part : isPart s t p = true)
    (present : (getTier s t).lost.contains p = false) : exec (.partLoss t p) s = .next (losePart t p s) := by
  simp only [exec, execPartLoss, power, part, present, Bool.not_false, Bool.and_self, if_true]

/-- A lost part is marked and counted, its parked storage is LOST, and its event names its first device (R155, R161). -/
theorem losePart_eq (t : Tier) (p : Nat) (s : State) : losePart t p s =
    latch (event (2 + tierCode t) 6 3 (if t = .shelf then p * 32 else p) (partOffset s t p))
      (loseParked t p (modTier t (fun x => { x with lost := addNew x.lost p, copiesLost := satAdd 8 x.copiesLost 1 }) s)) := by
  cases t <;> rfl

theorem exec_cellarLinkDown {s : State} {h : Nat} (power : powered s = true) (cellar : role s h = 1)
    (up : hatchUp s h = true) : exec (.cellarLinkDown h) s = .next (cellarLinkDown h s) := by
  simp only [exec, execCellarLinkDown, power, cellar, up, decide_true, Bool.and_self, if_true]

/-! ### The return of an expander -/

theorem exec_cellarLinkUp {s : State} {h : Nat} (power : powered s = true) (cellar : role s h = 1)
    (down : (getHatch s h).link = .down) (capacity : 0 < (getHatch s h).expander) :
    exec (.cellarLinkUp h) s = .next (cellarLinkUp h s) := by
  simp only [exec, execCellarLinkUp, power, cellar, down, capacity, decide_true, Bool.and_self, if_true]

/-- The link of a hatch is up again. -/
def linkBack (h : Nat) (s : State) : State := modHatch h (fun x => { x with link := .up, downSince := none }) s

/-- The cellar with the expander of a hatch no longer lost. -/
def partBack (h : Nat) (x : TierSt) : TierSt := { x with lost := x.lost.filter (· != h) }

/-- An expander outside CELLAR_PAIR holds plain storage alone, which is untouched when it returns (R171). -/
theorem cellarLinkUp_plain {s : State} {h : Nat} (unpaired : ∀ x, cellarPair s = some x → h ≠ x.1 ∧ h ≠ x.2) :
    cellarLinkUp h s = loseParked .cellar h (modTier .cellar (fun x =>
      cellarLinkUp.clearPlain (expanderAt s h).1 (expanderAt s h).2 (partBack h x)) (linkBack h s)) := by
  cases pair : cellarPair s with
  | none =>
    simp only [cellarLinkUp, pair]
    rfl
  | some x =>
    obtain ⟨notFirst, notSecond⟩ := unpaired x pair
    simp only [cellarLinkUp, pair, notFirst, notSecond, or_self, if_false]
    rfl

section
variable {s : State} {h a b : Nat} (pair : cellarPair s = some (a, b)) (member : h = a ∨ h = b)
include pair member

/-- Where the other expander of the pair is lost too, nothing is left to rewrite from. -/
theorem cellarLinkUp_alone (lost : partLost s .cellar (if h = a then b else a) = true) :
    cellarLinkUp h s = modTier .cellar (fun x =>
      cellarLinkUp.clearPlain (expanderAt s a).1 (expanderAt s a).2 (partBack h x)) (linkBack h s) := by
  simp only [cellarLinkUp, pair, if_pos member, lost, if_true]
  rfl

/-- Otherwise every touched line of the pair is to be rewritten, or has its copy fail until then (R156, R171). -/
theorem cellarLinkUp_paired (present : partLost s .cellar (if h = a then b else a) = false) :
    cellarLinkUp h s = modTier .cellar (fun x => (linesIn (granulesOn s a)).foldl
      (fun y l => cellarLinkUp.twinBack (decide (h = a)) l y) (partBack h x)) (linkBack h s) := by
  simp only [cellarLinkUp, pair, if_pos member, present, Bool.false_eq_true, if_false]
  rfl

end

theorem twinBack_primary {x : TierSt} {l : Nat} (held : upsetFails (badLine x l).copy = false) :
    cellarLinkUp.twinBack true l x = { x with resync := addNew x.resync l } := by
  simp only [cellarLinkUp.twinBack, held, if_true, Bool.false_eq_true, if_false]

theorem twinBack_copy {x : TierSt} {l : Nat} (settled : x.resync.contains l = false)
    (held : upsetFails (badLine x l).primary = false) :
    cellarLinkUp.twinBack false l x = setBad { badLine x l with copy := .soft } x := by
  simp only [cellarLinkUp.twinBack, settled, held, Bool.or_self, Bool.false_eq_true, if_false]

/-! ### Resynchronisation -/

theorem exec_twinResync {s : State} (run : running s = true) (ready : resyncReady s = true) (l : Nat) :
    exec (.twinResync l) s = .next (twinResync l s) := by
  simp only [exec, execTwinResync, run, ready, Bool.and_self, if_true]

section
variable {s : State} {l : Nat}

/-- A primary that awaits its rewriting is clean afterwards, and awaits it no more. -/
theorem twinResync_primary (due : s.cellar.resync.contains l = true)
    (held : upsetFails (badLine s.cellar l).copy = false) : (twinResync l s).cellar =
      { setBad { badLine s.cellar l with primary := .clean } s.cellar with resync := s.cellar.resync.filter (· != l) } := by
  simp only [twinResync, modTier, due, held, Bool.false_eq_true, and_false, if_false, if_true]

/-- Without a copy to read it stays as it is. -/
theorem twinResync_unreadable (due : s.cellar.resync.contains l = true)
    (failed : upsetFails (badLine s.cellar l).copy = true) : twinResync l s = s := by
  simp only [twinResync, modTier, due, failed, and_self, if_true]

/-- A failing copy is rewritten from a primary that answers. -/
theorem twinResync_copy (settled : s.cellar.resync.contains l = false)
    (failed : upsetFails (badLine s.cellar l).copy = true) (held : upsetFails (badLine s.cellar l).primary = false) :
    (twinResync l s).cellar = setBad { badLine s.cellar l with copy := .clean } s.cellar := by
  simp only [twinResync, modTier, settled, failed, held, Bool.false_eq_true, false_and, not_false_eq_true, and_self,
    if_false, if_true]

end

/-! ### Training -/

theorem exec_tierTrainingDone {s : State} (start : starting s = true) (untrained : s.boot.tiersTrained = false)
    (called : keptTiers s = false ∨ s.boot.formePending.isSome = true) (g r : Nat) (m : Bool) :
    exec (.tierTrainingDone g r m) s = .next (tiersTrain g r m s) := by
  have trains : (!keptTiers s || s.boot.formePending.isSome) = true := by
    rcases called with fresh | pending
    · rw [fresh]; rfl
    · rw [pending, Bool.or_true]
  simp only [exec, execTierTrainingDone, start, untrained, trains, Bool.not_false, Bool.and_self, if_true]

/-- The tiers with the capacity that training gives them (R168). -/
def tiersTrained (g r : Nat) (m : Bool) (s : State) : State :=
  { s with
    shelf := { s.shelf with capacity := 618475290624, ready := true }
    store := { s.store with capacity := storeBytes g m, ready := decide (0 < storeBytes g m) }
    boot := { s.boot with tiersTrained := true, storeRate := r } }

/-- A tier plate other than the one of the kept tiers ends what they kept (R481). -/
theorem tiersTrain_eq (g r : Nat) (m : Bool) (s : State) : tiersTrain g r m s = placeAll (continueForme
    (if keptTiers s && !(s.boot.formePending.any fun p => p.digests.getD 3 [] == s.boot.keptTier)
      then loseKept (if storeBytes g m = 0 then latch (event 3 8 3 0 0) (tiersTrained g r m s) else tiersTrained g r m s)
      else if storeBytes g m = 0 then latch (event 3 8 3 0 0) (tiersTrained g r m s) else tiersTrained g r m s)) := by
  cases pending : s.boot.formePending <;> simp only [tiersTrain, pending, Option.any_none, Option.any_some, tiersTrained]

theorem exec_cellarTrainingDone {s : State} {h : Nat} (configures : s.startup = .configuring) (cellar : role s h = 1)
    (trains : (getHatch s h).link = .training) (g : Nat) (c : Bool) (n : Nat) :
    exec (.cellarTrainingDone h g c n) s = .next (cellarTrained h g c n s) := by
  simp only [exec, execCellarTrainingDone, configures, cellar, trains, decide_true, Bool.and_self, if_true]

/-- An expander that trained has the bytes of its memory, and one without any is latched (R169, R406). -/
theorem cellarTrained_eq (h g : Nat) (c : Bool) (n : Nat) (s : State) : cellarTrained h g c n s =
    placeAll (continueForme (if 0 < (if c = true ∧ 32 ≤ g then expanderBytes n else 0)
      then modHatch h (fun x => { x with
          link := .up
          gen := if 64 ≤ g then 6 else 5
          width := (hatchPlate s h).maxWidth
          expander := expanderBytes n }) { s with cellar := partBack h s.cellar }
      else latch (event 4 8 3 h 0) (modHatch h (fun x => { x with link := .down, expander := 0 }) s))) := by
  by_cases cxl : c = true ∧ 32 ≤ g
  · simp only [cellarTrained, if_pos cxl]
    rfl
  · simp only [cellarTrained, if_neg cxl, Nat.lt_irrefl, if_false]

/-! ### The obligation -/

/-- Settles O51: each of the eight commands by the state it finds. -/
theorem tiersActByThemselves : Obligations.TiersActByThemselves := by
  unfold Obligations.TiersActByThemselves
  refine ⟨?clear, ?scrub, ?loss, ?down, ?plain, ?paired, ?resync, ?train, ?cellar⟩
  case clear =>
    intro s t k clears within
    rw [exec_backgroundClear clears within]
    refine ⟨fun touched => ?_, fun untouched => ⟨clearedLines t k s, rfl, ?_⟩⟩
    · rw [clearGranule_touched touched, latchAll_nil]
    · rw [clearGranule_untouched untouched]
  case scrub =>
    intro s u v t l a b r e active scrubs touched within read repair
    rw [exec_scrubPass active scrubs touched within, scrubPass_latches read repair]
  case loss =>
    intro s t p power part present
    rw [exec_partLoss power part present, losePart_eq]
    exact ⟨_, rfl, rfl⟩
  case down =>
    intro s u h power cellar up waited
    subst waited
    rw [exec_cellarLinkDown power cellar up]
    rfl
  case plain =>
    intro s h power cellar down capacity unpaired
    rw [exec_cellarLinkUp power cellar down capacity, cellarLinkUp_plain unpaired]
    exact ⟨_, rfl, rfl, rfl, rfl, rfl⟩
  case paired =>
    intro s u h a b power cellar down capacity pair member up
    subst up
    rw [exec_cellarLinkUp power cellar down capacity]
    refine ⟨fun present => ?_, fun lost => ?_, fun x l => ⟨fun _ => twinBack_primary, fun _ => twinBack_copy⟩⟩
    · rw [cellarLinkUp_paired pair member present]
      rfl
    · rw [cellarLinkUp_alone pair member lost]
      rfl
  case resync =>
    intro s l run ready
    have line := badLine_line s.cellar l
    refine ⟨_, exec_twinResync run ready l, rfl, fun due held => ?_, twinResync_unreadable,
      fun settled failed held => ?_⟩
    · rw [twinResync_primary due held]
      refine ⟨rfl, ?_⟩
      have known := badLine_setBad_primary { badLine s.cellar l with primary := .clean } s.cellar
      rwa [line] at known
    · rw [twinResync_copy settled failed held]
      refine ⟨setBad_resync _ _, ?_⟩
      have known := badLine_setBad_copy { badLine s.cellar l with copy := .clean } s.cellar
      rwa [line] at known
  case train =>
    intro s g r m start untrained called
    rw [exec_tierTrainingDone start untrained called, tiersTrain_eq]
    exact ⟨_, _, rfl, rfl, rfl⟩
  case cellar =>
    intro s h g n c configures cellar trains
    rw [exec_cellarTrainingDone configures cellar trains, cellarTrained_eq]
    rfl

end Sys2Proof.Machine
end

section
/-! PROOFS. The manager's window into the galley: what an address names, what a read finds there and what a write leaves
(07_galley.md R173, R179, R181 to R184, R188). -/
namespace Sys2Proof.Machine

/-! ### The instructions where BAR0 answers -/

section
variable {s : State} (opens : mgrOpen s = true)
include opens

theorem exec_galleyWinRead (c : Bool) (f : Upset) : exec (.galleyWinRead ⟨c, f⟩) s = .next (winRead c f s) := by
  simp only [exec, execGalleyWinRead, opens, if_true]

theorem exec_galleyWinWrite (v : Word) (c : Bool) : exec (.galleyWinWrite v c) s = .next (winWrite v c s) := by
  simp only [exec, execGalleyWinWrite, opens, if_true]

theorem exec_galleyCflClear :
    exec .galleyCflClear s = .next { s with galley := { s.galley with conflicts := [] } } := by
  simp only [exec, execGalleyCflClear, opens, if_true, modGalley]

end

/-- Where BAR0 does not answer a read gives ones and the others change nothing. -/
theorem galleyWindow_closed {s : State} (closed : mgrOpen s = false) (c : Bool) (f : Upset) (v : Word) :
    exec (.galleyWinRead ⟨c, f⟩) s = .next (emit (.data (BitVec.allOnes 64)) s) ∧
      exec (.galleyWinWrite v c) s = .next s ∧ exec .galleyCflClear s = .next s := by
  simp only [exec, execGalleyWinRead, execGalleyWinWrite, execGalleyCflClear, closed, Bool.false_eq_true, if_false,
    and_self]

/-! ### The access done -/

@[simp] theorem winDone_mem (busy range : Bool) (ecc : Option Bool) (s : State) :
    (winDone busy range ecc s).galley.mem = s.galley.mem := rfl

/-- INC advances GA by 8, modulo its 26 bits (R181). -/
theorem winDone_advances {s : State} (inc : bit s.galley.winAddr 29 = true) (busy range : Bool) (ecc : Option Bool) :
    fld (winDone busy range ecc s).galley.winAddr 3 26 = (fld s.galley.winAddr 3 26 + 1) % 2 ^ 26 := by
  simp only [winDone, modGalley_galley, inc, if_true]
  exact fld_setFld _ 3 26 _ (by decide)

/-! ### What a read finds -/

/-- What a read finds, by the address instead of the region that it names (R173). -/
theorem winFind_address (s : State) (ga : Nat) :
    winFind s ga = (if ga < 0x0C800000 then
        (if inPool s (ga / 0x200000) then (galleyWord s ga, false, false) else (0, true, false))
      else if 0x10000000 ≤ ga ∧ ga < 0x10000000 + workingBytes s then
        (if laneBad s ga then (0, false, true) else (galleyWord s ga, false, false))
      else if 0x13C00000 ≤ ga ∧ ga < 0x13E00000 then
        (if copyFailed s ((ga - 0x13C00000) / 8) 0 then (0, false, true)
          else (tallyValue s ((ga - 0x13C00000) / 8), false, false))
      else if 0x13E00000 ≤ ga ∧ ga < 0x14000000 then
        (if copyFailed s ((ga - 0x13E00000) / 8) 1 then (0, false, true)
          else (tallyValue s ((ga - 0x13E00000) / 8), false, false))
      else if 0x14000000 ≤ ga ∧ ga < 0x14000000 + workingBytes s then
        (if laneBad s (ga - 0x04000000) then (0, false, true) else (galleyWord s (ga - 0x04000000), false, false))
      else if 0x18000000 ≤ ga ∧ ga < 0x18000000 + workingBytes s then
        (if laneBad s (ga - 0x08000000) then (0, false, true) else (galleyWord s (ga - 0x08000000), false, false))
      else (0, true, false)) := by
  unfold winFind regionOf
  by_cases unit : ga < 0x0C800000
  · simp only [if_pos unit]
  by_cases working : 0x10000000 ≤ ga ∧ ga < 0x10000000 + workingBytes s
  · simp only [if_neg unit, if_pos working]
  by_cases tally : 0x13C00000 ≤ ga ∧ ga < 0x13E00000
  · simp only [if_neg unit, if_neg working, if_pos tally]
  by_cases copy : 0x13E00000 ≤ ga ∧ ga < 0x14000000
  · simp only [if_neg unit, if_neg working, if_neg tally, if_pos copy]
  by_cases sets : 0x14000000 ≤ ga ∧ ga < 0x14000000 + workingBytes s
  · simp only [if_neg unit, if_neg working, if_neg tally, if_neg copy, if_pos sets]
  by_cases clears : 0x18000000 ≤ ga ∧ ga < 0x18000000 + workingBytes s
  · simp only [if_neg unit, if_neg working, if_neg tally, if_neg copy, if_neg sets, if_pos clears]
  · simp only [if_neg unit, if_neg working, if_neg tally, if_neg copy, if_neg sets, if_neg clears]

/-- The events of a read: of an uncorrectable error, or of one that was corrected (R184). -/
def latchRead (range ecc : Bool) (f : Upset) (ga : Nat) (s : State) : State :=
  if ecc then latch (event 1 5 1 (galleySource ga) ga) s
  else if !range && f == .correctable then latch (event 1 1 1 (galleySource ga) ga) s else s

section
variable {s : State} {v : Word} {range known : Bool} (found : winFind s (winGa s) = (v, range, known)) {f : Upset}
  {ecc : Bool} (error : ecc = (known || (!range && (f == .soft || f == .hard)))) {u : State}
  (access : u = if range then s else galleyAccess mWindow (some 1) s) {c : Bool}
include found error access

theorem winRead_alone (alone : (c && (regionOf s (winGa s)).shared) = false) :
    winRead c f s = winDone false range (some ecc)
      (emit (.data (if ecc then 0 else v)) (latchRead range ecc f (winGa s) u)) := by
  subst error access
  simp only [winRead, found, alone, Bool.false_eq_true, if_false, latchRead]

/-- A read that collides with a write returns an undefined word, with BUSY (R182). -/
theorem winRead_collides (collides : (c && (regionOf s (winGa s)).shared) = true) :
    winRead c f s = winDone true range (some ecc)
      (emit (.data (freeWord u).1) (latchRead range ecc f (winGa s) (freeWord u).2)) := by
  subst error access
  simp only [winRead, found, collides, if_true, latchRead]

end

/-! ### What a write does, by the region it reaches -/

section
variable {s : State}

/-- A unit galley lies in no shared bank, so a write to it collides with nothing (R181). -/
theorem winWrite_unit {u : Nat} (unit : regionOf s (winGa s) = .unit u) (v : Word) (c : Bool) :
    winWrite v c s = if inPool s u then winDone false false none (galleyAccess mWindow (some 1)
      (spoilUnit u (putGalley (winGa s) v s))) else winDone false true none s := by
  simp only [winWrite, unit, Region.shared, Bool.and_false]

theorem winWrite_working (working : regionOf s (winGa s) = .working) (v : Word) (c : Bool) :
    winWrite v c s = winDone c false none (galleyAccess mWindow (some 1) (writeLane (winGa s) v s)) := by
  simp only [winWrite, working, Region.shared, Bool.and_true]

theorem winWrite_setAlias {a : Nat} (sets : regionOf s (winGa s) = .setAlias a) (v : Word) (c : Bool) :
    winWrite v c s = winDone c false none (galleyAccess mWindow (some 1) (writeLane a (galleyWord s a ||| v) s)) := by
  simp only [winWrite, sets, Region.shared, Bool.and_true]

theorem winWrite_clearAlias {a : Nat} (clears : regionOf s (winGa s) = .clearAlias a) (v : Word) (c : Bool) :
    winWrite v c s = winDone c false none (galleyAccess mWindow (some 1) (writeLane a (galleyWord s a &&& ~~~v) s)) := by
  simp only [winWrite, clears, Region.shared, Bool.and_true]

/-- Tallies, and what lies outside every region, take no write of the window. -/
theorem winWrite_refused {n : Nat} (region : regionOf s (winGa s) = .tally n ∨ regionOf s (winGa s) = .tallyCopy n ∨
    regionOf s (winGa s) = .none) (v : Word) (c : Bool) : winWrite v c s = winDone false true none s := by
  rcases region with tally | copy | outside
  · simp only [winWrite, tally]
  · simp only [winWrite, copy]
  · simp only [winWrite, outside]

end

/-! ### The obligation -/

/-- Settles O39: what a read finds by its address, and what a write does by the region it reaches. -/
theorem galleyWindowReachesIt : Obligations.GalleyWindowReachesIt := by
  unfold Obligations.GalleyWindowReachesIt
  refine ⟨?read, fun s c f v closed => galleyWindow_closed closed c f v, winFind_address, ?unit, ?lane, ?refused,
    fun s b r e inc => ⟨winDone_advances inc b r e, winDone_mem b r e s⟩, fun s opens => exec_galleyCflClear opens⟩
  case read =>
    intro s u c f ga v range known ecc opens here found error access
    subst here
    rw [exec_galleyWinRead opens]
    exact ⟨fun alone => congrArg _ (winRead_alone found error access alone),
      fun collides => congrArg _ (winRead_collides found error access collides)⟩
  case unit =>
    intro s v c ga u opens here unit
    subst here
    rw [exec_galleyWinWrite opens, winWrite_unit unit]
  case lane =>
    intro s v c ga a opens here region
    subst here
    rw [exec_galleyWinWrite opens]
    rcases region with working | sets | clears
    · rw [winWrite_working working, if_pos working]
    · rw [winWrite_setAlias sets, sets, if_neg (by simp), if_pos rfl]
    · rw [winWrite_clearAlias clears, clears, if_neg (by simp), if_neg (by simp)]
  case refused =>
    intro s v c n opens region
    rw [exec_galleyWinWrite opens, winWrite_refused region]

end Sys2Proof.Machine
end

section
/-! PROOFS. The background tester of the galley: its finding by region, a copy of a tally that fails, and the docket that runs
again (07_galley.md R174, R184, R185; 19_faults_takeover.md R446). -/
namespace Sys2Proof.Machine

/-! ### A column -/

/-- The state with the column that the visit found noted; the tester alone finds one (R185). -/
def columnNoted (ga : Nat) (column : Option Nat) (s : State) : State :=
  (if fld s.galley.ctrl 0 8 = 0 then none else column).elim s fun c => noteColumn ga c s

/-- A failing column changes what its event changes, and the soft-repair list (R185, R186). -/
theorem noteColumn_eq (ga c : Nat) (s : State) :
    ∃ t, t = latch (event 1 7 1 (galleySource ga) c) s ∧ noteColumn ga c s = { t with
      galley := { t.galley with
        softRepair := if t.galley.softRepair.length < 64 then addNew t.galley.softRepair (bankNumber ga, c)
          else t.galley.softRepair } } :=
  ⟨_, rfl, rfl⟩

/-! ### The finding -/

/-- What the lane that a visit found does. -/
def laneFound (w l : Nat) (hold : Option DRef) (f : Upset) (s : State) : State :=
  match f with
  | .clean => s
  | .correctable => latch (event 1 1 1 (galleySource (w * 64)) (w * 64)) s
  | .soft => laneUncorrectable w l false hold s
  | .hard => laneUncorrectable w l true hold s

/-- The two aliases lie above every word that the tester can visit (R173). -/
theorem regionOf_below_aliases {s : State} {ga : Nat} (below : ga < 0x14000000) (a : Nat) :
    regionOf s ga ≠ .setAlias a ∧ regionOf s ga ≠ .clearAlias a := by
  have noSet : ¬ (0x14000000 ≤ ga ∧ ga < 0x14000000 + workingBytes s) := by omega
  have noClear : ¬ (0x18000000 ≤ ga ∧ ga < 0x18000000 + workingBytes s) := by omega
  unfold regionOf
  rw [if_neg noSet, if_neg noClear]
  refine ⟨?_, ?_⟩ <;> (repeat' split) <;> exact Region.noConfusion

/-- In every region that holds words the column is noted before the finding has its outcome. -/
theorem galleyTest_visits {s : State} {w : Nat} (below : w * 64 < 0x14000000) (holds : regionOf s (w * 64) ≠ .none)
    (l : Nat) (f : Upset) (column : Option Nat) (hold : Option DRef) :
    galleyTest w l f column hold s = laneFound w l hold f (columnNoted (w * 64) column s) := by
  simp only [galleyTest, columnNoted]
  generalize (if fld s.galley.ctrl 0 8 = 0 then none else column) = noted
  cases region : regionOf s (w * 64) with
  | unit u => cases noted <;> rfl
  | working => cases noted <;> rfl
  | tally n => cases noted <;> rfl
  | tallyCopy n => cases noted <;> rfl
  | setAlias a => exact absurd region (regionOf_below_aliases below a).1
  | clearAlias a => exact absurd region (regionOf_below_aliases below a).2
  | none => exact absurd region holds

theorem exec_galleyTest {s : State} {hold : Option DRef} (runs : running s = true)
    (called : fld s.galley.ctrl 0 8 ≠ 0 ∨ hold.isSome = true) (w l : Nat) (f : Upset) (column : Option Nat) :
    exec (.galleyTest w l f column hold) s = .next (galleyTest w l f column hold s) := by
  have visits : (decide (fld s.galley.ctrl 0 8 ≠ 0) || hold.isSome) = true := by
    rwa [Bool.or_eq_true, decide_eq_true_eq]
  simp only [exec, execGalleyTest, runs, visits, Bool.and_self, if_true]

/-! ### An uncorrectable lane -/

section
variable {s : State} {w : Nat}

theorem laneUncorrectable_unit {u : Nat} (unit : regionOf s (w * 64) = .unit u) (present : inPool s u = true) (l : Nat)
    (hard : Bool) (hold : Option DRef) :
    laneUncorrectable w l hard hold s = retireUnit 1 u (latch (event 1 2 2 u (w * 64)) s) := by
  simp only [laneUncorrectable, unit, present, if_true]

theorem laneUncorrectable_working (working : regionOf s (w * 64) = .working) (l : Nat) (hard : Bool)
    (hold : Option DRef) :
    laneUncorrectable w l hard hold s = withdrawWord w hold (modGalley (fun g =>
      { g with badLanes := tset g.badLanes (w * 64 / 8 + l) (if hard then .hard else .soft) }) s) := by
  simp only [laneUncorrectable, working]

end

/-- The shared working area without a word, which leaves its free bytes once (R184). -/
def wordWithdrawn (w : Nat) (s : State) : State :=
  if s.galley.withdrawn.contains w then s
  else modGalley (fun g => { g with withdrawn := g.withdrawn ++ [w], free := g.free - 64 }) s

theorem withdrawWord_free (w : Nat) (s : State) :
    withdrawWord w none s = latch (event 1 3 2 (galleySource (w * 64)) (w * 64)) (wordWithdrawn w s) := rfl

theorem withdrawWord_held (w : Nat) (d : DRef) (s : State) :
    withdrawWord w (some d) s = rerunPress d (w * 64) (wordWithdrawn w s) := rfl

/-! ### A copy of a tally -/

section
variable {s : State} {n copy : Nat}

/-- Both copies lost leave the tally 0 and end its waits (R174). -/
theorem tallyCopyFails_lost (other : copyFailed s n (1 - copy) = true) (hard : Bool) :
    tallyCopyFails n copy hard s = (tallyOwner s n).elim (latch (tallyEvent 6 3 n) (putTally n 0 s)) fun p =>
      failWaits p.1 p.2 (latch (tallyEvent 6 3 n) (putTally n 0 s)) := by
  unfold tallyCopyFails
  rw [if_pos other]
  cases tallyOwner s n <;> rfl

/-- The other copy serves; the failed one is marked where no rewrite repairs it (R184). -/
theorem tallyCopyFails_served (other : copyFailed s n (1 - copy) = false) (whole : copyFailed s n copy = false)
    (hard : Bool) :
    tallyCopyFails n copy hard s = if hard then modGalley (fun g =>
        { g with tallyFailed := tset g.tallyFailed n ((tget s.galley.tallyFailed n).getD 0 + 2 ^ copy) })
        (if copy = 0 then latch (tallyEvent 5 1 n) s else s)
      else if copy = 0 then latch (tallyEvent 5 1 n) s else s := by
  simp only [tallyCopyFails, other, whole, Bool.false_eq_true, if_false, Bool.not_false, Bool.and_true]

end

/-! ### The docket whose shared galley lost a word -/

/-- A press operation before its galley is written, that has run once. -/
def pressAgain (p : PressRun) : PressRun := { newPress p.order with galley := p.galley, twin := p.twin, rerun := true }

/-- The draw permits of a docket and its places in the line for them given back (R467). -/
def permitsBack (d : DRef) (s : State) : State :=
  modPower (fun y => { y with
    permits := delFirst y.permits (fun x => x.d == d), waits := y.waits.filter fun x => x.d != d }) (meter s)

section
variable {s : State} {d : DRef} {q : Queue} {r : Run} {p : PressRun}
  (holder : ((pressRuns s).find? fun x => x.1 == d && decide (0 < x.2.2.2.galley)) = some (d, q, r, p))
include holder

theorem rerunPress_first (first : p.rerun = false) (ga : Nat) :
    rerunPress d ga s = checkOperands d q { r with press := some (pressAgain p) } (modPressRun d r.ord
      (fun _ => pressAgain p) (latch (event 1 3 2 (galleySource ga) ga) (permitsBack d s))) := by
  simp only [rerunPress, holder, first, Bool.false_eq_true, if_false, pressAgain, permitsBack]

theorem rerunPress_second (second : p.rerun = true) (ga : Nat) :
    rerunPress d ga s = endPress d q r (settledAs stDataError 0 5) (latch (event 1 4 3 (galleySource ga) ga)
      (if r.started then undefRanges r.segs (outRanges (runWords q r)) (permitsBack d s) else permitsBack d s)) := by
  simp only [rerunPress, holder, second, if_true, permitsBack]

end

/-! ### The obligation -/

/-- Settles O40: the finding by region, and the outcome of an uncorrectable lane in each. -/
theorem galleyTesterFinds : Obligations.GalleyTesterFinds := by
  unfold Obligations.GalleyTesterFinds
  refine ⟨?visit, fun s ga c => noteColumn_eq ga c s,
    fun s w l u hard hold unit present => laneUncorrectable_unit unit present l hard hold, ?working,
    fun s n copy hard other => ⟨_, rfl, tallyCopyFails_lost other hard⟩,
    fun s n copy hard other whole => ⟨_, rfl, tallyCopyFails_served other whole hard⟩, ?holder⟩
  case visit =>
    intro s w l column hold f runs called below holds
    rw [exec_galleyTest runs called, galleyTest_visits below holds]
    refine ⟨?_, ?_, ?_, ?_⟩ <;> (rintro rfl; rfl)
  case working =>
    intro s t u w l hard hold working marked withdrawn
    rw [laneUncorrectable_working working, ← marked]
    have left : u = wordWithdrawn w t := by subst withdrawn marked; rfl
    subst left
    refine ⟨fun free => ?_, fun d held => ?_⟩
    · rw [free, withdrawWord_free]
    · rw [held, withdrawWord_held]
  case holder =>
    intro s u d ga q r p holder back
    subst back
    exact ⟨fun first => rerunPress_first holder first ga, fun second => rerunPress_second holder second ga⟩

end Sys2Proof.Machine
end

section
/-! PROOFS. TBL_SYNC from the reading of its tables to the tables in force, and EP_SYNC and EP_BIND from the descriptor to the
binding in force (08_segments_windows.md R190 to R205; 17_instances.md R425). -/
namespace Sys2Proof.Machine

/-! ### The header of the host copy -/

theorem exec_tblSync {s : State} {i : Nat} (answers : pageOpen s i = true) (v : Word) :
    exec (.tblSync i v) s = .next (tblSync i v s) := by
  simp only [exec, execTblSync, answers, if_true]

theorem tblSync_resetting {s : State} {i : Nat} (resetting : (getInst s i).st = .resetting) (v : Word) :
    tblSync i v s = tblAnswer i tbBusy noEntry s := by
  simp only [tblSync, if_pos resetting]

section
variable {s s1 : State} {i : Nat} {h : MemRead} (present : (getInst s i).st ≠ .resetting)
  (read : readHost (fnOf s i) ((getInst s i).regs.tblAddr.toNat / 64 * 64) 64 s = (h, s1))
include present read

theorem tblSync_unreadable (failed : h.fail.isSome = true) (v : Word) :
    tblSync i v s = tblAnswer i tbFetch noEntry s1 := by
  simp only [tblSync, if_neg present, read, if_pos failed]

theorem tblSync_stale (whole : h.fail = none)
    (stale : fld (wordAt h.bytes 0) 0 32 ≠ ((getInst s i).devGen + 1) % 2 ^ 32) (v : Word) :
    tblSync i v s = tblAnswer i tbStale noEntry s1 := by
  simp only [tblSync, if_neg present, read, whole, Option.isSome_none, Bool.false_eq_true, if_false, if_pos stale]

end

/-- TBL_SYNC has read a header that names the next generation, and nothing resets (R198). -/
structure HeaderRead (s : State) (i : Nat) (h : MemRead) (s1 : State) : Prop where
  present : (getInst s i).st ≠ .resetting
  read : readHost (fnOf s i) ((getInst s i).regs.tblAddr.toNat / 64 * 64) 64 s = (h, s1)
  whole : h.fail = none
  fresh : fld (wordAt h.bytes 0) 0 32 = ((getInst s i).devGen + 1) % 2 ^ 32

/-! ### The entries of the host copy -/

/-- TBL_SYNC reads the segments of its mask. -/
def readSegments (s : State) (i : Nat) (v : Word) (s1 : State) : Except Nat (Table (List Word)) × State :=
  readEntries (fnOf s i) ((getInst s i).regs.tblAddr.toNat / 64 * 64 + 64) ((List.range 16).filter fun k => bit v k) s1

/-- TBL_SYNC reads the windows it names. -/
def readWindows (s : State) (i : Nat) (v : Word) (s2 : State) : Except Nat (Table (List Word)) × State :=
  readEntries (fnOf s i) ((getInst s i).regs.tblWinAddr.toNat / 4096 * 4096)
    (((List.range (fld v 32 17)).map (fun k => k + fld v 16 16)).filter (· < 65536)) s2

/-- The segment table that TBL_SYNC judges: the entries read in place of those in force. -/
def syncedSegs (x : Inst) (segw : Table (List Word)) : List Seg :=
  (List.range 16).map fun k => (tget segw k).elim (x.segs.getD k Seg.empty) segOfWords

/-- The window table that TBL_SYNC judges: the entries read in place of those in force. -/
def syncedWins (x : Inst) (winw : Table (List Word)) : Table Win :=
  winw.foldl (fun t p => if (winOfWords p.2).valid then tset t p.1 (winOfWords p.2) else tdel t p.1) x.wins

section
variable {s s1 s2 : State} {i : Nat} {v : Word} {h : MemRead} (header : HeaderRead s i h s1)
include header

theorem tblSync_segment_unreadable {k : Nat} (failed : readSegments s i v s1 = (.error k, s2)) :
    tblSync i v s = tblAnswer i tbFetch k s2 := by
  obtain ⟨present, read, whole, fresh⟩ := header
  rw [readSegments] at failed
  simp only [tblSync, if_neg present, read, whole, Option.isSome_none, Bool.false_eq_true, if_false, fresh, ne_eq,
    not_true_eq_false, failed]

theorem tblSync_window_unreadable {segw : Table (List Word)} {s3 : State} {k : Nat}
    (segments : readSegments s i v s1 = (.ok segw, s2)) (failed : readWindows s i v s2 = (.error k, s3)) :
    tblSync i v s = tblAnswer i tbFetch (0x20000 + k) s3 := by
  obtain ⟨present, read, whole, fresh⟩ := header
  rw [readSegments] at segments
  rw [readWindows] at failed
  simp only [tblSync, if_neg present, read, whole, Option.isSome_none, Bool.false_eq_true, if_false, fresh, ne_eq,
    not_true_eq_false, segments, failed]

end

/-! ### The tables judged and put in force -/

/-- What an accepted TBL_SYNC leaves of a device whose tables it has read: the tables replaced, the storage freed on its
way back, the generation in the host copy (R193, R198, R200). -/
def tablesInForce (s : State) (i : Nat) (placed : List Seg) (wins : Table Win) (s3 : State) : State :=
  let x := getInst s i
  let gen := (x.devGen + 1) % 2 ^ 32
  let freed := (List.range 16).filterMap fun k => freedBy (x.segs.getD k Seg.empty) (placed.getD k Seg.empty)
  reclaim (writeHost (fnOf s i) (x.regs.tblAddr.toNat / 64 * 64 + 8) (leBytes 4 gen) (modInst i (fun y => { y with
    segs := placed
    wins := wins
    devGen := gen
    refusing := y.refusing && wins.isEmpty }) (each freed freeStorage s3))).2

/-- What TBL_SYNC does of tables it has read, as they would be in force (R193, R199, R200). -/
def judgeTables (s : State) (i : Nat) (v : Word) (segw winw : Table (List Word)) (segs : List Seg) (wins : Table Win)
    (s3 : State) : State :=
  let x := getInst s i
  let more := firstWin wins fun p => (tget x.wins p.1).isNone
  match tblFinding s3 i v segw winw segs wins with
  | some (code, e) => tblAnswer i code e s3
  | none =>
    match overQuota x x.segs segs, placeStorage s3 i x.segs 16 0 segs with
    | some k, .error j => tblAnswer i tbQuota (min k j) s3
    | some k, .ok _ => tblAnswer i tbQuota k s3
    | none, .error k => tblAnswer i tbQuota k s3
    | none, .ok placed =>
      if fld (wd x.record 0) 21 17 < wins.length ∧ more.isSome then tblAnswer i tbQuota (0x20000 + more.getD 0) s3
      else tblAnswer i tbOk noEntry (tablesInForce s i placed wins s3)

theorem tblSync_judges {s s1 s2 s3 : State} {i : Nat} {v : Word} {h : MemRead} {segw winw : Table (List Word)}
    (header : HeaderRead s i h s1) (segments : readSegments s i v s1 = (.ok segw, s2))
    (windows : readWindows s i v s2 = (.ok winw, s3)) :
    tblSync i v s = judgeTables s i v segw winw (syncedSegs (getInst s i) segw) (syncedWins (getInst s i) winw) s3 := by
  obtain ⟨present, read, whole, fresh⟩ := header
  rw [readSegments] at segments
  rw [readWindows] at windows
  simp only [tblSync, if_neg present, read, whole, Option.isSome_none, Bool.false_eq_true, if_false, fresh, ne_eq,
    not_true_eq_false, segments, windows]
  rfl

section
variable {s s3 : State} {i : Nat} {v : Word} {segw winw : Table (List Word)} {segs placed : List Seg} {wins : Table Win}

theorem judgeTables_finding {e : Nat × Nat} (found : tblFinding s3 i v segw winw segs wins = some e) :
    judgeTables s i v segw winw segs wins s3 = tblAnswer i e.1 e.2 s3 := by
  simp only [judgeTables, found]

variable (clean : tblFinding s3 i v segw winw segs wins = none)
include clean

theorem judgeTables_over_quota_without_room {k j : Nat} (beyond : overQuota (getInst s i) (getInst s i).segs segs = some k)
    (full : placeStorage s3 i (getInst s i).segs 16 0 segs = .error j) :
    judgeTables s i v segw winw segs wins s3 = tblAnswer i tbQuota (min k j) s3 := by
  simp only [judgeTables, clean, beyond, full]

theorem judgeTables_over_quota {k : Nat} (beyond : overQuota (getInst s i) (getInst s i).segs segs = some k)
    (room : placeStorage s3 i (getInst s i).segs 16 0 segs = .ok placed) :
    judgeTables s i v segw winw segs wins s3 = tblAnswer i tbQuota k s3 := by
  simp only [judgeTables, clean, beyond, room]

variable (fits : overQuota (getInst s i) (getInst s i).segs segs = none)
include fits

theorem judgeTables_without_room {k : Nat} (full : placeStorage s3 i (getInst s i).segs 16 0 segs = .error k) :
    judgeTables s i v segw winw segs wins s3 = tblAnswer i tbQuota k s3 := by
  simp only [judgeTables, clean, fits, full]

variable (room : placeStorage s3 i (getInst s i).segs 16 0 segs = .ok placed)
include room

theorem judgeTables_windows_over_quota {k : Nat} (many : fld (wd (getInst s i).record 0) 21 17 < wins.length)
    (more : firstWin wins (fun p => (tget (getInst s i).wins p.1).isNone) = some k) :
    judgeTables s i v segw winw segs wins s3 = tblAnswer i tbQuota (0x20000 + k) s3 := by
  simp only [judgeTables, clean, fits, room, many, more, Option.isSome_some, and_self, if_true, Option.getD_some]

theorem judgeTables_accepts (few : wins.length ≤ fld (wd (getInst s i).record 0) 21 17) :
    judgeTables s i v segw winw segs wins s3 = tblAnswer i tbOk noEntry (tablesInForce s i placed wins s3) := by
  simp only [judgeTables, clean, fits, room, Nat.not_lt.mpr few, false_and, if_false]

end

/-! ### EP_SYNC and EP_BIND -/

theorem exec_epCommand {s : State} (answers : mgrOpen s = true) (b : Bool) (v : Word) :
    exec (if b then .epBind v else .epSync v) s = .next (epSync b v s) := by
  cases b <;> simp only [exec, execEpBind, execEpSync, answers, if_true, Bool.false_eq_true, if_false]

/-- The endpoint of an index as EP_SYNC finds it. -/
def boundEndpoint (s : State) (e : Nat) : Endpoint := (tget s.endpoints e).getD Endpoint.empty

/-- The endpoint whose ranks EP_SYNC reads: with BIND the new binding (R203, R204). -/
def nextEndpoint (b : Bool) (w : List Word) (old : Endpoint) : Endpoint := if b then bindOf w old else old

/-- Ranks are read unless none are asked for or the command unbinds the endpoint. -/
def readRanks (s : State) (b : Bool) (v : Word) (new : Endpoint) (s1 : State) : MemRead × State :=
  if fld v 26 19 = 0 ∨ (b && !new.valid) = true then ({ bytes := [], fail := none, twin := false, events := [] }, s1)
  else readHost (mgrFn s) (new.rtAddr + 4 * fld v 8 18) (4 * fld v 26 19) s1

/-- The entries of the rank table that EP_SYNC has read. -/
def ranksRead (v : Word) (r : MemRead) : List Nat :=
  (List.range (fld v 26 19)).map fun k => leNat ((r.bytes.drop (4 * k)).take 4)

/-- The RANGE findings of EP_SYNC (R204, R205). -/
def epFinding (s2 : State) (b : Bool) (v : Word) (w : List Word) (old : Endpoint) (nums : List Nat) : Bool :=
  descBad w || (b && bindBad s2 (fld v 0 6) w old (fld v 26 19)) ||
    (!(b && !(nextEndpoint b w old).valid) && decide ((nextEndpoint b w old).rankCount < fld v 8 18 + fld v 26 19)) ||
    nums.any fun n => n / 2 ^ 22 % 2 ^ 9 != 0

/-- A binding that takes an endpoint from the holder or the job that it had (R205). -/
def leavesOwner (old new : Endpoint) : Bool :=
  old.valid && (!new.valid || old.inst != new.inst || old.job != new.job)

/-- What an accepted EP_SYNC leaves: the endpoint with its binding, the next generation and the ranks read over its own, and
without its collectives where it changes hands (R202, R205). -/
def bindingInForce (e : Nat) (old new : Endpoint) (v : Word) (nums : List Nat) (s2 : State) : State :=
  let u := if leavesOwner old new then unbindColls e s2 else s2
  { u with endpoints := tset u.endpoints e { new with
      gen := (old.gen + 1) % 2 ^ 32
      ranks := ((List.range (fld v 26 19)).zip nums).foldl (fun t p => tset t (fld v 8 18 + p.1) (rankEntry p.2))
        new.ranks } }

section
variable {s s1 : State} {v : Word} {b : Bool} {d : MemRead}
  (read : readHost (mgrFn s) (s.misc.epDesc.toNat / 32 * 32) 32 s = (d, s1))
include read

theorem epSync_unreadable (failed : d.fail.isSome = true) : epSync b v s = epAnswer (fld v 0 6) tbFetch s1 := by
  simp only [epSync, read, if_pos failed]

variable (whole : d.fail = none)
include whole

theorem epSync_stale (stale : fld (wd (wordsOf d.bytes 4) 3) 0 32 ≠ ((boundEndpoint s (fld v 0 6)).gen + 1) % 2 ^ 32) :
    epSync b v s = epAnswer (fld v 0 6) tbStale s1 := by
  rw [boundEndpoint] at stale
  simp only [epSync, read, whole, Option.isSome_none, Bool.false_eq_true, if_false, if_pos stale]

variable (fresh : fld (wd (wordsOf d.bytes 4) 3) 0 32 = ((boundEndpoint s (fld v 0 6)).gen + 1) % 2 ^ 32)
  {r : MemRead} {s2 : State}
  (ranks : readRanks s b v (nextEndpoint b (wordsOf d.bytes 4) (boundEndpoint s (fld v 0 6))) s1 = (r, s2))
include fresh ranks

/-- Of a descriptor that names the next generation the reading of the ranks decides, and then the findings. -/
theorem epSync_fresh : epSync b v s =
    if r.fail.isSome then epAnswer (fld v 0 6) tbFetch s2
    else if epFinding s2 b v (wordsOf d.bytes 4) (boundEndpoint s (fld v 0 6)) (ranksRead v r) = true then
      epAnswer (fld v 0 6) tbRange s2
    else epAnswer (fld v 0 6) tbOk (bindingInForce (fld v 0 6) (boundEndpoint s (fld v 0 6))
      (nextEndpoint b (wordsOf d.bytes 4) (boundEndpoint s (fld v 0 6))) v (ranksRead v r) s2) := by
  rw [boundEndpoint] at fresh
  rw [readRanks, nextEndpoint, boundEndpoint] at ranks
  simp only [epSync, read, whole, Option.isSome_none, Bool.false_eq_true, if_false, fresh, ne_eq, not_true_eq_false, ranks]
  rfl

end

/-! ### The obligations -/

/-- Settles O35: the answers before the tables are read, those of what is read, and the tables put in force. -/
theorem tablesAreSynced : Obligations.TablesAreSynced := by
  unfold Obligations.TablesAreSynced
  refine ⟨?resetting, ?header, ?finding, ?entries, ?quota, ?accepted, ?answer⟩
  case resetting =>
    intro s i v answers resetting
    rw [exec_tblSync answers, tblSync_resetting resetting, noEntry]
  case header =>
    intro s s1 i v h answers present read
    rw [exec_tblSync answers]
    exact ⟨fun failed => congrArg _ (tblSync_unreadable present read failed v),
      fun whole stale => congrArg _ (tblSync_stale present read whole stale v)⟩
  case finding =>
    rintro s s1 s2 s3 i v h segw winw _ _ e answers present read whole fresh segments windows rfl rfl found
    rw [exec_tblSync answers, tblSync_judges ⟨present, read, whole, fresh⟩ segments windows]
    exact congrArg _ (judgeTables_finding found)
  case entries =>
    intro s s1 s2 i v h answers present read whole fresh
    have header : HeaderRead s i h s1 := ⟨present, read, whole, fresh⟩
    rw [exec_tblSync answers]
    exact ⟨fun k failed => congrArg _ (tblSync_segment_unreadable header failed),
      fun segw s3 k segments failed => congrArg _ (tblSync_window_unreadable header segments failed)⟩
  case quota =>
    rintro s s1 s2 s3 i v h segw winw _ _ answers present read whole fresh segments windows rfl rfl clean
    rw [exec_tblSync answers, tblSync_judges ⟨present, read, whole, fresh⟩ segments windows]
    exact ⟨fun k j beyond full => congrArg _ (judgeTables_over_quota_without_room clean beyond full),
      fun k l beyond room => congrArg _ (judgeTables_over_quota clean beyond room),
      fun k fits full => congrArg _ (judgeTables_without_room clean fits full),
      fun l k fits room many more => congrArg _ (judgeTables_windows_over_quota clean fits room many more)⟩
  case accepted =>
    rintro s s1 s2 s3 i v h segw winw _ placed _ answers present read whole fresh segments windows rfl rfl clean few fits
      room
    rw [exec_tblSync answers, tblSync_judges ⟨present, read, whole, fresh⟩ segments windows]
    exact congrArg _ (judgeTables_accepts clean fits room few)
  case answer =>
    intro s i code e
    simp only [tblAnswer, modRegs, getInst_modInst, and_self]

/-- Settles O36: the descriptor as it is read, the ranks as they are read and judged, and the binding put in force. -/
theorem endpointsAreSynced : Obligations.EndpointsAreSynced := by
  unfold Obligations.EndpointsAreSynced
  refine ⟨?descriptor, ?ranks⟩
  case descriptor =>
    rintro s s1 v b d _ answers read rfl
    rw [exec_epCommand answers]
    exact ⟨fun failed => congrArg _ (epSync_unreadable read failed),
      fun whole stale => congrArg _ (epSync_stale read whole stale)⟩
  case ranks =>
    rintro s s1 s2 v b d r _ _ _ answers read rfl whole fresh rfl ranks rfl
    rw [exec_epCommand answers]
    rw [epSync_fresh read whole fresh ranks]
    refine ⟨fun failed => ?_, fun served found => ?_, fun served clean => ⟨_, rfl, ?_⟩⟩
    · rw [if_pos failed]
    · rw [served, if_neg (by decide)]
      exact congrArg _ (if_pos found)
    · rw [served, if_neg (by decide)]
      exact congrArg _ (if_neg (Bool.eq_false_iff.mp clean))

end Sys2Proof.Machine
end

section
/-! PROOFS. LIG LOAD and CLEAR, KEY LOAD, ERASE and READ and KEY_SLOT_ZEROISE, each by what it finds (09_press_arithmetic.md
R226, R231; 17_instances.md R425; 18_cipher.md R431 to R434). The model's choices are the SEGMENT result of an entry that
cannot be read (log entry 22) and the order of the findings of KEY LOAD (log entry 80). -/
namespace Sys2Proof.Machine

variable {s : State} {i n : Nat}

/-! ### Ligature commands -/

theorem exec_ligature_command (b : Bool) :
    exec (if b then .ligLoad i n else .ligClear i n) s = ligCommand i n (if b then ligLoad i n else ligClear i n) s := by
  cases b <;> rfl

/-- LIG_ENTRIES has 11 bits, so an entry that an instance holds has an index that the register can name. -/
theorem ligEntry_index_lt {x : Inst} (within : n < ligEntries x) : n < 65536 := by
  have bound : ligEntries x < 2 ^ 11 := Nat.mod_lt _ (by decide)
  omega

section
variable (answers : pageOpen s i = true)
include answers

theorem ligCommand_resetting (indexed : n < 65536) (resetting : (getInst s i).st = .resetting) (f : State → State) :
    ligCommand i n f s = .next (ligAnswer i n lgBusy s) := by
  simp only [ligCommand, answers, indexed, decide_true, Bool.and_true, if_true, if_pos resetting]

theorem ligCommand_out_of_range (indexed : n < 65536) (present : (getInst s i).st ≠ .resetting)
    (beyond : n = 0 ∨ ligEntries (getInst s i) ≤ n) (f : State → State) :
    ligCommand i n f s = .next (ligAnswer i n lgRange s) := by
  simp only [ligCommand, answers, indexed, decide_true, Bool.and_true, if_true, if_neg present, if_pos beyond]

theorem ligCommand_held (positive : 0 < n) (within : n < ligEntries (getInst s i))
    (present : (getInst s i).st ≠ .resetting) (f : State → State) : ligCommand i n f s = .next (f s) := by
  have held : ¬ (n = 0 ∨ ligEntries (getInst s i) ≤ n) := by omega
  simp only [ligCommand, answers, ligEntry_index_lt within, decide_true, Bool.and_true, if_true, if_neg present,
    if_neg held]

end

theorem ligLoad_no_segment
    (unreachable : (findSeg (getInst s i).segs ((getInst s i).regs.ligAddr.toNat / 64 * 64) 64 true false).all
      (fun g => decide (4 ≤ g.kind)) = true) :
    ligLoad i n s = ligAnswer i n lgSegment s := by
  cases found : findSeg (getInst s i).segs ((getInst s i).regs.ligAddr.toNat / 64 * 64) 64 true false with
  | none => simp only [ligLoad, found]
  | some g =>
    have remote : 4 ≤ g.kind := by simpa only [found, Option.all_some, decide_eq_true_eq] using unreachable
    simp only [ligLoad, found, if_pos remote]

/-- LOAD through a segment that is not a remote window: the result is that of the read, then that of R226's check. -/
theorem ligLoad_reads {s1 : State} {g : Seg} {r : MemRead}
    (found : findSeg (getInst s i).segs ((getInst s i).regs.ligAddr.toNat / 64 * 64) 64 true false = some g)
    (near : g.kind < 4) (read : readSeg i g ((getInst s i).regs.ligAddr.toNat / 64 * 64) 64 s = (r, s1)) :
    ligLoad i n s =
      if r.fail.isSome then ligAnswer i n lgSegment (latchAll r.events s1)
      else if !ligOk (wordsOf r.bytes 8) then ligAnswer i n lgRange (latchAll r.events s1)
      else ligAnswer i n lgOk
        (modInst i (fun y => { y with ligs := tset y.ligs n (wordsOf r.bytes 8) }) (latchAll r.events s1)) := by
  simp only [ligLoad, found, if_neg (Nat.not_le.mpr near), read]

/-! ### KEY LOAD -/

theorem keyCommand_indexed (answers : pageOpen s i = true) (indexed : n < 65536) (f : State → State) :
    keyCommand i n f s = .next (f s) := by
  simp only [keyCommand, answers, indexed, decide_true, Bool.and_true, if_true]

/-- KEY_DATA0 to 3 are cleared (R432). -/
def clearKeyData (i : Nat) (s : State) : State := modRegs i (fun r => { r with keyData := [0, 0, 0, 0] }) s

/-- The instance has loaded as many keys as its record allows, or the device holds as many as it can (R431, R433). -/
def keyQuotaSpent (s : State) (i : Nat) : Prop :=
  fld (wd (getInst s i).record 1) 0 17 ≤ keysLoaded (getInst s i) ∨ 65535 ≤ sumOf (fun p => p.2.keys.length) s.insts

/-- The operands of KEY LOAD name slot 0, no mode, or a counter that is spent (R433). -/
def keyOperandsIllegal (x : Inst) (n : Nat) : Prop :=
  n = 0 ∨ fld x.regs.keyParam 32 2 = 0 ∨ fld x.regs.keyParam 32 2 = 3 ∨ x.regs.keyCtr.toNat = 2 ^ 64 - 1

/-- The slot that the key registers describe. -/
def stagedKey (x : Inst) : KeySlot :=
  { key := bytesOf x.regs.keyData, salt := fld x.regs.keyParam 0 32, mode := fld x.regs.keyParam 32 2,
    counter := x.regs.keyCtr.toNat, erased := false }

theorem keyLoad_taken (taken : (tget (getInst s i).keys n).isSome = true) :
    keyLoad i n s = keyAnswer i n kyExists (clearKeyData i s) := by
  simp only [keyLoad, if_pos taken]
  rfl

section
variable (empty : ¬ (tget (getInst s i).keys n).isSome = true)
include empty

theorem keyLoad_over_quota (spent : keyQuotaSpent s i) :
    keyLoad i n s = keyAnswer i n kyQuota (clearKeyData i s) := by
  simp only [keyQuotaSpent] at spent
  simp only [keyLoad, if_neg empty, Bool.or_eq_true, decide_eq_true_eq, if_pos spent]
  rfl

theorem keyLoad_out_of_range (room : ¬ keyQuotaSpent s i) (illegal : keyOperandsIllegal (getInst s i) n) :
    keyLoad i n s = keyAnswer i n kyRange (clearKeyData i s) := by
  simp only [keyQuotaSpent] at room
  simp only [keyOperandsIllegal] at illegal
  simp only [keyLoad, if_neg empty, Bool.or_eq_true, decide_eq_true_eq, if_neg room, if_pos illegal]
  rfl

theorem keyLoad_accepts (room : ¬ keyQuotaSpent s i) (legal : ¬ keyOperandsIllegal (getInst s i) n) :
    keyLoad i n s = keyAnswer i n kyOk
      (clearKeyData i (modInst i (fun y => { y with keys := tset y.keys n (stagedKey (getInst s i)) }) s)) := by
  simp only [keyQuotaSpent] at room
  simp only [keyOperandsIllegal] at legal
  simp only [keyLoad, if_neg empty, Bool.or_eq_true, decide_eq_true_eq, if_neg room, if_neg legal]
  rfl

end

/-- What an answered KEY LOAD leaves of the instance: KEY_DATA cleared, the result in KEY_STATUS, the rest as it was. -/
theorem getInst_keyAnswer_clearKeyData (i n c : Nat) (s : State) :
    getInst (keyAnswer i n c (clearKeyData i s)) i =
      { getInst s i with regs := { (getInst s i).regs with keyData := [0, 0, 0, 0], keyStatus := resultWord c n 16 } } := by
  simp only [keyAnswer, clearKeyData, modRegs, getInst_modInst]

theorem keyLoad_clears_keyData (i n : Nat) (s : State) :
    (getInst (keyLoad i n s) i).regs.keyData = [0, 0, 0, 0] := by
  simp only [keyLoad, keyAnswer, modRegs, getInst_modInst]

/-! ### ERASE, READ and KEY_SLOT_ZEROISE -/

section
variable {k : KeySlot} (held : tget (getInst s i).keys n = some k)
include held

theorem keyErase_unbound (loaded : k.erased = false) (unbound : keyBound s i n = false) :
    keyErase i n s = keyAnswer i n kyOk (modInst i (fun y => { y with keys := tdel y.keys n }) s) := by
  simp only [keyErase, held, loaded, unbound, Bool.false_eq_true, if_false]

theorem keyErase_bound (loaded : k.erased = false) (bound : keyBound s i n = true) :
    keyErase i n s = keyAnswer i n kyOk
      (modInst i (fun y => { y with keys := tmod y.keys n fun z => { z with erased := true } }) s) := by
  simp only [keyErase, held, loaded, bound, Bool.false_eq_true, if_false, if_true]

theorem keyRead_loaded (loaded : k.erased = false) :
    keyRead i n s = keyAnswer i n kyOk (modRegs i (fun r => { r with
      keyParam := place k.salt 0 32 ||| place k.mode 32 2 ||| placeBit true 34 ||| placeBit (k.counter == 2 ^ 64 - 1) 35
      keyCtr := BitVec.ofNat 64 k.counter }) s) := by
  simp only [keyRead, held, loaded, Bool.false_eq_true, if_false]

end

/-- A slot without a loaded key is empty, or its key is erased. -/
theorem key_not_loaded_iff :
    ((tget (getInst s i).keys n).map (·.erased)).getD true = true ↔
      tget (getInst s i).keys n = none ∨ ∃ k, tget (getInst s i).keys n = some k ∧ k.erased = true := by
  cases tget (getInst s i).keys n <;> simp

section
variable (unloaded : ((tget (getInst s i).keys n).map (·.erased)).getD true = true)
include unloaded

theorem keyErase_absent : keyErase i n s = keyAnswer i n kyAbsent s := by
  obtain empty | ⟨k, held, erased⟩ := key_not_loaded_iff.mp unloaded
  · simp only [keyErase, empty]
  · simp only [keyErase, held, if_pos erased]

theorem keyRead_absent :
    keyRead i n s = keyAnswer i n kyOk (modRegs i (fun r => { r with keyParam := 0, keyCtr := 0 }) s) := by
  obtain empty | ⟨k, held, erased⟩ := key_not_loaded_iff.mp unloaded
  · simp only [keyRead, empty]
  · simp only [keyRead, held, if_pos erased]

theorem keyZeroise_unbound (unbound : keyBound s i n = false) :
    keyZeroise i n s = if (tget (getInst s i).keys n).isSome then
      modInst i (fun y => { y with keys := tdel y.keys n }) s else s := by
  obtain empty | ⟨k, held, erased⟩ := key_not_loaded_iff.mp unloaded
  · simp only [keyZeroise, empty, Option.isSome_none, Bool.false_eq_true, if_false]
  · simp only [keyZeroise, held, erased, unbound, Bool.not_false, Bool.and_true, Option.isSome_some]

end

theorem keyZeroise_bound (bound : keyBound s i n = true) : keyZeroise i n s = s := by
  unfold keyZeroise
  split
  · rw [bound, Bool.not_true, Bool.and_false, if_neg Bool.false_ne_true]
  · rfl

/-! ### O37 -/

/-- Settles O37: each ligature command and each key command by the lemma on what it finds. -/
theorem ligaturesAndKeysAreLoaded : Obligations.LigaturesAndKeysAreLoaded := by
  unfold Obligations.LigaturesAndKeysAreLoaded
  refine ⟨?resetting, ?outOfRange, ?load, ?clear, ?keyLoad, ?loaded, ?unloaded⟩
  case resetting =>
    intro s i n b answers indexed resetting
    rw [exec_ligature_command, ligCommand_resetting answers indexed resetting]
  case outOfRange =>
    intro s i n b answers indexed present beyond
    rw [exec_ligature_command, ligCommand_out_of_range answers indexed present beyond]
  case load =>
    intro s s1 i n g r answers positive within present found near read
    have runs : exec (.ligLoad i n) s = .next (ligLoad i n s) := ligCommand_held answers positive within present _
    rw [runs, ligLoad_reads found near read]
    refine ⟨fun failed => ?_, fun served legal => ?_, fun served illegal => ?_⟩
    · rw [if_pos failed]
    · simp only [served, legal, Option.isSome_none, Bool.not_true, Bool.false_eq_true, if_false]
    · simp only [served, illegal, Option.isSome_none, Bool.not_false, Bool.false_eq_true, if_false, if_true]
  case clear =>
    intro s i n answers positive within present
    exact ⟨ligCommand_held answers positive within present _, fun unreachable =>
      (ligCommand_held answers positive within present _).trans (congrArg _ (ligLoad_no_segment unreachable))⟩
  case keyLoad =>
    rintro s i n _ answers indexed rfl
    refine ⟨keyLoad i n s, keyCommand_indexed answers indexed _, keyLoad_clears_keyData i n s, ?_⟩
    split
    next taken =>
      rw [keyLoad_taken taken, getInst_keyAnswer_clearKeyData]
      exact ⟨rfl, rfl⟩
    next empty =>
      split
      next spent =>
        rw [keyLoad_over_quota empty spent, getInst_keyAnswer_clearKeyData]
        exact ⟨rfl, rfl⟩
      next room =>
        split
        next illegal =>
          rw [keyLoad_out_of_range empty room illegal, getInst_keyAnswer_clearKeyData]
          exact ⟨rfl, rfl⟩
        next legal =>
          rw [keyLoad_accepts empty room legal, getInst_keyAnswer_clearKeyData, getInst_modInst]
          exact ⟨rfl, rfl⟩
  case loaded =>
    intro s i n k answers indexed held loaded
    exact ⟨fun unbound => (keyCommand_indexed answers indexed _).trans (congrArg _ (keyErase_unbound held loaded unbound)),
      fun bound => (keyCommand_indexed answers indexed _).trans (congrArg _ (keyErase_bound held loaded bound)),
      (keyCommand_indexed answers indexed _).trans (congrArg _ (keyRead_loaded held loaded))⟩
  case unloaded =>
    intro s i n answers indexed unloaded
    exact ⟨(keyCommand_indexed answers indexed _).trans (congrArg _ (keyErase_absent unloaded)),
      (keyCommand_indexed answers indexed _).trans (congrArg _ (keyRead_absent unloaded)),
      fun unbound => congrArg _ (keyZeroise_unbound unloaded unbound),
      fun bound => congrArg _ (keyZeroise_bound bound)⟩

end Sys2Proof.Machine
end

section
/-! PROOFS. How a press docket begins: its turn, its findings and its wait for shared galley, the room it is given, and the
check of its operands and lists (10_press_operations.md R233, R234, R241). -/
namespace Sys2Proof.Machine

/-! ### The turn of a press docket -/

/-- Each press command starts the docket of its opcode. -/
theorem exec_pressCommand {d : DRef} {p : Nat × Instr} (listed : p ∈ pressCommands d) (s : State) :
    exec p.2 s = .next (startPress d p.1 s) := by
  simp only [pressCommands, List.mem_cons, List.not_mem_nil, or_false] at listed
  rcases listed with rfl | rfl | rfl | rfl | rfl | rfl <;> rfl

/-- A planned docket keeps its own time; before a posted one no docket of its queue is still to reach the wait for galley, save
those whose deadline has passed (R73, R94). -/
def pressTurn (s : State) (q : Queue) (r : Run) : Prop :=
  r.planned = true ∨ ∀ x ∈ q.runs, x.planned = false → x.started = false → x.press = none →
    ringKey q x.slot < ringKey q r.slot → runMissed s q x = true

theorem pressTurn_no_wait {s : State} {q : Queue} {r : Run} (turn : pressTurn s q r) :
    (!r.planned && q.runs.any fun x => !x.planned && !x.started && x.press.isNone &&
      decide (ringKey q x.slot < ringKey q r.slot) && !runMissed s q x) = false := by
  rcases turn with planned | missed
  · rw [planned, Bool.not_true, Bool.false_and]
  · rw [Bool.and_eq_false_iff]
    refine Or.inr (List.any_eq_false.mpr fun x hx waits => ?_)
    simp only [Bool.and_eq_true, Bool.not_eq_true', Option.isNone_iff_eq_none, decide_eq_true_eq] at waits
    obtain ⟨⟨⟨⟨posted, unstarted⟩, unplaced⟩, earlier⟩, inTime⟩ := waits
    exact Bool.false_ne_true (inTime.symm.trans (missed x hx posted unstarted unplaced earlier))

section
variable {s : State} {d : DRef} {op : Nat} {q : Queue} {r0 r : Run} (opened : openRun s d = some (q, r0))
  (bound : r = asBound s d.inst q r0) (runs : running s = true) (unplaced : r.press = none) (code : dOp (runWords q r) = op)
  (turn : pressTurn s q r)
include opened bound runs unplaced code turn

theorem startPress_finding {k : Nat} (found : finding s d.inst d.queue q r = some k) :
    startPress d op s = malformedPress d r k s := by
  subst bound
  simp only [startPress, opened, runs, unplaced, code, pressTurn_no_wait turn, found, Bool.not_true, Option.isSome_none,
    bne_self_eq_false, Bool.or_self, Bool.false_eq_true, if_false]

/-- The docket reaches the wait with the next order of the device, and where it is then the head it receives room at once. -/
theorem startPress_reaches_galley {u : State} (clean : finding s d.inst d.queue q r = none)
    (carries : hatchBlocks s d.inst q r = false) (given : atsRefused s d.inst q r = none)
    (placed : u = modRun d.inst d.queue r.ord (fun x => { x with press := some (newPress (obtainAts d.inst q r s).ord) })
      { obtainAts d.inst q r s with ord := (obtainAts d.inst q r s).ord + 1 }) :
    startPress d op s = if ((galleyHead u).map fun x => x.2.2.1.ord) = some r.ord then allocHead u else u := by
  subst bound
  simp only [startPress, opened, runs, unplaced, code, pressTurn_no_wait turn, clean, carries, given, Bool.not_true,
    Option.isSome_none, bne_self_eq_false, Bool.or_self, Bool.false_eq_true, if_false, ← placed]
  cases galleyHead u with
  | none => rfl
  | some x => simp only [Option.map_some, Option.some.injEq]

end

/-! ### Shared galley -/

section
variable {s : State} {d : DRef} {q : Queue} {r : Run} {p : PressRun} (head : galleyHead s = some (d, q, r, p))
include head

theorem allocHead_waits (short : s.galley.free < galleyNeed (runWords q r)) : allocHead s = s := by
  simp only [allocHead, head, if_pos short]

theorem allocHead_gives (fits : galleyNeed (runWords q r) ≤ s.galley.free) :
    allocHead s = checkOperands d q { r with press := r.press.map fun x => { x with galley := galleyNeed (runWords q r) } }
      (modPressRun d r.ord (fun x => { x with galley := galleyNeed (runWords q r) })
        (modGalley (fun g => { g with free := g.free - galleyNeed (runWords q r) }) s)) := by
  simp only [allocHead, head, if_neg (Nat.not_lt.mpr fits)]

end

theorem exec_galleyAllocGrant {s : State} (runs : running s = true) : exec .galleyAllocGrant s = .next (allocHead s) := by
  simp only [exec, execGalleyAllocGrant, runs, if_true]

/-! ### Operands and lists -/

/-- An operand that does not resolve is found, whatever the lists hold. -/
theorem operandsOk_of_unresolved {segs : List Seg} {w : List Word} {o : Operand} (listed : o ∈ pressOperands w)
    (unresolved : operandOk segs o = false) (lists : List (List Nat)) : operandsOk segs w lists = false := by
  have some_fails : (pressOperands w).all (operandOk segs) = false :=
    List.all_eq_false.mpr ⟨o, listed, Bool.eq_false_iff.mp unresolved⟩
  rw [operandsOk, some_fails, Bool.false_and]

section
variable {s s1 : State} {d : DRef} {q : Queue} {r : Run} {lists : List (List Nat)} {b : Bool}

theorem listsRead_ready (legal : badEntry r.segs (runWords q r) lists = none) (s : State) :
    listsRead d q r lists b s = listsReady d r lists b s := by
  simp only [listsRead, legal]

theorem checkOperands_unresolved (fails : operandsOk r.segs (runWords q r) [] = false) :
    checkOperands d q r s = endPress d q r { settledAs stSegmentFault 0 0 with twin := false } s := by
  simp only [checkOperands, fails, Bool.not_false, if_true]

variable (resolve : operandsOk r.segs (runWords q r) [] = true)
  (read : readLists d.inst r.segs (firstLists (runWords q r)) s = (.ok lists, b, s1))
include resolve read

theorem checkOperands_plain (plain : dOp (runWords q r) = opEmbedGather → egPool (runWords q r) = 0) :
    checkOperands d q r s = listsRead d q r lists b s1 := by
  have unpooled : ¬ (dOp (runWords q r) = opEmbedGather ∧ egPool (runWords q r) ≠ 0) :=
    fun ⟨gathers, pools⟩ => pools (plain gathers)
  simp only [checkOperands, resolve, read, Bool.not_true, Bool.false_eq_true, if_false, if_neg unpooled]

/-- Of a pooled EMBED_GATHER the offset list is read first, and names how long the index list is. -/
theorem checkOperands_pooled {s2 : State} {more : List (List Nat)} {c : Bool} (gathers : dOp (runWords q r) = opEmbedGather)
    (pools : egPool (runWords q r) ≠ 0) (bags : operandsOk r.segs (runWords q r) lists = true)
    (indices : readLists d.inst r.segs [((wd (runWords q r) 5).toNat, 4, bagIndices (runWords q r) (lists.getD 0 []))] s1 =
      (.ok more, c, s2)) :
    checkOperands d q r s = listsRead d q r (lists ++ more) (b || c) s2 := by
  simp only [checkOperands, resolve, read, Bool.not_true, Bool.false_eq_true, if_false,
    if_pos (And.intro gathers pools), bags, indices]

end

/-! ### The obligation -/

/-- Settles O21: the two ends of a start, the grant of room, and the check of the operands up to the request for a permit. -/
theorem pressDocketsBegin : Obligations.PressDocketsBegin := by
  unfold Obligations.PressDocketsBegin
  refine ⟨?begins, ?malformed, ?room, ?plain, ?pooled, ?unresolved⟩
  case begins =>
    intro s u d q r0 r p listed opened bound runs unplaced code turn clean carries given placed
    rw [exec_pressCommand listed,
      startPress_reaches_galley opened bound runs unplaced code turn clean carries given placed]
  case malformed =>
    intro s d q r0 r p k listed opened bound runs unplaced code turn found
    rw [exec_pressCommand listed, startPress_finding opened bound runs unplaced code turn found, malformedPress]
  case room =>
    intro s d q r p runs head
    exact ⟨exec_galleyAllocGrant runs, allocHead_waits head, allocHead_gives head⟩
  case plain =>
    intro s s1 d q r lists b resolve read plain legal
    rw [checkOperands_plain resolve read plain, listsRead_ready legal, listsReady]
  case pooled =>
    intro s s1 s2 d q r lists more b c resolve read gathers pools bags indices legal
    rw [checkOperands_pooled resolve read gathers pools bags indices, listsRead_ready legal, listsReady]
  case unresolved =>
    intro s d q r o listed unresolved
    exact checkOperands_unresolved (operandsOk_of_unresolved listed unresolved [])

end Sys2Proof.Machine
end

section
/-! PROOFS. Faulty press units, Ruzel pairs and cipher engines, and FAULT_INJECT (19_faults_takeover.md R446, R454 to R457,
R464; 10_press_operations.md R244). -/
namespace Sys2Proof.Machine

/-! ### The response to a fault of a unit -/

theorem exec_pressUnitFault {s : State} {u : Nat} {x : DRef × Queue × Run × PressRun} (runs : running s = true)
    (flies : ((pressRuns s).find? fun x => x.2.2.2.flying.any fun b => b.unit == u) = some x) :
    exec (.pressUnitFault u) s = .next (if (latch (event 0 1 2 u x.1.queue) s).startup = .safe
      then latch (event 0 1 2 u x.1.queue) s
      else placeAll (retireUnit 0 u (latch (event 0 1 2 u x.1.queue) s))) := by
  simp only [exec, execPressUnitFault, runs, if_true, unitFault, flies]

/-- The two faults of a pair, a lockstep mismatch and a missed heartbeat, differ in the KIND of their event. -/
theorem exec_pairFault {s : State} (on : awake s = true) (b : Bool) (p : Nat) :
    exec (if b then .ruzelMismatch p else .ruzelHeartbeatMiss p) s = .next (pairFails (if b then 1 else 2) p s) := by
  cases b <;> exact congrArg Host.Outcome.next (if_pos on)

theorem pairFails_present {s : State} {p : Nat} {x : UnitState} (present : s.faults.pairs[p]? = some x) (left : x ≠ .retired)
    (kind : Nat) :
    pairFails kind p s = if (latch (event 8 kind 2 p 0) s).startup = .safe then latch (event 8 kind 2 p 0) s
      else retirePair p (latch (event 8 kind 2 p 0) s) := by
  cases x
  case retired => exact absurd rfl left
  all_goals simp only [pairFails, present]

theorem exec_cipherSelfcheckFail {s : State} {e : Nat} (on : awake s = true) (known : e < 24)
    (serves : s.faults.engines.contains e = false) :
    exec (.cipherSelfcheckFail e) s = .next (withdrawEngine e (latch (event 11 1 3 e 0) s)) := by
  simp only [exec, execCipherSelfcheckFail, on, decide_eq_true known, serves, Bool.not_false, Bool.and_self, if_true]

/-! ### A recovery of a press unit that waits for its edge -/

/-- The pool with a spare reserved in it, where one is left (R455). -/
def reserveSpare (spare : Option Nat) (units : List UnitState) : List UnitState :=
  match spare with
  | some v => modAt units v fun _ => .reserved
  | none => units

/-- While the generator runs the recovery waits for the next edge (R455). -/
theorem startRecovery_waits {s : State} (ticks : ticking s = true) (k u : Nat) :
    startRecovery k 0 u s = modPress (withhold u) (modFaults (fun f => { f with
      units := reserveSpare (findState s.faults.units .spare) (modAt s.faults.units u fun _ => .retired)
      recoveries := f.recoveries ++
        [{ cls := 0, latchedIn := k, part := u, spare := findState s.faults.units .spare, entered := false }] }) s) :=
  if_pos ticks

/-- What the failure of the reserved spare `u` makes of a recovery of a press unit that waits for its edge: the one that
reserved `u` takes the next spare, and that of `u` itself has none (R454, log entry 95). -/
def spareMoved (u : Nat) (next : Option Nat) (r : Recovery) : Recovery :=
  if (r.cls == 0 && !r.entered) && r.spare == some u then { r with spare := next }
  else if (r.cls == 0 && !r.entered) && r.part == u then { r with spare := none }
  else r

theorem replaceSpare_moves {s : State} {u : Nat} {r : Recovery} (ticks : ticking s = true)
    (waits : r ∈ s.faults.recoveries) (press : r.cls = 0) (before : r.entered = false) (reserved : r.spare = some u)
    (k : Nat) :
    replaceSpare k 0 u s = modFaults (fun f => { f with
      recoveries := f.recoveries.map (spareMoved u (findState s.faults.units .spare)) }) (startRecovery k 0 u s) := by
  have reserver : (s.faults.recoveries.any fun r => (r.cls == 0 && !r.entered) && r.spare == some u) = true := by
    refine List.any_eq_true.mpr ⟨r, waits, ?_⟩
    simp only [press, before, reserved, beq_self_eq_true, Bool.not_false, Bool.and_self]
  exact if_pos (Bool.and_eq_true_iff.mpr ⟨ticks, reserver⟩)

theorem spareMoved_reserver {u : Nat} {r : Recovery} (press : r.cls = 0) (before : r.entered = false)
    (reserved : r.spare = some u) (next : Option Nat) : spareMoved u next r = { r with spare := next } := by
  simp only [spareMoved, press, before, reserved, beq_self_eq_true, Bool.not_false, Bool.and_self, if_true]

/-- The failed spare's own recovery reserves none. -/
theorem spareMoved_own {u : Nat} {spare : Option Nat} (other : spare ≠ some u) (k : Nat) (next : Option Nat) :
    spareMoved u next { cls := 0, latchedIn := k, part := u, spare := spare, entered := false } =
      { cls := 0, latchedIn := k, part := u, spare := none, entered := false } := by
  simp only [spareMoved, beq_eq_false_iff_ne.mpr other, beq_self_eq_true, Bool.not_false, Bool.and_false, Bool.and_self,
    Bool.false_eq_true, if_false, if_true]

/-! ### Injection -/

theorem exec_faultInject {s : State} (answers : barAnswers s = true) (v : Word) :
    exec (.faultInject v) s = .next (faultInject v s) := by
  simp only [exec, execFaultInject, answers, if_true]

theorem faultInject_forbidden {s : State} (forbidden : s.plates.injectOk = false) (v : Word) :
    faultInject v s = modFaults (fun f => { f with injResult := 3 }) s := by
  simp only [faultInject, forbidden, Bool.not_false, if_true]

theorem faultInject_no_event {s : State} {v : Word} (permitted : s.plates.injectOk = true)
    (unknown : injectable.contains (fld v 0 4, fld v 8 8, fld v 4 3) = false) :
    faultInject v s = modFaults (fun f => { f with injResult := 2 }) s := by
  simp only [faultInject, permitted, unknown, Bool.not_true, Bool.not_false, Bool.false_eq_true, if_false, if_true]

theorem faultInject_latches {s u t : State} {v : Word} {d : Nat} (permitted : s.plates.injectOk = true)
    (known : injectable.contains (fld v 0 4, fld v 8 8, fld v 4 3) = true)
    (detail : (d, u) = injectDetail (fld v 0 4) (fld v 16 16) s)
    (latched : t = latch { event (fld v 0 4) (fld v 8 8) (fld v 4 3) (fld v 16 16) d with injected := true }
      (modFaults (fun f => { f with injResult := 0 }) u)) :
    faultInject v s = if t.startup = .safe then t
      else placeAll (injectResponse (fld v 0 4) (fld v 8 8) (fld v 16 16) d t) := by
  simp only [faultInject, permitted, known, ← detail, ← latched, Bool.not_true, Bool.false_eq_true, if_false]

theorem engines_injectResponse {e : Nat} (known : e < 24) (d : Nat) (s : State) :
    (injectResponse 11 1 e d s).faults.engines = addNew s.faults.engines e := by
  simp only [injectResponse, known, and_self, if_true, withdrawEngine, modFaults]

/-! ### The obligation -/

/-- Settles O43: each fault by its response, the recovery that waits for its edge, and FAULT_INJECT by its answers. -/
theorem faultyUnitsAreReplaced : Obligations.FaultyUnitsAreReplaced := by
  unfold Obligations.FaultyUnitsAreReplaced
  refine ⟨fun s u x runs flies => exec_pressUnitFault runs flies, ?pairs, ?unit, ?replaced, ?spare, ?noSpare,
    fun s e on known serves => exec_cipherSelfcheckFail on known serves, ?injects, ?responses⟩
  case pairs =>
    intro s p x b on present left
    rw [exec_pairFault on, pairFails_present present left]
  case unit =>
    intro s k u x present
    refine ⟨?_, ?_, ?_, ?_⟩ <;> rintro rfl <;> simp only [retireUnit, present]
  case replaced =>
    intro s k u r ticks other waits press before reserved
    rw [replaceSpare_moves ticks waits press before reserved, startRecovery_waits ticks]
    exact ⟨List.mem_map.mpr ⟨r, List.mem_append_left _ waits, spareMoved_reserver press before reserved _⟩,
      List.mem_map.mpr ⟨_, List.mem_append_right _ (List.mem_singleton.mpr rfl), spareMoved_own other k _⟩⟩
  case spare =>
    intro s k u v ticks lowest _
    rw [startRecovery_waits ticks, lowest]
    exact ⟨rfl, rfl, rfl⟩
  case noSpare =>
    intro s k u ticks exhausted
    rw [startRecovery_waits ticks, exhausted]
    exact ⟨rfl, rfl⟩
  case injects =>
    intro s v answers
    rw [exec_faultInject answers]
    exact ⟨fun forbidden => congrArg _ (faultInject_forbidden forbidden v),
      fun permitted unknown => congrArg _ (faultInject_no_event permitted unknown),
      fun d u t permitted known detail latched => congrArg _ (faultInject_latches permitted known detail latched)⟩
  case responses =>
    intro s k p _ _
    exact ⟨rfl, rfl, rfl, fun known => engines_injectResponse known 0 s⟩

end Sys2Proof.Machine
end

section
/-! PROOFS. Every command is answered by a next state that keeps the form of the state (01_architecture.md; 12_fabric_cells_routing.md
R295; 16_hatches.md R387; 19_faults_takeover.md R446, R455; 20_power_watch.md R478). -/
namespace Sys2Proof.Machine

/-- No arm of the dispatch raises a fault or refuses. -/
theorem exec_total (c : Instr) (s : State) : ∃ t, exec c s = .next t := by
  cases c <;> exact ⟨_, rfl⟩

/-- Each command keeps what its own operation keeps (Laws/Keep*.lean). -/
theorem keeps_exec {s t u : State} (h : Keeps s t) (c : Instr) (he : exec c t = .next u) : Keeps s u :=
  match c with
  | .tickEdge => keeps_execTickEdge h he
  | .programEntryStart => keeps_execProgramEntryStart h he
  | .gateWindowOpen _ _ => keeps_execGateWindowOpen h _ _ he
  | .gateWindowClose _ _ => keeps_execGateWindowClose h _ _ he
  | .deadlineExpiry _ => keeps_execDeadlineExpiry h _ he
  | .ppsOutPulse => keeps_execPpsOutPulse h he
  | .ppsInEdge => keeps_execPpsInEdge h he
  | .ptpMessageRx _ _ => keeps_execPtpMessageRx h _ _ he
  | .servoHoldover => keeps_execServoHoldover h he
  | .holdoverLimitExpiry => keeps_execHoldoverLimitExpiry h he
  | .tickArm => keeps_execTickArm h he
  | .tickDisarm => keeps_execTickDisarm h he
  | .quoinCommitTick _ _ => keeps_execQuoinCommitTick h _ _ he
  | .quoinCommitNow => keeps_execQuoinCommitNow h he
  | .quoinCancel => keeps_execQuoinCancel h he
  | .commitNowApply => keeps_execCommitNowApply h he
  | .qcCreate _ _ => keeps_execQcCreate h _ _ he
  | .qcDrain _ _ => keeps_execQcDrain h _ _ he
  | .qcResume _ _ => keeps_execQcResume h _ _ he
  | .qcDestroy _ _ => keeps_execQcDestroy h _ _ he
  | .qcArm _ _ => keeps_execQcArm h _ _ he
  | .qcQuery _ _ => keeps_execQcQuery h _ _ he
  | .doorbell _ _ => keeps_execDoorbell h _ _ he
  | .scanContinue _ _ => keeps_execScanContinue h _ _ he
  | .sweepRescan _ _ => keeps_execSweepRescan h _ _ he
  | .deferredScan _ _ => keeps_execDeferredScan h _ _ he
  | .queueFetchError _ _ => keeps_execQueueFetchError h _ _ he
  | .releaseWord _ _ _ => keeps_execReleaseWord h _ _ _ he
  | .pendingReceiptWrite _ _ => keeps_execPendingReceiptWrite h _ _ he
  | .schedulerGrant => keeps_execSchedulerGrant h he
  | .wheelSlotBegin => keeps_execWheelSlotBegin h he
  | .overflowSlotMove => keeps_execOverflowSlotMove h he
  | .pieceFinish _ => keeps_execPieceFinish h _ he
  | .packetEligible _ => keeps_execPacketEligible h _ he
  | .qsCommit _ => keeps_execQsCommit h _ he
  | .copy _ => keeps_execCopy h _ he
  | .write _ => keeps_execWrite h _ he
  | .read _ => keeps_execRead h _ he
  | .send _ => keeps_execSend h _ he
  | .rawSend _ => keeps_execRawSend h _ he
  | .atomic _ => keeps_execAtomic h _ he
  | .tileCopy _ => keeps_execTileCopy h _ he
  | .fence _ => keeps_execFence h _ he
  | .invalidate _ => keeps_execInvalidate h _ he
  | .reduce _ => keeps_execReduce h _ he
  | .transcode _ => keeps_execTranscode h _ he
  | .gatherReduce _ => keeps_execGatherReduce h _ he
  | .attend _ => keeps_execAttend h _ he
  | .topk _ => keeps_execTopk h _ he
  | .embedGather _ => keeps_execEmbedGather h _ he
  | .collOpen _ => keeps_execCollOpen h _ he
  | .collRun _ => keeps_execCollRun h _ he
  | .collClose _ => keeps_execCollClose h _ he
  | .tallyAdd _ => keeps_execTallyAdd h _ he
  | .tallyWait _ => keeps_execTallyWait h _ he
  | .tallyWaitPatience _ => keeps_execTallyWaitPatience h _ he
  | .galleyAllocGrant => keeps_execGalleyAllocGrant h he
  | .permitGrant => keeps_execPermitGrant h he
  | .permitTimeout _ => keeps_execPermitTimeout h _ he
  | .permitWindowEnd _ => keeps_execPermitWindowEnd h _ he
  | .permitRelease _ => keeps_execPermitRelease h _ he
  | .pressBlockDispatch _ => keeps_execPressBlockDispatch h _ he
  | .pressBlockDone _ => keeps_execPressBlockDone h _ he
  | .docketComplete _ => keeps_execDocketComplete h _ he
  | .drainAbort _ => keeps_execDrainAbort h _ he
  | .moderationTimeout _ _ => keeps_execModerationTimeout h _ _ he
  | .msixUnmask _ _ => keeps_execMsixUnmask h _ _ he
  | .tblSync _ _ => keeps_execTblSync h _ _ he
  | .epSync _ => keeps_execEpSync h _ he
  | .epBind _ => keeps_execEpBind h _ he
  | .ligLoad _ _ => keeps_execLigLoad h _ _ he
  | .ligClear _ _ => keeps_execLigClear h _ _ he
  | .tallyAlloc _ _ _ => keeps_execTallyAlloc h _ _ _ he
  | .tallyFree _ _ => keeps_execTallyFree h _ _ he
  | .tallySet _ _ => keeps_execTallySet h _ _ he
  | .tallyRead _ _ => keeps_execTallyRead h _ _ he
  | .keyLoad _ _ => keeps_execKeyLoad h _ _ he
  | .keyErase _ _ => keeps_execKeyErase h _ _ he
  | .keyRead _ _ => keeps_execKeyRead h _ _ he
  | .keySlotZeroise _ _ => keeps_execKeySlotZeroise h _ _ he
  | .roceConnLoad _ => keeps_execRoceConnLoad h _ he
  | .roceConnClear _ => keeps_execRoceConnClear h _ he
  | .routeLoad _ => keeps_execRouteLoad h _ he
  | .routeReady _ => keeps_execRouteReady h _ he
  | .routeData1Write _ => keeps_execRouteData1Write h _ he
  | .routeDrainExpiry => keeps_execRouteDrainExpiry h he
  | .galleyWinRead _ => keeps_execGalleyWinRead h _ he
  | .galleyWinWrite _ _ => keeps_execGalleyWinWrite h _ _ he
  | .galleyCflClear => keeps_execGalleyCflClear h he
  | .ledgerAck _ => keeps_execLedgerAck h _ he
  | .fevRiWrite _ => keeps_execFevRiWrite h _ he
  | .faultForce _ => keeps_execFaultForce h _ he
  | .faultInject _ => keeps_execFaultInject h _ he
  | .keepRequest => keeps_execKeepRequest h he
  | .keepEntry => keeps_execKeepEntry h he
  | .keepWaitExpiry => keeps_execKeepWaitExpiry h he
  | .wakeRequest => keeps_execWakeRequest h he
  | .idleGate => keeps_execIdleGate h he
  | .pressUngate => keeps_execPressUngate h he
  | .comparatorFire _ => keeps_execComparatorFire h _ he
  | .instCreate _ => keeps_execInstCreate h _ he
  | .instDestroy _ => keeps_execInstDestroy h _ he
  | .instReset _ => keeps_execInstReset h _ he
  | .instQuery _ => keeps_execInstQuery h _ he
  | .instSet _ => keeps_execInstSet h _ he
  | .keepList _ => keeps_execKeepList h _ he
  | .keepClaim _ => keeps_execKeepClaim h _ he
  | .keepDiscard _ => keeps_execKeepDiscard h _ he
  | .resetClearing _ => keeps_execResetClearing h _ he
  | .functionLevelReset _ => keeps_execFunctionLevelReset h _ he
  | .vfEnableClear _ _ => keeps_execVfEnableClear h _ _ he
  | .d3hotEntry _ => keeps_execD3hotEntry h _ he
  | .d0Return _ => keeps_execD0Return h _ he
  | .perstAssert _ _ => keeps_execPerstAssert h _ _ he
  | .perstDeassert _ => keeps_execPerstDeassert h _ he
  | .hotReset _ => keeps_execHotReset h _ he
  | .hatchLinkUp _ _ _ => keeps_execHatchLinkUp h _ _ _ he
  | .hatchLinkDown _ => keeps_execHatchLinkDown h _ he
  | .heldDocketEnd _ _ => keeps_execHeldDocketEnd h _ _ he
  | .holdLimitExpiry _ => keeps_execHoldLimitExpiry h _ he
  | .l0pRequest _ _ => keeps_execL0pRequest h _ _ he
  | .l1Wake _ => keeps_execL1Wake h _ he
  | .atsInvalidate _ _ _ => keeps_execAtsInvalidate h _ _ _ he
  | .cellarLinkDown _ => keeps_execCellarLinkDown h _ he
  | .cellarLinkUp _ => keeps_execCellarLinkUp h _ he
  | .partLoss _ _ => keeps_execPartLoss h _ _ he
  | .scrubPass _ _ _ _ => keeps_execScrubPass h _ _ _ _ he
  | .backgroundClear _ _ => keeps_execBackgroundClear h _ _ he
  | .galleyTest _ _ _ _ _ => keeps_execGalleyTest h _ _ _ _ _ he
  | .laneFault _ _ => keeps_execLaneFault h _ _ he
  | .spareReq _ _ => keeps_execSpareReq h _ _ he
  | .spareAck _ _ => keeps_execSpareAck h _ _ he
  | .spareReqRepeat _ => keeps_execSpareReqRepeat h _ he
  | .spareAckTimeout _ => keeps_execSpareAckTimeout h _ he
  | .portRetrain _ => keeps_execPortRetrain h _ he
  | .peerId _ _ _ => keeps_execPeerId h _ _ _ he
  | .cellReceive _ _ => keeps_execCellReceive h _ _ he
  | .retry _ _ => keeps_execRetry h _ _ he
  | .retryRepeat _ => keeps_execRetryRepeat h _ he
  | .packetRoute _ _ _ _ => keeps_execPacketRoute h _ _ _ _ he
  | .staleDiscard _ _ _ => keeps_execStaleDiscard h _ _ _ he
  | .writePacket _ => keeps_execWritePacket h _ he
  | .sendPacket _ => keeps_execSendPacket h _ he
  | .readReq _ => keeps_execReadReq h _ he
  | .atomicPacket _ => keeps_execAtomicPacket h _ he
  | .readResp _ => keeps_execReadResp h _ he
  | .atomicResp _ => keeps_execAtomicResp h _ he
  | .ack _ => keeps_execAck h _ he
  | .nak _ => keeps_execNak h _ he
  | .ackDelayExpiry _ => keeps_execAckDelayExpiry h _ he
  | .rtoExpiry _ _ => keeps_execRtoExpiry h _ _ he
  | .rnrResend _ _ => keeps_execRnrResend h _ _ he
  | .connectionFail _ => keeps_execConnectionFail h _ he
  | .rxContextExpiry _ => keeps_execRxContextExpiry h _ he
  | .txContextExpiry _ => keeps_execTxContextExpiry h _ he
  | .collStep _ => keeps_execCollStep h _ he
  | .collFold _ => keeps_execCollFold h _ he
  | .collResult _ => keeps_execCollResult h _ he
  | .collPiece _ => keeps_execCollPiece h _ he
  | .smallRun _ => keeps_execSmallRun h _ he
  | .tallyAddPacket _ => keeps_execTallyAddPacket h _ he
  | .tallyDone _ => keeps_execTallyDone h _ he
  | .join _ => keeps_execJoin h _ he
  | .decide _ => keeps_execDecide h _ he
  | .ready _ => keeps_execReady h _ he
  | .end_ _ => keeps_execEnd h _ he
  | .close _ => keeps_execClose h _ he
  | .queryPacket _ => keeps_execQueryPacket h _ he
  | .queryAnswer _ => keeps_execQueryAnswer h _ he
  | .syncAck _ => keeps_execSyncAck h _ he
  | .joinHoldExpiry _ _ _ _ => keeps_execJoinHoldExpiry h _ _ _ _ he
  | .coordinatorGatherTimeout _ _ => keeps_execCoordinatorGatherTimeout h _ _ he
  | .collOpenTimeout _ _ => keeps_execCollOpenTimeout h _ _ he
  | .collRunPatience _ _ => keeps_execCollRunPatience h _ _ he
  | .laggardQueryTimeout _ _ => keeps_execLaggardQueryTimeout h _ _ he
  | .frameReceive _ _ => keeps_execFrameReceive h _ _ he
  | .roceSendRx _ _ => keeps_execRoceSendRx h _ _ he
  | .roceWriteRx _ _ => keeps_execRoceWriteRx h _ _ he
  | .roceReadRx _ _ => keeps_execRoceReadRx h _ _ he
  | .roceAtomicRx _ _ => keeps_execRoceAtomicRx h _ _ he
  | .roceAckRx _ _ => keeps_execRoceAckRx h _ _ he
  | .roceNakRx _ _ => keeps_execRoceNakRx h _ _ he
  | .roceAckTimeout _ => keeps_execRoceAckTimeout h _ he
  | .cnpRx _ _ => keeps_execCnpRx h _ _ he
  | .rawFrameRx _ _ => keeps_execRawFrameRx h _ _ he
  | .pfcFrameRx _ _ => keeps_execPfcFrameRx h _ _ he
  | .pfcRepeat _ _ => keeps_execPfcRepeat h _ _ he
  | .pfcWatchdog _ _ => keeps_execPfcWatchdog h _ _ he
  | .mgmtFrameRx _ => keeps_execMgmtFrameRx h _ he
  | .arpRequest _ _ _ => keeps_execArpRequest h _ _ _ he
  | .getVersion _ => keeps_execGetVersion h _ he
  | .getCapabilities _ _ => keeps_execGetCapabilities h _ _ he
  | .negotiateAlgorithms _ _ => keeps_execNegotiateAlgorithms h _ _ he
  | .getDigests _ => keeps_execGetDigests h _ he
  | .getCertificate _ _ _ _ => keeps_execGetCertificate h _ _ _ _ he
  | .challenge _ _ _ => keeps_execChallenge h _ _ _ he
  | .getMeasurements _ _ _ _ => keeps_execGetMeasurements h _ _ _ _ he
  | .keyExchange _ => keeps_execKeyExchange h _ he
  | .finish _ _ _ => keeps_execFinish h _ _ _ he
  | .heartbeat _ => keeps_execHeartbeat h _ he
  | .keyUpdate _ _ => keeps_execKeyUpdate h _ _ he
  | .endSession _ => keeps_execEndSession h _ he
  | .bootFirmware => keeps_execBootFirmware h he
  | .bootForme => keeps_execBootForme h he
  | .bootCertChain => keeps_execBootCertChain h he
  | .bootPlates => keeps_execBootPlates h he
  | .bootDiscard => keeps_execBootDiscard h he
  | .railsValid => keeps_execRailsValid h he
  | .powerOff => keeps_execPowerOff h he
  | .railFault _ _ => keeps_execRailFault h _ _ he
  | .tempSample _ => keeps_execTempSample h _ he
  | .aliveToggle => keeps_execAliveToggle h he
  | .watchdogServe _ _ => keeps_execWatchdogServe h _ _ he
  | .watchdogExpiry => keeps_execWatchdogExpiry h he
  | .watchSelfcheckFail => keeps_execWatchSelfcheckFail h he
  | .ruzelMismatch _ => keeps_execRuzelMismatch h _ he
  | .ruzelHeartbeatMiss _ => keeps_execRuzelHeartbeatMiss h _ he
  | .pressUnitFault _ => keeps_execPressUnitFault h _ he
  | .spineFlitError _ _ _ => keeps_execSpineFlitError h _ _ _ he
  | .cipherSelfcheckFail _ => keeps_execCipherSelfcheckFail h _ he
  | .registerWrite _ _ => keeps_execRegisterWrite h _ _ he
  | .unimplementedOpcode _ => keeps_execUnimplementedOpcode h _ he
  | .portTrainingDone _ _ => keeps_execPortTrainingDone h _ _ he
  | .l1Entry _ _ => keeps_execL1Entry h _ _ he
  | .hatchRecovery _ => keeps_execHatchRecovery h _ he
  | .cellarTrainingDone _ _ _ _ => keeps_execCellarTrainingDone h _ _ _ _ he
  | .tierTrainingDone _ _ _ => keeps_execTierTrainingDone h _ _ _ he
  | .deviceKeyDerived => keeps_execDeviceKeyDerived h he
  | .twinResync _ => keeps_execTwinResync h _ he
  | .pfcPauseExpiry _ _ => keeps_execPfcPauseExpiry h _ _ he
  | .roceReadResponseRx _ _ => keeps_execRoceReadResponseRx h _ _ he
  | .roceRnrRetry _ => keeps_execRoceRnrRetry h _ he
  | .responseRecordExpiry _ _ => keeps_execResponseRecordExpiry h _ _ he
  | .ptpMessageSend _ => keeps_execPtpMessageSend h _ he
  | .plcaBeaconLoss => keeps_execPlcaBeaconLoss h he
  | .mgmtCollision => keeps_execMgmtCollision h he

/-- What `Keeps` says, of the state that a command answers. -/
theorem exec_keeps {c : Instr} {s t : State} (he : exec c s = .next t) : Keeps s t := keeps_exec (Keeps.refl s) c he

/-! ### The step -/

/-- A step takes the front command and keeps what is kept from the state with the queue's rest. -/
theorem step_keeps (s : State) : ∃ t, step s = .next t ∧ Keeps { s with pending := s.pending.tail } t := by
  unfold step
  split
  · next hp => exact ⟨idle s, rfl, by simpa only [hp, List.tail_nil] using hp ▸ keeps_idle (Keeps.refl s)⟩
  · next c rest hp =>
    obtain ⟨t, ht⟩ := exec_total c { s with pending := rest }
    exact ⟨t, ht, by simpa only [hp, List.tail_cons] using exec_keeps ht⟩

theorem keeps_of_step {s t : State} (h : step s = .next t) : Keeps { s with pending := s.pending.tail } t := by
  obtain ⟨u, hu, kept⟩ := step_keeps s
  cases hu.symm.trans h
  exact kept

/-- The invariants of Safety.lean do not speak of the queue, so the rest of it may take its place. -/
theorem canonical_withPending {s : State} (h : s.Canonical) (l : List Instr) : ({ s with pending := l } : State).Canonical :=
  ⟨h.shelf, h.store, h.cellar, h.galley, h.hosts⟩

theorem fixed_withPending {s : State} (h : s.Fixed) (l : List Instr) : ({ s with pending := l } : State).Fixed :=
  ⟨h.hatches, h.hosts, h.ports, h.ledger, h.units, h.pairs, h.comparators⟩

/-- Settles O60: each command keeps the form by the laws of its operation, and the step runs one command on the queue's
rest. -/
theorem stepKeepsForm : Obligations.StepKeepsForm := by
  unfold Obligations.StepKeepsForm
  refine ⟨fun c s => ?total, fun s => ?rest, fun s t canonical fixed hs => ?form, fun s t ok hs => ?queue⟩
  case total =>
    obtain ⟨t, ht⟩ := exec_total c s
    exact ⟨t, ht, (exec_keeps ht).queue⟩
  case rest =>
    obtain ⟨t, ht, kept⟩ := step_keeps s
    exact ⟨t, ht, kept.queue⟩
  case form =>
    have kept := keeps_of_step hs
    exact ⟨kept.canonical (canonical_withPending canonical _), kept.fixed (fixed_withPending fixed _)⟩
  case queue =>
    intro c hc
    rw [(keeps_of_step hs).queue] at hc
    exact ok c (List.mem_of_mem_tail hc)

end Sys2Proof.Machine
end

section
/-! PROOFS. The timing wheel, the overflow wheel and the end of a granted piece (15_scheduling_shaping.md R375 to R377, R386). -/
namespace Sys2Proof.Machine

/-! ### The wheels -/

theorem waitMono_mono (t : Nat) (s : State) : (waitMono t s).clk.mono = max s.clk.mono t := by
  simp only [waitMono, pass]
  omega

theorem getQueue_waitMono (t : Nat) (s : State) (i k : Nat) : getQueue (waitMono t s) i k = getQueue s i k := rfl

/-- What a queue becomes when every slot of the timing wheel up to `due` has begun. -/
def offTimingWheel (due : Nat) (x : Inst) (q : Queue) : Queue :=
  match q.place with
  | .timing k => if k ≤ due then { q with place := if paused x q then .none else .eligible } else q
  | _ => q

/-- What a queue becomes at `now` when every slot of the overflow wheel up to `due` has begun. -/
def offOverflowWheel (now due : Nat) (q : Queue) : Queue :=
  match q.place with
  | .overflow k et => if k ≤ due then { q with place := wheelPlace now et } else q
  | _ => q

/-- Every queue takes its image and the rotating orders follow. -/
def turnWheel (f : Inst → Queue → Queue) (s : State) : State :=
  joinRounds { s with insts := tmap s.insts fun _ x => { x with queues := tmap x.queues fun _ q => f x q } }

theorem getQueue_turnWheel (f : Inst → Queue → Queue) (s : State) (i k : Nat) :
    getQueue (turnWheel f s) i k = (getQueue s i k).map (f (getInst s i)) :=
  getQueue_tmap (fun _ x => { x with queues := tmap x.queues fun _ q => f x q }) (fun _ => f) s (fun _ _ => rfl) i k

theorem turnWheel_clk (f : Inst → Queue → Queue) (s : State) : (turnWheel f s).clk = s.clk := rfl

/-- Beside the clock, a wheel turned at a moment that it waits for changes places and rotating orders alone. -/
theorem turnWheel_frame (f : Inst → Queue → Queue) (t : Nat) (s : State) : turnWheel f (waitMono t s) = { s with
    clk := (turnWheel f (waitMono t s)).clk, insts := (turnWheel f (waitMono t s)).insts
    sched := { s.sched with rounds := (turnWheel f (waitMono t s)).sched.rounds } } := rfl

theorem exec_wheelSlotBegin {s : State} {n : Nat} (first : minBy id (timingSlots s) = some n) :
    exec .wheelSlotBegin s = .next (turnWheel (offTimingWheel (max n ((waitMono (n * 64) s).clk.mono / 64)))
      (waitMono (n * 64) s)) := by
  simp only [exec, execWheelSlotBegin, wheelSlotBegin, first, Option.getD_some]
  rfl

theorem exec_overflowSlotMove {s : State} {n : Nat} (first : minBy id (overflowSlots s) = some n) :
    exec .overflowSlotMove s = .next (turnWheel (fun _ => offOverflowWheel (now256 (waitMono (n * 262144) s))
      (max n ((waitMono (n * 262144) s).clk.mono / 262144))) (waitMono (n * 262144) s)) := by
  simp only [exec, execOverflowSlotMove, overflowSlotMove, first, Option.getD_some]
  rfl

/-! ### The end of a piece -/

/-- The place of a finished piece is free again. -/
def freePlace (s : State) (d : DRef) (q : Queue) : Queue :=
  if q.runs.any (fun r => r.slot == d.slot && pieceDone s d.inst d.queue q r) then
    { q with unfinished := delFirst q.unfinished (· == d.slot) }
  else q

theorem exec_pieceFinish (d : DRef) (s : State) :
    exec (.pieceFinish d) s = .next (placeAll (modQueue d.inst d.queue (freePlace s d) s)) := rfl

/-! ### The obligation -/

/-- Settles O16: each wheel turned as far as its first occupied slot, and the place of the piece in its own queue alone. -/
theorem wheelsBringQueuesBack : Obligations.WheelsBringQueuesBack := by
  unfold Obligations.WheelsBringQueuesBack
  refine ⟨fun s n first => ?timing, fun s n first => ?overflow, fun s d q hq => ?piece⟩
  case timing =>
    refine ⟨_, exec_wheelSlotBegin first, ?_⟩
    rw [turnWheel_clk]
    refine ⟨waitMono_mono _ s, rfl, fun i qi q hq => ⟨fun k placed due => ?_, fun later => ?_⟩, turnWheel_frame _ _ s⟩
    · rw [getQueue_turnWheel, getQueue_waitMono, hq, Option.map_some, offTimingWheel, placed]
      exact congrArg some (if_pos due)
    · rw [getQueue_turnWheel, getQueue_waitMono, hq, Option.map_some, offTimingWheel]
      split
      · next k placed => exact congrArg some (if_neg (Nat.not_le.mpr (later k placed)))
      · rfl
  case overflow =>
    refine ⟨_, exec_overflowSlotMove first, ?_⟩
    rw [turnWheel_clk]
    refine ⟨waitMono_mono _ s, rfl, fun i qi q hq => ⟨fun k et placed due => ?_, fun later => ?_⟩, turnWheel_frame _ _ s⟩
    · rw [getQueue_turnWheel, getQueue_waitMono, hq, Option.map_some, offOverflowWheel, placed]
      exact congrArg some (if_pos due)
    · rw [getQueue_turnWheel, getQueue_waitMono, hq, Option.map_some, offOverflowWheel]
      split
      · next k et placed => exact congrArg some (if_neg (Nat.not_le.mpr (later k et placed)))
      · rfl
  case piece =>
    exact ⟨_, exec_pieceFinish d s, rfl, fun j k away => getQueue_modQueue_ne away _ s,
      by rw [getQueue_modQueue, hq, Option.map_some, freePlace]⟩

end Sys2Proof.Machine
end

section
/-! PROOFS. The ledger and the event ring: what a latched event leaves (19_faults_takeover.md R447 to R454). -/
namespace Sys2Proof.Machine

/-! ### The three ways an event is recorded -/

/-- The times of the last 10 ms at which level 1 events of a class went into the ring. -/
def recentLevel1 (e : Event) (s : State) : List Nat :=
  (s.faults.l1Times.getD e.cls []).filter fun t => decide (s.clk.ptp < t + 10000000)

/-- An event with room that L1_LIMIT does not hold back is written to the ring. -/
theorem record_writes_ring (e : Event) (s : State)
    (free : ¬ (escLevel e s = 1 ∧ fld s.quoin.now.faultResp 20 8 ≤ (recentLevel1 e s).length))
    (room : (s.faults.wi + 512 - s.faults.ri) % 512 ≠ 256) :
    (record e s).2.faults.wi = (s.faults.wi + 1) % 512 ∧
    (record e s).2.faults.ring = tset s.faults.ring (s.faults.wi % 256) [ringWord0 e (escLevel e s) (escCause e s),
      BitVec.ofNat 64 e.detail, BitVec.ofNat 64 s.time.tick, place (subtick s) 0 32 ||| place s.faults.seq 32 32] ∧
    (record e s).2.faults.lost = s.faults.lost ∧ (record e s).2.faults.overflow = s.faults.overflow ∧
    (record e s).2.faults.suppressed = s.faults.suppressed := by
  have notHeld : (decide (escLevel e s = 1) && decide (fld s.quoin.now.faultResp 20 8 ≤ (recentLevel1 e s).length)) = false := by
    simpa only [Bool.and_eq_false_iff, decide_eq_false_iff_not, not_and_or] using free
  unfold recentLevel1 at notHeld
  simp only [record, notHeld, room, decide_false, Bool.false_eq_true, if_false]
  split <;> simp only [interrupt_keeps, and_self]

/-- An event that finds the ring full counts as lost. -/
theorem record_full (e : Event) (s : State)
    (free : ¬ (escLevel e s = 1 ∧ fld s.quoin.now.faultResp 20 8 ≤ (recentLevel1 e s).length))
    (full : (s.faults.wi + 512 - s.faults.ri) % 512 = 256) :
    (record e s).2.faults.wi = s.faults.wi ∧ (record e s).2.faults.ring = s.faults.ring ∧
    (record e s).2.faults.lost = satAdd 32 s.faults.lost 1 ∧ (record e s).2.faults.overflow = true := by
  have notHeld : (decide (escLevel e s = 1) && decide (fld s.quoin.now.faultResp 20 8 ≤ (recentLevel1 e s).length)) = false := by
    simpa only [Bool.and_eq_false_iff, decide_eq_false_iff_not, not_and_or] using free
  unfold recentLevel1 at notHeld
  simp only [record, notHeld, full, decide_true, Bool.false_eq_true, if_false, if_true]
  split <;> simp only [interrupt_keeps, and_self]

/-- An event that L1_LIMIT holds back counts as suppressed alone. -/
theorem record_held (e : Event) (s : State) (one : escLevel e s = 1)
    (limit : fld s.quoin.now.faultResp 20 8 ≤ (recentLevel1 e s).length) :
    (record e s).2.faults.wi = s.faults.wi ∧ (record e s).2.faults.ring = s.faults.ring ∧
    (record e s).2.faults.lost = s.faults.lost ∧
    (record e s).2.faults.suppressed = satAdd 15 s.faults.suppressed 1 := by
  unfold recentLevel1 at limit
  simp only [record, one, limit, decide_true, Bool.and_self, if_true, and_self]

/-! ### Cause and level -/

/-- REPEAT_ESC's condition: a level 2 event of a class with VALID set and the same SOURCE. -/
theorem escCause_eq_one_iff (e : Event) (s : State) :
    escCause e s = 1 ↔ (e.level = 2 ∧ bit s.quoin.now.faultResp e.cls = true ∧
      bit (s.faults.ledger.getD e.cls LedgerClass.reset).first 0 = true ∧
      fld (s.faults.ledger.getD e.cls LedgerClass.reset).first 12 16 = e.source % 65536) := by
  simp only [escCause]
  split
  · next repeats => exact ⟨fun _ => repeats, fun _ => rfl⟩
  · next other =>
    refine ⟨fun one => absurd one ?_, fun repeats => absurd repeats other⟩
    split
    · split
      · decide
      · split <;> decide
    · decide

/-- An event of level 0 or 1 has no cause to escalate. -/
theorem escCause_eq_zero {e : Event} (low : e.level = 0 ∨ e.level = 1) (s : State) : escCause e s = 0 := by
  have not2 : e.level ≠ 2 := by omega
  have notUp : ¬ 2 ≤ e.level := by omega
  simp only [escCause, not2, notUp, false_and, if_false]
  split <;> rfl

/-! ### The obligation -/

/-- Settles O41: the ledger by what recording keeps, the ring by the three ways an event is recorded. -/
theorem eventsAreRecorded : Obligations.EventsAreRecorded := by
  unfold Obligations.EventsAreRecorded
  refine ⟨fun s e _ => ?ledger, fun e level cause seq c => ?ledgerClass, fun s e high room => ?ring, fun s e high full => ?full,
    fun s e one limit => ?held, fun s e c hc => ?cause⟩
  case ledger =>
    obtain ⟨level, insts, quoin, safe, seq, ledger⟩ := record_keeps e s
    refine ⟨level, seq, ?_, fun c other => ?_, safe, insts, quoin⟩
    · rw [ledger, getElem?_modAt, if_pos rfl]
    · rw [ledger, getElem?_modAt, if_neg other]
  case ledgerClass =>
    refine ⟨fun invalid => ?_, fun valid => ?_, rfl, rfl, rfl⟩
    · simp only [ledgerLatch, invalid, Bool.false_eq_true, if_false, and_self]
    · simp only [ledgerLatch, valid, if_true, and_self]
  case ring => exact record_writes_ring e s (fun held => high held.1) room
  case full => exact record_full e s (fun held => high held.1) full
  case held => exact record_held e s one limit
  case cause =>
    subst hc
    exact ⟨escCause_eq_one_iff e s, fun pairs => by simp only [escLevel, pairs, Bool.false_eq_true, if_false],
      fun low => escCause_eq_zero low s⟩

end Sys2Proof.Machine
end

section
/-! PROOFS. The route banks and their commands (12_fabric_cells_routing.md R318, R321; 14_ethernet_management.md R353). -/
namespace Sys2Proof.Machine

/-- BANK as a write of ROUTE_LOAD leaves it. -/
theorem loadBank_writeRouteLoad (v : Word) (s : State) : loadBank (writeRouteLoad v s) = bit v 16 := by
  have field : (fld v 0 18).testBit 16 = v.getLsbD 16 := by simp only [testBit_fld, Nat.zero_add]; rfl
  simp only [loadBank, writeRouteLoad, modFabric, bit, getLsbD_place, Nat.sub_zero, field]
  rfl

/-! ### What each command does in each state of the bank -/

theorem exec_routeLoad (v : Word) {s : State} (up : barAnswers s = true) :
    exec (.routeLoad v) s = .next (if (bankOf (writeRouteLoad v s) (bit v 16)).2 = .inForce ∨
        (bankOf (writeRouteLoad v s) (bit v 16)).2 = .draining then routeAnswer rtState (writeRouteLoad v s)
      else routeAnswer rtOk (modBank (bit v 16) (fun _ => .loading) (writeRouteLoad v s))) := by
  simp only [exec, execRouteLoad, up, if_true, routeLoad, loadBank_writeRouteLoad]
  cases (bankOf (writeRouteLoad v s) (bit v 16)).2 <;> simp

theorem exec_routeReady (v : Word) {s : State} (up : barAnswers s = true) {t : Table RouteEntry} {b : BankState}
    (bank : bankOf (writeRouteLoad v s) (bit v 16) = (t, b)) :
    exec (.routeReady v) s = .next (if b = .loading then
        (firstIllegal (writeRouteLoad v s) t).elim (routeAnswer rtOk (modBank (bit v 16) (fun _ => .ready) (writeRouteLoad v s)))
          fun k => routeAnswer rtEntry (modFabric (fun f => { f with badEntry := k }) (writeRouteLoad v s))
      else routeAnswer rtState (writeRouteLoad v s)) := by
  simp only [exec, execRouteReady, up, if_true, routeReady, loadBank_writeRouteLoad, bank]
  cases b with
  | loading =>
    simp only [if_true]
    cases firstIllegal (writeRouteLoad v s) t <;> rfl
  | _ => rfl

/-- The bank that drains is IDLE from DRAIN_US after the edge on. -/
theorem drainOver_eq {s : State} {e : Bool} (first : e = true → s.fabric.bank0 ≠ .draining)
    (draining : (if e then s.fabric.bank1 else s.fabric.bank0) = .draining) :
    drainOver s = modBank e (fun _ => .idle) (waitMono s.fabric.drainAt s) := by
  cases e with
  | false => exact if_pos draining
  | true => exact (if_neg (first rfl)).trans (if_pos draining)

/-! ### The obligation -/

/-- Settles O38: each command by the state of the bank it names. -/
theorem routeBanksAreLoaded : Obligations.RouteBanksAreLoaded := by
  unfold Obligations.RouteBanksAreLoaded
  refine ⟨fun s u v up hu => ?load, fun s u v t b up hu bank => ?ready, fun s u v up hu => ?data, fun s e run first draining => ?drain⟩
  case load => rw [hu]; exact exec_routeLoad v up
  case ready =>
    subst hu
    rw [exec_routeReady v up bank]
    refine ⟨fun other => by rw [if_neg other], fun loading legal => by rw [if_pos loading, legal]; rfl,
      fun k loading illegal => by rw [if_pos loading, illegal]; rfl⟩
  case data =>
    subst hu
    refine ⟨fun other => ?_, fun loading => ?_⟩
    · simp only [exec, execRouteData1Write, up, if_true, routeData1]
    · simp only [exec, execRouteData1Write, up, if_true, routeData1, loading]
  case drain => simp only [exec, execRouteDrainExpiry, run, if_true, drainOver_eq first draining]

end Sys2Proof.Machine
end

section
/-! PROOFS. The watch domain and the manager's acknowledgements (19_faults_takeover.md R448, R449, R461, R463; comparators
R478). -/
namespace Sys2Proof.Machine

/-! ### LEDGER_ACK -/

theorem ackLedger_frame (m : Nat) (s : State) :
    ackLedger m s = { s with faults := { s.faults with ledger := (ackLedger m s).faults.ledger } } := rfl

theorem ackLedger_class (m : Nat) {c : Nat} (hc : c < 16) {s : State} (all : s.faults.ledger.length = 16) :
    (ackLedger m s).faults.ledger[c]? = (s.faults.ledger[c]?).map fun x => if m / 2 ^ c % 2 = 1 then ackClass x else x := by
  have present : s.faults.ledger[c]? = some (s.faults.ledger.getD c LedgerClass.reset) := by
    rw [List.getD_eq_getElem?_getD, List.getElem?_eq_getElem (all ▸ hc), Option.getD_some]
  simp only [ackLedger, modFaults_faults, List.getElem?_map, List.getElem?_range hc, Option.map_some, present]

/-! ### ALIVE_TOGGLE -/

/-- An edge of ALIVE at a moment that the device waits for. -/
theorem aliveEdge_waitMono (t : Nat) (s : State) :
    emit (.alive (!s.faults.alive)) (modFaults (fun f => { f with alive := !f.alive, aliveAt := (waitMono t s).clk.mono })
      (waitMono t s)) = { waitMono t s with
        faults := { s.faults with alive := !s.faults.alive, aliveAt := (waitMono t s).clk.mono }
        out := s.out ++ [.alive (!s.faults.alive)] } := rfl

/-- ALIVE changes 500 µs after its last edge. -/
theorem toggleAlive_on {s : State} (on : s.faults.aliveOn = true) :
    toggleAlive s = { waitMono (s.faults.aliveAt + 500000) s with
      faults := { s.faults with alive := !s.faults.alive, aliveAt := (waitMono (s.faults.aliveAt + 500000) s).clk.mono }
      out := s.out ++ [.alive (!s.faults.alive)] } := by
  rw [← aliveEdge_waitMono, toggleAlive, if_pos on]

/-! ### COMPARATOR_FIRE -/

/-- The moment at which a comparator fires: on BASE 0 the time counter runs on until it reaches VALUE. -/
def firingTime (c : Comparator) (s : State) : State :=
  if bit c.ctrl 1 then s else waitPtp (s.clk.ptp + (valueTime c.value - counterTime s)) s

/-- FIRED is set, at that moment. -/
def fired (k : Nat) (s : State) : State :=
  modComparator k (fun x => { x with ctrl := x.ctrl ||| 0x10 }) (firingTime (comparator s k) s)

theorem mgrFn_rearmed (k : Nat) (s : State) : mgrFn (modComparator k rearm (fired k s)) = mgrFn s := by
  simp only [fired, firingTime]
  split <;> rfl

theorem inKeeping_rearmed (k : Nat) (s : State) : inKeeping (modComparator k rearm (fired k s)) = inKeeping s := by
  simp only [fired, firingTime]
  split <;> rfl

/-- An enabled comparator whose base has reached VALUE, or will by waiting, sets FIRED; outside safe state it also rearms,
interrupts and wakes. -/
theorem comparatorFire_eq {k : Nat} {s : State} (enabled : bit (comparator s k).ctrl 0 = true)
    (due : bit (comparator s k).ctrl 1 = true → (comparator s k).value.toNat ≤ s.time.tick) :
    comparatorFire k s = if s.startup = .safe then fired k s else
      let t := if bit (comparator s k).ctrl 2 then sendMsix (mgrFn s) (fld (comparator s k).ctrl 32 11)
        (modComparator k rearm (fired k s)) else modComparator k rearm (fired k s)
      if bit (comparator s k).ctrl 3 && inKeeping t then leaveKeeping t else t := by
  have reached : (bit (comparator s k).ctrl 1 && decide (s.time.tick < (comparator s k).value.toNat)) = false := by
    simpa only [Bool.and_eq_false_imp, decide_eq_false_iff_not, Nat.not_lt] using due
  simp only [comparatorFire, enabled, reached, Bool.not_true, Bool.or_self, Bool.false_eq_true, if_false]
  rw [← mgrFn_rearmed k s]
  rfl

/-! ### The obligation -/

/-- Settles O44: each act of the watch domain by its definition, a comparator by what it does once it has fired. -/
theorem watchDomainActs : Obligations.WatchDomainActs := by
  unfold Obligations.WatchDomainActs
  refine ⟨fun s m c up hc all => ?ack, fun s v up => ?index, fun s up on => ?alive, fun s a b runs => ?serve,
    fun s k c up hk same enabled due => ?fire, fun c => ?rearm⟩
  case ack =>
    exact ⟨ackLedger m.toNat s, by simp only [exec, execLedgerAck, up, if_true], ackLedger_frame _ s, ackLedger_class _ hc all⟩
  case index => simp only [exec, execFevRiWrite, up, if_true, writeFevRi, modFaults]
  case alive => exact ⟨_, rfl, by simp only [exec, execAliveToggle, up, if_true, toggleAlive_on on]⟩
  case serve =>
    simp only [exec, execWatchdogServe, runs, Bool.true_and, modFaults, Bool.and_eq_true, decide_eq_true_eq, and_assoc]
  case fire =>
    subst same
    have now : exec (.comparatorFire k) s = .next (comparatorFire k s) := by
      simp only [exec, execComparatorFire, up, hk, decide_true, Bool.and_self, if_true]
    rw [now, comparatorFire_eq enabled due]
    refine ⟨fired k s, rfl, fun safe => by rw [if_pos safe], fun live noIrq noWake => ?_, fun live irq noWake => ?_,
      fun live noIrq wake => ?_⟩
    · rw [if_neg live]; simp only [noIrq, noWake, Bool.false_and, Bool.false_eq_true, if_false]
    · rw [if_neg live]; simp only [irq, noWake, Bool.false_and, Bool.false_eq_true, if_false, if_true]
    · rw [if_neg live]; simp only [noIrq, wake, Bool.true_and, Bool.false_eq_true, if_false, inKeeping_rearmed]
  case rearm =>
    refine ⟨fun none => if_pos none, fun some => ?_⟩
    rw [rearm, if_neg some]
    split <;> rfl

end Sys2Proof.Machine
end

section
/-! PROOFS. Power-on, power-off and the boot mailbox (21_startup_forme.md R480, R483 to R493). -/
namespace Sys2Proof.Machine

/-! ### A hatch put to electrical idle -/

/-- Only the hatches and the pins driven to them change. -/
theorem idleHatch_changes (h : Nat) (s : State) : ∃ l o, idleHatch h s = { s with hatches := l, out := o } := by
  refine ⟨(idleHatch h s).hatches, (idleHatch h s).out, ?_⟩
  simp only [idleHatch]
  split <;> split <;> rfl

theorem each_idleHatch_changes (l : List Nat) (s : State) :
    ∃ hs o, each l idleHatch s = { s with hatches := hs, out := o } := by
  induction l generalizing s with
  | nil => exact ⟨s.hatches, s.out, rfl⟩
  | cons h l ih =>
    obtain ⟨hs, o, first⟩ := idleHatch_changes h s
    obtain ⟨hs', o', rest⟩ := ih (idleHatch h s)
    exact ⟨hs', o', by rw [show each (h :: l) idleHatch s = each l idleHatch (idleHatch h s) from rfl, rest, first]⟩

/-! ### The beginning of the sequence -/

/-- With no column to repair the restart's repairs leave the state as it is. -/
theorem applyRepairs_nil {s : State} (none : s.galley.softRepair = []) : applyRepairs s = s := by
  simp only [applyRepairs, none, List.map_nil, List.foldl_nil]
  rfl

/-- The sequence begun with fuses that read well and no column to repair. -/
theorem beginStart_clean {s : State} (none : s.galley.softRepair = []) (fuses : Config.fuseCrcOk = true) :
    (beginStart s).startup = .powerOn ∧ (beginStart s).boot.starts = satAdd 32 s.boot.starts 1 ∧
    (beginStart s).boot.startedAt = s.clk.mono ∧ (beginStart s).faults.safeN = false ∧
    (beginStart s).faults.wdogOn = true ∧ (beginStart s).pending = s.pending ∧
    (beginStart s).faults.ledger = s.faults.ledger := by
  obtain ⟨hs, o, idled⟩ := each_idleHatch_changes [1, 2, 3] s
  have repaired : applyRepairs (restarted (each [1, 2, 3] idleHatch s)) = restarted (each [1, 2, 3] idleHatch s) :=
    applyRepairs_nil (by rw [idled]; exact none)
  simp only [beginStart, repaired]
  rw [if_pos fuses, idled]
  exact ⟨rfl, rfl, rfl, rfl, rfl, rfl, rfl⟩

/-! ### A GO -/

/-- Every KIND refused before its image is read answers the result alone. -/
theorem bootCommand_refused {s : State} {c : Nat × Instr} {r : Nat} (up : barAnswers s = true) (known : c ∈ bootCommands)
    (refused : goRefused c.1 s = some r) : exec c.2 s = .next (goResult r s) := by
  simp only [bootCommands, List.mem_cons, List.not_mem_nil, or_false] at known
  rcases known with rfl | rfl | rfl | rfl | rfl <;>
    simp only [exec, execBootFirmware, execBootForme, execBootCertChain, execBootPlates, execBootDiscard, up, if_true, bootGo,
      bootDiscard, refused]

theorem goRefused_eq (k : Nat) (s : State) :
    goRefused k s = if s.boot.busy then some 1 else if kindAccepted k s = false then some 6
      else if 4 ≤ k ∧ s.quoin.commit.isSome then some 1
      else if k ≠ 5 ∧ (if k = 1 then 8388608 else if k = 3 then 16384 else 67108864) < s.boot.len.toNat then some 2
      else none := by
  have largest : largestImage k = if k = 1 then 8388608 else if k = 3 then 16384 else 67108864 := by
    unfold largestImage
    split <;> simp_all
  simp only [goRefused, largest, Bool.not_eq_eq_eq_not, Bool.not_true]
  rfl

/-- A GO that is taken, of an image that is read. -/
theorem bootGo_read {kind : Nat} {run : List Byte → State → State} {s u : State} {img : List Byte}
    (taken : goRefused kind s = none) (read : readImage s = (some img, u)) : bootGo kind run s = placeAll (run img u) := by
  simp only [bootGo, taken, read]

/-- A GO that is taken, of an image that cannot be read. -/
theorem bootGo_unread {kind : Nat} (run : List Byte → State → State) {s u : State} (taken : goRefused kind s = none)
    (read : readImage s = (none, u)) :
    bootGo kind run s = if kind ≤ 2 then refuseForme 0 10 u else bootAnswer btRefused 0 10 u := by
  simp only [bootGo, taken, read]

theorem goFirmware_eq (img : List Byte) (u : State) :
    goFirmware img u = (imageFinding 1 img u).elim (bootAnswer btOk 0 0 (modBoot (fun b =>
      { b with firmware := some img, firmwareSvn := imgField img 32 4 }) u)) fun p => refuseForme p.1 p.2 u := by
  unfold goFirmware
  cases imageFinding 1 img u <;> rfl

theorem goForme_eq (img : List Byte) (u : State) :
    goForme img u = (imageFinding 2 img u).elim (configure img u) fun p => refuseForme p.1 p.2 u := by
  unfold goForme
  cases imageFinding 2 img u <;> rfl

/-! ### The refusal of a forme -/

/-- The state a refused image leaves before the event of it. -/
def refusedForme (plate reason : Nat) (s : State) : State :=
  bootAnswer btRefused plate reason { withdrawForme s with startup := .bare }

/-- The event of a refusal is latched with its own level. -/
theorem escLevel_formeEvent (p r : Nat) (s : State) : escLevel (event 13 1 3 p r) s = 3 := by
  simp [escLevel, escCause, pairsExhausted, eventPart, event]

theorem refuseForme_eq (p r : Nat) (s : State) :
    refuseForme p r s = (record (event 13 1 3 p r) (refusedForme p r s)).2 := by
  rw [refuseForme, latch_eq, (record_keeps _ _).1]
  exact if_neg (by rw [escLevel_formeEvent]; decide)

/-- A refused forme leaves BARE without plates, and its bays silent. -/
theorem refusedForme_fields (p r : Nat) (s : State) :
    (refusedForme p r s).startup = .bare ∧ (refusedForme p r s).plates = Plates.empty ∧
    (refusedForme p r s).boot.result = btRefused ∧ (refusedForme p r s).boot.plate = p ∧
    (refusedForme p r s).boot.reason = r ∧ (refusedForme p r s).boot.forme = none ∧
    (refusedForme p r s).fabric.ports = s.fabric.ports.map fun x => { silencePort x with st := .down } := by
  obtain ⟨hs, o, idled⟩ := each_idleHatch_changes [1, 2, 3] { s with
    plates := Plates.empty
    fabric := { s.fabric with
      ports := s.fabric.ports.map (fun p => { silencePort p with st := .down })
      route0 := [], route1 := [], bank0 := .inForce, bank1 := .idle }
    boot := { s.boot with formePending := none, forme := none, formeKey := [] } }
  simp only [refusedForme, withdrawForme, idled]
  exact ⟨rfl, rfl, rfl, rfl, rfl, rfl, rfl⟩

/-! ### The obligation -/

/-- Settles O46: the sequence of R480 and each command of the mailbox, by what its GO finds. -/
theorem bootMailboxWorks : Obligations.BootMailboxWorks := by
  unfold Obligations.BootMailboxWorks
  refine ⟨fun s off => ?rails, fun s => rfl, fun s up live => ?key, fun s c r up known refused => bootCommand_refused up known refused,
    fun s k => goRefused_eq k s, fun s u img f up taken read found => ?firmware, fun s u img f up taken read found => ?forme,
    fun s u v bs up taken read hv => ?chain, fun s u img up taken read => ?plates, fun s u c up known below taken read => ?unread,
    fun s up taken => ?discard, fun s p r _ => ?refuse⟩
  case rails => exact ⟨congrArg _ (if_pos off), beginStart_clean⟩
  case key => simp only [exec, execDeviceKeyDerived, up, live, ne_eq, not_false_eq_true, decide_true, Bool.and_self, if_true, modBoot]
  case firmware =>
    simp only [exec, execBootFirmware, up, if_true, bootGo_read taken read, goFirmware_eq, found]
  case forme => simp only [exec, execBootForme, up, if_true, bootGo_read taken read, goForme_eq, found]
  case chain =>
    subst hv
    refine ⟨fun fits => ?_, fun differs => ?_⟩
    · simp only [exec, execBootCertChain, up, if_true, bootGo_read taken read, goChain, if_pos fits]
    · simp only [exec, execBootCertChain, up, if_true, bootGo_read taken read, goChain, if_neg differs]
  case plates =>
    refine ⟨fun p r found => ?_, fun _ => ?_⟩
    · simp only [exec, execBootPlates, up, if_true, bootGo_read taken read, goPlates, found]
    · simp only [exec, execBootPlates, up, if_true, bootGo_read taken read]
  case unread =>
    simp only [bootCommands, List.mem_cons, List.not_mem_nil, or_false] at known
    obtain rfl | rfl | rfl | rfl | rfl := known
    case inr.inr.inr.inr => exact absurd below (by decide)
    all_goals simp only [exec, execBootFirmware, execBootForme, execBootCertChain, execBootPlates, up, if_true,
      bootGo_unread _ taken read]
  case discard => simp only [exec, execBootDiscard, up, if_true, bootDiscard, taken]
  case refuse => exact ⟨refusedForme p r s, refuseForme_eq p r s, refusedForme_fields p r s⟩

end Sys2Proof.Machine
end

section
/-! PROOFS. Links of the upstream hatches (16_hatches.md R388 to R390, R398, R402, R411). -/
namespace Sys2Proof.Machine

/-! ### HATCH_LINK_UP -/

/-- Waiting leaves the hatches and the device's state as they are. -/
theorem getHatch_waitMono (t : Nat) (s : State) (g : Nat) : getHatch (waitMono t s) g = getHatch s g := rfl

theorem startup_waitMono (t : Nat) (s : State) : (waitMono t s).startup = s.startup := rfl

theorem boot_waitMono (t : Nat) (s : State) : (waitMono t s).boot = s.boot := rfl

theorem getHatch_awaitClock (h g : Nat) (s : State) : getHatch (awaitClock h s) g = getHatch s g := by
  simp only [awaitClock]
  split
  · exact getHatch_waitMono _ s g
  · rfl

theorem startup_awaitClock (h : Nat) (s : State) : (awaitClock h s).startup = s.startup := by
  simp only [awaitClock]
  split
  · exact startup_waitMono _ s
  · rfl

theorem boot_awaitClock (h : Nat) (s : State) : (awaitClock h s).boot = s.boot := by
  simp only [awaitClock]
  split
  · exact boot_waitMono _ s
  · rfl

section
variable {s : State} {h g w : Nat} (trains : mayTrain s h = true) (legal : linkLegal s h g w = true)
include trains legal

/-- Recovery ends in L0. -/
theorem hatchLinkUp_of_recovery (link : (getHatch s h).link = .recovery) :
    hatchLinkUp h g w s = modHatch h (fun x => { x with link := .up, gen := g, width := w, trained := w }) (awaitClock h s) := by
  simp only [hatchLinkUp, trains, legal, getHatch_awaitClock, link, Bool.not_true, Bool.or_self, Bool.false_eq_true, if_false]

/-- Training ends in L0, once POWER_ON is over. -/
theorem hatchLinkUp_of_training (link : (getHatch s h).link = .down ∨ (getHatch s h).link = .training)
    (later : s.startup ≠ .powerOn) : hatchLinkUp h g w s = linkTrained h g w (awaitClock h s) := by
  rcases link with link | link <;>
    simp only [hatchLinkUp, trains, legal, getHatch_awaitClock, startup_awaitClock, link, later, Bool.not_true, Bool.or_self,
      Bool.false_eq_true, if_false]

end

/-- The first training of hatch 0 ends POWER_ON. -/
theorem hatchLinkUp_of_powerOn {s : State} {g w : Nat} (trains : mayTrain s 0 = true) (legal : linkLegal s 0 g w = true)
    (link : (getHatch s 0).link = .down ∨ (getHatch s 0).link = .training) (first : s.startup = .powerOn) :
    hatchLinkUp 0 g w s = linkTrained 0 g w
      { waitMono (s.boot.startedAt + 20000000) (awaitClock 0 s) with startup := .bare } := by
  rcases link with link | link <;>
    simp only [hatchLinkUp, trains, legal, getHatch_awaitClock, startup_awaitClock, boot_awaitClock, link, first, Bool.not_true,
      Bool.or_self, Bool.false_eq_true, if_false, if_true]

/-! ### The obligation -/

/-- Settles O49: each change of a link by its operation, under the hypotheses that let it happen. -/
theorem hatchLinksChange : Obligations.HatchLinksChange := by
  unfold Obligations.HatchLinksChange
  refine ⟨fun s v h g w trains legal hv link later => ?trained, fun s v g w trains legal hv link first => ?first,
    fun s v h g w trains legal hv link => ?recovered, fun s u h up live hu => ?down, fun h q => rfl,
    fun s h t run up since limit kept => ?limit, fun s h w run up link enabled width change => ?l0p,
    fun s h k up upst small calm link => ?l1, fun s h up upst link => ?wake, fun s h up upst link => ?recovery⟩
  case trained =>
    replace hv : v = awaitClock h s := hv
    subst hv
    refine ⟨_, rfl, by rw [← hatchLinkUp_of_training trains legal link later]; rfl, ?_⟩
    simp only [linkTrained]
    split <;> rfl
  case first =>
    replace hv : v = awaitClock 0 s := hv
    subst hv
    rw [← hatchLinkUp_of_powerOn trains legal link first]
    rfl
  case recovered =>
    replace hv : v = awaitClock h s := hv
    subst hv
    rw [← hatchLinkUp_of_recovery trains legal link]
    rfl
  case down =>
    subst hu
    simp only [exec, execHatchLinkDown, up, live, Bool.and_self, if_true]
    rfl
  case limit =>
    simp only [exec, execHoldLimitExpiry, run, up, Bool.and_self, if_true, holdExpiry, since]
    exact congrArg _ (if_pos ⟨limit, kept⟩)
  case l0p =>
    have legal : l0pLegal s h w = true := by
      simp only [l0pLegal, Bool.and_eq_true, Bool.or_eq_true, decide_eq_true_eq, List.contains_iff_mem]
      exact ⟨width, change⟩
    simp only [exec, execL0pRequest, run, up, link, enabled, legal, decide_true, Bool.and_self, if_true]
  case l1 =>
    have asleep : (decide ((getHatch s h).link = .up) || decide ((getHatch s h).link = .l1)) = true := by
      simpa only [Bool.or_eq_true, decide_eq_true_eq] using link
    simp only [exec, execL1Entry, up, upst, small, calm, asleep, decide_true, Bool.not_false, Bool.and_self, if_true]
  case wake =>
    have asleep : (decide ((getHatch s h).link = .l1) || decide ((getHatch s h).link = .l12)) = true := by
      simpa only [Bool.or_eq_true, decide_eq_true_eq] using link
    simp only [exec, execL1Wake, up, upst, asleep, Bool.and_self, if_true, l1Wake]
  case recovery => simp only [exec, execHatchRecovery, up, upst, link, decide_true, Bool.and_self, if_true]

end Sys2Proof.Machine
end

section
/-! PROOFS. The head of an input buffer (12_fabric_cells_routing.md R310 to R313, R319, R320; 13_delivery_congestion.md R344,
R347). -/
namespace Sys2Proof.Machine

/-! ### PACKET_ROUTE by what the head has met so far -/

theorem exec_packetRoute {s : State} (run : running s = true) {i : Nat} (known : i ≤ 48) (v c : Nat) (b : Bool) :
    exec (.packetRoute i v b c) s = .next (routeHead i (codeOf v b) c s) := by
  simp only [exec, execPacketRoute, run, show i ≤ ownInput from known, decide_true, Bool.and_self, if_true]

section
variable {s : State} {i v c : Nat} {w : Waiting} {l : List Waiting} (head : bufferAt s i v c = w :: l)
include head

/-- A head with an output leaves when it is that output's next. -/
theorem routeHead_of_output {p : Nat} (given : w.output = some p) : routeHead i v c s = tryLeave i v c p s := by
  simp only [routeHead, head, given]

variable (fresh : w.output = none)
include fresh

theorem routeHead_of_bad_epoch (bank : (bankOf s w.p.epoch).2 = .idle ∨ (bankOf s w.p.epoch).2 = .loading) :
    routeHead i v c s = discardHead i v c w dropEpoch s := by
  simp only [routeHead, head, fresh, bank, if_true]

variable (notIdle : (bankOf s w.p.epoch).2 ≠ .idle) (notLoading : (bankOf s w.p.epoch).2 ≠ .loading)
include notIdle notLoading

theorem routeHead_of_local (mine : isLocal (routeOf s w.p.epoch w.p.dstDev) = true) :
    routeHead i v c s = if typeFits w.p then freeCells i v c (cellsOf w.p.body.length)
        (modFabric (fun f => { f with ejected := f.ejected ++ [w.p] }) (setBuffer i v c l s))
      else discardHead i v c w dropNoRoute s := by
  simp only [routeHead, head, fresh, notIdle, notLoading, or_self, if_false, mine, if_true]

variable (other : isLocal (routeOf s w.p.epoch w.p.dstDev) = false)
include other

theorem routeHead_of_hops (port : i < 48) (hops : 6 ≤ w.p.hops) : routeHead i v c s = discardHead i v c w dropHops s := by
  simp only [routeHead, head, fresh, notIdle, notLoading, or_self, if_false, other, Bool.false_eq_true, port, hops, and_self,
    if_true]

variable (few : i = 48 ∨ w.p.hops < 6)
include few

/-- A head for another device takes the output that is chosen for it, or none. -/
theorem routeHead_of_choice : routeHead i v c s =
    (chooseOutput s w.p (if i < 48 then w.p.hops else 0)).elim
      (if i < 48 then discardHead i v c w dropNoRoute s else ownUnroutable v c w s)
      fun out => tryLeave i v c out.1 (setBuffer i v c ({ w with output := some out.1, p := withLoad s out.1 w.p } :: l)
        (modFabric (fun f => { f with
          rotate := tset f.rotate w.p.dstDev ((tget f.rotate w.p.dstDev).getD 0 + 1)
          nonMin := if out.2 then satAdd 64 f.nonMin 1 else f.nonMin }) s)) := by
  have within : ¬ (i < 48 ∧ 6 ≤ w.p.hops) := by omega
  simp only [routeHead, head, fresh, notIdle, notLoading, or_self, if_false, other, Bool.false_eq_true, within]
  cases chooseOutput s w.p (if i < 48 then w.p.hops else 0) <;> rfl

end

/-! ### A packet of this device without a route -/

/-- A response, or a request of no message of this device, is counted at port 0. -/
theorem ownUnroutable_of_no_docket {s : State} {v c : Nat} {w : Waiting}
    (none : isRequest w.p = false ∨ ownMessage s w.p = none) :
    ownUnroutable v c w s = modPort 0 (fun q => { q with noRoute := satAdd 20 q.noRoute 1 })
      (setBuffer 48 v c ((bufferAt s 48 v c).drop 1) s) := by
  have noMessage : (if isRequest w.p then ownMessage s w.p else Option.none) = Option.none := by
    rcases none with response | unknown
    · rw [response]; rfl
    · rw [unknown, ite_self]
  simp only [ownUnroutable, noMessage]
  rfl

/-! ### The obligation -/

/-- Settles O54: the head of a buffer by its bank, its destination, its hops and the output chosen for it. -/
theorem packetsAreRouted : Obligations.PacketsAreRouted := by
  unfold Obligations.PacketsAreRouted
  refine ⟨fun s i v c b w l run known head fresh bank => ?epoch, fun s i v c b w l run known head fresh idle loading mine => ?ejected,
    fun s i v c b w l run known head fresh idle loading other => ?choice, fun s u i v c p hu => ?leaves,
    fun s u v c w hu none => ?unroutable, fun s i v c p b w l run known head given => ?again, fun s i v c w l run port vc head => ?stale⟩
  case epoch => rw [exec_packetRoute run known, routeHead_of_bad_epoch head fresh bank]
  case ejected => rw [exec_packetRoute run known, routeHead_of_local head fresh idle loading mine]
  case choice =>
    rw [exec_packetRoute run known]
    refine ⟨fun port hops => by rw [routeHead_of_hops head fresh idle loading other port hops], fun few none => ?_,
      fun p far few chosen => ?_⟩
    · rw [routeHead_of_choice head fresh idle loading other few, none, Option.elim_none]
    · rw [routeHead_of_choice head fresh idle loading other few, chosen, Option.elim_some]
  case leaves =>
    subst hu
    refine ⟨fun h next input code cls => ?_, fun h next another => ?_, fun next => ?_⟩
    · simp only [tryLeave, next, input, code, cls, and_self, if_true]
    · simp only [tryLeave, next, another, if_false]
    · simp only [tryLeave, next]
  case unroutable => rw [hu, ownUnroutable_of_no_docket none]
  case again => rw [exec_packetRoute run known, routeHead_of_output head given]
  case stale =>
    simp only [exec, execStaleDiscard, run, port, vc, decide_true, Bool.and_self, if_true, discardStale, head]

end Sys2Proof.Machine
end

section
/-! PROOFS. Link-level acceptance, retry and replay (12_fabric_cells_routing.md R295 to R304, R309). -/
namespace Sys2Proof.Machine

/-! ### CELL_RECEIVE -/

theorem exec_cellReceive {s : State} {p : Nat} (run : running s = true) (takes : takesCells s p = true) (c : Cell) :
    exec (.cellReceive p c) s = .next (cellArrives p c s) := by
  simp only [exec, execCellReceive, run, takes, Bool.and_self, if_true]

/-- What a good cell does once its ACK_LSN is taken. -/
theorem cellArrives_good {s : State} {p : Nat} {c : Cell} (fec : c.fecOk = true) (crc : cellCrcOk c = true)
    (legal : cellLegal c = true) : cellArrives p c s =
      if cellKind c.tag = 3 then
        if leNat (c.body.take 1) = 1 then retryAsked p (leNat ((c.body.drop 1).take 2)) (takeAck p (cellAck c.tag) s)
        else if leNat (c.body.take 1) = 2 then spareAsked p (leNat ((c.body.drop 1).take 2)) (takeAck p (cellAck c.tag) s)
        else if leNat (c.body.take 1) = 3 then spareAnswered p (leNat ((c.body.drop 1).take 2)) (takeAck p (cellAck c.tag) s)
        else takeAck p (cellAck c.tag) s
      else if cellKind c.tag = 0 ∧ cellCrCode c.tag = 15 then takeAck p (cellAck c.tag) s
      else numberedCell p c (takeAck p (cellAck c.tag) s) := by
  simp only [cellArrives, fec, crc, legal, if_true, Bool.not_true, Bool.or_self, Bool.false_eq_true, if_false]
  by_cases control : cellKind c.tag = 3
  · simp only [control, if_true]
    split
    · next one => rw [if_pos one]
    · next two => rw [two]; rfl
    · next three => rw [three]; rfl
    · next not1 not2 not3 => rw [if_neg not1, if_neg not2, if_neg not3]
  · simp only [control, if_false]

/-- A bad cell starts recovery, where the port takes cells still. -/
theorem cellArrives_bad {s : State} {p : Nat} {c : Cell}
    (bad : c.fecOk = false ∨ cellCrcOk c = false ∨ cellLegal c = false) :
    ∃ u v, u = (if c.fecOk then s else if atFault (noteWords p c.lane 1 s) p c.lane (.codewords 1) &&
        faultPort (noteWords p c.lane 1 s) c.lane == some p then laneFault p c.lane (noteWords p c.lane 1 s)
      else noteWords p c.lane 1 s) ∧ v = (if cellCrcOk c then takeAck p (cellAck c.tag) u else u) ∧
    cellArrives p c s = if takesCells v p then enterRecovery p v else v := by
  have found : (!c.fecOk || !cellCrcOk c || !cellLegal c) = true := by
    simpa only [Bool.or_eq_true, Bool.not_eq_true', or_assoc] using bad
  exact ⟨_, _, rfl, rfl, if_pos found⟩

/-! ### A numbered cell by its distance from the expected LSN -/

/-- How far ahead of the expected LSN a cell is. -/
def lsnAhead (u : State) (p : Nat) (c : Cell) : Nat := (cellLsn c.tag + 1024 - (getPort u p).rxLsn) % 1024

section
variable {u : State} {p : Nat} {c : Cell}

theorem numberedCell_expected (turn : lsnAhead u p c = 0) :
    numberedCell p c u = acceptAhead p (getPort u p).ahead.length (acceptCell p c u) := if_pos turn

theorem numberedCell_behind (behind : 512 ≤ lsnAhead u p c) : numberedCell p c u = u :=
  (if_neg (show ¬ lsnAhead u p c = 0 by omega)).trans (if_pos (Or.inl behind))

variable (ahead : 0 < lsnAhead u p c) (near : lsnAhead u p c < 512) (steady : (getPort u p).recovery = false)
include ahead near steady

/-- Ahead of its turn outside recovery: it waits where other lanes' cells may still come, or recovery begins. -/
theorem numberedCell_ahead : numberedCell p c u =
    if lsnAhead u p c < (getPort u p).lanesUp.length then
      if (getPort u p).ahead.any fun y => cellLsn y.tag == cellLsn c.tag then u
      else modPort p (fun y => { y with ahead := y.ahead ++ [c] }) u
    else enterRecovery p u := by
  have neither : ¬ (512 ≤ lsnAhead u p c ∨ (getPort u p).recovery = true) := by
    rintro (far | asked)
    · exact Nat.not_le.mpr near far
    · exact absurd (steady.symm.trans asked) (by decide)
  exact (if_neg (show ¬ lsnAhead u p c = 0 by omega)).trans (if_neg neither)

end

/-! ### Replay -/

theorem out_stripe (p n : Nat) (s : State) : ∃ o, (stripe p n s).out = s.out ++ o ∧
    ∀ x ∈ o, (∃ n, x = Out.blocks p n) ∨ ∃ n, x = Out.onLanes p n := by
  simp only [stripe, modPort, emit]
  split
  · exact ⟨_, rfl, fun x hx => Or.inr ⟨_, List.mem_singleton.mp hx⟩⟩
  · refine ⟨_, List.append_assoc .., fun x hx => ?_⟩
    rcases List.mem_cons.mp hx with rfl | hx
    · exact Or.inl ⟨_, rfl⟩
    · exact Or.inr ⟨_, List.mem_singleton.mp hx⟩

theorem out_each_emit {α : Type} (f : α → Out) (l : List α) (s : State) :
    (each l (fun a t => emit (f a) t) s).out = s.out ++ l.map f := by
  induction l generalizing s with
  | nil => exact (List.append_nil _).symm
  | cons a l ih => exact (ih (emit (f a) s)).trans (List.append_assoc ..)

theorem out_replayFrom (p e : Nat) (s : State) : ∃ o, (∀ x ∈ o, (∃ n, x = Out.blocks p n) ∨ ∃ n, x = Out.onLanes p n) ∧
    (replayFrom p e s).out = s.out ++ o ++
      (((getPort s p).replay.dropWhile fun c => c.lsn != e).map (renewed (getPort s p))).map fun c => .replayed p c := by
  simp only [replayFrom, out_each_emit]
  obtain ⟨o, sent, form⟩ := out_stripe p (((getPort s p).replay.dropWhile fun c => c.lsn != e).map (renewed (getPort s p))).length
    (modPort p (fun y => { y with
      replay := (y.replay.takeWhile fun c => c.lsn != e) ++
        ((getPort s p).replay.dropWhile fun c => c.lsn != e).map (renewed (getPort s p)),
      replayed := satAdd 32 y.replayed (((getPort s p).replay.dropWhile fun c => c.lsn != e).map
        (renewed (getPort s p))).length }) s)
  exact ⟨o, form, by rw [sent]; rfl⟩

/-! ### RETRY and its repetition -/

/-- Which RETRY for the same LSN in a row this is. -/
def retryNumber (x : Port) (e : Nat) : Nat := if x.retryE = e ∧ x.retryCount ≠ 0 then x.retryCount + 1 else 1

/-- The cells held from E on are replayed; the eighth RETRY in a row blames the worst lane. -/
theorem retryAsked_eq {s : State} {p : Nat} (takes : takesCells s p = true) (e : Nat) :
    ∃ u, u = replayFrom p e (modPort p (fun y => { y with retryE := e, retryCount := retryNumber (getPort s p) e }) s) ∧
      retryAsked p e s = if retryNumber (getPort s p) e < 8 then u else
        (worstLane u p).elim u fun l => laneFault p l { u with freeCount := u.freeCount + 1 } := by
  refine ⟨_, rfl, ?_⟩
  simp only [retryAsked, takes, Bool.not_true, Bool.false_eq_true, if_false]
  refine if_congr Iff.rfl rfl ?_
  unfold retryNumber
  split
  · next blamed => rw [blamed, Option.elim_some]
  · next blamed => rw [blamed, Option.elim_none]

/-! ### The obligation -/

/-- Settles O53: a cell by its flaws and its distance, a RETRY by its count, and what a replay puts out. -/
theorem cellsAreAccepted : Obligations.CellsAreAccepted := by
  unfold Obligations.CellsAreAccepted
  refine ⟨fun s u p c run takes fec crc legal hu => ?good, fun u p c => ?distance, fun s u v p c run takes bad hu hv => ?bad,
    fun s p run => ?recovery, fun s u p e n run cells takes hn hu => ?retry, fun s p e => ?replay⟩
  case good =>
    rw [exec_cellReceive run takes, cellArrives_good fec crc legal, ← hu]
    refine ⟨fun data full => ?_, fun idle code => ?_, fun a control ha => ?_⟩
    · have numbered : ¬ (cellKind c.tag = 0 ∧ cellCrCode c.tag = 15) := by omega
      rw [if_neg data, if_neg numbered]
    · rw [if_neg (by omega), if_pos ⟨idle, code⟩]
    · rw [if_pos control, ha]
  case distance =>
    refine ⟨numberedCell_expected, numberedCell_behind, fun ahead near steady far => ?_,
      fun ahead near steady lanes unseen => ?_⟩
    · exact (numberedCell_ahead ahead near steady).trans (if_neg (Nat.not_lt.mpr far))
    · exact (numberedCell_ahead ahead near steady).trans ((if_pos lanes).trans (if_neg (by rw [unseen]; decide)))
  case bad =>
    obtain ⟨u', v', hu', hv', arrives⟩ := cellArrives_bad (p := p) (s := s) bad
    have first : u = u' := hu.trans hu'.symm
    have second : v = v' := by rw [hv, hv', first]
    rw [exec_cellReceive run takes, arrives, second]
  case recovery =>
    refine ⟨fun asked => ⟨if_pos asked, ?_⟩, fun steady => ⟨?_, ?_⟩⟩
    · simp only [exec, execRetryRepeat, run, if_true, retryAgain, asked]
    · simp only [enterRecovery, steady, Bool.false_eq_true, if_false]
    · simp only [exec, execRetryRepeat, run, if_true, retryAgain, steady, Bool.false_eq_true, if_false]
  case retry =>
    replace hn : n = retryNumber (getPort s p) e := hn
    subst hn
    obtain ⟨u', hu', asked⟩ := retryAsked_eq takes e
    have now : exec (.retry p e) s = .next (retryAsked p e s) := by
      simp only [exec, execRetry, run, cells, Bool.and_self, if_true]
    rw [now, asked, hu'.trans hu.symm]
    refine ⟨fun few => by rw [if_pos few], fun l many worst => ?_, fun many none => ?_⟩
    · rw [if_neg (Nat.not_lt.mpr many), worst, Option.elim_some]
    · rw [if_neg (Nat.not_lt.mpr many), none, Option.elim_none]
  case replay =>
    obtain ⟨o, form, sent⟩ := out_replayFrom p e s
    exact ⟨_, o, form, rfl, sent⟩

end Sys2Proof.Machine
end

section
/-! PROOFS. Lanes, the spare lane, training and the peer of a port (12_fabric_cells_routing.md R305 to R308; 19_faults_takeover.md
R446; 21_startup_forme.md R491). -/
namespace Sys2Proof.Machine

/-! ### LANE_FAULT -/

theorem exec_laneFault {s : State} (run : running s = true) {l p : Nat} (port : faultPort s l = some p) (cause : LaneCause) :
    exec (.laneFault l cause) s = .next
      (let t := match cause with | .codewords n => noteWords p l n s | _ => s
       if atFault t p l cause then laneFault p l t else t) := by
  cases cause <;> simp only [exec, execLaneFault, run, if_true, laneEvent, port]

/-- A lane in service whose fault is found leaves the lanes, or is lost where no spare covers it. -/
theorem laneFault_of_lane {s : State} {l p : Nat} (lane : l < 48) (serves : inService (getPort s p) = true)
    (up : (getPort s p).lanesUp.contains l = true) :
    ∃ u, u = modPort p (fun y => { y with laneFaults := satAdd 8 y.laneFaults 1, retryCount := 0 }) s ∧
      laneFault p l s = if spareFree p s then sendControl p 2 l (modPort p (fun y => { y with
          lanesUp := y.lanesUp.filter (· != l), spareReq := some (l, s.clk.mono, s.clk.mono) }) u)
        else loseLane p l u :=
  ⟨_, rfl, by simp only [laneFault, Nat.not_le.mpr lane, serves, up, Bool.not_true, Bool.or_self, Bool.false_eq_true, if_false]⟩

/-- A faulty spare takes with it the lane that it carries, or that it was asked to carry. -/
theorem laneFault_of_spare {s : State} {l p : Nat} (spare : 48 ≤ l) :
    laneFault p l s = match (getPort s p).spareUsed, (getPort s p).spareReq with
      | some k, _ => loseLane p k (modPort p (fun x => { x with spareBad := true }) s)
      | none, some (k, _) => loseLane p k (modPort p (fun x => { x with spareBad := true }) s)
      | none, none => modPort p (fun x => { x with spareBad := true }) s := by
  simp only [laneFault, spare, if_true]
  cases (getPort s p).spareUsed with
  | some k => rfl
  | none => cases (getPort s p).spareReq <;> rfl

/-- A lost lane leaves the port with its others, or takes it DOWN. -/
theorem loseLane_eq {s : State} {p : Nat} {x : PortPlate} (plate : portPlate s p = some x) (l : Nat) :
    ∃ u, u = modPort p (fun y => { y with
        lanesUp := if x.frame then [] else y.lanesUp.filter (· != l), spareReq := none }) s ∧
      loseLane p l s = if (getPort u p).lanesUp = [] then latch (event 5 2 3 p (getPort u p).peerDev) (takeDown p u) else u :=
  ⟨_, rfl, by simp only [loseLane, plate, portDown, fabricEvent]⟩

/-! ### SPARE_REQ and SPARE_ACK -/

theorem exec_spareReq {s : State} (run : running s = true) {p : Nat} {x : PortPlate} (plate : portPlate s p = some x) (l : Nat) :
    exec (.spareReq p l) s = .next
      (if !inService (getPort s p) || !x.protect || !x.lanes.contains l || (getPort s p).spareBad then s
       else (getPort s p).spareUsed.elim (sendControl p 3 l (useSpare p l s)) fun k => if k = l then sendControl p 3 l s else s) := by
  simp only [exec, execSpareReq, run, if_true, spareAsked, plate]
  cases (getPort s p).spareUsed <;> rfl

theorem exec_spareAck {s : State} (run : running s = true) {p l a b : Nat} (asked : (getPort s p).spareReq = some (l, a, b)) :
    exec (.spareAck p l) s = .next (((getPort (useSpare p l s) p).replay.head?).elim (useSpare p l s)
      fun c => replayFrom p c.lsn (useSpare p l s)) := by
  simp only [exec, execSpareAck, run, if_true, spareAnswered, asked]
  cases (getPort (useSpare p l s) p).replay <;> rfl

/-! ### Training and the peer -/

/-- A returning port waits for the tick edge, where ticks run. -/
theorem admitPort_eq (p : Nat) (s : State) :
    ((getPort s p).wasDown = true → ticking s = true → admitPort p s = modPort p (fun z => { z with returns := true }) s) ∧
    ((getPort s p).wasDown = false ∨ ticking s = false →
      admitPort p s = modPort p (fun y => { y with st := .up, returns := false, wasDown := false }) s) := by
  refine ⟨fun lost ticks => ?_, fun direct => if_neg ?_⟩
  · simp only [admitPort, lost, ticks, Bool.and_self, if_true]
  · rw [Bool.and_eq_true, not_and_or, Bool.not_eq_true, Bool.not_eq_true]
    exact direct

theorem exec_peerId {s : State} {p : Nat} {x : PortPlate} (run : running s = true) (cells : cellPort s p = true)
    (trains : inService (getPort s p) = true ∨ (getPort s p).st = .training) (plate : portPlate s p = some x) (d q : Nat) :
    ∃ u, u = modPort p (fun x => { x with peerDev := d, peerPort := q, peerSeen := true }) s ∧
      exec (.peerId p d q) s = .next (if peerAccepted x (getPort u p) then
          if (getPort u p).linked && !inService (getPort u p) && !(getPort u p).returns then admitPort p u else u
        else latch (event 5 3 3 p d) (unrouteAll p (modPort p (fun x => { x with st := .wrongPeer, returns := false }) u))) := by
  have takes : (inService (getPort s p) || decide ((getPort s p).st = .training)) = true := by
    simpa only [Bool.or_eq_true, decide_eq_true_eq] using trains
  exact ⟨_, rfl, by simp only [exec, execPeerId, run, cells, takes, Bool.and_self, if_true, peerIdentified, plate, fabricEvent]⟩

/-! ### The obligation -/

/-- Settles O52: each fault, takeover and training by its operation on the port. -/
theorem lanesAndPortsRecover : Obligations.LanesAndPortsRecover := by
  unfold Obligations.LanesAndPortsRecover
  refine ⟨fun s u l p n run port hu => ?fault, fun s u l p lane serves up hu => ?lane, fun s u l p spare hu => ?spare,
    fun s u l p x plate hu => ?lost, fun s p l x run plate serves protects lanes good free => ?asked,
    fun s p l k x run plate => ?askedAgain, fun s u p l a b run req hu => ?answered,
    fun s u p x run port down plate lanes hu => ?retrain, fun s u p n x run port training plate some few hu => ?trained,
    fun s p n x port => ?start, fun s u p d q x run cells trains plate hu => ?peer⟩
  case fault =>
    subst hu
    refine ⟨?_, ?_, fun many worst => ?_, fun other => ?_⟩ <;> rw [exec_laneFault run port]
    · simp only [atFault, decide_eq_true_eq]
    · simp only [atFault, decide_eq_true_eq]
    · simp only [atFault, many, worst, decide_true, beq_self_eq_true, Bool.and_self, if_true]
    · have blameless : (decide (8 ≤ (getPort s p).retryCount) && worstLane s p == Option.some l) = false := by
        rcases other with few | worst
        · rw [decide_eq_false (Nat.not_le.mpr few), Bool.false_and]
        · rw [beq_eq_false_iff_ne.mpr worst, Bool.and_false]
      simp only [atFault, blameless, Bool.false_eq_true, if_false]
  case lane =>
    obtain ⟨u', hu', faulty⟩ := laneFault_of_lane lane serves up
    rw [faulty, hu'.trans hu.symm]
    exact ⟨fun free => if_pos free, fun taken => if_neg (by rw [taken]; decide)⟩
  case spare =>
    subst hu
    rw [laneFault_of_spare spare]
    exact ⟨fun k used => by rw [used], fun k a unused req => by rw [unused, req], fun unused none => by rw [unused, none]⟩
  case lost =>
    obtain ⟨u', hu', lost⟩ := loseLane_eq plate l
    rw [lost, hu'.trans hu.symm]
    exact ⟨fun left => if_neg left, fun none => if_pos none⟩
  case asked =>
    rw [exec_spareReq run plate]
    simp only [serves, protects, lanes, good, free, Bool.not_true, Bool.or_self, Bool.false_eq_true, if_false, Option.elim_none]
    rfl
  case askedAgain =>
    rw [exec_spareReq run plate]
    refine ⟨fun used other => ?_, fun used serves protects lanes good => ?_, fun closed => ?_⟩
    · rw [used, Option.elim_some, if_neg other, ite_self]
    · simp only [serves, protects, lanes, good, used, Bool.not_true, Bool.or_self, Bool.false_eq_true, if_false,
        Option.elim_some, if_true]
    · refine congrArg _ (if_pos ?_)
      simpa only [Bool.or_eq_true, Bool.not_eq_true', or_assoc] using closed
  case answered =>
    replace hu : u = useSpare p l s := hu
    subst hu
    refine ⟨exec_spareAck run req, ?_, fun early => ?_⟩
    · simp only [exec, execSpareAckTimeout, run, if_true, spareTimeout, req]
    · simp only [exec, execSpareReqRepeat, run, if_true, spareAgain, req, waitMono_mono, Nat.not_le.mpr early, if_false]
  case retrain =>
    subst hu
    have laned : x.lanes.isEmpty = false := by rw [List.isEmpty_eq_false_iff]; exact lanes
    simp only [exec, execPortRetrain, run, port, decide_true, Bool.and_self, if_true, portRetrain, down, plate, laned, Bool.not_false]
  case trained =>
    subst hu
    have begun : ¬ ((getPort s p).st ≠ .training ∨ x.lanes.length < n) := by
      rintro (other | many)
      · exact other training
      · exact Nat.not_lt.mpr few many
    have alone : ¬ ((getPort s p).st ≠ .training ∨ x.lanes.length < 0) := fun h => h.elim (· training) (Nat.not_lt_zero _)
    refine ⟨?_, ?_⟩
    · simp only [exec, execPortTrainingDone, run, port, decide_true, Bool.and_self, if_true, trainingDone, plate, begun, if_false,
        Nat.pos_iff_ne_zero.mp some]
    · simp only [exec, execPortTrainingDone, run, port, decide_true, Bool.and_self, if_true, trainingDone, plate, alone, if_false]
  case start =>
    have begun := getPort_modPort p (fun y => { y with
      lanesUp := x.lanes.take n, linked := true, linkedAt := s.clk.mono, cellsOut := 0, txLsn := 0, rxLsn := 0, replay := []
      partials := [], ahead := [], words := [], recovery := false, retryCount := 0, credits := startCredits x, owed := []
      spareReq := none, spareUsed := none, spareBad := false }) s port
    replace begun : getPort (startLink p n x s) p = _ := begun
    rw [begun]
    exact ⟨rfl, rfl, rfl, rfl, rfl, (admitPort_eq p s).1, (admitPort_eq p s).2⟩
  case peer =>
    obtain ⟨u', hu', named⟩ := exec_peerId run cells trains plate d q
    rw [named, hu'.trans hu.symm]
    refine ⟨fun accepted => by rw [if_pos accepted], fun refused => by rw [if_neg (by rw [refused]; decide)], fun cell known => ?_⟩
    rw [hu, getPort_modPort _ _ _ known]
    simp only [peerAccepted, cell, Bool.false_or, Bool.true_and, Bool.or_eq_true, Bool.and_eq_true, decide_eq_true_eq, beq_iff_eq]

end Sys2Proof.Machine
end

section
/-! PROOFS. Frames at a frame-mode port: their paths, raw frames and priority flow control (14_ethernet_management.md R351, R352,
R360 to R367). -/
namespace Sys2Proof.Machine

/-! ### The path of a frame -/

section
variable {s : State} {p : Nat} {f : Frame}

theorem pathOf_pfc (pfc : isPfc f.bytes = true) : pathOf s p f = if (flawsOf s p f).any then .flawDrop else .pfc := if_pos pfc

variable (other : isPfc f.bytes = false)
include other

theorem pathOf_stranger (strange : acceptsFrame p f.bytes = false) : pathOf s p f = .notMine := by
  simp only [pathOf, other, strange, Bool.false_eq_true, if_false, Bool.not_false, if_true]

variable (mine : acceptsFrame p f.bytes = true)
include mine

theorem pathOf_flawed (flawed : (flawsOf s p f).any = true) :
    pathOf s p f = if deliverFlawed s p && rawEn s p then .raw else .flawDrop := by
  simp only [pathOf, other, mine, flawed, Bool.not_true, Bool.false_eq_true, if_false, if_true]

theorem pathOf_good (good : (flawsOf s p f).any = false) : pathOf s p f =
    if isPtpFrame f.bytes then .ptp
    else if isRoce f.bytes && ipDest f.bytes == (getPort s p).ipv4 then .roce
    else if rawEn s p then .raw else .notMine := by
  simp only [pathOf, other, mine, good, Bool.not_true, Bool.false_eq_true, if_false]

end

theorem exec_frameReceive {s : State} {p : Nat} (comes : frameComes s p = true) (f : Frame) :
    exec (.frameReceive p f) s = .next (frameArrives p f s) := by
  simp only [exec, execFrameReceive, comes, if_true]

/-! ### Raw frames -/

theorem exec_rawFrameRx {s : State} {p : Nat} {f : Frame} (comes : frameComes s p = true) (path : pathOf s p f = .raw) :
    exec (.rawFrameRx p f) s = .next (rawArrives p f (frameStamp p f s).1 (takeFrame p f (frameStamp p f s).2)) := by
  simp only [exec, execRawFrameRx, comes, path, beq_self_eq_true, Bool.and_self, if_true]

/-- The slot of the window that the next raw frame takes, and how much of the frame fits it. -/
def rawSlot (s : State) (p : Nat) (x : PortPlate) : Nat := (getPort s p).rawCount % max 1 x.rawSlots

def rawData (f : Frame) : List Byte := f.bytes.take 16384

section
variable {s : State} {p i : Nat} {x : PortPlate} {w : Win} (plate : portPlate s p = some x)
include plate

theorem rawArrives_no_inst (none : x.rawInst = none) (f : Frame) (came : Nat) : rawArrives p f came s = rawFull p s := by
  simp only [rawArrives, plate, none]

variable (inst : x.rawInst = some i)
include inst

theorem rawArrives_no_window (none : tget (getInst s i).wins x.rawWindow = none) (f : Frame) (came : Nat) :
    rawArrives p f came s = rawFull p s := by
  simp only [rawArrives, plate, inst, none]

variable (window : tget (getInst s i).wins x.rawWindow = some w)
include window

/-- A window that is not valid, has no notification to give or is too short for the slot takes no frame, and neither does
one whose slot lies in no segment. -/
theorem rawArrives_no_room {f : Frame} (bad : w.valid = false ∨ notifyReady s i w = false ∨
      w.length < rawSlot s p x * 16384 + max (rawData f).length 1 ∨
      findSeg (getInst s i).segs (w.base + rawSlot s p x * 16384) (max (rawData f).length 1) false false = none)
    (came : Nat) : rawArrives p f came s = rawFull p s := by
  unfold rawSlot rawData at bad
  simp only [rawArrives, plate, inst, window]
  split
  · rfl
  · next usable =>
    rw [Bool.or_eq_true, Bool.or_eq_true, decide_eq_true_eq, Bool.not_eq_true', Bool.not_eq_true'] at usable
    have nowhere : findSeg (getInst s i).segs (w.base + (getPort s p).rawCount % max 1 x.rawSlots * 16384)
        (max (f.bytes.take 16384).length 1) false false = none := by tauto
    rw [nowhere]

/-- A frame with room is written to its slot, and the notification follows a good write. -/
theorem rawArrives_room {f : Frame} {g : Seg} (valid : w.valid = true) (ready : notifyReady s i w = true)
    (fits : rawSlot s p x * 16384 + max (rawData f).length 1 ≤ w.length)
    (seg : findSeg (getInst s i).segs (w.base + rawSlot s p x * 16384) (max (rawData f).length 1) false false = some g)
    {wr : MemWrite} {v : State} (written : writeSeg i g (w.base + rawSlot s p x * 16384) (rawData f) s = (wr, v)) (came : Nat) :
    rawArrives p f came s = if wr.fail.isSome then rawFull p (latchAll wr.events v) else
      writeReceipt i w.notifyQueue
        { kind := 1, index := x.rawWindow, tag := rawSlot s p x
          out := { settledAs stOk (rawData f).length
            (rawDetail (flawsOf s p f) (decide (16384 < f.bytes.length)) f.bytes) with
            extra := rawWord p (came % 1000000000) f.bytes }
          late := false, tickLo := s.time.tick % 2 ^ 32, subtick := subtick s, signal := true }
        (flushWindow i w (modPort p (fun y => { y with rawCount := (y.rawCount + 1) % max 1 x.rawSlots })
          (latchAll wr.events v))) := by
  unfold rawSlot rawData at *
  simp only [rawArrives, plate, inst, window, valid, ready, Nat.not_lt.mpr fits, decide_false, Bool.not_true, Bool.or_self,
    Bool.false_eq_true, if_false, seg, written]

end

/-! ### Priority flow control -/

/-- One priority named by a PFC frame. -/
theorem pfcArrives_one {s : State} {p v : Nat} (known : v < 8) (enabled : pfcEn s p v = true) (n : Nat) :
    pfcArrives p [(v, n)] s = drainPort p (if n = 0 then
        modPort p (fun y => { y with pauseUntil := tdel y.pauseUntil v, pausedSince := tdel y.pausedSince v }) s
      else modPort p (fun y => { y with
        pauseUntil := tset y.pauseUntil v (s.clk.mono + quantaTime s p n)
        pausedSince := tset y.pausedSince v ((tget y.pausedSince v).getD s.clk.mono) }) s) := by
  simp only [pfcArrives, each, List.foldl_cons, List.foldl_nil, enabled, Nat.not_le.mpr known, decide_false, Bool.not_true,
    Bool.or_self, Bool.false_eq_true, if_false]

theorem exec_pfcFrameRx {s : State} {p : Nat} (comes : frameComes s p = true) (l : List (Nat × Nat)) :
    exec (.pfcFrameRx p l) s = .next (pfcArrives p l s) := by
  simp only [exec, execPfcFrameRx, comes, if_true]

/-! ### The obligation -/

/-- Settles O55: each frame by its path, and each pause by its timer. -/
theorem framesTakeTheirPath : Obligations.FramesTakeTheirPath := by
  unfold Obligations.FramesTakeTheirPath
  refine ⟨fun s u p f comes hu => ?sorted, fun s u p f comes other mine good hu => ?good, fun s p v f x plate hv => ?held,
    fun s u v p i k off f x w g wr comes path hu plate inst window valid ready hk hoff fits seg written => ?raw,
    fun s u p f x comes path hu plate closed => ?rawFull, fun s p v n comes known enabled some => ?pfc,
    fun s u p v t comes pausing hu => ?again, fun s p v t comes paused => ?expiry,
    fun s u p v t t2 gone comes since paused long hu hgone => ?watchdog, fun s p n f serves next => ?drain⟩
  case sorted =>
    subst hu
    rw [exec_frameReceive comes]
    refine ⟨fun pfc good => ?_, fun other strange => ?_, fun flawed way => ?_, fun other mine flawed raw => ?_⟩
    · simp only [frameArrives, pathOf_pfc pfc, good, Bool.false_eq_true, if_false]
    · simp only [frameArrives, pathOf_stranger other strange]
    · have dropped : pathOf s p f = .flawDrop := by
        cases pfc : isPfc f.bytes with
        | true => rw [pathOf_pfc pfc, if_pos flawed]
        | false =>
          obtain ⟨mine, kept⟩ := way.resolve_left (by rw [pfc]; decide)
          rw [pathOf_flawed pfc mine flawed, if_neg (by rw [kept]; decide)]
      simp only [frameArrives, dropped]
    · simp only [frameArrives, pathOf_flawed other mine flawed, raw, if_true]
  case good =>
    subst hu
    rw [exec_frameReceive comes]
    refine ⟨fun ptp => ?_, fun notPtp roce => ?_, fun notPtp notRoce => ?_⟩
    · simp only [frameArrives, pathOf_good other mine good, ptp, if_true]
    · simp only [frameArrives, pathOf_good other mine good, notPtp, roce, Bool.false_eq_true, if_false, if_true]
    · simp only [frameArrives, pathOf_good other mine good, notPtp, notRoce, Bool.false_eq_true, if_false]
      cases rawEn s p <;> rfl
  case held =>
    subst hv
    refine ⟨fun room => ?_, fun full => ?_⟩
    · simp only [holdFrame, plate, Nat.not_lt.mpr room, if_false]
    · simp only [holdFrame, plate, full, if_true]
  case raw =>
    replace hk : k = rawSlot u p x := hk
    subst hk hoff
    rw [exec_rawFrameRx comes path, ← hu, rawArrives_room plate inst window valid ready fits seg written]
    exact ⟨fun failed => by rw [if_pos failed]; rfl, fun stored => by rw [stored]; rfl⟩
  case rawFull =>
    rw [exec_rawFrameRx comes path, ← hu]
    refine congrArg _ ?_
    rcases closed with none | ⟨i, w, inst, window, bad⟩ | ⟨i, inst, none⟩
    · exact rawArrives_no_inst plate none f _
    · exact rawArrives_no_room plate inst window bad _
    · exact rawArrives_no_window plate inst none f _
  case pfc =>
    refine ⟨?_, ?_⟩ <;> rw [exec_pfcFrameRx comes, pfcArrives_one known enabled]
    · rw [if_neg (Nat.pos_iff_ne_zero.mp some)]
    · rw [if_pos rfl]
  case again =>
    subst hu
    simp only [exec, execPfcRepeat, comes, if_true, pfcAgain, pausing]
  case expiry => simp only [exec, execPfcPauseExpiry, comes, if_true, pauseExpiry, paused]
  case watchdog =>
    subst hu hgone
    simp only [exec, execPfcWatchdog, comes, if_true, pfcWatchdog, since, paused, Nat.not_le.mpr long, if_false]
  case drain => simp only [drainFrames, serves, Bool.not_true, Bool.false_eq_true, if_false, next]

end Sys2Proof.Machine
end

section
/-! PROOFS. The RoCE v2 subset: received packets, timers and connections (14_ethernet_management.md R353 to R361). -/
namespace Sys2Proof.Machine

/-! ### A packet reaches its connection -/

section
variable {s : State} {p : Nat} {f : Frame} {ops : List Nat} (comes : frameComes s p = true) (path : pathOf s p f = .roce)
  (listed : ops.contains (rxOp f.bytes) = true)
include comes path listed

/-- A packet of the listed opcodes is taken from the buffer, and dropped or handled for its connection. -/
theorem roceIn_eq (act : Nat → RoceConn → List Byte → State → State) : roceIn p f ops act s =
    (roceOwner (takeFrame p f s) f.bytes).elim (roceStray p (takeFrame p f s))
      fun x => if x.2.error then takeFrame p f s
        else tidyRoce (act x.1 x.2 f.bytes (answerCe x.1 x.2 f.bytes (takeFrame p f s))) := by
  simp only [roceIn, comes, path, listed, beq_self_eq_true, Bool.and_self, if_true]
  rw [show roceOwner (takeFrame p f s) f.bytes = roceHolder (takeFrame p f s) f.bytes from rfl]
  cases roceHolder (takeFrame p f s) f.bytes <;> rfl

/-- The same for a packet whose connection is known and has no error. -/
theorem roceIn_owned {n : Nat} {c : RoceConn} (owner : roceOwner (takeFrame p f s) f.bytes = some (n, c)) (well : c.error = false)
    (act : Nat → RoceConn → List Byte → State → State) :
    roceIn p f ops act s = tidyRoce (act n c f.bytes (answerCe n c f.bytes (takeFrame p f s))) := by
  rw [roceIn_eq comes path listed, owner, Option.elim_some, well]
  rfl

end

/-- Each command of received packets is one call of `roceIn`. -/
theorem exec_roceCommand {p : Nat} {f : Frame} {x : List Nat × Instr × (Nat → RoceConn → List Byte → State → State)}
    (known : x ∈ roceCommands p f) (s : State) : exec x.2.1 s = .next (roceIn p f x.1 x.2.2 s) := by
  simp only [roceCommands, List.mem_cons, List.not_mem_nil, or_false] at known
  rcases known with rfl | rfl | rfl | rfl | rfl | rfl <;> rfl

/-! ### The order of requests -/

theorem sequenced_eq {c : RoceConn} {e : Nat} (expected : c.expPsn = some e) (n : Nat) (bs : List Byte)
    (fresh behind : State → State) (s : State) : sequenced n c bs fresh behind s =
      if (rxPsn bs + 2 ^ 24 - e) % 2 ^ 24 = 0 then fresh s
      else if (rxPsn bs + 2 ^ 24 - e) % 2 ^ 24 < 2 ^ 23 then
        if c.nakSent then s else sendAeth n bs e 0x60 (modRoce n (fun y => { y with nakSent := true }) s)
      else behind s := by
  have place : psnPlace c (rxPsn bs) = if (rxPsn bs + 2 ^ 24 - e) % 2 ^ 24 = 0 then .fresh
      else if (rxPsn bs + 2 ^ 24 - e) % 2 ^ 24 < 2 ^ 23 then .ahead else .behind := by
    simp only [psnPlace, expected]
  generalize (rxPsn bs + 2 ^ 24 - e) % 2 ^ 24 = d at place ⊢
  by_cases now : d = 0
  · rw [if_pos now] at place ⊢
    simp only [sequenced, place]
  · rw [if_neg now] at place ⊢
    by_cases early : d < 2 ^ 23
    · rw [if_pos early] at place ⊢
      simp only [sequenced, place, expected]
    · rw [if_neg early] at place ⊢
      simp only [sequenced, place]

/-! ### RDMA WRITE in one packet, and atomics -/

/-- The offset, key and length of an RDMA request. -/
def rethOffset (bs : List Byte) : Nat := netAt (rxRest bs) 0 8
def rethKey (bs : List Byte) : Nat := netAt (rxRest bs) 8 4
def rethLength (bs : List Byte) : Nat := netAt (rxRest bs) 12 4

section
variable {s : State} {c : RoceConn} {bs : List Byte} (only : rxOp bs = 0x0A) (idle : c.rx = none)
include only idle

theorem roceWriteIn_refused {e : Nat} (n : Nat)
    (check : roceCheck s c 1 (rethKey bs) (rethOffset bs) (rethLength bs) false = .error e) :
    roceWriteIn n c bs s = roceRefusal n bs true e s := by
  unfold rethKey rethOffset rethLength at check
  simp only [roceWriteIn, only, idle, List.contains_cons, List.contains_nil, Nat.reduceBEq, Bool.or_false, Bool.or_true, check]

theorem roceWriteIn_stored {i : Nat} {w : Win} {g : Seg} {wr : MemWrite} {u : State} (n : Nat)
    (check : roceCheck s c 1 (rethKey bs) (rethOffset bs) (rethLength bs) false = .ok (i, w, g))
    (whole : ((rxRest bs).drop 16).length = rethLength bs)
    (written : writeSeg i g (w.base + rethOffset bs) ((rxRest bs).drop 16) s = (wr, u)) (good : wr.fail = none) :
    roceWriteIn n c bs s = roceDone n bs (latchAll wr.events u) := by
  unfold rethKey rethOffset rethLength at *
  simp only [roceWriteIn, only, idle, List.contains_cons, List.contains_nil, Nat.reduceBEq, Bool.or_false, Bool.or_true, Bool.false_eq_true,
    if_false, if_true, check, roceWriteIn.go, RoceRx.refused, Nat.zero_add, Nat.add_zero, whole, lt_self_iff_false, ne_eq,
    not_true_eq_false, and_false, or_self, written, good, Option.isSome_none]

end

/-- The word that an atomic request leaves. -/
def atomicNew (bs : List Byte) (old : Word) : Word :=
  if rxOp bs = 0x14 then atomicValue 0 old (BitVec.ofNat 64 (netAt (rxRest bs) 12 8)) 0
  else atomicValue 1 old (BitVec.ofNat 64 (netAt (rxRest bs) 20 8)) (BitVec.ofNat 64 (netAt (rxRest bs) 12 8))

theorem roceAtomicIn_stored {s u : State} {c : RoceConn} {bs : List Byte} {i : Nat} {w : Win} {g : Seg} {wr : MemWrite} (n : Nat)
    (aligned : rethOffset bs % 8 = 0) (check : roceCheck s c 4 (rethKey bs) (rethOffset bs) 8 false = .ok (i, w, g))
    (readable : (readSeg i g (w.base + rethOffset bs) 8 s).1.fail = none)
    (written : writeSeg i g (w.base + rethOffset bs)
      (wordBytes (atomicNew bs (wordAt (readSeg i g (w.base + rethOffset bs) 8 s).1.bytes 0)))
      (latchAll (readSeg i g (w.base + rethOffset bs) 8 s).1.events (readSeg i g (w.base + rethOffset bs) 8 s).2) = (wr, u))
    (good : wr.fail = none) :
    roceAtomicIn n c bs s = atomicReply n bs (wordAt (readSeg i g (w.base + rethOffset bs) 8 s).1.bytes 0)
      (passPsn n (rxPsn bs) 1 (modRoce n (fun z => { z with
        msn := z.msn + 1
        atomics := ((rxPsn bs, wordAt (readSeg i g (w.base + rethOffset bs) 8 s).1.bytes 0) :: z.atomics).take 16 })
        (latchAll wr.events u))) := by
  unfold rethKey rethOffset atomicNew at *
  simp only [roceAtomicIn, aligned, ne_eq, not_true_eq_false, if_false, check, written, readable, good, Option.isSome_none,
    Bool.false_eq_true]

/-! ### NAKs and timers -/

/-- The packets that wait for an acknowledgement time out together, oldest first. -/
theorem roceTimeout_eq {s : State} {n : Nat} {c : RoceConn} {x : SendCtx} {m : TxMsg} {t : TxPacket} (run : running s = true)
    (conn : tget s.ether.roce n = some c) (well : c.error = false) (ready : c.rnrAt = none)
    (ctx : findTx s (roceKey s c) = some x)
    (oldest : (ctxPackets x).find? (fun p => p.2.sent && !p.2.settled && !p.2.lost) = some (m, t)) :
    roceTimeout n s = if c.retry ≤ c.retries then failRoce n c (settledAs stUnreachable 0 0) (waitMono t.due s)
      else resendRoce (roceKey s c) (modRoce n (fun y => { y with retries := y.retries + 1 }) (waitMono t.due s)) := by
  simp only [roceTimeout, conn, ctx, Option.bind_some, oldest, well, ready, run, Option.isSome_none, Bool.not_true, Bool.or_self,
    Bool.false_eq_true, if_false]

/-! ### LOAD -/

/-- A valid entry that no connection holds is installed, with a send context of its own. -/
theorem roceLoad_valid {u v : State} {n : Nat} {r : MemRead}
    (read : readHost (mgrFn u) (fld u.ether.roceAddr 6 58 * 64) 64 u = (r, v)) (good : r.fail = none)
    (valid : bit (wd (wordsOf r.bytes 8) 0) 30 = true) (legal : roceBad (wordsOf r.bytes 8) = false)
    (free : (v.ether.roce.any fun x => x.1 == n || x.2.localQpn == (newRoce (wordsOf r.bytes 8)).localQpn ||
      (x.2.endpoint == (newRoce (wordsOf r.bytes 8)).endpoint && x.2.peerDev == (newRoce (wordsOf r.bytes 8)).peerDev &&
        x.2.peerEp == (newRoce (wordsOf r.bytes 8)).peerEp)) = false) :
    roceLoad n u = roceAnswer 0 (modDlv (fun d => { d with tx := d.tx ++
        [{ newTx v (roceKey v (newRoce (wordsOf r.bytes 8))) with nextPsn := (newRoce (wordsOf r.bytes 8)).startPsn, answered := true }] })
      (modEther (fun e => { e with roce := tset e.roce n (newRoce (wordsOf r.bytes 8)) }) v)) := by
  simp only [roceLoad, read, good, valid, legal, free, Option.isSome_none, Bool.not_true, Bool.false_eq_true, if_false]

/-! ### The obligation -/

/-- Settles O56: a packet by its connection and its PSN, a request by its check, a timer by its count. -/
theorem rocePacketsAreServed : Obligations.RocePacketsAreServed := by
  unfold Obligations.RocePacketsAreServed
  refine ⟨fun s u p f x comes path known listed hu => ?command, fun s u p n f c comes path hu owner well => ?answer,
    fun s n e c bs fresh behind expected => ?order, fun s u n i c bs w g wr only idle check whole written good => ?write,
    fun s u n i c bs w g r wr new aligned check hr readable hnew written good => ?atomic,
    fun s n e c bs check only idle => ?refused, fun s n c bs u hu => ?nak,
    fun s u n c x m t run conn well ready ctx oldest hu => ?timeout, fun s u n t c conn wait hu => ?rnr,
    fun s n c out x ctx => ?failed, fun s u v n w r k run known hu read good hw valid legal free hk => ?load,
    fun s n run known => ?clear⟩
  case command =>
    subst hu
    rw [exec_roceCommand known, roceIn_eq comes path listed]
    exact ⟨fun none => by rw [none]; rfl, fun n c owner => by rw [owner]; rfl⟩
  case answer =>
    subst hu
    refine ⟨fun ack => ?_, fun nak => ?_⟩
    · have listed : [0x11, 0x12].contains (rxOp f.bytes) = true := by
        rcases ack with op | ⟨op, _⟩ <;> rw [op] <;> rfl
      have positive : ¬ (rxOp f.bytes = 0x11 ∧ netAt (rxRest f.bytes) 0 1 / 32 % 4 ≠ 0) := by
        rintro ⟨op, code⟩
        rcases ack with other | ⟨_, zero⟩
        · exact absurd (op.symm.trans other) (by decide)
        · exact code zero
      simp only [exec, execRoceAckRx, if_neg positive, roceIn_owned comes path listed owner well]
    · have listed : [0x11].contains (rxOp f.bytes) = true := by rw [nak.1]; rfl
      simp only [exec, execRoceNakRx, if_neg nak.2, roceIn_owned comes path listed owner well]
  case order =>
    rw [sequenced_eq expected]
    refine ⟨fun now => if_pos now, fun ahead => ?_, fun late => ?_⟩
    · rw [if_neg (Nat.pos_iff_ne_zero.mp ahead.1), if_pos ahead.2]
    · rw [if_neg (Nat.pos_iff_ne_zero.mp (Nat.lt_of_lt_of_le (Nat.two_pow_pos 23) late)), if_neg (Nat.not_lt.mpr late)]
  case write => exact roceWriteIn_stored only idle n check whole written good
  case atomic =>
    subst hr hnew
    exact roceAtomicIn_stored n aligned check readable written good
  case refused => exact roceWriteIn_refused only idle n check
  case nak =>
    subst hu
    refine ⟨fun rnr => ?_, fun gap => ?_⟩
    · simp only [roceNakIn, rnr, if_true]
    · simp only [roceNakIn, gap, Nat.reduceDiv, Nat.reduceEqDiff, if_false, if_true]
  case timeout =>
    subst hu
    exact congrArg _ (roceTimeout_eq run conn well ready ctx oldest)
  case rnr =>
    subst hu
    simp only [exec, execRoceRnrRetry, roceRnr, conn, wait]
  case failed => simp only [failRoce, ctx]
  case load =>
    subst hu hw hk
    simp only [exec, execRoceConnLoad, run, known, decide_true, Bool.and_self, if_true,
      roceLoad_valid read good valid legal free]
    rfl
  case clear =>
    simp only [exec, execRoceConnClear, run, known, decide_true, Bool.and_self, if_true]
    rfl

end Sys2Proof.Machine
end

section
/-! PROOFS. The management port (14_ethernet_management.md R369, R370) and the SPDM responder (21_startup_forme.md R494 to R496). -/
namespace Sys2Proof.Machine

/-! ### Frames of the management port -/

theorem exec_mgmtFrameRx {s : State} (on : mgmtOn s = true) (f : Frame) :
    exec (.mgmtFrameRx f) s = .next (placeAll (mgmtFrame f s)) := by
  simp only [exec, execMgmtFrameRx, on, if_true]

theorem answerArp_own {s : State} (on : mgmtOn s = true) (mac ip : Nat) : answerArp Config.mgmtIp mac ip s =
    emit (.mgmt (arpReply Config.mgmtIp mac ip))
      (modEther (fun e => { e with mgmtQueue := [arpReply Config.mgmtIp mac ip], collisions := 0 }) s) := by
  simp only [answerArp, mgmtSend, on, if_true]

theorem mgmtFrame_bad {f : Frame} (bad : crc32 f.bytes ≠ f.fcs.toNat ∨ f.pcsError = true) (s : State) :
    mgmtFrame f s = mgmtDiscard s := if_pos bad

section
variable {f : Frame} (fcs : crc32 f.bytes = f.fcs.toNat) (pcs : f.pcsError = false)
include fcs pcs

theorem mgmtFrame_arp (arp : isArpRequest f.bytes = true)
    (mine : destMac f.bytes = 0xFFFFFFFFFFFF ∨ destMac f.bytes = ownMac 48) (s : State) :
    mgmtFrame f s = answerArp (netAt f.bytes (l3At f.bytes + 24) 4) (netAt f.bytes (l3At f.bytes + 8) 6)
      (netAt f.bytes (l3At f.bytes + 14) 4) s := by
  have named : (destMac f.bytes == ownMac 48 || destMac f.bytes == 0xFFFFFFFFFFFF) = true := by
    simpa only [Bool.or_eq_true, beq_iff_eq] using mine.symm
  simp only [mgmtFrame, fcs, pcs, ne_eq, not_true_eq_false, Bool.false_eq_true, or_self, if_false, arp, named, Bool.and_self, if_true]

/-- A good frame that is no ARP request goes by its port to the PTP clock, to SPDM or, out of keeping, to the steward. -/
theorem mgmtFrame_other (other : isArpRequest f.bytes = false) (s : State) : mgmtFrame f s =
    if isPtpFrame f.bytes && isV4 f.bytes && (destMac f.bytes == ownMac 48 || netAt f.bytes 0 1 % 2 == 1) then
      ptpArrives 48 (ptpOf (ptpBytes f.bytes)) s
    else if destMac f.bytes == ownMac 48 && udpTo f.bytes 0x4C43 then mgmtSpdm f.bytes s
    else if destMac f.bytes == ownMac 48 && udpTo f.bytes 0x4C42 && !inKeeping s then mgmtSteward f.bytes s
    else mgmtDiscard s := by
  simp only [mgmtFrame, fcs, pcs, ne_eq, not_true_eq_false, Bool.false_eq_true, or_self, if_false, other, Bool.false_and]
  refine if_congr Iff.rfl rfl (if_congr Iff.rfl rfl ?_)
  cases destMac f.bytes == ownMac 48 && udpTo f.bytes 0x4C42 with
  | false => rfl
  | true => cases inKeeping s <;> rfl

end

/-! ### SPDM turns -/

section
variable {s : State} (on : spdmOn s = true)
include on

theorem spdmTurn_open {session : Option Nat} (opened : inSession s session = true) (f : State → State) :
    spdmTurn session f s = .next (f s) := by
  simp only [spdmTurn, on, opened, Bool.and_self, if_true]

theorem spdmTurn_clear (f : State → State) : spdmTurn none f s = .next (f s) := spdmTurn_open on rfl f

end

theorem negotiated_early {s : State} (early : s.spdm.negotiated = false) (f : State → State) :
    negotiated f s = spdmError erUnexpected s := by
  simp only [negotiated, early, Bool.false_eq_true, if_false]

theorem negotiated_done {s : State} (done : s.spdm.negotiated = true) (f : State → State) : negotiated f s = f s := if_pos done

/-- Every request that needs the negotiation is answered UnexpectedRequest before it. -/
theorem spdm_early {s : State} {session : Option Nat} (on : spdmOn s = true) (opened : inSession s session = true)
    (early : s.spdm.negotiated = false) {c : Instr}
    (request : c = .getDigests session ∨ (∃ a b d, c = .getCertificate session a b d) ∨ (∃ a n, c = .challenge session a n) ∨
      (∃ k g n, c = .getMeasurements session k g n) ∨ (∃ q, c = .keyExchange q) ∨ (∃ n k q, c = .finish n k q)) :
    exec c s = .next (spdmError erUnexpected s) := by
  rcases request with rfl | ⟨_, _, _, rfl⟩ | ⟨_, _, rfl⟩ | ⟨_, _, _, rfl⟩ | ⟨_, rfl⟩ | ⟨_, _, _, rfl⟩
  · exact (spdmTurn_open on opened _).trans (congrArg _ (negotiated_early early _))
  · exact (spdmTurn_open on opened _).trans (congrArg _ (negotiated_early early _))
  · exact (spdmTurn_open on opened _).trans (congrArg _ (negotiated_early early _))
  · exact (spdmTurn_open on opened _).trans (congrArg _ (negotiated_early early _))
  · exact (spdmTurn_clear on _).trans (congrArg _ (negotiated_early early _))
  · exact (spdmTurn_clear on _).trans (congrArg _ (negotiated_early early _))

/-- A request after the negotiation, outside a session or in an established one. -/
theorem spdm_turn {s : State} {session : Option Nat} (on : spdmOn s = true) (opened : inSession s session = true)
    (done : s.spdm.negotiated = true) (f : State → State) : spdmTurn session (negotiated f) s = .next (f s) := by
  rw [spdmTurn_open on opened, negotiated_done done]

/-! ### Its answers -/

section
variable {s : State} {c : List Byte} (chain : s.boot.chain = some c)
include chain

theorem getDigests_chain : getDigests s = spdmReply (spdmBytes 0x81 0 0 []) (spdmBytes 0x01 0 1 (sha256 c)) s := by
  simp only [getDigests, chain]

theorem getCertificate_chain {a : Nat} (within : a < c.length) (n : Nat) : getCertificate 0 a n s =
    spdmReply (spdmBytes 0x82 0 0 (leBytes 2 a ++ leBytes 2 n)) (spdmBytes 0x02 0 0 (leBytes 2 ((c.drop a).take n).length ++
      leBytes 2 (c.length - a - ((c.drop a).take n).length) ++ (c.drop a).take n)) s := by
  simp only [getCertificate, chain, ne_eq, not_true_eq_false, Nat.not_le.mpr within, or_self, if_false]

theorem challenge_chain {nonce : List Byte} (sized : nonce.length = 32) : challenge 0 nonce s =
    spdmSigned (spdmBytes 0x83 0 0 nonce) (spdmBytes 0x03 0 1 (sha256 c ++ (freeBytes 32 s).1 ++ [0, 0])) (freeBytes 32 s).2 := by
  simp only [challenge, chain, sized, ne_eq, not_true_eq_false, or_self, if_false]

end

/-- One measurement block without a signature. -/
theorem getMeasurements_one {k : Nat} (low : 1 ≤ k) (high : k ≤ 15) (s : State) : getMeasurements k false [] s =
    spdmReply (spdmBytes 0xE0 0 k []) (spdmBytes 0x60 0 0 ([1] ++ leBytes 3 (measurementBlock s k).length ++
      measurementBlock s k ++ (freeBytes 32 s).1 ++ [0, 0])) (freeBytes 32 s).2 := by
  have notZero : k ≠ 0 := by omega
  have notAll : k ≠ 255 := by omega
  simp only [getMeasurements, Bool.false_and, Bool.false_eq_true, if_false, Nat.not_lt.mpr high, false_and, or_self, notZero, notAll,
    List.flatMap_cons, List.flatMap_nil, List.append_nil]
  rfl

/-! ### The obligation -/

/-- Settles O57: each frame by its form, each SPDM request by the state of the negotiation, the chain and its session. -/
theorem managementPortAndSpdmAnswer : Obligations.ManagementPortAndSpdmAnswer := by
  unfold Obligations.ManagementPortAndSpdmAnswer
  refine ⟨fun s ip mac sip on => ?arp, fun s f on bad => ?badFrame, fun s f on fcs pcs arp mine => ?arpFrame,
    fun s f on fcs pcs other => ?otherFrame, fun s bs r on csma queue => ?collision, fun s on plca node => ?beacon,
    fun s session c on opened early request => spdm_early on opened early request, fun s session on opened => ?version,
    fun s session request on opened => ?capabilities, fun s session c on opened done chain => ?chain,
    fun s session on opened done bare => ?bare, fun s session k on opened done low high => ?measured,
    fun s u n request response sign on done chain hn hu hr hs => ?exchange, fun s n key request x on done session pending => ?finish,
    fun s n on opened => ?session⟩
  case arp =>
    have now (a : Nat) : exec (.arpRequest a mac sip) s = .next (answerArp a mac sip s) := congrArg _ (if_pos on)
    exact ⟨(now _).trans (congrArg _ (answerArp_own on mac sip)), fun other => (now ip).trans (congrArg _ (if_neg other))⟩
  case badFrame => rw [exec_mgmtFrameRx on, mgmtFrame_bad bad]; rfl
  case arpFrame => rw [exec_mgmtFrameRx on, mgmtFrame_arp fcs pcs arp mine]
  case otherFrame => rw [exec_mgmtFrameRx on, mgmtFrame_other fcs pcs other]
  case collision =>
    refine ⟨fun many => ?_, fun few => ⟨Config.backoffDraw s.freeCount % 2 ^ min (s.ether.collisions + 1) 10,
      Nat.mod_lt _ (Nat.two_pow_pos _), ?_⟩⟩
    · simp only [exec, execMgmtCollision, on, csma, Bool.not_false, Bool.and_self, if_true, mgmtCollides, queue,
        show 16 ≤ s.ether.collisions + 1 by omega]
    · simp only [exec, execMgmtCollision, on, csma, Bool.not_false, Bool.and_self, if_true, mgmtCollides, queue,
        show ¬ 16 ≤ s.ether.collisions + 1 by omega, if_false]
  case beacon => simp only [exec, execPlcaBeaconLoss, on, plca, bne_iff_ne.mpr node, Bool.and_self, if_true]
  case version => exact spdmTurn_open on opened _
  case capabilities =>
    refine ⟨spdmTurn_open on opened _, (spdmTurn_open on opened _).trans (congrArg _ ?_)⟩
    unfold negotiate
    cases s.spdm.capable <;> rfl
  case chain =>
    refine ⟨(spdm_turn on opened done _).trans (congrArg _ (getDigests_chain chain)), fun a n part within hpart => ?_,
      fun nonce sized => (spdm_turn on opened done _).trans (congrArg _ (challenge_chain chain sized))⟩
    subst hpart
    exact (spdm_turn on opened done _).trans (congrArg _ (getCertificate_chain chain within n))
  case bare =>
    refine ⟨(spdm_turn on opened done _).trans (congrArg _ ?_), fun a nonce => (spdm_turn on opened done _).trans (congrArg _ ?_),
      fun k nonce => (spdm_turn on opened done _).trans (congrArg _ ?_)⟩
    · simp only [getDigests, bare]
    · simp only [challenge, bare]
    · simp only [getMeasurements, bare, Option.isNone_none, Bool.and_self, if_true]
  case measured => exact (spdm_turn on opened done _).trans (congrArg _ (getMeasurements_one low high s))
  case exchange =>
    subst hs hr hu hn
    have installed : s.boot.chain.isNone = false := by rw [← Option.not_isSome, chain]; rfl
    refine (spdm_turn on rfl done _).trans (congrArg _ ?_)
    simp only [keyExchange, installed, Bool.false_eq_true, if_false]
    rfl
  case finish =>
    refine (spdm_turn on rfl done _).trans (congrArg _ ?_)
    simp only [finishSession, session, pending, Bool.false_eq_true, if_false]
  case session =>
    refine ⟨spdmTurn_open on opened _, fun k known => (spdmTurn_open on opened _).trans (congrArg _ ?_), spdmTurn_open on opened _⟩
    have legal : ¬ (k = 0 ∨ 3 < k) := by
      simp only [List.mem_cons, List.not_mem_nil, or_false] at known
      omega
    exact if_neg legal

end Sys2Proof.Machine
end

section
/-! PROOFS. Answers at the sender of a message: ACK, NAK, READ_RESP and ATOMIC_RESP (13_delivery_congestion.md R323, R334, R336,
R341, R342). -/
namespace Sys2Proof.Machine

/-! ### Two changes of one send context -/

/-- Two changes of a send context that keep its key are one. -/
theorem modTx_modTx (k : ConnKey) {f : SendCtx → SendCtx} (hf : ∀ c, (f c).key = c.key) (g : SendCtx → SendCtx) (s : State) :
    modTx k g (modTx k f s) = modTx k (fun c => g (f c)) s := by
  simp only [modTx, modDlv, List.map_map]
  refine congrArg (fun l => ({ s with dlv := { s.dlv with tx := l } } : State)) (List.map_congr_left fun c _ => ?_)
  simp only [Function.comp]
  cases same : c.key == k with
  | true => simp only [if_true, hf, same]
  | false => simp only [Bool.false_eq_true, if_false, same]

/-! ### ACK -/

theorem rateStep_frame (s : State) (b : Bool) (c : SendCtx) : (rateStep s b c).msgs = c.msgs ∧
    (rateStep s b c).answered = c.answered ∧ (rateStep s b c).nextPsn = c.nextPsn := by
  simp only [rateStep]
  repeat' split
  all_goals exact ⟨rfl, rfl, rfl⟩

/-- The rate law changes the rate and its times alone. -/
theorem rateLaw_frame (s : State) (load : Nat) (sample : Option Nat) (c : SendCtx) : (rateLaw s load sample c).msgs = c.msgs ∧
    (rateLaw s load sample c).answered = c.answered ∧ (rateLaw s load sample c).nextPsn = c.nextPsn :=
  rateStep_frame s _ c

theorem addSamples_nextPsn (now : Nat) (l : List Nat) (c : SendCtx) :
    (l.foldl (fun x y => addSample now y x) c).nextPsn = c.nextPsn := by
  induction l generalizing c with
  | nil => rfl
  | cons x l ih => exact (ih (addSample now x c)).trans (by cases srtt : c.srtt <;> simp only [addSample, srtt])

/-- Without REORDER an ACK settles what it covers and no more. -/
theorem applyAck_in_order {s : State} (inOrder : reorder s = 0) (cum sack load : Nat) (c : SendCtx) :
    (applyAck s cum sack load c).msgs = c.msgs.map (fun m => { m with
      packets := m.packets.map fun t => { t with
        settled := t.settled || (t.sent && coveredBy cum t.psn)
        sacked := t.sacked || sackCovers cum sack t.psn
        lost := t.lost && !coveredBy cum t.psn } }) ∧
    (applyAck s cum sack load c).answered = true ∧ (applyAck s cum sack load c).nextPsn = c.nextPsn := by
  simp only [applyAck, rateLaw_frame, markReorder, inOrder, if_true, addSamples_frame, addSamples_nextPsn, and_self]

/-! ### NAK -/

/-- Whether a message is the one whose first packet has a PSN. -/
def startsAt (psn : Nat) (m : TxMsg) : Bool := (m.packets.head?.map (·.psn)) == some psn

section
variable {s : State} {p : Packet} {c : SendCtx} {m : TxMsg} (ctx : findTx s (replyKey p) = some c)
  (named : c.msgs.find? (startsAt (leNat (p.body.take 3))) = some m)
include ctx named

/-- A NAK of a message by its code, on one change of the send context. -/
theorem nakArrives_eq : nakArrives p s =
    if leNat ((p.body.drop 4).take 1) = 7 then modTx (replyKey p) (fun c => { c with
      answered := true, expires := s.clk.mono + 2 * life s
      msgs := c.msgs.map fun x => if (x.packets.head?.map (·.psn)) = some (leNat (p.body.take 3)) then
        { x with rnrAt := some (s.clk.mono + rnrWait s) } else x }) s
    else if leNat ((p.body.drop 4).take 1) = 0 ∨ 7 < leNat ((p.body.drop 4).take 1) then
      modTx (replyKey p) (fun c => { c with answered := true, expires := s.clk.mono + 2 * life s }) s
    else if leNat ((p.body.drop 4).take 1) = 6 ∧ m.ptype = 3 then
      checkRead (replyKey p) (leNat (p.body.take 3)) (modTx (replyKey p) (fun c => { c with
        answered := true, expires := s.clk.mono + 2 * life s
        msgs := c.msgs.map fun x => if (x.packets.head?.map (·.psn)) = some (leNat (p.body.take 3)) then
          (if (x.cut.any fun c => decide (c ≤ leNat ((p.body.drop 8).take 4))) then x else { x with
            cut := some (leNat ((p.body.drop 8).take 4)), cutAt := none, failMem := leNat ((p.body.drop 5).take 2)
            packets := x.packets.map fun t => { t with settled := true } }) else x }) s)
    else endMessage m (nakOutcome (leNat ((p.body.drop 4).take 1)) (leNat ((p.body.drop 5).take 2)))
      (modTx (replyKey p) (fun c => { c with
        answered := true, expires := s.clk.mono + 2 * life s
        msgs := c.msgs.filter fun x => !((x.packets.head?.map (·.psn)) == some (leNat (p.body.take 3))) }) s) := by
  unfold startsAt at named
  have found : ((findTx (modTx (replyKey p) (fun c => { c with answered := true, expires := s.clk.mono + 2 * life s }) s)
      (replyKey p)).bind fun c => c.msgs.find? fun m => (m.packets.head?.map (·.psn)) == some (leNat (p.body.take 3))) = some m := by
    rw [findTx_modTx s _ ?keeps, ctx]
    case keeps => exact fun _ => rfl
    exact named
  simp only [nakArrives, found]
  rw [modTx_modTx _ ?keeps, modTx_modTx _ ?keeps, modTx_modTx _ ?keeps]
  case keeps => exact fun _ => rfl

end

/-! ### READ_RESP -/

/-- A response packet that is neither placed already, nor out of its message, nor kept back by a hatch, is placed and
counted. -/
theorem readRespArrives_placed {s u : State} {p : Packet} {c : SendCtx} {m : TxMsg} {i qi ord a : Nat} {q : Queue} {r : Run}
    {g : Seg} {ws : List (Nat × List Byte)} {held : List WordPart} (ctx : findTx s (replyKey p) = some c)
    (outstanding : c.msgs.find? (fun m => m.ptype == 3 && m.packets.any fun t => t.psn == p.psn) = some m)
    (owner : m.owner = .docket i qi ord) (run : runOf s i qi ord = some (q, r))
    (takes : (m.got.contains p.pidx || p.msgLen != m.msgLen || hatchBlocks s i q r ||
      decide (packetCount 0x43 m.msgLen m.segBytes ≤ p.pidx) || p.sealed != m.sealKey.isSome) = false)
    (clear : m.sealKey = none) (dst : m.dst = some a) (seg : findSeg r.segs a (dLen (runWords q r)) false true = some g)
    (cut : packetWrites m.parts a (a + m.msgLen) (a + p.pidx * m.segBytes)
      (p.body.take (payloadLen m.msgLen m.segBytes p.pidx)) = (ws, held))
    (written : writeParts i g ws (modTx (replyKey p) (fun c => { c with
      expires := s.clk.mono + 2 * life s
      msgs := c.msgs.map fun x => if x.owner = m.owner ∧ x.ptype = 3 then { x with got := x.got ++ [p.pidx] } else x }) s) =
      (none, u)) :
    readRespArrives p s = checkRead (replyKey p) p.psn (modTx (replyKey p) (fun c => { c with
      msgs := c.msgs.map fun x => if x.owner = m.owner ∧ x.ptype = 3 then { x with parts := held } else x }) u) := by
  simp only [owner] at written
  simp only [readRespArrives, ctx, Option.bind_some, outstanding, owner, run]
  rw [if_neg (by rw [takes]; decide)]
  simp only [clear, openBody, dst, Option.isSome_some, if_true, seg, cut, written]

/-! ### Whole messages -/

/-- The one message of a connection, once whole, leaves it and ends. -/
theorem completeMessages_one {s : State} {k : ConnKey} {c : SendCtx} {m : TxMsg} {o : Settled} (ctx : findTx s k = some c)
    (one : c.msgs = [m]) (whole : allSettled m = true) (outcome : messageOutcome m = some o) :
    ∃ u, completeMessages k s = endMessage m o u ∧ (findTx u k).map (·.msgs) = some [] ∧ u = { s with dlv := u.dlv } := by
  refine ⟨modTx k (fun x => { x with msgs := x.msgs.filter fun m =>
    !(allSettled m && ((messageOutcome m).isSome || m.owner == .reply)) }) s, ?_, ?_, rfl⟩
  · simp only [completeMessages, ctx, one, List.filter_cons, List.filter_nil, whole, outcome, Option.isSome_some, Bool.and_self,
      if_true, each, List.foldl_cons, List.foldl_nil]
  · rw [findTx_modTx s _ ?keeps, ctx]
    case keeps => exact fun _ => rfl
    simp only [Option.map_some, one, List.filter_cons, List.filter_nil, whole, outcome, Option.isSome_some, Bool.true_or,
      Bool.and_self, Bool.not_true, Bool.false_eq_true, if_false]

/-! ### The obligation -/

/-- Settles O27: each answer by its operation on the send context that it names. -/
theorem answersAreTaken : Obligations.AnswersAreTaken := by
  unfold Obligations.AnswersAreTaken
  refine ⟨fun s p here => ?ack, fun s cum sack load c inOrder => applyAck_in_order inOrder cum sack load c,
    fun s p m c here ctx named => ?nak,
    fun s u p c m i qi ord a q r g ws held here ctx outstanding owner run takes clear dst seg cut written => ?readResp,
    fun s p here => ?atomicResp, fun s k c m o ctx one whole outcome => completeMessages_one ctx one whole outcome⟩
  case ack => exact congrArg _ (if_pos here)
  case nak =>
    have now : exec (.nak p) s = .next (nakArrives p (consume p s)) := congrArg _ (if_pos here)
    rw [now, nakArrives_eq (s := consume p s) ctx named]
    refine ⟨fun rnr => by rw [if_pos rnr]; rfl, fun low high notRead => ?_, fun data read => ?_⟩
    · rw [if_neg (by omega), if_neg (by omega), if_neg (fun both => notRead both.1 both.2)]
      rfl
    · rw [if_neg (by omega), if_neg (by omega), if_pos ⟨data, read⟩]
      rfl
  case readResp =>
    have now : exec (.readResp p) s = .next (readRespArrives p (consume p s)) := congrArg _ (if_pos here)
    rw [now, readRespArrives_placed (s := consume p s) ctx outstanding owner run takes clear dst seg cut written]
  case atomicResp => exact congrArg _ (if_pos here)

end Sys2Proof.Machine
end

section
/-! PROOFS. PACKET_ELIGIBLE and the timers of reliable delivery (13_delivery_congestion.md R327 to R349; 18_cipher.md R437). -/
namespace Sys2Proof.Machine

/-! ### PACKET_ELIGIBLE -/

/-- The next packet of a connection that has not failed leaves at its paced time, where it has a route. -/
theorem packetEligible_eq {s : State} {k : ConnKey} {c : SendCtx} {m : TxMsg} {t : TxPacket} (run : running s = true)
    (ctx : findTx s k = some c) (well : c.failAt = none) (next : nextPacket s c = some (m, t)) :
    ∃ u, u = (if k.vc = 8 then s else waitMono (paceTime c m t) s) ∧
      packetEligible k s = if hasRoute u k.dstDev k.vc then sendPacket k m t u else noRouteEnds k m u :=
  ⟨_, rfl, by simp only [packetEligible, ctx, well, run, Option.isSome_none, Bool.not_true, Bool.or_self, Bool.false_eq_true,
    if_false, next]⟩

/-- A docket of which nothing was sent ends UNREACHABLE, and leaves no memory undefined. -/
theorem noRouteEnds_unsent {s : State} {m : TxMsg} {i qi ord : Nat} {q : Queue} {r : Run} (k : ConnKey)
    (owner : m.owner = .docket i qi ord) (unsent : m.packets.any (·.sent) = false) (run : runOf s i qi ord = some (q, r)) :
    noRouteEnds k m s = settle i qi ord { settledAs 8 0 (m.rank % 65536) with twin := m.twin }
      (modTx k (withdrawMessage m.owner) s) := by
  simp only [noRouteEnds, owner, undefBegun, run, unsent, Bool.not_false, if_true]
  rfl

/-- A packet whose source is read and that needs no seal is injected and noted on its connection. -/
theorem sendPacket_plain {s u : State} {k : ConnKey} {m : TxMsg} {t : TxPacket} {data : List Byte} {twin : Bool}
    (read : packetData m t s = (data, none, twin, u)) (clear : m.sealKey = none ∨ m.ptype = 3) (first : t.sent = false) :
    sendPacket k m t s = modTx k (fun c => { c with
        expires := u.clk.mono + 2 * life s
        paceAt := u.clk.mono
        msgs := c.msgs.map (noteSent t.psn u.clk.mono (u.clk.mono + rtoOf s c) none t.pidx twin) })
      (inject { packetFor u k m t with
        void := false
        body := data ++ (if (packetFor u k m t).last && m.notify && m.ptype ≠ 4 then wordBytes m.imm else []) } u) := by
  simp only [sendPacket, read, first, Option.isSome_none, Bool.false_eq_true, if_false]
  by_cases isRead : m.ptype = 3
  · simp only [isRead, if_true]
  · simp only [isRead, if_false, clear.resolve_right isRead]

/-! ### ACK_DELAY_EXPIRY -/

theorem sendAck_eq {s : State} {k : ConnKey} {c : RecvCtx} (ctx : findRx s k = some c) :
    sendAck k s = modRx k (fun x => { x with sinceAck := 0, maxLoad := 0, ackDue := none, lastSack := sackOf c })
      (inject (replyPacket s k 0x41 c.cum 16 0 true (leBytes 4 c.cum ++ leBytes 8 (sackOf c) ++ leBytes 1 c.maxLoad ++ [0, 0, 0])) s) := by
  simp only [sendAck, ctx]

/-! ### RTO_EXPIRY -/

/-- What RTO_EXPIRY looks for: the packet of a PSN that is neither covered nor kept back. -/
def rtoRuns (s : State) (psn : Nat) (p : TxMsg × TxPacket) : Bool :=
  p.2.psn == psn && p.2.sent && !p.2.lost && !stopped s p.1 && p.1.rnrAt.isNone &&
    ((!p.2.settled && !p.2.sacked) || unanswered p.1)

section
variable {s : State} {k : ConnKey} {psn : Nat} {c : SendCtx} {m : TxMsg} {t : TxPacket} (run : running s = true)
  (ctx : findTx s k = some c) (well : c.failAt = none) (waits : (ctxPackets c).find? (rtoRuns s psn) = some (m, t))
include run ctx well waits

/-- The packet times out: its connection begins to fail, or sends it again under twice the backoff. -/
theorem rtoExpiry_eq : ∃ u, u = modDlv (fun d => { d with timeouts := satAdd 16 d.timeouts 1 }) (waitMono t.due s) ∧
    rtoExpiry k psn s =
      if ((oldest c).elim true fun o => o.2.psn == psn) && decide (retryLimit s ≤ t.resends) then
        startFailure k u
      else modTx k (fun x => { x with
        backoff := min (2 * x.backoff) 256
        rate := if k.vc = 8 then x.rate else max (rMin s) (x.rate / 2)
        tDec := u.clk.mono
        msgs := x.msgs.map fun m => { m with packets := m.packets.map fun y =>
          if y.psn = psn then { y with lost := true } else y } }) u := by
  unfold rtoRuns at waits
  refine ⟨_, rfl, ?_⟩
  simp only [rtoExpiry, ctx, waits, well, run, Option.isSome_none, Bool.not_true, Bool.or_self, Bool.false_eq_true, if_false]
  cases oldest c <;> rfl

end

/-! ### RNR_RESEND and CONNECTION_FAIL -/

theorem rnrResend_eq {s : State} {k : ConnKey} {psn t : Nat} {c : SendCtx} {m : TxMsg} (ctx : findTx s k = some c)
    (holds : c.msgs.find? (fun m => m.packets.any fun t => t.psn == psn) = some m) (wait : m.rnrAt = some t) :
    rnrResend k psn s = if m.packets.any (fun y => decide (retryLimit s ≤ y.resends)) then startFailure k (waitMono t s)
      else modTx k (fun c => { c with
        msgs := c.msgs.map fun x => if x.packets.any (fun y => y.psn == psn) then
          { x with rnrAt := none, packets := x.packets.map fun y => { y with lost := y.sent && !y.settled } } else x })
        (waitMono t s) := by
  simp only [rnrResend, ctx, Option.bind_some, holds, wait]

theorem connectionFail_failed {s : State} {k : ConnKey} {c : SendCtx} {t : Nat} (ctx : findTx s k = some c)
    (failed : c.failAt = some t) : connectionFail k s = admitWaits (each c.msgs endOwner
      (modDlv (fun d => { d with tx := d.tx.filter fun x => x.key != k }) (waitMono t s))) := by
  simp only [connectionFail, ctx, failed]
  rfl

theorem connectionFail_worn {s : State} {k : ConnKey} {c : SendCtx} {m : TxMsg} {t : Nat} (ctx : findTx s k = some c)
    (well : c.failAt = none) (worn : c.msgs.find? (fun m => m.wornAt.isSome) = some m) (since : m.wornAt = some t) :
    connectionFail k s = admitWaits (noRouteEnds k m (waitMono t s)) := by
  simp only [connectionFail, ctx, well, worn, since, Option.getD_some]

/-! ### The obligation -/

/-- Settles O28: each timer by its operation on the context that it belongs to. -/
theorem deliveryTimersExpire : Obligations.DeliveryTimersExpire := by
  unfold Obligations.DeliveryTimersExpire
  refine ⟨fun s u k c m t q r cells run ctx well next hu => ?eligible,
    fun s u k m t data twin read clear first => sendPacket_plain read clear first,
    fun s k c t run ctx due => ?ackDelay, fun s k c ctx => sendAck_eq ctx,
    fun s u k psn c m t cells run ctx well waits hu => ?rto, fun s k psn t c m ctx holds wait => congrArg _ (rnrResend_eq ctx holds wait),
    fun s k c t ctx failed => congrArg _ (connectionFail_failed ctx failed),
    fun s k c m t ctx well worn since => congrArg _ (connectionFail_worn ctx well worn since),
    fun s k c ctx => ?receiver, fun s k c cells ctx idle well => ?sender⟩
  case eligible =>
    have now : exec (.packetEligible k) s = .next (packetEligible k s) := congrArg _ (if_neg cells)
    obtain ⟨u', hu', paced⟩ := packetEligible_eq run ctx well next
    rw [now, paced, hu'.trans hu.symm]
    exact ⟨fun route => by rw [if_pos route], fun none => by rw [if_neg (by rw [none]; decide)],
      fun i qi ord owner unsent docket => noRouteEnds_unsent k owner unsent docket⟩
  case ackDelay => simp only [exec, execAckDelayExpiry, ackDelayExpiry, ctx, Option.bind_some, due, run, if_true]
  case rto =>
    have now : exec (.rtoExpiry k psn) s = .next (rtoExpiry k psn s) := congrArg _ (if_pos cells)
    obtain ⟨u', hu', expired⟩ := rtoExpiry_eq run ctx well waits
    rw [now, expired, hu'.trans hu.symm]
    refine ⟨fun first many => congrArg _ (if_pos ?_), fun few => congrArg _ (if_neg ?_)⟩
    · obtain ⟨o, ho, same⟩ := Option.map_eq_some_iff.mp first
      simp only [ho, Option.elim_some, same, beq_self_eq_true, many, decide_true, Bool.and_self]
    · rw [decide_eq_false (Nat.not_le.mpr few), Bool.and_false]
      decide
  case receiver =>
    refine ⟨?_, fun n e entry ahead => ?_⟩
    · simp only [exec, execRxContextExpiry, rxContextExpiry, ctx]
    · simp only [exec, execResponseRecordExpiry, responseRecordExpiry, ctx, entry, ahead, Bool.false_and, Bool.false_eq_true, if_false]
  case sender =>
    simp only [exec, execTxContextExpiry, cells, if_true, txContextExpiry, ctx, idle, well, Option.isNone_none, Bool.and_self]

end Sys2Proof.Machine
end

section
/-! PROOFS. Collective handles: COLL_OPEN, COLL_RUN and COLL_CLOSE (11_collectives.md R265 to R273, R287, R288). -/
namespace Sys2Proof.Machine

/-! ### The run in progress of a handle -/

/-- With a run in progress, `withRun` does its work on it. -/
theorem withRun_running {s : State} {i h : Nat} {c : Coll} {r : CollRunSt} (handle : getColl s i h = some c)
    (run : c.run = some r) (f : Coll → CollRunSt → State → State) : withRun i h f s = f c r s := by
  simp only [withRun, handle, run]

/-! ### COLL_OPEN -/

section
variable {i qi : Nat} {q : Queue} {r : Run} {s u : State} {g : Seg} {rd : MemRead}
  (source : near (source r (dSrc (runWords q r)) (4 * coCount (runWords q r))) = some g)
include source

/-- Without room in the shared galley the open waits. -/
theorem collOpen_waits (full : listRoom (coCount (runWords q r)) s = false) : collOpen i qi q r s = s := by
  simp only [collOpen, source, full, Bool.not_false, if_true]

variable (room : listRoom (coCount (runWords q r)) s = true)
  (read : readSeg i g (dSrc (runWords q r)) (4 * coCount (runWords q r)) s = (rd, u))
include room read

theorem collOpen_unread {f : Nat × Nat} (failed : rd.fail = some f) : collOpen i qi q r s =
    settle i qi r.ord { settledAs 6 0 f.2 with twin := rd.twin } (latchAll rd.events u) := by
  simp only [collOpen, source, room, Bool.not_true, Bool.false_eq_true, if_false, read, failed]
  rfl

/-- A list of distinct ranks of this fabric, with this member's own in it, makes a handle with the bins it got. -/
theorem collOpen_listed {e : Endpoint} (good : rd.fail = none) (bound : r.bound = some e)
    (legal : (((listRanks rd.bytes (coCount (runWords q r))).any fun k => decide (2 ^ 18 ≤ k)) ||
      decide ((listRanks rd.bytes (coCount (runWords q r))).eraseDups.length < coCount (runWords q r)) ||
      (listRanks rd.bytes (coCount (runWords q r))).count e.myRank != 1) = false)
    (known : ∀ k ∈ listRanks rd.bytes (coCount (runWords q r)),
      ((rankOf e k).map fun t => framePort (latchAll rd.events u) t.1) = some none)
    (ready : ((rankOf e ((listRanks rd.bytes (coCount (runWords q r))).headD 0)).all fun t =>
      (listRanks rd.bytes (coCount (runWords q r))).headD 0 == e.myRank ||
        txReady (latchAll rd.events u) (connTo (latchAll rd.events u) q 8 t)) = true) :
    collOpen i qi q r s = openHandle i
      (newColl (reserveBins i (coBins (runWords q r)) (latchAll rd.events u)).2 q e qi r (runWords q r) (crc32 rd.bytes)
        (reserveBins i (coBins (runWords q r)) (latchAll rd.events u)).1 (listRanks rd.bytes (coCount (runWords q r))))
      (modRun i qi r.ord (fun x => { x with executed := true, twin := rd.twin })
        (reserveBins i (coBins (runWords q r)) (latchAll rd.events u)).2) := by
  have unreachable : (listRanks rd.bytes (coCount (runWords q r))).find? (fun k =>
      match rankOf e k with | some t => (framePort (latchAll rd.events u) t.1).isSome | none => true) = none := by
    rw [List.find?_eq_none]
    intro k listed
    obtain ⟨t, rank, port⟩ := Option.map_eq_some_iff.mp (known k listed)
    simp only [rank, port, Option.isSome_none, Bool.false_eq_true, not_false_eq_true]
  simp only [collOpen, source, room, Bool.not_true, Bool.false_eq_true, if_false, read, good, bound, legal]
  split
  · next k named => exact absurd (unreachable.symm.trans named) (Option.some_ne_none k).symm
  · simp only [ready, Bool.not_true, Bool.false_eq_true, if_false]

end

/-- The handle of an open takes its number and goes on by the place of this member. -/
theorem openHandle_eq {s : State} {i h : Nat} (c : Coll)
    (free : (List.range (fld (wd (getInst s i).record 1) 28 11)).find? (fun k => (tget (getInst s i).colls k).isNone) = some h) :
    ∃ t, t = modInst i (fun y => { y with colls := tset y.colls h c }) s ∧ openHandle i c s =
      if memberCount c = 1 then openDone i h (decide (c.granted ≠ 0)) t
      else if c.index = 0 then decideOpen i h (each s.collDev.joins (fun j t => countJoin i h j t)
        (modColl i h (fun y => { y with joined := [(0, decide (c.granted ≠ 0))] }) t))
      else sendSync i h c 0 0x82 0 (joinBody c) t :=
  ⟨_, rfl, by simp only [openHandle, free]⟩

/-- All joined, the coordinator tells every member. -/
theorem decideOpen_joined {s : State} {i h : Nat} {c : Coll} (handle : getColl s i h = some c) (opens : c.st = .opening)
    (first : c.index = 0) (all : memberCount c ≤ c.joined.length) :
    ∃ f, f = (decide (c.bins ≠ 0) && c.joined.all (·.2)) ∧
      decideOpen i h s = openDone i h f (toMembers i h c 0x83 0 (leBytes 1 (if f then 1 else 0)) s) :=
  ⟨_, rfl, by simp only [decideOpen, handle, opens, first, ne_eq, not_true_eq_false, Nat.not_lt.mpr all, or_self, if_false]⟩

/-! ### COLL_RUN -/

/-- A run waits for the open, for what stands before it and for its connections. -/
def runHeld (s : State) (c : Coll) (h : Nat) (q : Queue) (r : Run) (i : Nat) : Prop :=
  c.st = .opening ∨ c.run.isSome = true ∨ earlierOn s i h r.ord opCollRun = true ∨
    earlierOn s i h r.ord opCollClose = true ∨ runWaits s c (runWords q r) = true

section
variable {i qi : Nat} {q : Queue} {r : Run} {s : State} {c : Coll} (handle : getColl s i (dHandle (runWords q r)) = some c)
include handle

theorem collRun_held (held : runHeld s c (dHandle (runWords q r)) q r i) : collRun i qi q r s = s := by
  unfold runHeld at held
  simp only [collRun, handle, held, if_true]

/-- A run of an OPEN handle, of whose number no END has come, takes the number and begins. -/
theorem collRun_begins {g e : Seg} {k : Nat} (free : ¬ runHeld s c (dHandle (runWords q r)) q r i)
    (number : k = nextNumber c (c.skipped.length + 1) c.nextRun)
    (from_ : near (source r (dSrc (runWords q r)) (dLen (runWords q r))) = some g)
    (to_ : near (target r (dDst (runWords q r)) (dLen (runWords q r))) = some e) (opened : c.st = .open)
    (unended : c.ends.find? (fun x => x.1 == k % 2 ^ 32) = none) :
    ∃ v, v = modColl i (dHandle (runWords q r)) (fun y => { y with
        nextRun := k + 1
        skipped := y.skipped.filter (fun x => decide (k < x))
        ends := y.ends.filter (fun x => x.1 != k % 2 ^ 32) }) s ∧
      collRun i qi q r s = if (streamElems c.fmt (dLen (runWords q r))).getD 0 = 0 then
          settle i qi r.ord { settledOk 0 with
            foldDenied := foldDenied c (fld (wd (runWords q r) 5) 16 2), extra := place (memberRank c c.index) 0 18 } v
        else activateRun i (dHandle (runWords q r)) c r (runWords q r) (k % 2 ^ 32) g (markExecuted i qi r.ord v) := by
  subst number
  unfold runHeld at free
  refine ⟨_, rfl, ?_⟩
  simp only [collRun, handle]
  rw [if_neg free]
  simp only [from_, to_, opened, unended]

end

/-- A handle takes up a run: of the bins of that number those that fit it stay. -/
def enterRun (number : Nat) (n : CollRunSt) (c : Coll) : Coll :=
  { c with
    run := some n
    binChunks := c.binChunks.filter fun b => b.run != number || (b.mode == n.mode && b.elements == n.elements && n.folds) }

/-! ### COLL_CLOSE -/

section
variable {i qi : Nat} {q : Queue} {r : Run} {s : State} {c : Coll} (handle : getColl s i (dHandle (runWords q r)) = some c)
include handle

theorem collClose_opening (opens : c.st = .opening) : collClose i qi q r s =
    markExecuted i qi r.ord (modColl i (dHandle (runWords q r)) (fun y => { y with closing := y.closing ++ [(qi, r.ord)] }) s) := by
  simp only [collClose, handle, opens, if_true]

theorem collClose_idle (opened : c.st ≠ .opening) (idle : c.run = none)
    (last : earlierOn s i (dHandle (runWords q r)) r.ord opCollRun = false) : collClose i qi q r s =
    settle i qi r.ord (settledOk 0) (dropColl i (dHandle (runWords q r)) (toMembers i (dHandle (runWords q r)) c 0x86 0 [] s)) := by
  simp only [collClose, handle, opened, idle, last, Option.isSome_none, Bool.false_eq_true, or_self, if_false]

end

/-! ### The obligation -/

/-- Settles O31: each collective docket by what its handle and its memory answer. -/
theorem handlesOpenRunClose : Obligations.HandlesOpenRunClose := by
  unfold Obligations.HandlesOpenRunClose
  refine ⟨fun s u u1 d q r g rd ready hu source read => ?list, fun s u u1 d q r g rd e l ready hu source room read good bound hl legal
      known tx => ?listed, fun s i h c free => ?handle, fun s i h c handle opens first all => decideOpen_joined handle opens first all,
    fun s u v d q r c k g e ready hu handle free number from_ to_ hv opened unended => ?begins,
    fun s u d q r c ready hu handle held => ?held, fun s u i h number c r w g rd n read handle hn => ?active,
    fun s u d q r c ready hu handle => ?close⟩
  case list =>
    have now : exec (.collOpen d) s = .next (collOpen d.inst d.queue q r u) := congrArg _ ((start_ready ready).trans (by rw [hu]))
    rw [now]
    exact ⟨fun full => congrArg _ (collOpen_waits source full), fun f room failed => congrArg _ (collOpen_unread source room read failed)⟩
  case listed =>
    subst hl
    refine ⟨_, _, Prod.mk.eta.symm, ?_⟩
    have now : exec (.collOpen d) s = .next (collOpen d.inst d.queue q r u) := congrArg _ ((start_ready ready).trans (by rw [hu]))
    rw [now, collOpen_listed source room read good bound legal known tx]
  case handle =>
    obtain ⟨t, ht, opened⟩ := openHandle_eq c free
    rw [opened]
    refine ⟨t, ht, fun alone => if_pos alone, fun others member => ?_, fun others coordinator none => ?_⟩
    · rw [if_neg others, if_neg member]
    · rw [if_neg others, if_pos coordinator, none]
      rfl
  case begins =>
    obtain ⟨v', hv', begun⟩ := collRun_begins (qi := d.queue) handle free number from_ to_ opened unended
    have now : exec (.collRun d) s = .next (collRun d.inst d.queue q r u) := congrArg _ ((start_ready ready).trans (by rw [hu]))
    rw [now, begun, hv'.trans hv.symm]
  case held =>
    have now : exec (.collRun d) s = .next (collRun d.inst d.queue q r u) := congrArg _ ((start_ready ready).trans (by rw [hu]))
    rw [now, collRun_held handle (not_not.mp held)]
  case active =>
    refine ⟨modColl i h (enterRun number n) (latchAll rd.events u), ?_, rfl, fun f failed => ?_, fun good => ?_⟩
    · rw [getColl_modColl, handle]
      rfl
    · subst hn
      simp only [activateRun, read, failed]
      rfl
    · subst hn
      simp only [activateRun, read, good]
      rfl
  case close =>
    have now : exec (.collClose d) s = .next (collClose d.inst d.queue q r u) := congrArg _ ((start_ready ready).trans (by rw [hu]))
    rw [now]
    exact ⟨fun opens => congrArg _ (collClose_opening handle opens),
      fun opened idle last => congrArg _ (collClose_idle handle opened idle last)⟩

end Sys2Proof.Machine
end

section
/-! PROOFS. The timers of collective opens, runs and the laggard query (11_collectives.md R268, R284 to R286). -/
namespace Sys2Proof.Machine

/-! ### Opens that do not complete -/

section
variable {s : State} {i h : Nat} {c : Coll} (handle : getColl s i h = some c) (opens : c.st = .opening)
  (runs : ticking s = true) (due : c.openTick + 3 ≤ tickNow s)
include handle opens runs due

/-- A coordinator that lacks a JOIN tells every member and ends its open with the lowest rank missing. -/
theorem gatherTimeout_missing {j : Nat} (first : c.index = 0)
    (missing : (List.range (memberCount c)).find? (fun j => !c.joined.any (·.1 == j)) = some j) : gatherTimeout i h s =
      openFail i h (memberRank c j) (toMembers i h c 0x85 0 (leBytes 4 (endWord (memberRank c j) 0)) s) := by
  simp only [gatherTimeout, handle, opens, first, runs, not_lt.mpr due, ne_eq, not_true_eq_false, Bool.not_true,
    Bool.false_eq_true, or_self, if_false, missing]

/-- A member without DECIDE names the coordinator. -/
theorem openTimeout_due : openTimeout i h s = openFail i h (memberRank c 0)
    (waitPtp (s.time.edge - (tickNow s - (c.openTick + 3)).toNat * period s + 10000) s) := by
  simp only [openTimeout, handle, opens, runs, not_lt.mpr due, ne_eq, not_true_eq_false, Bool.not_true, Bool.false_eq_true,
    or_self, if_false]

end

/-! ### The run in progress and its query -/

section
variable {s : State} {i h : Nat} {c : Coll} {r : CollRunSt} (handle : getColl s i h = some c) (run : c.run = some r)
include handle run

/-- Patience over, the run asks the member it waits for. -/
theorem collPatience_over (runs : ticking s = true) (elapsed : r.startTick + r.patience ≤ tickNow s) (fresh : c.query = none) :
    collPatience i h s = askMember i h ((waitedFor c r).getD (readyMissing c r)) [] s := by
  simp only [collPatience, withRun_running handle run, runs, elapsed, fresh, Option.isNone_none, decide_true, Bool.and_self, if_true]

theorem queryTimeout_asked {j t : Nat} {seen : List Nat} (asked : c.query = some (j, t, seen)) :
    queryTimeout i h s = settleName i h (memberRank c j) (waitMono (t + 10000) s) := by
  simp only [queryTimeout, withRun_running handle run, asked]

theorem askMember_running (j : Nat) (seen : List Nat) : askMember i h j seen s =
    if j = c.index ∨ j ∈ seen then settleName i h (memberRank c j) s
    else sendSync i h c j 0x87 r.number [] (modColl i h (fun y => { y with query := some (j, s.clk.mono, seen ++ [j]) }) s) := by
  rw [askMember, withRun_running handle run]

theorem settleName_running (rank : Nat) : settleName i h rank s =
    endLaggard i h rank (toMembers i h c 0x85 r.number (leBytes 4 (endWord rank 0)) s) := by
  rw [settleName, withRun_running handle run]

/-- The pieces without a gap stay, the rest of the destination is undefined, and the run leaves its handle. -/
theorem endLaggard_running (rank : Nat) {k : List Nat} (kept : k = if r.folds then [] else keptPieces c r (memberCount c) 0) :
    endLaggard i h rank s = noteLaggard i r.ord h rank (closeRun i h r.number false (settle i c.queue r.ord
      { settledAs 7 (sumOf (pieceBytes c r.elements) k) (rank % 65536) with foldDenied := foldDenied c r.mode, twin := r.twin }
      (spoilRun i c r (if k = [] then undefRun i c r.ord s
        else each ((List.range (memberCount c)).filter fun x => !k.contains x) (undefPiece i c r) s)))) := by
  subst kept
  rw [endLaggard, withRun_running handle run]
  rfl

end

/-! ### The obligation -/

/-- Settles O33: each timer by the open or the run that it finds. -/
theorem collectiveTimersExpire : Obligations.CollectiveTimersExpire := by
  unfold Obligations.CollectiveTimersExpire
  refine ⟨fun s ep key dev sep => rfl, fun s i h j c handle opens runs due => ⟨fun first missing => ?gather, ?unanswered⟩,
    fun s i h c r handle run => ⟨fun runs elapsed fresh => ?patience, fun j t seen runs asked => ?query,
      fun j seen => askMember_running handle run j seen, fun rank => settleName_running handle run rank⟩,
    fun s i h rank c r k handle run kept => endLaggard_running handle run rank kept⟩
  case gather => exact congrArg _ (gatherTimeout_missing handle opens runs due first missing)
  case unanswered => exact congrArg _ (openTimeout_due handle opens runs due)
  case patience => exact congrArg _ (collPatience_over handle run runs elapsed fresh)
  case query => exact congrArg _ ((if_pos runs).trans (queryTimeout_asked handle run asked))

end Sys2Proof.Machine
end

section
/-! PROOFS. The chunks of a collective at their target (11_collectives.md R273, R276 to R282; 12_fabric_cells_routing.md R301, R313). -/
namespace Sys2Proof.Machine

/-! ### Packets of VC 2 -/

/-- The four instructions of VC 2 are one operation. -/
theorem exec_chunkPacket {p : Packet} (kind : p.ptype = 0x10 ∨ p.ptype = 0x11 ∨ p.ptype = 0x12 ∨ p.ptype = 0x13) (s : State) :
    exec (if p.ptype = 0x10 then .collStep p else if p.ptype = 0x11 then .collFold p else if p.ptype = 0x12 then
      .collResult p else .collPiece p) s = .next (collData p.ptype p s) := by
  rcases kind with k | k | k | k <;> rw [k] <;> rfl

/-- A new packet of a chunk reaches its handle. -/
theorem collData_fresh {p : Packet} {s : State} {t : Nat} (here : arrives s p t = true)
    (fresh : requestFresh p (consume p s) = true) : collData t p s = collPacket p (requestContext p (consume p s)) := by
  simp only [collData, here, if_true, request_fresh fresh]

theorem collPacket_stray {p : Packet} {s : State} (stray : collOf s p = none) : collPacket p s = acknowledge p p.last s := by
  simp only [collPacket, stray]

/-- A chunk's record with one more packet of it. -/
def gather (p : Packet) (m : RxMsg) : RxMsg :=
  { m with
    seg := none, imm := p.h3, counted := m.counted + payloadLen p.msgLen (segOf p - 16) p.pidx, pidxs := m.pidxs ++ [p.pidx]
    data := m.data ++ [(p.pidx, (p.body.drop 16).take (payloadLen p.msgLen (segOf p - 16) p.pidx))] }

/-- The bytes of a whole chunk, in the order of its packets. -/
def wholeChunk (p : Packet) (m : RxMsg) : List Byte :=
  (List.range (max 1 (ceilDiv p.msgLen (segOf p - 16)))).flatMap fun j => ((m.data.find? fun d => d.1 == j).map (·.2)).getD []

/-- A packet of a chunk is kept until the chunk is whole; the whole chunk reaches its handle. -/
theorem collPacket_gathers {p : Packet} {s : State} {i h : Nat} {c : Coll} (own : collOf s p = some (i, h, c)) :
    ∃ m, m = gather p (((findRx s (keyOf p)).bind fun y => y.msgs.find? fun z => z.psn == firstPsn p).getD
        (newMessage p i Win.empty Seg.empty none)) ∧
      collPacket p s = if m.counted < p.msgLen then
          acknowledge p false (modRx (keyOf p) (fun x => { x with msgs := (x.msgs.filter fun y => y.psn != m.psn) ++ [m] }) s)
        else acknowledge p true (chunkArrives i h
          (chunkOf p (p.body.take 16) (wholeChunk p m) ((memberAt c p.srcDev p.srcEp).getD 0)) (dropRxMsg (keyOf p) m.psn s)) :=
  ⟨_, rfl, by simp only [collPacket, own]; rfl⟩

/-! ### SMALL_RUN -/

theorem smallArrives_of_handle {p : Packet} {s : State} {i h : Nat} {c : Coll} (own : collOf s p = some (i, h, c)) :
    ∃ x, x = chunkOf p (p.body.take 16) (p.body.drop 16) ((memberAt c p.srcDev p.srcEp).getD 0) ∧
      smallArrives p s = chunkArrives i h { x with ptype := if x.step = 1 then 0x12 else 0x11 } s :=
  ⟨_, rfl, by simp only [smallArrives, own]⟩

/-! ### A whole chunk by its type -/

/-- A contribution goes to its bin whatever the hatch says. -/
theorem takeChunk_fold {s : State} {i h : Nat} {x : ChunkIn} (kind : x.ptype = 0x11) : takeChunk i h x s = foldChunk i h x s := by
  simp only [takeChunk, kind, if_true]

section
variable {s : State} {i h : Nat} {c : Coll} (handle : getColl s i h = some c)
include handle

theorem takeChunk_blocked {x : ChunkIn} (kind : x.ptype ≠ 0x11) (blocked : runBlocked s i c = true) :
    takeChunk i h x s = keepChunk i h x s := by
  simp only [takeChunk, kind, if_false, handle, blocked, if_true]

theorem takeChunk_open {x : ChunkIn} (kind : x.ptype ≠ 0x11) (clear : runBlocked s i c = false) : takeChunk i h x s =
    if x.ptype = 0x10 then ringChunk i h x s else if x.ptype = 0x12 then resultChunk i h x s else pieceChunk i h x s := by
  simp only [takeChunk, kind, if_false, handle, clear, Bool.false_eq_true]

/-! ### A ring chunk -/

/-- A ring chunk that fits the run: added while the reduction goes on, written where it is final, forwarded while steps are
left. -/
theorem ringChunk_fits {r : CollRunSt} {x : ChunkIn} {data : List Byte} (run : c.run = some r) (fits : chunkFits r x = true)
    (ring : r.folds = false) (mode : r.mode ≠ 3) (sender : x.sender = prevMember c) (step : x.step < ringSteps c r.mode)
    (piece : x.piece = ringPiece c r.mode x.step)
    (chunk : x.chunk < chunksOf false c.fmt (pieceUnits c.fmt r.elements (memberCount c) x.piece))
    (new : r.got.contains (x.step, x.chunk) = false)
    (length : x.data.length =
      unitsAt false c.fmt (pieceUnits c.fmt r.elements (memberCount c) x.piece) x.chunk * unitBytes c.fmt)
    (sum : data = if r.mode ≠ 2 ∧ x.step + 2 ≤ memberCount c then
        accBytes c.fmt (accAdd c.op (accOf c.fmt x.data) (accOf c.fmt (sourceChunk c r x.piece x.chunk)))
      else x.data) :
    ∃ t v, t = modCollRun i h (fun y => noteStamps x.stamps { y with got := y.got ++ [(x.step, x.chunk)] }) s ∧
      v = (if r.mode = 2 ∨ memberCount c ≤ x.step + 2 then placeFinal i h x.piece x.chunk data t else t) ∧
      ringChunk i h x s = pumpRun i h (if x.step + 1 < ringSteps c r.mode then modCollRun i h (fun y => { y with
          waiting := y.waiting ++
            [{ dst := nextMember c, ptype := 0x10, step := x.step + 1, piece := x.piece, chunk := x.chunk, data := data }] }) v
        else grantRoom i h (prevMember c) v) := by
  refine ⟨_, _, rfl, rfl, ?_⟩
  have adds : (r.mode != 2 && decide (x.step + 2 ≤ memberCount c)) = decide (r.mode ≠ 2 ∧ x.step + 2 ≤ memberCount c) := by
    simp only [Bool.decide_and, ne_eq, bne, decide_not, beq_eq_decide]
  have final : (!decide (r.mode ≠ 2 ∧ x.step + 2 ≤ memberCount c) || decide (x.step + 2 = memberCount c)) =
      decide (r.mode = 2 ∨ memberCount c ≤ x.step + 2) := by
    rw [← decide_not, ← Bool.decide_or, decide_eq_decide]
    omega
  have takes : (!chunkFits r x || r.folds || r.mode == 3 || x.sender != prevMember c || decide (ringSteps c r.mode ≤ x.step) ||
      x.piece != ringPiece c r.mode x.step ||
      decide (chunksOf false c.fmt (pieceUnits c.fmt r.elements (memberCount c) x.piece) ≤ x.chunk) ||
      r.got.contains (x.step, x.chunk) || x.data.length !=
        unitsAt false c.fmt (pieceUnits c.fmt r.elements (memberCount c) x.piece) x.chunk * unitBytes c.fmt) = false := by
    simp only [Bool.or_eq_false_iff, Bool.not_eq_false', bne_eq_false_iff_eq, beq_eq_false_iff_ne, decide_eq_false_iff_not,
      not_le]
    exact ⟨⟨⟨⟨⟨⟨⟨⟨fits, ring⟩, mode⟩, sender⟩, step⟩, piece⟩, chunk⟩, new⟩, length⟩
  rw [ringChunk, withRun_running handle run]
  dsimp only
  rw [if_neg (Bool.eq_false_iff.mp takes), adds, final]
  simp only [decide_eq_true_eq, ← sum]

/-! ### A contribution to a bin -/

/-- A bin whose every member has contributed has its result. -/
def fillBin (c : Coll) (b : BinChunk) : BinChunk :=
  if b.from_.length = memberCount c then { b with result := some (accBytes c.fmt b.acc) } else b

/-- A bin with one more contribution. -/
def contribute (c : Coll) (x : ChunkIn) (b : BinChunk) : BinChunk :=
  fillBin c { b with
    acc := accAdd c.op b.acc (accOf c.fmt x.data), from_ := b.from_ ++ [x.sender]
    latest := max b.latest x.stamps.latest
    latestBy := if b.latest < x.stamps.latest then x.stamps.by_ else b.latestBy
    earliest := min b.earliest x.stamps.earliest }

theorem foldIn_next {x : ChunkIn} {b : BinChunk}
    (bin : c.binChunks.find? (fun b => b.run == x.run && b.chunk == x.chunk) = some b)
    (new : b.from_.contains x.sender = false) (mode : b.mode = x.mode) (elements : b.elements = x.elements) :
    foldIn i h x s = deliverBin i h x.run x.chunk (modBin i h x.run x.chunk (contribute c x) s) := by
  simp only [foldIn, handle, bin, new, mode, elements, bne_self_eq_false, Bool.or_self, Bool.false_eq_true, if_false]
  rfl

end

section
variable (c : Coll) (x : ChunkIn) (b : BinChunk)

@[simp] theorem fillBin_from : (fillBin c b).from_ = b.from_ := by unfold fillBin; split <;> rfl

@[simp] theorem fillBin_acc : (fillBin c b).acc = b.acc := by unfold fillBin; split <;> rfl

theorem fillBin_result : (fillBin c b).result =
    if b.from_.length = memberCount c then some (accBytes c.fmt b.acc) else b.result := by
  unfold fillBin; split <;> rfl

theorem contribute_from : (contribute c x b).from_ = b.from_ ++ [x.sender] := fillBin_from c _

theorem contribute_acc : (contribute c x b).acc = accAdd c.op b.acc (accOf c.fmt x.data) := fillBin_acc c _

theorem contribute_result : (contribute c x b).result =
    if b.from_.length + 1 = memberCount c then some (accBytes c.fmt (contribute c x b).acc) else b.result := by
  rw [contribute_acc, contribute, fillBin_result, List.length_append, List.length_singleton]

end

/-! ### The obligation -/

/-- Settles O34: a packet by what its chunk has, and a whole chunk by its type. -/
theorem chunksAreTaken : Obligations.ChunksAreTaken := by
  unfold Obligations.ChunksAreTaken
  refine ⟨fun s u p kind here fresh hu stray => ?stray, fun s u p i h n c m bytes kind here fresh hu own hn hm hb => ?packet,
    fun s u p i h c x here fresh hu own hx => ?small, fun s i h c x handle => ⟨fun kind => ?fold, fun kind blocked => ?blocked,
      fun kind clear => ?clear⟩, fun s i h c r x data handle run fits ring mode sender step piece chunk new length sum =>
      ringChunk_fits handle run fits ring mode sender step piece chunk new length sum,
    fun s i h c x b handle bin new mode elements => ⟨contribute c x, foldIn_next handle bin new mode elements,
      contribute_from c x b, contribute_acc c x b, contribute_result c x b⟩⟩
  case stray => rw [exec_chunkPacket kind, collData_fresh here fresh, ← hu, collPacket_stray stray]
  case packet =>
    subst hn
    obtain ⟨m', hm', packet⟩ := collPacket_gathers own
    obtain rfl : m = m' := hm.trans hm'.symm
    rw [exec_chunkPacket kind, collData_fresh here fresh, ← hu, packet, hb]
    exact ⟨fun part => congrArg _ (if_pos part), fun whole => congrArg _ (if_neg (Nat.not_lt.mpr whole))⟩
  case small =>
    obtain ⟨x', hx', taken⟩ := smallArrives_of_handle own
    obtain rfl : x = x' := hx.trans hx'.symm
    simp only [exec, execSmallRun, here, if_true, takeSync, sync_fresh fresh, ← hu, taken]
  case fold => exact congrArg (drainAll i h) (takeChunk_fold kind)
  case blocked => exact congrArg (drainAll i h) (takeChunk_blocked handle kind blocked)
  case clear => exact congrArg (drainAll i h) (takeChunk_open handle kind clear)

end Sys2Proof.Machine
end

section
/-! PROOFS. The sync-plane messages of a collective at their target (11_collectives.md R265, R268, R269, R276, R284, R285). -/
namespace Sys2Proof.Machine

/-- A new message of VC 8 has its effect, is settled and is answered with SYNC_ACK. -/
theorem takeSync_fresh {p : Packet} {f : State → State} {s u : State} (fresh : requestFresh p s = true)
    (hu : u = requestContext p s) : takeSync p f s = syncReply p 0xC2 [] (settleSync p (f u)) := by
  rw [takeSync, sync_fresh fresh, hu]

/-- Such a message, where it arrives. -/
theorem next_takeSync {p : Packet} {f : State → State} {s u : State} {t : Nat} (here : arrives s p t = true)
    (fresh : requestFresh p (consume p s) = true) (hu : u = requestContext p (consume p s)) :
    (Host.Outcome.next (if arrives s p t then takeSync p f (consume p s) else s) : Host.Outcome State Fault Refusal) =
      .next (syncReply p 0xC2 [] (settleSync p (f u))) := by
  rw [if_pos here, takeSync_fresh fresh hu]

/-! ### JOIN and DECIDE -/

/-- What a coordinator holds of a JOIN. -/
def joinOf (p : Packet) (s : State) : HeldJoin :=
  { ep := p.dstEp, srcDev := p.srcDev, srcEp := p.srcEp, key := fld p.h3 0 32, count := leNat (p.body.take 4)
    crc := leNat ((p.body.drop 4).take 4), fmt := leNat ((p.body.drop 8).take 1), op := leNat ((p.body.drop 9).take 1)
    bins := leNat ((p.body.drop 10).take 1), grant := decide (leNat ((p.body.drop 11).take 1) = 1), tick := tickNow s }

/-- A JOIN that concerns no handle here is held. -/
theorem joinArrives_held {p : Packet} {s : State} (stray : collOf s p = none) :
    joinArrives p s = modCollDev (fun d => { d with joins := d.joins ++ [joinOf p s] }) s := by
  simp only [joinArrives, stray]
  rfl

section
variable {p : Packet} {s : State} {i h : Nat} {c : Coll} (own : collOf s p = some (i, h, c))
include own

/-- At an opening coordinator it is counted, and the open is decided once all have joined. -/
theorem joinArrives_opening (opens : c.st = .opening) (first : c.index = 0) : joinArrives p s =
    decideOpen i h (countJoin i h (joinOf p s) (modCollDev (fun d => { d with joins := d.joins ++ [joinOf p s] }) s)) := by
  simp only [joinArrives, own, opens, first, and_self, if_true]
  rfl

theorem decideArrives_opening (opens : c.st = .opening) (coordinator : memberAt c p.srcDev p.srcEp = some 0) :
    decideArrives p s = openDone i h (decide (leNat (p.body.take 1) = 1) && decide (c.granted ≠ 0)) s := by
  simp only [decideArrives, own, opens, coordinator, and_self, if_true]

/-! ### READY and END -/

/-- READY of a run that is live here raises the rooms that its sender grants. -/
theorem readyArrives_live {j : Nat} (member : memberAt c p.srcDev p.srcEp = some j)
    (live : runAhead c (runOfPacket p) = true ∨ c.run.map (·.number) = some (runOfPacket p) ∨
      (c.binChunks.any fun b => b.run == runOfPacket p) = true) :
    readyArrives p s = drainAll i h (pumpRun i h (deliverBins i h (modColl i h (fun y => { y with
      readies := (y.readies.filter fun x => !(x.1 == runOfPacket p && x.2.1 == j)) ++
        [(runOfPacket p, j, max (leNat (p.body.take 4)) ((roomsFrom c (runOfPacket p) j).getD 0))] }) s))) := by
  cases run : c.run with
  | none =>
    simp only [run, Option.map_none, reduceCtorEq, false_or, ← Bool.or_eq_true] at live
    simp only [readyArrives, own, member, run, Bool.or_false, live, Bool.not_true, Bool.false_eq_true, if_false]
  | some r =>
    simp only [run, Option.map_some, Option.some.injEq, ← beq_iff_eq (a := r.number), ← Bool.or_eq_true, ← Bool.or_assoc] at live
    simp only [readyArrives, own, member, run, live, Bool.not_true, Bool.false_eq_true, if_false]

theorem endArrives_opening (opens : c.st = .opening) (coordinator : memberAt c p.srcDev p.srcEp = some 0) :
    endArrives p s = openFail i h (leNat (p.body.take 4) % 2 ^ 18) s := by
  simp only [endArrives, own, opens, coordinator, and_self, if_true]

/-- END of the run in progress ends it. -/
theorem endArrives_running (opened : c.st ≠ .opening) (number : c.run.map (·.number) = some (runOfPacket p)) :
    endArrives p s = drainAll i h (endBy i h (leNat (p.body.take 4)) s) := by
  obtain ⟨r, run, same⟩ := Option.map_eq_some_iff.mp number
  simp only [endArrives, own, opened, false_and, if_false, run, same, beq_self_eq_true, if_true]

/-- END of another run is kept where that run is still to come. -/
theorem endArrives_other (opened : c.st ≠ .opening) (number : c.run.map (·.number) ≠ some (runOfPacket p)) :
    endArrives p s = drainAll i h (if runAhead c (runOfPacket p) then
        modColl i h (fun y => { y with ends := y.ends ++ [(runOfPacket p, leNat (p.body.take 4))] })
          (dropFold i h (runOfPacket p) s)
      else dropFold i h (runOfPacket p) s) := by
  cases run : c.run with
  | none => simp only [endArrives, own, opened, false_and, if_false, run, Bool.false_eq_true]
  | some r =>
    have differs : (r.number == runOfPacket p) = false :=
      beq_eq_false_iff_ne.mpr fun same => number (by rw [run, Option.map_some, same])
    simp only [endArrives, own, opened, false_and, if_false, run, differs, Bool.false_eq_true]

/-! ### CLOSE -/

/-- A coordinator that gathers withdraws the sender's JOIN; the sender's handle has ended in any case. -/
theorem closeArrives_member {j : Nat} (member : memberAt c p.srcDev p.srcEp = some j) :
    closeArrives p s = peerGone i h (memberRank c j) (if c.st = .opening ∧ c.index = 0 then
        modCollDev (fun d => { d with joins := d.joins.filter fun x =>
          !(x.ep == p.dstEp && x.key == c.key && x.srcDev == p.srcDev && x.srcEp == p.srcEp) })
          (modColl i h (fun y => { y with joined := y.joined.filter (·.1 != j) }) s)
      else s) := by
  simp only [closeArrives, own, member]

end

section
variable {s : State} {i h : Nat} {c : Coll} (handle : getColl s i h = some c)
include handle

theorem countJoin_fits {j : HeldJoin} {m : Nat} (fits : joinFits c j = true) (member : memberAt c j.srcDev j.srcEp = some m) :
    countJoin i h j s = modCollDev (fun d => { d with joins := delFirst d.joins (· == j) })
      (modColl i h (fun y => { y with joined := y.joined ++ [(m, j.grant)] }) s) := by
  simp only [countJoin, handle, fits, if_true, member]

/-- A peer's end breaks an OPEN handle and ends its run. -/
theorem peerGone_open (rank : Nat) (opened : c.st = .open) : peerGone i h rank s =
    endLaggard i h rank (modColl i h (fun y => { y with st := .broken, brokenBy := some rank }) s) := by
  simp only [peerGone, handle, opened]

/-- While the handle opens, the first peer that has ended is noted. -/
theorem peerGone_opening (rank : Nat) (opens : c.st = .opening) : peerGone i h rank s =
    modColl i h (fun y => { y with brokenBy := some (y.brokenBy.getD rank) }) s := by
  simp only [peerGone, handle, opens]

theorem peerGone_broken (rank : Nat) (broken : c.st = .broken) : peerGone i h rank s = s := by
  simp only [peerGone, handle, broken]

end

/-! ### QUERY and QUERY_ANSWER -/

/-- For whom this member waits in the run that a query names. -/
def queryRank (p : Packet) (s : State) : Option Nat :=
  (collOf s p).bind (fun y => y.2.2.run.bind fun r =>
    if r.number = runOfPacket p then (waitedFor y.2.2 r).map (memberRank y.2.2) else none)

theorem exec_queryPacket {p : Packet} {s u : State} (here : arrives s p 0x87 = true)
    (fresh : requestFresh p (consume p s) = true) (hu : u = requestContext p (consume p s))
    (room : recordRoom (keyOf p) u = true) : exec (.queryPacket p) s = .next (queryArrives p u) := by
  subst hu
  simp only [exec, execQueryPacket, here, if_true, sync_fresh fresh, room]

/-- The answer to the query that waits settles the name, or passes the question on. -/
theorem answerArrives_asked {p : Packet} {s : State} {m : TxMsg} {i h j t : Nat} {seen : List Nat} {c : Coll} {r : CollRunSt}
    (sent : syncSent s p = some m) (owner : m.owner = .coll i h) (kind : m.ptype = 0x87)
    (handle : getColl s i h = some c) (run : c.run = some r) (asked : c.query = some (j, t, seen))
    (rank : memberRank c j = m.rank) (number : fld m.h3 32 32 = r.number) :
    answerArrives p s = if leNat (p.body.take 1) = 0 then settleName i h (memberRank c j) (endSync p s)
      else askMember i h (c.members.idxOf (leNat ((p.body.drop 1).take 4) % 2 ^ 18)) seen (endSync p s) := by
  have kept : getColl (endSync p s) i h = some c := handle
  simp only [answerArrives, sent, owner, kind, ne_eq, not_true_eq_false, if_false, withRun_running kept run, asked, rank,
    number, or_self]

/-! ### The obligation -/

/-- Settles O32: each message by the handle that it concerns and the state of that handle. -/
theorem collectiveMessagesArrive : Obligations.CollectiveMessagesArrive := by
  unfold Obligations.CollectiveMessagesArrive
  refine ⟨fun s u p here fresh hu stray => ?held, fun s i h m c j handle fits member => countJoin_fits handle fits member,
    fun s u p i h c here fresh hu own opens first => ⟨joinOf p u, rfl, rfl, rfl, ?joins⟩,
    fun s u p i h c here fresh hu own opens coordinator => ?decides,
    fun s u p i h j c here fresh hu own member live => ?ready,
    fun s u p i h word c here fresh hu own hw => ?ends, fun s u p i h j c here fresh hu own member => ?closes,
    fun s u p here fresh hu room => ⟨queryRank p u, rfl, exec_queryPacket here fresh hu room⟩,
    fun s p m i h j t seen c r here sent owner kind handle run asked rank number => ?answers⟩
  case held =>
    have taken := next_takeSync (f := joinArrives p) here fresh hu
    rwa [joinArrives_held stray] at taken
  case joins =>
    have taken := next_takeSync (f := joinArrives p) here fresh hu
    rwa [joinArrives_opening own opens first] at taken
  case decides =>
    have taken := next_takeSync (f := decideArrives p) here fresh hu
    rwa [decideArrives_opening own opens coordinator] at taken
  case ready =>
    have taken := next_takeSync (f := readyArrives p) here fresh hu
    rwa [readyArrives_live own member live] at taken
  case ends =>
    subst hw
    have taken := next_takeSync (f := endArrives p) here fresh hu
    refine ⟨fun opens coordinator => ?_, fun opened number => ?_, fun opened number => ?_⟩
    · rwa [endArrives_opening own opens coordinator] at taken
    · rwa [endArrives_running own opened number] at taken
    · rwa [endArrives_other own opened number] at taken
  case closes =>
    have taken := next_takeSync (f := closeArrives p) here fresh hu
    rw [closeArrives_member own member] at taken
    refine ⟨fun other => ?_, fun opens first => ?_, fun v handle opened => peerGone_open handle _ opened,
      fun v handle opens => peerGone_opening handle _ opens, fun v handle broken => peerGone_broken handle _ broken⟩
    · rwa [if_neg other] at taken
    · rwa [if_pos (And.intro opens first)] at taken
  case answers => exact congrArg _ ((if_pos here).trans
      (answerArrives_asked sent owner kind handle run asked rank number))

end Sys2Proof.Machine
end
